-- ==== Sys2Proof/Word.lean ====
section
/-!
DEFINITION. The word types and the index types of the device (00_scope, Names and numbering).
-/

namespace Sys2Proof

/-- A register word. -/
abbrev Word := BitVec 32

/-- A byte of memory. -/
abbrev Byte := BitVec 8

/-- A line lane, 0 to 7. -/
abbrev Lane := Fin 8

/-- A host lane, 0 to 15. -/
abbrev HostLane := Fin 16

/-- A sheaf, 0 or 1. -/
abbrev Sheaf := Fin 2

end Sys2Proof
end

