-- ==== Sys2Proof/Machine/Operand.lean ====
section
/-!
DEFINITION. The types of the commands' operands.
-/

namespace Sys2Proof

/-- The kinds of block (Page index of R334). -/
inductive BK where
  | mgt | fwc | irq | rst | pwr | clk | thm | tim | msg | cal | madc | mfil | cdac | sec | nvs | mem | tst | pmc
  | evr | pin | shf | cap | lrx | req | idec | gbx | txp | lfr | ltx | hsd
  deriving DecidableEq, Repr

/-- A block: its kind and its instance number (00_scope, Names and numbering). -/
structure Blk where
  kind : BK
  inst : Nat
  deriving DecidableEq, Repr

/-- The power domains with registers (R365). -/
inductive Domain where
  | management
  | time
  | sheaf (s : Nat)
  | lane (l : Nat)
  deriving DecidableEq, Repr

/-- Who makes an access or holds a claim (R9, R264). -/
inductive Requester where
  | spi | i3c | fwc | tim | remote
  deriving DecidableEq, Repr

/-- The two management ports (R340, R346). -/
inductive PortId where
  | spi | i3c
  deriving DecidableEq, Repr

/-- A claimable resource (R349). -/
inductive Claim where
  | capture (s : Sheaf)
  | alarm (k : Fin 32)
  | gpio (g : Fin 8)
  deriving DecidableEq, Repr

/-- The supply rails, in the order of PWR_RAIL_STAT.OK (R387). -/
inductive Rail where
  | core | ana | hv | dac | vio | vbak
  deriving DecidableEq, Repr

/-- The reset sources that end by themselves after 10 µs (R389). -/
inductive Pulse where
  | global | warm | wdt
  deriving DecidableEq, Repr

/-- ADC samples of a stretch of symbols in a row, with what the equaliser needs around them: 1,055 before the first
and 79 after the last. `first` is the sample number of the first symbol, and `place` its place in the superframe (R78,
R89, R95). -/
structure LineSamples where
  codes : List Int
  first : Nat
  place : Nat
  deriving DecidableEq, Repr

/-- The number of symbols of a stretch. -/
def LineSamples.size (x : LineSamples) : Nat := x.codes.length - 1134

/-- The place in the superframe of the symbol 32 before a stretch. -/
def LineSamples.before (x : LineSamples) : Nat := x.place + 256 * 1472 - 32

/-- The samples of the symbols themselves. -/
def LineSamples.body (x : LineSamples) : List Int := (x.codes.drop 1055).take x.size

/-- The sum of the squares of the samples. -/
def LineSamples.power (x : LineSamples) : Nat := (x.body.foldl (fun acc c => acc + c * c) 0).toNat

/-- The data-path clocks of a stretch; a clock carries 160 symbols (R77). -/
def LineSamples.clocks (x : LineSamples) : Nat := (x.size + 159) / 160

/-- What one superframe brings a receiver: its samples; the recovered frequency in 0.01 ppm and the recovered phase in
1/128 UI that timing recovery has reached; firmware's CTLE code; the echo weights that their loop has reached; and the
symbols of the stretch at which the LMS updates the FFE taps (R76, R77, R86, R88, R97, R106, R108). -/
structure RxUpdate where
  samples : LineSamples
  freq : Int
  phase : Int
  ctle : Nat
  echo : List Int
  lms : List Nat
  deriving DecidableEq, Repr

/-- A received pilot field: the eight equalised samples, the eight ADC samples, and the sample number of the first
(R44, R78, R210). -/
structure PilotField where
  z : List Int
  x : List Int
  first : Nat
  deriving DecidableEq, Repr

/-- A converter without a spare: LRX, LTX, or the HSD of the first or the second host lane of a line lane (R14). -/
inductive Converter where
  | lrx
  | ltx
  | hsd (second : Bool)
  deriving DecidableEq, Repr

/-- A coefficient request that the host makes in link training (R186): a preset, the initial condition, one step of
PRE2, PRE1 or POST1 (0 to 2), or any other coefficient. -/
inductive TrainRequest where
  | preset (k : Nat)
  | initial
  | step (tap : Fin 3) (up : Bool)
  | other
  deriving DecidableEq, Repr

/-- One latency measurement of an alignment-marker period: the stamps T(N) and T(N+1) of the superframe, the index s
of the line symbol, the marker's host stamp and the hold, all times in 2^-8 ns (R244). -/
structure LatencyStamps where
  first : Nat
  next : Nat
  index : Nat
  host : Nat
  hold : Nat
  deriving DecidableEq, Repr

/-- What one alignment-marker period shows of line lane l. `tx` lists, for physical host lanes 2l and 2l + 1, each
PCS lane's marker: the errored symbols, or none where it is missing at its spacing; `rx` the same for logical lanes A
and B of the delivered stream. `arrive` gives the marker arrival of each of the 16 host lanes in 1/16 ns, `rxSkew` the
skew between the port's line lanes on receive in 1/16 ns, and `txLat` and `rxLat` the stamps for the latency
(R188, R189, R192, R244). -/
structure MarkerPeriod where
  tx : List (List (Option Nat))
  rx : List (List (Option Nat))
  arrive : List Nat
  rxSkew : Nat
  txLat : Option LatencyStamps
  rxLat : Option LatencyStamps
  deriving DecidableEq, Repr

/-- The end of a Gleaner window: of items 0 to 4 of a lane, whose estimates the Gleaner has accumulated; of item 5 with
the comparator's estimate; of a half of a REF_ANCHOR run with the estimates of ADC_REF and DAC_REF and the deviation of
VREF_EXT in 0.01 %; or of the start-up pass on a lane with the OFFSET, GAIN and SKEW that it has reached of each core.
Estimates are in 2^-16 of a trim's step (R209 to R212, R223 to R227). -/
inductive CalWindow where
  | adc
  | dac (est : Int)
  | anchor (adc dac vref : Int)
  | pass (core : List (List Int))
  deriving DecidableEq, Repr

/-- What waits for the background-operation pause (R442): a Gleaner run or a DAC sweep on a lane, a counter snapshot, or
the writing of a capture or a fill. -/
inductive Paused where
  | run (l : Lane)
  | sweep (l : Lane)
  | snapshot
  | capture (s : Sheaf)
  deriving DecidableEq, Repr

/-- What the work of a start-up phase shows: the bytes of the external flash, for BOOT = 0b10; LBIST's results for the
central logic, each sheaf's control logic and the slices, 5s + k; the words that the march read otherwise than it
expects, by MEMID and word address, with what it read (spare rows follow a memory's own); the checkers that gave a wrong
result, by MEMID, with the classes that they gave; and a cause of lockdown that persists, 1 SHIELD or 4 KEY_INTEGRITY,
else 0 (R404, R414, R420, R421, R423, R430, R485). -/
structure StartupResult where
  flash : List Byte
  centralFail : Bool
  sheafFail : BitVec 2
  sliceFail : List Nat
  words : List (Nat × Nat × List Nat)
  checkers : List (Nat × List Nat)
  fault : Nat
  deriving DecidableEq, Repr

end Sys2Proof
end

