-- ==== Sys2Proof/Syntax.lean ====
section
/-!
DEFINITION. The commands of the LN3280, one constructor per row of the command table.
-/

namespace Sys2Proof

/-- The commands. Each constructor's docstring gives the row's rule and summary. -/
inductive Instr where
  /-- R5: A write to a register field that has no row of its own stores or acts on the value as its access code
  defines. `owner` says that the write came as WRITE_OWNER, or from FWC in an OWNER mailbox command. -/
  | registerWrite (req : Requester) (owner : Bool) (addr value : Word)
  /-- R5: A read of an RC field returns the current value and then clears the field, and no event is lost. -/
  | readClear (req : Requester) (addr : Word)
  /-- R9: A read of the lowest word of a wide value copies the higher words into the requester's shadow. -/
  | wideLowWordRead (req : Requester) (addr : Word)
  /-- R9: A write of the highest word of a wide value commits the lower words staged for that requester. -/
  | wideHighWordWrite (req : Requester) (owner : Bool) (addr value : Word)
  /-- R27: A write of SHF_LANE_CFG.EN = 1 requests that the lane start. -/
  | laneEnable (l : Lane)
  /-- R27: A write of SHF_LANE_CFG.EN = 0 takes the lane to OFF, or takes it out of FAULT with cause NO_SLICE or
  CONVERTER. -/
  | laneDisable (l : Lane)
  /-- R27: An enabled lane leaves OFF for ACQUIRE once a slice, a sufficient performance level and both sheaf
  PLLs are available. -/
  | laneStart (l : Lane)
  /-- R32: The lane start completes when ADC_READY and LTX READY are both 1, and BUSY clears. -/
  | laneStartDone (l : Lane)
  /-- R32: The lane stop completes with its domain powered down, and a start recorded meanwhile then begins. -/
  | laneStopDone (l : Lane)
  /-- R22: A change of SHF_LANE_CFG.RATE on an enabled lane sends it to ACQUIRE, or to OFF with PL_WAIT when the
  level is too low. `half` is the new RATE: false 230 GBd, true 115 GBd. -/
  | rateChange (l : Lane) (half : Bool)
  /-- R22: A change of SHF_LANE_CFG.MODE on an enabled lane sends the lane to ACQUIRE. -/
  | modeChange (l : Lane) (mode : Fin 4)
  /-- R23: A change of SHF_LANE_CFG.ASSIST is stored without a change of lane state. -/
  | assistChange (l : Lane) (on : Bool)
  /-- R23: At the next superframe boundary GBX applies the new ASSIST setting, re-aligns the host outputs and
  sends idle for at most 4 µs. -/
  | assistRealign (l : Lane)
  /-- R67: A write of DIM_REQ = 1 requests DIM of the transmit direction. -/
  | dimReqSet (l : Lane)
  /-- R67: A write of DIM_REQ = 0 withdraws the request, or schedules the training burst. -/
  | dimReqClear (l : Lane)
  /-- R13: A change of the slice serving a lane sends the lane to ACQUIRE with fresh coefficients. -/
  | sliceReassign (l : Lane) (slice : Fin 5)
  /-- R14: An LRX or LTX that reports FAILED sends its lane to FAULT with cause CONVERTER. `c`: what failed. -/
  | converterFailed (l : Lane) (c : Converter)
  /-- R27: A lane in ACQUIRE with pilot lock, a converged FFE and a running decoder enters CANDLE. -/
  | laneCandle (l : Lane)
  /-- R105: At a superframe boundary a converged lane enters FULL, engaging the MLSE and soft decoding. -/
  | laneFull (l : Lane)
  /-- R507: A sheaf line or host PLL achieves lock and sets LINE_LOCK or HOST_LOCK. `host`: the host PLL, else
  the line PLL. -/
  | pllLock (sh : Sheaf) (host : Bool)
  /-- R507: A locked sheaf PLL loses lock in service, setting LINE_LOL or HOST_LOL and sending the enabled lanes
  to ACQUIRE. -/
  | pllLossOfLock (sh : Sheaf) (host : Bool)
  /-- R58: The transmitter builds a frame: it encodes two KIC-1428 codewords, interleaves, scrambles, maps and
  inserts pilots and stuff. `a` and `b` are the bits that arrive at host lanes 2l and 2l+1 for the frame. -/
  | txFrame (l : Lane) (a b : List Bool)
  /-- R47: At each transmit superframe boundary LFR_TX_SFC advances and the scrambler is reseeded. -/
  | txSuperframeBoundary (l : Lane)
  /-- R66: At frame 192 of a DIM superframe the transmitter sends the 64-frame training burst. -/
  | trainingBurstStart (l : Lane)
  /-- R44: A received pilot field is judged good or bad against the expected or complemented sequence. -/
  | rxPilotField (l : Lane) (frame : Fin 256) (field : PilotField)
  /-- R45: After 4 consecutive good pilot fields the receiver declares pilot lock. -/
  | pilotLock (l : Lane)
  /-- R45: After 4 consecutive bad pilot fields the receiver declares loss, and the lane re-enters ACQUIRE. -/
  | pilotLockLoss (l : Lane)
  /-- R50: The frame-0 overhead byte of a received superframe is compared with the predicted SFC. -/
  | rxSfcReceived (l : Lane) (v : Byte)
  /-- R50: Two consecutive superframes with counts v and v+1 give scrambler lock. -/
  | scrLock (l : Lane)
  /-- R50: 4 consecutive mismatched superframes, or the loss of pilot lock, clear SCR_LOCK. -/
  | scrLockLoss (l : Lane)
  /-- R145: Decoding resumes with the first superframe after scrambler lock returns, and the window restarts. -/
  | idecResume (l : Lane)
  /-- R69: The receiver enters DIM at the boundary after a marker superframe. -/
  | dimEntry (l : Lane)
  /-- R69: After the training burst the lane enters FULL at the next superframe boundary, keeping its
  coefficients. -/
  | dimExit (l : Lane)
  /-- R81: The input amplitude falls below LOS_THR, LOS_RAW and LOS become 1, and an active lane enters ACQUIRE.
  `amp` is the input amplitude in mVppd. -/
  | losSet (l : Lane) (amp : Nat)
  /-- R81: The input amplitude rises above 1.25 × LOS_THR and LOS_RAW becomes 0. `amp` is the input amplitude in
  mVppd. -/
  | losRawClear (l : Lane) (amp : Nat)
  /-- R81: After LOS_RAW has stayed 0 for the LOS_CLR time, LOS becomes 0. -/
  | losClear (l : Lane)
  /-- R83: In DIM, two superframe periods without a sent position set LOS_RAW. -/
  | dimSignalTimeout (l : Lane)
  /-- R76: Once per superframe the AGC steps the VGA and REQ_TR_FREQ and the clip count are updated. -/
  | rxSuperframeUpdate (l : Lane) (u : RxUpdate)
  /-- R76: After 16 superframes within the target band, AGC_DONE becomes 1. -/
  | agcDone (l : Lane)
  /-- R86: After 16 superframes with a small phase error and frequency offset, TR_LOCK becomes 1. -/
  | trLockAcquired (l : Lane)
  /-- R86: After 4 superframes failing the conditions, TR_LOCK becomes 0. -/
  | trLockLost (l : Lane)
  /-- R196: The host clock slew completes, and data may go out to the host. -/
  | hostClockSlewDone (l : Lane)
  /-- R91: Firmware searches echo delays and places and enables the four echo taps. A peak is a delay in UI and
  its height above the noise floor in 0.1 dB. -/
  | echoSearch (l : Lane) (peaks : List (Nat × Nat))
  /-- R98: Setting a freeze bit copies the values in use to the expert registers and stops the loop. `v` [4:0]
  is written to REQ_ADAPT, [5] to CTLE_FREEZE, [6] to AGC_FREEZE. -/
  | adaptFreeze (l : Lane) (v : BitVec 7)
  /-- R99: A write of REQ_FFE_CTRL.COMMIT requests the shadow FFE set, or is refused in COAST. -/
  | ffeCommit (l : Lane)
  /-- R99: At the next frame boundary the shadow taps, MAIN and echo settings are applied in one step. -/
  | ffeCommitApply (l : Lane)
  /-- R99: A write of REQ_FFE_CTRL.SNAP copies the live FFE settings into the read-back set. -/
  | ffeSnap (l : Lane)
  /-- R102: A lane that has not reached CANDLE within 20 ms of a warm start restarts from its reach-class
  values. -/
  | warmStartTimeout (l : Lane)
  /-- R103: 16 superframes of small tap updates with an SNR of at least 10 dB set FFE_CONV. -/
  | ffeConverged (l : Lane)
  /-- R103: 64 superframes of stable level values and targets set MLSE_CONV. -/
  | mlseConverged (l : Lane)
  /-- R106: At the end of a 64-superframe window the level means and sigmas, the SNR and VALID are updated. `h1`
  and `h2` are the targets that the level loop has reached. -/
  | measWindowEnd (l : Lane) (h1 h2 : BitVec 12)
  /-- R108: A write of START clears the histogram bins and starts counting. -/
  | histStart (l : Lane)
  /-- R108: After 2^LEN samples the histogram stops with DONE set. -/
  | histDone (l : Lane)
  /-- R113: ARM takes the claim and starts recording the selected lanes into rings. -/
  | capArm (sh : Sheaf) (req : Requester)
  /-- R113: ABORT stops a capture at the next block with state ABORTED. `written` is the number of bytes of each
  region written so far; `taken` gives, for each lane of the sheaf, the stretches of samples that its record holds,
  from the block of its oldest byte on: one for each set of values that were in use over it. -/
  | capAbort (sh : Sheaf) (written : Nat) (taken : List (List LineSamples))
  /-- R113: FILL starts writing CAP_FILL_PAT over the whole capture memory. -/
  | capFill (sh : Sheaf) (req : Requester)
  /-- R113: The fill completes, the state returns to IDLE and FILL_DONE is raised. -/
  | capFillDone (sh : Sheaf)
  /-- R111: The configured trigger event moves an armed capture to RUNNING on all selected lanes together.
  `written` is the number of bytes of each region written before the trigger. -/
  | capTrigger (sh : Sheaf) (written : Nat)
  /-- R111: After the post-trigger share is written the capture stops in DONE with its layout reported. `pos`
  gives each lane's oldest symbol: position, frame, scrambler lock and superframe count; `taken` each lane's
  samples, from the block of its oldest byte on, in one stretch for each set of values that were in use over them. -/
  | capDone (sh : Sheaf) (pos : List (Nat × Nat × Bool × Nat)) (taken : List (List LineSamples))
  /-- R121: IDEC takes one frame of line values, descrambles them, decodes both codewords and hands the data to
  GBX. `x` holds the samples of the 1,472 symbols of frame `f`. -/
  | idecFrame (l : Lane) (f : Fin 256) (x : LineSamples)
  /-- R140: A write of IDEC_CTRL.CLR sets every IDEC counter and the current window to 0. -/
  | idecClr (l : Lane)
  /-- R141: At the end of a 2^W-superframe window the window counts are reported and SD and SF are judged. -/
  | idecWindowEnd (l : Lane)
  /-- R137: The outer-code engine decodes one RS(544,514) codeword of the port and counts it. `carriers` names
  the logical host lane of each symbol: 2m and 2m + 1 for lanes A and B of line lane m. -/
  | ocCodeword (l : Lane) (set : Fin 2) (word carriers : List Nat)
  /-- R147: A write of GBX_OC_CTRL.CLR sets every outer-code counter of the GBX to 0. -/
  | gbxOcClr (l : Lane)
  /-- R162: SQUELCH set to 1 removes the differential swing within 20 ns. -/
  | squelchOn (l : Lane)
  /-- R162: SQUELCH returned to 0 schedules swing to resume at a superframe boundary. -/
  | squelchOff (l : Lane)
  /-- R157: A write of TXP_FIR_CTRL.COMMIT requests the shadow FIR, level and predistortion set. -/
  | txpCommit (l : Lane)
  /-- R157: The shadow set is applied at the next frame boundary, or within 1 µs when the transmitter does not
  run. -/
  | txpCommitApply (l : Lane)
  /-- R157: A write of TXP_FIR_CTRL.SNAP copies the live transmit values into the read-back set. -/
  | txpSnap (l : Lane)
  /-- R158: Firmware adapts the FIR or predistortion from peer level reports, at most once per 100 ms, through a
  commit. -/
  | txAdaptStep (l : Lane) (fir pd : List Int)
  /-- R160: A write of LTX_CFG.FS starts a ramp, or takes effect at once while the output is at common mode. -/
  | fsWrite (l : Lane) (fs : BitVec 5)
  /-- R167: A write of TXP_PAT.SEL, HALF or LEVEL is scheduled for the next superframe boundary. -/
  | patternSelect (l : Lane) (sel : BitVec 3) (half : BitVec 6) (level : BitVec 2)
  /-- R169: A write of LTX_LDIS sets the DIS and AUTO controls of LDIS[l], answered in the management domain. -/
  | ldisWrite (l : Lane) (dis auto : Bool)
  /-- R172: A write of 1 to TRIP clears it only while TRIP_ACTIVE = 0, and otherwise sets CONFLICT. -/
  | ldisTripClear (l : Lane)
  /-- R152: After a rate change hold, the transmitter resumes at the new rate at a superframe boundary. -/
  | txRateResume (l : Lane)
  /-- R153: After a slice change the output resumes at the new slice's first superframe boundary. -/
  | txSliceResume (l : Lane)
  /-- R183: The host input falls below 40 mVppd, HSD_STAT.LOS becomes 1 and marker lock ends. `amp` is the input
  amplitude in mVppd. -/
  | hostLosSet (h : HostLane) (amp : Nat)
  /-- R183: The host input rises above 80 mVppd and HSD_STAT.LOS becomes 0. `amp` is the input amplitude in
  mVppd. -/
  | hostLosClear (h : HostLane) (amp : Nat)
  /-- R183: The host CDR locks and adaptation of the receiver begins. `freq` is in 0.01 ppm; `long` says that
  the loss before it lasted more than 1 ms. -/
  | cdrLock (h : HostLane) (freq : Int) (long : Bool)
  /-- R183: The host CDR loses lock and marker lock ends at once. -/
  | cdrLockLoss (h : HostLane)
  /-- R182: The host receiver equaliser finishes adapting and RX_EQ_DONE becomes 1. The operands are the values
  that the adaptation has reached. -/
  | hostRxEqDone (h : HostLane) (ctle dfe1 : Nat) (ffe : List Nat)
  /-- R182: Setting HSD_RX_EQ.FREEZE copies the values in use into the registers and stops adaptation. -/
  | hsdRxFreeze (h : HostLane) (on : Bool)
  /-- R184: A write of HSD_TX_EQ is checked against the tap limit and the training state. -/
  | hsdTxEqWrite (h : HostLane) (pre2 pre1 post1 : BitVec 6) (swing : BitVec 4)
  /-- R185: A change of RX_INV or TX_INV inverts the signal within 1 µs. -/
  | hsdInvert (h : HostLane) (rx tx : Bool)
  /-- R186: A write of HSD_TRAIN.RESTART starts link training again. -/
  | trainRestart (h : HostLane)
  /-- R187: A host training request is applied to the transmitter within 1 ms and answered. -/
  | trainRequest (h : HostLane) (q : TrainRequest)
  /-- R187: 5 ms without a host answer repeats the request, and the third repeat fails training. -/
  | trainResponseTimeout (h : HostLane)
  /-- R187: The training exceeds HSD_TRAIN.TIMEOUT and STATE becomes FAILED. -/
  | trainTimeout (h : HostLane)
  /-- R187: Both receivers are declared ready and training ends with STATE DONE. -/
  | trainDone (h : HostLane)
  /-- R188: In each alignment-marker period GBX checks the markers of each host lane and judges lock or loss. -/
  | amPeriod (l : Lane) (p : MarkerPeriod)
  /-- R181: A change of PORT_W takes effect at once and drops the marker lock of the old and new ports. -/
  | portWWrite (l : Lane) (w : BitVec 3)
  /-- R195: The line transmit clock reaches the timing lane frequency and TX_TRACK becomes 1. -/
  | txClockSlewDone (l : Lane)
  /-- R202: A write of HSD_PRBS_CFG.GEN selects the host output pattern, ending any training. -/
  | prbsGenSelect (h : HostLane) (g : BitVec 2)
  /-- R202: A write of HSD_PRBS_CFG.CHK selects a receive checker and drops marker lock. -/
  | prbsChkSelect (h : HostLane) (c : BitVec 2)
  /-- R203: 64 consecutive matching symbols give checker lock. -/
  | prbsLock (h : HostLane)
  /-- R203: 64 errors in 256 symbols end checker lock and set LOST. -/
  | prbsLoss (h : HostLane) (compared errors : Nat)
  /-- R203: A write of HSD_PRBS_CFG.CLR sets the PRBS counters to 0. -/
  | prbsClr (h : HostLane)
  /-- R212: A Gleaner measurement window ends, and a run is judged by the repeat-agreement test. `lane` 8 is the
  device. -/
  | calWindowEnd (lane : Fin 9) (w : CalWindow)
  /-- R217: At a superframe boundary each pending trim moves by one step. `lane` 8 is the device. -/
  | calApplyStep (lane : Fin 9)
  /-- R211: At the stuff symbol of block 16 in frame 128 the out DAC cell returns and the next cell leaves. -/
  | dacCellSwap (l : Lane)
  /-- R223: The Gleaner start-up pass ends, writes the trims to Granary and sets STARTUP_DONE. -/
  | calStartupDone
  /-- R225: A write of CAL_CTRL.SAVE schedules the trims in use for storage at the next boundary. -/
  | calSave
  /-- R225: The trim save completes, SAVE_BUSY clears and SAVE_DONE is raised. -/
  | calSaveDone
  /-- R226: A REF_ANCHOR run without all its conversions after 10 ms is discarded. -/
  | refAnchorTimeout
  /-- R228: Every INTERVAL ms a DAC sweep on each enabled lane and a REF_ANCHOR round start. -/
  | calIntervalExpiry
  /-- R228: A write of CAL_CTRL.RUN bit l starts a DAC sweep on lane l. Bit l names lane l. -/
  | calRun (lanes : Byte)
  /-- R228: A write of CAL_CTRL.ANCHOR starts a REF_ANCHOR round. -/
  | calAnchor
  /-- R233: A write of CAL_REC_SEL copies the selected calibration record atomically. -/
  | calRecSelect (lane : BitVec 4) (item : BitVec 3)
  /-- R237: The time clock changes source and P is rescaled so that time stays continuous. `period` is the new
  clock's measured period in 2^-48 ns. -/
  | timeClockChange (period : Nat)
  /-- R238: The time PLL and TDCs become ready and FINE_READY becomes 1. -/
  | fineReady
  /-- R240: A write of TIM_CTRL.SET loads TIM_SET into the counter at the next tick. -/
  | timeSet
  /-- R240: A write of TIM_CTRL.STEP adds TIM_STEP to the counter at the next tick. -/
  | timeStep
  /-- R243: A write of TIM_SFTS_SEL copies the selected boundary stamp and count atomically. -/
  | sftsSelect (l : Lane) (rx : Bool)
  /-- R248: A PPS_IN edge is stamped and yields an offset measurement. `stamp` is the edge's Lantern time in
  2^-8 ns. -/
  | ppsInEdge (falling : Bool) (stamp : Nat)
  /-- R248: A write of TIM_HOST_OFS supplies one offset measurement for SRC = HOST. -/
  | hostOfsWrite (v : Word)
  /-- R252: No accepted measurement for TMO × 100 ms loses the source and enters holdover or free running. -/
  | sourceLoss
  /-- R253: A write of TIM_SERVO_CFG.SRC changes or restarts the time source at the next tick. `v` is the value
  written to TIM_SERVO_CFG. -/
  | servoSrcWrite (v : Word)
  /-- R254: After 1 s of edges within tolerance, TREF_OK becomes 1. -/
  | trefQualified
  /-- R254: Missing or off-frequency TREF edges clear TREF_OK and set TREF_LOS. -/
  | trefLos
  /-- R254: A change of TREF_FREQ clears TREF_OK without TREF_LOS and restarts qualification. -/
  | trefFreqWrite (f : BitVec 2)
  /-- R255: A write of TIM_PPS_OUT.EN = 1 claims and programs the alarm for a once-per-second pulse. -/
  | ppsOutEnable
  /-- R255: A write of EN = 0 releases the PPS_OUT alarm. -/
  | ppsOutDisable
  /-- R255: A write of TIM_PPS_OUT_OFS while enabled reprograms the alarm at once. -/
  | ppsOutOfsWrite (v : BitVec 30)
  /-- R255: A write of ALARM while enabled releases the old alarm and claims the new one. -/
  | ppsOutAlarmWrite (k : Fin 32)
  /-- R255: The pulse width elapses and PPS_OUT returns to its inactive level. -/
  | ppsOutPulseEnd
  /-- R259: At the end of each qualifying interval one oscillator table entry is updated and written to Granary.
  `y` is the mean applied rate in 2^-40, `t` the mean temperature in 2^-24 °C. -/
  | oscLearnUpdate (y t : Int)
  /-- R258: After EPOCH_DAYS of locked time the epoch advances, the next slot is cleared and the aging slope is
  set. -/
  | oscEpochAdvance
  /-- R262: A write of TIM_CTRL.OSC_CLEAR clears the whole oscillator table and restarts epoch 0. -/
  | oscClear
  /-- R260: Every second, or at a bin change, in holdover the predictor sets the rate and grows TIM_HOLD_EST.
  `second`: a second of holdover has passed; otherwise only the bin has changed. -/
  | holdoverPredict (second : Bool)
  /-- R263: A write of TIM_ALM_CTRL_k commits the staged values and enables, re-arms or claims the alarm. -/
  | alarmCtrlWrite (k : Fin 32) (v : Word) (req : Requester)
  /-- R264: The owner's write of RELEASE clears EN and OWNER. -/
  | alarmRelease (k : Fin 32) (req : Requester)
  /-- R265: The counter reaches an alarm instant, and the alarm fires to every block that names it. -/
  | alarmFire (k : Fin 32)
  /-- R272: Superframe header bytes received twice alike are accepted and reported. -/
  | faostHeader (l : Lane) (b1 b2 b3 : Byte)
  /-- R275: A received cell is checked by CRC and added to the lane's reassembly. `bytes` are the cell's 36
  bytes in sending order. -/
  | faostCell (l : Lane) (bytes : List Nat)
  /-- R276: A message still incomplete 8 superframes after its cell 0 is discarded. `time`: the reassembly of
  TIME messages, else the one of all other types. -/
  | reassemblyTimeout (l : Lane) (time : Bool)
  /-- R289: A received TIME message is recorded, and on the worker lane it completes a time exchange. -/
  | time (l : Lane)
  /-- R278: A received LEVEL_REPORT is delivered to FWC for transmit adaptation. -/
  | levelReport (l : Lane)
  /-- R295: A received remote read request is accepted for service or denied. -/
  | regRdReq (l : Lane)
  /-- R295: A received remote write request is accepted for service or denied. -/
  | regWrReq (l : Lane)
  /-- R287: A received remote read response enters the receive FIFO. -/
  | regRdRsp (l : Lane)
  /-- R287: A received remote write response enters the receive FIFO. -/
  | regWrRsp (l : Lane)
  /-- R287: A received APP message enters the receive FIFO, or is dropped when it is full. -/
  | app (l : Lane)
  /-- R477: A received HELLO starts the worker's side of a peer handshake. -/
  | hello (l : Lane)
  /-- R477: A received HELLO_REPLY continues the manager's side of the handshake. -/
  | helloReply (l : Lane)
  /-- R478: A received certificate chain piece is collected and checked. -/
  | cert (l : Lane)
  /-- R477: A received FINISH is verified and brings the session UP. -/
  | finish (l : Lane)
  /-- R479: A received ALERT ends the handshake or session. -/
  | alert (l : Lane)
  /-- R480: A received authenticated CLOSE ends the peer session. -/
  | close (l : Lane)
  /-- R279: A write of MSG_TX_PUSH queues the staged message and sets MSG_TX_RESULT. `word` is the value
  written. -/
  | msgTxPush (word : Word)
  /-- R281: MSG fixes the content of the next cell slot by priority: TIME, message in progress, response, timed,
  untimed or empty. `sfc` and `boundary`, in 2^-8 ns, are those of the superframe that the slot lies in. -/
  | faostCellSlot (l : Lane) (cell : Fin 7) (sfc : Word) (boundary : Nat)
  /-- R285: A write of MSG_CTRL.Q_FLUSH bit q empties queue q. Bit q names queue q. -/
  | msgQFlush (qs : Byte)
  /-- R286: A read of MSG_TS_ENTRY word 0 pops the oldest timestamp entry into the shadow. -/
  | msgTsPop (req : Requester)
  /-- R287: A write of MSG_CTRL.RX_POP removes the head of the receive FIFO. -/
  | rxPop
  /-- R287: A write of MSG_CTRL.RX_FLUSH empties the receive FIFO. -/
  | rxFlush
  /-- R297: The remote-access engine performs the words of a request and queues the response. -/
  | remoteAccessExecute
  /-- R278: Firmware sends a LEVEL_REPORT at most once per 100 ms while the lane is in FULL. `stats` gives each
  pattern's mean and sigma in 1/16 code. -/
  | levelReportSend (l : Lane) (stats : List (Int × Nat))
  /-- R301: A monitor converter completes a conversion in its slot, which is stamped and delivered to its user.
  `nv` is the voltage of the selected input in nanovolts, `stamp` the Lantern time that TIM gives the
  conversion, in 2^-16 ns. -/
  | madcConversion (conv : Fin 2) (slot : Fin 16) (nv : Int) (stamp : Nat)
  /-- R303: A write of MADC_RAW_CFG is applied unless its slots are held by another user. `v` is the value
  written. -/
  | madcRawCfgWrite (conv : Fin 2) (v : Word) (req : Requester)
  /-- R304: A change of PAIR or PAIR_CHAIN redistributes the conversions and resettles the chains. -/
  | madcPairWrite (pair : Bool) (chain : Fin 8)
  /-- R305: A write of MADC_REF.EN starts or stops the reference buffer. -/
  | madcRefWrite (en : Bool)
  /-- R305: About 500 µs after enable, SETTLED becomes 1. -/
  | madcRefSettled
  /-- R313: A change of chain configuration clears the filter state and starts settling. `v` is the value
  written. -/
  | mfilCfgWrite (c : Fin 8) (v : Word) (req : Requester)
  /-- R308: A filter chain delivers a decimated output to its result register and comparators. -/
  | mfilOutput (c : Fin 8)
  /-- R317: A write of 1 to TRIPPED clears it only while ACTIVE = 0. -/
  | mfilTrippedClear (c : Fin 8) (j : Fin 2)
  /-- R320: The CDAC table load from Granary ends, releasing and ramping channels or leaving them clamped.
  `table` gives each channel's SPAN, SLEW, power-up value and fault value, none where Granary holds no valid
  table. -/
  | cdacTableLoad (readable : Bool)
  /-- R321: RUN makes the channel ACTIVE and ramps its output to CODE. -/
  | cdacRun (n : Fin 48)
  /-- R321: HOLD stops the channel where it is. -/
  | cdacHold (n : Fin 48)
  /-- R321: FAULT puts the channel in FAULT with cause SOFT. -/
  | cdacFault (n : Fin 48)
  /-- R326: CLEAR ends a fault that no hold or tripped comparator sustains, leaving the channel in HOLD. -/
  | cdacClear (n : Fin 48)
  /-- R322: A write of CDAC_CODE retargets an active ramp, or is stored. -/
  | cdacCodeWrite (n : Fin 48) (code : BitVec 16)
  /-- R323: Every 1 µs a ramping output moves one step at the slew limit. -/
  | cdacRampStep (n : Fin 48)
  /-- R324: A span change in HOLD clamps the output to the safe level of the new span. `v` is the value written
  to CDAC_CH_CFG. -/
  | cdacSpanWrite (n : Fin 48) (v : Word)
  /-- R324: After the 4 µs safe-level hold, the output ramps to CODE in the new span. -/
  | cdacSpanHoldEnd (n : Fin 48)
  /-- R327: A write of CDAC_FV changes the fault value in use and moves a faulted output. -/
  | cdacFvWrite (n : Fin 48) (code : BitVec 16)
  /-- R343: A WRITE transaction is checked and accepted into the port's posted queue. `check` is the
  CRC-16 that the request carried over SPI, here and in the requests below; I3C carries none. `data` holds 1 to 64 words. -/
  | write (port : PortId) (addr : Word) (data : List Word) (check : BitVec 16)
  /-- R342: A READ transaction returns data when every word is ready, and otherwise answers WAIT and begins a
  wake. `len` is the number of words minus one, here and in READ_POST and FETCH. -/
  | read (port : PortId) (addr : Word) (len : BitVec 6) (check : BitVec 16)
  /-- R342: A READ_POST is accepted into a split tag and performed later. -/
  | readPost (port : PortId) (addr : Word) (len : BitVec 6) (check : BitVec 16)
  /-- R342: A FETCH returns the data of a posted read, or WAIT when it is not ready. -/
  | fetch (port : PortId) (tag : BitVec 3) (len : BitVec 6) (check : BitVec 16)
  /-- R344: SYNC reports whether all earlier posted writes of the port have executed, and their first failure. -/
  | sync (port : PortId) (check : BitVec 16)
  /-- R343: A WRITE_OWNER is MAC-checked under the owner session and queued. `mac` is the MAC that was sent. -/
  | writeOwner (port : PortId) (addr : Word) (data : List Word) (mac : Word)
  /-- R340: A transaction with an unknown opcode is answered ERR_ACCESS. `frame` is the request as it was sent, from its
  OPCODE on, over SPI with its CRC at the end. -/
  | unknownOpcode (port : PortId) (frame : List Byte)
  /-- R343: A queued write executes once its target is ready, and failures are recorded. -/
  | postedWriteExecute (port : PortId)
  /-- R342: A posted read is performed when its target becomes ready. -/
  | postedReadPerform (port : PortId) (tag : BitVec 3)
  /-- R346: An I3C private read returns the STATUS and data of the preceding transaction. -/
  | i3cPrivateRead
  /-- R346: The I3C ENTDAA CCC assigns a dynamic address. `addr` is the dynamic address that the controller
  assigns. -/
  | entdaa (addr : BitVec 7)
  /-- R346: The I3C SETDASA CCC assigns a dynamic address from the static one. -/
  | setdasa (static addr : BitVec 7)
  /-- R346: The I3C SETNEWDA CCC changes the dynamic address. `old` is the address that the CCC is sent to. -/
  | setnewda (old addr : BitVec 7)
  /-- R346: The I3C RSTDAA CCC clears the dynamic address. -/
  | rstdaa
  /-- R346: The I3C GETPID CCC returns the provisional ID with part 0x3280. -/
  | getpid
  /-- R346: The I3C GETBCR CCC returns 0x00. -/
  | getbcr
  /-- R346: The I3C GETDCR CCC returns 0x00. -/
  | getdcr
  /-- R346: The I3C GETSTATUS CCC returns the target status. -/
  | getstatus
  /-- R346: The I3C ENEC CCC enables events. -/
  | enec (events : Byte)
  /-- R346: The I3C DISEC CCC disables events. -/
  | disec (events : Byte)
  /-- R346: The I3C SETMWL CCC sets the maximum write length. -/
  | setmwl (n : BitVec 16)
  /-- R346: The I3C GETMWL CCC returns the maximum write length. -/
  | getmwl
  /-- R346: The I3C SETMRL CCC sets the maximum read length. -/
  | setmrl (n : BitVec 16)
  /-- R346: The I3C GETMRL CCC returns the maximum read length. -/
  | getmrl
  /-- R347: A domain woken by an access becomes ready and waiting accesses proceed. -/
  | domainWakeDone (d : Domain)
  /-- R347: HOLD ms after its last access a woken domain rejoins the power state. -/
  | wakeHoldExpiry (d : Domain)
  /-- R348: In TIMEKEEP a transfer to the device address is NACKed and starts a wake. -/
  | wickMatch (addr : BitVec 7) (late : Bool)
  /-- R337: EXPERT_KEY 0xA5 arms the expert unlock for the requester. -/
  | expertArm (b : Blk) (req : Requester)
  /-- R337: EXPERT_KEY 0x5A from the arming requester within 1 ms unlocks the expert level. -/
  | expertUnlock (b : Blk) (req : Requester)
  /-- R337: EXPERT_KEY 0xC3 returns the block to LOCKED. -/
  | expertRelock (b : Blk) (req : Requester)
  /-- R337: 1 ms without the completing write returns an armed block to LOCKED. -/
  | expertArmTimeout (b : Blk)
  /-- R336: A write of BLK_CTRL.EN = 1 starts the block, or sets RESTART_PENDING. -/
  | blockEnable (b : Blk)
  /-- R336: A write of BLK_CTRL.EN = 0 takes the block through STOPPING. -/
  | blockDisable (b : Blk)
  /-- R336: STARTING ends and the block is ON. -/
  | blockStartDone (b : Blk)
  /-- R336: STOPPING ends and the block is OFF, or restarts if RESTART_PENDING. -/
  | blockStopDone (b : Blk)
  /-- R396: A write of BLK_CTRL.SRST asserts a BLOCK reset, or is refused by the exceptions of R397. -/
  | blockSrst (b : Blk)
  /-- R396: The BLOCK reset ends and the block leaves isolation. -/
  | blockResetRelease (b : Blk)
  /-- R350: The owner's write of RELEASE frees a claimed resource. -/
  | claimRelease (c : Claim) (req : Requester)
  /-- R350: A WRITE_OWNER of MGT_CLAIM_FORCE releases the named claim. -/
  | claimForce (index : Byte) (res : BitVec 5)
  /-- R352: A write of IRQ_FORCE sets IRQ_RAW bits as events would. `v` is the value written. -/
  | irqForce (b : Blk) (v : Word)
  /-- R353: A write of IRQ_ROUTE changes the route of the selected source, refusing ALARM for non-urgent
  sources. -/
  | irqRouteWrite (int alarm fwc : Bool)
  /-- R355: A write of FWC_MBX_SUBMIT queues a mailbox command, or refuses it. -/
  | mbxSubmit (slot : Fin 4) (opcode : Byte) (len : BitVec 9) (owner : Bool)
  /-- R355: A write of FWC_MBX_ACK frees DONE slots. Bit n names slot n. -/
  | mbxAck (slots : BitVec 4)
  /-- R355: A write of FWC_MBX_ACK.ABORT ends a queued or running command with ABORTED. Bit n names slot n. -/
  | mbxAbort (slots : BitVec 4)
  /-- R355: The FW_INFO command returns the bank versions and anti-rollback count. -/
  | fwInfo (slot : Fin 4)
  /-- R355: The LINK_BRINGUP command brings masked lanes to CANDLE or FULL within a timeout. -/
  | linkBringup (slot : Fin 4)
  /-- R355: The LINK_RESTART command sends masked lanes to ACQUIRE from their reach-class values. -/
  | linkRestart (slot : Fin 4)
  /-- R355: The CAL_STARTUP command runs the lane part of the start-up pass on lanes in OFF. -/
  | calStartup (slot : Fin 4)
  /-- R355: The CAPTURE command runs a capture as FWC and returns its layout. -/
  | capture (slot : Fin 4)
  /-- R470: The SPDM command relays one SPDM request to SEC and returns its response. -/
  | spdm (slot : Fin 4)
  /-- R468: The PROFILE_APPLY command verifies a profile and applies its records in order. -/
  | profileApply (slot : Fin 4)
  /-- R355: The PROFILE_STORE command stores a profile chunk and verifies at the final chunk. -/
  | profileStore (slot : Fin 4)
  /-- R355: The GRANARY_WRITE command writes the CDAC table or calibration area. -/
  | granaryWrite (slot : Fin 4)
  /-- R355: The FW_STORE command stores an image chunk in the idle bank and verifies at the end. -/
  | fwStore (slot : Fin 4)
  /-- R355: The FW_SELECT command selects the bank for the next COLD. -/
  | fwSelect (slot : Fin 4)
  /-- R355: The STUB_ERASE command clears a Stub slot. -/
  | stubErase (slot : Fin 4)
  /-- R356: A write of PIN_GPIO_CFG claims and configures a GPIO, or is refused. `v` is the value written to
  PIN_GPIO_CFG_g. -/
  | gpioCfgWrite (req : Requester) (g : Fin 8) (v : Word)
  /-- R356: A selected input edge on GPIO[g] raises its PIN source. `level` is the pin's level after the edge. -/
  | gpioEdge (g : Fin 8) (level : Bool)
  /-- R358: A rail rises above its good threshold. -/
  | railGood (r : Rail)
  /-- R358: A main rail below its loss threshold asserts COLD within 2 µs. -/
  | railLost (r : Rail)
  /-- R360: A rail below its level in ACTIVE sets its UV bit and raises RAIL_UV. -/
  | railUv (r : Rail)
  /-- R361: VIO failing switches the AON domain to VBAK, stops lanes, commits the Stub and enters TIMEKEEP, or
  asserts COLD without VBAK. -/
  | vioLoss
  /-- R363: VIO good for 1 ms returns the AON domain to VIO and counts the switch-over. -/
  | vioReturn
  /-- R388: VBAK_OK falling to 0 raises VBAK_LOW. -/
  | vbakLow
  /-- R371: A write of PWR_STATE_REQ.TARGET starts or replaces a pending power-state request. -/
  | pwrStateReq (t : BitVec 2)
  /-- R370: A block answers the entry handshake with ACK, DEFER or REFUSE. `i` is the IRQ index of the block. -/
  | handshakeAnswer (i : Byte)
  /-- R370: A DEFER time elapses and PWR asks that block again. -/
  | handshakeDeferExpiry (i : Byte)
  /-- R370: A block that does not answer within 50 µs counts as REFUSE with cause TIMEOUT. -/
  | handshakeTimeout (i : Byte)
  /-- R366: Entry to DOZE, RETAIN or TIMEKEEP completes. -/
  | powerStateEntryDone
  /-- R366: Exit to ACTIVE completes with domains powered and the level restored. -/
  | powerStateExitDone
  /-- R374: WAKE_N low wakes the device from a lower state. -/
  | wakePin (late : Bool)
  /-- R381: A write of PWR_PL_CFG requests a performance-level change. -/
  | plCfgWrite (v : Word)
  /-- R381: In AUTO, a target lower for 1 ms starts a lowering of the level. -/
  | plAutoLower
  /-- R379: An AVSBus frame completes, retried once on failure, and AVS_ERR is set on a second failure. -/
  | avsFrameDone (ok : Bool)
  /-- R378: The SETTLE wait after the voltage write ends and the raise continues with assist, bias and
  frequency. -/
  | avsSettleExpiry
  /-- R378: The level change completes, BUSY clears and PL_DONE is raised. -/
  | plChangeDone
  /-- R389: The AON input falls below 1.45 V and POR resets everything. -/
  | porAssert
  /-- R389: About 1 ms after the AON input is good, POR releases and Lantern time starts. -/
  | porRelease
  /-- R392: RESET_N held low asserts the PIN reset. -/
  | resetNAssert
  /-- R392: RESET_N returning high releases PIN within 2 µs. -/
  | resetNRelease
  /-- R393: Execution of RST_CTRL.GLOBAL asserts a 10 µs COLD-reach reset and discards queued writes. -/
  | global
  /-- R393: Execution of RST_CTRL.WARM, or FWC SRST, asserts a 10 µs WARM reset. -/
  | warm
  /-- R389: The 10 µs of a GLOBAL, WARM or WDT reset elapse and the source is released. -/
  | resetPulseEnd (p : Pulse)
  /-- R390: A write of RST_CTRL.SHEAF asserts or releases the SHEAF reset of a sheaf. -/
  | sheaf (sh : Sheaf) (on : Bool)
  /-- R391: The last COLD-reach source is released, the straps are sampled and start-up begins. the levels of
  the straps -/
  | coldRelease (boot clkmode : BitVec 2) (addr : BitVec 3)
  /-- R395: A write of the key to RST_WDT_KICK by FWC restarts the watchdog. -/
  | wdtKick (req : Requester) (key : Word)
  /-- R395: TIMEOUT ms without a kick asserts WDT. -/
  | wdtExpiry
  /-- R394: After WARM or WDT, firmware runs again, RUNNING returns to 1 and WARM_DONE is raised. -/
  | firmwareRunning
  /-- R402: A start-up phase completes and the sequence moves to the next phase. -/
  | startupPhaseDone (result : StartupResult)
  /-- R404: A write of RST_BOOT_CTRL.GO closes the download window and verifies the image. -/
  | bootGo
  /-- R419: The scrubber reads a word in an idle cycle and writes back a correctable one. `cls` is the error
  class that the read finds: 0 none, 1 correctable, 2 uncorrectable, 3 an address fault. -/
  | scrubRead (memid : Byte) (word : Nat) (cls : Fin 4)
  /-- R418: A write to the bit-set alias ORs the value into the scratch word atomically. `x` is the offset in
  scratch. -/
  | scratchBitSet (x : BitVec 20) (v : Word)
  /-- R418: A write to the bit-clear alias clears the bits of the value in the scratch word atomically. -/
  | scratchBitClear (x : BitVec 20) (v : Word)
  /-- R422: A write of MEM_MARCH_CTRL.START runs a march on the named memory, or is refused. -/
  | marchStart (memid : Byte) (preserve : Bool) (req : Requester)
  /-- R422: A write of MEM_MARCH_CTRL.ABORT ends a march at the next row. -/
  | marchAbort
  /-- R422: A march ends with its result and raises MARCH_DONE. the failing rows -/
  | marchDone (words : List (Nat × List Nat))
  /-- R427: NVS completes a Granary word write with read-back verification. `ok`: a read-back equals the word
  written. -/
  | nvsWordDone (ok : Bool)
  /-- R428: The NVS WRITE command writes one word of the spare area. -/
  | nvsCmdWrite
  /-- R428: The NVS FILL command writes COUNT + 1 words of the spare area with one value. `count` is
  NVS_CMD.COUNT. -/
  | nvsCmdFill (count : BitVec 16)
  /-- R432: With MEM_INJ_CTRL.MODE set, the next write to the scratch word stores the chosen error. -/
  | eccInject (word : BitVec 17) (mode : BitVec 2)
  /-- R432: A write of TST_CFG updates the boot record's LBIST flag. -/
  | tstCfgWrite (boot once : Bool)
  /-- R434: Every 100 µs THM samples all sensors and applies the sensor, threshold and shutdown rules. temps in
  1/16 °C and the raw converter codes, sensor 0 first -/
  | thmSample (temps : List Int) (raws : List Nat)
  /-- R447: PMC_CTRL.SNAP starts a snapshot of every counter into the buffer. -/
  | pmcSnap
  /-- R447: The snapshot copy completes and SNAP_DONE is raised. -/
  | pmcSnapDone
  /-- R446: A counter carrying past 2^48 − 1 reloads, sets OVF and may request a snapshot. the block by its IRQ
  index and its counter -/
  | pmcOverflow (i : Byte) (c : Fin 8)
  /-- R449: A write of EVR_LOG writes a SOFTWARE Stub event. -/
  | evrLog (tag : Byte)
  /-- R450: EVR moves queued events into the ring. at most n events move -/
  | stubEventDrain (n : Nat)
  /-- R449: A write of EVR_RD_IDX copies the selected ring entry into EVR_RD_DATA. ue: the read of the ring
  finds an uncorrectable half -/
  | evrRdSelect (i : BitVec 14) (ue : Bool)
  /-- R451: EVR_CTRL.COMMIT, or an automatic trigger, starts a Stub commit into a Granary slot. -/
  | evrCommit
  /-- R452: The commit writes its closing entry and a pending commit may start. -/
  | stubCommitDone
  /-- R475: The NONCE command places a fresh nonce in SEC_BUF. `owner` says that SEC_CMD was written by
  WRITE_OWNER, here and in the other SEC commands. -/
  | nonce (owner : Bool)
  /-- R471: OWN_BEGIN supplies a nonce and an ephemeral key for an owner session. -/
  | ownBegin (owner : Bool)
  /-- R471: OWN_FINISH verifies the owner signature and derives the owner write key. -/
  | ownFinish (owner : Bool)
  /-- R473: OWN_END ends the owner session. -/
  | ownEnd (owner : Bool)
  /-- R475: TAKE_OWNERSHIP programs the first owner key after proof of possession. -/
  | takeOwnership (owner : Bool)
  /-- R475: TRANSFER programs a new owner slot and revokes the previous one. -/
  | transfer (owner : Bool)
  /-- R482: DEBUG_UNLOCK verifies a debug token and opens the named scopes. -/
  | debugUnlock (owner : Bool)
  /-- R483: RMA verifies a token, fuses the RMA state and erases the security store. -/
  | rma (owner : Bool)
  /-- R483: DECOMMISSION fuses DECOMMISSIONED and erases Granary. -/
  | decommission (owner : Bool)
  /-- R485: The LOCKDOWN command by WRITE_OWNER enters security lockdown. -/
  | lockdown (owner : Bool)
  /-- R487: A SEC command completes and SEC_CMD_STAT reports its result. -/
  | secCmdDone
  /-- R473: IDLE minutes without an accepted WRITE_OWNER end the owner session. -/
  | ownIdleTimeout
  /-- R472: The backoff after failed owner authentications ends. -/
  | ownBackoffExpiry
  /-- R465: 3 consecutive failing TRNG blocks set TRNG_FAIL. -/
  | trngFail
  /-- R484: A shield, voltage, clock or key-integrity fault is detected and enters lockdown or raises TAMPER. 1
  SHIELD, 2 GLITCH_V, 3 GLITCH_CLK, 4 KEY_INTEGRITY; 0 is none. -/
  | tamper (cause : Fin 5)
  /-- R479: A handshake not UP within TMO × 10 ms fails with an ALERT. -/
  | peerHandshakeTimeout (l : Lane)
  /-- R479: 1 s after a failure a manager lane with AUTO retries the handshake. -/
  | peerHandshakeRetry (l : Lane)
  /-- R494: Loss of REFCLK moves management to the backup oscillator and sends lanes to ACQUIRE. -/
  | refclkLoss
  /-- R494: After 1 ms of good edges REF_OK returns and the PLLs relock. -/
  | refclkRestored
  /-- R81: 2 µs after the lane leaves OFF the power detector starts to work, and LOS_RAW then follows the input. -/
  | powerDetectorReady (l : Lane)
  /-- R256: TIM_TEMP.VALID returns to 0 when no valid chain sample has arrived for 1 s, or no host write for 10
  s. -/
  | tempValidTimeout
  /-- R355: A running mailbox command completes, by reaching its goal, by the expiry of its own timeout argument
  or by an abort, and its slot becomes DONE with MBX_DONE raised. `timeout` says that its own time-out has
  passed. -/
  | mbxCommandDone (slot : Fin 4) (timeout : Bool)
  /-- R187: The host answers one of the device's own training requests, which stops the 5 ms repeat timer. -/
  | trainingAnswer (h : HostLane)
  /-- R23: The re-alignment of the host outputs after a change of ASSIST or at entry to FULL ends, and the host
  output moves from the LOL-defined idle to data. -/
  | realignDone (l : Lane)
  /-- R442: The background-operation pause elapses, and a waiting PMC snapshot or the writing of an armed
  capture or fill begins. -/
  | backgroundPauseEnd (p : Paused)
  /-- R356: 1 µs after an alarm firing, a GPIO with FUNC 1 returns low. -/
  | gpioPulseEnd (g : Fin 8)
  deriving DecidableEq, Repr

end Sys2Proof
end

