-- ==== Sys2Proof/Config.lean ====
section
/-!
DEFINITION. What an implementation fixes and the free values. Every constant here is opaque: nothing can be proved of
its value, so a statement that uses one holds whatever it is.
-/

namespace Sys2Proof.Config

/-- A free value of `w` bits: what the spec leaves undefined or unstated, fresh for each count. -/
opaque freeValue (count : Nat) (w : Nat) : BitVec w

/-- A byte of a memory whose contents the spec leaves undefined, by memory, address and fill count. -/
opaque freeByte (memory address count : Nat) : BitVec 8

/-- The byte of Granary with which the part was delivered, by byte offset (R426). -/
opaque granaryByte (offset : Nat) : BitVec 8

/-- What stands for a shared secret where the public key is no point of the curve, for which the spec gives no result
(R471, R477). -/
opaque noPoint (priv pub : Nat) : BitVec 384

/-- The private half of the device identity key (R462). -/
opaque identityKey : BitVec 384

/-- The certificate chain of the device identity (R463, R478). -/
opaque identityChain : List Nat

/-- The vendor root public key that the security store holds, x then y (R463). -/
opaque rootKey : BitVec 768

/-- What SEC_ID_HASH reads where the identity has been erased, which the spec does not give (R462, R483). -/
opaque erasedHash : BitVec 384

/-- The vendor root public keys whose hashes slots 0 and 1 hold, x then y (R461, R463). -/
opaque vendorKey (slot : Nat) : BitVec 768

/-- `w` random bits of the TRNG at a draw count (SP 800-90B; R465). -/
opaque trng (count w : Nat) : BitVec w

/-- CTExponent of the SPDM responder: how long its cryptography takes (DMTF SPDM 1.3). -/
opaque spdmExponent : BitVec 8

/-- SHA-384 of the ROM: measurement block 1 (R470). -/
opaque romDigest : BitVec 384

/-- The phase detector of timing recovery, in 2^-16 UI, from two neighbouring equalised samples and their decisions, the
detector of the stuff transition, and the fixed weight at which it is added (R86). -/
opaque phaseDetector (z0 z1 : Int) (a0 a1 : Nat) : Int

opaque stuffPhase (z0 z1 : Int) (a0 a1 : Nat) : Int

opaque stuffWeight : BitVec 8

/-- What stands for a level sigma of 0 in the branch metric, for which the spec states none (R93). -/
opaque zeroSigma : BitVec 16

/-- The coefficients of the stage-2 filter of a preset in 2^-24, in linear and in minimum phase: the first half of a
symmetrical filter but for its last, and all of a minimum-phase one but for its first (R308). -/
opaque firLinear (preset i : Nat) : BitVec 24

opaque firMinimum (preset i : Nat) : BitVec 24

/-- The last seven of the eight coefficients of a phase of the resampler, in 2^-24, the newest sample's last (R310). -/
opaque gridTap (preset phase i : Nat) : BitVec 24

/-- What the bytes of the CDAC table's area of Granary spell: SPAN, SLEW, power-up and fault value of each channel, or no
valid table; the spec gives no layout (R320). -/
opaque cdacTable (area : List (BitVec 8)) : Option (List (Nat × Nat × Nat × Nat))

/-- The word of the buffers' memory that holds a 64-bit word of the mailbox buffers, or of those of MSG (R410). -/
opaque bufferWord (msg : Bool) (n : Nat) : BitVec 13

/-- The fused trim of a level's voltage: its place among the 25 steps of 2.5 mV from −40 mV to +20 mV (R377). -/
opaque levelTrim (level : Nat) : BitVec 16

/-- The manufacturer half and the instance half of the provisional ID, around the part field (R346). -/
opaque pidMaker : BitVec 16

opaque pidTail : BitVec 16

/-- Bit `pos` of the sequence under PRBS13Q (1) or PRBS31Q (2), and the level of symbol `pos` of a period of SSPRQ, as
IEEE 802.3 defines them (R166). -/
opaque patternBit (sel pos : Nat) : Bool

opaque ssprq (pos : Nat) : BitVec 2

/-- PRE2, PRE1 and POST1, 6 bits each, of a training preset and of the initial condition that IEEE 802.3dj defines
(R186). -/
opaque trainPreset (k : Nat) : BitVec 18

opaque trainInitial : BitVec 18

/-- The step that a receiver's FFE tap shape asks of the host transmitter: 0 none, else 1 + 2 × the tap, PRE2, PRE1 or
POST1, plus 1 for an increment; 7 is none too (R186). -/
opaque trainAsk (ffe : List Nat) : BitVec 3

/-- The level of symbol `k` of the training frames of IEEE 802.3dj (R187, R197). -/
opaque trainLevel (h k : Nat) : BitVec 2

end Sys2Proof.Config
end

