-- ==== Sys2Proof/Machine/Arith.lean ====
section
/-!
DEFINITION. Exact arithmetic on naturals that stand for register fields: bit fields, two's complement (R3),
saturating and wrapping counts.
-/

namespace Sys2Proof.Machine

/-- Bits `lo + w - 1` to `lo` of `v`. -/
def bits (v lo w : Nat) : Nat := v / 2 ^ lo % 2 ^ w

/-- Bit `i` of `v`. -/
def bitAt (v i : Nat) : Nat := v / 2 ^ i % 2

/-- A truth value as a bit. -/
def b2n (b : Bool) : Nat := if b then 1 else 0

/-- The signed value of a `w`-bit field (R3). -/
def toInt (w v : Nat) : Int :=
  if 2 * (v % 2 ^ w) < 2 ^ w then (v % 2 ^ w : Nat) else (v % 2 ^ w : Nat) - (2 ^ w : Nat)

/-- The `w`-bit two's complement field of an integer (R3). -/
def ofInt (w : Nat) (i : Int) : Nat := (i % (2 ^ w : Nat)).toNat

/-- An integer kept within `lo` and `hi`. -/
def clampInt (lo hi i : Int) : Int := if i < lo then lo else if hi < i then hi else i

/-- A count that stops at the largest `w`-bit value. -/
def satAdd (w v k : Nat) : Nat := if 2 ^ w ≤ v + k then 2 ^ w - 1 else v + k

/-- Bitwise or of two naturals, `w` bits wide. -/
def orBits (w a b : Nat) : Nat := (a ||| b) % 2 ^ w

/-- `a` with the bits of `b` cleared. -/
def clearBits (a b : Nat) : Nat := a - (a &&& b)

/-- The distance of two naturals. -/
def absDiff (a b : Nat) : Nat := a - b + (b - a)

/-- The quotient rounded to the nearest integer, halves away from zero. -/
def roundDiv (a : Int) (b : Nat) : Int :=
  if 0 ≤ a then ((2 * a + b) / (2 * b : Nat)) else -((2 * (-a) + b) / (2 * b : Nat))

/-- The four bytes of a word, least significant first. -/
def wordBytes (v : Nat) : List Nat := [v % 256, v / 256 % 256, v / 65536 % 256, v / 16777216 % 256]

/-- The natural that a list of bytes spells, the first byte least significant. -/
def ofBytesLE : List Nat → Nat
  | [] => 0
  | b :: bs => b % 256 + 256 * ofBytesLE bs

/-- The natural that a list of bytes spells, the first byte most significant. -/
def ofBytesBE (bs : List Nat) : Nat := bs.foldl (fun a b => a * 256 + b % 256) 0

/-- `n` bytes of a natural, most significant first. -/
def toBytesBE (n v : Nat) : List Nat := (List.range n).map fun i => v / 256 ^ (n - 1 - i) % 256

/-- `n` bytes of a natural, least significant first. -/
def toBytesLE (n v : Nat) : List Nat := (List.range n).map fun i => v / 256 ^ i % 256

/-- The natural that a list of bits spells, the first bit least significant. -/
def ofBits (bs : List Nat) : Nat := bs.foldr (fun b a => b % 2 + 2 * a) 0

/-- The natural that a list of bits spells, the first bit most significant. -/
def ofBitsBE (bs : List Nat) : Nat := bs.foldl (fun a b => 2 * a + b % 2) 0

end Sys2Proof.Machine
end

