-- ==== Sys2Proof/Machine/Crypto.lean ====
section
/-!
DEFINITION. The primitives of SEC, by the standards that R464 names: SHA-384 (FIPS 180-4), HKDF with it (RFC 5869),
AES-256 (FIPS 197), its CMAC and GMAC (SP 800-38B, SP 800-38D), and ECDSA and ECDH on P-384 (FIPS 186-5). Log entry 249
marks them.
-/

namespace Sys2Proof.Machine

/-! ### SHA-384 (FIPS 180-4) -/

/-- The largest number whose k-th power is at most n, below 2^b above the start. -/
def rootBelow (k : Nat) : Nat → Nat → Nat → Nat
  | 0, _, x => x
  | b + 1, n, x => rootBelow k b n (if (x + 2 ^ b) ^ k ≤ n then x + 2 ^ b else x)

/-- The first eighty primes. -/
def shaPrimes : List Nat :=
  [2, 3, 5, 7, 11, 13, 17, 19, 23, 29, 31, 37, 41, 43, 47, 53, 59, 61, 67, 71, 73, 79, 83, 89, 97, 101, 103, 107, 109,
   113, 127, 131, 137, 139, 149, 151, 157, 163, 167, 173]
  ++ [179, 181, 191, 193, 197, 199, 211, 223, 227, 229, 233, 239, 241, 251, 257, 263, 269, 271, 277, 281, 283, 293, 307,
      311, 313, 317, 331, 337, 347, 349, 353, 359, 367, 373, 379, 383, 389, 397, 401, 409]

/-- The round constants: 64 fraction bits of the cube roots of the first eighty primes. -/
def shaRounds : List Nat := shaPrimes.map fun p => rootBelow 3 68 (p * 2 ^ 192) 0 % 2 ^ 64

/-- The initial value: 64 fraction bits of the square roots of the ninth to the sixteenth prime. -/
def shaInit : List Nat := ((shaPrimes.take 16).drop 8).map fun p => rootBelow 2 70 (p * 2 ^ 128) 0 % 2 ^ 64

/-- A 64-bit word rotated, or shifted, right by n. -/
def rotRight (n x : Nat) : Nat := x / 2 ^ n + x % 2 ^ n * 2 ^ (64 - n)

/-- The message schedule, newest word first. -/
def shaSchedule : Nat → List Nat → List Nat
  | 0, w => w
  | n + 1, w =>
    let a := w.getD 14 0
    let b := w.getD 1 0
    let s0 := rotRight 1 a ^^^ rotRight 8 a ^^^ a / 2 ^ 7
    let s1 := rotRight 19 b ^^^ rotRight 61 b ^^^ b / 2 ^ 6
    shaSchedule n ((s1 + w.getD 6 0 + s0 + w.getD 15 0) % 2 ^ 64 :: w)

/-- One round over the working variables a to h. -/
def shaRound (v : List Nat) (kw : Nat × Nat) : List Nat :=
  let x (i : Nat) : Nat := v.getD i 0
  let s1 := rotRight 14 (x 4) ^^^ rotRight 18 (x 4) ^^^ rotRight 41 (x 4)
  let ch := (x 4 &&& x 5) ^^^ ((2 ^ 64 - 1 - x 4) &&& x 6)
  let t1 := x 7 + s1 + ch + kw.1 + kw.2
  let s0 := rotRight 28 (x 0) ^^^ rotRight 34 (x 0) ^^^ rotRight 39 (x 0)
  let maj := (x 0 &&& x 1) ^^^ (x 0 &&& x 2) ^^^ (x 1 &&& x 2)
  [(t1 + s0 + maj) % 2 ^ 64, x 0, x 1, x 2, (x 3 + t1) % 2 ^ 64, x 4, x 5, x 6]

/-- One block of 16 words. -/
def shaBlock (h w : List Nat) : List Nat :=
  let v := (shaRounds.zip (shaSchedule 64 w.reverse).reverse).foldl shaRound h
  List.zipWith (fun a b => (a + b) % 2 ^ 64) h v

/-- `n` blocks of 128 bytes in a row. -/
def shaBlocks : Nat → List Nat → List Nat → List Nat
  | 0, h, _ => h
  | n + 1, h, bs =>
    shaBlocks n (shaBlock h ((List.range 16).map fun i => ofBytesBE ((bs.drop (8 * i)).take 8))) (bs.drop 128)

/-- SHA-384 of bytes, as a number. -/
def sha384 (bs : List Nat) : Nat :=
  let pad := (239 - bs.length % 128) % 128
  let m := bs ++ [0x80] ++ List.replicate pad 0 ++ toBytesBE 16 (8 * bs.length)
  ((shaBlocks (m.length / 128) shaInit m).take 6).foldl (fun a w => a * 2 ^ 64 + w) 0

/-! ### HKDF-SHA-384 (RFC 5869) -/

/-- HMAC with SHA-384 under a key of at most 128 bytes. -/
def hmac384 (key msg : List Nat) : List Nat :=
  let k := key ++ List.replicate (128 - key.length) 0
  toBytesBE 48 (sha384 (k.map (· ^^^ 0x5C) ++ toBytesBE 48 (sha384 (k.map (· ^^^ 0x36) ++ msg))))

/-- HKDF: extraction with a salt and the first 48 bytes of expansion, of which `n` are taken. -/
def hkdf (secret salt info : List Nat) (n : Nat) : Nat :=
  ofBytesBE ((hmac384 (hmac384 salt secret) (info ++ [1])).take n)

/-! ### AES-256 (FIPS 197) -/

/-- A product in GF(2^8). -/
def gf8Mul (a b : Nat) : Nat :=
  ((List.range 8).foldl (fun (r : Nat × Nat) i =>
    (if bitAt b i = 1 then r.1 ^^^ r.2 else r.1, if 128 ≤ r.2 then 2 * r.2 ^^^ 0x11B else 2 * r.2)) (0, a)).1

/-- The substitution of a byte: the affine map of its inverse. -/
def aesSub (x : Nat) : Nat :=
  let inv := (List.range 7).foldl (fun (r : Nat × Nat) _ => (gf8Mul r.1 (gf8Mul r.2 r.2), gf8Mul r.2 r.2)) (1, x)
  let y := inv.1
  let rot (n : Nat) : Nat := (y * 2 ^ n + y * 2 ^ n / 256) % 256
  y ^^^ rot 1 ^^^ rot 2 ^^^ rot 3 ^^^ rot 4 ^^^ 0x63

/-- Bytewise exclusive or. -/
def xorBytes (a b : List Nat) : List Nat := List.zipWith (· ^^^ ·) a b

/-- The words of the key schedule, newest first, `n` more; `rcon` is the next round constant. -/
def aesExpand : Nat → Nat → List (List Nat) → List (List Nat)
  | 0, _, w => w
  | n + 1, rcon, w =>
    let t := w.getD 0 []
    let i := w.length
    let u := if i % 8 = 0 then xorBytes ((t.drop 1 ++ t.take 1).map aesSub) [rcon, 0, 0, 0]
      else if i % 8 = 4 then t.map aesSub else t
    aesExpand n (if i % 8 = 0 then gf8Mul rcon 2 else rcon) (xorBytes u (w.getD 7 []) :: w)

/-- The 15 round keys of a 32-byte key. -/
def aesKeys (key : List Nat) : List (List Nat) :=
  let w := (aesExpand 52 1 ((List.range 8).map fun i => (key.drop (4 * i)).take 4).reverse).reverse
  (List.range 15).map fun r => ((w.drop (4 * r)).take 4).flatten

/-- SubBytes and ShiftRows of a state of 16 bytes, column by column. -/
def aesShift (s : List Nat) : List Nat := (List.range 16).map fun i => aesSub (s.getD ((i + 4 * (i % 4)) % 16) 0)

/-- MixColumns. -/
def aesMix (s : List Nat) : List Nat :=
  (List.range 16).map fun i =>
    let x (k : Nat) : Nat := s.getD (i / 4 * 4 + (i + k) % 4) 0
    gf8Mul (x 0) 2 ^^^ gf8Mul (x 1) 3 ^^^ x 2 ^^^ x 3

/-- AES-256 of a block of 16 bytes under a 256-bit key. -/
def aes256 (key : Nat) (block : List Nat) : List Nat :=
  let k := aesKeys (toBytesBE 32 key)
  let mid := ((k.drop 1).take 13).foldl (fun s r => xorBytes (aesMix (aesShift s)) r) (xorBytes block (k.getD 0 []))
  xorBytes (aesShift mid) (k.getD 14 [])

/-! ### CMAC and GMAC (SP 800-38B, SP 800-38D) -/

/-- Doubling in the field of CMAC. -/
def cmacDouble (x : Nat) : Nat := if 2 ^ 127 ≤ x then (2 * x % 2 ^ 128) ^^^ 0x87 else 2 * x

/-- The chain of CMAC over `n` whole blocks. -/
def cmacChain (key : Nat) : Nat → List Nat → List Nat → List Nat
  | 0, c, _ => c
  | n + 1, c, bs => cmacChain key n (aes256 key (xorBytes c (bs.take 16))) (bs.drop 16)

/-- AES-256-CMAC of a message, 128 bits. -/
def cmac (key : Nat) (msg : List Nat) : Nat :=
  let k1 := cmacDouble (ofBytesBE (aes256 key (List.replicate 16 0)))
  let n := (msg.length + 15) / 16 - 1
  let last := msg.drop (16 * n)
  let full := last.length == 16
  let last := if full then last else last ++ [0x80] ++ List.replicate (15 - last.length) 0
  let sub := toBytesBE 16 (if full then k1 else cmacDouble k1)
  ofBytesBE (aes256 key (xorBytes (xorBytes (cmacChain key n (List.replicate 16 0) msg) last) sub))

/-- A product in the field of GHASH, the leftmost bit first. -/
def ghashMul (x y : Nat) : Nat :=
  ((List.range 128).foldl (fun (r : Nat × Nat) i =>
    (if bitAt x (127 - i) = 1 then r.1 ^^^ r.2 else r.1,
     if r.2 % 2 = 1 then r.2 / 2 ^^^ 0xE1 * 2 ^ 120 else r.2 / 2)) (0, y)).1

/-- GHASH of bytes filled up to whole blocks. -/
def ghash (h : Nat) : Nat → Nat → List Nat → Nat
  | 0, y, _ => y
  | n + 1, y, bs =>
    let b := bs.take 16
    ghash h n (ghashMul (y ^^^ ofBytesBE (b ++ List.replicate (16 - b.length) 0)) h) (bs.drop 16)

/-- AES-256-GMAC tag of a message under a 96-bit initialisation vector, 128 bits. -/
def gmac (key iv : Nat) (msg : List Nat) : Nat :=
  let h := ofBytesBE (aes256 key (List.replicate 16 0))
  let y := ghash h ((msg.length + 15) / 16) 0 msg
  let y := ghashMul (y ^^^ 8 * msg.length * 2 ^ 64) h
  y ^^^ ofBytesBE (aes256 key (toBytesBE 12 iv ++ [0, 0, 0, 1]))

/-! ### P-384 (FIPS 186-5) -/

def p384P : Nat := 2 ^ 384 - 2 ^ 128 - 2 ^ 96 + 2 ^ 32 - 1
def p384N : Nat := 0xFFFFFFFFFFFFFFFFFFFFFFFFFFFFFFFFFFFFFFFFFFFFFFFFC7634D81F4372DDF581A0DB248B0A77AECEC196ACCC52973
def p384B : Nat := 0xB3312FA7E23EE7E4988E056BE3F82D19181D9C6EFE8141120314088F5013875AC656398D8A2ED19D2A85C8EDD3EC2AEF
def p384G : Nat × Nat :=
  (0xAA87CA22BE8B05378EB1C71EF320AD746E1D3B628BA79B9859F741E082542A385502F25DBF55296C3A545E3872760AB7,
   0x3617DE4A96262C6F5D9E98BF9292DC29F8F41DBD289A147CE9DA3113B5F0B8C00A60B1CE1D7E819D7A431D7C90EA0E5F)

/-- x^e modulo m, by `n` bits of e. -/
def powMod (m : Nat) : Nat → Nat → Nat → Nat
  | 0, _, _ => 1 % m
  | n + 1, x, e => (if e % 2 = 1 then x else 1) * powMod m n (x * x % m) (e / 2) % m

/-- The inverse modulo a prime below 2^384. -/
def invMod (m x : Nat) : Nat := powMod m 384 x (m - 2)

/-- A point of the curve, none for the point at infinity. -/
abbrev Point := Option (Nat × Nat)

/-- Whether a pair is a point of the curve. -/
def onCurve (q : Nat × Nat) : Bool :=
  q.1 < p384P && q.2 < p384P && q.2 * q.2 % p384P == (q.1 * q.1 * q.1 + (p384P - 3) * q.1 + p384B) % p384P

/-- The sum of two points. -/
def pointAdd (a b : Point) : Point :=
  match a, b with
  | none, q => q
  | q, none => q
  | some (x, y), some (u, v) =>
    if x = u && (y + v) % p384P = 0 then none
    else
      let l := if x = u then (3 * x * x + (p384P - 3)) * invMod p384P (2 * y % p384P) % p384P
        else (v + (p384P - y)) * invMod p384P ((u + (p384P - x)) % p384P) % p384P
      let z := (l * l + 2 * p384P - x - u) % p384P
      some (z, (l * (x + (p384P - z)) + (p384P - y)) % p384P)

/-- A multiple of a point, by `n` bits of the factor. -/
def pointMul : Nat → Nat → Point → Point
  | 0, _, _ => none
  | n + 1, k, q => pointAdd (if k % 2 = 1 then q else none) (pointMul n (k / 2) (pointAdd q q))

/-- The point that 96 bytes spell, x then y. -/
def pointOf (v : Nat) : Nat × Nat := (v / 2 ^ 384, v % 2 ^ 384)

/-- The public key of a private key, x then y. -/
def publicKey (priv : Nat) : Nat :=
  match pointMul 384 priv (some p384G) with
  | some (x, y) => x * 2 ^ 384 + y
  | none => 0

/-- The x-coordinate that a private and a public key share; for a public key that is no point of the curve the spec gives
no result (R471, R477). -/
def ecdh (priv pub : Nat) : Nat :=
  if onCurve (pointOf pub) then
    match pointMul 384 priv (some (pointOf pub)) with
    | some (x, _) => x
    | none => 0
  else (Config.noPoint priv pub).toNat

/-- Whether an ECDSA signature, r then s, over a digest verifies under a public key. -/
def ecdsaVerify (key digest sig : Nat) : Bool :=
  let r := sig / 2 ^ 384
  let s := sig % 2 ^ 384
  let w := invMod p384N s
  onCurve (pointOf key) && 0 < r && r < p384N && 0 < s && s < p384N &&
  match pointAdd (pointMul 384 (digest * w % p384N) (some p384G)) (pointMul 384 (r * w % p384N) (some (pointOf key))) with
  | some (x, _) => x % p384N == r
  | none => false

/-- The ECDSA signature of a digest by a private key, r then s, with a number from the TRNG as its secret. -/
def ecdsaSign (priv digest random : Nat) : Nat :=
  let k := 1 + random % (p384N - 1)
  match pointMul 384 k (some p384G) with
  | some (x, _) =>
    let r := x % p384N
    r * 2 ^ 384 + invMod p384N k * (digest + r * priv) % p384N
  | none => 0

end Sys2Proof.Machine
end

