-- ==== Sys2Proof/Machine/Certs.lean ====
section
/-!
DEFINITION. X.509 certificates in DER, as far as SEC reads them (R478): RFC 5280, RFC 5480 and RFC 5758 (log entry 267).
-/

namespace Sys2Proof.Machine

open Sys2Proof

/-! ### DER -/

/-- An element of DER: its tag and its contents. -/
abbrev Der := Nat × List Nat

/-- The first element of some bytes, and the bytes after it. Lengths are definite, in the shortest form, and below
2^16. -/
def derNext : List Nat → Option (Der × List Nat)
  | tag :: n :: bs =>
    let cut (n : Nat) (bs : List Nat) : Option (Der × List Nat) :=
      if n ≤ bs.length then some ((tag, bs.take n), bs.drop n) else none
    if n < 128 then cut n bs
    else match n, bs with
      | 0x81, a :: bs => if a < 128 then none else cut a bs
      | 0x82, a :: b :: bs => if a = 0 then none else cut (256 * a + b) bs
      | _, _ => none
  | _ => none

/-- The elements that some bytes consist of, at most `n` of them. -/
def derAll : Nat → List Nat → Option (List Der)
  | _, [] => some []
  | 0, _ :: _ => none
  | n + 1, b :: bs => (derNext (b :: bs)).bind fun r => (derAll n r.2).map (r.1 :: ·)

/-- The one element of some bytes, if it has a tag: its contents. -/
def derOne (tag : Nat) (bs : List Nat) : Option (List Nat) :=
  match derNext bs with
  | some ((t, c), []) => if t = tag then some c else none
  | _ => none

/-- The elements of the one SEQUENCE that some bytes are. -/
def derSeq (bs : List Nat) : Option (List Der) := (derOne 0x30 bs).bind fun c => derAll c.length c

/-- A number of DER that is not negative and has at most 384 bits. -/
def derNumber (c : List Nat) : Option Nat :=
  if c.isEmpty || 128 ≤ c.headD 0 || 2 ^ 384 ≤ ofBytesBE c then none else some (ofBytesBE c)

/-! ### A certificate -/

/-- What SEC takes of a certificate: its public key, x then y; the bytes that are signed; the signature, r then s; and
of basicConstraints cA and pathLenConstraint. -/
structure Cert where
  key : Nat
  signed : List Nat
  sig : Nat
  ca : Bool
  path : Option Nat
  deriving DecidableEq, Repr

/-- ecdsa-with-SHA384, as an AlgorithmIdentifier's contents. -/
def algorithmSig : List Nat := [0x06, 0x08, 0x2A, 0x86, 0x48, 0xCE, 0x3D, 0x04, 0x03, 0x03]

/-- id-ecPublicKey on secp384r1, as an AlgorithmIdentifier's contents. -/
def algorithmKey : List Nat :=
  [0x06, 0x07, 0x2A, 0x86, 0x48, 0xCE, 0x3D, 0x02, 0x01, 0x06, 0x05, 0x2B, 0x81, 0x04, 0x00, 0x22]

/-- The public key of a SubjectPublicKeyInfo: an uncompressed point of P-384. -/
def certKey (c : List Nat) : Option Nat :=
  match derAll c.length c with
  | some [(0x30, alg), (0x03, 0 :: 4 :: point)] =>
    if alg = algorithmKey && point.length = 96 then some (ofBytesBE point) else none
  | _ => none

/-- A signature value. -/
def certSig (c : List Nat) : Option Nat :=
  match c with
  | 0 :: c => match derSeq c with
    | some [(0x02, r), (0x02, s)] => (derNumber r).bind fun r => (derNumber s).map fun s => r * 2 ^ 384 + s
    | _ => none
  | _ => none

/-- cA and pathLenConstraint of a basicConstraints extension. -/
def basicConstraints (c : List Nat) : Option (Bool × Option Nat) :=
  match derSeq c with
  | some [] => some (false, none)
  | some [(0x01, [0xFF])] => some (true, none)
  | some [(0x01, [0xFF]), (0x02, n)] => (derNumber n).map fun n => (true, some n)
  | _ => none

/-- The basicConstraints among the extensions, cA false without one. -/
def certConstraints (c : List Nat) : Option (Bool × Option Nat) :=
  (derSeq c).bind fun es => es.foldr (fun e r =>
    match derAll e.2.length e.2 with
    | some [(0x06, [0x55, 0x1D, 0x13]), (0x04, v)] => basicConstraints v
    | some [(0x06, [0x55, 0x1D, 0x13]), (0x01, [0xFF]), (0x04, v)] => basicConstraints v
    | some ((0x06, _) :: _) => r
    | _ => none) (some (false, none))

/-- The same of what follows the public key in a certificate. -/
def certMore (es : List Der) : Option (Bool × Option Nat) :=
  match es.find? (fun e => e.1 == 0xA3) with
  | some e => certConstraints e.2
  | none => some (false, none)

/-- A certificate of version 3, from the contents of its SEQUENCE. -/
def readCert (c : List Nat) : Option Cert :=
  match derAll c.length c with
  | some [(0x30, tbs), (0x30, alg), (0x03, sig)] =>
    match derAll tbs.length tbs with
    | some ((0xA0, [2, 1, 2]) :: (0x02, _) :: (0x30, inner) :: (0x30, _) :: (0x30, _) :: (0x30, _) :: (0x30, spki) :: more) =>
      if alg = algorithmSig && inner = algorithmSig then
        let after := ((derNext c).map fun r => r.2.length).getD 0
        (certKey spki).bind fun key => (certSig sig).bind fun sig =>
          (certMore more).map fun k =>
            { key := key, signed := c.take (c.length - after), sig := sig, ca := k.1, path := k.2 }
      else none
    | _ => none
  | _ => none

/-! ### A chain (R478) -/

/-- Each certificate is signed by the key before it, and every signer is a CA whose path length allows what follows. -/
def chainVerifies : Nat → List Cert → Bool
  | _, [] => true
  | signer, c :: cs =>
    ecdsaVerify signer (sha384 c.signed) c.sig
      && (cs.isEmpty || (c.ca && (match c.path with | some n => cs.length ≤ n + 1 | none => true)))
      && chainVerifies c.key cs

/-- The leaf key of a chain that passes the checks of R478: at most 3 certificates and 2,048 bytes, the root first and
signed by the vendor root key. -/
def chainKey (root : Nat) (chain : List Nat) : Option Nat :=
  if 2048 < chain.length then none
  else (derAll 3 chain).bind fun es =>
    (es.mapM fun e => if e.1 = 0x30 then readCert e.2 else none).bind fun cs =>
      if chainVerifies root cs then cs.getLast?.map (·.key) else none

end Sys2Proof.Machine
end

