-- ==== Sys2Proof/Machine/Blocks.lean ====
section
/-!
DEFINITION. The blocks: type codes, base addresses, page counts, IRQ indices, domains and interrupt sources
(R334, Page index; R10; R365; the chapters' interrupt lists).
-/

namespace Sys2Proof


/-- The type code of a block (Page index). -/
def BK.type : BK → Nat
  | .mgt => 0x00 | .fwc => 0x01 | .irq => 0x02 | .rst => 0x03 | .pwr => 0x04 | .clk => 0x05 | .thm => 0x06
  | .tim => 0x07 | .msg => 0x08 | .cal => 0x09 | .madc => 0x0A | .mfil => 0x0B | .cdac => 0x0C | .sec => 0x0D
  | .nvs => 0x0E | .mem => 0x0F | .tst => 0x10 | .pmc => 0x11 | .evr => 0x12 | .pin => 0x13
  | .shf => 0x20 | .cap => 0x21 | .lrx => 0x30 | .req => 0x31 | .idec => 0x32 | .gbx => 0x33 | .txp => 0x34
  | .lfr => 0x35 | .ltx => 0x36 | .hsd => 0x40

/-- The page count of a block (Page index). -/
def BK.pages : BK → Nat
  | .fwc => 2 | .msg => 2 | .pmc => 4 | .req => 2 | _ => 1

/-- The level field of BLK_ID: 0 device, 1 sheaf, 2 lane (R335). -/
def BK.level : BK → Nat
  | .shf | .cap => 1
  | .lrx | .req | .idec | .gbx | .txp | .lfr | .ltx | .hsd => 2
  | _ => 0

/-- Whether BLK_CTRL.EN can be written (Page index). -/
def BK.enWritable : BK → Bool
  | .tim | .msg | .cal | .madc | .mfil | .tst | .pmc | .evr | .cap => true
  | _ => false

/-- The number of instances of a block. -/
def BK.count : BK → Nat
  | .shf | .cap => 2
  | .lrx | .req | .idec | .gbx | .txp | .lfr | .ltx => 8
  | .hsd => 16
  | _ => 1

/-- The base address of a block (R334, Address map). -/
def Blk.base (b : Blk) : Nat :=
  match b.kind with
  | .shf => 0x01000000 + b.inst * 0x00100000
  | .cap => 0x01010000 + b.inst * 0x00100000
  | .lrx => 0x02000000 + b.inst * 0x00100000
  | .req => 0x02010000 + b.inst * 0x00100000
  | .idec => 0x02020000 + b.inst * 0x00100000
  | .gbx => 0x02030000 + b.inst * 0x00100000
  | .txp => 0x02040000 + b.inst * 0x00100000
  | .lfr => 0x02050000 + b.inst * 0x00100000
  | .ltx => 0x02060000 + b.inst * 0x00100000
  | .hsd => 0x03000000 + b.inst * 0x00010000
  | k => BK.type k * 0x00010000

/-- The IRQ index of a block (Page index). -/
def Blk.irq (b : Blk) : Nat :=
  match b.kind with
  | .shf => 32 + b.inst
  | .cap => 34 + b.inst
  | .lrx => 64 + 8 * b.inst
  | .req => 65 + 8 * b.inst
  | .idec => 66 + 8 * b.inst
  | .gbx => 67 + 8 * b.inst
  | .txp => 68 + 8 * b.inst
  | .lfr => 69 + 8 * b.inst
  | .ltx => 70 + 8 * b.inst
  | .hsd => 128 + b.inst
  | k => BK.type k

/-- The device blocks, in the order of their type codes. -/
def deviceKinds : List BK :=
  [.mgt, .fwc, .irq, .rst, .pwr, .clk, .thm, .tim, .msg, .cal, .madc, .mfil, .cdac, .sec, .nvs, .mem, .tst,
   .pmc, .evr, .pin]

/-- The lane block kinds, in the order of their offsets. -/
def laneKinds : List BK := [.lrx, .req, .idec, .gbx, .txp, .lfr, .ltx]

/-- Every block of the device, in ascending IRQ index. -/
def allBlocks : List Blk :=
  deviceKinds.map (⟨·, 0⟩) ++ [⟨.shf, 0⟩, ⟨.shf, 1⟩, ⟨.cap, 0⟩, ⟨.cap, 1⟩]
  ++ (List.range 8).flatMap (fun l => laneKinds.map (⟨·, l⟩))
  ++ (List.range 16).map (⟨.hsd, ·⟩)

/-- The block with an IRQ index, if there is one. -/
def blkOfIrq (i : Nat) : Option Blk := allBlocks.find? (fun b => b.irq == i)

/-- The block whose 64 KiB region holds an address, if there is one (R334). -/
def blkOfAddr (a : Nat) : Option Blk := allBlocks.find? (fun b => a / 65536 == b.base / 65536)

/-- The sheaf of a block in a sheaf or a lane, if it has one (R10). -/
def Blk.sheaf? (b : Blk) : Option Nat :=
  match b.kind with
  | .shf | .cap => some b.inst
  | .hsd => some (b.inst / 8)
  | .lrx | .req | .idec | .gbx | .txp | .lfr | .ltx => some (b.inst / 4)
  | _ => none

/-- The line lane of a lane block or a host lane, if it has one (R10). -/
def Blk.lane? (b : Blk) : Option Nat :=
  match b.kind with
  | .hsd => some (b.inst / 2)
  | .lrx | .req | .idec | .gbx | .txp | .lfr | .ltx => some b.inst
  | _ => none

/-- The power domain of a block (R365). -/
def Blk.domain (b : Blk) : Domain :=
  match b.kind with
  | .tim | .msg | .cal => .time
  | .shf | .cap => .sheaf b.inst
  | .hsd => .lane (b.inst / 2)
  | .lrx | .req | .idec | .gbx | .txp | .lfr | .ltx => .lane b.inst
  | _ => .management

/-- The number of interrupt sources a block names, as the set of their bits (R34, R74, R120, R148, R177, R206,
R234, R269, R300, R333, R357, R388, R409, R433, R444, R448, R458, R488, R496). -/
def BK.sources : BK → List Nat
  | .mgt => [0, 1]
  | .fwc => [0, 1, 2, 3]
  | .irq => []
  | .rst => [0, 1, 2]
  | .pwr => [0, 1, 2, 3, 4, 5, 6]
  | .clk => [0, 1]
  | .thm => [0, 1, 2, 3, 4]
  | .tim => [0, 1, 2, 3, 4, 5, 6, 7]
  | .msg => [0, 1, 2, 3, 4, 5, 6, 7, 8]
  | .cal => [0, 1, 2, 3, 4, 5]
  | .madc => [0, 1, 2]
  | .mfil => List.range 24
  | .cdac => [0, 1, 2]
  | .sec => [0, 1, 2, 3, 4, 5, 6]
  | .nvs => [0, 1, 2]
  | .mem => [0, 1, 2, 3]
  | .tst => [0, 1]
  | .pmc => [0, 1, 2]
  | .evr => [0, 1, 2]
  | .pin => List.range 8
  | .shf => [0, 1, 2, 3, 4, 5, 6]
  | .cap => [0, 1, 2, 3]
  | .lrx => [0, 1, 2]
  | .req => [0, 1, 2]
  | .idec => [0, 1, 2, 3]
  | .gbx => [0, 1, 2, 3, 4, 8, 9]
  | .txp => [0, 1]
  | .lfr => [0, 1, 2, 3, 4]
  | .ltx => [0, 1]
  | .hsd => [0, 1, 2, 3, 4]

/-- The urgent interrupt sources, which may be routed to ALARM_N (R353 and the chapters' lists). -/
def BK.urgent : BK → List Nat
  | .mgt => [1]
  | .rst => [1]
  | .pwr => [3, 4, 5]
  | .clk => [0]
  | .thm => [0, 1, 2, 4]
  | .msg => [6]
  | .mfil => [0, 1, 2, 3, 4, 5, 6, 7]
  | .cdac => [0]
  | .sec => [3, 4, 5, 6]
  | .nvs => [1]
  | .mem => [1]
  | .tst => [1]
  | .shf => [4, 6]
  | .lrx => [0, 1]
  | .idec => [1]
  | .ltx => [0]
  | .hsd => [0]
  | _ => []

end Sys2Proof
end

