-- ==== Sys2Proof/Machine/Fields.lean ====
section
/-!
DEFINITION. Register fields: how a field of a register table is named and where it lives in the register file
(R5, R8), and the row of a table that describes it.
-/

namespace Sys2Proof

/-- The access codes of a stored field (R5). WO fields hold nothing and have no row. -/
inductive Acc where
  | ro | rw | w1c | rc
  deriving DecidableEq, Repr

/-- The narrowest reset that restores a field (R8). -/
inductive Kind where
  | block | warm | cold | por
  deriving DecidableEq, Repr

/-- The two bits that carry the narrowest reset in a field's key. -/
def Kind.code : Kind → Nat
  | .block => 0 | .warm => 1 | .cold => 2 | .por => 3

/-- One field: its place in the register file, its width and its reset value. -/
structure Fld where
  key : Nat
  w : Nat
  rst : Nat
  deriving DecidableEq, Repr

/-- The field of `w` bits at bit `lo` of byte address `a`, with its reset value and narrowest reset. -/
@[reducible] def fld (a lo w rst : Nat) (k : Kind) : Fld := ⟨(a * 64 + lo) * 4 + k.code, w, rst⟩

/-- Where storage lies that no address reaches: banked and internal values of the block at `base`, kept clear of
every address of the map. -/
def hid (base off : Nat) : Nat := 2 ^ 36 + base * 256 + off

/-- A row of a register table. Register i and element j of the row lie at `off + s * i + s2 * j`, bit
`lo + b2 * j`; `vmin` to `vmax` are the values that a write accepts; `own` marks the OWNER class. -/
structure FRow where
  bk : BK
  off : Nat
  lo : Nat
  w : Nat
  acc : Acc
  kind : Kind
  rst : Nat
  n : Nat := 1
  s : Nat := 0
  n2 : Nat := 1
  s2 : Nat := 0
  b2 : Nat := 0
  xs : List (Nat × Nat) := []
  xj : Bool := false
  vmin : Nat := 0
  vmax : Nat := 0
  own : Bool := false
  deriving DecidableEq, Repr

/-- The reset value of element (i, j) of a row. -/
def FRow.rstAt (r : FRow) (i j : Nat) : Nat := (r.xs.lookup (if r.xj then j else i)).getD r.rst

/-- The field of element (i, j) of a row in the block at `base`. -/
def FRow.at (r : FRow) (base i j : Nat) : Fld :=
  fld (base + r.off + r.s * i + r.s2 * j) (r.lo + r.b2 * j) r.w (r.rstAt i j) r.kind

/-- The number of words a field of the row takes (R9). -/
def FRow.words (r : FRow) : Nat := if r.w ≤ 32 then 1 else (r.w + 31) / 32

/-- The elements (i, j) of a row that lie in the word at offset `o`, and which word of a wide value that word is. -/
def FRow.hits (r : FRow) (o : Nat) : List (Nat × Nat × Nat) :=
  if o < r.off then [] else
  let d := o - r.off
  let i := if r.s = 0 then 0 else d / r.s
  let e := if r.s = 0 then d else d % r.s
  if r.n ≤ i then []
  else if r.s2 = 0 then
    if e < 4 * r.words then (List.range r.n2).map (fun j => (i, j, e / 4)) else []
  else
    let j := e / r.s2
    if j < r.n2 ∧ e % r.s2 < 4 * r.words then [(i, j, e % r.s2 / 4)] else []

end Sys2Proof
end

