-- ==== Sys2Proof/Machine/Regs.lean ====
section
/-!
DEFINITION. Every stored field of every register table of the spec, by name (`R`), and the rows that the
management ports go by (`Row`, `rowsOf`). A field whose docstring says internal has no address: it is banked or
internal storage.
-/

namespace Sys2Proof.R

/-- BLK_CTRL.EN (R335). -/
def BLK_CTRL_EN (b : Blk) : Fld := fld (b.base + 8) 0 1 1 .cold
/-- BLK_CTRL.WAKE_ON_ACCESS (R335). -/
def BLK_CTRL_WAKE_ON_ACCESS (b : Blk) : Fld := fld (b.base + 8) 2 1 1 .cold
/-- BLK_CTRL.EXPERT (R335). -/
def BLK_CTRL_EXPERT (b : Blk) : Fld := fld (b.base + 8) 0x10 2 0 .block
/-- BLK_STAT.STATE (R335). -/
def BLK_STAT_STATE (b : Blk) : Fld := fld (b.base + 0xC) 0 3 0 .block
/-- BLK_STAT.RESTART_PENDING (R335). -/
def BLK_STAT_RESTART_PENDING (b : Blk) : Fld := fld (b.base + 0xC) 4 1 0 .block
/-- BLK_STAT.CONFLICT (R335). -/
def BLK_STAT_CONFLICT (b : Blk) : Fld := fld (b.base + 0xC) 5 1 0 .block
/-- BLK_STAT.BUSY (R335). -/
def BLK_STAT_BUSY (b : Blk) : Fld := fld (b.base + 0xC) 6 1 0 .block
/-- BLK_STAT.IN_RESET (R335). -/
def BLK_STAT_IN_RESET (b : Blk) : Fld := fld (b.base + 0xC) 7 1 0 .block
/-- IRQ_RAW.RAW (R335). -/
def IRQ_RAW_RAW (b : Blk) (j : Nat) : Fld := fld (b.base + 0x10) (0 + 1 * j) 1 0 .block
/-- IRQ_EN.EN (R335). -/
def IRQ_EN_EN (b : Blk) (j : Nat) : Fld := fld (b.base + 0x14) (0 + 1 * j) 1 0 .block
/-- ERR_CAP.CODE (R335). -/
def ERR_CAP_CODE (b : Blk) : Fld := fld (b.base + 0x20) 0 8 0 .block
/-- ERR_CAP.REQ (R335). -/
def ERR_CAP_REQ (b : Blk) : Fld := fld (b.base + 0x20) 8 3 0 .block
/-- ERR_CAP.OFFSET (R335). -/
def ERR_CAP_OFFSET (b : Blk) : Fld := fld (b.base + 0x20) 0x10 16 0 .block
/-- CLAIM.OWNER (R335). -/
def CLAIM_OWNER (b : Blk) : Fld := fld (b.base + 0x24) 0 3 0 .block
/-- BLK_FAILED.FLAG (R335); internal: a self-test or a health check has condemned the block, R335. -/
def BLK_FAILED_FLAG (b : Blk) : Fld := fld ((hid b.base 0x200000)) 0 1 0 .cold
/-- BLK_ARM.BY (R335); internal: the requester that armed the expert unlock, R337. -/
def BLK_ARM_BY (b : Blk) : Fld := fld ((hid b.base 0x200004)) 0 3 0 .block
/-- SHF_LANE_CFG.EN (R33). -/
def SHF_LANE_CFG_EN (s : Nat) (i : Nat) : Fld := fld ((0x01000000 + s * 0x00100000) + 0x40 + 4 * i) 0 1 0 .block
/-- SHF_LANE_CFG.RATE (R33). -/
def SHF_LANE_CFG_RATE (s : Nat) (i : Nat) : Fld := fld ((0x01000000 + s * 0x00100000) + 0x40 + 4 * i) 1 1 0 .block
/-- SHF_LANE_CFG.MODE (R33). -/
def SHF_LANE_CFG_MODE (s : Nat) (i : Nat) : Fld := fld ((0x01000000 + s * 0x00100000) + 0x40 + 4 * i) 2 2 2 .block
/-- SHF_LANE_CFG.ASSIST (R33). -/
def SHF_LANE_CFG_ASSIST (s : Nat) (i : Nat) : Fld := fld ((0x01000000 + s * 0x00100000) + 0x40 + 4 * i) 4 1 0 .block
/-- SHF_LANE_CFG.DIM_REQ (R33). -/
def SHF_LANE_CFG_DIM_REQ (s : Nat) (i : Nat) : Fld := fld ((0x01000000 + s * 0x00100000) + 0x40 + 4 * i) 5 1 0 .block
/-- SHF_LANE_STATE.STATE (R33). -/
def SHF_LANE_STATE_STATE (s : Nat) (j : Nat) : Fld := fld ((0x01000000 + s * 0x00100000) + 0x50) (0 + 4 * j) 4 0 .block
/-- SHF_LANE_STATE.PL_WAIT (R33). -/
def SHF_LANE_STATE_PL_WAIT (s : Nat) (j : Nat) : Fld := fld ((0x01000000 + s * 0x00100000) + 0x50) (0x10 + 1 * j) 1 0 .block
/-- SHF_LANE_STATE.TX_DIM (R33). -/
def SHF_LANE_STATE_TX_DIM (s : Nat) (j : Nat) : Fld := fld ((0x01000000 + s * 0x00100000) + 0x50) (0x14 + 1 * j) 1 0 .block
/-- SHF_LANE_STATE.COAST_CANDLE (R33). -/
def SHF_LANE_STATE_COAST_CANDLE (s : Nat) (j : Nat) : Fld := fld ((0x01000000 + s * 0x00100000) + 0x50) (0x18 + 1 * j) 1 0 .block
/-- SHF_LANE_STATE.BUSY (R33). -/
def SHF_LANE_STATE_BUSY (s : Nat) (j : Nat) : Fld := fld ((0x01000000 + s * 0x00100000) + 0x50) (0x1C + 1 * j) 1 0 .block
/-- SHF_LANE_FAULT.CAUSE (R33). -/
def SHF_LANE_FAULT_CAUSE (s : Nat) (j : Nat) : Fld := fld ((0x01000000 + s * 0x00100000) + 0x54) (0 + 4 * j) 4 0 .block
/-- SHF_SLICE_MAP.LANE_SLICE (R33). -/
def SHF_SLICE_MAP_LANE_SLICE (s : Nat) (j : Nat) : Fld := fld ((0x01000000 + s * 0x00100000) + 0x60) (0 + 4 * j) 3 (([(0, 0), (1, 1), (2, 2), (3, 3)] : List (Nat × Nat)).lookup j |>.getD 0) .cold
/-- SHF_SLICE_MAP.RETIRED (R33). -/
def SHF_SLICE_MAP_RETIRED (s : Nat) (j : Nat) : Fld := fld ((0x01000000 + s * 0x00100000) + 0x60) (0x10 + 1 * j) 1 0 .cold
/-- SHF_SLICE_MAP.SPARE_USED (R33). -/
def SHF_SLICE_MAP_SPARE_USED (s : Nat) : Fld := fld ((0x01000000 + s * 0x00100000) + 0x60) 0x18 1 0 .cold
/-- SHF_PLL_STAT.LINE_LOCK (R33). -/
def SHF_PLL_STAT_LINE_LOCK (s : Nat) : Fld := fld ((0x01000000 + s * 0x00100000) + 0x64) 0 1 0 .block
/-- SHF_PLL_STAT.HOST_LOCK (R33). -/
def SHF_PLL_STAT_HOST_LOCK (s : Nat) : Fld := fld ((0x01000000 + s * 0x00100000) + 0x64) 1 1 0 .block
/-- SHF_PLL_STAT.LINE_LOL (R33). -/
def SHF_PLL_STAT_LINE_LOL (s : Nat) : Fld := fld ((0x01000000 + s * 0x00100000) + 0x64) 8 1 0 .block
/-- SHF_PLL_STAT.HOST_LOL (R33). -/
def SHF_PLL_STAT_HOST_LOL (s : Nat) : Fld := fld ((0x01000000 + s * 0x00100000) + 0x64) 9 1 0 .block
/-- LFR_CFG.TX_PRECODE (R73). -/
def LFR_CFG_TX_PRECODE (l : Nat) : Fld := fld ((0x02050000 + l * 0x00100000) + 0x40) 0 1 0 .block
/-- LFR_CFG.RX_PRECODE (R73). -/
def LFR_CFG_RX_PRECODE (l : Nat) : Fld := fld ((0x02050000 + l * 0x00100000) + 0x40) 1 1 0 .block
/-- LFR_STAT.PILOT_LOCK (R73). -/
def LFR_STAT_PILOT_LOCK (l : Nat) : Fld := fld ((0x02050000 + l * 0x00100000) + 0x44) 0 1 0 .block
/-- LFR_STAT.SCR_LOCK (R73). -/
def LFR_STAT_SCR_LOCK (l : Nat) : Fld := fld ((0x02050000 + l * 0x00100000) + 0x44) 1 1 0 .block
/-- LFR_STAT.RX_DIM (R73). -/
def LFR_STAT_RX_DIM (l : Nat) : Fld := fld ((0x02050000 + l * 0x00100000) + 0x44) 2 1 0 .block
/-- LFR_STAT.TX_MARK (R73). -/
def LFR_STAT_TX_MARK (l : Nat) : Fld := fld ((0x02050000 + l * 0x00100000) + 0x44) 3 1 0 .block
/-- LFR_TX_SFC.COUNT (R73). -/
def LFR_TX_SFC_COUNT (l : Nat) : Fld := fld ((0x02050000 + l * 0x00100000) + 0x48) 0 32 0 .block
/-- LFR_RX_SFC.COUNT (R73). -/
def LFR_RX_SFC_COUNT (l : Nat) : Fld := fld ((0x02050000 + l * 0x00100000) + 0x4C) 0 32 0 .block
/-- LFR_PILOT_BAD.COUNT (R73). -/
def LFR_PILOT_BAD_COUNT (l : Nat) : Fld := fld ((0x02050000 + l * 0x00100000) + 0x50) 0 32 0 .block
/-- LFR_SFC_MISS.COUNT (R73). -/
def LFR_SFC_MISS_COUNT (l : Nat) : Fld := fld ((0x02050000 + l * 0x00100000) + 0x54) 0 32 0 .block
/-- LFR_TEST.SCR_BYPASS_TX (R73). -/
def LFR_TEST_SCR_BYPASS_TX (l : Nat) : Fld := fld ((0x02050000 + l * 0x00100000) + 0x400) 0 1 0 .block
/-- LFR_TEST.SCR_BYPASS_RX (R73). -/
def LFR_TEST_SCR_BYPASS_RX (l : Nat) : Fld := fld ((0x02050000 + l * 0x00100000) + 0x400) 1 1 0 .block
/-- LFR_TEST.PILOT_TOL (R73). -/
def LFR_TEST_PILOT_TOL (l : Nat) : Fld := fld ((0x02050000 + l * 0x00100000) + 0x400) 2 2 1 .block
/-- LRX_CFG.LOS_THR (R117). -/
def LRX_CFG_LOS_THR (l : Nat) : Fld := fld ((0x02000000 + l * 0x00100000) + 0x40) 0 8 0xA .block
/-- LRX_CFG.LOS_CLR (R117). -/
def LRX_CFG_LOS_CLR (l : Nat) : Fld := fld ((0x02000000 + l * 0x00100000) + 0x40) 8 2 0 .block
/-- LRX_STAT.LOS (R117). -/
def LRX_STAT_LOS (l : Nat) : Fld := fld ((0x02000000 + l * 0x00100000) + 0x44) 0 1 1 .block
/-- LRX_STAT.LOS_RAW (R117). -/
def LRX_STAT_LOS_RAW (l : Nat) : Fld := fld ((0x02000000 + l * 0x00100000) + 0x44) 1 1 1 .block
/-- LRX_STAT.AGC_DONE (R117). -/
def LRX_STAT_AGC_DONE (l : Nat) : Fld := fld ((0x02000000 + l * 0x00100000) + 0x44) 2 1 0 .block
/-- LRX_STAT.ADC_READY (R117). -/
def LRX_STAT_ADC_READY (l : Nat) : Fld := fld ((0x02000000 + l * 0x00100000) + 0x44) 3 1 0 .block
/-- LRX_GAIN.CTLE (R117). -/
def LRX_GAIN_CTLE (l : Nat) : Fld := fld ((0x02000000 + l * 0x00100000) + 0x48) 0 5 0x12 .block
/-- LRX_GAIN.VGA (R117). -/
def LRX_GAIN_VGA (l : Nat) : Fld := fld ((0x02000000 + l * 0x00100000) + 0x48) 8 7 0x18 .block
/-- LRX_CLIP_CNT.COUNT (R117). -/
def LRX_CLIP_CNT_COUNT (l : Nat) : Fld := fld ((0x02000000 + l * 0x00100000) + 0x4C) 0 32 0 .block
/-- LRX_AFE_CTRL.CTLE_FREEZE (R117). -/
def LRX_AFE_CTRL_CTLE_FREEZE (l : Nat) : Fld := fld ((0x02000000 + l * 0x00100000) + 0x400) 0 1 0 .block
/-- LRX_AFE_CTRL.AGC_FREEZE (R117). -/
def LRX_AFE_CTRL_AGC_FREEZE (l : Nat) : Fld := fld ((0x02000000 + l * 0x00100000) + 0x400) 1 1 0 .block
/-- LRX_AFE_CTRL.CTLE_FORCE (R117). -/
def LRX_AFE_CTRL_CTLE_FORCE (l : Nat) : Fld := fld ((0x02000000 + l * 0x00100000) + 0x400) 8 5 0x12 .block
/-- LRX_AFE_CTRL.VGA_FORCE (R117). -/
def LRX_AFE_CTRL_VGA_FORCE (l : Nat) : Fld := fld ((0x02000000 + l * 0x00100000) + 0x400) 0x10 7 0x18 .block
/-- LRX_AFE_CTRL.AGC_TGT (R117). -/
def LRX_AFE_CTRL_AGC_TGT (l : Nat) : Fld := fld ((0x02000000 + l * 0x00100000) + 0x400) 0x18 8 0x2C .block
/-- LRX_CORE_SEL.CORE (R117). -/
def LRX_CORE_SEL_CORE (l : Nat) : Fld := fld ((0x02000000 + l * 0x00100000) + 0x404) 0 7 0 .block
/-- LRX_CORE_TRIM.OFFSET (R117). -/
def LRX_CORE_TRIM_OFFSET (l : Nat) (i : Nat) : Fld := fld ((hid (0x02000000 + l * 0x00100000) 0) + 4 * i) 0 8 0 .cold
/-- LRX_CORE_TRIM.GAIN (R117). -/
def LRX_CORE_TRIM_GAIN (l : Nat) (i : Nat) : Fld := fld ((hid (0x02000000 + l * 0x00100000) 0) + 4 * i) 8 12 0 .cold
/-- LRX_CORE_TRIM.SKEW (R117). -/
def LRX_CORE_TRIM_SKEW (l : Nat) (i : Nat) : Fld := fld ((hid (0x02000000 + l * 0x00100000) 0) + 4 * i) 0x14 10 0 .cold
/-- REQ_CFG.REACH (R118). -/
def REQ_CFG_REACH (l : Nat) : Fld := fld ((0x02010000 + l * 0x00100000) + 0x40) 0 2 1 .block
/-- REQ_CFG.ECHO_AUTO (R118). -/
def REQ_CFG_ECHO_AUTO (l : Nat) : Fld := fld ((0x02010000 + l * 0x00100000) + 0x40) 2 1 1 .block
/-- REQ_STAT.TR_LOCK (R118). -/
def REQ_STAT_TR_LOCK (l : Nat) : Fld := fld ((0x02010000 + l * 0x00100000) + 0x44) 0 1 0 .block
/-- REQ_STAT.FFE_CONV (R118). -/
def REQ_STAT_FFE_CONV (l : Nat) : Fld := fld ((0x02010000 + l * 0x00100000) + 0x44) 1 1 0 .block
/-- REQ_STAT.MLSE_ACTIVE (R118). -/
def REQ_STAT_MLSE_ACTIVE (l : Nat) : Fld := fld ((0x02010000 + l * 0x00100000) + 0x44) 2 1 0 .block
/-- REQ_STAT.MLSE_CONV (R118). -/
def REQ_STAT_MLSE_CONV (l : Nat) : Fld := fld ((0x02010000 + l * 0x00100000) + 0x44) 3 1 0 .block
/-- REQ_STAT.PASS2_ACTIVE (R118). -/
def REQ_STAT_PASS2_ACTIVE (l : Nat) : Fld := fld ((0x02010000 + l * 0x00100000) + 0x44) 4 1 0 .block
/-- REQ_STAT.FROZEN (R118). -/
def REQ_STAT_FROZEN (l : Nat) : Fld := fld ((0x02010000 + l * 0x00100000) + 0x44) 5 1 0 .block
/-- REQ_SNR.SNR (R118). -/
def REQ_SNR_SNR (l : Nat) : Fld := fld ((0x02010000 + l * 0x00100000) + 0x48) 0 10 0 .block
/-- REQ_SNR.VALID (R118). -/
def REQ_SNR_VALID (l : Nat) : Fld := fld ((0x02010000 + l * 0x00100000) + 0x48) 0x10 1 0 .block
/-- REQ_SNR_MIN.SNR_MIN (R118). -/
def REQ_SNR_MIN_SNR_MIN (l : Nat) : Fld := fld ((0x02010000 + l * 0x00100000) + 0x4C) 0 10 0x82 .block
/-- REQ_TR_FREQ.FREQ (R118). -/
def REQ_TR_FREQ_FREQ (l : Nat) : Fld := fld ((0x02010000 + l * 0x00100000) + 0x50) 0 16 0 .block
/-- REQ_LVL_MEAN.MEAN (R118). -/
def REQ_LVL_MEAN_MEAN (l : Nat) (i : Nat) : Fld := fld ((0x02010000 + l * 0x00100000) + 0x60 + 4 * i) 0 16 (([(0, 0xFA00), (1, 0xFE00), (2, 0x200), (3, 0x600)] : List (Nat × Nat)).lookup i |>.getD 0) .block
/-- REQ_LVL_SIGMA.SIGMA (R118). -/
def REQ_LVL_SIGMA_SIGMA (l : Nat) (i : Nat) : Fld := fld ((0x02010000 + l * 0x00100000) + 0x70 + 4 * i) 0 16 0x80 .block
/-- REQ_HIST_CFG.SRC (R118). -/
def REQ_HIST_CFG_SRC (l : Nat) : Fld := fld ((0x02010000 + l * 0x00100000) + 0x80) 0 1 0 .block
/-- REQ_HIST_CFG.LVL_EN (R118). -/
def REQ_HIST_CFG_LVL_EN (l : Nat) : Fld := fld ((0x02010000 + l * 0x00100000) + 0x80) 1 1 0 .block
/-- REQ_HIST_CFG.LEVEL (R118). -/
def REQ_HIST_CFG_LEVEL (l : Nat) : Fld := fld ((0x02010000 + l * 0x00100000) + 0x80) 2 2 0 .block
/-- REQ_HIST_CFG.LEN (R118). -/
def REQ_HIST_CFG_LEN (l : Nat) : Fld := fld ((0x02010000 + l * 0x00100000) + 0x80) 8 6 0x14 .block
/-- REQ_HIST_STAT.BUSY (R118). -/
def REQ_HIST_STAT_BUSY (l : Nat) : Fld := fld ((0x02010000 + l * 0x00100000) + 0x84) 0 1 0 .block
/-- REQ_HIST_STAT.DONE (R118). -/
def REQ_HIST_STAT_DONE (l : Nat) : Fld := fld ((0x02010000 + l * 0x00100000) + 0x84) 1 1 0 .block
/-- REQ_ADAPT.TR_FREEZE (R118). -/
def REQ_ADAPT_TR_FREEZE (l : Nat) : Fld := fld ((0x02010000 + l * 0x00100000) + 0x400) 0 1 0 .block
/-- REQ_ADAPT.FFE_FREEZE (R118). -/
def REQ_ADAPT_FFE_FREEZE (l : Nat) : Fld := fld ((0x02010000 + l * 0x00100000) + 0x400) 1 1 0 .block
/-- REQ_ADAPT.ECHO_FREEZE (R118). -/
def REQ_ADAPT_ECHO_FREEZE (l : Nat) : Fld := fld ((0x02010000 + l * 0x00100000) + 0x400) 2 1 0 .block
/-- REQ_ADAPT.LVL_FREEZE (R118). -/
def REQ_ADAPT_LVL_FREEZE (l : Nat) : Fld := fld ((0x02010000 + l * 0x00100000) + 0x400) 3 1 0 .block
/-- REQ_ADAPT.THR_FREEZE (R118). -/
def REQ_ADAPT_THR_FREEZE (l : Nat) : Fld := fld ((0x02010000 + l * 0x00100000) + 0x400) 4 1 0 .block
/-- REQ_TR_LOOP.KP (R118). -/
def REQ_TR_LOOP_KP (l : Nat) : Fld := fld ((0x02010000 + l * 0x00100000) + 0x404) 0 5 8 .block
/-- REQ_TR_LOOP.KI (R118). -/
def REQ_TR_LOOP_KI (l : Nat) : Fld := fld ((0x02010000 + l * 0x00100000) + 0x404) 8 5 0x12 .block
/-- REQ_TR_LOOP.PHASE_OFS (R118). -/
def REQ_TR_LOOP_PHASE_OFS (l : Nat) : Fld := fld ((0x02010000 + l * 0x00100000) + 0x404) 0x10 7 0 .block
/-- REQ_FFE_CTRL.MU (R118). -/
def REQ_FFE_CTRL_MU (l : Nat) : Fld := fld ((0x02010000 + l * 0x00100000) + 0x408) 8 4 0xA .block
/-- REQ_MLSE_TGT.H1 (R118). -/
def REQ_MLSE_TGT_H1 (l : Nat) : Fld := fld ((0x02010000 + l * 0x00100000) + 0x420) 0 12 0 .block
/-- REQ_MLSE_TGT.H2 (R118). -/
def REQ_MLSE_TGT_H2 (l : Nat) : Fld := fld ((0x02010000 + l * 0x00100000) + 0x420) 0x10 12 0 .block
/-- REQ_SLICER_THR.T (R118). -/
def REQ_SLICER_THR_T (l : Nat) (j : Nat) : Fld := fld ((0x02010000 + l * 0x00100000) + 0x424) (0 + 8 * j) 8 (([(0, 0xC0), (1, 0), (2, 0x40)] : List (Nat × Nat)).lookup j |>.getD 0) .block
/-- REQ_LVL_FORCE.MEAN (R118). -/
def REQ_LVL_FORCE_MEAN (l : Nat) (i : Nat) : Fld := fld ((0x02010000 + l * 0x00100000) + 0x430 + 4 * i) 0 16 (([(0, 0xFA00), (1, 0xFE00), (2, 0x200), (3, 0x600)] : List (Nat × Nat)).lookup i |>.getD 0) .block
/-- REQ_LVL_FORCE.SIGMA (R118). -/
def REQ_LVL_FORCE_SIGMA (l : Nat) (i : Nat) : Fld := fld ((0x02010000 + l * 0x00100000) + 0x430 + 4 * i) 0x10 16 0x80 .block
/-- REQ_HIST_BIN.COUNT (R118). -/
def REQ_HIST_BIN_COUNT (l : Nat) (i : Nat) : Fld := fld ((0x02010000 + l * 0x00100000) + 0x1000 + 4 * i) 0 32 0 .block
/-- REQ_FFE_SET.MAIN (R118); internal: the shadow set (0), the set in use (1) and the read-back set (2) of the FFE, R99. -/
def REQ_FFE_SET_MAIN (l : Nat) (i : Nat) : Fld := fld ((hid (0x02010000 + l * 0x00100000) 0) + 0x1000 * i) 0 6 0xC .block
/-- REQ_FFE_SET_ECHO.DELAY (R118); internal: the shadow set (0), the set in use (1) and the read-back set (2) of the FFE, R99. -/
def REQ_FFE_SET_ECHO_DELAY (l : Nat) (i : Nat) (j : Nat) : Fld := fld ((hid (0x02010000 + l * 0x00100000) 0x10) + 0x1000 * i + 4 * j) 0 10 0x30 .block
/-- REQ_FFE_SET_ECHO.EN (R118); internal: the shadow set (0), the set in use (1) and the read-back set (2) of the FFE, R99. -/
def REQ_FFE_SET_ECHO_EN (l : Nat) (i : Nat) (j : Nat) : Fld := fld ((hid (0x02010000 + l * 0x00100000) 0x10) + 0x1000 * i + 4 * j) 0xF 1 0 .block
/-- REQ_FFE_SET_ECHO.WEIGHT (R118); internal: the shadow set (0), the set in use (1) and the read-back set (2) of the FFE, R99. -/
def REQ_FFE_SET_ECHO_WEIGHT (l : Nat) (i : Nat) (j : Nat) : Fld := fld ((hid (0x02010000 + l * 0x00100000) 0x10) + 0x1000 * i + 4 * j) 0x10 12 0 .block
/-- REQ_FFE_SET_TAP.COEF (R118); internal: the shadow set (0), the set in use (1) and the read-back set (2) of the FFE, R99. -/
def REQ_FFE_SET_TAP_COEF (l : Nat) (i : Nat) (j : Nat) : Fld := fld ((hid (0x02010000 + l * 0x00100000) 0x100) + 0x1000 * i + 4 * j) 0 12 (([(12, 0x400)] : List (Nat × Nat)).lookup j |>.getD 0) .block
/-- CAP_CFG.LANE_MASK (R119). -/
def CAP_CFG_LANE_MASK (s : Nat) (j : Nat) : Fld := fld ((0x01010000 + s * 0x00100000) + 0x40) (0 + 1 * j) 1 0 .block
/-- CAP_CFG.SRC (R119). -/
def CAP_CFG_SRC (s : Nat) : Fld := fld ((0x01010000 + s * 0x00100000) + 0x40) 4 2 0 .block
/-- CAP_CFG.TRIG (R119). -/
def CAP_CFG_TRIG (s : Nat) : Fld := fld ((0x01010000 + s * 0x00100000) + 0x40) 8 3 0 .block
/-- CAP_CFG.ALARM (R119). -/
def CAP_CFG_ALARM (s : Nat) : Fld := fld ((0x01010000 + s * 0x00100000) + 0x40) 0x10 5 0 .block
/-- CAP_CFG.PRE (R119). -/
def CAP_CFG_PRE (s : Nat) : Fld := fld ((0x01010000 + s * 0x00100000) + 0x40) 0x18 8 0 .block
/-- CAP_DECIM.D (R119). -/
def CAP_DECIM_D (s : Nat) : Fld := fld ((0x01010000 + s * 0x00100000) + 0x44) 0 5 0 .block
/-- CAP_FILL_PAT.PAT (R119). -/
def CAP_FILL_PAT_PAT (s : Nat) : Fld := fld ((0x01010000 + s * 0x00100000) + 0x4C) 0 32 0 .block
/-- CAP_STAT.STATE (R119). -/
def CAP_STAT_STATE (s : Nat) : Fld := fld ((0x01010000 + s * 0x00100000) + 0x50) 0 3 0 .block
/-- CAP_STAT.WRAPPED (R119). -/
def CAP_STAT_WRAPPED (s : Nat) : Fld := fld ((0x01010000 + s * 0x00100000) + 0x50) 8 1 0 .block
/-- CAP_TRIG_POS.OFFSET (R119). -/
def CAP_TRIG_POS_OFFSET (s : Nat) : Fld := fld ((0x01010000 + s * 0x00100000) + 0x54) 0 23 0 .block
/-- CAP_OLDEST.OFFSET (R119). -/
def CAP_OLDEST_OFFSET (s : Nat) : Fld := fld ((0x01010000 + s * 0x00100000) + 0x58) 0 23 0 .block
/-- CAP_END.OFFSET (R119). -/
def CAP_END_OFFSET (s : Nat) : Fld := fld ((0x01010000 + s * 0x00100000) + 0x5C) 0 23 0 .block
/-- CAP_TRIG_TIME.TIME (R119). -/
def CAP_TRIG_TIME_TIME (s : Nat) : Fld := fld ((0x01010000 + s * 0x00100000) + 0x60) 0 96 0 .block
/-- CAP_SF_POS.POSITION (R119). -/
def CAP_SF_POS_POSITION (s : Nat) (i : Nat) : Fld := fld ((0x01010000 + s * 0x00100000) + 0x70 + 4 * i) 0 11 0 .block
/-- CAP_SF_POS.FRAME (R119). -/
def CAP_SF_POS_FRAME (s : Nat) (i : Nat) : Fld := fld ((0x01010000 + s * 0x00100000) + 0x70 + 4 * i) 0xB 8 0 .block
/-- CAP_SF_POS.VALID (R119). -/
def CAP_SF_POS_VALID (s : Nat) (i : Nat) : Fld := fld ((0x01010000 + s * 0x00100000) + 0x70 + 4 * i) 0x13 1 0 .block
/-- CAP_SF_POS.SFC (R119). -/
def CAP_SF_POS_SFC (s : Nat) (i : Nat) : Fld := fld ((0x01010000 + s * 0x00100000) + 0x70 + 4 * i) 0x18 8 0 .block
/-- IDEC_CFG.P2_POLICY (R146). -/
def IDEC_CFG_P2_POLICY (l : Nat) : Fld := fld ((0x02020000 + l * 0x00100000) + 0x40) 0 1 0 .block
/-- IDEC_STAT.PASS (R146). -/
def IDEC_STAT_PASS (l : Nat) : Fld := fld ((0x02020000 + l * 0x00100000) + 0x44) 0 2 0 .block
/-- IDEC_STAT.SD (R146). -/
def IDEC_STAT_SD (l : Nat) : Fld := fld ((0x02020000 + l * 0x00100000) + 0x44) 2 1 0 .block
/-- IDEC_STAT.SF (R146). -/
def IDEC_STAT_SF (l : Nat) : Fld := fld ((0x02020000 + l * 0x00100000) + 0x44) 3 1 0 .block
/-- IDEC_STAT.THROTTLED (R146). -/
def IDEC_STAT_THROTTLED (l : Nat) : Fld := fld ((0x02020000 + l * 0x00100000) + 0x44) 4 1 0 .block
/-- IDEC_STAT.STOPPED (R146). -/
def IDEC_STAT_STOPPED (l : Nat) : Fld := fld ((0x02020000 + l * 0x00100000) + 0x44) 5 1 0 .block
/-- IDEC_SD_CFG.WIN (R146). -/
def IDEC_SD_CFG_WIN (l : Nat) : Fld := fld ((0x02020000 + l * 0x00100000) + 0x48) 0 5 0xE .block
/-- IDEC_SD_CFG.SET_M (R146). -/
def IDEC_SD_CFG_SET_M (l : Nat) : Fld := fld ((0x02020000 + l * 0x00100000) + 0x48) 8 4 1 .block
/-- IDEC_SD_CFG.SET_E (R146). -/
def IDEC_SD_CFG_SET_E (l : Nat) : Fld := fld ((0x02020000 + l * 0x00100000) + 0x48) 0xC 4 3 .block
/-- IDEC_SD_CFG.CLR_M (R146). -/
def IDEC_SD_CFG_CLR_M (l : Nat) : Fld := fld ((0x02020000 + l * 0x00100000) + 0x48) 0x10 4 5 .block
/-- IDEC_SD_CFG.CLR_E (R146). -/
def IDEC_SD_CFG_CLR_E (l : Nat) : Fld := fld ((0x02020000 + l * 0x00100000) + 0x48) 0x14 4 4 .block
/-- IDEC_SD_CFG.CLR_WINS (R146). -/
def IDEC_SD_CFG_CLR_WINS (l : Nat) : Fld := fld ((0x02020000 + l * 0x00100000) + 0x48) 0x18 4 3 .block
/-- IDEC_SF_CFG.SET_M (R146). -/
def IDEC_SF_CFG_SET_M (l : Nat) : Fld := fld ((0x02020000 + l * 0x00100000) + 0x4C) 0 4 4 .block
/-- IDEC_SF_CFG.SET_E (R146). -/
def IDEC_SF_CFG_SET_E (l : Nat) : Fld := fld ((0x02020000 + l * 0x00100000) + 0x4C) 4 4 3 .block
/-- IDEC_SF_CFG.UNC (R146). -/
def IDEC_SF_CFG_UNC (l : Nat) : Fld := fld ((0x02020000 + l * 0x00100000) + 0x4C) 8 16 0x100 .block
/-- IDEC_CW.COUNT (R146). -/
def IDEC_CW_COUNT (l : Nat) : Fld := fld ((0x02020000 + l * 0x00100000) + 0x60) 0 48 0 .block
/-- IDEC_CORR_BITS.COUNT (R146). -/
def IDEC_CORR_BITS_COUNT (l : Nat) : Fld := fld ((0x02020000 + l * 0x00100000) + 0x68) 0 48 0 .block
/-- IDEC_UNCORR.COUNT (R146). -/
def IDEC_UNCORR_COUNT (l : Nat) : Fld := fld ((0x02020000 + l * 0x00100000) + 0x70) 0 48 0 .block
/-- IDEC_P2_RUN.COUNT (R146). -/
def IDEC_P2_RUN_COUNT (l : Nat) : Fld := fld ((0x02020000 + l * 0x00100000) + 0x78) 0 48 0 .block
/-- IDEC_P2_SKIP.COUNT (R146). -/
def IDEC_P2_SKIP_COUNT (l : Nat) : Fld := fld ((0x02020000 + l * 0x00100000) + 0x80) 0 48 0 .block
/-- IDEC_P2_RESCUE.COUNT (R146). -/
def IDEC_P2_RESCUE_COUNT (l : Nat) : Fld := fld ((0x02020000 + l * 0x00100000) + 0x88) 0 48 0 .block
/-- IDEC_WIN_CORR.COUNT (R146). -/
def IDEC_WIN_CORR_COUNT (l : Nat) : Fld := fld ((0x02020000 + l * 0x00100000) + 0x90) 0 48 0 .block
/-- IDEC_WIN_UNCORR.COUNT (R146). -/
def IDEC_WIN_UNCORR_COUNT (l : Nat) : Fld := fld ((0x02020000 + l * 0x00100000) + 0x98) 0 32 0 .block
/-- IDEC_WIN_STAT.VALID (R146). -/
def IDEC_WIN_STAT_VALID (l : Nat) : Fld := fld ((0x02020000 + l * 0x00100000) + 0x9C) 0 1 0 .block
/-- IDEC_WIN_STAT.THROTTLED (R146). -/
def IDEC_WIN_STAT_THROTTLED (l : Nat) : Fld := fld ((0x02020000 + l * 0x00100000) + 0x9C) 1 1 0 .block
/-- IDEC_WIN_STAT.W (R146). -/
def IDEC_WIN_STAT_W (l : Nat) : Fld := fld ((0x02020000 + l * 0x00100000) + 0x9C) 8 5 0 .block
/-- IDEC_THROTTLE.PAUSE (R146). -/
def IDEC_THROTTLE_PAUSE (l : Nat) : Fld := fld ((0x02020000 + l * 0x00100000) + 0xA0) 0 8 0 .block
/-- IDEC_SOFT.P1_TP (R146). -/
def IDEC_SOFT_P1_TP (l : Nat) : Fld := fld ((0x02020000 + l * 0x00100000) + 0x400) 0 4 6 .block
/-- IDEC_SOFT.P2_TP (R146). -/
def IDEC_SOFT_P2_TP (l : Nat) : Fld := fld ((0x02020000 + l * 0x00100000) + 0x400) 4 4 5 .block
/-- IDEC_SOFT.ALPHA (R146). -/
def IDEC_SOFT_ALPHA (l : Nat) : Fld := fld ((0x02020000 + l * 0x00100000) + 0x400) 8 5 8 .block
/-- IDEC_SOFT.BETA (R146). -/
def IDEC_SOFT_BETA (l : Nat) : Fld := fld ((0x02020000 + l * 0x00100000) + 0x400) 0x10 6 8 .block
/-- IDEC_FORCE.P2_OFF (R146). -/
def IDEC_FORCE_P2_OFF (l : Nat) : Fld := fld ((0x02020000 + l * 0x00100000) + 0x404) 0 1 0 .block
/-- IDEC_FORCE.HARD (R146). -/
def IDEC_FORCE_HARD (l : Nat) : Fld := fld ((0x02020000 + l * 0x00100000) + 0x404) 1 1 0 .block
/-- GBX_HOST_CFG.MUX (R205). -/
def GBX_HOST_CFG_MUX (l : Nat) : Fld := fld ((0x02030000 + l * 0x00100000) + 0x40) 0 1 0 .block
/-- GBX_HOST_CFG.PORT_W (R205). -/
def GBX_HOST_CFG_PORT_W (l : Nat) : Fld := fld ((0x02030000 + l * 0x00100000) + 0x40) 1 3 1 .block
/-- GBX_HOST_CFG.TX_SWAP (R205). -/
def GBX_HOST_CFG_TX_SWAP (l : Nat) : Fld := fld ((0x02030000 + l * 0x00100000) + 0x40) 4 1 0 .block
/-- GBX_HOST_CFG.RX_SWAP (R205). -/
def GBX_HOST_CFG_RX_SWAP (l : Nat) : Fld := fld ((0x02030000 + l * 0x00100000) + 0x40) 5 1 0 .block
/-- GBX_HOST_CFG.IDLE (R205). -/
def GBX_HOST_CFG_IDLE (l : Nat) : Fld := fld ((0x02030000 + l * 0x00100000) + 0x40) 6 1 0 .block
/-- GBX_HOST_CFG.LPI (R205). -/
def GBX_HOST_CFG_LPI (l : Nat) : Fld := fld ((0x02030000 + l * 0x00100000) + 0x40) 7 1 0 .block
/-- GBX_HOST_STAT.AM_LOCK (R205). -/
def GBX_HOST_STAT_AM_LOCK (l : Nat) (j : Nat) : Fld := fld ((0x02030000 + l * 0x00100000) + 0x44) (0 + 1 * j) 1 0 .block
/-- GBX_HOST_STAT.RX_AM_LOCK (R205). -/
def GBX_HOST_STAT_RX_AM_LOCK (l : Nat) (j : Nat) : Fld := fld ((0x02030000 + l * 0x00100000) + 0x44) (2 + 1 * j) 1 0 .block
/-- GBX_HOST_STAT.TX_TRACK (R205). -/
def GBX_HOST_STAT_TX_TRACK (l : Nat) : Fld := fld ((0x02030000 + l * 0x00100000) + 0x44) 4 1 0 .block
/-- GBX_HOST_STAT.SKEW_ERR (R205). -/
def GBX_HOST_STAT_SKEW_ERR (l : Nat) : Fld := fld ((0x02030000 + l * 0x00100000) + 0x44) 5 1 0 .block
/-- GBX_HOST_STAT.CFG_ERR (R205). -/
def GBX_HOST_STAT_CFG_ERR (l : Nat) : Fld := fld ((0x02030000 + l * 0x00100000) + 0x44) 6 1 0 .block
/-- GBX_HOST_STAT.DESKEWED (R205). -/
def GBX_HOST_STAT_DESKEWED (l : Nat) : Fld := fld ((0x02030000 + l * 0x00100000) + 0x44) 7 1 0 .block
/-- GBX_HOST_STAT.TIMING_LANE (R205). -/
def GBX_HOST_STAT_TIMING_LANE (l : Nat) : Fld := fld ((0x02030000 + l * 0x00100000) + 0x44) 8 2 0 .block
/-- GBX_SKEW.HOLD (R205). -/
def GBX_SKEW_HOLD (l : Nat) (j : Nat) : Fld := fld ((0x02030000 + l * 0x00100000) + 0x48) (0 + 16 * j) 12 0 .block
/-- GBX_SLIP_CNT.COUNT (R205). -/
def GBX_SLIP_CNT_COUNT (l : Nat) : Fld := fld ((0x02030000 + l * 0x00100000) + 0x4C) 0 32 0 .block
/-- GBX_AM_CFG.LOCK_N (R205). -/
def GBX_AM_CFG_LOCK_N (l : Nat) : Fld := fld ((0x02030000 + l * 0x00100000) + 0x400) 0 3 2 .block
/-- GBX_AM_CFG.LOSS_N (R205). -/
def GBX_AM_CFG_LOSS_N (l : Nat) : Fld := fld ((0x02030000 + l * 0x00100000) + 0x400) 4 3 4 .block
/-- GBX_AM_CFG.MAX_ERR (R205). -/
def GBX_AM_CFG_MAX_ERR (l : Nat) : Fld := fld ((0x02030000 + l * 0x00100000) + 0x400) 8 3 3 .block
/-- GBX_OC_CFG.OBSERVE (R147). -/
def GBX_OC_CFG_OBSERVE (l : Nat) : Fld := fld ((0x02030000 + l * 0x00100000) + 0x100) 0 1 1 .block
/-- GBX_OC_CFG.MARK (R147). -/
def GBX_OC_CFG_MARK (l : Nat) : Fld := fld ((0x02030000 + l * 0x00100000) + 0x100) 1 1 0 .block
/-- GBX_OC_STAT.CW_LOCK (R147). -/
def GBX_OC_STAT_CW_LOCK (l : Nat) : Fld := fld ((0x02030000 + l * 0x00100000) + 0x104) 0 1 0 .block
/-- GBX_OC_STAT.LEAD (R147). -/
def GBX_OC_STAT_LEAD (l : Nat) : Fld := fld ((0x02030000 + l * 0x00100000) + 0x104) 1 1 0 .block
/-- GBX_OC_STAT.TWO_PORTS (R147). -/
def GBX_OC_STAT_TWO_PORTS (l : Nat) : Fld := fld ((0x02030000 + l * 0x00100000) + 0x104) 2 1 0 .block
/-- GBX_OC_STAT.CORRECTING (R147). -/
def GBX_OC_STAT_CORRECTING (l : Nat) : Fld := fld ((0x02030000 + l * 0x00100000) + 0x104) 3 1 0 .block
/-- GBX_OC_CW.COUNT (R147). -/
def GBX_OC_CW_COUNT (l : Nat) (i : Nat) : Fld := fld ((0x02030000 + l * 0x00100000) + 0x110 + 0x80 * i) 0 48 0 .block
/-- GBX_OC_CORR_CW.COUNT (R147). -/
def GBX_OC_CORR_CW_COUNT (l : Nat) (i : Nat) : Fld := fld ((0x02030000 + l * 0x00100000) + 0x118 + 0x80 * i) 0 48 0 .block
/-- GBX_OC_UNCORR_CW.COUNT (R147). -/
def GBX_OC_UNCORR_CW_COUNT (l : Nat) (i : Nat) : Fld := fld ((0x02030000 + l * 0x00100000) + 0x120 + 0x80 * i) 0 48 0 .block
/-- GBX_OC_SYM.COUNT (R147). -/
def GBX_OC_SYM_COUNT (l : Nat) (i : Nat) : Fld := fld ((0x02030000 + l * 0x00100000) + 0x128 + 0x80 * i) 0 48 0 .block
/-- GBX_OC_LANE_SYM.COUNT (R147). -/
def GBX_OC_LANE_SYM_COUNT (l : Nat) (i : Nat) : Fld := fld ((0x02030000 + l * 0x00100000) + 0x130 + 0x80 * i) 0 48 0 .block
/-- GBX_OC_HIST.COUNT (R147). -/
def GBX_OC_HIST_COUNT (l : Nat) (i : Nat) (j : Nat) : Fld := fld ((0x02030000 + l * 0x00100000) + 0x140 + 0x80 * i + 4 * j) 0 32 0 .block
/-- TXP_CFG.FIR_AUTO (R175). -/
def TXP_CFG_FIR_AUTO (l : Nat) : Fld := fld ((0x02040000 + l * 0x00100000) + 0x40) 0 1 1 .block
/-- TXP_CFG.PD_AUTO (R175). -/
def TXP_CFG_PD_AUTO (l : Nat) : Fld := fld ((0x02040000 + l * 0x00100000) + 0x40) 1 1 1 .block
/-- TXP_PAT.SEL (R175). -/
def TXP_PAT_SEL (l : Nat) : Fld := fld ((0x02040000 + l * 0x00100000) + 0x44) 0 3 0 .block
/-- TXP_PAT.HALF (R175). -/
def TXP_PAT_HALF (l : Nat) : Fld := fld ((0x02040000 + l * 0x00100000) + 0x44) 4 6 8 .block
/-- TXP_PAT.LEVEL (R175). -/
def TXP_PAT_LEVEL (l : Nat) : Fld := fld ((0x02040000 + l * 0x00100000) + 0x44) 0xC 2 0 .block
/-- TXP_STAT.PATTERN (R175). -/
def TXP_STAT_PATTERN (l : Nat) : Fld := fld ((0x02040000 + l * 0x00100000) + 0x48) 0 1 0 .block
/-- TXP_STAT.FILL (R175). -/
def TXP_STAT_FILL (l : Nat) (j : Nat) : Fld := fld ((0x02040000 + l * 0x00100000) + 0x48) (1 + 1 * j) 1 0 .block
/-- TXP_STAT.AUTO_RUN (R175). -/
def TXP_STAT_AUTO_RUN (l : Nat) : Fld := fld ((0x02040000 + l * 0x00100000) + 0x48) 3 1 0 .block
/-- TXP_SAT_CNT.COUNT (R175). -/
def TXP_SAT_CNT_COUNT (l : Nat) : Fld := fld ((0x02040000 + l * 0x00100000) + 0x4C) 0 32 0 .block
/-- TXP_SET.MAIN (R175); internal: the shadow set (0), the set in use (1) and the read-back set (2) of the transmit shaping, R157. -/
def TXP_SET_MAIN (l : Nat) (i : Nat) : Fld := fld ((hid (0x02040000 + l * 0x00100000) 0) + 0x1000 * i) 0 3 2 .block
/-- TXP_SET.STEP (R175); internal: the shadow set (0), the set in use (1) and the read-back set (2) of the transmit shaping, R157. -/
def TXP_SET_STEP (l : Nat) (i : Nat) : Fld := fld ((hid (0x02040000 + l * 0x00100000) 0) + 0x1000 * i) 0x10 6 0x28 .block
/-- TXP_SET_FIR.COEF (R175); internal: the shadow set (0), the set in use (1) and the read-back set (2) of the transmit shaping, R157. -/
def TXP_SET_FIR_COEF (l : Nat) (i : Nat) (j : Nat) : Fld := fld ((hid (0x02040000 + l * 0x00100000) 0x10) + 0x1000 * i + 4 * j) 0 10 (([(2, 0x100)] : List (Nat × Nat)).lookup j |>.getD 0) .block
/-- TXP_SET_PD.P (R175); internal: the shadow set (0), the set in use (1) and the read-back set (2) of the transmit shaping, R157. -/
def TXP_SET_PD_P (l : Nat) (i : Nat) (j : Nat) : Fld := fld ((hid (0x02040000 + l * 0x00100000) 0x100) + 0x1000 * i + 4 * j) 0 8 0 .block
/-- LTX_CFG.FS (R176). -/
def LTX_CFG_FS (l : Nat) : Fld := fld ((0x02060000 + l * 0x00100000) + 0x40) 0 5 0x10 .block
/-- LTX_CFG.SQUELCH (R176). -/
def LTX_CFG_SQUELCH (l : Nat) : Fld := fld ((0x02060000 + l * 0x00100000) + 0x40) 8 1 0 .block
/-- LTX_CFG.POL_INV (R176). -/
def LTX_CFG_POL_INV (l : Nat) : Fld := fld ((0x02060000 + l * 0x00100000) + 0x40) 9 1 0 .block
/-- LTX_STAT.READY (R176). -/
def LTX_STAT_READY (l : Nat) : Fld := fld ((0x02060000 + l * 0x00100000) + 0x44) 0 1 0 .block
/-- LTX_STAT.SWING (R176). -/
def LTX_STAT_SWING (l : Nat) : Fld := fld ((0x02060000 + l * 0x00100000) + 0x44) 1 1 0 .block
/-- LTX_STAT.FS_RAMP (R176). -/
def LTX_STAT_FS_RAMP (l : Nat) : Fld := fld ((0x02060000 + l * 0x00100000) + 0x44) 2 1 0 .block
/-- LTX_LDIS.DIS (R176). -/
def LTX_LDIS_DIS (l : Nat) : Fld := fld ((0x02060000 + l * 0x00100000) + 0x48) 0 1 1 .cold
/-- LTX_LDIS.AUTO (R176). -/
def LTX_LDIS_AUTO (l : Nat) : Fld := fld ((0x02060000 + l * 0x00100000) + 0x48) 1 1 1 .cold
/-- LTX_LDIS.TRIP (R176). -/
def LTX_LDIS_TRIP (l : Nat) : Fld := fld ((0x02060000 + l * 0x00100000) + 0x48) 8 1 0 .cold
/-- LTX_LDIS.TRIP_ACTIVE (R176). -/
def LTX_LDIS_TRIP_ACTIVE (l : Nat) : Fld := fld ((0x02060000 + l * 0x00100000) + 0x48) 9 1 0 .cold
/-- LTX_LDIS.HOLD (R176). -/
def LTX_LDIS_HOLD (l : Nat) : Fld := fld ((0x02060000 + l * 0x00100000) + 0x48) 0xA 1 0 .por
/-- LTX_LDIS.PIN (R176). -/
def LTX_LDIS_PIN (l : Nat) : Fld := fld ((0x02060000 + l * 0x00100000) + 0x48) 0xB 1 1 .cold
/-- LTX_CELL.TRIM (R176); internal: trims of the 16 physical DAC cells and the out cell, addressed through CAL_DAC_SEL, R208 R233. -/
def LTX_CELL_TRIM (l : Nat) (i : Nat) : Fld := fld ((hid (0x02060000 + l * 0x00100000) 0) + 4 * i) 0 7 0 .cold
/-- LTX_CELL_OUT.CELL (R176); internal: trims of the 16 physical DAC cells and the out cell, addressed through CAL_DAC_SEL, R208 R233. -/
def LTX_CELL_OUT_CELL (l : Nat) : Fld := fld ((hid (0x02060000 + l * 0x00100000) 0x80)) 0 4 0xF .cold
/-- HSD_CFG.EN (R204). -/
def HSD_CFG_EN (h : Nat) : Fld := fld ((0x03000000 + h * 0x00010000) + 0x40) 0 1 1 .block
/-- HSD_CFG.SQUELCH (R204). -/
def HSD_CFG_SQUELCH (h : Nat) : Fld := fld ((0x03000000 + h * 0x00010000) + 0x40) 1 1 0 .block
/-- HSD_CFG.RX_INV (R204). -/
def HSD_CFG_RX_INV (h : Nat) : Fld := fld ((0x03000000 + h * 0x00010000) + 0x40) 2 1 0 .block
/-- HSD_CFG.TX_INV (R204). -/
def HSD_CFG_TX_INV (h : Nat) : Fld := fld ((0x03000000 + h * 0x00010000) + 0x40) 3 1 0 .block
/-- HSD_STAT.LOS (R204). -/
def HSD_STAT_LOS (h : Nat) : Fld := fld ((0x03000000 + h * 0x00010000) + 0x44) 0 1 1 .block
/-- HSD_STAT.CDR_LOCK (R204). -/
def HSD_STAT_CDR_LOCK (h : Nat) : Fld := fld ((0x03000000 + h * 0x00010000) + 0x44) 1 1 0 .block
/-- HSD_STAT.ACTIVE (R204). -/
def HSD_STAT_ACTIVE (h : Nat) : Fld := fld ((0x03000000 + h * 0x00010000) + 0x44) 2 1 0 .block
/-- HSD_STAT.RX_EQ_DONE (R204). -/
def HSD_STAT_RX_EQ_DONE (h : Nat) : Fld := fld ((0x03000000 + h * 0x00010000) + 0x44) 3 1 0 .block
/-- HSD_STAT.TXCLK_REC (R204). -/
def HSD_STAT_TXCLK_REC (h : Nat) : Fld := fld ((0x03000000 + h * 0x00010000) + 0x44) 4 1 0 .block
/-- HSD_STAT.FREQ (R204). -/
def HSD_STAT_FREQ (h : Nat) : Fld := fld ((0x03000000 + h * 0x00010000) + 0x44) 0x10 16 0 .block
/-- HSD_TX_EQ.PRE2 (R204). -/
def HSD_TX_EQ_PRE2 (h : Nat) : Fld := fld ((0x03000000 + h * 0x00010000) + 0x48) 0 6 0 .block
/-- HSD_TX_EQ.PRE1 (R204). -/
def HSD_TX_EQ_PRE1 (h : Nat) : Fld := fld ((0x03000000 + h * 0x00010000) + 0x48) 8 6 0x3C .block
/-- HSD_TX_EQ.POST1 (R204). -/
def HSD_TX_EQ_POST1 (h : Nat) : Fld := fld ((0x03000000 + h * 0x00010000) + 0x48) 0x10 6 0 .block
/-- HSD_TX_EQ.SWING (R204). -/
def HSD_TX_EQ_SWING (h : Nat) : Fld := fld ((0x03000000 + h * 0x00010000) + 0x48) 0x18 4 8 .block
/-- HSD_TRAIN.EN (R204). -/
def HSD_TRAIN_EN (h : Nat) : Fld := fld ((0x03000000 + h * 0x00010000) + 0x4C) 0 1 1 .block
/-- HSD_TRAIN.TIMEOUT (R204). -/
def HSD_TRAIN_TIMEOUT (h : Nat) : Fld := fld ((0x03000000 + h * 0x00010000) + 0x4C) 2 2 1 .block
/-- HSD_TRAIN.STATE (R204). -/
def HSD_TRAIN_STATE (h : Nat) : Fld := fld ((0x03000000 + h * 0x00010000) + 0x4C) 4 3 0 .block
/-- HSD_PRBS_CFG.CHK (R204). -/
def HSD_PRBS_CFG_CHK (h : Nat) : Fld := fld ((0x03000000 + h * 0x00010000) + 0x50) 0 2 0 .block
/-- HSD_PRBS_CFG.GEN (R204). -/
def HSD_PRBS_CFG_GEN (h : Nat) : Fld := fld ((0x03000000 + h * 0x00010000) + 0x50) 4 2 0 .block
/-- HSD_PRBS_STAT.LOCK (R204). -/
def HSD_PRBS_STAT_LOCK (h : Nat) : Fld := fld ((0x03000000 + h * 0x00010000) + 0x54) 0 1 0 .block
/-- HSD_PRBS_STAT.LOST (R204). -/
def HSD_PRBS_STAT_LOST (h : Nat) : Fld := fld ((0x03000000 + h * 0x00010000) + 0x54) 1 1 0 .block
/-- HSD_PRBS_ERR.COUNT (R204). -/
def HSD_PRBS_ERR_COUNT (h : Nat) : Fld := fld ((0x03000000 + h * 0x00010000) + 0x58) 0 48 0 .block
/-- HSD_PRBS_BITS.COUNT (R204). -/
def HSD_PRBS_BITS_COUNT (h : Nat) : Fld := fld ((0x03000000 + h * 0x00010000) + 0x60) 0 48 0 .block
/-- HSD_RX_EQ.FREEZE (R204). -/
def HSD_RX_EQ_FREEZE (h : Nat) : Fld := fld ((0x03000000 + h * 0x00010000) + 0x400) 0 1 0 .block
/-- HSD_RX_EQ.CTLE (R204). -/
def HSD_RX_EQ_CTLE (h : Nat) : Fld := fld ((0x03000000 + h * 0x00010000) + 0x400) 8 5 0xC .block
/-- HSD_RX_EQ.DFE1 (R204). -/
def HSD_RX_EQ_DFE1 (h : Nat) : Fld := fld ((0x03000000 + h * 0x00010000) + 0x400) 0x10 10 0 .block
/-- HSD_RX_FFE.COEF (R204). -/
def HSD_RX_FFE_COEF (h : Nat) (i : Nat) : Fld := fld ((0x03000000 + h * 0x00010000) + 0x410 + 4 * i) 0 10 (([(3, 0x100)] : List (Nat × Nat)).lookup i |>.getD 0) .block
/-- CAL_CFG.WIN_LOG2 (R233). -/
def CAL_CFG_WIN_LOG2 : Fld := fld (0x90000 + 0x40) 0 4 6 .block
/-- CAL_CFG.AGREE (R233). -/
def CAL_CFG_AGREE : Fld := fld (0x90000 + 0x40) 4 4 2 .block
/-- CAL_CFG.CONV (R233). -/
def CAL_CFG_CONV : Fld := fld (0x90000 + 0x40) 8 4 2 .block
/-- CAL_CFG.MAX_STEP (R233). -/
def CAL_CFG_MAX_STEP : Fld := fld (0x90000 + 0x40) 0xC 5 0x10 .block
/-- CAL_CFG.ANCHOR_EN (R233). -/
def CAL_CFG_ANCHOR_EN : Fld := fld (0x90000 + 0x40) 0x14 1 1 .block
/-- CAL_CFG.TEMP_TRIG (R233). -/
def CAL_CFG_TEMP_TRIG : Fld := fld (0x90000 + 0x40) 0x18 4 4 .block
/-- CAL_SCHED.MODE (R233). -/
def CAL_SCHED_MODE : Fld := fld (0x90000 + 0x44) 0 1 0 .block
/-- CAL_SCHED.ALARM (R233). -/
def CAL_SCHED_ALARM : Fld := fld (0x90000 + 0x44) 8 5 0 .block
/-- CAL_SCHED.INTERVAL (R233). -/
def CAL_SCHED_INTERVAL : Fld := fld (0x90000 + 0x44) 0x10 16 0x3E8 .block
/-- CAL_STAT.STARTUP_DONE (R233). -/
def CAL_STAT_STARTUP_DONE : Fld := fld (0x90000 + 0x4C) 0 1 0 .cold
/-- CAL_STAT.STARTUP_PARTIAL (R233). -/
def CAL_STAT_STARTUP_PARTIAL : Fld := fld (0x90000 + 0x4C) 1 1 0 .cold
/-- CAL_STAT.THROTTLED (R233). -/
def CAL_STAT_THROTTLED : Fld := fld (0x90000 + 0x4C) 2 1 0 .block
/-- CAL_STAT.ANCHOR_BUSY (R233). -/
def CAL_STAT_ANCHOR_BUSY : Fld := fld (0x90000 + 0x4C) 3 1 0 .block
/-- CAL_STAT.VREF_BAD (R233). -/
def CAL_STAT_VREF_BAD : Fld := fld (0x90000 + 0x4C) 4 1 0 .block
/-- CAL_STAT.SAVE_BUSY (R233). -/
def CAL_STAT_SAVE_BUSY : Fld := fld (0x90000 + 0x4C) 5 1 0 .block
/-- CAL_STAT.ANCHOR_UNSTABLE (R233). -/
def CAL_STAT_ANCHOR_UNSTABLE : Fld := fld (0x90000 + 0x4C) 8 1 0 .block
/-- CAL_STAT.ANCHOR_LIMIT (R233). -/
def CAL_STAT_ANCHOR_LIMIT : Fld := fld (0x90000 + 0x4C) 9 1 0 .block
/-- CAL_ROUND_OVERLAP.COUNT (R233). -/
def CAL_ROUND_OVERLAP_COUNT : Fld := fld (0x90000 + 0x50) 0 32 0 .block
/-- CAL_LANE_CFG.FG_REQ (R233). -/
def CAL_LANE_CFG_FG_REQ (i : Nat) : Fld := fld (0x90000 + 0x60 + 4 * i) 0 1 1 .block
/-- CAL_LANE_CFG.ADC_EN (R233). -/
def CAL_LANE_CFG_ADC_EN (i : Nat) : Fld := fld (0x90000 + 0x60 + 4 * i) 1 1 1 .block
/-- CAL_LANE_CFG.DAC_EN (R233). -/
def CAL_LANE_CFG_DAC_EN (i : Nat) : Fld := fld (0x90000 + 0x60 + 4 * i) 2 1 1 .block
/-- CAL_LANE_STAT.FG_DONE (R233). -/
def CAL_LANE_STAT_FG_DONE (i : Nat) : Fld := fld (0x90000 + 0x80 + 4 * i) 0 1 0 .block
/-- CAL_LANE_STAT.MEASURING (R233). -/
def CAL_LANE_STAT_MEASURING (i : Nat) : Fld := fld (0x90000 + 0x80 + 4 * i) 1 1 0 .block
/-- CAL_LANE_STAT.APPLYING (R233). -/
def CAL_LANE_STAT_APPLYING (i : Nat) : Fld := fld (0x90000 + 0x80 + 4 * i) 2 1 0 .block
/-- CAL_LANE_STAT.HELD (R233). -/
def CAL_LANE_STAT_HELD (i : Nat) : Fld := fld (0x90000 + 0x80 + 4 * i) 3 1 0 .block
/-- CAL_LANE_STAT.FG_CONV (R233). -/
def CAL_LANE_STAT_FG_CONV (i : Nat) (j : Nat) : Fld := fld (0x90000 + 0x80 + 4 * i) (4 + 1 * j) 1 0 .block
/-- CAL_LANE_STAT.UNSTABLE (R233). -/
def CAL_LANE_STAT_UNSTABLE (i : Nat) (j : Nat) : Fld := fld (0x90000 + 0x80 + 4 * i) (0x10 + 1 * j) 1 0 .block
/-- CAL_LANE_STAT.LIMIT (R233). -/
def CAL_LANE_STAT_LIMIT (i : Nat) (j : Nat) : Fld := fld (0x90000 + 0x80 + 4 * i) (0x18 + 1 * j) 1 0 .block
/-- CAL_REC_SEL.LANE (R233). -/
def CAL_REC_SEL_LANE : Fld := fld (0x90000 + 0xA0) 0 4 0 .block
/-- CAL_REC_SEL.ITEM (R233). -/
def CAL_REC_SEL_ITEM : Fld := fld (0x90000 + 0xA0) 4 3 0 .block
/-- CAL_REC_RUNS.COUNT (R233). -/
def CAL_REC_RUNS_COUNT : Fld := fld (0x90000 + 0xA4) 0 32 0 .block
/-- CAL_REC_APPLIED.COUNT (R233). -/
def CAL_REC_APPLIED_COUNT : Fld := fld (0x90000 + 0xA8) 0 32 0 .block
/-- CAL_REC_DISAGREE.COUNT (R233). -/
def CAL_REC_DISAGREE_COUNT : Fld := fld (0x90000 + 0xAC) 0 32 0 .block
/-- CAL_REC_DISCARD.COUNT (R233). -/
def CAL_REC_DISCARD_COUNT : Fld := fld (0x90000 + 0xB0) 0 32 0 .block
/-- CAL_REC_LAST.STEP (R233). -/
def CAL_REC_LAST_STEP : Fld := fld (0x90000 + 0xB4) 0 16 0 .block
/-- CAL_REC_LAST.VALID (R233). -/
def CAL_REC_LAST_VALID : Fld := fld (0x90000 + 0xB4) 0x10 1 0 .block
/-- CAL_REC_TIME.TIME (R233). -/
def CAL_REC_TIME_TIME : Fld := fld (0x90000 + 0xB8) 0 96 0 .block
/-- CAL_DAC_SEL.LANE (R233). -/
def CAL_DAC_SEL_LANE : Fld := fld (0x90000 + 0x400) 0 3 0 .block
/-- CAL_DAC_SEL.CELL (R233). -/
def CAL_DAC_SEL_CELL : Fld := fld (0x90000 + 0x400) 8 4 0 .block
/-- CAL_REF_TRIM.ADC_REF (R233). -/
def CAL_REF_TRIM_ADC_REF : Fld := fld (0x90000 + 0x408) 0 10 0 .cold
/-- CAL_REF_TRIM.DAC_REF (R233). -/
def CAL_REF_TRIM_DAC_REF : Fld := fld (0x90000 + 0x408) 0x10 10 0 .cold
/-- CAL_REC.RUNS (R233); internal: the 49 calibration records: index lane*6+item, and 48 for REF_ANCHOR, R233. -/
def CAL_REC_RUNS (i : Nat) : Fld := fld ((hid 0x90000 0) + 0x20 * i) 0 32 0 .block
/-- CAL_REC_A.APPLIED (R233); internal: the 49 calibration records: index lane*6+item, and 48 for REF_ANCHOR, R233. -/
def CAL_REC_A_APPLIED (i : Nat) : Fld := fld ((hid 0x90000 4) + 0x20 * i) 0 32 0 .block
/-- CAL_REC_D.DISAGREE (R233); internal: the 49 calibration records: index lane*6+item, and 48 for REF_ANCHOR, R233. -/
def CAL_REC_D_DISAGREE (i : Nat) : Fld := fld ((hid 0x90000 8) + 0x20 * i) 0 32 0 .block
/-- CAL_REC_X.DISCARD (R233); internal: the 49 calibration records: index lane*6+item, and 48 for REF_ANCHOR, R233. -/
def CAL_REC_X_DISCARD (i : Nat) : Fld := fld ((hid 0x90000 0xC) + 0x20 * i) 0 32 0 .block
/-- CAL_REC_L.STEP (R233); internal: the 49 calibration records: index lane*6+item, and 48 for REF_ANCHOR, R233. -/
def CAL_REC_L_STEP (i : Nat) : Fld := fld ((hid 0x90000 0x10) + 0x20 * i) 0 16 0 .block
/-- CAL_REC_L.VALID (R233); internal: the 49 calibration records: index lane*6+item, and 48 for REF_ANCHOR, R233. -/
def CAL_REC_L_VALID (i : Nat) : Fld := fld ((hid 0x90000 0x10) + 0x20 * i) 0x10 1 0 .block
/-- CAL_REC_T.TIME (R233); internal: the 49 calibration records: index lane*6+item, and 48 for REF_ANCHOR, R233. -/
def CAL_REC_T_TIME (i : Nat) : Fld := fld ((hid 0x90000 0x14) + 0x20 * i) 0 96 0 .block
/-- TIM_CFG.TREF_FREQ (R268). -/
def TIM_CFG_TREF_FREQ : Fld := fld (0x70000 + 0x40) 0 2 0 .cold
/-- TIM_CFG.SECURE_TIME (R268). -/
def TIM_CFG_SECURE_TIME : Fld := fld (0x70000 + 0x40) 4 1 0 .cold
/-- TIM_STAT.QUAL (R268). -/
def TIM_STAT_QUAL : Fld := fld (0x70000 + 0x44) 0 3 0 .block
/-- TIM_STAT.SRC_ACTIVE (R268). -/
def TIM_STAT_SRC_ACTIVE : Fld := fld (0x70000 + 0x44) 4 3 0 .block
/-- TIM_STAT.FINE_READY (R268). -/
def TIM_STAT_FINE_READY : Fld := fld (0x70000 + 0x44) 8 1 0 .block
/-- TIM_STAT.TREF_OK (R268). -/
def TIM_STAT_TREF_OK : Fld := fld (0x70000 + 0x44) 9 1 0 .por
/-- TIM_STAT.KEPT (R268). -/
def TIM_STAT_KEPT : Fld := fld (0x70000 + 0x44) 0xA 1 0 .por
/-- TIM_STAT.CAL_OK (R268). -/
def TIM_STAT_CAL_OK : Fld := fld (0x70000 + 0x44) 0xB 1 0 .cold
/-- TIM_STAT.TEMP_VALID (R268). -/
def TIM_STAT_TEMP_VALID : Fld := fld (0x70000 + 0x44) 0xC 1 0 .block
/-- TIM_STAT.TABLE_MISS (R268). -/
def TIM_STAT_TABLE_MISS : Fld := fld (0x70000 + 0x44) 0xD 1 0 .block
/-- TIM_STAT.TREF_LOS (R268). -/
def TIM_STAT_TREF_LOS : Fld := fld (0x70000 + 0x44) 0xE 1 0 .por
/-- TIM_STAT.RC_USED (R268). -/
def TIM_STAT_RC_USED : Fld := fld (0x70000 + 0x44) 0xF 1 0 .por
/-- TIM_TIME.TIME (R268). -/
def TIM_TIME_TIME : Fld := fld (0x70000 + 0x48) 0 96 0 .por
/-- TIM_SET.TIME (R268). -/
def TIM_SET_TIME : Fld := fld (0x70000 + 0x54) 0 94 0 .block
/-- TIM_STEP.STEP (R268). -/
def TIM_STEP_STEP : Fld := fld (0x70000 + 0x64) 0 64 0 .block
/-- TIM_SERVO_CFG.SRC (R268). -/
def TIM_SERVO_CFG_SRC : Fld := fld (0x70000 + 0x70) 0 3 0 .block
/-- TIM_SERVO_CFG.LANE (R268). -/
def TIM_SERVO_CFG_LANE : Fld := fld (0x70000 + 0x70) 4 3 0 .block
/-- TIM_SERVO_CFG.AUTO_HOLD (R268). -/
def TIM_SERVO_CFG_AUTO_HOLD : Fld := fld (0x70000 + 0x70) 8 1 1 .block
/-- TIM_SERVO_CFG.AUTO_REVERT (R268). -/
def TIM_SERVO_CFG_AUTO_REVERT : Fld := fld (0x70000 + 0x70) 9 1 1 .block
/-- TIM_SERVO_CFG.STEP_EN (R268). -/
def TIM_SERVO_CFG_STEP_EN : Fld := fld (0x70000 + 0x70) 0xA 1 1 .block
/-- TIM_SERVO_CFG.TMO (R268). -/
def TIM_SERVO_CFG_TMO : Fld := fld (0x70000 + 0x70) 0x10 8 0x14 .block
/-- TIM_SERVO_LIM.LOCK_THR (R268). -/
def TIM_SERVO_LIM_LOCK_THR : Fld := fld (0x70000 + 0x74) 0 12 0x64 .block
/-- TIM_SERVO_LIM.DLY_TOL (R268). -/
def TIM_SERVO_LIM_DLY_TOL : Fld := fld (0x70000 + 0x74) 0xC 12 0x32 .block
/-- TIM_SERVO_LIM.STEP_THR (R268). -/
def TIM_SERVO_LIM_STEP_THR : Fld := fld (0x70000 + 0x74) 0x18 8 1 .block
/-- TIM_OFS_LAST.THETA (R268). -/
def TIM_OFS_LAST_THETA : Fld := fld (0x70000 + 0x78) 0 32 0 .block
/-- TIM_DLY_LAST.DELAY (R268). -/
def TIM_DLY_LAST_DELAY : Fld := fld (0x70000 + 0x7C) 0 32 0 .block
/-- TIM_ASYM.ASYM (R268). -/
def TIM_ASYM_ASYM : Fld := fld (0x70000 + 0x84) 0 32 0 .block
/-- TIM_FREQ.RATE (R268). -/
def TIM_FREQ_RATE : Fld := fld (0x70000 + 0x88) 0 32 0 .por
/-- TIM_SRC_DISCARD.DELAY (R268). -/
def TIM_SRC_DISCARD_DELAY : Fld := fld (0x70000 + 0x8C) 0 16 0 .block
/-- TIM_SRC_DISCARD.UNAUTH (R268). -/
def TIM_SRC_DISCARD_UNAUTH : Fld := fld (0x70000 + 0x8C) 0x10 16 0 .block
/-- TIM_PPS_IN.EN (R268). -/
def TIM_PPS_IN_EN : Fld := fld (0x70000 + 0x90) 0 1 0 .block
/-- TIM_PPS_IN.EDGE (R268). -/
def TIM_PPS_IN_EDGE : Fld := fld (0x70000 + 0x90) 1 1 0 .block
/-- TIM_PPS_IN.DLY (R268). -/
def TIM_PPS_IN_DLY : Fld := fld (0x70000 + 0x90) 0x10 16 0 .block
/-- TIM_PPS_OUT.EN (R268). -/
def TIM_PPS_OUT_EN : Fld := fld (0x70000 + 0x94) 0 1 0 .block
/-- TIM_PPS_OUT.POL (R268). -/
def TIM_PPS_OUT_POL : Fld := fld (0x70000 + 0x94) 1 1 0 .block
/-- TIM_PPS_OUT.GATE (R268). -/
def TIM_PPS_OUT_GATE : Fld := fld (0x70000 + 0x94) 2 1 1 .block
/-- TIM_PPS_OUT.ALARM (R268). -/
def TIM_PPS_OUT_ALARM : Fld := fld (0x70000 + 0x94) 3 5 0x1F .block
/-- TIM_PPS_OUT.WIDTH (R268). -/
def TIM_PPS_OUT_WIDTH : Fld := fld (0x70000 + 0x94) 0xC 20 0x186A0 .block
/-- TIM_PPS_OUT_OFS.OFS (R268). -/
def TIM_PPS_OUT_OFS_OFS : Fld := fld (0x70000 + 0x98) 0 30 0 .block
/-- TIM_HOLD.SECONDS (R268). -/
def TIM_HOLD_SECONDS : Fld := fld (0x70000 + 0x9C) 0 32 0 .block
/-- TIM_HOLD_EST.NS (R268). -/
def TIM_HOLD_EST_NS : Fld := fld (0x70000 + 0xA0) 0 32 0 .block
/-- TIM_HOLD_LIM.NS (R268). -/
def TIM_HOLD_LIM_NS : Fld := fld (0x70000 + 0xA4) 0 32 0x3E8 .block
/-- TIM_PPS_IN_TS.TIME (R268). -/
def TIM_PPS_IN_TS_TIME : Fld := fld (0x70000 + 0xA8) 0 96 0 .block
/-- TIM_ALM_FIRED.FIRED (R268). -/
def TIM_ALM_FIRED_FIRED (j : Nat) : Fld := fld (0x70000 + 0xB4) (0 + 1 * j) 1 0 .block
/-- TIM_ALM_IRQ_EN.EN (R268). -/
def TIM_ALM_IRQ_EN_EN (j : Nat) : Fld := fld (0x70000 + 0xB8) (0 + 1 * j) 1 0 .block
/-- TIM_SFTS_SEL.LANE (R268). -/
def TIM_SFTS_SEL_LANE : Fld := fld (0x70000 + 0xC0) 0 3 0 .block
/-- TIM_SFTS_SEL.DIR (R268). -/
def TIM_SFTS_SEL_DIR : Fld := fld (0x70000 + 0xC0) 4 1 0 .block
/-- TIM_SFTS_SFC.SFC (R268). -/
def TIM_SFTS_SFC_SFC : Fld := fld (0x70000 + 0xC4) 0 32 0 .block
/-- TIM_SFTS_TIME.TIME (R268). -/
def TIM_SFTS_TIME_TIME : Fld := fld (0x70000 + 0xC8) 0 96 0 .block
/-- TIM_LAT_TX.PS (R268). -/
def TIM_LAT_TX_PS (i : Nat) : Fld := fld (0x70000 + 0x100 + 8 * i) 0 20 0 .block
/-- TIM_LAT_TX.VALID (R268). -/
def TIM_LAT_TX_VALID (i : Nat) : Fld := fld (0x70000 + 0x100 + 8 * i) 0x1F 1 0 .block
/-- TIM_LAT_RX.PS (R268). -/
def TIM_LAT_RX_PS (i : Nat) : Fld := fld (0x70000 + 0x104 + 8 * i) 0 20 0 .block
/-- TIM_LAT_RX.VALID (R268). -/
def TIM_LAT_RX_VALID (i : Nat) : Fld := fld (0x70000 + 0x104 + 8 * i) 0x1F 1 0 .block
/-- TIM_PLANE.TX_OFS (R268). -/
def TIM_PLANE_TX_OFS (i : Nat) : Fld := fld (0x70000 + 0x140 + 4 * i) 0 16 0 .cold
/-- TIM_PLANE.RX_OFS (R268). -/
def TIM_PLANE_RX_OFS (i : Nat) : Fld := fld (0x70000 + 0x140 + 4 * i) 0x10 16 0 .cold
/-- TIM_OSC_CFG.LEARN_EN (R268). -/
def TIM_OSC_CFG_LEARN_EN : Fld := fld (0x70000 + 0x180) 0 1 1 .block
/-- TIM_OSC_CFG.PRED_EN (R268). -/
def TIM_OSC_CFG_PRED_EN : Fld := fld (0x70000 + 0x180) 1 1 1 .block
/-- TIM_OSC_CFG.UPD (R268). -/
def TIM_OSC_CFG_UPD : Fld := fld (0x70000 + 0x180) 8 8 0xA .block
/-- TIM_OSC_CFG.K (R268). -/
def TIM_OSC_CFG_K : Fld := fld (0x70000 + 0x180) 0x10 4 6 .block
/-- TIM_OSC_CFG.EPOCH_DAYS (R268). -/
def TIM_OSC_CFG_EPOCH_DAYS : Fld := fld (0x70000 + 0x180) 0x18 8 0x20 .block
/-- TIM_OSC_STAT.EPOCH (R268). -/
def TIM_OSC_STAT_EPOCH : Fld := fld (0x70000 + 0x184) 0 4 0 .block
/-- TIM_OSC_STAT.BIN (R268). -/
def TIM_OSC_STAT_BIN : Fld := fld (0x70000 + 0x184) 0x10 12 0 .block
/-- TIM_OSC_STAT.IN_RANGE (R268). -/
def TIM_OSC_STAT_IN_RANGE : Fld := fld (0x70000 + 0x184) 0x1C 1 0 .block
/-- TIM_OSC_STAT.LEARNING (R268). -/
def TIM_OSC_STAT_LEARNING : Fld := fld (0x70000 + 0x184) 0x1D 1 0 .block
/-- TIM_OSC_AGING.A (R268). -/
def TIM_OSC_AGING_A : Fld := fld (0x70000 + 0x188) 0 32 0 .block
/-- TIM_TEMP_CFG.SRC (R268). -/
def TIM_TEMP_CFG_SRC : Fld := fld (0x70000 + 0x18C) 0 1 0 .block
/-- TIM_TEMP_CFG.CHAIN (R268). -/
def TIM_TEMP_CFG_CHAIN : Fld := fld (0x70000 + 0x18C) 4 3 0 .block
/-- TIM_TEMP_CFG.OFS (R268). -/
def TIM_TEMP_CFG_OFS : Fld := fld (0x70000 + 0x18C) 0x10 16 0 .block
/-- TIM_TEMP_GAIN.GAIN (R268). -/
def TIM_TEMP_GAIN_GAIN : Fld := fld (0x70000 + 0x190) 0 32 0 .block
/-- TIM_TEMP_HOST.T (R268). -/
def TIM_TEMP_HOST_T : Fld := fld (0x70000 + 0x194) 0 16 0 .block
/-- TIM_TEMP.T (R268). -/
def TIM_TEMP_T : Fld := fld (0x70000 + 0x198) 0 16 0 .block
/-- TIM_TEMP.VALID (R268). -/
def TIM_TEMP_VALID : Fld := fld (0x70000 + 0x198) 0x10 1 0 .block
/-- TIM_ALM_NSEC.NSEC (R268). -/
def TIM_ALM_NSEC_NSEC (i : Nat) : Fld := fld (0x70000 + 0x200 + 0x10 * i) 0 30 0 .block
/-- TIM_ALM_SEC.SEC_LO (R268). -/
def TIM_ALM_SEC_SEC_LO (i : Nat) : Fld := fld (0x70000 + 0x204 + 0x10 * i) 0 32 0 .block
/-- TIM_ALM_CTRL.SEC_HI (R268). -/
def TIM_ALM_CTRL_SEC_HI (i : Nat) : Fld := fld (0x70000 + 0x208 + 0x10 * i) 0 16 0 .block
/-- TIM_ALM_CTRL.EN (R268). -/
def TIM_ALM_CTRL_EN (i : Nat) : Fld := fld (0x70000 + 0x208 + 0x10 * i) 0x10 1 0 .block
/-- TIM_ALM_CTRL.OWNER (R268). -/
def TIM_ALM_CTRL_OWNER (i : Nat) : Fld := fld (0x70000 + 0x208 + 0x10 * i) 0x12 3 0 .block
/-- TIM_ALM_CTRL.LATE (R268). -/
def TIM_ALM_CTRL_LATE (i : Nat) : Fld := fld (0x70000 + 0x208 + 0x10 * i) 0x15 1 0 .block
/-- TIM_ALM_CTRL.STEPPED (R268). -/
def TIM_ALM_CTRL_STEPPED (i : Nat) : Fld := fld (0x70000 + 0x208 + 0x10 * i) 0x16 1 0 .block
/-- TIM_ALM_CTRL.MISSED (R268). -/
def TIM_ALM_CTRL_MISSED (i : Nat) : Fld := fld (0x70000 + 0x208 + 0x10 * i) 0x18 8 0 .block
/-- TIM_ALM_PERIOD.PERIOD (R268). -/
def TIM_ALM_PERIOD_PERIOD (i : Nat) : Fld := fld (0x70000 + 0x20C + 0x10 * i) 0 32 0 .block
/-- TIM_SERVO_GAIN.KP (R268). -/
def TIM_SERVO_GAIN_KP : Fld := fld (0x70000 + 0x400) 0 4 2 .block
/-- TIM_SERVO_GAIN.KI (R268). -/
def TIM_SERVO_GAIN_KI : Fld := fld (0x70000 + 0x400) 8 4 6 .block
/-- TIM_SERVO_GAIN.SLEW (R268). -/
def TIM_SERVO_GAIN_SLEW : Fld := fld (0x70000 + 0x400) 0x10 8 0x64 .block
/-- MSG_LANE_CFG.EN (R299). -/
def MSG_LANE_CFG_EN (i : Nat) : Fld := fld (0x80000 + 0x40 + 4 * i) 0 1 0 .block
/-- MSG_LANE_CFG.ROLE (R299). -/
def MSG_LANE_CFG_ROLE (i : Nat) : Fld := fld (0x80000 + 0x40 + 4 * i) 1 1 0 .block
/-- MSG_LANE_CFG.BOND (R299). -/
def MSG_LANE_CFG_BOND (i : Nat) : Fld := fld (0x80000 + 0x40 + 4 * i) 2 2 0 .block
/-- MSG_LANE_STAT.LINK_UP (R299). -/
def MSG_LANE_STAT_LINK_UP (i : Nat) : Fld := fld (0x80000 + 0x60 + 4 * i) 0 1 0 .block
/-- MSG_LANE_STAT.PEER_ROLE (R299). -/
def MSG_LANE_STAT_PEER_ROLE (i : Nat) : Fld := fld (0x80000 + 0x60 + 4 * i) 1 1 0 .block
/-- MSG_LANE_STAT.ROLE_CONFLICT (R299). -/
def MSG_LANE_STAT_ROLE_CONFLICT (i : Nat) : Fld := fld (0x80000 + 0x60 + 4 * i) 2 1 0 .block
/-- MSG_LANE_STAT.BOND_ERR (R299). -/
def MSG_LANE_STAT_BOND_ERR (i : Nat) : Fld := fld (0x80000 + 0x60 + 4 * i) 3 1 0 .block
/-- MSG_LANE_STAT.SESSION (R299). -/
def MSG_LANE_STAT_SESSION (i : Nat) : Fld := fld (0x80000 + 0x60 + 4 * i) 4 2 0 .block
/-- MSG_LANE_STAT.PEER_RX_STATE (R299). -/
def MSG_LANE_STAT_PEER_RX_STATE (i : Nat) : Fld := fld (0x80000 + 0x60 + 4 * i) 8 4 0 .block
/-- MSG_LANE_STAT.PEER_TX_PRECODE (R299). -/
def MSG_LANE_STAT_PEER_TX_PRECODE (i : Nat) : Fld := fld (0x80000 + 0x60 + 4 * i) 0xC 1 0 .block
/-- MSG_LANE_STAT.PEER_RX_PRECODE (R299). -/
def MSG_LANE_STAT_PEER_RX_PRECODE (i : Nat) : Fld := fld (0x80000 + 0x60 + 4 * i) 0xD 1 0 .block
/-- MSG_LANE_STAT.PEER_FVER (R299). -/
def MSG_LANE_STAT_PEER_FVER (i : Nat) : Fld := fld (0x80000 + 0x60 + 4 * i) 0x10 4 0 .block
/-- MSG_LANE_STAT.PEER_CAP (R299). -/
def MSG_LANE_STAT_PEER_CAP (i : Nat) : Fld := fld (0x80000 + 0x60 + 4 * i) 0x14 4 0 .block
/-- MSG_LANE_STAT.PEER_HOPS (R299). -/
def MSG_LANE_STAT_PEER_HOPS (i : Nat) : Fld := fld (0x80000 + 0x60 + 4 * i) 0x18 3 0 .block
/-- MSG_LANE_STAT.PEER_QUAL (R299). -/
def MSG_LANE_STAT_PEER_QUAL (i : Nat) : Fld := fld (0x80000 + 0x60 + 4 * i) 0x1B 3 0 .block
/-- MSG_TIME_CFG.EN (R299). -/
def MSG_TIME_CFG_EN : Fld := fld (0x80000 + 0x80) 0 1 1 .block
/-- MSG_TIME_CFG.PERIOD (R299). -/
def MSG_TIME_CFG_PERIOD : Fld := fld (0x80000 + 0x80) 4 4 0xA .block
/-- MSG_TIME_CFG.ACCEPT (R299). -/
def MSG_TIME_CFG_ACCEPT : Fld := fld (0x80000 + 0x80) 8 2 0 .block
/-- MSG_TIME_STAT.HOPS (R299). -/
def MSG_TIME_STAT_HOPS : Fld := fld (0x80000 + 0x84) 0 3 0 .block
/-- MSG_TIME_DISCARD.NOMATCH (R299). -/
def MSG_TIME_DISCARD_NOMATCH : Fld := fld (0x80000 + 0x88) 0 8 0 .block
/-- MSG_TIME_DISCARD.HOPS (R299). -/
def MSG_TIME_DISCARD_HOPS : Fld := fld (0x80000 + 0x88) 8 8 0 .block
/-- MSG_TIME_DISCARD.QUAL (R299). -/
def MSG_TIME_DISCARD_QUAL : Fld := fld (0x80000 + 0x88) 0x10 8 0 .block
/-- MSG_Q_CFG.EN (R299). -/
def MSG_Q_CFG_EN (i : Nat) : Fld := fld (0x80000 + 0xA0 + 4 * i) 0 1 0 .block
/-- MSG_Q_CFG.LANE (R299). -/
def MSG_Q_CFG_LANE (i : Nat) : Fld := fld (0x80000 + 0xA0 + 4 * i) 1 3 0 .block
/-- MSG_Q_CFG.LATE_SEND (R299). -/
def MSG_Q_CFG_LATE_SEND (i : Nat) : Fld := fld (0x80000 + 0xA0 + 4 * i) 4 1 0 .block
/-- MSG_Q_CFG.GATE (R299). -/
def MSG_Q_CFG_GATE (i : Nat) : Fld := fld (0x80000 + 0xA0 + 4 * i) 5 1 0 .block
/-- MSG_Q_CFG.ALARM (R299). -/
def MSG_Q_CFG_ALARM (i : Nat) : Fld := fld (0x80000 + 0xA0 + 4 * i) 8 5 0 .block
/-- MSG_Q_STAT.DEPTH (R299). -/
def MSG_Q_STAT_DEPTH (i : Nat) : Fld := fld (0x80000 + 0xC0 + 4 * i) 0 5 0 .block
/-- MSG_Q_STAT.HEAD_DUE (R299). -/
def MSG_Q_STAT_HEAD_DUE (i : Nat) : Fld := fld (0x80000 + 0xC0 + 4 * i) 8 1 0 .block
/-- MSG_Q_STAT.LATE (R299). -/
def MSG_Q_STAT_LATE (i : Nat) : Fld := fld (0x80000 + 0xC0 + 4 * i) 0x10 8 0 .block
/-- MSG_TX_LAUNCH.TIME (R299). -/
def MSG_TX_LAUNCH_TIME : Fld := fld (0x80000 + 0xE0) 0 86 0 .block
/-- MSG_TX_RESULT.CODE (R299). -/
def MSG_TX_RESULT_CODE : Fld := fld (0x80000 + 0xF0) 0 3 0 .block
/-- MSG_TS_STAT.COUNT (R299). -/
def MSG_TS_STAT_COUNT : Fld := fld (0x80000 + 0x100) 0 5 0 .block
/-- MSG_TS_STAT.OVF (R299). -/
def MSG_TS_STAT_OVF : Fld := fld (0x80000 + 0x100) 8 1 0 .block
/-- MSG_TS_STAT.OVF_CNT (R299). -/
def MSG_TS_STAT_OVF_CNT : Fld := fld (0x80000 + 0x100) 0x10 16 0 .block
/-- MSG_TS_ENTRY.ID (R299). -/
def MSG_TS_ENTRY_ID : Fld := fld (0x80000 + 0x104) 0 8 0 .block
/-- MSG_TS_ENTRY.LANE (R299). -/
def MSG_TS_ENTRY_LANE : Fld := fld (0x80000 + 0x104) 8 3 0 .block
/-- MSG_TS_ENTRY.STATUS (R299). -/
def MSG_TS_ENTRY_STATUS : Fld := fld (0x80000 + 0x104) 0xC 3 0 .block
/-- MSG_TS_ENTRY.VALID (R299). -/
def MSG_TS_ENTRY_VALID : Fld := fld (0x80000 + 0x104) 0xF 1 0 .block
/-- MSG_TS_ENTRY1.SFC (R299). -/
def MSG_TS_ENTRY1_SFC : Fld := fld (0x80000 + 0x108) 0 32 0 .block
/-- MSG_TS_ENTRY2.TIME (R299). -/
def MSG_TS_ENTRY2_TIME : Fld := fld (0x80000 + 0x10C) 0 96 0 .block
/-- MSG_RX_STAT.COUNT (R299). -/
def MSG_RX_STAT_COUNT : Fld := fld (0x80000 + 0x120) 0 6 0 .block
/-- MSG_RX_STAT.OVF (R299). -/
def MSG_RX_STAT_OVF : Fld := fld (0x80000 + 0x120) 8 1 0 .block
/-- MSG_RX_STAT.OVF_CNT (R299). -/
def MSG_RX_STAT_OVF_CNT : Fld := fld (0x80000 + 0x120) 0x10 16 0 .block
/-- MSG_RX_HEAD.TYPE (R299). -/
def MSG_RX_HEAD_TYPE : Fld := fld (0x80000 + 0x124) 0 8 0 .block
/-- MSG_RX_HEAD.CELLS (R299). -/
def MSG_RX_HEAD_CELLS : Fld := fld (0x80000 + 0x124) 8 4 0 .block
/-- MSG_RX_HEAD.LANE (R299). -/
def MSG_RX_HEAD_LANE : Fld := fld (0x80000 + 0x124) 0xC 3 0 .block
/-- MSG_RX_HEAD.AUTH (R299). -/
def MSG_RX_HEAD_AUTH : Fld := fld (0x80000 + 0x124) 0xF 1 0 .block
/-- MSG_RX_HEAD.LATE (R299). -/
def MSG_RX_HEAD_LATE : Fld := fld (0x80000 + 0x124) 0x10 1 0 .block
/-- MSG_RX_HEAD.VALID (R299). -/
def MSG_RX_HEAD_VALID : Fld := fld (0x80000 + 0x124) 0x1F 1 0 .block
/-- MSG_RX_TIME.TIME (R299). -/
def MSG_RX_TIME_TIME : Fld := fld (0x80000 + 0x128) 0 96 0 .block
/-- MSG_RX_SFC.SFC (R299). -/
def MSG_RX_SFC_SFC : Fld := fld (0x80000 + 0x134) 0 32 0 .block
/-- MSG_ERR.CRC (R299). -/
def MSG_ERR_CRC (i : Nat) : Fld := fld (0x80000 + 0x140 + 8 * i) 0 16 0 .block
/-- MSG_ERR.DISCARD (R299). -/
def MSG_ERR_DISCARD (i : Nat) : Fld := fld (0x80000 + 0x140 + 8 * i) 0x10 16 0 .block
/-- MSG_ERR2.AUTH_FAIL (R299). -/
def MSG_ERR2_AUTH_FAIL (i : Nat) : Fld := fld (0x80000 + 0x144 + 8 * i) 0 16 0 .block
/-- MSG_ERR2.UNKNOWN (R299). -/
def MSG_ERR2_UNKNOWN (i : Nat) : Fld := fld (0x80000 + 0x144 + 8 * i) 0x10 16 0 .block
/-- MSG_REMOTE_POLICY.CLASSES (R299). -/
def MSG_REMOTE_POLICY_CLASSES : Fld := fld (0x80000 + 0x180) 0 4 0 .cold
/-- MSG_REMOTE_STAT.BUSY (R299). -/
def MSG_REMOTE_STAT_BUSY : Fld := fld (0x80000 + 0x184) 0 3 0 .block
/-- MSG_REMOTE_STAT.DENIED (R299). -/
def MSG_REMOTE_STAT_DENIED : Fld := fld (0x80000 + 0x184) 0x10 16 0 .block
/-- MSG_TEST.LANE (R299). -/
def MSG_TEST_LANE : Fld := fld (0x80000 + 0x400) 4 3 0 .block
/-- MSG_TX_DATA.WORD (R299). -/
def MSG_TX_DATA_WORD (i : Nat) : Fld := fld (0x80000 + 0x1000 + 4 * i) 0 32 0 .block
/-- MSG_RX_DATA.WORD (R299). -/
def MSG_RX_DATA_WORD (i : Nat) : Fld := fld (0x80000 + 0x1200 + 4 * i) 0 32 0 .block
/-- MADC_REF.EN (R330). -/
def MADC_REF_EN : Fld := fld (0xA0000 + 0x40) 0 1 0 .block
/-- MADC_REF.SETTLED (R330). -/
def MADC_REF_SETTLED : Fld := fld (0xA0000 + 0x40) 1 1 0 .block
/-- MADC_CFG.PAIR (R330). -/
def MADC_CFG_PAIR : Fld := fld (0xA0000 + 0x44) 0 1 0 .block
/-- MADC_CFG.PAIR_CHAIN (R330). -/
def MADC_CFG_PAIR_CHAIN : Fld := fld (0xA0000 + 0x44) 4 3 0 .block
/-- MADC_RAW_CFG.EN (R330). -/
def MADC_RAW_CFG_EN (i : Nat) : Fld := fld (0xA0000 + 0x50 + 4 * i) 0 1 0 .block
/-- MADC_RAW_CFG.DIV (R330). -/
def MADC_RAW_CFG_DIV (i : Nat) : Fld := fld (0xA0000 + 0x50 + 4 * i) 2 3 0 .block
/-- MADC_RAW_CFG.PHASE (R330). -/
def MADC_RAW_CFG_PHASE (i : Nat) : Fld := fld (0xA0000 + 0x50 + 4 * i) 8 4 0 .block
/-- MADC_RAW_CFG.INPUT (R330). -/
def MADC_RAW_CFG_INPUT (i : Nat) : Fld := fld (0xA0000 + 0x50 + 4 * i) 0xC 6 0 .block
/-- MADC_RAW_CFG.GAIN (R330). -/
def MADC_RAW_CFG_GAIN (i : Nat) : Fld := fld (0xA0000 + 0x50 + 4 * i) 0x12 2 0 .block
/-- MADC_DATA.CODE (R330). -/
def MADC_DATA_CODE (i : Nat) : Fld := fld (0xA0000 + 0x60 + 4 * i) 0 16 0 .block
/-- MADC_DATA.NEW (R330). -/
def MADC_DATA_NEW (i : Nat) : Fld := fld (0xA0000 + 0x60 + 4 * i) 0x10 1 0 .block
/-- MADC_DATA.OVR (R330). -/
def MADC_DATA_OVR (i : Nat) : Fld := fld (0xA0000 + 0x60 + 4 * i) 0x11 1 0 .block
/-- MADC_DATA.REF_UNSETTLED (R330). -/
def MADC_DATA_REF_UNSETTLED (i : Nat) : Fld := fld (0xA0000 + 0x60 + 4 * i) 0x12 1 0 .block
/-- MFIL_CFG.EN (R331). -/
def MFIL_CFG_EN (i : Nat) : Fld := fld (0xB0000 + 0x100 + 0x40 * i) 0 1 0 .block
/-- MFIL_CFG.CONV (R331). -/
def MFIL_CFG_CONV (i : Nat) : Fld := fld (0xB0000 + 0x100 + 0x40 * i) 1 1 0 .block
/-- MFIL_CFG.DIV (R331). -/
def MFIL_CFG_DIV (i : Nat) : Fld := fld (0xB0000 + 0x100 + 0x40 * i) 2 3 0 .block
/-- MFIL_CFG.PHASE (R331). -/
def MFIL_CFG_PHASE (i : Nat) : Fld := fld (0xB0000 + 0x100 + 0x40 * i) 8 4 0 .block
/-- MFIL_CFG.INPUT (R331). -/
def MFIL_CFG_INPUT (i : Nat) : Fld := fld (0xB0000 + 0x100 + 0x40 * i) 0xC 6 0 .block
/-- MFIL_CFG.GAIN (R331). -/
def MFIL_CFG_GAIN (i : Nat) : Fld := fld (0xB0000 + 0x100 + 0x40 * i) 0x12 2 0 .block
/-- MFIL_CFG.PRESET (R331). -/
def MFIL_CFG_PRESET (i : Nat) : Fld := fld (0xB0000 + 0x100 + 0x40 * i) 0x14 2 0 .block
/-- MFIL_CFG.MINPH (R331). -/
def MFIL_CFG_MINPH (i : Nat) : Fld := fld (0xB0000 + 0x100 + 0x40 * i) 0x16 1 0 .block
/-- MFIL_CFG.S1_MODE (R331). -/
def MFIL_CFG_S1_MODE (i : Nat) : Fld := fld (0xB0000 + 0x100 + 0x40 * i) 0x17 1 0 .block
/-- MFIL_CFG.MA_LEN (R331). -/
def MFIL_CFG_MA_LEN (i : Nat) : Fld := fld (0xB0000 + 0x100 + 0x40 * i) 0x18 8 7 .block
/-- MFIL_GRID.RES_EN (R331). -/
def MFIL_GRID_RES_EN (i : Nat) : Fld := fld (0xB0000 + 0x104 + 0x40 * i) 0 1 0 .block
/-- MFIL_GRID.ALARM (R331). -/
def MFIL_GRID_ALARM (i : Nat) : Fld := fld (0xB0000 + 0x104 + 0x40 * i) 8 5 0 .block
/-- MFIL_STAT.SETTLING (R331). -/
def MFIL_STAT_SETTLING (i : Nat) : Fld := fld (0xB0000 + 0x108 + 0x40 * i) 0 1 0 .block
/-- MFIL_STAT.STARVED (R331). -/
def MFIL_STAT_STARVED (i : Nat) : Fld := fld (0xB0000 + 0x108 + 0x40 * i) 1 1 0 .block
/-- MFIL_STAT.GRID_FAST (R331). -/
def MFIL_STAT_GRID_FAST (i : Nat) : Fld := fld (0xB0000 + 0x108 + 0x40 * i) 2 1 0 .block
/-- MFIL_RES.VALUE (R331). -/
def MFIL_RES_VALUE (i : Nat) : Fld := fld (0xB0000 + 0x110 + 0x40 * i) 0 24 0 .block
/-- MFIL_RES.VALID (R331). -/
def MFIL_RES_VALID (i : Nat) : Fld := fld (0xB0000 + 0x110 + 0x40 * i) 0x18 1 0 .block
/-- MFIL_RES.NEW (R331). -/
def MFIL_RES_NEW (i : Nat) : Fld := fld (0xB0000 + 0x110 + 0x40 * i) 0x19 1 0 .block
/-- MFIL_RES.OVR (R331). -/
def MFIL_RES_OVR (i : Nat) : Fld := fld (0xB0000 + 0x110 + 0x40 * i) 0x1A 1 0 .block
/-- MFIL_RES.REF_UNSETTLED (R331). -/
def MFIL_RES_REF_UNSETTLED (i : Nat) : Fld := fld (0xB0000 + 0x110 + 0x40 * i) 0x1B 1 0 .block
/-- MFIL_RES_T.TIME (R331). -/
def MFIL_RES_T_TIME (i : Nat) : Fld := fld (0xB0000 + 0x114 + 0x40 * i) 0 96 0 .block
/-- MFIL_LIM_CFG.EN (R331). -/
def MFIL_LIM_CFG_EN (i : Nat) (j : Nat) : Fld := fld (0xB0000 + 0x120 + 0x40 * i + 8 * j) 0 1 0 .block
/-- MFIL_LIM_CFG.DIR (R331). -/
def MFIL_LIM_CFG_DIR (i : Nat) (j : Nat) : Fld := fld (0xB0000 + 0x120 + 0x40 * i + 8 * j) 1 1 0 .block
/-- MFIL_LIM_CFG.CNT (R331). -/
def MFIL_LIM_CFG_CNT (i : Nat) (j : Nat) : Fld := fld (0xB0000 + 0x120 + 0x40 * i + 8 * j) 2 4 0 .block
/-- MFIL_LIM_CFG.LDIS (R331). -/
def MFIL_LIM_CFG_LDIS (i : Nat) (j : Nat) : Fld := fld (0xB0000 + 0x120 + 0x40 * i + 8 * j) 8 8 0 .block
/-- MFIL_LIM_CFG.ACTIVE (R331). -/
def MFIL_LIM_CFG_ACTIVE (i : Nat) (j : Nat) : Fld := fld (0xB0000 + 0x120 + 0x40 * i + 8 * j) 0x10 1 0 .block
/-- MFIL_LIM_CFG.TRIPPED (R331). -/
def MFIL_LIM_CFG_TRIPPED (i : Nat) (j : Nat) : Fld := fld (0xB0000 + 0x120 + 0x40 * i + 8 * j) 0x11 1 0 .block
/-- MFIL_LIM_CFG.HYST (R331). -/
def MFIL_LIM_CFG_HYST (i : Nat) (j : Nat) : Fld := fld (0xB0000 + 0x120 + 0x40 * i + 8 * j) 0x14 12 0 .block
/-- MFIL_LIM_THR.THR (R331). -/
def MFIL_LIM_THR_THR (i : Nat) (j : Nat) : Fld := fld (0xB0000 + 0x124 + 0x40 * i + 8 * j) 0 24 0x7FFFFF .block
/-- CDAC_STAT.LOADED (R332). -/
def CDAC_STAT_LOADED : Fld := fld (0xC0000 + 0x40) 0 1 0 .cold
/-- CDAC_STAT.TABLE_OK (R332). -/
def CDAC_STAT_TABLE_OK : Fld := fld (0xC0000 + 0x40) 1 1 0 .cold
/-- CDAC_CODE.CODE (R332). -/
def CDAC_CODE_CODE (i : Nat) : Fld := fld (0xC0000 + 0x100 + 0x10 * i) 0 16 0 .cold
/-- CDAC_CH_CFG.SPAN (R332). -/
def CDAC_CH_CFG_SPAN (i : Nat) : Fld := fld (0xC0000 + 0x104 + 0x10 * i) 0 2 0 .cold
/-- CDAC_CH_CFG.SLEW (R332). -/
def CDAC_CH_CFG_SLEW (i : Nat) : Fld := fld (0xC0000 + 0x104 + 0x10 * i) 4 3 4 .cold
/-- CDAC_CH_CFG.TRIP_MASK (R332). -/
def CDAC_CH_CFG_TRIP_MASK (i : Nat) : Fld := fld (0xC0000 + 0x104 + 0x10 * i) 0x10 16 0 .cold
/-- CDAC_CH_STAT.STATE (R332). -/
def CDAC_CH_STAT_STATE (i : Nat) : Fld := fld (0xC0000 + 0x10C + 0x10 * i) 0 3 0 .cold
/-- CDAC_CH_STAT.RAMPING (R332). -/
def CDAC_CH_STAT_RAMPING (i : Nat) : Fld := fld (0xC0000 + 0x10C + 0x10 * i) 3 1 0 .cold
/-- CDAC_CH_STAT.CAUSE_THERMAL (R332). -/
def CDAC_CH_STAT_CAUSE_THERMAL (i : Nat) : Fld := fld (0xC0000 + 0x10C + 0x10 * i) 4 1 0 .por
/-- CDAC_CH_STAT.CAUSE_LOCKDOWN (R332). -/
def CDAC_CH_STAT_CAUSE_LOCKDOWN (i : Nat) : Fld := fld (0xC0000 + 0x10C + 0x10 * i) 5 1 0 .por
/-- CDAC_CH_STAT.CAUSE_TRIP (R332). -/
def CDAC_CH_STAT_CAUSE_TRIP (i : Nat) : Fld := fld (0xC0000 + 0x10C + 0x10 * i) 6 1 0 .cold
/-- CDAC_CH_STAT.CAUSE_SOFT (R332). -/
def CDAC_CH_STAT_CAUSE_SOFT (i : Nat) : Fld := fld (0xC0000 + 0x10C + 0x10 * i) 7 1 0 .cold
/-- CDAC_CH_STAT.OUT (R332). -/
def CDAC_CH_STAT_OUT (i : Nat) : Fld := fld (0xC0000 + 0x10C + 0x10 * i) 0x10 16 0 .cold
/-- CDAC_PU.CODE (R332). -/
def CDAC_PU_CODE (i : Nat) : Fld := fld (0xC0000 + 0x400 + 4 * i) 0 16 0 .cold
/-- CDAC_FV.CODE (R332). -/
def CDAC_FV_CODE (i : Nat) : Fld := fld (0xC0000 + 0x500 + 4 * i) 0 16 0 .cold
/-- MGT_SPI_CFG.DUMMY (R356). -/
def MGT_SPI_CFG_DUMMY : Fld := fld (0 + 0x40) 0 6 0x10 .cold
/-- MGT_PORT_STAT.PW_SPI (R356). -/
def MGT_PORT_STAT_PW_SPI : Fld := fld (0 + 0x44) 0 6 0 .warm
/-- MGT_PORT_STAT.PW_I3C (R356). -/
def MGT_PORT_STAT_PW_I3C : Fld := fld (0 + 0x44) 8 6 0 .warm
/-- MGT_PORT_STAT.SPLIT_SPI (R356). -/
def MGT_PORT_STAT_SPLIT_SPI : Fld := fld (0 + 0x44) 0x10 4 0 .warm
/-- MGT_PORT_STAT.SPLIT_I3C (R356). -/
def MGT_PORT_STAT_SPLIT_I3C : Fld := fld (0 + 0x44) 0x14 4 0 .warm
/-- MGT_PORT_STAT.DA_VALID (R356). -/
def MGT_PORT_STAT_DA_VALID : Fld := fld (0 + 0x44) 0x18 1 0 .cold
/-- MGT_PORT_STAT.DA (R356). -/
def MGT_PORT_STAT_DA : Fld := fld (0 + 0x44) 0x19 7 0 .cold
/-- MGT_PW_ERR.CODE (R356). -/
def MGT_PW_ERR_CODE : Fld := fld (0 + 0x48) 0 8 0 .warm
/-- MGT_PW_ERR.PORT (R356). -/
def MGT_PW_ERR_PORT : Fld := fld (0 + 0x48) 8 2 0 .warm
/-- MGT_PW_ERR.VALID (R356). -/
def MGT_PW_ERR_VALID : Fld := fld (0 + 0x48) 0xF 1 0 .warm
/-- MGT_PW_ERR_ADDR.ADDR (R356). -/
def MGT_PW_ERR_ADDR_ADDR : Fld := fld (0 + 0x4C) 0 32 0 .warm
/-- MGT_PW_ERR_CNT.COUNT (R356). -/
def MGT_PW_ERR_CNT_COUNT : Fld := fld (0 + 0x50) 0 32 0 .warm
/-- MGT_WAKE.HOLD (R356). -/
def MGT_WAKE_HOLD : Fld := fld (0 + 0x54) 0 8 0xA .cold
/-- MGT_MAC_FAIL.COUNT (R356). -/
def MGT_MAC_FAIL_COUNT : Fld := fld (0 + 0x58) 0 32 0 .cold
/-- MGT_OWNER_CTR.COUNT (R356). -/
def MGT_OWNER_CTR_COUNT : Fld := fld (0 + 0x60) 0 32 0 .cold
/-- MGT_WICK.STATIC (R356). -/
def MGT_WICK_STATIC : Fld := fld (0 + 0x64) 0 7 0x4F .por
/-- MGT_WICK.DYNAMIC (R356). -/
def MGT_WICK_DYNAMIC : Fld := fld (0 + 0x64) 8 7 0 .por
/-- PIN_GPIO_CFG.FUNC (R356). -/
def PIN_GPIO_CFG_FUNC (i : Nat) : Fld := fld (0x130000 + 0x40 + 4 * i) 0 3 0 .cold
/-- PIN_GPIO_CFG.DIR (R356). -/
def PIN_GPIO_CFG_DIR (i : Nat) : Fld := fld (0x130000 + 0x40 + 4 * i) 4 1 0 .cold
/-- PIN_GPIO_CFG.OUT (R356). -/
def PIN_GPIO_CFG_OUT (i : Nat) : Fld := fld (0x130000 + 0x40 + 4 * i) 5 1 0 .cold
/-- PIN_GPIO_CFG.IN (R356). -/
def PIN_GPIO_CFG_IN (i : Nat) : Fld := fld (0x130000 + 0x40 + 4 * i) 6 1 1 .cold
/-- PIN_GPIO_CFG.SEL (R356). -/
def PIN_GPIO_CFG_SEL (i : Nat) : Fld := fld (0x130000 + 0x40 + 4 * i) 8 5 0 .cold
/-- PIN_GPIO_CFG.IRQ_EDGE (R356). -/
def PIN_GPIO_CFG_IRQ_EDGE (i : Nat) : Fld := fld (0x130000 + 0x40 + 4 * i) 0xD 2 0 .cold
/-- PIN_GPIO_CFG.OWNER (R356). -/
def PIN_GPIO_CFG_OWNER (i : Nat) : Fld := fld (0x130000 + 0x40 + 4 * i) 0x10 3 0 .cold
/-- IRQ_CTRL.INT_EN (R354). -/
def IRQ_CTRL_INT_EN : Fld := fld (0x20000 + 0x40) 0 1 1 .cold
/-- IRQ_CTRL.ALARM_EN (R354). -/
def IRQ_CTRL_ALARM_EN : Fld := fld (0x20000 + 0x40) 1 1 1 .cold
/-- IRQ_PIN.INT (R354). -/
def IRQ_PIN_INT : Fld := fld (0x20000 + 0x44) 0 1 0 .cold
/-- IRQ_PIN.ALARM (R354). -/
def IRQ_PIN_ALARM : Fld := fld (0x20000 + 0x44) 1 1 0 .cold
/-- IRQ_SUM_DEV.BLOCKS (R354). -/
def IRQ_SUM_DEV_BLOCKS : Fld := fld (0x20000 + 0x48) 0 20 0 .cold
/-- IRQ_SUM_SHEAF.BLOCKS (R354). -/
def IRQ_SUM_SHEAF_BLOCKS : Fld := fld (0x20000 + 0x4C) 0 4 0 .cold
/-- IRQ_SUM_LANE.LANES (R354). -/
def IRQ_SUM_LANE_LANES : Fld := fld (0x20000 + 0x50) 0 8 0 .cold
/-- IRQ_SUM_HOST.LANES (R354). -/
def IRQ_SUM_HOST_LANES : Fld := fld (0x20000 + 0x54) 0 16 0 .cold
/-- IRQ_ROUTE_SEL.INDEX (R354). -/
def IRQ_ROUTE_SEL_INDEX : Fld := fld (0x20000 + 0x60) 0 8 0 .cold
/-- IRQ_ROUTE_SEL.BIT (R354). -/
def IRQ_ROUTE_SEL_BIT : Fld := fld (0x20000 + 0x60) 8 5 0 .cold
/-- IRQ_ROUTES.ROUTE (R354); internal: routes of every source, by IRQ index and bit: 0 = reset value held, else 8 + route, R353. -/
def IRQ_ROUTES_ROUTE (i : Nat) (j : Nat) : Fld := fld ((hid 0x20000 0) + 0x80 * i + 4 * j) 0 4 0 .cold
/-- FWC_STAT.RUNNING (R355). -/
def FWC_STAT_RUNNING : Fld := fld (0x10000 + 0x40) 0 1 0 .warm
/-- FWC_STAT.BANK (R355). -/
def FWC_STAT_BANK : Fld := fld (0x10000 + 0x40) 1 1 0 .cold
/-- FWC_STAT.ABORTED (R355). -/
def FWC_STAT_ABORTED (j : Nat) : Fld := fld (0x10000 + 0x40) (8 + 1 * j) 1 0 .cold
/-- FWC_MBX_RESULT.CODE (R355). -/
def FWC_MBX_RESULT_CODE : Fld := fld (0x10000 + 0x54) 0 2 0 .cold
/-- FWC_MBX_SLOT.STATE (R355). -/
def FWC_MBX_SLOT_STATE (i : Nat) : Fld := fld (0x10000 + 0x60 + 4 * i) 0 2 0 .cold
/-- FWC_MBX_SLOT.OPCODE (R355). -/
def FWC_MBX_SLOT_OPCODE (i : Nat) : Fld := fld (0x10000 + 0x60 + 4 * i) 8 8 0 .cold
/-- FWC_MBX_SLOT.RESULT (R355). -/
def FWC_MBX_SLOT_RESULT (i : Nat) : Fld := fld (0x10000 + 0x60 + 4 * i) 0x10 4 0 .cold
/-- FWC_MBX_SLOT.RLEN (R355). -/
def FWC_MBX_SLOT_RLEN (i : Nat) : Fld := fld (0x10000 + 0x60 + 4 * i) 0x14 9 0 .cold
/-- FWC_MBX_SLOT.OWNER (R355). -/
def FWC_MBX_SLOT_OWNER (i : Nat) : Fld := fld (0x10000 + 0x60 + 4 * i) 0x1D 1 0 .cold
/-- FWC_MBX_BUF.WORD (R355). -/
def FWC_MBX_BUF_WORD (i : Nat) (j : Nat) : Fld := fld (0x10000 + 0x1000 + 0x400 * i + 4 * j) 0 32 0 .cold
/-- PWR_STATE_REQ.TARGET (R387). -/
def PWR_STATE_REQ_TARGET : Fld := fld (0x40000 + 0x40) 0 2 0 .cold
/-- PWR_STATE.STATE (R387). -/
def PWR_STATE_STATE : Fld := fld (0x40000 + 0x44) 0 2 0 .cold
/-- PWR_STATE.BUSY (R387). -/
def PWR_STATE_BUSY : Fld := fld (0x40000 + 0x44) 2 1 0 .cold
/-- PWR_STATE.TARGET (R387). -/
def PWR_STATE_TARGET : Fld := fld (0x40000 + 0x44) 4 2 0 .cold
/-- PWR_STATE.PEND_VALID (R387). -/
def PWR_STATE_PEND_VALID : Fld := fld (0x40000 + 0x44) 6 1 0 .cold
/-- PWR_STATE.PEND (R387). -/
def PWR_STATE_PEND : Fld := fld (0x40000 + 0x44) 8 2 0 .cold
/-- PWR_STATE.CAUSE (R387). -/
def PWR_STATE_CAUSE : Fld := fld (0x40000 + 0x44) 0xC 2 0 .por
/-- PWR_REFUSE.INDEX (R387). -/
def PWR_REFUSE_INDEX : Fld := fld (0x40000 + 0x48) 0 8 0 .cold
/-- PWR_REFUSE.CAUSE (R387). -/
def PWR_REFUSE_CAUSE : Fld := fld (0x40000 + 0x48) 8 2 0 .cold
/-- PWR_REFUSE.LEVEL (R387). -/
def PWR_REFUSE_LEVEL : Fld := fld (0x40000 + 0x48) 0xC 1 0 .cold
/-- PWR_PL_CFG.REQ (R387). -/
def PWR_PL_CFG_REQ : Fld := fld (0x40000 + 0x50) 0 2 3 .cold
/-- PWR_PL_CFG.AUTO (R387). -/
def PWR_PL_CFG_AUTO : Fld := fld (0x40000 + 0x50) 4 1 1 .cold
/-- PWR_PL_CFG.MIN (R387). -/
def PWR_PL_CFG_MIN : Fld := fld (0x40000 + 0x50) 8 2 0 .cold
/-- PWR_PL_STAT.LEVEL (R387). -/
def PWR_PL_STAT_LEVEL : Fld := fld (0x40000 + 0x54) 0 2 3 .cold
/-- PWR_PL_STAT.BUSY (R387). -/
def PWR_PL_STAT_BUSY : Fld := fld (0x40000 + 0x54) 2 1 0 .cold
/-- PWR_PL_STAT.TARGET (R387). -/
def PWR_PL_STAT_TARGET : Fld := fld (0x40000 + 0x54) 4 2 3 .cold
/-- PWR_PL_STAT.NEED (R387). -/
def PWR_PL_STAT_NEED : Fld := fld (0x40000 + 0x54) 8 2 0 .cold
/-- PWR_PL_STAT.AVS_ERR (R387). -/
def PWR_PL_STAT_AVS_ERR : Fld := fld (0x40000 + 0x54) 0xC 1 0 .cold
/-- PWR_PL_VOLT.V (R387). -/
def PWR_PL_VOLT_V (j : Nat) : Fld := fld (0x40000 + 0x58) (0 + 8 * j) 8 0 .cold
/-- PWR_AVS_CFG.CLK (R387). -/
def PWR_AVS_CFG_CLK : Fld := fld (0x40000 + 0x5C) 0 2 1 .cold
/-- PWR_AVS_CFG.RAIL (R387). -/
def PWR_AVS_CFG_RAIL : Fld := fld (0x40000 + 0x5C) 4 4 0 .cold
/-- PWR_AVS_CFG.SETTLE (R387). -/
def PWR_AVS_CFG_SETTLE : Fld := fld (0x40000 + 0x5C) 8 8 0x32 .cold
/-- PWR_STAT.BURST_MISS (R387). -/
def PWR_STAT_BURST_MISS (j : Nat) : Fld := fld (0x40000 + 0x60) (0 + 1 * j) 1 0 .cold
/-- PWR_WAKE_EN.PIN (R387). -/
def PWR_WAKE_EN_PIN : Fld := fld (0x40000 + 0x64) 0 1 1 .por
/-- PWR_WAKE_EN.WICK (R387). -/
def PWR_WAKE_EN_WICK : Fld := fld (0x40000 + 0x64) 1 1 1 .por
/-- PWR_WAKE_EN.ALM_EN (R387). -/
def PWR_WAKE_EN_ALM_EN : Fld := fld (0x40000 + 0x64) 2 1 0 .por
/-- PWR_WAKE_EN.ALARM (R387). -/
def PWR_WAKE_EN_ALARM : Fld := fld (0x40000 + 0x64) 8 5 0 .por
/-- PWR_WAKE_STAT.PIN (R387). -/
def PWR_WAKE_STAT_PIN : Fld := fld (0x40000 + 0x68) 0 1 0 .por
/-- PWR_WAKE_STAT.WICK (R387). -/
def PWR_WAKE_STAT_WICK : Fld := fld (0x40000 + 0x68) 1 1 0 .por
/-- PWR_WAKE_STAT.ALARM (R387). -/
def PWR_WAKE_STAT_ALARM : Fld := fld (0x40000 + 0x68) 2 1 0 .por
/-- PWR_WAKE_STAT.VIO (R387). -/
def PWR_WAKE_STAT_VIO : Fld := fld (0x40000 + 0x68) 3 1 0 .por
/-- PWR_WAKE_STAT.REQ (R387). -/
def PWR_WAKE_STAT_REQ : Fld := fld (0x40000 + 0x68) 4 1 0 .por
/-- PWR_WAKE_STAT.EDGE_LOST (R387). -/
def PWR_WAKE_STAT_EDGE_LOST : Fld := fld (0x40000 + 0x68) 8 1 0 .por
/-- PWR_RAIL_STAT.OK (R387). -/
def PWR_RAIL_STAT_OK (j : Nat) : Fld := fld (0x40000 + 0x70) (0 + 1 * j) 1 0 .por
/-- PWR_RAIL_STAT.ON_VBAK (R387). -/
def PWR_RAIL_STAT_ON_VBAK : Fld := fld (0x40000 + 0x70) 8 1 0 .por
/-- PWR_RAIL_STAT.UV (R387). -/
def PWR_RAIL_STAT_UV (j : Nat) : Fld := fld (0x40000 + 0x70) (0x10 + 1 * j) 1 0 .cold
/-- PWR_SWITCH.COUNT (R387). -/
def PWR_SWITCH_COUNT : Fld := fld (0x40000 + 0x74) 0 8 0 .por
/-- RST_CTRL.SHEAF (R408). -/
def RST_CTRL_SHEAF (j : Nat) : Fld := fld (0x30000 + 0x40) (8 + 1 * j) 1 0 .cold
/-- RST_CAUSE.POR (R408). -/
def RST_CAUSE_POR : Fld := fld (0x30000 + 0x44) 0 1 1 .por
/-- RST_CAUSE.COLD_SUPPLY (R408). -/
def RST_CAUSE_COLD_SUPPLY : Fld := fld (0x30000 + 0x44) 1 1 0 .por
/-- RST_CAUSE.COLD_SWITCH (R408). -/
def RST_CAUSE_COLD_SWITCH : Fld := fld (0x30000 + 0x44) 2 1 0 .por
/-- RST_CAUSE.PIN (R408). -/
def RST_CAUSE_PIN : Fld := fld (0x30000 + 0x44) 3 1 0 .por
/-- RST_CAUSE.GLOBAL (R408). -/
def RST_CAUSE_GLOBAL : Fld := fld (0x30000 + 0x44) 4 1 0 .por
/-- RST_CAUSE.WARM (R408). -/
def RST_CAUSE_WARM : Fld := fld (0x30000 + 0x44) 5 1 0 .por
/-- RST_CAUSE.WDT (R408). -/
def RST_CAUSE_WDT : Fld := fld (0x30000 + 0x44) 6 1 0 .por
/-- RST_CAUSE.TIMEKEEP (R408). -/
def RST_CAUSE_TIMEKEEP : Fld := fld (0x30000 + 0x44) 7 1 0 .por
/-- RST_CAUSE.SHEAF (R408). -/
def RST_CAUSE_SHEAF (j : Nat) : Fld := fld (0x30000 + 0x44) (8 + 1 * j) 1 0 .por
/-- RST_STAT.PHASE (R408). -/
def RST_STAT_PHASE : Fld := fld (0x30000 + 0x48) 0 4 1 .cold
/-- RST_STAT.HOLD_THERMAL (R408). -/
def RST_STAT_HOLD_THERMAL : Fld := fld (0x30000 + 0x48) 8 1 0 .por
/-- RST_STAT.HOLD_LOCKDOWN (R408). -/
def RST_STAT_HOLD_LOCKDOWN : Fld := fld (0x30000 + 0x48) 9 1 0 .por
/-- RST_STAT.STRAP_ERR (R408). -/
def RST_STAT_STRAP_ERR : Fld := fld (0x30000 + 0x48) 0xC 1 0 .cold
/-- RST_STAT.BANK_FALLBACK (R408). -/
def RST_STAT_BANK_FALLBACK : Fld := fld (0x30000 + 0x48) 0xD 1 0 .cold
/-- RST_STAT.LBIST_RUN (R408). -/
def RST_STAT_LBIST_RUN : Fld := fld (0x30000 + 0x48) 0xE 1 0 .cold
/-- RST_STRAP.BOOT (R408). -/
def RST_STRAP_BOOT : Fld := fld (0x30000 + 0x4C) 0 2 3 .cold
/-- RST_STRAP.CLKMODE (R408). -/
def RST_STRAP_CLKMODE : Fld := fld (0x30000 + 0x4C) 2 2 3 .cold
/-- RST_STRAP.ADDR (R408). -/
def RST_STRAP_ADDR : Fld := fld (0x30000 + 0x4C) 4 3 7 .cold
/-- RST_WDT_CFG.TIMEOUT (R408). -/
def RST_WDT_CFG_TIMEOUT : Fld := fld (0x30000 + 0x50) 0 16 0x64 .cold
/-- RST_WDT_CFG.RUNNING (R408). -/
def RST_WDT_CFG_RUNNING : Fld := fld (0x30000 + 0x50) 0x10 1 0 .warm
/-- RST_BOOT_STAT.ERROR (R408). -/
def RST_BOOT_STAT_ERROR : Fld := fld (0x30000 + 0x5C) 0 4 0 .cold
/-- RST_BOOT_STAT.WINDOW (R408). -/
def RST_BOOT_STAT_WINDOW : Fld := fld (0x30000 + 0x5C) 8 1 0 .cold
/-- MEM_ECC_STAT.CE_SEEN (R432). -/
def MEM_ECC_STAT_CE_SEEN : Fld := fld (0xF0000 + 0x40) 0 1 0 .cold
/-- MEM_ECC_STAT.UE_SEEN (R432). -/
def MEM_ECC_STAT_UE_SEEN : Fld := fld (0xF0000 + 0x40) 1 1 0 .cold
/-- MEM_ECC_STAT.ADDR_FAULT (R432). -/
def MEM_ECC_STAT_ADDR_FAULT : Fld := fld (0xF0000 + 0x40) 2 1 0 .cold
/-- MEM_ECC_CE_CNT.COUNT (R432). -/
def MEM_ECC_CE_CNT_COUNT : Fld := fld (0xF0000 + 0x44) 0 32 0 .cold
/-- MEM_ECC_UE_CNT.COUNT (R432). -/
def MEM_ECC_UE_CNT_COUNT : Fld := fld (0xF0000 + 0x48) 0 32 0 .cold
/-- MEM_ECC_LAST.MEMID (R432). -/
def MEM_ECC_LAST_MEMID : Fld := fld (0xF0000 + 0x4C) 0 8 0 .cold
/-- MEM_ECC_LAST.ADDR (R432). -/
def MEM_ECC_LAST_ADDR : Fld := fld (0xF0000 + 0x4C) 8 1 0 .cold
/-- MEM_ECC_LAST_ADDR.WORD (R432). -/
def MEM_ECC_LAST_ADDR_WORD : Fld := fld (0xF0000 + 0x50) 0 20 0 .cold
/-- MEM_SCRUB.EN (R432). -/
def MEM_SCRUB_EN : Fld := fld (0xF0000 + 0x54) 0 1 1 .cold
/-- MEM_SCRUB.PERIOD (R432). -/
def MEM_SCRUB_PERIOD : Fld := fld (0xF0000 + 0x54) 8 8 0x3C .cold
/-- MEM_MARCH_CTRL.MEMID (R432). -/
def MEM_MARCH_CTRL_MEMID : Fld := fld (0xF0000 + 0x60) 0 8 0 .cold
/-- MEM_MARCH_CTRL.PRESERVE (R432). -/
def MEM_MARCH_CTRL_PRESERVE : Fld := fld (0xF0000 + 0x60) 9 1 1 .cold
/-- MEM_MARCH_STAT.STATE (R432). -/
def MEM_MARCH_STAT_STATE : Fld := fld (0xF0000 + 0x64) 0 3 0 .cold
/-- MEM_MARCH_STAT.ROWS_REPAIRED (R432). -/
def MEM_MARCH_STAT_ROWS_REPAIRED : Fld := fld (0xF0000 + 0x64) 8 8 0 .cold
/-- MEM_MARCH_STAT.NO_SPARE (R432). -/
def MEM_MARCH_STAT_NO_SPARE : Fld := fld (0xF0000 + 0x64) 0x10 1 0 .cold
/-- MEM_REPAIR_STAT.RECORDS (R432). -/
def MEM_REPAIR_STAT_RECORDS : Fld := fld (0xF0000 + 0x68) 0 12 0 .cold
/-- MEM_REPAIR_STAT.FULL (R432). -/
def MEM_REPAIR_STAT_FULL : Fld := fld (0xF0000 + 0x68) 0x10 1 0 .cold
/-- MEM_INJ_ADDR.WORD (R432). -/
def MEM_INJ_ADDR_WORD : Fld := fld (0xF0000 + 0x400) 0 17 0 .block
/-- MEM_INJ_CTRL.MODE (R432). -/
def MEM_INJ_CTRL_MODE : Fld := fld (0xF0000 + 0x404) 0 2 0 .block
/-- NVS_STAT.BUSY (R432). -/
def NVS_STAT_BUSY : Fld := fld (0xE0000 + 0x40) 0 1 0 .cold
/-- NVS_STAT.WRITER (R432). -/
def NVS_STAT_WRITER : Fld := fld (0xE0000 + 0x40) 1 3 0 .cold
/-- NVS_CMD_ADDR.OFFSET (R432). -/
def NVS_CMD_ADDR_OFFSET : Fld := fld (0xE0000 + 0x44) 3 20 0 .cold
/-- NVS_CMD_DATA.DATA (R432). -/
def NVS_CMD_DATA_DATA : Fld := fld (0xE0000 + 0x48) 0 64 0 .cold
/-- NVS_CMD_STAT.STATE (R432). -/
def NVS_CMD_STAT_STATE : Fld := fld (0xE0000 + 0x54) 0 2 0 .cold
/-- NVS_CMD_STAT.ERR (R432). -/
def NVS_CMD_STAT_ERR : Fld := fld (0xE0000 + 0x54) 4 4 0 .cold
/-- NVS_ERR_CNT.VERIFY_FAIL (R432). -/
def NVS_ERR_CNT_VERIFY_FAIL : Fld := fld (0xE0000 + 0x58) 0 16 0 .cold
/-- NVS_ERR_CNT.UE_READ (R432). -/
def NVS_ERR_CNT_UE_READ : Fld := fld (0xE0000 + 0x58) 0x10 16 0 .cold
/-- NVS_CE_CNT.COUNT (R432). -/
def NVS_CE_CNT_COUNT : Fld := fld (0xE0000 + 0x5C) 0 32 0 .cold
/-- TST_LBIST_STAT.RAN (R432). -/
def TST_LBIST_STAT_RAN : Fld := fld (0x100000 + 0x40) 0 1 0 .cold
/-- TST_LBIST_STAT.CENTRAL_FAIL (R432). -/
def TST_LBIST_STAT_CENTRAL_FAIL : Fld := fld (0x100000 + 0x40) 1 1 0 .cold
/-- TST_LBIST_STAT.SHEAF_FAIL (R432). -/
def TST_LBIST_STAT_SHEAF_FAIL (j : Nat) : Fld := fld (0x100000 + 0x40) (2 + 1 * j) 1 0 .cold
/-- TST_LBIST_STAT.SLICE_FAIL (R432). -/
def TST_LBIST_STAT_SLICE_FAIL (j : Nat) : Fld := fld (0x100000 + 0x40) (8 + 8 * j) 5 0 .cold
/-- TST_CFG.LBIST_BOOT (R432). -/
def TST_CFG_LBIST_BOOT : Fld := fld (0x100000 + 0x44) 0 1 0 .cold
/-- TST_CFG.ONCE (R432). -/
def TST_CFG_ONCE : Fld := fld (0x100000 + 0x44) 1 1 0 .cold
/-- THM_CFG.COMPAT (R443). -/
def THM_CFG_COMPAT : Fld := fld (0x60000 + 0x40) 0 1 0 .cold
/-- THM_LEVEL_CFG.WARN (R443). -/
def THM_LEVEL_CFG_WARN : Fld := fld (0x60000 + 0x44) 0 8 0x5F .cold
/-- THM_LEVEL_CFG.THROTTLE (R443). -/
def THM_LEVEL_CFG_THROTTLE : Fld := fld (0x60000 + 0x44) 8 8 0x64 .cold
/-- THM_LEVEL_CFG.SHUT (R443). -/
def THM_LEVEL_CFG_SHUT : Fld := fld (0x60000 + 0x44) 0x10 8 0x6E .cold
/-- THM_LEVEL_CFG.HYST (R443). -/
def THM_LEVEL_CFG_HYST : Fld := fld (0x60000 + 0x44) 0x18 4 3 .cold
/-- THM_THROTTLE.P2_PAUSE (R443). -/
def THM_THROTTLE_P2_PAUSE : Fld := fld (0x60000 + 0x48) 0 8 3 .cold
/-- THM_THROTTLE.BG_PAUSE (R443). -/
def THM_THROTTLE_BG_PAUSE : Fld := fld (0x60000 + 0x48) 8 8 0xA .cold
/-- THM_THROTTLE.FORCE (R443). -/
def THM_THROTTLE_FORCE : Fld := fld (0x60000 + 0x48) 0x10 1 0 .cold
/-- THM_STAT.WARN (R443). -/
def THM_STAT_WARN : Fld := fld (0x60000 + 0x4C) 0 1 0 .cold
/-- THM_STAT.THROTTLE (R443). -/
def THM_STAT_THROTTLE : Fld := fld (0x60000 + 0x4C) 1 1 0 .cold
/-- THM_STAT.FORCED (R443). -/
def THM_STAT_FORCED : Fld := fld (0x60000 + 0x4C) 2 1 0 .cold
/-- THM_STAT.SHUTDOWN (R443). -/
def THM_STAT_SHUTDOWN : Fld := fld (0x60000 + 0x4C) 3 1 0 .por
/-- THM_STAT.THROTTLING (R443). -/
def THM_STAT_THROTTLING : Fld := fld (0x60000 + 0x4C) 4 1 0 .cold
/-- THM_STAT.VALID_CNT (R443). -/
def THM_STAT_VALID_CNT : Fld := fld (0x60000 + 0x4C) 8 4 0xE .cold
/-- THM_HOT.T (R443). -/
def THM_HOT_T : Fld := fld (0x60000 + 0x50) 0 16 0 .cold
/-- THM_HOT.SENSOR (R443). -/
def THM_HOT_SENSOR : Fld := fld (0x60000 + 0x50) 0x10 4 0 .cold
/-- THM_CENTRAL.T (R443). -/
def THM_CENTRAL_T : Fld := fld (0x60000 + 0x54) 0 16 0 .cold
/-- THM_SENSOR_STAT.BROKEN (R443). -/
def THM_SENSOR_STAT_BROKEN (j : Nat) : Fld := fld (0x60000 + 0x58) (0 + 1 * j) 1 0 .cold
/-- THM_SHUT_REC.SENSOR (R443). -/
def THM_SHUT_REC_SENSOR : Fld := fld (0x60000 + 0x5C) 0 4 0 .por
/-- THM_SHUT_REC.BY_SHUT (R443). -/
def THM_SHUT_REC_BY_SHUT : Fld := fld (0x60000 + 0x5C) 4 1 0 .por
/-- THM_SHUT_REC.T (R443). -/
def THM_SHUT_REC_T : Fld := fld (0x60000 + 0x5C) 0x10 16 0 .por
/-- THM_TEMP.T (R443). -/
def THM_TEMP_T (i : Nat) : Fld := fld (0x60000 + 0x80 + 4 * i) 0 16 0 .cold
/-- THM_TEMP.VALID (R443). -/
def THM_TEMP_VALID (i : Nat) : Fld := fld (0x60000 + 0x80 + 4 * i) 0x10 1 0 .cold
/-- THM_TEMP.CAUSE (R443). -/
def THM_TEMP_CAUSE (i : Nat) : Fld := fld (0x60000 + 0x80 + 4 * i) 0x11 2 0 .cold
/-- PMC_ACCESS.OPEN_READ (R448). -/
def PMC_ACCESS_OPEN_READ : Fld := fld (0x110000 + 0x40) 0 1 0 .cold
/-- PMC_CTRL.FREEZE (R448). -/
def PMC_CTRL_FREEZE : Fld := fld (0x110000 + 0x44) 1 1 0 .block
/-- PMC_SNAP_CFG.ALM_EN (R448). -/
def PMC_SNAP_CFG_ALM_EN : Fld := fld (0x110000 + 0x48) 0 1 0 .block
/-- PMC_SNAP_CFG.ALARM (R448). -/
def PMC_SNAP_CFG_ALARM : Fld := fld (0x110000 + 0x48) 8 5 0 .block
/-- PMC_SNAP_CFG.OVF_SNAP (R448). -/
def PMC_SNAP_CFG_OVF_SNAP : Fld := fld (0x110000 + 0x48) 0x10 1 0 .block
/-- PMC_SNAP_STAT.BUSY (R448). -/
def PMC_SNAP_STAT_BUSY : Fld := fld (0x110000 + 0x4C) 0 1 0 .block
/-- PMC_SNAP_STAT.DELAYED (R448). -/
def PMC_SNAP_STAT_DELAYED : Fld := fld (0x110000 + 0x4C) 1 1 0 .block
/-- PMC_SNAP_STAT.OVERLAP (R448). -/
def PMC_SNAP_STAT_OVERLAP : Fld := fld (0x110000 + 0x4C) 8 8 0 .block
/-- PMC_SNAP_STAT.SEQ (R448). -/
def PMC_SNAP_STAT_SEQ : Fld := fld (0x110000 + 0x4C) 0x10 16 0 .block
/-- PMC_SNAP_TIME.TIME (R448). -/
def PMC_SNAP_TIME_TIME : Fld := fld (0x110000 + 0x50) 0 96 0 .block
/-- PMC_SEL.INDEX (R448). -/
def PMC_SEL_INDEX : Fld := fld (0x110000 + 0x80) 0 8 0 .block
/-- PMC_SNAP_BUF.COUNT (R448). -/
def PMC_SNAP_BUF_COUNT (i : Nat) (j : Nat) : Fld := fld (0x110000 + 0x1000 + 0x40 * i + 8 * j) 0 64 0 .block
/-- PMC_INT.WAITING (R448); internal: a snapshot waits for the background-operation pause; a background-operation pause runs since the last snapshot, R442. -/
def PMC_INT_WAITING : Fld := fld ((hid 0x110000 0x200000)) 0 1 0 .block
/-- PMC_INT.PAUSE (R448); internal: a snapshot waits for the background-operation pause; a background-operation pause runs since the last snapshot, R442. -/
def PMC_INT_PAUSE : Fld := fld ((hid 0x110000 0x200000)) 1 1 0 .block
/-- EVR_CFG.KEEP_FIRST (R457). -/
def EVR_CFG_KEEP_FIRST : Fld := fld (0x120000 + 0x40) 0 1 0 .cold
/-- EVR_CFG.TRIG_UE (R457). -/
def EVR_CFG_TRIG_UE : Fld := fld (0x120000 + 0x40) 1 1 1 .cold
/-- EVR_CFG.TRIG_WDT (R457). -/
def EVR_CFG_TRIG_WDT : Fld := fld (0x120000 + 0x40) 2 1 1 .cold
/-- EVR_CFG.HOLDOFF (R457). -/
def EVR_CFG_HOLDOFF : Fld := fld (0x120000 + 0x40) 8 8 0xA .cold
/-- EVR_STAT.BUSY (R457). -/
def EVR_STAT_BUSY : Fld := fld (0x120000 + 0x48) 0 1 0 .cold
/-- EVR_STAT.PENDING (R457). -/
def EVR_STAT_PENDING : Fld := fld (0x120000 + 0x48) 1 1 0 .cold
/-- EVR_STAT.LAST_SLOT (R457). -/
def EVR_STAT_LAST_SLOT : Fld := fld (0x120000 + 0x48) 4 3 0 .cold
/-- EVR_STAT.LAST_TRIG (R457). -/
def EVR_STAT_LAST_TRIG : Fld := fld (0x120000 + 0x48) 8 8 0 .cold
/-- EVR_SEQ.SEQ (R457). -/
def EVR_SEQ_SEQ : Fld := fld (0x120000 + 0x4C) 0 32 0 .cold
/-- EVR_WR_IDX.INDEX (R457). -/
def EVR_WR_IDX_INDEX : Fld := fld (0x120000 + 0x50) 0 14 0 .por
/-- EVR_WR_IDX.WRAPPED (R457). -/
def EVR_WR_IDX_WRAPPED : Fld := fld (0x120000 + 0x50) 0x1F 1 0 .por
/-- EVR_RD_IDX.INDEX (R457). -/
def EVR_RD_IDX_INDEX : Fld := fld (0x120000 + 0x54) 0 14 0 .cold
/-- EVR_RD_IDX.UE (R457). -/
def EVR_RD_IDX_UE : Fld := fld (0x120000 + 0x54) 0x10 1 0 .cold
/-- EVR_RD_DATA.ENTRY (R457). -/
def EVR_RD_DATA_ENTRY : Fld := fld (0x120000 + 0x58) 0 128 0 .cold
/-- EVR_LOG_DATA.DATA (R457). -/
def EVR_LOG_DATA_DATA : Fld := fld (0x120000 + 0x68) 0 32 0 .block
/-- EVR_LOST.COUNT (R457). -/
def EVR_LOST_COUNT : Fld := fld (0x120000 + 0x70) 0 32 0 .por
/-- EVR_SUPPRESS.COUNT (R457). -/
def EVR_SUPPRESS_COUNT : Fld := fld (0x120000 + 0x74) 0 32 0 .cold
/-- EVR_DISCARD.COUNT (R457). -/
def EVR_DISCARD_COUNT : Fld := fld (0x120000 + 0x78) 0 32 0 .cold
/-- EVR_SNAP_PAGE.EN (R457). -/
def EVR_SNAP_PAGE_EN (i : Nat) : Fld := fld (0x120000 + 0x80 + 4 * i) 0 1 (([(0, 1), (1, 1), (2, 1), (3, 1), (4, 1), (5, 1), (6, 1), (7, 1)] : List (Nat × Nat)).lookup i |>.getD 0) .cold
/-- EVR_SNAP_PAGE.PAGE (R457). -/
def EVR_SNAP_PAGE_PAGE (i : Nat) : Fld := fld (0x120000 + 0x80 + 4 * i) 0xC 20 (([(0, 0x30), (1, 0x40), (2, 0x60), (3, 0x1000), (4, 0x1100), (5, 0x70), (6, 0xF0), (7, 0x20)] : List (Nat × Nat)).lookup i |>.getD 0) .cold
/-- EVR_SLOT_STAT.USED (R457). -/
def EVR_SLOT_STAT_USED : Fld := fld (0x120000 + 0xC0) 0 8 0 .cold
/-- EVR_SLOT_STAT.SIGNED (R457). -/
def EVR_SLOT_STAT_SIGNED : Fld := fld (0x120000 + 0xC0) 8 8 0 .cold
/-- SEC_LIFE.STATE (R487). -/
def SEC_LIFE_STATE : Fld := fld (0xD0000 + 0x40) 0 3 0 .por
/-- SEC_LIFE.OWNER_SLOT (R487). -/
def SEC_LIFE_OWNER_SLOT : Fld := fld (0xD0000 + 0x40) 4 2 0 .por
/-- SEC_LIFE.VENDOR_SLOT (R487). -/
def SEC_LIFE_VENDOR_SLOT : Fld := fld (0xD0000 + 0x40) 6 1 0 .por
/-- SEC_LIFE.DEBUG (R487). -/
def SEC_LIFE_DEBUG : Fld := fld (0xD0000 + 0x40) 8 1 0 .cold
/-- SEC_STAT.OWN_SESSION (R487). -/
def SEC_STAT_OWN_SESSION : Fld := fld (0xD0000 + 0x44) 0 1 0 .cold
/-- SEC_STAT.TRNG_FAIL (R487). -/
def SEC_STAT_TRNG_FAIL : Fld := fld (0xD0000 + 0x44) 1 1 0 .cold
/-- SEC_STAT.LOCKDOWN (R487). -/
def SEC_STAT_LOCKDOWN : Fld := fld (0xD0000 + 0x44) 2 1 0 .por
/-- SEC_STAT.LD_CAUSE (R487). -/
def SEC_STAT_LD_CAUSE : Fld := fld (0xD0000 + 0x44) 4 3 0 .por
/-- SEC_CMD_STAT.STATE (R487). -/
def SEC_CMD_STAT_STATE : Fld := fld (0xD0000 + 0x4C) 0 2 0 .cold
/-- SEC_CMD_STAT.RESULT (R487). -/
def SEC_CMD_STAT_RESULT : Fld := fld (0xD0000 + 0x4C) 8 8 0 .cold
/-- SEC_OWN_CFG.IDLE (R487). -/
def SEC_OWN_CFG_IDLE : Fld := fld (0xD0000 + 0x50) 0 8 0xF .cold
/-- SEC_ARB.FW_SVN (R487). -/
def SEC_ARB_FW_SVN : Fld := fld (0xD0000 + 0x54) 0 16 0 .cold
/-- SEC_ARB.PROFILE_SVN (R487). -/
def SEC_ARB_PROFILE_SVN : Fld := fld (0xD0000 + 0x54) 0x10 16 0 .cold
/-- SEC_TAMPER_CFG.GLITCH_V (R487). -/
def SEC_TAMPER_CFG_GLITCH_V : Fld := fld (0xD0000 + 0x58) 0 1 1 .cold
/-- SEC_TAMPER_CFG.GLITCH_CLK (R487). -/
def SEC_TAMPER_CFG_GLITCH_CLK : Fld := fld (0xD0000 + 0x58) 1 1 1 .cold
/-- SEC_FAIL.OWN (R487). -/
def SEC_FAIL_OWN : Fld := fld (0xD0000 + 0x5C) 0 16 0 .cold
/-- SEC_ID_HASH.HASH (R487). -/
def SEC_ID_HASH_HASH (i : Nat) : Fld := fld (0xD0000 + 0x60 + 4 * i) 0 32 0 .cold
/-- SEC_PEER_CFG.AUTO (R487). -/
def SEC_PEER_CFG_AUTO (i : Nat) : Fld := fld (0xD0000 + 0xA0 + 4 * i) 0 1 1 .cold
/-- SEC_PEER_CFG.OWNER_MATCH (R487). -/
def SEC_PEER_CFG_OWNER_MATCH (i : Nat) : Fld := fld (0xD0000 + 0xA0 + 4 * i) 1 1 0 .cold
/-- SEC_PEER_CFG.TMO (R487). -/
def SEC_PEER_CFG_TMO (i : Nat) : Fld := fld (0xD0000 + 0xA0 + 4 * i) 8 8 0x32 .cold
/-- SEC_PEER_STAT.FAIL (R487). -/
def SEC_PEER_STAT_FAIL (i : Nat) : Fld := fld (0xD0000 + 0xC0 + 4 * i) 0 8 0 .cold
/-- SEC_PEER_STAT.LAST_ALERT (R487). -/
def SEC_PEER_STAT_LAST_ALERT (i : Nat) : Fld := fld (0xD0000 + 0xC0 + 4 * i) 8 3 0 .cold
/-- SEC_BUF.DATA (R487). -/
def SEC_BUF_DATA (i : Nat) : Fld := fld (0xD0000 + 0x100 + 4 * i) 0 32 0 .cold
/-- CLK_STAT.MODE (R495). -/
def CLK_STAT_MODE : Fld := fld (0x50000 + 0x40) 0 2 3 .cold
/-- CLK_STAT.REF_OK (R495). -/
def CLK_STAT_REF_OK : Fld := fld (0x50000 + 0x40) 4 1 0 .cold
/-- CLK_STAT.REF_LOS (R495). -/
def CLK_STAT_REF_LOS : Fld := fld (0x50000 + 0x40) 5 1 0 .cold
/-- CLK_STAT.BACKUP (R495). -/
def CLK_STAT_BACKUP : Fld := fld (0x50000 + 0x40) 6 1 0 .cold
/-- CLK_REF_FREQ.FREQ (R495). -/
def CLK_REF_FREQ_FREQ : Fld := fld (0x50000 + 0x44) 0 16 0 .cold
/-- CLK_REF_FREQ.VALID (R495). -/
def CLK_REF_FREQ_VALID : Fld := fld (0x50000 + 0x44) 0x1F 1 0 .cold
/-- PMC_EVSEL.EVENT (R445). -/
def PMC_EVSEL_EVENT (b : Blk) (i : Nat) : Fld := fld ((hid b.base 0x100000) + 0x20 * i) 0 8 0 .block
/-- PMC_EVSEL.EN (R445). -/
def PMC_EVSEL_EN (b : Blk) (i : Nat) : Fld := fld ((hid b.base 0x100000) + 0x20 * i) 8 1 0 .block
/-- PMC_EVSEL.OVF (R445). -/
def PMC_EVSEL_OVF (b : Blk) (i : Nat) : Fld := fld ((hid b.base 0x100000) + 0x20 * i) 9 1 0 .block
/-- PMC_PRELOAD.P (R445). -/
def PMC_PRELOAD_P (b : Blk) (i : Nat) : Fld := fld ((hid b.base 0x100004) + 0x20 * i) 0 32 0 .block
/-- PMC_CNT.COUNT (R445). -/
def PMC_CNT_COUNT (b : Blk) (i : Nat) : Fld := fld ((hid b.base 0x100008) + 0x20 * i) 0 48 0 .block

end Sys2Proof.R

namespace Sys2Proof.Row

def BLK_CTRL_EN : FRow := { bk := .mgt, off := 8, lo := 0, w := 1, acc := .rw, kind := .cold, rst := 1, vmax := 1 }
def BLK_CTRL_WAKE_ON_ACCESS : FRow := { bk := .mgt, off := 8, lo := 2, w := 1, acc := .rw, kind := .cold, rst := 1, vmax := 1 }
def BLK_CTRL_EXPERT : FRow := { bk := .mgt, off := 8, lo := 16, w := 2, acc := .ro, kind := .block, rst := 0, vmax := 3 }
def BLK_STAT_STATE : FRow := { bk := .mgt, off := 0xC, lo := 0, w := 3, acc := .ro, kind := .block, rst := 0, vmax := 7 }
def BLK_STAT_RESTART_PENDING : FRow := { bk := .mgt, off := 0xC, lo := 4, w := 1, acc := .ro, kind := .block, rst := 0, vmax := 1 }
def BLK_STAT_CONFLICT : FRow := { bk := .mgt, off := 0xC, lo := 5, w := 1, acc := .w1c, kind := .block, rst := 0, vmax := 1 }
def BLK_STAT_BUSY : FRow := { bk := .mgt, off := 0xC, lo := 6, w := 1, acc := .ro, kind := .block, rst := 0, vmax := 1 }
def BLK_STAT_IN_RESET : FRow := { bk := .mgt, off := 0xC, lo := 7, w := 1, acc := .ro, kind := .block, rst := 0, vmax := 1 }
def IRQ_RAW_RAW : FRow := { bk := .mgt, off := 0x10, lo := 0, w := 1, acc := .ro, kind := .block, rst := 0, n2 := 32, b2 := 1, vmax := 1 }
def IRQ_EN_EN : FRow := { bk := .mgt, off := 0x14, lo := 0, w := 1, acc := .rw, kind := .block, rst := 0, n2 := 32, b2 := 1, vmax := 1 }
def ERR_CAP_CODE : FRow := { bk := .mgt, off := 0x20, lo := 0, w := 8, acc := .rc, kind := .block, rst := 0, vmax := 255 }
def ERR_CAP_REQ : FRow := { bk := .mgt, off := 0x20, lo := 8, w := 3, acc := .rc, kind := .block, rst := 0, vmax := 7 }
def ERR_CAP_OFFSET : FRow := { bk := .mgt, off := 0x20, lo := 16, w := 16, acc := .rc, kind := .block, rst := 0, vmax := 65535 }
def CLAIM_OWNER : FRow := { bk := .mgt, off := 0x24, lo := 0, w := 3, acc := .ro, kind := .block, rst := 0, vmax := 7 }
def SHF_LANE_CFG_EN : FRow := { bk := .shf, off := 0x40, lo := 0, w := 1, acc := .rw, kind := .block, rst := 0, n := 4, s := 4, vmax := 1 }
def SHF_LANE_CFG_RATE : FRow := { bk := .shf, off := 0x40, lo := 1, w := 1, acc := .rw, kind := .block, rst := 0, n := 4, s := 4, vmax := 1 }
def SHF_LANE_CFG_MODE : FRow := { bk := .shf, off := 0x40, lo := 2, w := 2, acc := .rw, kind := .block, rst := 2, n := 4, s := 4, vmin := 0, vmax := 2 }
def SHF_LANE_CFG_ASSIST : FRow := { bk := .shf, off := 0x40, lo := 4, w := 1, acc := .rw, kind := .block, rst := 0, n := 4, s := 4, vmax := 1 }
def SHF_LANE_CFG_DIM_REQ : FRow := { bk := .shf, off := 0x40, lo := 5, w := 1, acc := .rw, kind := .block, rst := 0, n := 4, s := 4, vmax := 1 }
def SHF_LANE_STATE_STATE : FRow := { bk := .shf, off := 0x50, lo := 0, w := 4, acc := .ro, kind := .block, rst := 0, n2 := 4, b2 := 4, vmax := 15 }
def SHF_LANE_STATE_PL_WAIT : FRow := { bk := .shf, off := 0x50, lo := 16, w := 1, acc := .ro, kind := .block, rst := 0, n2 := 4, b2 := 1, vmax := 1 }
def SHF_LANE_STATE_TX_DIM : FRow := { bk := .shf, off := 0x50, lo := 20, w := 1, acc := .ro, kind := .block, rst := 0, n2 := 4, b2 := 1, vmax := 1 }
def SHF_LANE_STATE_COAST_CANDLE : FRow := { bk := .shf, off := 0x50, lo := 24, w := 1, acc := .ro, kind := .block, rst := 0, n2 := 4, b2 := 1, vmax := 1 }
def SHF_LANE_STATE_BUSY : FRow := { bk := .shf, off := 0x50, lo := 28, w := 1, acc := .ro, kind := .block, rst := 0, n2 := 4, b2 := 1, vmax := 1 }
def SHF_LANE_FAULT_CAUSE : FRow := { bk := .shf, off := 0x54, lo := 0, w := 4, acc := .ro, kind := .block, rst := 0, n2 := 4, b2 := 4, vmax := 15 }
def SHF_SLICE_MAP_LANE_SLICE : FRow := { bk := .shf, off := 0x60, lo := 0, w := 3, acc := .ro, kind := .cold, rst := 0, n2 := 4, b2 := 4, xs := [(0, 0), (1, 1), (2, 2), (3, 3)], xj := true, vmax := 7 }
def SHF_SLICE_MAP_RETIRED : FRow := { bk := .shf, off := 0x60, lo := 16, w := 1, acc := .ro, kind := .cold, rst := 0, n2 := 5, b2 := 1, vmax := 1 }
def SHF_SLICE_MAP_SPARE_USED : FRow := { bk := .shf, off := 0x60, lo := 24, w := 1, acc := .ro, kind := .cold, rst := 0, vmax := 1 }
def SHF_PLL_STAT_LINE_LOCK : FRow := { bk := .shf, off := 0x64, lo := 0, w := 1, acc := .ro, kind := .block, rst := 0, vmax := 1 }
def SHF_PLL_STAT_HOST_LOCK : FRow := { bk := .shf, off := 0x64, lo := 1, w := 1, acc := .ro, kind := .block, rst := 0, vmax := 1 }
def SHF_PLL_STAT_LINE_LOL : FRow := { bk := .shf, off := 0x64, lo := 8, w := 1, acc := .w1c, kind := .block, rst := 0, vmax := 1 }
def SHF_PLL_STAT_HOST_LOL : FRow := { bk := .shf, off := 0x64, lo := 9, w := 1, acc := .w1c, kind := .block, rst := 0, vmax := 1 }
def LFR_CFG_TX_PRECODE : FRow := { bk := .lfr, off := 0x40, lo := 0, w := 1, acc := .rw, kind := .block, rst := 0, vmax := 1 }
def LFR_CFG_RX_PRECODE : FRow := { bk := .lfr, off := 0x40, lo := 1, w := 1, acc := .rw, kind := .block, rst := 0, vmax := 1 }
def LFR_STAT_PILOT_LOCK : FRow := { bk := .lfr, off := 0x44, lo := 0, w := 1, acc := .ro, kind := .block, rst := 0, vmax := 1 }
def LFR_STAT_SCR_LOCK : FRow := { bk := .lfr, off := 0x44, lo := 1, w := 1, acc := .ro, kind := .block, rst := 0, vmax := 1 }
def LFR_STAT_RX_DIM : FRow := { bk := .lfr, off := 0x44, lo := 2, w := 1, acc := .ro, kind := .block, rst := 0, vmax := 1 }
def LFR_STAT_TX_MARK : FRow := { bk := .lfr, off := 0x44, lo := 3, w := 1, acc := .ro, kind := .block, rst := 0, vmax := 1 }
def LFR_TX_SFC_COUNT : FRow := { bk := .lfr, off := 0x48, lo := 0, w := 32, acc := .ro, kind := .block, rst := 0, vmax := 4294967295 }
def LFR_RX_SFC_COUNT : FRow := { bk := .lfr, off := 0x4C, lo := 0, w := 32, acc := .ro, kind := .block, rst := 0, vmax := 4294967295 }
def LFR_PILOT_BAD_COUNT : FRow := { bk := .lfr, off := 0x50, lo := 0, w := 32, acc := .rc, kind := .block, rst := 0, vmax := 4294967295 }
def LFR_SFC_MISS_COUNT : FRow := { bk := .lfr, off := 0x54, lo := 0, w := 32, acc := .rc, kind := .block, rst := 0, vmax := 4294967295 }
def LFR_TEST_SCR_BYPASS_TX : FRow := { bk := .lfr, off := 0x400, lo := 0, w := 1, acc := .rw, kind := .block, rst := 0, vmax := 1 }
def LFR_TEST_SCR_BYPASS_RX : FRow := { bk := .lfr, off := 0x400, lo := 1, w := 1, acc := .rw, kind := .block, rst := 0, vmax := 1 }
def LFR_TEST_PILOT_TOL : FRow := { bk := .lfr, off := 0x400, lo := 2, w := 2, acc := .rw, kind := .block, rst := 1, vmin := 0, vmax := 2 }
def LRX_CFG_LOS_THR : FRow := { bk := .lrx, off := 0x40, lo := 0, w := 8, acc := .rw, kind := .block, rst := 0xA, vmax := 255 }
def LRX_CFG_LOS_CLR : FRow := { bk := .lrx, off := 0x40, lo := 8, w := 2, acc := .rw, kind := .block, rst := 0, vmax := 3 }
def LRX_STAT_LOS : FRow := { bk := .lrx, off := 0x44, lo := 0, w := 1, acc := .ro, kind := .block, rst := 1, vmax := 1 }
def LRX_STAT_LOS_RAW : FRow := { bk := .lrx, off := 0x44, lo := 1, w := 1, acc := .ro, kind := .block, rst := 1, vmax := 1 }
def LRX_STAT_AGC_DONE : FRow := { bk := .lrx, off := 0x44, lo := 2, w := 1, acc := .ro, kind := .block, rst := 0, vmax := 1 }
def LRX_STAT_ADC_READY : FRow := { bk := .lrx, off := 0x44, lo := 3, w := 1, acc := .ro, kind := .block, rst := 0, vmax := 1 }
def LRX_GAIN_CTLE : FRow := { bk := .lrx, off := 0x48, lo := 0, w := 5, acc := .ro, kind := .block, rst := 0x12, vmax := 31 }
def LRX_GAIN_VGA : FRow := { bk := .lrx, off := 0x48, lo := 8, w := 7, acc := .ro, kind := .block, rst := 0x18, vmax := 127 }
def LRX_CLIP_CNT_COUNT : FRow := { bk := .lrx, off := 0x4C, lo := 0, w := 32, acc := .rc, kind := .block, rst := 0, vmax := 4294967295 }
def LRX_AFE_CTRL_CTLE_FREEZE : FRow := { bk := .lrx, off := 0x400, lo := 0, w := 1, acc := .rw, kind := .block, rst := 0, vmax := 1 }
def LRX_AFE_CTRL_AGC_FREEZE : FRow := { bk := .lrx, off := 0x400, lo := 1, w := 1, acc := .rw, kind := .block, rst := 0, vmax := 1 }
def LRX_AFE_CTRL_CTLE_FORCE : FRow := { bk := .lrx, off := 0x400, lo := 8, w := 5, acc := .rw, kind := .block, rst := 0x12, vmin := 0, vmax := 28 }
def LRX_AFE_CTRL_VGA_FORCE : FRow := { bk := .lrx, off := 0x400, lo := 16, w := 7, acc := .rw, kind := .block, rst := 0x18, vmin := 0, vmax := 72 }
def LRX_AFE_CTRL_AGC_TGT : FRow := { bk := .lrx, off := 0x400, lo := 24, w := 8, acc := .rw, kind := .block, rst := 0x2C, vmax := 255 }
def LRX_CORE_SEL_CORE : FRow := { bk := .lrx, off := 0x404, lo := 0, w := 7, acc := .rw, kind := .block, rst := 0, vmin := 0, vmax := 95 }
def REQ_CFG_REACH : FRow := { bk := .req, off := 0x40, lo := 0, w := 2, acc := .rw, kind := .block, rst := 1, vmin := 0, vmax := 2 }
def REQ_CFG_ECHO_AUTO : FRow := { bk := .req, off := 0x40, lo := 2, w := 1, acc := .rw, kind := .block, rst := 1, vmax := 1 }
def REQ_STAT_TR_LOCK : FRow := { bk := .req, off := 0x44, lo := 0, w := 1, acc := .ro, kind := .block, rst := 0, vmax := 1 }
def REQ_STAT_FFE_CONV : FRow := { bk := .req, off := 0x44, lo := 1, w := 1, acc := .ro, kind := .block, rst := 0, vmax := 1 }
def REQ_STAT_MLSE_ACTIVE : FRow := { bk := .req, off := 0x44, lo := 2, w := 1, acc := .ro, kind := .block, rst := 0, vmax := 1 }
def REQ_STAT_MLSE_CONV : FRow := { bk := .req, off := 0x44, lo := 3, w := 1, acc := .ro, kind := .block, rst := 0, vmax := 1 }
def REQ_STAT_PASS2_ACTIVE : FRow := { bk := .req, off := 0x44, lo := 4, w := 1, acc := .ro, kind := .block, rst := 0, vmax := 1 }
def REQ_STAT_FROZEN : FRow := { bk := .req, off := 0x44, lo := 5, w := 1, acc := .ro, kind := .block, rst := 0, vmax := 1 }
def REQ_SNR_SNR : FRow := { bk := .req, off := 0x48, lo := 0, w := 10, acc := .ro, kind := .block, rst := 0, vmax := 1023 }
def REQ_SNR_VALID : FRow := { bk := .req, off := 0x48, lo := 16, w := 1, acc := .ro, kind := .block, rst := 0, vmax := 1 }
def REQ_SNR_MIN_SNR_MIN : FRow := { bk := .req, off := 0x4C, lo := 0, w := 10, acc := .rw, kind := .block, rst := 0x82, vmax := 1023 }
def REQ_TR_FREQ_FREQ : FRow := { bk := .req, off := 0x50, lo := 0, w := 16, acc := .ro, kind := .block, rst := 0, vmax := 65535 }
def REQ_LVL_MEAN_MEAN : FRow := { bk := .req, off := 0x60, lo := 0, w := 16, acc := .ro, kind := .block, rst := 0, n := 4, s := 4, xs := [(0, 0xFA00), (1, 0xFE00), (2, 0x200), (3, 0x600)], vmax := 65535 }
def REQ_LVL_SIGMA_SIGMA : FRow := { bk := .req, off := 0x70, lo := 0, w := 16, acc := .ro, kind := .block, rst := 0x80, n := 4, s := 4, vmax := 65535 }
def REQ_HIST_CFG_SRC : FRow := { bk := .req, off := 0x80, lo := 0, w := 1, acc := .rw, kind := .block, rst := 0, vmax := 1 }
def REQ_HIST_CFG_LVL_EN : FRow := { bk := .req, off := 0x80, lo := 1, w := 1, acc := .rw, kind := .block, rst := 0, vmax := 1 }
def REQ_HIST_CFG_LEVEL : FRow := { bk := .req, off := 0x80, lo := 2, w := 2, acc := .rw, kind := .block, rst := 0, vmax := 3 }
def REQ_HIST_CFG_LEN : FRow := { bk := .req, off := 0x80, lo := 8, w := 6, acc := .rw, kind := .block, rst := 0x14, vmin := 10, vmax := 34 }
def REQ_HIST_STAT_BUSY : FRow := { bk := .req, off := 0x84, lo := 0, w := 1, acc := .ro, kind := .block, rst := 0, vmax := 1 }
def REQ_HIST_STAT_DONE : FRow := { bk := .req, off := 0x84, lo := 1, w := 1, acc := .ro, kind := .block, rst := 0, vmax := 1 }
def REQ_ADAPT_TR_FREEZE : FRow := { bk := .req, off := 0x400, lo := 0, w := 1, acc := .rw, kind := .block, rst := 0, vmax := 1 }
def REQ_ADAPT_FFE_FREEZE : FRow := { bk := .req, off := 0x400, lo := 1, w := 1, acc := .rw, kind := .block, rst := 0, vmax := 1 }
def REQ_ADAPT_ECHO_FREEZE : FRow := { bk := .req, off := 0x400, lo := 2, w := 1, acc := .rw, kind := .block, rst := 0, vmax := 1 }
def REQ_ADAPT_LVL_FREEZE : FRow := { bk := .req, off := 0x400, lo := 3, w := 1, acc := .rw, kind := .block, rst := 0, vmax := 1 }
def REQ_ADAPT_THR_FREEZE : FRow := { bk := .req, off := 0x400, lo := 4, w := 1, acc := .rw, kind := .block, rst := 0, vmax := 1 }
def REQ_TR_LOOP_KP : FRow := { bk := .req, off := 0x404, lo := 0, w := 5, acc := .rw, kind := .block, rst := 8, vmax := 31 }
def REQ_TR_LOOP_KI : FRow := { bk := .req, off := 0x404, lo := 8, w := 5, acc := .rw, kind := .block, rst := 0x12, vmax := 31 }
def REQ_TR_LOOP_PHASE_OFS : FRow := { bk := .req, off := 0x404, lo := 16, w := 7, acc := .rw, kind := .block, rst := 0, vmax := 127 }
def REQ_FFE_CTRL_MU : FRow := { bk := .req, off := 0x408, lo := 8, w := 4, acc := .rw, kind := .block, rst := 0xA, vmax := 15 }
def REQ_MLSE_TGT_H1 : FRow := { bk := .req, off := 0x420, lo := 0, w := 12, acc := .rw, kind := .block, rst := 0, vmax := 4095 }
def REQ_MLSE_TGT_H2 : FRow := { bk := .req, off := 0x420, lo := 16, w := 12, acc := .rw, kind := .block, rst := 0, vmax := 4095 }
def REQ_SLICER_THR_T : FRow := { bk := .req, off := 0x424, lo := 0, w := 8, acc := .rw, kind := .block, rst := 0, n2 := 3, b2 := 8, xs := [(0, 0xC0), (1, 0), (2, 0x40)], xj := true, vmax := 255 }
def REQ_LVL_FORCE_MEAN : FRow := { bk := .req, off := 0x430, lo := 0, w := 16, acc := .rw, kind := .block, rst := 0, n := 4, s := 4, xs := [(0, 0xFA00), (1, 0xFE00), (2, 0x200), (3, 0x600)], vmax := 65535 }
def REQ_LVL_FORCE_SIGMA : FRow := { bk := .req, off := 0x430, lo := 16, w := 16, acc := .rw, kind := .block, rst := 0x80, n := 4, s := 4, vmin := 1, vmax := 65535 }
def REQ_HIST_BIN_COUNT : FRow := { bk := .req, off := 0x1000, lo := 0, w := 32, acc := .ro, kind := .block, rst := 0, n := 256, s := 4, vmax := 4294967295 }
def CAP_CFG_LANE_MASK : FRow := { bk := .cap, off := 0x40, lo := 0, w := 1, acc := .rw, kind := .block, rst := 0, n2 := 4, b2 := 1, vmax := 1 }
def CAP_CFG_SRC : FRow := { bk := .cap, off := 0x40, lo := 4, w := 2, acc := .rw, kind := .block, rst := 0, vmax := 3 }
def CAP_CFG_TRIG : FRow := { bk := .cap, off := 0x40, lo := 8, w := 3, acc := .rw, kind := .block, rst := 0, vmin := 0, vmax := 5 }
def CAP_CFG_ALARM : FRow := { bk := .cap, off := 0x40, lo := 16, w := 5, acc := .rw, kind := .block, rst := 0, vmax := 31 }
def CAP_CFG_PRE : FRow := { bk := .cap, off := 0x40, lo := 24, w := 8, acc := .rw, kind := .block, rst := 0, vmax := 255 }
def CAP_DECIM_D : FRow := { bk := .cap, off := 0x44, lo := 0, w := 5, acc := .rw, kind := .block, rst := 0, vmin := 0, vmax := 20 }
def CAP_FILL_PAT_PAT : FRow := { bk := .cap, off := 0x4C, lo := 0, w := 32, acc := .rw, kind := .block, rst := 0, vmax := 4294967295 }
def CAP_STAT_STATE : FRow := { bk := .cap, off := 0x50, lo := 0, w := 3, acc := .ro, kind := .block, rst := 0, vmax := 7 }
def CAP_STAT_WRAPPED : FRow := { bk := .cap, off := 0x50, lo := 8, w := 1, acc := .ro, kind := .block, rst := 0, vmax := 1 }
def CAP_TRIG_POS_OFFSET : FRow := { bk := .cap, off := 0x54, lo := 0, w := 23, acc := .ro, kind := .block, rst := 0, vmax := 8388607 }
def CAP_OLDEST_OFFSET : FRow := { bk := .cap, off := 0x58, lo := 0, w := 23, acc := .ro, kind := .block, rst := 0, vmax := 8388607 }
def CAP_END_OFFSET : FRow := { bk := .cap, off := 0x5C, lo := 0, w := 23, acc := .ro, kind := .block, rst := 0, vmax := 8388607 }
def CAP_TRIG_TIME_TIME : FRow := { bk := .cap, off := 0x60, lo := 0, w := 96, acc := .ro, kind := .block, rst := 0, vmax := 79228162514264337593543950335 }
def CAP_SF_POS_POSITION : FRow := { bk := .cap, off := 0x70, lo := 0, w := 11, acc := .ro, kind := .block, rst := 0, n := 4, s := 4, vmax := 2047 }
def CAP_SF_POS_FRAME : FRow := { bk := .cap, off := 0x70, lo := 11, w := 8, acc := .ro, kind := .block, rst := 0, n := 4, s := 4, vmax := 255 }
def CAP_SF_POS_VALID : FRow := { bk := .cap, off := 0x70, lo := 19, w := 1, acc := .ro, kind := .block, rst := 0, n := 4, s := 4, vmax := 1 }
def CAP_SF_POS_SFC : FRow := { bk := .cap, off := 0x70, lo := 24, w := 8, acc := .ro, kind := .block, rst := 0, n := 4, s := 4, vmax := 255 }
def IDEC_CFG_P2_POLICY : FRow := { bk := .idec, off := 0x40, lo := 0, w := 1, acc := .rw, kind := .block, rst := 0, vmax := 1 }
def IDEC_STAT_PASS : FRow := { bk := .idec, off := 0x44, lo := 0, w := 2, acc := .ro, kind := .block, rst := 0, vmax := 3 }
def IDEC_STAT_SD : FRow := { bk := .idec, off := 0x44, lo := 2, w := 1, acc := .ro, kind := .block, rst := 0, vmax := 1 }
def IDEC_STAT_SF : FRow := { bk := .idec, off := 0x44, lo := 3, w := 1, acc := .ro, kind := .block, rst := 0, vmax := 1 }
def IDEC_STAT_THROTTLED : FRow := { bk := .idec, off := 0x44, lo := 4, w := 1, acc := .ro, kind := .block, rst := 0, vmax := 1 }
def IDEC_STAT_STOPPED : FRow := { bk := .idec, off := 0x44, lo := 5, w := 1, acc := .ro, kind := .block, rst := 0, vmax := 1 }
def IDEC_SD_CFG_WIN : FRow := { bk := .idec, off := 0x48, lo := 0, w := 5, acc := .rw, kind := .block, rst := 0xE, vmin := 10, vmax := 20 }
def IDEC_SD_CFG_SET_M : FRow := { bk := .idec, off := 0x48, lo := 8, w := 4, acc := .rw, kind := .block, rst := 1, vmin := 1, vmax := 9 }
def IDEC_SD_CFG_SET_E : FRow := { bk := .idec, off := 0x48, lo := 12, w := 4, acc := .rw, kind := .block, rst := 3, vmin := 3, vmax := 12 }
def IDEC_SD_CFG_CLR_M : FRow := { bk := .idec, off := 0x48, lo := 16, w := 4, acc := .rw, kind := .block, rst := 5, vmin := 1, vmax := 9 }
def IDEC_SD_CFG_CLR_E : FRow := { bk := .idec, off := 0x48, lo := 20, w := 4, acc := .rw, kind := .block, rst := 4, vmin := 3, vmax := 12 }
def IDEC_SD_CFG_CLR_WINS : FRow := { bk := .idec, off := 0x48, lo := 24, w := 4, acc := .rw, kind := .block, rst := 3, vmin := 1, vmax := 15 }
def IDEC_SF_CFG_SET_M : FRow := { bk := .idec, off := 0x4C, lo := 0, w := 4, acc := .rw, kind := .block, rst := 4, vmin := 1, vmax := 9 }
def IDEC_SF_CFG_SET_E : FRow := { bk := .idec, off := 0x4C, lo := 4, w := 4, acc := .rw, kind := .block, rst := 3, vmin := 3, vmax := 12 }
def IDEC_SF_CFG_UNC : FRow := { bk := .idec, off := 0x4C, lo := 8, w := 16, acc := .rw, kind := .block, rst := 0x100, vmax := 65535 }
def IDEC_CW_COUNT : FRow := { bk := .idec, off := 0x60, lo := 0, w := 48, acc := .ro, kind := .block, rst := 0, vmax := 281474976710655 }
def IDEC_CORR_BITS_COUNT : FRow := { bk := .idec, off := 0x68, lo := 0, w := 48, acc := .ro, kind := .block, rst := 0, vmax := 281474976710655 }
def IDEC_UNCORR_COUNT : FRow := { bk := .idec, off := 0x70, lo := 0, w := 48, acc := .ro, kind := .block, rst := 0, vmax := 281474976710655 }
def IDEC_P2_RUN_COUNT : FRow := { bk := .idec, off := 0x78, lo := 0, w := 48, acc := .ro, kind := .block, rst := 0, vmax := 281474976710655 }
def IDEC_P2_SKIP_COUNT : FRow := { bk := .idec, off := 0x80, lo := 0, w := 48, acc := .ro, kind := .block, rst := 0, vmax := 281474976710655 }
def IDEC_P2_RESCUE_COUNT : FRow := { bk := .idec, off := 0x88, lo := 0, w := 48, acc := .ro, kind := .block, rst := 0, vmax := 281474976710655 }
def IDEC_WIN_CORR_COUNT : FRow := { bk := .idec, off := 0x90, lo := 0, w := 48, acc := .ro, kind := .block, rst := 0, vmax := 281474976710655 }
def IDEC_WIN_UNCORR_COUNT : FRow := { bk := .idec, off := 0x98, lo := 0, w := 32, acc := .ro, kind := .block, rst := 0, vmax := 4294967295 }
def IDEC_WIN_STAT_VALID : FRow := { bk := .idec, off := 0x9C, lo := 0, w := 1, acc := .ro, kind := .block, rst := 0, vmax := 1 }
def IDEC_WIN_STAT_THROTTLED : FRow := { bk := .idec, off := 0x9C, lo := 1, w := 1, acc := .ro, kind := .block, rst := 0, vmax := 1 }
def IDEC_WIN_STAT_W : FRow := { bk := .idec, off := 0x9C, lo := 8, w := 5, acc := .ro, kind := .block, rst := 0, vmax := 31 }
def IDEC_THROTTLE_PAUSE : FRow := { bk := .idec, off := 0xA0, lo := 0, w := 8, acc := .ro, kind := .block, rst := 0, vmax := 255 }
def IDEC_SOFT_P1_TP : FRow := { bk := .idec, off := 0x400, lo := 0, w := 4, acc := .rw, kind := .block, rst := 6, vmin := 4, vmax := 8 }
def IDEC_SOFT_P2_TP : FRow := { bk := .idec, off := 0x400, lo := 4, w := 4, acc := .rw, kind := .block, rst := 5, vmin := 4, vmax := 8 }
def IDEC_SOFT_ALPHA : FRow := { bk := .idec, off := 0x400, lo := 8, w := 5, acc := .rw, kind := .block, rst := 8, vmin := 1, vmax := 16 }
def IDEC_SOFT_BETA : FRow := { bk := .idec, off := 0x400, lo := 16, w := 6, acc := .rw, kind := .block, rst := 8, vmin := 0, vmax := 31 }
def IDEC_FORCE_P2_OFF : FRow := { bk := .idec, off := 0x404, lo := 0, w := 1, acc := .rw, kind := .block, rst := 0, vmax := 1 }
def IDEC_FORCE_HARD : FRow := { bk := .idec, off := 0x404, lo := 1, w := 1, acc := .rw, kind := .block, rst := 0, vmax := 1 }
def GBX_HOST_CFG_MUX : FRow := { bk := .gbx, off := 0x40, lo := 0, w := 1, acc := .rw, kind := .block, rst := 0, vmax := 1 }
def GBX_HOST_CFG_PORT_W : FRow := { bk := .gbx, off := 0x40, lo := 1, w := 3, acc := .rw, kind := .block, rst := 1, vmin := 0, vmax := 4 }
def GBX_HOST_CFG_TX_SWAP : FRow := { bk := .gbx, off := 0x40, lo := 4, w := 1, acc := .rw, kind := .block, rst := 0, vmax := 1 }
def GBX_HOST_CFG_RX_SWAP : FRow := { bk := .gbx, off := 0x40, lo := 5, w := 1, acc := .rw, kind := .block, rst := 0, vmax := 1 }
def GBX_HOST_CFG_IDLE : FRow := { bk := .gbx, off := 0x40, lo := 6, w := 1, acc := .rw, kind := .block, rst := 0, vmax := 1 }
def GBX_HOST_CFG_LPI : FRow := { bk := .gbx, off := 0x40, lo := 7, w := 1, acc := .rw, kind := .block, rst := 0, vmax := 1 }
def GBX_HOST_STAT_AM_LOCK : FRow := { bk := .gbx, off := 0x44, lo := 0, w := 1, acc := .ro, kind := .block, rst := 0, n2 := 2, b2 := 1, vmax := 1 }
def GBX_HOST_STAT_RX_AM_LOCK : FRow := { bk := .gbx, off := 0x44, lo := 2, w := 1, acc := .ro, kind := .block, rst := 0, n2 := 2, b2 := 1, vmax := 1 }
def GBX_HOST_STAT_TX_TRACK : FRow := { bk := .gbx, off := 0x44, lo := 4, w := 1, acc := .ro, kind := .block, rst := 0, vmax := 1 }
def GBX_HOST_STAT_SKEW_ERR : FRow := { bk := .gbx, off := 0x44, lo := 5, w := 1, acc := .ro, kind := .block, rst := 0, vmax := 1 }
def GBX_HOST_STAT_CFG_ERR : FRow := { bk := .gbx, off := 0x44, lo := 6, w := 1, acc := .ro, kind := .block, rst := 0, vmax := 1 }
def GBX_HOST_STAT_DESKEWED : FRow := { bk := .gbx, off := 0x44, lo := 7, w := 1, acc := .ro, kind := .block, rst := 0, vmax := 1 }
def GBX_HOST_STAT_TIMING_LANE : FRow := { bk := .gbx, off := 0x44, lo := 8, w := 2, acc := .ro, kind := .block, rst := 0, vmax := 3 }
def GBX_SKEW_HOLD : FRow := { bk := .gbx, off := 0x48, lo := 0, w := 12, acc := .ro, kind := .block, rst := 0, n2 := 2, b2 := 16, vmax := 4095 }
def GBX_SLIP_CNT_COUNT : FRow := { bk := .gbx, off := 0x4C, lo := 0, w := 32, acc := .rc, kind := .block, rst := 0, vmax := 4294967295 }
def GBX_AM_CFG_LOCK_N : FRow := { bk := .gbx, off := 0x400, lo := 0, w := 3, acc := .rw, kind := .block, rst := 2, vmin := 1, vmax := 7 }
def GBX_AM_CFG_LOSS_N : FRow := { bk := .gbx, off := 0x400, lo := 4, w := 3, acc := .rw, kind := .block, rst := 4, vmin := 1, vmax := 7 }
def GBX_AM_CFG_MAX_ERR : FRow := { bk := .gbx, off := 0x400, lo := 8, w := 3, acc := .rw, kind := .block, rst := 3, vmax := 7 }
def GBX_OC_CFG_OBSERVE : FRow := { bk := .gbx, off := 0x100, lo := 0, w := 1, acc := .rw, kind := .block, rst := 1, vmax := 1 }
def GBX_OC_CFG_MARK : FRow := { bk := .gbx, off := 0x100, lo := 1, w := 1, acc := .rw, kind := .block, rst := 0, vmax := 1 }
def GBX_OC_STAT_CW_LOCK : FRow := { bk := .gbx, off := 0x104, lo := 0, w := 1, acc := .ro, kind := .block, rst := 0, vmax := 1 }
def GBX_OC_STAT_LEAD : FRow := { bk := .gbx, off := 0x104, lo := 1, w := 1, acc := .ro, kind := .block, rst := 0, vmax := 1 }
def GBX_OC_STAT_TWO_PORTS : FRow := { bk := .gbx, off := 0x104, lo := 2, w := 1, acc := .ro, kind := .block, rst := 0, vmax := 1 }
def GBX_OC_STAT_CORRECTING : FRow := { bk := .gbx, off := 0x104, lo := 3, w := 1, acc := .ro, kind := .block, rst := 0, vmax := 1 }
def GBX_OC_CW_COUNT : FRow := { bk := .gbx, off := 0x110, lo := 0, w := 48, acc := .ro, kind := .block, rst := 0, n := 2, s := 0x80, vmax := 281474976710655 }
def GBX_OC_CORR_CW_COUNT : FRow := { bk := .gbx, off := 0x118, lo := 0, w := 48, acc := .ro, kind := .block, rst := 0, n := 2, s := 0x80, vmax := 281474976710655 }
def GBX_OC_UNCORR_CW_COUNT : FRow := { bk := .gbx, off := 0x120, lo := 0, w := 48, acc := .ro, kind := .block, rst := 0, n := 2, s := 0x80, vmax := 281474976710655 }
def GBX_OC_SYM_COUNT : FRow := { bk := .gbx, off := 0x128, lo := 0, w := 48, acc := .ro, kind := .block, rst := 0, n := 2, s := 0x80, vmax := 281474976710655 }
def GBX_OC_LANE_SYM_COUNT : FRow := { bk := .gbx, off := 0x130, lo := 0, w := 48, acc := .ro, kind := .block, rst := 0, n := 2, s := 0x80, vmax := 281474976710655 }
def GBX_OC_HIST_COUNT : FRow := { bk := .gbx, off := 0x140, lo := 0, w := 32, acc := .ro, kind := .block, rst := 0, n := 2, s := 0x80, n2 := 16, s2 := 4, vmax := 4294967295 }
def TXP_CFG_FIR_AUTO : FRow := { bk := .txp, off := 0x40, lo := 0, w := 1, acc := .rw, kind := .block, rst := 1, vmax := 1 }
def TXP_CFG_PD_AUTO : FRow := { bk := .txp, off := 0x40, lo := 1, w := 1, acc := .rw, kind := .block, rst := 1, vmax := 1 }
def TXP_PAT_SEL : FRow := { bk := .txp, off := 0x44, lo := 0, w := 3, acc := .rw, kind := .block, rst := 0, vmax := 7 }
def TXP_PAT_HALF : FRow := { bk := .txp, off := 0x44, lo := 4, w := 6, acc := .rw, kind := .block, rst := 8, vmax := 63 }
def TXP_PAT_LEVEL : FRow := { bk := .txp, off := 0x44, lo := 12, w := 2, acc := .rw, kind := .block, rst := 0, vmax := 3 }
def TXP_STAT_PATTERN : FRow := { bk := .txp, off := 0x48, lo := 0, w := 1, acc := .ro, kind := .block, rst := 0, vmax := 1 }
def TXP_STAT_FILL : FRow := { bk := .txp, off := 0x48, lo := 1, w := 1, acc := .ro, kind := .block, rst := 0, n2 := 2, b2 := 1, vmax := 1 }
def TXP_STAT_AUTO_RUN : FRow := { bk := .txp, off := 0x48, lo := 3, w := 1, acc := .ro, kind := .block, rst := 0, vmax := 1 }
def TXP_SAT_CNT_COUNT : FRow := { bk := .txp, off := 0x4C, lo := 0, w := 32, acc := .rc, kind := .block, rst := 0, vmax := 4294967295 }
def LTX_CFG_FS : FRow := { bk := .ltx, off := 0x40, lo := 0, w := 5, acc := .rw, kind := .block, rst := 0x10, vmax := 31 }
def LTX_CFG_SQUELCH : FRow := { bk := .ltx, off := 0x40, lo := 8, w := 1, acc := .rw, kind := .block, rst := 0, vmax := 1 }
def LTX_CFG_POL_INV : FRow := { bk := .ltx, off := 0x40, lo := 9, w := 1, acc := .rw, kind := .block, rst := 0, vmax := 1 }
def LTX_STAT_READY : FRow := { bk := .ltx, off := 0x44, lo := 0, w := 1, acc := .ro, kind := .block, rst := 0, vmax := 1 }
def LTX_STAT_SWING : FRow := { bk := .ltx, off := 0x44, lo := 1, w := 1, acc := .ro, kind := .block, rst := 0, vmax := 1 }
def LTX_STAT_FS_RAMP : FRow := { bk := .ltx, off := 0x44, lo := 2, w := 1, acc := .ro, kind := .block, rst := 0, vmax := 1 }
def LTX_LDIS_DIS : FRow := { bk := .ltx, off := 0x48, lo := 0, w := 1, acc := .rw, kind := .cold, rst := 1, vmax := 1 }
def LTX_LDIS_AUTO : FRow := { bk := .ltx, off := 0x48, lo := 1, w := 1, acc := .rw, kind := .cold, rst := 1, vmax := 1 }
def LTX_LDIS_TRIP : FRow := { bk := .ltx, off := 0x48, lo := 8, w := 1, acc := .w1c, kind := .cold, rst := 0, vmax := 1 }
def LTX_LDIS_TRIP_ACTIVE : FRow := { bk := .ltx, off := 0x48, lo := 9, w := 1, acc := .ro, kind := .cold, rst := 0, vmax := 1 }
def LTX_LDIS_HOLD : FRow := { bk := .ltx, off := 0x48, lo := 10, w := 1, acc := .ro, kind := .por, rst := 0, vmax := 1 }
def LTX_LDIS_PIN : FRow := { bk := .ltx, off := 0x48, lo := 11, w := 1, acc := .ro, kind := .cold, rst := 1, vmax := 1 }
def HSD_CFG_EN : FRow := { bk := .hsd, off := 0x40, lo := 0, w := 1, acc := .rw, kind := .block, rst := 1, vmax := 1 }
def HSD_CFG_SQUELCH : FRow := { bk := .hsd, off := 0x40, lo := 1, w := 1, acc := .rw, kind := .block, rst := 0, vmax := 1 }
def HSD_CFG_RX_INV : FRow := { bk := .hsd, off := 0x40, lo := 2, w := 1, acc := .rw, kind := .block, rst := 0, vmax := 1 }
def HSD_CFG_TX_INV : FRow := { bk := .hsd, off := 0x40, lo := 3, w := 1, acc := .rw, kind := .block, rst := 0, vmax := 1 }
def HSD_STAT_LOS : FRow := { bk := .hsd, off := 0x44, lo := 0, w := 1, acc := .ro, kind := .block, rst := 1, vmax := 1 }
def HSD_STAT_CDR_LOCK : FRow := { bk := .hsd, off := 0x44, lo := 1, w := 1, acc := .ro, kind := .block, rst := 0, vmax := 1 }
def HSD_STAT_ACTIVE : FRow := { bk := .hsd, off := 0x44, lo := 2, w := 1, acc := .ro, kind := .block, rst := 0, vmax := 1 }
def HSD_STAT_RX_EQ_DONE : FRow := { bk := .hsd, off := 0x44, lo := 3, w := 1, acc := .ro, kind := .block, rst := 0, vmax := 1 }
def HSD_STAT_TXCLK_REC : FRow := { bk := .hsd, off := 0x44, lo := 4, w := 1, acc := .ro, kind := .block, rst := 0, vmax := 1 }
def HSD_STAT_FREQ : FRow := { bk := .hsd, off := 0x44, lo := 16, w := 16, acc := .ro, kind := .block, rst := 0, vmax := 65535 }
def HSD_TX_EQ_PRE2 : FRow := { bk := .hsd, off := 0x48, lo := 0, w := 6, acc := .rw, kind := .block, rst := 0, vmax := 63 }
def HSD_TX_EQ_PRE1 : FRow := { bk := .hsd, off := 0x48, lo := 8, w := 6, acc := .rw, kind := .block, rst := 0x3C, vmax := 63 }
def HSD_TX_EQ_POST1 : FRow := { bk := .hsd, off := 0x48, lo := 16, w := 6, acc := .rw, kind := .block, rst := 0, vmax := 63 }
def HSD_TX_EQ_SWING : FRow := { bk := .hsd, off := 0x48, lo := 24, w := 4, acc := .rw, kind := .block, rst := 8, vmax := 15 }
def HSD_TRAIN_EN : FRow := { bk := .hsd, off := 0x4C, lo := 0, w := 1, acc := .rw, kind := .block, rst := 1, vmax := 1 }
def HSD_TRAIN_TIMEOUT : FRow := { bk := .hsd, off := 0x4C, lo := 2, w := 2, acc := .rw, kind := .block, rst := 1, vmax := 3 }
def HSD_TRAIN_STATE : FRow := { bk := .hsd, off := 0x4C, lo := 4, w := 3, acc := .ro, kind := .block, rst := 0, vmax := 7 }
def HSD_PRBS_CFG_CHK : FRow := { bk := .hsd, off := 0x50, lo := 0, w := 2, acc := .rw, kind := .block, rst := 0, vmin := 0, vmax := 2 }
def HSD_PRBS_CFG_GEN : FRow := { bk := .hsd, off := 0x50, lo := 4, w := 2, acc := .rw, kind := .block, rst := 0, vmax := 3 }
def HSD_PRBS_STAT_LOCK : FRow := { bk := .hsd, off := 0x54, lo := 0, w := 1, acc := .ro, kind := .block, rst := 0, vmax := 1 }
def HSD_PRBS_STAT_LOST : FRow := { bk := .hsd, off := 0x54, lo := 1, w := 1, acc := .w1c, kind := .block, rst := 0, vmax := 1 }
def HSD_PRBS_ERR_COUNT : FRow := { bk := .hsd, off := 0x58, lo := 0, w := 48, acc := .ro, kind := .block, rst := 0, vmax := 281474976710655 }
def HSD_PRBS_BITS_COUNT : FRow := { bk := .hsd, off := 0x60, lo := 0, w := 48, acc := .ro, kind := .block, rst := 0, vmax := 281474976710655 }
def HSD_RX_EQ_FREEZE : FRow := { bk := .hsd, off := 0x400, lo := 0, w := 1, acc := .rw, kind := .block, rst := 0, vmax := 1 }
def HSD_RX_EQ_CTLE : FRow := { bk := .hsd, off := 0x400, lo := 8, w := 5, acc := .rw, kind := .block, rst := 0xC, vmin := 0, vmax := 24 }
def HSD_RX_EQ_DFE1 : FRow := { bk := .hsd, off := 0x400, lo := 16, w := 10, acc := .rw, kind := .block, rst := 0, vmax := 1023 }
def HSD_RX_FFE_COEF : FRow := { bk := .hsd, off := 0x410, lo := 0, w := 10, acc := .rw, kind := .block, rst := 0, n := 12, s := 4, xs := [(3, 0x100)], vmax := 1023 }
def CAL_CFG_WIN_LOG2 : FRow := { bk := .cal, off := 0x40, lo := 0, w := 4, acc := .rw, kind := .block, rst := 6, vmin := 4, vmax := 10 }
def CAL_CFG_AGREE : FRow := { bk := .cal, off := 0x40, lo := 4, w := 4, acc := .rw, kind := .block, rst := 2, vmin := 1, vmax := 15 }
def CAL_CFG_CONV : FRow := { bk := .cal, off := 0x40, lo := 8, w := 4, acc := .rw, kind := .block, rst := 2, vmax := 15 }
def CAL_CFG_MAX_STEP : FRow := { bk := .cal, off := 0x40, lo := 12, w := 5, acc := .rw, kind := .block, rst := 0x10, vmin := 1, vmax := 31 }
def CAL_CFG_ANCHOR_EN : FRow := { bk := .cal, off := 0x40, lo := 20, w := 1, acc := .rw, kind := .block, rst := 1, vmax := 1 }
def CAL_CFG_TEMP_TRIG : FRow := { bk := .cal, off := 0x40, lo := 24, w := 4, acc := .rw, kind := .block, rst := 4, vmax := 15 }
def CAL_SCHED_MODE : FRow := { bk := .cal, off := 0x44, lo := 0, w := 1, acc := .rw, kind := .block, rst := 0, vmax := 1 }
def CAL_SCHED_ALARM : FRow := { bk := .cal, off := 0x44, lo := 8, w := 5, acc := .rw, kind := .block, rst := 0, vmax := 31 }
def CAL_SCHED_INTERVAL : FRow := { bk := .cal, off := 0x44, lo := 16, w := 16, acc := .rw, kind := .block, rst := 0x3E8, vmin := 1, vmax := 65535 }
def CAL_STAT_STARTUP_DONE : FRow := { bk := .cal, off := 0x4C, lo := 0, w := 1, acc := .ro, kind := .cold, rst := 0, vmax := 1 }
def CAL_STAT_STARTUP_PARTIAL : FRow := { bk := .cal, off := 0x4C, lo := 1, w := 1, acc := .ro, kind := .cold, rst := 0, vmax := 1 }
def CAL_STAT_THROTTLED : FRow := { bk := .cal, off := 0x4C, lo := 2, w := 1, acc := .ro, kind := .block, rst := 0, vmax := 1 }
def CAL_STAT_ANCHOR_BUSY : FRow := { bk := .cal, off := 0x4C, lo := 3, w := 1, acc := .ro, kind := .block, rst := 0, vmax := 1 }
def CAL_STAT_VREF_BAD : FRow := { bk := .cal, off := 0x4C, lo := 4, w := 1, acc := .ro, kind := .block, rst := 0, vmax := 1 }
def CAL_STAT_SAVE_BUSY : FRow := { bk := .cal, off := 0x4C, lo := 5, w := 1, acc := .ro, kind := .block, rst := 0, vmax := 1 }
def CAL_STAT_ANCHOR_UNSTABLE : FRow := { bk := .cal, off := 0x4C, lo := 8, w := 1, acc := .w1c, kind := .block, rst := 0, vmax := 1 }
def CAL_STAT_ANCHOR_LIMIT : FRow := { bk := .cal, off := 0x4C, lo := 9, w := 1, acc := .w1c, kind := .block, rst := 0, vmax := 1 }
def CAL_ROUND_OVERLAP_COUNT : FRow := { bk := .cal, off := 0x50, lo := 0, w := 32, acc := .rc, kind := .block, rst := 0, vmax := 4294967295 }
def CAL_LANE_CFG_FG_REQ : FRow := { bk := .cal, off := 0x60, lo := 0, w := 1, acc := .rw, kind := .block, rst := 1, n := 8, s := 4, vmax := 1 }
def CAL_LANE_CFG_ADC_EN : FRow := { bk := .cal, off := 0x60, lo := 1, w := 1, acc := .rw, kind := .block, rst := 1, n := 8, s := 4, vmax := 1 }
def CAL_LANE_CFG_DAC_EN : FRow := { bk := .cal, off := 0x60, lo := 2, w := 1, acc := .rw, kind := .block, rst := 1, n := 8, s := 4, vmax := 1 }
def CAL_LANE_STAT_FG_DONE : FRow := { bk := .cal, off := 0x80, lo := 0, w := 1, acc := .ro, kind := .block, rst := 0, n := 8, s := 4, vmax := 1 }
def CAL_LANE_STAT_MEASURING : FRow := { bk := .cal, off := 0x80, lo := 1, w := 1, acc := .ro, kind := .block, rst := 0, n := 8, s := 4, vmax := 1 }
def CAL_LANE_STAT_APPLYING : FRow := { bk := .cal, off := 0x80, lo := 2, w := 1, acc := .ro, kind := .block, rst := 0, n := 8, s := 4, vmax := 1 }
def CAL_LANE_STAT_HELD : FRow := { bk := .cal, off := 0x80, lo := 3, w := 1, acc := .ro, kind := .block, rst := 0, n := 8, s := 4, vmax := 1 }
def CAL_LANE_STAT_FG_CONV : FRow := { bk := .cal, off := 0x80, lo := 4, w := 1, acc := .ro, kind := .block, rst := 0, n := 8, s := 4, n2 := 5, b2 := 1, vmax := 1 }
def CAL_LANE_STAT_UNSTABLE : FRow := { bk := .cal, off := 0x80, lo := 16, w := 1, acc := .w1c, kind := .block, rst := 0, n := 8, s := 4, n2 := 6, b2 := 1, vmax := 1 }
def CAL_LANE_STAT_LIMIT : FRow := { bk := .cal, off := 0x80, lo := 24, w := 1, acc := .w1c, kind := .block, rst := 0, n := 8, s := 4, n2 := 6, b2 := 1, vmax := 1 }
def CAL_REC_SEL_LANE : FRow := { bk := .cal, off := 0xA0, lo := 0, w := 4, acc := .rw, kind := .block, rst := 0, vmax := 15 }
def CAL_REC_SEL_ITEM : FRow := { bk := .cal, off := 0xA0, lo := 4, w := 3, acc := .rw, kind := .block, rst := 0, vmax := 7 }
def CAL_REC_RUNS_COUNT : FRow := { bk := .cal, off := 0xA4, lo := 0, w := 32, acc := .ro, kind := .block, rst := 0, vmax := 4294967295 }
def CAL_REC_APPLIED_COUNT : FRow := { bk := .cal, off := 0xA8, lo := 0, w := 32, acc := .ro, kind := .block, rst := 0, vmax := 4294967295 }
def CAL_REC_DISAGREE_COUNT : FRow := { bk := .cal, off := 0xAC, lo := 0, w := 32, acc := .ro, kind := .block, rst := 0, vmax := 4294967295 }
def CAL_REC_DISCARD_COUNT : FRow := { bk := .cal, off := 0xB0, lo := 0, w := 32, acc := .ro, kind := .block, rst := 0, vmax := 4294967295 }
def CAL_REC_LAST_STEP : FRow := { bk := .cal, off := 0xB4, lo := 0, w := 16, acc := .ro, kind := .block, rst := 0, vmax := 65535 }
def CAL_REC_LAST_VALID : FRow := { bk := .cal, off := 0xB4, lo := 16, w := 1, acc := .ro, kind := .block, rst := 0, vmax := 1 }
def CAL_REC_TIME_TIME : FRow := { bk := .cal, off := 0xB8, lo := 0, w := 96, acc := .ro, kind := .block, rst := 0, vmax := 79228162514264337593543950335 }
def CAL_DAC_SEL_LANE : FRow := { bk := .cal, off := 0x400, lo := 0, w := 3, acc := .rw, kind := .block, rst := 0, vmax := 7 }
def CAL_DAC_SEL_CELL : FRow := { bk := .cal, off := 0x400, lo := 8, w := 4, acc := .rw, kind := .block, rst := 0, vmax := 15 }
def CAL_REF_TRIM_ADC_REF : FRow := { bk := .cal, off := 0x408, lo := 0, w := 10, acc := .rw, kind := .cold, rst := 0, vmax := 1023 }
def CAL_REF_TRIM_DAC_REF : FRow := { bk := .cal, off := 0x408, lo := 16, w := 10, acc := .rw, kind := .cold, rst := 0, vmax := 1023 }
def TIM_CFG_TREF_FREQ : FRow := { bk := .tim, off := 0x40, lo := 0, w := 2, acc := .rw, kind := .cold, rst := 0, vmax := 3 }
def TIM_CFG_SECURE_TIME : FRow := { bk := .tim, off := 0x40, lo := 4, w := 1, acc := .rw, kind := .cold, rst := 0, vmax := 1, own := true }
def TIM_STAT_QUAL : FRow := { bk := .tim, off := 0x44, lo := 0, w := 3, acc := .ro, kind := .block, rst := 0, vmax := 7 }
def TIM_STAT_SRC_ACTIVE : FRow := { bk := .tim, off := 0x44, lo := 4, w := 3, acc := .ro, kind := .block, rst := 0, vmax := 7 }
def TIM_STAT_FINE_READY : FRow := { bk := .tim, off := 0x44, lo := 8, w := 1, acc := .ro, kind := .block, rst := 0, vmax := 1 }
def TIM_STAT_TREF_OK : FRow := { bk := .tim, off := 0x44, lo := 9, w := 1, acc := .ro, kind := .por, rst := 0, vmax := 1 }
def TIM_STAT_KEPT : FRow := { bk := .tim, off := 0x44, lo := 10, w := 1, acc := .ro, kind := .por, rst := 0, vmax := 1 }
def TIM_STAT_CAL_OK : FRow := { bk := .tim, off := 0x44, lo := 11, w := 1, acc := .ro, kind := .cold, rst := 0, vmax := 1 }
def TIM_STAT_TEMP_VALID : FRow := { bk := .tim, off := 0x44, lo := 12, w := 1, acc := .ro, kind := .block, rst := 0, vmax := 1 }
def TIM_STAT_TABLE_MISS : FRow := { bk := .tim, off := 0x44, lo := 13, w := 1, acc := .w1c, kind := .block, rst := 0, vmax := 1 }
def TIM_STAT_TREF_LOS : FRow := { bk := .tim, off := 0x44, lo := 14, w := 1, acc := .w1c, kind := .por, rst := 0, vmax := 1 }
def TIM_STAT_RC_USED : FRow := { bk := .tim, off := 0x44, lo := 15, w := 1, acc := .w1c, kind := .por, rst := 0, vmax := 1 }
def TIM_TIME_TIME : FRow := { bk := .tim, off := 0x48, lo := 0, w := 96, acc := .ro, kind := .por, rst := 0, vmax := 79228162514264337593543950335 }
def TIM_SET_TIME : FRow := { bk := .tim, off := 0x54, lo := 0, w := 94, acc := .rw, kind := .block, rst := 0, vmax := 19807040628566084398385987583 }
def TIM_STEP_STEP : FRow := { bk := .tim, off := 0x64, lo := 0, w := 64, acc := .rw, kind := .block, rst := 0, vmax := 18446744073709551615 }
def TIM_SERVO_CFG_SRC : FRow := { bk := .tim, off := 0x70, lo := 0, w := 3, acc := .rw, kind := .block, rst := 0, vmax := 7 }
def TIM_SERVO_CFG_LANE : FRow := { bk := .tim, off := 0x70, lo := 4, w := 3, acc := .rw, kind := .block, rst := 0, vmax := 7 }
def TIM_SERVO_CFG_AUTO_HOLD : FRow := { bk := .tim, off := 0x70, lo := 8, w := 1, acc := .rw, kind := .block, rst := 1, vmax := 1 }
def TIM_SERVO_CFG_AUTO_REVERT : FRow := { bk := .tim, off := 0x70, lo := 9, w := 1, acc := .rw, kind := .block, rst := 1, vmax := 1 }
def TIM_SERVO_CFG_STEP_EN : FRow := { bk := .tim, off := 0x70, lo := 10, w := 1, acc := .rw, kind := .block, rst := 1, vmax := 1 }
def TIM_SERVO_CFG_TMO : FRow := { bk := .tim, off := 0x70, lo := 16, w := 8, acc := .rw, kind := .block, rst := 0x14, vmin := 1, vmax := 255 }
def TIM_SERVO_LIM_LOCK_THR : FRow := { bk := .tim, off := 0x74, lo := 0, w := 12, acc := .rw, kind := .block, rst := 0x64, vmax := 4095 }
def TIM_SERVO_LIM_DLY_TOL : FRow := { bk := .tim, off := 0x74, lo := 12, w := 12, acc := .rw, kind := .block, rst := 0x32, vmax := 4095 }
def TIM_SERVO_LIM_STEP_THR : FRow := { bk := .tim, off := 0x74, lo := 24, w := 8, acc := .rw, kind := .block, rst := 1, vmin := 1, vmax := 255 }
def TIM_OFS_LAST_THETA : FRow := { bk := .tim, off := 0x78, lo := 0, w := 32, acc := .ro, kind := .block, rst := 0, vmax := 4294967295 }
def TIM_DLY_LAST_DELAY : FRow := { bk := .tim, off := 0x7C, lo := 0, w := 32, acc := .ro, kind := .block, rst := 0, vmax := 4294967295 }
def TIM_ASYM_ASYM : FRow := { bk := .tim, off := 0x84, lo := 0, w := 32, acc := .rw, kind := .block, rst := 0, vmax := 4294967295 }
def TIM_FREQ_RATE : FRow := { bk := .tim, off := 0x88, lo := 0, w := 32, acc := .rw, kind := .por, rst := 0, vmax := 4294967295 }
def TIM_SRC_DISCARD_DELAY : FRow := { bk := .tim, off := 0x8C, lo := 0, w := 16, acc := .rc, kind := .block, rst := 0, vmax := 65535 }
def TIM_SRC_DISCARD_UNAUTH : FRow := { bk := .tim, off := 0x8C, lo := 16, w := 16, acc := .rc, kind := .block, rst := 0, vmax := 65535 }
def TIM_PPS_IN_EN : FRow := { bk := .tim, off := 0x90, lo := 0, w := 1, acc := .rw, kind := .block, rst := 0, vmax := 1 }
def TIM_PPS_IN_EDGE : FRow := { bk := .tim, off := 0x90, lo := 1, w := 1, acc := .rw, kind := .block, rst := 0, vmax := 1 }
def TIM_PPS_IN_DLY : FRow := { bk := .tim, off := 0x90, lo := 16, w := 16, acc := .rw, kind := .block, rst := 0, vmax := 65535 }
def TIM_PPS_OUT_EN : FRow := { bk := .tim, off := 0x94, lo := 0, w := 1, acc := .rw, kind := .block, rst := 0, vmax := 1 }
def TIM_PPS_OUT_POL : FRow := { bk := .tim, off := 0x94, lo := 1, w := 1, acc := .rw, kind := .block, rst := 0, vmax := 1 }
def TIM_PPS_OUT_GATE : FRow := { bk := .tim, off := 0x94, lo := 2, w := 1, acc := .rw, kind := .block, rst := 1, vmax := 1 }
def TIM_PPS_OUT_ALARM : FRow := { bk := .tim, off := 0x94, lo := 3, w := 5, acc := .rw, kind := .block, rst := 0x1F, vmax := 31 }
def TIM_PPS_OUT_WIDTH : FRow := { bk := .tim, off := 0x94, lo := 12, w := 20, acc := .rw, kind := .block, rst := 0x186A0, vmin := 1, vmax := 999999 }
def TIM_PPS_OUT_OFS_OFS : FRow := { bk := .tim, off := 0x98, lo := 0, w := 30, acc := .rw, kind := .block, rst := 0, vmin := 0, vmax := 999999999 }
def TIM_HOLD_SECONDS : FRow := { bk := .tim, off := 0x9C, lo := 0, w := 32, acc := .ro, kind := .block, rst := 0, vmax := 4294967295 }
def TIM_HOLD_EST_NS : FRow := { bk := .tim, off := 0xA0, lo := 0, w := 32, acc := .ro, kind := .block, rst := 0, vmax := 4294967295 }
def TIM_HOLD_LIM_NS : FRow := { bk := .tim, off := 0xA4, lo := 0, w := 32, acc := .rw, kind := .block, rst := 0x3E8, vmax := 4294967295 }
def TIM_PPS_IN_TS_TIME : FRow := { bk := .tim, off := 0xA8, lo := 0, w := 96, acc := .ro, kind := .block, rst := 0, vmax := 79228162514264337593543950335 }
def TIM_ALM_FIRED_FIRED : FRow := { bk := .tim, off := 0xB4, lo := 0, w := 1, acc := .w1c, kind := .block, rst := 0, n2 := 32, b2 := 1, vmax := 1 }
def TIM_ALM_IRQ_EN_EN : FRow := { bk := .tim, off := 0xB8, lo := 0, w := 1, acc := .rw, kind := .block, rst := 0, n2 := 32, b2 := 1, vmax := 1 }
def TIM_SFTS_SEL_LANE : FRow := { bk := .tim, off := 0xC0, lo := 0, w := 3, acc := .rw, kind := .block, rst := 0, vmax := 7 }
def TIM_SFTS_SEL_DIR : FRow := { bk := .tim, off := 0xC0, lo := 4, w := 1, acc := .rw, kind := .block, rst := 0, vmax := 1 }
def TIM_SFTS_SFC_SFC : FRow := { bk := .tim, off := 0xC4, lo := 0, w := 32, acc := .ro, kind := .block, rst := 0, vmax := 4294967295 }
def TIM_SFTS_TIME_TIME : FRow := { bk := .tim, off := 0xC8, lo := 0, w := 96, acc := .ro, kind := .block, rst := 0, vmax := 79228162514264337593543950335 }
def TIM_LAT_TX_PS : FRow := { bk := .tim, off := 0x100, lo := 0, w := 20, acc := .ro, kind := .block, rst := 0, n := 8, s := 8, vmax := 1048575 }
def TIM_LAT_TX_VALID : FRow := { bk := .tim, off := 0x100, lo := 31, w := 1, acc := .ro, kind := .block, rst := 0, n := 8, s := 8, vmax := 1 }
def TIM_LAT_RX_PS : FRow := { bk := .tim, off := 0x104, lo := 0, w := 20, acc := .ro, kind := .block, rst := 0, n := 8, s := 8, vmax := 1048575 }
def TIM_LAT_RX_VALID : FRow := { bk := .tim, off := 0x104, lo := 31, w := 1, acc := .ro, kind := .block, rst := 0, n := 8, s := 8, vmax := 1 }
def TIM_PLANE_TX_OFS : FRow := { bk := .tim, off := 0x140, lo := 0, w := 16, acc := .rw, kind := .cold, rst := 0, n := 8, s := 4, vmax := 65535 }
def TIM_PLANE_RX_OFS : FRow := { bk := .tim, off := 0x140, lo := 16, w := 16, acc := .rw, kind := .cold, rst := 0, n := 8, s := 4, vmax := 65535 }
def TIM_OSC_CFG_LEARN_EN : FRow := { bk := .tim, off := 0x180, lo := 0, w := 1, acc := .rw, kind := .block, rst := 1, vmax := 1 }
def TIM_OSC_CFG_PRED_EN : FRow := { bk := .tim, off := 0x180, lo := 1, w := 1, acc := .rw, kind := .block, rst := 1, vmax := 1 }
def TIM_OSC_CFG_UPD : FRow := { bk := .tim, off := 0x180, lo := 8, w := 8, acc := .rw, kind := .block, rst := 0xA, vmin := 10, vmax := 255 }
def TIM_OSC_CFG_K : FRow := { bk := .tim, off := 0x180, lo := 16, w := 4, acc := .rw, kind := .block, rst := 6, vmax := 15 }
def TIM_OSC_CFG_EPOCH_DAYS : FRow := { bk := .tim, off := 0x180, lo := 24, w := 8, acc := .rw, kind := .block, rst := 0x20, vmin := 1, vmax := 255 }
def TIM_OSC_STAT_EPOCH : FRow := { bk := .tim, off := 0x184, lo := 0, w := 4, acc := .ro, kind := .block, rst := 0, vmax := 15 }
def TIM_OSC_STAT_BIN : FRow := { bk := .tim, off := 0x184, lo := 16, w := 12, acc := .ro, kind := .block, rst := 0, vmax := 4095 }
def TIM_OSC_STAT_IN_RANGE : FRow := { bk := .tim, off := 0x184, lo := 28, w := 1, acc := .ro, kind := .block, rst := 0, vmax := 1 }
def TIM_OSC_STAT_LEARNING : FRow := { bk := .tim, off := 0x184, lo := 29, w := 1, acc := .ro, kind := .block, rst := 0, vmax := 1 }
def TIM_OSC_AGING_A : FRow := { bk := .tim, off := 0x188, lo := 0, w := 32, acc := .ro, kind := .block, rst := 0, vmax := 4294967295 }
def TIM_TEMP_CFG_SRC : FRow := { bk := .tim, off := 0x18C, lo := 0, w := 1, acc := .rw, kind := .block, rst := 0, vmax := 1 }
def TIM_TEMP_CFG_CHAIN : FRow := { bk := .tim, off := 0x18C, lo := 4, w := 3, acc := .rw, kind := .block, rst := 0, vmax := 7 }
def TIM_TEMP_CFG_OFS : FRow := { bk := .tim, off := 0x18C, lo := 16, w := 16, acc := .rw, kind := .block, rst := 0, vmax := 65535 }
def TIM_TEMP_GAIN_GAIN : FRow := { bk := .tim, off := 0x190, lo := 0, w := 32, acc := .rw, kind := .block, rst := 0, vmax := 4294967295 }
def TIM_TEMP_HOST_T : FRow := { bk := .tim, off := 0x194, lo := 0, w := 16, acc := .rw, kind := .block, rst := 0, vmax := 65535 }
def TIM_TEMP_T : FRow := { bk := .tim, off := 0x198, lo := 0, w := 16, acc := .ro, kind := .block, rst := 0, vmax := 65535 }
def TIM_TEMP_VALID : FRow := { bk := .tim, off := 0x198, lo := 16, w := 1, acc := .ro, kind := .block, rst := 0, vmax := 1 }
def TIM_ALM_NSEC_NSEC : FRow := { bk := .tim, off := 0x200, lo := 0, w := 30, acc := .rw, kind := .block, rst := 0, n := 32, s := 0x10, vmin := 0, vmax := 999999999 }
def TIM_ALM_SEC_SEC_LO : FRow := { bk := .tim, off := 0x204, lo := 0, w := 32, acc := .rw, kind := .block, rst := 0, n := 32, s := 0x10, vmax := 4294967295 }
def TIM_ALM_CTRL_SEC_HI : FRow := { bk := .tim, off := 0x208, lo := 0, w := 16, acc := .rw, kind := .block, rst := 0, n := 32, s := 0x10, vmax := 65535 }
def TIM_ALM_CTRL_EN : FRow := { bk := .tim, off := 0x208, lo := 16, w := 1, acc := .rw, kind := .block, rst := 0, n := 32, s := 0x10, vmax := 1 }
def TIM_ALM_CTRL_OWNER : FRow := { bk := .tim, off := 0x208, lo := 18, w := 3, acc := .ro, kind := .block, rst := 0, n := 32, s := 0x10, vmax := 7 }
def TIM_ALM_CTRL_LATE : FRow := { bk := .tim, off := 0x208, lo := 21, w := 1, acc := .w1c, kind := .block, rst := 0, n := 32, s := 0x10, vmax := 1 }
def TIM_ALM_CTRL_STEPPED : FRow := { bk := .tim, off := 0x208, lo := 22, w := 1, acc := .w1c, kind := .block, rst := 0, n := 32, s := 0x10, vmax := 1 }
def TIM_ALM_CTRL_MISSED : FRow := { bk := .tim, off := 0x208, lo := 24, w := 8, acc := .rc, kind := .block, rst := 0, n := 32, s := 0x10, vmax := 255 }
def TIM_ALM_PERIOD_PERIOD : FRow := { bk := .tim, off := 0x20C, lo := 0, w := 32, acc := .rw, kind := .block, rst := 0, n := 32, s := 0x10, vmax := 4294967295 }
def TIM_SERVO_GAIN_KP : FRow := { bk := .tim, off := 0x400, lo := 0, w := 4, acc := .rw, kind := .block, rst := 2, vmax := 15 }
def TIM_SERVO_GAIN_KI : FRow := { bk := .tim, off := 0x400, lo := 8, w := 4, acc := .rw, kind := .block, rst := 6, vmax := 15 }
def TIM_SERVO_GAIN_SLEW : FRow := { bk := .tim, off := 0x400, lo := 16, w := 8, acc := .rw, kind := .block, rst := 0x64, vmin := 1, vmax := 255 }
def MSG_LANE_CFG_EN : FRow := { bk := .msg, off := 0x40, lo := 0, w := 1, acc := .rw, kind := .block, rst := 0, n := 8, s := 4, vmax := 1 }
def MSG_LANE_CFG_ROLE : FRow := { bk := .msg, off := 0x40, lo := 1, w := 1, acc := .rw, kind := .block, rst := 0, n := 8, s := 4, vmax := 1 }
def MSG_LANE_CFG_BOND : FRow := { bk := .msg, off := 0x40, lo := 2, w := 2, acc := .rw, kind := .block, rst := 0, n := 8, s := 4, vmax := 3 }
def MSG_LANE_STAT_LINK_UP : FRow := { bk := .msg, off := 0x60, lo := 0, w := 1, acc := .ro, kind := .block, rst := 0, n := 8, s := 4, vmax := 1 }
def MSG_LANE_STAT_PEER_ROLE : FRow := { bk := .msg, off := 0x60, lo := 1, w := 1, acc := .ro, kind := .block, rst := 0, n := 8, s := 4, vmax := 1 }
def MSG_LANE_STAT_ROLE_CONFLICT : FRow := { bk := .msg, off := 0x60, lo := 2, w := 1, acc := .ro, kind := .block, rst := 0, n := 8, s := 4, vmax := 1 }
def MSG_LANE_STAT_BOND_ERR : FRow := { bk := .msg, off := 0x60, lo := 3, w := 1, acc := .ro, kind := .block, rst := 0, n := 8, s := 4, vmax := 1 }
def MSG_LANE_STAT_SESSION : FRow := { bk := .msg, off := 0x60, lo := 4, w := 2, acc := .ro, kind := .block, rst := 0, n := 8, s := 4, vmax := 3 }
def MSG_LANE_STAT_PEER_RX_STATE : FRow := { bk := .msg, off := 0x60, lo := 8, w := 4, acc := .ro, kind := .block, rst := 0, n := 8, s := 4, vmax := 15 }
def MSG_LANE_STAT_PEER_TX_PRECODE : FRow := { bk := .msg, off := 0x60, lo := 12, w := 1, acc := .ro, kind := .block, rst := 0, n := 8, s := 4, vmax := 1 }
def MSG_LANE_STAT_PEER_RX_PRECODE : FRow := { bk := .msg, off := 0x60, lo := 13, w := 1, acc := .ro, kind := .block, rst := 0, n := 8, s := 4, vmax := 1 }
def MSG_LANE_STAT_PEER_FVER : FRow := { bk := .msg, off := 0x60, lo := 16, w := 4, acc := .ro, kind := .block, rst := 0, n := 8, s := 4, vmax := 15 }
def MSG_LANE_STAT_PEER_CAP : FRow := { bk := .msg, off := 0x60, lo := 20, w := 4, acc := .ro, kind := .block, rst := 0, n := 8, s := 4, vmax := 15 }
def MSG_LANE_STAT_PEER_HOPS : FRow := { bk := .msg, off := 0x60, lo := 24, w := 3, acc := .ro, kind := .block, rst := 0, n := 8, s := 4, vmax := 7 }
def MSG_LANE_STAT_PEER_QUAL : FRow := { bk := .msg, off := 0x60, lo := 27, w := 3, acc := .ro, kind := .block, rst := 0, n := 8, s := 4, vmax := 7 }
def MSG_TIME_CFG_EN : FRow := { bk := .msg, off := 0x80, lo := 0, w := 1, acc := .rw, kind := .block, rst := 1, vmax := 1 }
def MSG_TIME_CFG_PERIOD : FRow := { bk := .msg, off := 0x80, lo := 4, w := 4, acc := .rw, kind := .block, rst := 0xA, vmin := 4, vmax := 12 }
def MSG_TIME_CFG_ACCEPT : FRow := { bk := .msg, off := 0x80, lo := 8, w := 2, acc := .rw, kind := .block, rst := 0, vmin := 0, vmax := 2 }
def MSG_TIME_STAT_HOPS : FRow := { bk := .msg, off := 0x84, lo := 0, w := 3, acc := .ro, kind := .block, rst := 0, vmax := 7 }
def MSG_TIME_DISCARD_NOMATCH : FRow := { bk := .msg, off := 0x88, lo := 0, w := 8, acc := .rc, kind := .block, rst := 0, vmax := 255 }
def MSG_TIME_DISCARD_HOPS : FRow := { bk := .msg, off := 0x88, lo := 8, w := 8, acc := .rc, kind := .block, rst := 0, vmax := 255 }
def MSG_TIME_DISCARD_QUAL : FRow := { bk := .msg, off := 0x88, lo := 16, w := 8, acc := .rc, kind := .block, rst := 0, vmax := 255 }
def MSG_Q_CFG_EN : FRow := { bk := .msg, off := 0xA0, lo := 0, w := 1, acc := .rw, kind := .block, rst := 0, n := 8, s := 4, vmax := 1 }
def MSG_Q_CFG_LANE : FRow := { bk := .msg, off := 0xA0, lo := 1, w := 3, acc := .rw, kind := .block, rst := 0, n := 8, s := 4, vmax := 7 }
def MSG_Q_CFG_LATE_SEND : FRow := { bk := .msg, off := 0xA0, lo := 4, w := 1, acc := .rw, kind := .block, rst := 0, n := 8, s := 4, vmax := 1 }
def MSG_Q_CFG_GATE : FRow := { bk := .msg, off := 0xA0, lo := 5, w := 1, acc := .rw, kind := .block, rst := 0, n := 8, s := 4, vmax := 1 }
def MSG_Q_CFG_ALARM : FRow := { bk := .msg, off := 0xA0, lo := 8, w := 5, acc := .rw, kind := .block, rst := 0, n := 8, s := 4, vmax := 31 }
def MSG_Q_STAT_DEPTH : FRow := { bk := .msg, off := 0xC0, lo := 0, w := 5, acc := .ro, kind := .block, rst := 0, n := 8, s := 4, vmax := 31 }
def MSG_Q_STAT_HEAD_DUE : FRow := { bk := .msg, off := 0xC0, lo := 8, w := 1, acc := .ro, kind := .block, rst := 0, n := 8, s := 4, vmax := 1 }
def MSG_Q_STAT_LATE : FRow := { bk := .msg, off := 0xC0, lo := 16, w := 8, acc := .rc, kind := .block, rst := 0, n := 8, s := 4, vmax := 255 }
def MSG_TX_LAUNCH_TIME : FRow := { bk := .msg, off := 0xE0, lo := 0, w := 86, acc := .rw, kind := .block, rst := 0, vmax := 77371252455336267181195263 }
def MSG_TX_RESULT_CODE : FRow := { bk := .msg, off := 0xF0, lo := 0, w := 3, acc := .ro, kind := .block, rst := 0, vmax := 7 }
def MSG_TS_STAT_COUNT : FRow := { bk := .msg, off := 0x100, lo := 0, w := 5, acc := .ro, kind := .block, rst := 0, vmax := 31 }
def MSG_TS_STAT_OVF : FRow := { bk := .msg, off := 0x100, lo := 8, w := 1, acc := .w1c, kind := .block, rst := 0, vmax := 1 }
def MSG_TS_STAT_OVF_CNT : FRow := { bk := .msg, off := 0x100, lo := 16, w := 16, acc := .rc, kind := .block, rst := 0, vmax := 65535 }
def MSG_TS_ENTRY_ID : FRow := { bk := .msg, off := 0x104, lo := 0, w := 8, acc := .ro, kind := .block, rst := 0, vmax := 255 }
def MSG_TS_ENTRY_LANE : FRow := { bk := .msg, off := 0x104, lo := 8, w := 3, acc := .ro, kind := .block, rst := 0, vmax := 7 }
def MSG_TS_ENTRY_STATUS : FRow := { bk := .msg, off := 0x104, lo := 12, w := 3, acc := .ro, kind := .block, rst := 0, vmax := 7 }
def MSG_TS_ENTRY_VALID : FRow := { bk := .msg, off := 0x104, lo := 15, w := 1, acc := .ro, kind := .block, rst := 0, vmax := 1 }
def MSG_TS_ENTRY1_SFC : FRow := { bk := .msg, off := 0x108, lo := 0, w := 32, acc := .ro, kind := .block, rst := 0, vmax := 4294967295 }
def MSG_TS_ENTRY2_TIME : FRow := { bk := .msg, off := 0x10C, lo := 0, w := 96, acc := .ro, kind := .block, rst := 0, vmax := 79228162514264337593543950335 }
def MSG_RX_STAT_COUNT : FRow := { bk := .msg, off := 0x120, lo := 0, w := 6, acc := .ro, kind := .block, rst := 0, vmax := 63 }
def MSG_RX_STAT_OVF : FRow := { bk := .msg, off := 0x120, lo := 8, w := 1, acc := .w1c, kind := .block, rst := 0, vmax := 1 }
def MSG_RX_STAT_OVF_CNT : FRow := { bk := .msg, off := 0x120, lo := 16, w := 16, acc := .rc, kind := .block, rst := 0, vmax := 65535 }
def MSG_RX_HEAD_TYPE : FRow := { bk := .msg, off := 0x124, lo := 0, w := 8, acc := .ro, kind := .block, rst := 0, vmax := 255 }
def MSG_RX_HEAD_CELLS : FRow := { bk := .msg, off := 0x124, lo := 8, w := 4, acc := .ro, kind := .block, rst := 0, vmax := 15 }
def MSG_RX_HEAD_LANE : FRow := { bk := .msg, off := 0x124, lo := 12, w := 3, acc := .ro, kind := .block, rst := 0, vmax := 7 }
def MSG_RX_HEAD_AUTH : FRow := { bk := .msg, off := 0x124, lo := 15, w := 1, acc := .ro, kind := .block, rst := 0, vmax := 1 }
def MSG_RX_HEAD_LATE : FRow := { bk := .msg, off := 0x124, lo := 16, w := 1, acc := .ro, kind := .block, rst := 0, vmax := 1 }
def MSG_RX_HEAD_VALID : FRow := { bk := .msg, off := 0x124, lo := 31, w := 1, acc := .ro, kind := .block, rst := 0, vmax := 1 }
def MSG_RX_TIME_TIME : FRow := { bk := .msg, off := 0x128, lo := 0, w := 96, acc := .ro, kind := .block, rst := 0, vmax := 79228162514264337593543950335 }
def MSG_RX_SFC_SFC : FRow := { bk := .msg, off := 0x134, lo := 0, w := 32, acc := .ro, kind := .block, rst := 0, vmax := 4294967295 }
def MSG_ERR_CRC : FRow := { bk := .msg, off := 0x140, lo := 0, w := 16, acc := .rc, kind := .block, rst := 0, n := 8, s := 8, vmax := 65535 }
def MSG_ERR_DISCARD : FRow := { bk := .msg, off := 0x140, lo := 16, w := 16, acc := .rc, kind := .block, rst := 0, n := 8, s := 8, vmax := 65535 }
def MSG_ERR2_AUTH_FAIL : FRow := { bk := .msg, off := 0x144, lo := 0, w := 16, acc := .rc, kind := .block, rst := 0, n := 8, s := 8, vmax := 65535 }
def MSG_ERR2_UNKNOWN : FRow := { bk := .msg, off := 0x144, lo := 16, w := 16, acc := .rc, kind := .block, rst := 0, n := 8, s := 8, vmax := 65535 }
def MSG_REMOTE_POLICY_CLASSES : FRow := { bk := .msg, off := 0x180, lo := 0, w := 4, acc := .rw, kind := .cold, rst := 0, vmax := 15, own := true }
def MSG_REMOTE_STAT_BUSY : FRow := { bk := .msg, off := 0x184, lo := 0, w := 3, acc := .ro, kind := .block, rst := 0, vmax := 7 }
def MSG_REMOTE_STAT_DENIED : FRow := { bk := .msg, off := 0x184, lo := 16, w := 16, acc := .rc, kind := .block, rst := 0, vmax := 65535 }
def MSG_TEST_LANE : FRow := { bk := .msg, off := 0x400, lo := 4, w := 3, acc := .rw, kind := .block, rst := 0, vmax := 7 }
def MSG_TX_DATA_WORD : FRow := { bk := .msg, off := 0x1000, lo := 0, w := 32, acc := .rw, kind := .block, rst := 0, n := 128, s := 4, vmax := 4294967295 }
def MSG_RX_DATA_WORD : FRow := { bk := .msg, off := 0x1200, lo := 0, w := 32, acc := .ro, kind := .block, rst := 0, n := 128, s := 4, vmax := 4294967295 }
def MADC_REF_EN : FRow := { bk := .madc, off := 0x40, lo := 0, w := 1, acc := .rw, kind := .block, rst := 0, vmax := 1 }
def MADC_REF_SETTLED : FRow := { bk := .madc, off := 0x40, lo := 1, w := 1, acc := .ro, kind := .block, rst := 0, vmax := 1 }
def MADC_CFG_PAIR : FRow := { bk := .madc, off := 0x44, lo := 0, w := 1, acc := .rw, kind := .block, rst := 0, vmax := 1 }
def MADC_CFG_PAIR_CHAIN : FRow := { bk := .madc, off := 0x44, lo := 4, w := 3, acc := .rw, kind := .block, rst := 0, vmax := 7 }
def MADC_RAW_CFG_EN : FRow := { bk := .madc, off := 0x50, lo := 0, w := 1, acc := .rw, kind := .block, rst := 0, n := 2, s := 4, vmax := 1 }
def MADC_RAW_CFG_DIV : FRow := { bk := .madc, off := 0x50, lo := 2, w := 3, acc := .rw, kind := .block, rst := 0, n := 2, s := 4, vmax := 7 }
def MADC_RAW_CFG_PHASE : FRow := { bk := .madc, off := 0x50, lo := 8, w := 4, acc := .rw, kind := .block, rst := 0, n := 2, s := 4, vmax := 15 }
def MADC_RAW_CFG_INPUT : FRow := { bk := .madc, off := 0x50, lo := 12, w := 6, acc := .rw, kind := .block, rst := 0, n := 2, s := 4, vmax := 63 }
def MADC_RAW_CFG_GAIN : FRow := { bk := .madc, off := 0x50, lo := 18, w := 2, acc := .rw, kind := .block, rst := 0, n := 2, s := 4, vmax := 3 }
def MADC_DATA_CODE : FRow := { bk := .madc, off := 0x60, lo := 0, w := 16, acc := .ro, kind := .block, rst := 0, n := 2, s := 4, vmax := 65535 }
def MADC_DATA_NEW : FRow := { bk := .madc, off := 0x60, lo := 16, w := 1, acc := .rc, kind := .block, rst := 0, n := 2, s := 4, vmax := 1 }
def MADC_DATA_OVR : FRow := { bk := .madc, off := 0x60, lo := 17, w := 1, acc := .rc, kind := .block, rst := 0, n := 2, s := 4, vmax := 1 }
def MADC_DATA_REF_UNSETTLED : FRow := { bk := .madc, off := 0x60, lo := 18, w := 1, acc := .ro, kind := .block, rst := 0, n := 2, s := 4, vmax := 1 }
def MFIL_CFG_EN : FRow := { bk := .mfil, off := 0x100, lo := 0, w := 1, acc := .rw, kind := .block, rst := 0, n := 8, s := 0x40, vmax := 1 }
def MFIL_CFG_CONV : FRow := { bk := .mfil, off := 0x100, lo := 1, w := 1, acc := .rw, kind := .block, rst := 0, n := 8, s := 0x40, vmax := 1 }
def MFIL_CFG_DIV : FRow := { bk := .mfil, off := 0x100, lo := 2, w := 3, acc := .rw, kind := .block, rst := 0, n := 8, s := 0x40, vmax := 7 }
def MFIL_CFG_PHASE : FRow := { bk := .mfil, off := 0x100, lo := 8, w := 4, acc := .rw, kind := .block, rst := 0, n := 8, s := 0x40, vmax := 15 }
def MFIL_CFG_INPUT : FRow := { bk := .mfil, off := 0x100, lo := 12, w := 6, acc := .rw, kind := .block, rst := 0, n := 8, s := 0x40, vmax := 63 }
def MFIL_CFG_GAIN : FRow := { bk := .mfil, off := 0x100, lo := 18, w := 2, acc := .rw, kind := .block, rst := 0, n := 8, s := 0x40, vmax := 3 }
def MFIL_CFG_PRESET : FRow := { bk := .mfil, off := 0x100, lo := 20, w := 2, acc := .rw, kind := .block, rst := 0, n := 8, s := 0x40, vmax := 3 }
def MFIL_CFG_MINPH : FRow := { bk := .mfil, off := 0x100, lo := 22, w := 1, acc := .rw, kind := .block, rst := 0, n := 8, s := 0x40, vmax := 1 }
def MFIL_CFG_S1_MODE : FRow := { bk := .mfil, off := 0x100, lo := 23, w := 1, acc := .rw, kind := .block, rst := 0, n := 8, s := 0x40, vmax := 1 }
def MFIL_CFG_MA_LEN : FRow := { bk := .mfil, off := 0x100, lo := 24, w := 8, acc := .rw, kind := .block, rst := 7, n := 8, s := 0x40, vmin := 1, vmax := 255 }
def MFIL_GRID_RES_EN : FRow := { bk := .mfil, off := 0x104, lo := 0, w := 1, acc := .rw, kind := .block, rst := 0, n := 8, s := 0x40, vmax := 1 }
def MFIL_GRID_ALARM : FRow := { bk := .mfil, off := 0x104, lo := 8, w := 5, acc := .rw, kind := .block, rst := 0, n := 8, s := 0x40, vmax := 31 }
def MFIL_STAT_SETTLING : FRow := { bk := .mfil, off := 0x108, lo := 0, w := 1, acc := .ro, kind := .block, rst := 0, n := 8, s := 0x40, vmax := 1 }
def MFIL_STAT_STARVED : FRow := { bk := .mfil, off := 0x108, lo := 1, w := 1, acc := .ro, kind := .block, rst := 0, n := 8, s := 0x40, vmax := 1 }
def MFIL_STAT_GRID_FAST : FRow := { bk := .mfil, off := 0x108, lo := 2, w := 1, acc := .w1c, kind := .block, rst := 0, n := 8, s := 0x40, vmax := 1 }
def MFIL_RES_VALUE : FRow := { bk := .mfil, off := 0x110, lo := 0, w := 24, acc := .ro, kind := .block, rst := 0, n := 8, s := 0x40, vmax := 16777215 }
def MFIL_RES_VALID : FRow := { bk := .mfil, off := 0x110, lo := 24, w := 1, acc := .ro, kind := .block, rst := 0, n := 8, s := 0x40, vmax := 1 }
def MFIL_RES_NEW : FRow := { bk := .mfil, off := 0x110, lo := 25, w := 1, acc := .rc, kind := .block, rst := 0, n := 8, s := 0x40, vmax := 1 }
def MFIL_RES_OVR : FRow := { bk := .mfil, off := 0x110, lo := 26, w := 1, acc := .rc, kind := .block, rst := 0, n := 8, s := 0x40, vmax := 1 }
def MFIL_RES_REF_UNSETTLED : FRow := { bk := .mfil, off := 0x110, lo := 27, w := 1, acc := .ro, kind := .block, rst := 0, n := 8, s := 0x40, vmax := 1 }
def MFIL_RES_T_TIME : FRow := { bk := .mfil, off := 0x114, lo := 0, w := 96, acc := .ro, kind := .block, rst := 0, n := 8, s := 0x40, vmax := 79228162514264337593543950335 }
def MFIL_LIM_CFG_EN : FRow := { bk := .mfil, off := 0x120, lo := 0, w := 1, acc := .rw, kind := .block, rst := 0, n := 8, s := 0x40, n2 := 2, s2 := 8, vmax := 1 }
def MFIL_LIM_CFG_DIR : FRow := { bk := .mfil, off := 0x120, lo := 1, w := 1, acc := .rw, kind := .block, rst := 0, n := 8, s := 0x40, n2 := 2, s2 := 8, vmax := 1 }
def MFIL_LIM_CFG_CNT : FRow := { bk := .mfil, off := 0x120, lo := 2, w := 4, acc := .rw, kind := .block, rst := 0, n := 8, s := 0x40, n2 := 2, s2 := 8, vmax := 15 }
def MFIL_LIM_CFG_LDIS : FRow := { bk := .mfil, off := 0x120, lo := 8, w := 8, acc := .rw, kind := .block, rst := 0, n := 8, s := 0x40, n2 := 2, s2 := 8, vmax := 255 }
def MFIL_LIM_CFG_ACTIVE : FRow := { bk := .mfil, off := 0x120, lo := 16, w := 1, acc := .ro, kind := .block, rst := 0, n := 8, s := 0x40, n2 := 2, s2 := 8, vmax := 1 }
def MFIL_LIM_CFG_TRIPPED : FRow := { bk := .mfil, off := 0x120, lo := 17, w := 1, acc := .w1c, kind := .block, rst := 0, n := 8, s := 0x40, n2 := 2, s2 := 8, vmax := 1 }
def MFIL_LIM_CFG_HYST : FRow := { bk := .mfil, off := 0x120, lo := 20, w := 12, acc := .rw, kind := .block, rst := 0, n := 8, s := 0x40, n2 := 2, s2 := 8, vmax := 4095 }
def MFIL_LIM_THR_THR : FRow := { bk := .mfil, off := 0x124, lo := 0, w := 24, acc := .rw, kind := .block, rst := 0x7FFFFF, n := 8, s := 0x40, n2 := 2, s2 := 8, vmax := 16777215 }
def CDAC_STAT_LOADED : FRow := { bk := .cdac, off := 0x40, lo := 0, w := 1, acc := .ro, kind := .cold, rst := 0, vmax := 1 }
def CDAC_STAT_TABLE_OK : FRow := { bk := .cdac, off := 0x40, lo := 1, w := 1, acc := .ro, kind := .cold, rst := 0, vmax := 1 }
def CDAC_CODE_CODE : FRow := { bk := .cdac, off := 0x100, lo := 0, w := 16, acc := .rw, kind := .cold, rst := 0, n := 48, s := 0x10, vmax := 65535 }
def CDAC_CH_CFG_SPAN : FRow := { bk := .cdac, off := 0x104, lo := 0, w := 2, acc := .rw, kind := .cold, rst := 0, n := 48, s := 0x10, vmax := 3 }
def CDAC_CH_CFG_SLEW : FRow := { bk := .cdac, off := 0x104, lo := 4, w := 3, acc := .rw, kind := .cold, rst := 4, n := 48, s := 0x10, vmax := 7 }
def CDAC_CH_CFG_TRIP_MASK : FRow := { bk := .cdac, off := 0x104, lo := 16, w := 16, acc := .rw, kind := .cold, rst := 0, n := 48, s := 0x10, vmax := 65535 }
def CDAC_CH_STAT_STATE : FRow := { bk := .cdac, off := 0x10C, lo := 0, w := 3, acc := .ro, kind := .cold, rst := 0, n := 48, s := 0x10, vmax := 7 }
def CDAC_CH_STAT_RAMPING : FRow := { bk := .cdac, off := 0x10C, lo := 3, w := 1, acc := .ro, kind := .cold, rst := 0, n := 48, s := 0x10, vmax := 1 }
def CDAC_CH_STAT_CAUSE_THERMAL : FRow := { bk := .cdac, off := 0x10C, lo := 4, w := 1, acc := .ro, kind := .por, rst := 0, n := 48, s := 0x10, vmax := 1 }
def CDAC_CH_STAT_CAUSE_LOCKDOWN : FRow := { bk := .cdac, off := 0x10C, lo := 5, w := 1, acc := .ro, kind := .por, rst := 0, n := 48, s := 0x10, vmax := 1 }
def CDAC_CH_STAT_CAUSE_TRIP : FRow := { bk := .cdac, off := 0x10C, lo := 6, w := 1, acc := .ro, kind := .cold, rst := 0, n := 48, s := 0x10, vmax := 1 }
def CDAC_CH_STAT_CAUSE_SOFT : FRow := { bk := .cdac, off := 0x10C, lo := 7, w := 1, acc := .ro, kind := .cold, rst := 0, n := 48, s := 0x10, vmax := 1 }
def CDAC_CH_STAT_OUT : FRow := { bk := .cdac, off := 0x10C, lo := 16, w := 16, acc := .ro, kind := .cold, rst := 0, n := 48, s := 0x10, vmax := 65535 }
def CDAC_PU_CODE : FRow := { bk := .cdac, off := 0x400, lo := 0, w := 16, acc := .rw, kind := .cold, rst := 0, n := 48, s := 4, vmax := 65535, own := true }
def CDAC_FV_CODE : FRow := { bk := .cdac, off := 0x500, lo := 0, w := 16, acc := .rw, kind := .cold, rst := 0, n := 48, s := 4, vmax := 65535, own := true }
def MGT_SPI_CFG_DUMMY : FRow := { bk := .mgt, off := 0x40, lo := 0, w := 6, acc := .rw, kind := .cold, rst := 0x10, vmin := 8, vmax := 32 }
def MGT_PORT_STAT_PW_SPI : FRow := { bk := .mgt, off := 0x44, lo := 0, w := 6, acc := .ro, kind := .warm, rst := 0, vmax := 63 }
def MGT_PORT_STAT_PW_I3C : FRow := { bk := .mgt, off := 0x44, lo := 8, w := 6, acc := .ro, kind := .warm, rst := 0, vmax := 63 }
def MGT_PORT_STAT_SPLIT_SPI : FRow := { bk := .mgt, off := 0x44, lo := 16, w := 4, acc := .ro, kind := .warm, rst := 0, vmax := 15 }
def MGT_PORT_STAT_SPLIT_I3C : FRow := { bk := .mgt, off := 0x44, lo := 20, w := 4, acc := .ro, kind := .warm, rst := 0, vmax := 15 }
def MGT_PORT_STAT_DA_VALID : FRow := { bk := .mgt, off := 0x44, lo := 24, w := 1, acc := .ro, kind := .cold, rst := 0, vmax := 1 }
def MGT_PORT_STAT_DA : FRow := { bk := .mgt, off := 0x44, lo := 25, w := 7, acc := .ro, kind := .cold, rst := 0, vmax := 127 }
def MGT_PW_ERR_CODE : FRow := { bk := .mgt, off := 0x48, lo := 0, w := 8, acc := .ro, kind := .warm, rst := 0, vmax := 255 }
def MGT_PW_ERR_PORT : FRow := { bk := .mgt, off := 0x48, lo := 8, w := 2, acc := .ro, kind := .warm, rst := 0, vmax := 3 }
def MGT_PW_ERR_VALID : FRow := { bk := .mgt, off := 0x48, lo := 15, w := 1, acc := .w1c, kind := .warm, rst := 0, vmax := 1 }
def MGT_PW_ERR_ADDR_ADDR : FRow := { bk := .mgt, off := 0x4C, lo := 0, w := 32, acc := .ro, kind := .warm, rst := 0, vmax := 4294967295 }
def MGT_PW_ERR_CNT_COUNT : FRow := { bk := .mgt, off := 0x50, lo := 0, w := 32, acc := .rc, kind := .warm, rst := 0, vmax := 4294967295 }
def MGT_WAKE_HOLD : FRow := { bk := .mgt, off := 0x54, lo := 0, w := 8, acc := .rw, kind := .cold, rst := 0xA, vmin := 1, vmax := 255 }
def MGT_MAC_FAIL_COUNT : FRow := { bk := .mgt, off := 0x58, lo := 0, w := 32, acc := .rc, kind := .cold, rst := 0, vmax := 4294967295 }
def MGT_OWNER_CTR_COUNT : FRow := { bk := .mgt, off := 0x60, lo := 0, w := 32, acc := .ro, kind := .cold, rst := 0, vmax := 4294967295 }
def MGT_WICK_STATIC : FRow := { bk := .mgt, off := 0x64, lo := 0, w := 7, acc := .ro, kind := .por, rst := 0x4F, vmax := 127 }
def MGT_WICK_DYNAMIC : FRow := { bk := .mgt, off := 0x64, lo := 8, w := 7, acc := .ro, kind := .por, rst := 0, vmax := 127 }
def PIN_GPIO_CFG_FUNC : FRow := { bk := .pin, off := 0x40, lo := 0, w := 3, acc := .rw, kind := .cold, rst := 0, n := 8, s := 4, vmin := 0, vmax := 4 }
def PIN_GPIO_CFG_DIR : FRow := { bk := .pin, off := 0x40, lo := 4, w := 1, acc := .rw, kind := .cold, rst := 0, n := 8, s := 4, vmax := 1 }
def PIN_GPIO_CFG_OUT : FRow := { bk := .pin, off := 0x40, lo := 5, w := 1, acc := .rw, kind := .cold, rst := 0, n := 8, s := 4, vmax := 1 }
def PIN_GPIO_CFG_IN : FRow := { bk := .pin, off := 0x40, lo := 6, w := 1, acc := .ro, kind := .cold, rst := 1, n := 8, s := 4, vmax := 1 }
def PIN_GPIO_CFG_SEL : FRow := { bk := .pin, off := 0x40, lo := 8, w := 5, acc := .rw, kind := .cold, rst := 0, n := 8, s := 4, vmax := 31 }
def PIN_GPIO_CFG_IRQ_EDGE : FRow := { bk := .pin, off := 0x40, lo := 13, w := 2, acc := .rw, kind := .cold, rst := 0, n := 8, s := 4, vmax := 3 }
def PIN_GPIO_CFG_OWNER : FRow := { bk := .pin, off := 0x40, lo := 16, w := 3, acc := .ro, kind := .cold, rst := 0, n := 8, s := 4, vmax := 7 }
def IRQ_CTRL_INT_EN : FRow := { bk := .irq, off := 0x40, lo := 0, w := 1, acc := .rw, kind := .cold, rst := 1, vmax := 1 }
def IRQ_CTRL_ALARM_EN : FRow := { bk := .irq, off := 0x40, lo := 1, w := 1, acc := .rw, kind := .cold, rst := 1, vmax := 1 }
def IRQ_PIN_INT : FRow := { bk := .irq, off := 0x44, lo := 0, w := 1, acc := .ro, kind := .cold, rst := 0, vmax := 1 }
def IRQ_PIN_ALARM : FRow := { bk := .irq, off := 0x44, lo := 1, w := 1, acc := .ro, kind := .cold, rst := 0, vmax := 1 }
def IRQ_SUM_DEV_BLOCKS : FRow := { bk := .irq, off := 0x48, lo := 0, w := 20, acc := .ro, kind := .cold, rst := 0, vmax := 1048575 }
def IRQ_SUM_SHEAF_BLOCKS : FRow := { bk := .irq, off := 0x4C, lo := 0, w := 4, acc := .ro, kind := .cold, rst := 0, vmax := 15 }
def IRQ_SUM_LANE_LANES : FRow := { bk := .irq, off := 0x50, lo := 0, w := 8, acc := .ro, kind := .cold, rst := 0, vmax := 255 }
def IRQ_SUM_HOST_LANES : FRow := { bk := .irq, off := 0x54, lo := 0, w := 16, acc := .ro, kind := .cold, rst := 0, vmax := 65535 }
def IRQ_ROUTE_SEL_INDEX : FRow := { bk := .irq, off := 0x60, lo := 0, w := 8, acc := .rw, kind := .cold, rst := 0, vmax := 255 }
def IRQ_ROUTE_SEL_BIT : FRow := { bk := .irq, off := 0x60, lo := 8, w := 5, acc := .rw, kind := .cold, rst := 0, vmax := 31 }
def FWC_STAT_RUNNING : FRow := { bk := .fwc, off := 0x40, lo := 0, w := 1, acc := .ro, kind := .warm, rst := 0, vmax := 1 }
def FWC_STAT_BANK : FRow := { bk := .fwc, off := 0x40, lo := 1, w := 1, acc := .ro, kind := .cold, rst := 0, vmax := 1 }
def FWC_STAT_ABORTED : FRow := { bk := .fwc, off := 0x40, lo := 8, w := 1, acc := .w1c, kind := .cold, rst := 0, n2 := 4, b2 := 1, vmax := 1 }
def FWC_MBX_RESULT_CODE : FRow := { bk := .fwc, off := 0x54, lo := 0, w := 2, acc := .ro, kind := .cold, rst := 0, vmax := 3 }
def FWC_MBX_SLOT_STATE : FRow := { bk := .fwc, off := 0x60, lo := 0, w := 2, acc := .ro, kind := .cold, rst := 0, n := 4, s := 4, vmax := 3 }
def FWC_MBX_SLOT_OPCODE : FRow := { bk := .fwc, off := 0x60, lo := 8, w := 8, acc := .ro, kind := .cold, rst := 0, n := 4, s := 4, vmax := 255 }
def FWC_MBX_SLOT_RESULT : FRow := { bk := .fwc, off := 0x60, lo := 16, w := 4, acc := .ro, kind := .cold, rst := 0, n := 4, s := 4, vmax := 15 }
def FWC_MBX_SLOT_RLEN : FRow := { bk := .fwc, off := 0x60, lo := 20, w := 9, acc := .ro, kind := .cold, rst := 0, n := 4, s := 4, vmax := 511 }
def FWC_MBX_SLOT_OWNER : FRow := { bk := .fwc, off := 0x60, lo := 29, w := 1, acc := .ro, kind := .cold, rst := 0, n := 4, s := 4, vmax := 1 }
def FWC_MBX_BUF_WORD : FRow := { bk := .fwc, off := 0x1000, lo := 0, w := 32, acc := .rw, kind := .cold, rst := 0, n := 4, s := 0x400, n2 := 256, s2 := 4, vmax := 4294967295 }
def PWR_STATE_REQ_TARGET : FRow := { bk := .pwr, off := 0x40, lo := 0, w := 2, acc := .rw, kind := .cold, rst := 0, vmax := 3 }
def PWR_STATE_STATE : FRow := { bk := .pwr, off := 0x44, lo := 0, w := 2, acc := .ro, kind := .cold, rst := 0, vmax := 3 }
def PWR_STATE_BUSY : FRow := { bk := .pwr, off := 0x44, lo := 2, w := 1, acc := .ro, kind := .cold, rst := 0, vmax := 1 }
def PWR_STATE_TARGET : FRow := { bk := .pwr, off := 0x44, lo := 4, w := 2, acc := .ro, kind := .cold, rst := 0, vmax := 3 }
def PWR_STATE_PEND_VALID : FRow := { bk := .pwr, off := 0x44, lo := 6, w := 1, acc := .ro, kind := .cold, rst := 0, vmax := 1 }
def PWR_STATE_PEND : FRow := { bk := .pwr, off := 0x44, lo := 8, w := 2, acc := .ro, kind := .cold, rst := 0, vmax := 3 }
def PWR_STATE_CAUSE : FRow := { bk := .pwr, off := 0x44, lo := 12, w := 2, acc := .ro, kind := .por, rst := 0, vmax := 3 }
def PWR_REFUSE_INDEX : FRow := { bk := .pwr, off := 0x48, lo := 0, w := 8, acc := .ro, kind := .cold, rst := 0, vmax := 255 }
def PWR_REFUSE_CAUSE : FRow := { bk := .pwr, off := 0x48, lo := 8, w := 2, acc := .ro, kind := .cold, rst := 0, vmax := 3 }
def PWR_REFUSE_LEVEL : FRow := { bk := .pwr, off := 0x48, lo := 12, w := 1, acc := .ro, kind := .cold, rst := 0, vmax := 1 }
def PWR_PL_CFG_REQ : FRow := { bk := .pwr, off := 0x50, lo := 0, w := 2, acc := .rw, kind := .cold, rst := 3, vmax := 3 }
def PWR_PL_CFG_AUTO : FRow := { bk := .pwr, off := 0x50, lo := 4, w := 1, acc := .rw, kind := .cold, rst := 1, vmax := 1 }
def PWR_PL_CFG_MIN : FRow := { bk := .pwr, off := 0x50, lo := 8, w := 2, acc := .rw, kind := .cold, rst := 0, vmax := 3 }
def PWR_PL_STAT_LEVEL : FRow := { bk := .pwr, off := 0x54, lo := 0, w := 2, acc := .ro, kind := .cold, rst := 3, vmax := 3 }
def PWR_PL_STAT_BUSY : FRow := { bk := .pwr, off := 0x54, lo := 2, w := 1, acc := .ro, kind := .cold, rst := 0, vmax := 1 }
def PWR_PL_STAT_TARGET : FRow := { bk := .pwr, off := 0x54, lo := 4, w := 2, acc := .ro, kind := .cold, rst := 3, vmax := 3 }
def PWR_PL_STAT_NEED : FRow := { bk := .pwr, off := 0x54, lo := 8, w := 2, acc := .ro, kind := .cold, rst := 0, vmax := 3 }
def PWR_PL_STAT_AVS_ERR : FRow := { bk := .pwr, off := 0x54, lo := 12, w := 1, acc := .w1c, kind := .cold, rst := 0, vmax := 1 }
def PWR_PL_VOLT_V : FRow := { bk := .pwr, off := 0x58, lo := 0, w := 8, acc := .ro, kind := .cold, rst := 0, n2 := 4, b2 := 8, vmax := 255 }
def PWR_AVS_CFG_CLK : FRow := { bk := .pwr, off := 0x5C, lo := 0, w := 2, acc := .rw, kind := .cold, rst := 1, vmin := 0, vmax := 2 }
def PWR_AVS_CFG_RAIL : FRow := { bk := .pwr, off := 0x5C, lo := 4, w := 4, acc := .rw, kind := .cold, rst := 0, vmax := 15 }
def PWR_AVS_CFG_SETTLE : FRow := { bk := .pwr, off := 0x5C, lo := 8, w := 8, acc := .rw, kind := .cold, rst := 0x32, vmin := 10, vmax := 255 }
def PWR_STAT_BURST_MISS : FRow := { bk := .pwr, off := 0x60, lo := 0, w := 1, acc := .w1c, kind := .cold, rst := 0, n2 := 8, b2 := 1, vmax := 1 }
def PWR_WAKE_EN_PIN : FRow := { bk := .pwr, off := 0x64, lo := 0, w := 1, acc := .rw, kind := .por, rst := 1, vmax := 1 }
def PWR_WAKE_EN_WICK : FRow := { bk := .pwr, off := 0x64, lo := 1, w := 1, acc := .rw, kind := .por, rst := 1, vmax := 1 }
def PWR_WAKE_EN_ALM_EN : FRow := { bk := .pwr, off := 0x64, lo := 2, w := 1, acc := .rw, kind := .por, rst := 0, vmax := 1 }
def PWR_WAKE_EN_ALARM : FRow := { bk := .pwr, off := 0x64, lo := 8, w := 5, acc := .rw, kind := .por, rst := 0, vmax := 31 }
def PWR_WAKE_STAT_PIN : FRow := { bk := .pwr, off := 0x68, lo := 0, w := 1, acc := .w1c, kind := .por, rst := 0, vmax := 1 }
def PWR_WAKE_STAT_WICK : FRow := { bk := .pwr, off := 0x68, lo := 1, w := 1, acc := .w1c, kind := .por, rst := 0, vmax := 1 }
def PWR_WAKE_STAT_ALARM : FRow := { bk := .pwr, off := 0x68, lo := 2, w := 1, acc := .w1c, kind := .por, rst := 0, vmax := 1 }
def PWR_WAKE_STAT_VIO : FRow := { bk := .pwr, off := 0x68, lo := 3, w := 1, acc := .w1c, kind := .por, rst := 0, vmax := 1 }
def PWR_WAKE_STAT_REQ : FRow := { bk := .pwr, off := 0x68, lo := 4, w := 1, acc := .w1c, kind := .por, rst := 0, vmax := 1 }
def PWR_WAKE_STAT_EDGE_LOST : FRow := { bk := .pwr, off := 0x68, lo := 8, w := 1, acc := .w1c, kind := .por, rst := 0, vmax := 1 }
def PWR_RAIL_STAT_OK : FRow := { bk := .pwr, off := 0x70, lo := 0, w := 1, acc := .ro, kind := .por, rst := 0, n2 := 6, b2 := 1, vmax := 1 }
def PWR_RAIL_STAT_ON_VBAK : FRow := { bk := .pwr, off := 0x70, lo := 8, w := 1, acc := .ro, kind := .por, rst := 0, vmax := 1 }
def PWR_RAIL_STAT_UV : FRow := { bk := .pwr, off := 0x70, lo := 16, w := 1, acc := .w1c, kind := .cold, rst := 0, n2 := 4, b2 := 1, vmax := 1 }
def PWR_SWITCH_COUNT : FRow := { bk := .pwr, off := 0x74, lo := 0, w := 8, acc := .rc, kind := .por, rst := 0, vmax := 255 }
def RST_CTRL_SHEAF : FRow := { bk := .rst, off := 0x40, lo := 8, w := 1, acc := .rw, kind := .cold, rst := 0, n2 := 2, b2 := 1, vmax := 1 }
def RST_CAUSE_POR : FRow := { bk := .rst, off := 0x44, lo := 0, w := 1, acc := .w1c, kind := .por, rst := 1, vmax := 1 }
def RST_CAUSE_COLD_SUPPLY : FRow := { bk := .rst, off := 0x44, lo := 1, w := 1, acc := .w1c, kind := .por, rst := 0, vmax := 1 }
def RST_CAUSE_COLD_SWITCH : FRow := { bk := .rst, off := 0x44, lo := 2, w := 1, acc := .w1c, kind := .por, rst := 0, vmax := 1 }
def RST_CAUSE_PIN : FRow := { bk := .rst, off := 0x44, lo := 3, w := 1, acc := .w1c, kind := .por, rst := 0, vmax := 1 }
def RST_CAUSE_GLOBAL : FRow := { bk := .rst, off := 0x44, lo := 4, w := 1, acc := .w1c, kind := .por, rst := 0, vmax := 1 }
def RST_CAUSE_WARM : FRow := { bk := .rst, off := 0x44, lo := 5, w := 1, acc := .w1c, kind := .por, rst := 0, vmax := 1 }
def RST_CAUSE_WDT : FRow := { bk := .rst, off := 0x44, lo := 6, w := 1, acc := .w1c, kind := .por, rst := 0, vmax := 1 }
def RST_CAUSE_TIMEKEEP : FRow := { bk := .rst, off := 0x44, lo := 7, w := 1, acc := .w1c, kind := .por, rst := 0, vmax := 1 }
def RST_CAUSE_SHEAF : FRow := { bk := .rst, off := 0x44, lo := 8, w := 1, acc := .w1c, kind := .por, rst := 0, n2 := 2, b2 := 1, vmax := 1 }
def RST_STAT_PHASE : FRow := { bk := .rst, off := 0x48, lo := 0, w := 4, acc := .ro, kind := .cold, rst := 1, vmax := 15 }
def RST_STAT_HOLD_THERMAL : FRow := { bk := .rst, off := 0x48, lo := 8, w := 1, acc := .ro, kind := .por, rst := 0, vmax := 1 }
def RST_STAT_HOLD_LOCKDOWN : FRow := { bk := .rst, off := 0x48, lo := 9, w := 1, acc := .ro, kind := .por, rst := 0, vmax := 1 }
def RST_STAT_STRAP_ERR : FRow := { bk := .rst, off := 0x48, lo := 12, w := 1, acc := .ro, kind := .cold, rst := 0, vmax := 1 }
def RST_STAT_BANK_FALLBACK : FRow := { bk := .rst, off := 0x48, lo := 13, w := 1, acc := .ro, kind := .cold, rst := 0, vmax := 1 }
def RST_STAT_LBIST_RUN : FRow := { bk := .rst, off := 0x48, lo := 14, w := 1, acc := .ro, kind := .cold, rst := 0, vmax := 1 }
def RST_STRAP_BOOT : FRow := { bk := .rst, off := 0x4C, lo := 0, w := 2, acc := .ro, kind := .cold, rst := 3, vmax := 3 }
def RST_STRAP_CLKMODE : FRow := { bk := .rst, off := 0x4C, lo := 2, w := 2, acc := .ro, kind := .cold, rst := 3, vmax := 3 }
def RST_STRAP_ADDR : FRow := { bk := .rst, off := 0x4C, lo := 4, w := 3, acc := .ro, kind := .cold, rst := 7, vmax := 7 }
def RST_WDT_CFG_TIMEOUT : FRow := { bk := .rst, off := 0x50, lo := 0, w := 16, acc := .rw, kind := .cold, rst := 0x64, vmin := 10, vmax := 10000, own := true }
def RST_WDT_CFG_RUNNING : FRow := { bk := .rst, off := 0x50, lo := 16, w := 1, acc := .ro, kind := .warm, rst := 0, vmax := 1 }
def RST_BOOT_STAT_ERROR : FRow := { bk := .rst, off := 0x5C, lo := 0, w := 4, acc := .ro, kind := .cold, rst := 0, vmax := 15 }
def RST_BOOT_STAT_WINDOW : FRow := { bk := .rst, off := 0x5C, lo := 8, w := 1, acc := .ro, kind := .cold, rst := 0, vmax := 1 }
def MEM_ECC_STAT_CE_SEEN : FRow := { bk := .mem, off := 0x40, lo := 0, w := 1, acc := .w1c, kind := .cold, rst := 0, vmax := 1 }
def MEM_ECC_STAT_UE_SEEN : FRow := { bk := .mem, off := 0x40, lo := 1, w := 1, acc := .w1c, kind := .cold, rst := 0, vmax := 1 }
def MEM_ECC_STAT_ADDR_FAULT : FRow := { bk := .mem, off := 0x40, lo := 2, w := 1, acc := .w1c, kind := .cold, rst := 0, vmax := 1 }
def MEM_ECC_CE_CNT_COUNT : FRow := { bk := .mem, off := 0x44, lo := 0, w := 32, acc := .rc, kind := .cold, rst := 0, vmax := 4294967295 }
def MEM_ECC_UE_CNT_COUNT : FRow := { bk := .mem, off := 0x48, lo := 0, w := 32, acc := .rc, kind := .cold, rst := 0, vmax := 4294967295 }
def MEM_ECC_LAST_MEMID : FRow := { bk := .mem, off := 0x4C, lo := 0, w := 8, acc := .ro, kind := .cold, rst := 0, vmax := 255 }
def MEM_ECC_LAST_ADDR : FRow := { bk := .mem, off := 0x4C, lo := 8, w := 1, acc := .ro, kind := .cold, rst := 0, vmax := 1 }
def MEM_ECC_LAST_ADDR_WORD : FRow := { bk := .mem, off := 0x50, lo := 0, w := 20, acc := .ro, kind := .cold, rst := 0, vmax := 1048575 }
def MEM_SCRUB_EN : FRow := { bk := .mem, off := 0x54, lo := 0, w := 1, acc := .rw, kind := .cold, rst := 1, vmax := 1 }
def MEM_SCRUB_PERIOD : FRow := { bk := .mem, off := 0x54, lo := 8, w := 8, acc := .rw, kind := .cold, rst := 0x3C, vmin := 1, vmax := 255 }
def MEM_MARCH_CTRL_MEMID : FRow := { bk := .mem, off := 0x60, lo := 0, w := 8, acc := .rw, kind := .cold, rst := 0, vmax := 255 }
def MEM_MARCH_CTRL_PRESERVE : FRow := { bk := .mem, off := 0x60, lo := 9, w := 1, acc := .rw, kind := .cold, rst := 1, vmax := 1 }
def MEM_MARCH_STAT_STATE : FRow := { bk := .mem, off := 0x64, lo := 0, w := 3, acc := .ro, kind := .cold, rst := 0, vmax := 7 }
def MEM_MARCH_STAT_ROWS_REPAIRED : FRow := { bk := .mem, off := 0x64, lo := 8, w := 8, acc := .ro, kind := .cold, rst := 0, vmax := 255 }
def MEM_MARCH_STAT_NO_SPARE : FRow := { bk := .mem, off := 0x64, lo := 16, w := 1, acc := .ro, kind := .cold, rst := 0, vmax := 1 }
def MEM_REPAIR_STAT_RECORDS : FRow := { bk := .mem, off := 0x68, lo := 0, w := 12, acc := .ro, kind := .cold, rst := 0, vmax := 4095 }
def MEM_REPAIR_STAT_FULL : FRow := { bk := .mem, off := 0x68, lo := 16, w := 1, acc := .ro, kind := .cold, rst := 0, vmax := 1 }
def MEM_INJ_ADDR_WORD : FRow := { bk := .mem, off := 0x400, lo := 0, w := 17, acc := .rw, kind := .block, rst := 0, vmax := 131071 }
def MEM_INJ_CTRL_MODE : FRow := { bk := .mem, off := 0x404, lo := 0, w := 2, acc := .rw, kind := .block, rst := 0, vmax := 3 }
def NVS_STAT_BUSY : FRow := { bk := .nvs, off := 0x40, lo := 0, w := 1, acc := .ro, kind := .cold, rst := 0, vmax := 1 }
def NVS_STAT_WRITER : FRow := { bk := .nvs, off := 0x40, lo := 1, w := 3, acc := .ro, kind := .cold, rst := 0, vmax := 7 }
def NVS_CMD_ADDR_OFFSET : FRow := { bk := .nvs, off := 0x44, lo := 3, w := 20, acc := .rw, kind := .cold, rst := 0, vmax := 1048575, own := true }
def NVS_CMD_DATA_DATA : FRow := { bk := .nvs, off := 0x48, lo := 0, w := 64, acc := .rw, kind := .cold, rst := 0, vmax := 18446744073709551615, own := true }
def NVS_CMD_STAT_STATE : FRow := { bk := .nvs, off := 0x54, lo := 0, w := 2, acc := .ro, kind := .cold, rst := 0, vmax := 3 }
def NVS_CMD_STAT_ERR : FRow := { bk := .nvs, off := 0x54, lo := 4, w := 4, acc := .ro, kind := .cold, rst := 0, vmax := 15 }
def NVS_ERR_CNT_VERIFY_FAIL : FRow := { bk := .nvs, off := 0x58, lo := 0, w := 16, acc := .rc, kind := .cold, rst := 0, vmax := 65535 }
def NVS_ERR_CNT_UE_READ : FRow := { bk := .nvs, off := 0x58, lo := 16, w := 16, acc := .rc, kind := .cold, rst := 0, vmax := 65535 }
def NVS_CE_CNT_COUNT : FRow := { bk := .nvs, off := 0x5C, lo := 0, w := 32, acc := .rc, kind := .cold, rst := 0, vmax := 4294967295 }
def TST_LBIST_STAT_RAN : FRow := { bk := .tst, off := 0x40, lo := 0, w := 1, acc := .ro, kind := .cold, rst := 0, vmax := 1 }
def TST_LBIST_STAT_CENTRAL_FAIL : FRow := { bk := .tst, off := 0x40, lo := 1, w := 1, acc := .ro, kind := .cold, rst := 0, vmax := 1 }
def TST_LBIST_STAT_SHEAF_FAIL : FRow := { bk := .tst, off := 0x40, lo := 2, w := 1, acc := .ro, kind := .cold, rst := 0, n2 := 2, b2 := 1, vmax := 1 }
def TST_LBIST_STAT_SLICE_FAIL : FRow := { bk := .tst, off := 0x40, lo := 8, w := 5, acc := .ro, kind := .cold, rst := 0, n2 := 2, b2 := 8, vmax := 31 }
def TST_CFG_LBIST_BOOT : FRow := { bk := .tst, off := 0x44, lo := 0, w := 1, acc := .rw, kind := .cold, rst := 0, vmax := 1, own := true }
def TST_CFG_ONCE : FRow := { bk := .tst, off := 0x44, lo := 1, w := 1, acc := .rw, kind := .cold, rst := 0, vmax := 1, own := true }
def THM_CFG_COMPAT : FRow := { bk := .thm, off := 0x40, lo := 0, w := 1, acc := .rw, kind := .cold, rst := 0, vmax := 1 }
def THM_LEVEL_CFG_WARN : FRow := { bk := .thm, off := 0x44, lo := 0, w := 8, acc := .rw, kind := .cold, rst := 0x5F, vmax := 255 }
def THM_LEVEL_CFG_THROTTLE : FRow := { bk := .thm, off := 0x44, lo := 8, w := 8, acc := .rw, kind := .cold, rst := 0x64, vmax := 255 }
def THM_LEVEL_CFG_SHUT : FRow := { bk := .thm, off := 0x44, lo := 16, w := 8, acc := .rw, kind := .cold, rst := 0x6E, vmax := 255 }
def THM_LEVEL_CFG_HYST : FRow := { bk := .thm, off := 0x44, lo := 24, w := 4, acc := .rw, kind := .cold, rst := 3, vmax := 15 }
def THM_THROTTLE_P2_PAUSE : FRow := { bk := .thm, off := 0x48, lo := 0, w := 8, acc := .rw, kind := .cold, rst := 3, vmax := 255 }
def THM_THROTTLE_BG_PAUSE : FRow := { bk := .thm, off := 0x48, lo := 8, w := 8, acc := .rw, kind := .cold, rst := 0xA, vmax := 255 }
def THM_THROTTLE_FORCE : FRow := { bk := .thm, off := 0x48, lo := 16, w := 1, acc := .rw, kind := .cold, rst := 0, vmax := 1 }
def THM_STAT_WARN : FRow := { bk := .thm, off := 0x4C, lo := 0, w := 1, acc := .ro, kind := .cold, rst := 0, vmax := 1 }
def THM_STAT_THROTTLE : FRow := { bk := .thm, off := 0x4C, lo := 1, w := 1, acc := .ro, kind := .cold, rst := 0, vmax := 1 }
def THM_STAT_FORCED : FRow := { bk := .thm, off := 0x4C, lo := 2, w := 1, acc := .ro, kind := .cold, rst := 0, vmax := 1 }
def THM_STAT_SHUTDOWN : FRow := { bk := .thm, off := 0x4C, lo := 3, w := 1, acc := .ro, kind := .por, rst := 0, vmax := 1 }
def THM_STAT_THROTTLING : FRow := { bk := .thm, off := 0x4C, lo := 4, w := 1, acc := .ro, kind := .cold, rst := 0, vmax := 1 }
def THM_STAT_VALID_CNT : FRow := { bk := .thm, off := 0x4C, lo := 8, w := 4, acc := .ro, kind := .cold, rst := 0xE, vmax := 15 }
def THM_HOT_T : FRow := { bk := .thm, off := 0x50, lo := 0, w := 16, acc := .ro, kind := .cold, rst := 0, vmax := 65535 }
def THM_HOT_SENSOR : FRow := { bk := .thm, off := 0x50, lo := 16, w := 4, acc := .ro, kind := .cold, rst := 0, vmax := 15 }
def THM_CENTRAL_T : FRow := { bk := .thm, off := 0x54, lo := 0, w := 16, acc := .ro, kind := .cold, rst := 0, vmax := 65535 }
def THM_SENSOR_STAT_BROKEN : FRow := { bk := .thm, off := 0x58, lo := 0, w := 1, acc := .ro, kind := .cold, rst := 0, n2 := 14, b2 := 1, vmax := 1 }
def THM_SHUT_REC_SENSOR : FRow := { bk := .thm, off := 0x5C, lo := 0, w := 4, acc := .ro, kind := .por, rst := 0, vmax := 15 }
def THM_SHUT_REC_BY_SHUT : FRow := { bk := .thm, off := 0x5C, lo := 4, w := 1, acc := .ro, kind := .por, rst := 0, vmax := 1 }
def THM_SHUT_REC_T : FRow := { bk := .thm, off := 0x5C, lo := 16, w := 16, acc := .ro, kind := .por, rst := 0, vmax := 65535 }
def THM_TEMP_T : FRow := { bk := .thm, off := 0x80, lo := 0, w := 16, acc := .ro, kind := .cold, rst := 0, n := 14, s := 4, vmax := 65535 }
def THM_TEMP_VALID : FRow := { bk := .thm, off := 0x80, lo := 16, w := 1, acc := .ro, kind := .cold, rst := 0, n := 14, s := 4, vmax := 1 }
def THM_TEMP_CAUSE : FRow := { bk := .thm, off := 0x80, lo := 17, w := 2, acc := .ro, kind := .cold, rst := 0, n := 14, s := 4, vmax := 3 }
def PMC_ACCESS_OPEN_READ : FRow := { bk := .pmc, off := 0x40, lo := 0, w := 1, acc := .rw, kind := .cold, rst := 0, vmax := 1, own := true }
def PMC_CTRL_FREEZE : FRow := { bk := .pmc, off := 0x44, lo := 1, w := 1, acc := .rw, kind := .block, rst := 0, vmax := 1 }
def PMC_SNAP_CFG_ALM_EN : FRow := { bk := .pmc, off := 0x48, lo := 0, w := 1, acc := .rw, kind := .block, rst := 0, vmax := 1 }
def PMC_SNAP_CFG_ALARM : FRow := { bk := .pmc, off := 0x48, lo := 8, w := 5, acc := .rw, kind := .block, rst := 0, vmax := 31 }
def PMC_SNAP_CFG_OVF_SNAP : FRow := { bk := .pmc, off := 0x48, lo := 16, w := 1, acc := .rw, kind := .block, rst := 0, vmax := 1 }
def PMC_SNAP_STAT_BUSY : FRow := { bk := .pmc, off := 0x4C, lo := 0, w := 1, acc := .ro, kind := .block, rst := 0, vmax := 1 }
def PMC_SNAP_STAT_DELAYED : FRow := { bk := .pmc, off := 0x4C, lo := 1, w := 1, acc := .ro, kind := .block, rst := 0, vmax := 1 }
def PMC_SNAP_STAT_OVERLAP : FRow := { bk := .pmc, off := 0x4C, lo := 8, w := 8, acc := .rc, kind := .block, rst := 0, vmax := 255 }
def PMC_SNAP_STAT_SEQ : FRow := { bk := .pmc, off := 0x4C, lo := 16, w := 16, acc := .ro, kind := .block, rst := 0, vmax := 65535 }
def PMC_SNAP_TIME_TIME : FRow := { bk := .pmc, off := 0x50, lo := 0, w := 96, acc := .ro, kind := .block, rst := 0, vmax := 79228162514264337593543950335 }
def PMC_SEL_INDEX : FRow := { bk := .pmc, off := 0x80, lo := 0, w := 8, acc := .rw, kind := .block, rst := 0, vmax := 255 }
def PMC_SNAP_BUF_COUNT : FRow := { bk := .pmc, off := 0x1000, lo := 0, w := 64, acc := .ro, kind := .block, rst := 0, n := 144, s := 0x40, n2 := 8, s2 := 8, vmax := 18446744073709551615 }
def EVR_CFG_KEEP_FIRST : FRow := { bk := .evr, off := 0x40, lo := 0, w := 1, acc := .rw, kind := .cold, rst := 0, vmax := 1 }
def EVR_CFG_TRIG_UE : FRow := { bk := .evr, off := 0x40, lo := 1, w := 1, acc := .rw, kind := .cold, rst := 1, vmax := 1 }
def EVR_CFG_TRIG_WDT : FRow := { bk := .evr, off := 0x40, lo := 2, w := 1, acc := .rw, kind := .cold, rst := 1, vmax := 1 }
def EVR_CFG_HOLDOFF : FRow := { bk := .evr, off := 0x40, lo := 8, w := 8, acc := .rw, kind := .cold, rst := 0xA, vmax := 255 }
def EVR_STAT_BUSY : FRow := { bk := .evr, off := 0x48, lo := 0, w := 1, acc := .ro, kind := .cold, rst := 0, vmax := 1 }
def EVR_STAT_PENDING : FRow := { bk := .evr, off := 0x48, lo := 1, w := 1, acc := .ro, kind := .cold, rst := 0, vmax := 1 }
def EVR_STAT_LAST_SLOT : FRow := { bk := .evr, off := 0x48, lo := 4, w := 3, acc := .ro, kind := .cold, rst := 0, vmax := 7 }
def EVR_STAT_LAST_TRIG : FRow := { bk := .evr, off := 0x48, lo := 8, w := 8, acc := .ro, kind := .cold, rst := 0, vmax := 255 }
def EVR_SEQ_SEQ : FRow := { bk := .evr, off := 0x4C, lo := 0, w := 32, acc := .ro, kind := .cold, rst := 0, vmax := 4294967295 }
def EVR_WR_IDX_INDEX : FRow := { bk := .evr, off := 0x50, lo := 0, w := 14, acc := .ro, kind := .por, rst := 0, vmax := 16383 }
def EVR_WR_IDX_WRAPPED : FRow := { bk := .evr, off := 0x50, lo := 31, w := 1, acc := .ro, kind := .por, rst := 0, vmax := 1 }
def EVR_RD_IDX_INDEX : FRow := { bk := .evr, off := 0x54, lo := 0, w := 14, acc := .rw, kind := .cold, rst := 0, vmax := 16383 }
def EVR_RD_IDX_UE : FRow := { bk := .evr, off := 0x54, lo := 16, w := 1, acc := .ro, kind := .cold, rst := 0, vmax := 1 }
def EVR_RD_DATA_ENTRY : FRow := { bk := .evr, off := 0x58, lo := 0, w := 128, acc := .ro, kind := .cold, rst := 0, vmax := 340282366920938463463374607431768211455 }
def EVR_LOG_DATA_DATA : FRow := { bk := .evr, off := 0x68, lo := 0, w := 32, acc := .rw, kind := .block, rst := 0, vmax := 4294967295 }
def EVR_LOST_COUNT : FRow := { bk := .evr, off := 0x70, lo := 0, w := 32, acc := .rc, kind := .por, rst := 0, vmax := 4294967295 }
def EVR_SUPPRESS_COUNT : FRow := { bk := .evr, off := 0x74, lo := 0, w := 32, acc := .rc, kind := .cold, rst := 0, vmax := 4294967295 }
def EVR_DISCARD_COUNT : FRow := { bk := .evr, off := 0x78, lo := 0, w := 32, acc := .rc, kind := .cold, rst := 0, vmax := 4294967295 }
def EVR_SNAP_PAGE_EN : FRow := { bk := .evr, off := 0x80, lo := 0, w := 1, acc := .rw, kind := .cold, rst := 0, n := 15, s := 4, xs := [(0, 1), (1, 1), (2, 1), (3, 1), (4, 1), (5, 1), (6, 1), (7, 1)], vmax := 1 }
def EVR_SNAP_PAGE_PAGE : FRow := { bk := .evr, off := 0x80, lo := 12, w := 20, acc := .rw, kind := .cold, rst := 0, n := 15, s := 4, xs := [(0, 0x30), (1, 0x40), (2, 0x60), (3, 0x1000), (4, 0x1100), (5, 0x70), (6, 0xF0), (7, 0x20)], vmax := 1048575 }
def EVR_SLOT_STAT_USED : FRow := { bk := .evr, off := 0xC0, lo := 0, w := 8, acc := .ro, kind := .cold, rst := 0, vmax := 255 }
def EVR_SLOT_STAT_SIGNED : FRow := { bk := .evr, off := 0xC0, lo := 8, w := 8, acc := .ro, kind := .cold, rst := 0, vmax := 255 }
def SEC_LIFE_STATE : FRow := { bk := .sec, off := 0x40, lo := 0, w := 3, acc := .ro, kind := .por, rst := 0, vmax := 7 }
def SEC_LIFE_OWNER_SLOT : FRow := { bk := .sec, off := 0x40, lo := 4, w := 2, acc := .ro, kind := .por, rst := 0, vmax := 3 }
def SEC_LIFE_VENDOR_SLOT : FRow := { bk := .sec, off := 0x40, lo := 6, w := 1, acc := .ro, kind := .por, rst := 0, vmax := 1 }
def SEC_LIFE_DEBUG : FRow := { bk := .sec, off := 0x40, lo := 8, w := 1, acc := .ro, kind := .cold, rst := 0, vmax := 1 }
def SEC_STAT_OWN_SESSION : FRow := { bk := .sec, off := 0x44, lo := 0, w := 1, acc := .ro, kind := .cold, rst := 0, vmax := 1 }
def SEC_STAT_TRNG_FAIL : FRow := { bk := .sec, off := 0x44, lo := 1, w := 1, acc := .ro, kind := .cold, rst := 0, vmax := 1 }
def SEC_STAT_LOCKDOWN : FRow := { bk := .sec, off := 0x44, lo := 2, w := 1, acc := .ro, kind := .por, rst := 0, vmax := 1 }
def SEC_STAT_LD_CAUSE : FRow := { bk := .sec, off := 0x44, lo := 4, w := 3, acc := .ro, kind := .por, rst := 0, vmax := 7 }
def SEC_CMD_STAT_STATE : FRow := { bk := .sec, off := 0x4C, lo := 0, w := 2, acc := .ro, kind := .cold, rst := 0, vmax := 3 }
def SEC_CMD_STAT_RESULT : FRow := { bk := .sec, off := 0x4C, lo := 8, w := 8, acc := .ro, kind := .cold, rst := 0, vmax := 255 }
def SEC_OWN_CFG_IDLE : FRow := { bk := .sec, off := 0x50, lo := 0, w := 8, acc := .rw, kind := .cold, rst := 0xF, vmax := 255 }
def SEC_ARB_FW_SVN : FRow := { bk := .sec, off := 0x54, lo := 0, w := 16, acc := .ro, kind := .cold, rst := 0, vmax := 65535 }
def SEC_ARB_PROFILE_SVN : FRow := { bk := .sec, off := 0x54, lo := 16, w := 16, acc := .ro, kind := .cold, rst := 0, vmax := 65535 }
def SEC_TAMPER_CFG_GLITCH_V : FRow := { bk := .sec, off := 0x58, lo := 0, w := 1, acc := .rw, kind := .cold, rst := 1, vmax := 1, own := true }
def SEC_TAMPER_CFG_GLITCH_CLK : FRow := { bk := .sec, off := 0x58, lo := 1, w := 1, acc := .rw, kind := .cold, rst := 1, vmax := 1, own := true }
def SEC_FAIL_OWN : FRow := { bk := .sec, off := 0x5C, lo := 0, w := 16, acc := .rc, kind := .cold, rst := 0, vmax := 65535 }
def SEC_ID_HASH_HASH : FRow := { bk := .sec, off := 0x60, lo := 0, w := 32, acc := .ro, kind := .cold, rst := 0, n := 12, s := 4, vmax := 4294967295 }
def SEC_PEER_CFG_AUTO : FRow := { bk := .sec, off := 0xA0, lo := 0, w := 1, acc := .rw, kind := .cold, rst := 1, n := 8, s := 4, vmax := 1, own := true }
def SEC_PEER_CFG_OWNER_MATCH : FRow := { bk := .sec, off := 0xA0, lo := 1, w := 1, acc := .rw, kind := .cold, rst := 0, n := 8, s := 4, vmax := 1, own := true }
def SEC_PEER_CFG_TMO : FRow := { bk := .sec, off := 0xA0, lo := 8, w := 8, acc := .rw, kind := .cold, rst := 0x32, n := 8, s := 4, vmin := 1, vmax := 255, own := true }
def SEC_PEER_STAT_FAIL : FRow := { bk := .sec, off := 0xC0, lo := 0, w := 8, acc := .rc, kind := .cold, rst := 0, n := 8, s := 4, vmax := 255 }
def SEC_PEER_STAT_LAST_ALERT : FRow := { bk := .sec, off := 0xC0, lo := 8, w := 3, acc := .ro, kind := .cold, rst := 0, n := 8, s := 4, vmax := 7 }
def SEC_BUF_DATA : FRow := { bk := .sec, off := 0x100, lo := 0, w := 32, acc := .rw, kind := .cold, rst := 0, n := 64, s := 4, vmax := 4294967295 }
def CLK_STAT_MODE : FRow := { bk := .clk, off := 0x40, lo := 0, w := 2, acc := .ro, kind := .cold, rst := 3, vmax := 3 }
def CLK_STAT_REF_OK : FRow := { bk := .clk, off := 0x40, lo := 4, w := 1, acc := .ro, kind := .cold, rst := 0, vmax := 1 }
def CLK_STAT_REF_LOS : FRow := { bk := .clk, off := 0x40, lo := 5, w := 1, acc := .w1c, kind := .cold, rst := 0, vmax := 1 }
def CLK_STAT_BACKUP : FRow := { bk := .clk, off := 0x40, lo := 6, w := 1, acc := .ro, kind := .cold, rst := 0, vmax := 1 }
def CLK_REF_FREQ_FREQ : FRow := { bk := .clk, off := 0x44, lo := 0, w := 16, acc := .ro, kind := .cold, rst := 0, vmax := 65535 }
def CLK_REF_FREQ_VALID : FRow := { bk := .clk, off := 0x44, lo := 31, w := 1, acc := .ro, kind := .cold, rst := 0, vmax := 1 }

end Sys2Proof.Row

namespace Sys2Proof

/-- The rows of the common page header (R335). -/
def headerRows : List FRow :=
  [Row.BLK_CTRL_EN, Row.BLK_CTRL_WAKE_ON_ACCESS, Row.BLK_CTRL_EXPERT, Row.BLK_STAT_STATE, Row.BLK_STAT_RESTART_PENDING, Row.BLK_STAT_CONFLICT, Row.BLK_STAT_BUSY, Row.BLK_STAT_IN_RESET, Row.IRQ_RAW_RAW, Row.IRQ_EN_EN, Row.ERR_CAP_CODE, Row.ERR_CAP_REQ, Row.ERR_CAP_OFFSET, Row.CLAIM_OWNER]

/-- The rows of SHF beside the header. -/
def rowsShf : List FRow :=
  [Row.SHF_LANE_CFG_EN, Row.SHF_LANE_CFG_RATE, Row.SHF_LANE_CFG_MODE, Row.SHF_LANE_CFG_ASSIST,
   Row.SHF_LANE_CFG_DIM_REQ, Row.SHF_LANE_STATE_STATE, Row.SHF_LANE_STATE_PL_WAIT, Row.SHF_LANE_STATE_TX_DIM,
   Row.SHF_LANE_STATE_COAST_CANDLE, Row.SHF_LANE_STATE_BUSY, Row.SHF_LANE_FAULT_CAUSE,
   Row.SHF_SLICE_MAP_LANE_SLICE, Row.SHF_SLICE_MAP_RETIRED, Row.SHF_SLICE_MAP_SPARE_USED,
   Row.SHF_PLL_STAT_LINE_LOCK, Row.SHF_PLL_STAT_HOST_LOCK, Row.SHF_PLL_STAT_LINE_LOL,
   Row.SHF_PLL_STAT_HOST_LOL]

/-- The rows of LFR beside the header. -/
def rowsLfr : List FRow :=
  [Row.LFR_CFG_TX_PRECODE, Row.LFR_CFG_RX_PRECODE, Row.LFR_STAT_PILOT_LOCK, Row.LFR_STAT_SCR_LOCK,
   Row.LFR_STAT_RX_DIM, Row.LFR_STAT_TX_MARK, Row.LFR_TX_SFC_COUNT, Row.LFR_RX_SFC_COUNT,
   Row.LFR_PILOT_BAD_COUNT, Row.LFR_SFC_MISS_COUNT, Row.LFR_TEST_SCR_BYPASS_TX, Row.LFR_TEST_SCR_BYPASS_RX,
   Row.LFR_TEST_PILOT_TOL]

/-- The rows of LRX beside the header. -/
def rowsLrx : List FRow :=
  [Row.LRX_CFG_LOS_THR, Row.LRX_CFG_LOS_CLR, Row.LRX_STAT_LOS, Row.LRX_STAT_LOS_RAW, Row.LRX_STAT_AGC_DONE,
   Row.LRX_STAT_ADC_READY, Row.LRX_GAIN_CTLE, Row.LRX_GAIN_VGA, Row.LRX_CLIP_CNT_COUNT,
   Row.LRX_AFE_CTRL_CTLE_FREEZE, Row.LRX_AFE_CTRL_AGC_FREEZE, Row.LRX_AFE_CTRL_CTLE_FORCE,
   Row.LRX_AFE_CTRL_VGA_FORCE, Row.LRX_AFE_CTRL_AGC_TGT, Row.LRX_CORE_SEL_CORE]

/-- The rows of REQ beside the header. -/
def rowsReq : List FRow :=
  [Row.REQ_CFG_REACH, Row.REQ_CFG_ECHO_AUTO, Row.REQ_STAT_TR_LOCK, Row.REQ_STAT_FFE_CONV,
   Row.REQ_STAT_MLSE_ACTIVE, Row.REQ_STAT_MLSE_CONV, Row.REQ_STAT_PASS2_ACTIVE, Row.REQ_STAT_FROZEN,
   Row.REQ_SNR_SNR, Row.REQ_SNR_VALID, Row.REQ_SNR_MIN_SNR_MIN, Row.REQ_TR_FREQ_FREQ, Row.REQ_LVL_MEAN_MEAN,
   Row.REQ_LVL_SIGMA_SIGMA, Row.REQ_HIST_CFG_SRC, Row.REQ_HIST_CFG_LVL_EN, Row.REQ_HIST_CFG_LEVEL,
   Row.REQ_HIST_CFG_LEN, Row.REQ_HIST_STAT_BUSY, Row.REQ_HIST_STAT_DONE, Row.REQ_ADAPT_TR_FREEZE,
   Row.REQ_ADAPT_FFE_FREEZE, Row.REQ_ADAPT_ECHO_FREEZE, Row.REQ_ADAPT_LVL_FREEZE, Row.REQ_ADAPT_THR_FREEZE,
   Row.REQ_TR_LOOP_KP, Row.REQ_TR_LOOP_KI, Row.REQ_TR_LOOP_PHASE_OFS, Row.REQ_FFE_CTRL_MU, Row.REQ_MLSE_TGT_H1,
   Row.REQ_MLSE_TGT_H2, Row.REQ_SLICER_THR_T, Row.REQ_LVL_FORCE_MEAN, Row.REQ_LVL_FORCE_SIGMA,
   Row.REQ_HIST_BIN_COUNT]

/-- The rows of CAP beside the header. -/
def rowsCap : List FRow :=
  [Row.CAP_CFG_LANE_MASK, Row.CAP_CFG_SRC, Row.CAP_CFG_TRIG, Row.CAP_CFG_ALARM, Row.CAP_CFG_PRE,
   Row.CAP_DECIM_D, Row.CAP_FILL_PAT_PAT, Row.CAP_STAT_STATE, Row.CAP_STAT_WRAPPED, Row.CAP_TRIG_POS_OFFSET,
   Row.CAP_OLDEST_OFFSET, Row.CAP_END_OFFSET, Row.CAP_TRIG_TIME_TIME, Row.CAP_SF_POS_POSITION,
   Row.CAP_SF_POS_FRAME, Row.CAP_SF_POS_VALID, Row.CAP_SF_POS_SFC]

/-- The rows of IDEC beside the header. -/
def rowsIdec : List FRow :=
  [Row.IDEC_CFG_P2_POLICY, Row.IDEC_STAT_PASS, Row.IDEC_STAT_SD, Row.IDEC_STAT_SF, Row.IDEC_STAT_THROTTLED,
   Row.IDEC_STAT_STOPPED, Row.IDEC_SD_CFG_WIN, Row.IDEC_SD_CFG_SET_M, Row.IDEC_SD_CFG_SET_E,
   Row.IDEC_SD_CFG_CLR_M, Row.IDEC_SD_CFG_CLR_E, Row.IDEC_SD_CFG_CLR_WINS, Row.IDEC_SF_CFG_SET_M,
   Row.IDEC_SF_CFG_SET_E, Row.IDEC_SF_CFG_UNC, Row.IDEC_CW_COUNT, Row.IDEC_CORR_BITS_COUNT,
   Row.IDEC_UNCORR_COUNT, Row.IDEC_P2_RUN_COUNT, Row.IDEC_P2_SKIP_COUNT, Row.IDEC_P2_RESCUE_COUNT,
   Row.IDEC_WIN_CORR_COUNT, Row.IDEC_WIN_UNCORR_COUNT, Row.IDEC_WIN_STAT_VALID, Row.IDEC_WIN_STAT_THROTTLED,
   Row.IDEC_WIN_STAT_W, Row.IDEC_THROTTLE_PAUSE, Row.IDEC_SOFT_P1_TP, Row.IDEC_SOFT_P2_TP, Row.IDEC_SOFT_ALPHA,
   Row.IDEC_SOFT_BETA, Row.IDEC_FORCE_P2_OFF, Row.IDEC_FORCE_HARD]

/-- The rows of GBX beside the header. -/
def rowsGbx : List FRow :=
  [Row.GBX_HOST_CFG_MUX, Row.GBX_HOST_CFG_PORT_W, Row.GBX_HOST_CFG_TX_SWAP, Row.GBX_HOST_CFG_RX_SWAP,
   Row.GBX_HOST_CFG_IDLE, Row.GBX_HOST_CFG_LPI, Row.GBX_HOST_STAT_AM_LOCK, Row.GBX_HOST_STAT_RX_AM_LOCK,
   Row.GBX_HOST_STAT_TX_TRACK, Row.GBX_HOST_STAT_SKEW_ERR, Row.GBX_HOST_STAT_CFG_ERR,
   Row.GBX_HOST_STAT_DESKEWED, Row.GBX_HOST_STAT_TIMING_LANE, Row.GBX_SKEW_HOLD, Row.GBX_SLIP_CNT_COUNT,
   Row.GBX_AM_CFG_LOCK_N, Row.GBX_AM_CFG_LOSS_N, Row.GBX_AM_CFG_MAX_ERR, Row.GBX_OC_CFG_OBSERVE,
   Row.GBX_OC_CFG_MARK, Row.GBX_OC_STAT_CW_LOCK, Row.GBX_OC_STAT_LEAD, Row.GBX_OC_STAT_TWO_PORTS,
   Row.GBX_OC_STAT_CORRECTING, Row.GBX_OC_CW_COUNT, Row.GBX_OC_CORR_CW_COUNT, Row.GBX_OC_UNCORR_CW_COUNT,
   Row.GBX_OC_SYM_COUNT, Row.GBX_OC_LANE_SYM_COUNT, Row.GBX_OC_HIST_COUNT]

/-- The rows of TXP beside the header. -/
def rowsTxp : List FRow :=
  [Row.TXP_CFG_FIR_AUTO, Row.TXP_CFG_PD_AUTO, Row.TXP_PAT_SEL, Row.TXP_PAT_HALF, Row.TXP_PAT_LEVEL,
   Row.TXP_STAT_PATTERN, Row.TXP_STAT_FILL, Row.TXP_STAT_AUTO_RUN, Row.TXP_SAT_CNT_COUNT]

/-- The rows of LTX beside the header. -/
def rowsLtx : List FRow :=
  [Row.LTX_CFG_FS, Row.LTX_CFG_SQUELCH, Row.LTX_CFG_POL_INV, Row.LTX_STAT_READY, Row.LTX_STAT_SWING,
   Row.LTX_STAT_FS_RAMP, Row.LTX_LDIS_DIS, Row.LTX_LDIS_AUTO, Row.LTX_LDIS_TRIP, Row.LTX_LDIS_TRIP_ACTIVE,
   Row.LTX_LDIS_HOLD, Row.LTX_LDIS_PIN]

/-- The rows of HSD beside the header. -/
def rowsHsd : List FRow :=
  [Row.HSD_CFG_EN, Row.HSD_CFG_SQUELCH, Row.HSD_CFG_RX_INV, Row.HSD_CFG_TX_INV, Row.HSD_STAT_LOS,
   Row.HSD_STAT_CDR_LOCK, Row.HSD_STAT_ACTIVE, Row.HSD_STAT_RX_EQ_DONE, Row.HSD_STAT_TXCLK_REC,
   Row.HSD_STAT_FREQ, Row.HSD_TX_EQ_PRE2, Row.HSD_TX_EQ_PRE1, Row.HSD_TX_EQ_POST1, Row.HSD_TX_EQ_SWING,
   Row.HSD_TRAIN_EN, Row.HSD_TRAIN_TIMEOUT, Row.HSD_TRAIN_STATE, Row.HSD_PRBS_CFG_CHK, Row.HSD_PRBS_CFG_GEN,
   Row.HSD_PRBS_STAT_LOCK, Row.HSD_PRBS_STAT_LOST, Row.HSD_PRBS_ERR_COUNT, Row.HSD_PRBS_BITS_COUNT,
   Row.HSD_RX_EQ_FREEZE, Row.HSD_RX_EQ_CTLE, Row.HSD_RX_EQ_DFE1, Row.HSD_RX_FFE_COEF]

/-- The rows of CAL beside the header. -/
def rowsCal : List FRow :=
  [Row.CAL_CFG_WIN_LOG2, Row.CAL_CFG_AGREE, Row.CAL_CFG_CONV, Row.CAL_CFG_MAX_STEP, Row.CAL_CFG_ANCHOR_EN,
   Row.CAL_CFG_TEMP_TRIG, Row.CAL_SCHED_MODE, Row.CAL_SCHED_ALARM, Row.CAL_SCHED_INTERVAL,
   Row.CAL_STAT_STARTUP_DONE, Row.CAL_STAT_STARTUP_PARTIAL, Row.CAL_STAT_THROTTLED, Row.CAL_STAT_ANCHOR_BUSY,
   Row.CAL_STAT_VREF_BAD, Row.CAL_STAT_SAVE_BUSY, Row.CAL_STAT_ANCHOR_UNSTABLE, Row.CAL_STAT_ANCHOR_LIMIT,
   Row.CAL_ROUND_OVERLAP_COUNT, Row.CAL_LANE_CFG_FG_REQ, Row.CAL_LANE_CFG_ADC_EN, Row.CAL_LANE_CFG_DAC_EN,
   Row.CAL_LANE_STAT_FG_DONE, Row.CAL_LANE_STAT_MEASURING, Row.CAL_LANE_STAT_APPLYING, Row.CAL_LANE_STAT_HELD,
   Row.CAL_LANE_STAT_FG_CONV, Row.CAL_LANE_STAT_UNSTABLE, Row.CAL_LANE_STAT_LIMIT, Row.CAL_REC_SEL_LANE,
   Row.CAL_REC_SEL_ITEM, Row.CAL_REC_RUNS_COUNT, Row.CAL_REC_APPLIED_COUNT, Row.CAL_REC_DISAGREE_COUNT,
   Row.CAL_REC_DISCARD_COUNT, Row.CAL_REC_LAST_STEP, Row.CAL_REC_LAST_VALID, Row.CAL_REC_TIME_TIME,
   Row.CAL_DAC_SEL_LANE, Row.CAL_DAC_SEL_CELL, Row.CAL_REF_TRIM_ADC_REF, Row.CAL_REF_TRIM_DAC_REF]

/-- The rows of TIM beside the header. -/
def rowsTim : List FRow :=
  [Row.TIM_CFG_TREF_FREQ, Row.TIM_CFG_SECURE_TIME, Row.TIM_STAT_QUAL, Row.TIM_STAT_SRC_ACTIVE,
   Row.TIM_STAT_FINE_READY, Row.TIM_STAT_TREF_OK, Row.TIM_STAT_KEPT, Row.TIM_STAT_CAL_OK,
   Row.TIM_STAT_TEMP_VALID, Row.TIM_STAT_TABLE_MISS, Row.TIM_STAT_TREF_LOS, Row.TIM_STAT_RC_USED,
   Row.TIM_TIME_TIME, Row.TIM_SET_TIME, Row.TIM_STEP_STEP, Row.TIM_SERVO_CFG_SRC, Row.TIM_SERVO_CFG_LANE,
   Row.TIM_SERVO_CFG_AUTO_HOLD, Row.TIM_SERVO_CFG_AUTO_REVERT, Row.TIM_SERVO_CFG_STEP_EN,
   Row.TIM_SERVO_CFG_TMO, Row.TIM_SERVO_LIM_LOCK_THR, Row.TIM_SERVO_LIM_DLY_TOL, Row.TIM_SERVO_LIM_STEP_THR,
   Row.TIM_OFS_LAST_THETA, Row.TIM_DLY_LAST_DELAY, Row.TIM_ASYM_ASYM, Row.TIM_FREQ_RATE,
   Row.TIM_SRC_DISCARD_DELAY, Row.TIM_SRC_DISCARD_UNAUTH, Row.TIM_PPS_IN_EN, Row.TIM_PPS_IN_EDGE,
   Row.TIM_PPS_IN_DLY, Row.TIM_PPS_OUT_EN, Row.TIM_PPS_OUT_POL, Row.TIM_PPS_OUT_GATE, Row.TIM_PPS_OUT_ALARM,
   Row.TIM_PPS_OUT_WIDTH, Row.TIM_PPS_OUT_OFS_OFS, Row.TIM_HOLD_SECONDS, Row.TIM_HOLD_EST_NS,
   Row.TIM_HOLD_LIM_NS, Row.TIM_PPS_IN_TS_TIME, Row.TIM_ALM_FIRED_FIRED, Row.TIM_ALM_IRQ_EN_EN,
   Row.TIM_SFTS_SEL_LANE, Row.TIM_SFTS_SEL_DIR, Row.TIM_SFTS_SFC_SFC, Row.TIM_SFTS_TIME_TIME,
   Row.TIM_LAT_TX_PS, Row.TIM_LAT_TX_VALID, Row.TIM_LAT_RX_PS, Row.TIM_LAT_RX_VALID, Row.TIM_PLANE_TX_OFS,
   Row.TIM_PLANE_RX_OFS, Row.TIM_OSC_CFG_LEARN_EN, Row.TIM_OSC_CFG_PRED_EN, Row.TIM_OSC_CFG_UPD,
   Row.TIM_OSC_CFG_K, Row.TIM_OSC_CFG_EPOCH_DAYS, Row.TIM_OSC_STAT_EPOCH, Row.TIM_OSC_STAT_BIN,
   Row.TIM_OSC_STAT_IN_RANGE, Row.TIM_OSC_STAT_LEARNING, Row.TIM_OSC_AGING_A, Row.TIM_TEMP_CFG_SRC,
   Row.TIM_TEMP_CFG_CHAIN, Row.TIM_TEMP_CFG_OFS, Row.TIM_TEMP_GAIN_GAIN, Row.TIM_TEMP_HOST_T, Row.TIM_TEMP_T,
   Row.TIM_TEMP_VALID, Row.TIM_ALM_NSEC_NSEC, Row.TIM_ALM_SEC_SEC_LO, Row.TIM_ALM_CTRL_SEC_HI,
   Row.TIM_ALM_CTRL_EN, Row.TIM_ALM_CTRL_OWNER, Row.TIM_ALM_CTRL_LATE, Row.TIM_ALM_CTRL_STEPPED,
   Row.TIM_ALM_CTRL_MISSED, Row.TIM_ALM_PERIOD_PERIOD, Row.TIM_SERVO_GAIN_KP, Row.TIM_SERVO_GAIN_KI,
   Row.TIM_SERVO_GAIN_SLEW]

/-- The rows of MSG beside the header. -/
def rowsMsg : List FRow :=
  [Row.MSG_LANE_CFG_EN, Row.MSG_LANE_CFG_ROLE, Row.MSG_LANE_CFG_BOND, Row.MSG_LANE_STAT_LINK_UP,
   Row.MSG_LANE_STAT_PEER_ROLE, Row.MSG_LANE_STAT_ROLE_CONFLICT, Row.MSG_LANE_STAT_BOND_ERR,
   Row.MSG_LANE_STAT_SESSION, Row.MSG_LANE_STAT_PEER_RX_STATE, Row.MSG_LANE_STAT_PEER_TX_PRECODE,
   Row.MSG_LANE_STAT_PEER_RX_PRECODE, Row.MSG_LANE_STAT_PEER_FVER, Row.MSG_LANE_STAT_PEER_CAP,
   Row.MSG_LANE_STAT_PEER_HOPS, Row.MSG_LANE_STAT_PEER_QUAL, Row.MSG_TIME_CFG_EN, Row.MSG_TIME_CFG_PERIOD,
   Row.MSG_TIME_CFG_ACCEPT, Row.MSG_TIME_STAT_HOPS, Row.MSG_TIME_DISCARD_NOMATCH, Row.MSG_TIME_DISCARD_HOPS,
   Row.MSG_TIME_DISCARD_QUAL, Row.MSG_Q_CFG_EN, Row.MSG_Q_CFG_LANE, Row.MSG_Q_CFG_LATE_SEND,
   Row.MSG_Q_CFG_GATE, Row.MSG_Q_CFG_ALARM, Row.MSG_Q_STAT_DEPTH, Row.MSG_Q_STAT_HEAD_DUE, Row.MSG_Q_STAT_LATE,
   Row.MSG_TX_LAUNCH_TIME, Row.MSG_TX_RESULT_CODE, Row.MSG_TS_STAT_COUNT, Row.MSG_TS_STAT_OVF,
   Row.MSG_TS_STAT_OVF_CNT, Row.MSG_TS_ENTRY_ID, Row.MSG_TS_ENTRY_LANE, Row.MSG_TS_ENTRY_STATUS,
   Row.MSG_TS_ENTRY_VALID, Row.MSG_TS_ENTRY1_SFC, Row.MSG_TS_ENTRY2_TIME, Row.MSG_RX_STAT_COUNT,
   Row.MSG_RX_STAT_OVF, Row.MSG_RX_STAT_OVF_CNT, Row.MSG_RX_HEAD_TYPE, Row.MSG_RX_HEAD_CELLS,
   Row.MSG_RX_HEAD_LANE, Row.MSG_RX_HEAD_AUTH, Row.MSG_RX_HEAD_LATE, Row.MSG_RX_HEAD_VALID,
   Row.MSG_RX_TIME_TIME, Row.MSG_RX_SFC_SFC, Row.MSG_ERR_CRC, Row.MSG_ERR_DISCARD, Row.MSG_ERR2_AUTH_FAIL,
   Row.MSG_ERR2_UNKNOWN, Row.MSG_REMOTE_POLICY_CLASSES, Row.MSG_REMOTE_STAT_BUSY, Row.MSG_REMOTE_STAT_DENIED,
   Row.MSG_TEST_LANE, Row.MSG_TX_DATA_WORD, Row.MSG_RX_DATA_WORD]

/-- The rows of MADC beside the header. -/
def rowsMadc : List FRow :=
  [Row.MADC_REF_EN, Row.MADC_REF_SETTLED, Row.MADC_CFG_PAIR, Row.MADC_CFG_PAIR_CHAIN, Row.MADC_RAW_CFG_EN,
   Row.MADC_RAW_CFG_DIV, Row.MADC_RAW_CFG_PHASE, Row.MADC_RAW_CFG_INPUT, Row.MADC_RAW_CFG_GAIN,
   Row.MADC_DATA_CODE, Row.MADC_DATA_NEW, Row.MADC_DATA_OVR, Row.MADC_DATA_REF_UNSETTLED]

/-- The rows of MFIL beside the header. -/
def rowsMfil : List FRow :=
  [Row.MFIL_CFG_EN, Row.MFIL_CFG_CONV, Row.MFIL_CFG_DIV, Row.MFIL_CFG_PHASE, Row.MFIL_CFG_INPUT,
   Row.MFIL_CFG_GAIN, Row.MFIL_CFG_PRESET, Row.MFIL_CFG_MINPH, Row.MFIL_CFG_S1_MODE, Row.MFIL_CFG_MA_LEN,
   Row.MFIL_GRID_RES_EN, Row.MFIL_GRID_ALARM, Row.MFIL_STAT_SETTLING, Row.MFIL_STAT_STARVED,
   Row.MFIL_STAT_GRID_FAST, Row.MFIL_RES_VALUE, Row.MFIL_RES_VALID, Row.MFIL_RES_NEW, Row.MFIL_RES_OVR,
   Row.MFIL_RES_REF_UNSETTLED, Row.MFIL_RES_T_TIME, Row.MFIL_LIM_CFG_EN, Row.MFIL_LIM_CFG_DIR,
   Row.MFIL_LIM_CFG_CNT, Row.MFIL_LIM_CFG_LDIS, Row.MFIL_LIM_CFG_ACTIVE, Row.MFIL_LIM_CFG_TRIPPED,
   Row.MFIL_LIM_CFG_HYST, Row.MFIL_LIM_THR_THR]

/-- The rows of CDAC beside the header. -/
def rowsCdac : List FRow :=
  [Row.CDAC_STAT_LOADED, Row.CDAC_STAT_TABLE_OK, Row.CDAC_CODE_CODE, Row.CDAC_CH_CFG_SPAN,
   Row.CDAC_CH_CFG_SLEW, Row.CDAC_CH_CFG_TRIP_MASK, Row.CDAC_CH_STAT_STATE, Row.CDAC_CH_STAT_RAMPING,
   Row.CDAC_CH_STAT_CAUSE_THERMAL, Row.CDAC_CH_STAT_CAUSE_LOCKDOWN, Row.CDAC_CH_STAT_CAUSE_TRIP,
   Row.CDAC_CH_STAT_CAUSE_SOFT, Row.CDAC_CH_STAT_OUT, Row.CDAC_PU_CODE, Row.CDAC_FV_CODE]

/-- The rows of MGT beside the header. -/
def rowsMgt : List FRow :=
  [Row.MGT_SPI_CFG_DUMMY, Row.MGT_PORT_STAT_PW_SPI, Row.MGT_PORT_STAT_PW_I3C, Row.MGT_PORT_STAT_SPLIT_SPI,
   Row.MGT_PORT_STAT_SPLIT_I3C, Row.MGT_PORT_STAT_DA_VALID, Row.MGT_PORT_STAT_DA, Row.MGT_PW_ERR_CODE,
   Row.MGT_PW_ERR_PORT, Row.MGT_PW_ERR_VALID, Row.MGT_PW_ERR_ADDR_ADDR, Row.MGT_PW_ERR_CNT_COUNT,
   Row.MGT_WAKE_HOLD, Row.MGT_MAC_FAIL_COUNT, Row.MGT_OWNER_CTR_COUNT, Row.MGT_WICK_STATIC,
   Row.MGT_WICK_DYNAMIC]

/-- The rows of PIN beside the header. -/
def rowsPin : List FRow :=
  [Row.PIN_GPIO_CFG_FUNC, Row.PIN_GPIO_CFG_DIR, Row.PIN_GPIO_CFG_OUT, Row.PIN_GPIO_CFG_IN,
   Row.PIN_GPIO_CFG_SEL, Row.PIN_GPIO_CFG_IRQ_EDGE, Row.PIN_GPIO_CFG_OWNER]

/-- The rows of IRQ beside the header. -/
def rowsIrq : List FRow :=
  [Row.IRQ_CTRL_INT_EN, Row.IRQ_CTRL_ALARM_EN, Row.IRQ_PIN_INT, Row.IRQ_PIN_ALARM, Row.IRQ_SUM_DEV_BLOCKS,
   Row.IRQ_SUM_SHEAF_BLOCKS, Row.IRQ_SUM_LANE_LANES, Row.IRQ_SUM_HOST_LANES, Row.IRQ_ROUTE_SEL_INDEX,
   Row.IRQ_ROUTE_SEL_BIT]

/-- The rows of FWC beside the header. -/
def rowsFwc : List FRow :=
  [Row.FWC_STAT_RUNNING, Row.FWC_STAT_BANK, Row.FWC_STAT_ABORTED, Row.FWC_MBX_RESULT_CODE,
   Row.FWC_MBX_SLOT_STATE, Row.FWC_MBX_SLOT_OPCODE, Row.FWC_MBX_SLOT_RESULT, Row.FWC_MBX_SLOT_RLEN,
   Row.FWC_MBX_SLOT_OWNER, Row.FWC_MBX_BUF_WORD]

/-- The rows of PWR beside the header. -/
def rowsPwr : List FRow :=
  [Row.PWR_STATE_REQ_TARGET, Row.PWR_STATE_STATE, Row.PWR_STATE_BUSY, Row.PWR_STATE_TARGET,
   Row.PWR_STATE_PEND_VALID, Row.PWR_STATE_PEND, Row.PWR_STATE_CAUSE, Row.PWR_REFUSE_INDEX,
   Row.PWR_REFUSE_CAUSE, Row.PWR_REFUSE_LEVEL, Row.PWR_PL_CFG_REQ, Row.PWR_PL_CFG_AUTO, Row.PWR_PL_CFG_MIN,
   Row.PWR_PL_STAT_LEVEL, Row.PWR_PL_STAT_BUSY, Row.PWR_PL_STAT_TARGET, Row.PWR_PL_STAT_NEED,
   Row.PWR_PL_STAT_AVS_ERR, Row.PWR_PL_VOLT_V, Row.PWR_AVS_CFG_CLK, Row.PWR_AVS_CFG_RAIL,
   Row.PWR_AVS_CFG_SETTLE, Row.PWR_STAT_BURST_MISS, Row.PWR_WAKE_EN_PIN, Row.PWR_WAKE_EN_WICK,
   Row.PWR_WAKE_EN_ALM_EN, Row.PWR_WAKE_EN_ALARM, Row.PWR_WAKE_STAT_PIN, Row.PWR_WAKE_STAT_WICK,
   Row.PWR_WAKE_STAT_ALARM, Row.PWR_WAKE_STAT_VIO, Row.PWR_WAKE_STAT_REQ, Row.PWR_WAKE_STAT_EDGE_LOST,
   Row.PWR_RAIL_STAT_OK, Row.PWR_RAIL_STAT_ON_VBAK, Row.PWR_RAIL_STAT_UV, Row.PWR_SWITCH_COUNT]

/-- The rows of RST beside the header. -/
def rowsRst : List FRow :=
  [Row.RST_CTRL_SHEAF, Row.RST_CAUSE_POR, Row.RST_CAUSE_COLD_SUPPLY, Row.RST_CAUSE_COLD_SWITCH,
   Row.RST_CAUSE_PIN, Row.RST_CAUSE_GLOBAL, Row.RST_CAUSE_WARM, Row.RST_CAUSE_WDT, Row.RST_CAUSE_TIMEKEEP,
   Row.RST_CAUSE_SHEAF, Row.RST_STAT_PHASE, Row.RST_STAT_HOLD_THERMAL, Row.RST_STAT_HOLD_LOCKDOWN,
   Row.RST_STAT_STRAP_ERR, Row.RST_STAT_BANK_FALLBACK, Row.RST_STAT_LBIST_RUN, Row.RST_STRAP_BOOT,
   Row.RST_STRAP_CLKMODE, Row.RST_STRAP_ADDR, Row.RST_WDT_CFG_TIMEOUT, Row.RST_WDT_CFG_RUNNING,
   Row.RST_BOOT_STAT_ERROR, Row.RST_BOOT_STAT_WINDOW]

/-- The rows of MEM beside the header. -/
def rowsMem : List FRow :=
  [Row.MEM_ECC_STAT_CE_SEEN, Row.MEM_ECC_STAT_UE_SEEN, Row.MEM_ECC_STAT_ADDR_FAULT, Row.MEM_ECC_CE_CNT_COUNT,
   Row.MEM_ECC_UE_CNT_COUNT, Row.MEM_ECC_LAST_MEMID, Row.MEM_ECC_LAST_ADDR, Row.MEM_ECC_LAST_ADDR_WORD,
   Row.MEM_SCRUB_EN, Row.MEM_SCRUB_PERIOD, Row.MEM_MARCH_CTRL_MEMID, Row.MEM_MARCH_CTRL_PRESERVE,
   Row.MEM_MARCH_STAT_STATE, Row.MEM_MARCH_STAT_ROWS_REPAIRED, Row.MEM_MARCH_STAT_NO_SPARE,
   Row.MEM_REPAIR_STAT_RECORDS, Row.MEM_REPAIR_STAT_FULL, Row.MEM_INJ_ADDR_WORD, Row.MEM_INJ_CTRL_MODE]

/-- The rows of NVS beside the header. -/
def rowsNvs : List FRow :=
  [Row.NVS_STAT_BUSY, Row.NVS_STAT_WRITER, Row.NVS_CMD_ADDR_OFFSET, Row.NVS_CMD_DATA_DATA,
   Row.NVS_CMD_STAT_STATE, Row.NVS_CMD_STAT_ERR, Row.NVS_ERR_CNT_VERIFY_FAIL, Row.NVS_ERR_CNT_UE_READ,
   Row.NVS_CE_CNT_COUNT]

/-- The rows of TST beside the header. -/
def rowsTst : List FRow :=
  [Row.TST_LBIST_STAT_RAN, Row.TST_LBIST_STAT_CENTRAL_FAIL, Row.TST_LBIST_STAT_SHEAF_FAIL,
   Row.TST_LBIST_STAT_SLICE_FAIL, Row.TST_CFG_LBIST_BOOT, Row.TST_CFG_ONCE]

/-- The rows of THM beside the header. -/
def rowsThm : List FRow :=
  [Row.THM_CFG_COMPAT, Row.THM_LEVEL_CFG_WARN, Row.THM_LEVEL_CFG_THROTTLE, Row.THM_LEVEL_CFG_SHUT,
   Row.THM_LEVEL_CFG_HYST, Row.THM_THROTTLE_P2_PAUSE, Row.THM_THROTTLE_BG_PAUSE, Row.THM_THROTTLE_FORCE,
   Row.THM_STAT_WARN, Row.THM_STAT_THROTTLE, Row.THM_STAT_FORCED, Row.THM_STAT_SHUTDOWN,
   Row.THM_STAT_THROTTLING, Row.THM_STAT_VALID_CNT, Row.THM_HOT_T, Row.THM_HOT_SENSOR, Row.THM_CENTRAL_T,
   Row.THM_SENSOR_STAT_BROKEN, Row.THM_SHUT_REC_SENSOR, Row.THM_SHUT_REC_BY_SHUT, Row.THM_SHUT_REC_T,
   Row.THM_TEMP_T, Row.THM_TEMP_VALID, Row.THM_TEMP_CAUSE]

/-- The rows of PMC beside the header. -/
def rowsPmc : List FRow :=
  [Row.PMC_ACCESS_OPEN_READ, Row.PMC_CTRL_FREEZE, Row.PMC_SNAP_CFG_ALM_EN, Row.PMC_SNAP_CFG_ALARM,
   Row.PMC_SNAP_CFG_OVF_SNAP, Row.PMC_SNAP_STAT_BUSY, Row.PMC_SNAP_STAT_DELAYED, Row.PMC_SNAP_STAT_OVERLAP,
   Row.PMC_SNAP_STAT_SEQ, Row.PMC_SNAP_TIME_TIME, Row.PMC_SEL_INDEX, Row.PMC_SNAP_BUF_COUNT]

/-- The rows of EVR beside the header. -/
def rowsEvr : List FRow :=
  [Row.EVR_CFG_KEEP_FIRST, Row.EVR_CFG_TRIG_UE, Row.EVR_CFG_TRIG_WDT, Row.EVR_CFG_HOLDOFF, Row.EVR_STAT_BUSY,
   Row.EVR_STAT_PENDING, Row.EVR_STAT_LAST_SLOT, Row.EVR_STAT_LAST_TRIG, Row.EVR_SEQ_SEQ, Row.EVR_WR_IDX_INDEX,
   Row.EVR_WR_IDX_WRAPPED, Row.EVR_RD_IDX_INDEX, Row.EVR_RD_IDX_UE, Row.EVR_RD_DATA_ENTRY,
   Row.EVR_LOG_DATA_DATA, Row.EVR_LOST_COUNT, Row.EVR_SUPPRESS_COUNT, Row.EVR_DISCARD_COUNT,
   Row.EVR_SNAP_PAGE_EN, Row.EVR_SNAP_PAGE_PAGE, Row.EVR_SLOT_STAT_USED, Row.EVR_SLOT_STAT_SIGNED]

/-- The rows of SEC beside the header. -/
def rowsSec : List FRow :=
  [Row.SEC_LIFE_STATE, Row.SEC_LIFE_OWNER_SLOT, Row.SEC_LIFE_VENDOR_SLOT, Row.SEC_LIFE_DEBUG,
   Row.SEC_STAT_OWN_SESSION, Row.SEC_STAT_TRNG_FAIL, Row.SEC_STAT_LOCKDOWN, Row.SEC_STAT_LD_CAUSE,
   Row.SEC_CMD_STAT_STATE, Row.SEC_CMD_STAT_RESULT, Row.SEC_OWN_CFG_IDLE, Row.SEC_ARB_FW_SVN,
   Row.SEC_ARB_PROFILE_SVN, Row.SEC_TAMPER_CFG_GLITCH_V, Row.SEC_TAMPER_CFG_GLITCH_CLK, Row.SEC_FAIL_OWN,
   Row.SEC_ID_HASH_HASH, Row.SEC_PEER_CFG_AUTO, Row.SEC_PEER_CFG_OWNER_MATCH, Row.SEC_PEER_CFG_TMO,
   Row.SEC_PEER_STAT_FAIL, Row.SEC_PEER_STAT_LAST_ALERT, Row.SEC_BUF_DATA]

/-- The rows of CLK beside the header. -/
def rowsClk : List FRow :=
  [Row.CLK_STAT_MODE, Row.CLK_STAT_REF_OK, Row.CLK_STAT_REF_LOS, Row.CLK_STAT_BACKUP, Row.CLK_REF_FREQ_FREQ,
   Row.CLK_REF_FREQ_VALID]

/-- The rows of a block beside the header. -/
def rowsOf : BK → List FRow
  | .mgt => rowsMgt
  | .fwc => rowsFwc
  | .irq => rowsIrq
  | .rst => rowsRst
  | .pwr => rowsPwr
  | .clk => rowsClk
  | .thm => rowsThm
  | .tim => rowsTim
  | .msg => rowsMsg
  | .cal => rowsCal
  | .madc => rowsMadc
  | .mfil => rowsMfil
  | .cdac => rowsCdac
  | .sec => rowsSec
  | .nvs => rowsNvs
  | .mem => rowsMem
  | .tst => rowsTst
  | .pmc => rowsPmc
  | .evr => rowsEvr
  | .pin => rowsPin
  | .shf => rowsShf
  | .cap => rowsCap
  | .hsd => rowsHsd
  | .lrx => rowsLrx
  | .req => rowsReq
  | .idec => rowsIdec
  | .gbx => rowsGbx
  | .txp => rowsTxp
  | .lfr => rowsLfr
  | .ltx => rowsLtx

end Sys2Proof
end

