-- ==== Sys2Proof/Machine/State.lean ====
section
/-!
DEFINITION. The state of the LN3280: the register file, the memories, Lantern time, and the internal state that the
chapters name, and the state right after reset.
-/

namespace Sys2Proof.Machine

open Sys2Proof

/-- The faults of the model. The device itself has none: it answers errors with status codes and latched bits. -/
inductive Fault where
  /-- A command's block operand names a block that the device does not have. Raised by the commands that take a block.
  Safe: the device has no such command. -/
  | noSuchTarget
  deriving DecidableEq, Repr

/-- Why a command is refused. -/
inductive Refusal where
  /-- The command has no meaning in this model yet. Safe: nothing is claimed about it. Raised by the dispatch. -/
  | notModelled (mnemonic : String)
  deriving DecidableEq, Repr

/-- The status codes of a transaction (R345). -/
inductive Status where
  | ok | retry | wait | errAddr | errDomain | errEcc | errAccess | errIsolated | errCrc | errLocked
  deriving DecidableEq, Repr

/-- A numeric map: keys strictly rising, no entry at the value an absent key stands for. -/
abbrev NatMap := List (Nat × Nat)

/-- A write that a port has accepted and not executed (R343). -/
structure PostedWrite where
  owner : Bool
  addr : Nat
  data : List Nat
  deriving DecidableEq, Repr

/-- A posted read and, once performed, its answer; `ahead` counts the writes accepted before it that have not executed
(R342, R343). -/
structure SplitRead where
  tag : Nat
  addr : Nat
  count : Nat
  ahead : Nat
  answer : Option (Status × List Nat)
  deriving DecidableEq, Repr

/-- What a port answers: nothing, or a status and words (R340, R345). -/
structure Response where
  status : Status
  data : List Nat
  deriving DecidableEq, Repr

/-- The I3C transaction whose private read has not come (R346). -/
inductive I3cWaiting where
  | fixed (r : Response)
  | read (addr count : Nat)
  | fetch (tag count : Nat)
  | sync
  deriving DecidableEq, Repr

/-- A management port: its posted queue, split tags, SYNC record and last response (R342, R343, R344). -/
structure Port where
  queue : List PostedWrite
  tags : List SplitRead
  failure : Option Status
  response : Option Response
  waiting : Option I3cWaiting
  deriving DecidableEq, Repr

/-- What the I3C target holds beside its dynamic address, and the bytes of its last answer to a GET CCC (R346). -/
structure I3cTarget where
  maxWrite : Nat
  maxRead : Nat
  events : Nat
  answer : List Nat
  deriving DecidableEq, Repr

/-- A domain that an access woke, and whether it is ready (R347). -/
structure WokenDomain where
  domain : Domain
  ready : Bool
  deriving DecidableEq, Repr

/-- A Stub event before it is accepted into the ring (R449): time is in 2^-16 ns. -/
structure StubEvent where
  block : Nat
  inst : Nat
  code : Nat
  data : Nat
  time : Nat
  power : Nat
  timeValid : Bool
  /-- The events dropped before it, which its LOST entry tells (R449, R450). -/
  lost : Nat
  deriving DecidableEq, Repr

/-- Which reset sources are asserted; SHEAF and BLOCK are register fields (R389). `supply`, `switch` and `timekeep`
are the three causes of COLD; `waiting` is set from the assertion of any source of COLD reach to the release of the
last. `leaving` says that the next start-up ends TIMEKEEP, and `wick` that a Wick wake began it (R348). -/
structure ResetSources where
  por : Bool
  supply : Bool
  switch : Bool
  timekeep : Bool
  pin : Bool
  global : Bool
  warm : Bool
  wdt : Bool
  waiting : Bool
  leaving : Bool
  wick : Bool
  deriving DecidableEq, Repr

/-- Where a line transmitter is in the DIM structure (R64 to R67). -/
inductive DimPhase where
  | full | marker | dim | burst
  deriving DecidableEq, Repr

/-- Why a line transmitter holds its output: none, a rate change or a slice change (R152, R153). -/
inductive TxHold where
  | none | ratePending | rate | slice
  deriving DecidableEq, Repr

/-- The transmit direction of a line lane: its superframe timing, the frame it builds next, the values in effect
and the last frame it sent (R47, R67, R149 to R168). -/
structure TxLane where
  /-- The superframe timing runs (R151). -/
  running : Bool
  hold : TxHold
  /-- The next frame of the superframe, 256 after the last. -/
  frame : Nat
  /-- The scrambler register (R48). -/
  scrambler : Nat
  /-- The overhead bytes of the superframe, by frame (R47, R52). -/
  overhead : List Nat
  /-- The last 12 symbol positions, none where nothing was sent. -/
  history : List (Option Nat)
  /-- The 1,472 positions of the last frame. -/
  symbols : List (Option Nat)
  /-- The last DAC codes and the output voltages that they give, in 1/512 mV: 1,472, six symbols behind the last
  frame, or the six that remained when the output went to common mode (R156, R159). -/
  codes : List (Option Int)
  volts : List (Option Int)
  /-- Symbols sent in the current data-path clock of 160 (R77, R156). -/
  clock : Nat
  /-- The saturation count rose in this superframe (R156). -/
  saturated : Bool
  dim : DimPhase
  /-- The transmitter leaves DIM as if DIM_REQ had returned to 0 (R67). -/
  leaveDim : Bool
  /-- No swing: squelched, or waiting for the boundary at which swing resumes (R162). -/
  mute : Bool
  /-- A COMMIT waits for the next frame boundary (R157). -/
  commit : Bool
  /-- The test pattern in effect: SEL, HALF, LEVEL and the symbols sent of it (R167). -/
  patSel : Nat
  patHalf : Nat
  patLevel : Nat
  patPos : Nat
  /-- Precoding in effect (R63). -/
  precoded : Bool
  /-- The live FS and polarity (R160, R161). -/
  fs : Nat
  inverted : Bool
  /-- The saturated state of the data-path clock in progress, and the shape that the last frame was sent with: taps,
  main tap, level step and predistortion (R155, R156). -/
  clockSat : Bool
  lastTaps : List Int
  lastMain : Nat
  lastStep : Nat
  lastPd : List Int
  /-- The full scale and polarity that the last frame was sent with (R160, R161). -/
  lastFs : Nat
  lastInverted : Bool
  deriving DecidableEq, Repr

/-- What a measurement window has accumulated of one level: symbols, the sum of their equalised samples, and the sum of
their squared errors in 2^-28 (R106). -/
structure LevelSum where
  count : Nat
  sum : Int
  square : Nat
  deriving DecidableEq, Repr

/-- What the Gleaner accumulates of one core: symbols, and the sums of the difference d of the sample and the mean of
its decided level, of d times that mean, of that mean squared, of d times the slope, and of the slope squared, in 1/16
code (R209). -/
structure CoreSum where
  count : Nat
  d : Int
  dMean : Int
  mean2 : Int
  dSlope : Int
  slope2 : Int
  deriving DecidableEq, Repr

def CoreSum.zero : CoreSum := ⟨0, 0, 0, 0, 0, 0⟩

/-- What the Gleaner accumulates of one sub-converter: symbols and sums of the samples at pilot levels 0 and 3 (R210).
-/
structure SubSum where
  n0 : Nat
  sum0 : Int
  n3 : Nat
  sum3 : Int
  deriving DecidableEq, Repr

def SubSum.zero : SubSum := ⟨0, 0, 0, 0⟩

/-- The receive direction of a line lane: what its rules count and the values in effect (R44 to R69, R76 to R108). -/
structure RxLane where
  /-- Consecutive good and bad pilot fields and the phase of the last (R45). -/
  goodRun : Nat
  badRun : Nat
  phase : Nat
  /-- Good complemented fields among frames 248–255 of this superframe (R69). -/
  complemented : Nat
  /-- Consecutive good fields among frames 192–255 in DIM, and whether the burst was received (R69). -/
  burstRun : Nat
  burstSeen : Bool
  /-- A burst was missed below the RATE requirement: every DIM field counts as bad (R386). -/
  burstMissed : Bool
  /-- The last received SFC, whether it followed its predecessor, and consecutive mismatches (R50). -/
  sfcLast : Option Nat
  sfcPair : Bool
  missRun : Nat
  /-- The power detector works (R81). -/
  detector : Bool
  /-- DIM superframe periods without a sent position above the threshold (R83). -/
  quietPeriods : Nat
  /-- Superframes in which the RMS stayed in the AGC band (R76). -/
  agcRun : Nat
  /-- Superframes in which the conditions of TR_LOCK held, and failed (R86). -/
  trGood : Nat
  trBad : Nat
  /-- Superframes of small FFE updates and of stable levels (R103). -/
  ffeRun : Nat
  mlseRun : Nat
  /-- The SNR of the last complete window is at least 10.0 dB (R103). -/
  snrTen : Bool
  /-- The measurement window: superframes, and what it has accumulated of each level (R106). -/
  measured : Nat
  levels : List LevelSum
  /-- Level means, sigmas, h1 and h2 against which their change is judged (R103). -/
  levelRef : List Int
  /-- What the FFE taps in use hold below the least bit of their registers, in 2^-15 (R97). -/
  tapFine : List Nat
  /-- The recovered phase, in 1/128 UI, without PHASE_OFS (R98). -/
  trPhase : Int
  /-- The reach class that the last entry to ACQUIRE took (R101). -/
  reach : Nat
  /-- A warm start has not reached CANDLE (R102). -/
  warm : Bool
  /-- The freeze bits in effect: REQ_ADAPT [4:0], and CTLE and AGC freeze (R98, R100). -/
  adapt : Nat
  afe : Nat
  /-- AGC_TGT in effect (R76, R100). -/
  agcTarget : Nat
  /-- An FFE COMMIT waits for the next frame boundary (R99). -/
  commit : Bool
  /-- The slicer thresholds in use (R92). -/
  thresholds : List Int
  /-- Receive precoding, MUX and swaps in effect (R63, R179, R201). -/
  precoded : Bool
  mux : Bool
  txSwap : Bool
  rxSwap : Bool
  /-- The IDEC window: corrected bits, uncorrectable codewords, and a lost second pass (R141). -/
  winCorr : Nat
  winUncorr : Nat
  winThrottled : Bool
  /-- Consecutive windows below the SD and the SF clear conditions (R143). -/
  sdClear : Nat
  sfClear : Nat
  /-- IDEC_FORCE and P2_POLICY in effect, and the frames left of a second-pass pause (R129, R133, R134). -/
  p2Off : Bool
  hard : Bool
  failedOnly : Bool
  pauseLeft : Nat
  /-- IDEC_SOFT in effect (R146). -/
  p1 : Nat
  p2 : Nat
  alpha : Nat
  beta : Nat
  /-- The data bits of the last frame handed to GBX (R123). -/
  data : List Nat
  /-- ASSIST in effect, a change that waits for a boundary, and a re-alignment in progress (R23, R105). -/
  assist : Bool
  assistPending : Bool
  realign : Bool
  /-- The histogram's samples left to count (R108). -/
  histLeft : Nat
  /-- The offset of the histogram's next sample in its clock (R108). -/
  histOffset : Nat
  /-- The host output carries the LPI pattern until the first frame decoded after DIM (R199). -/
  lpi : Bool
  /-- The priors that IDEC returned to REQ for the last frame (R126). -/
  priors : List Int
  /-- The symbols of the last outer codeword that went on to lane A and to lane B (R138, R139). -/
  forwarded : List (List Nat)
  deriving DecidableEq, Repr

/-- The start and stop of a lane (R32). -/
structure LanePower where
  starting : Bool
  stopping : Bool
  /-- EN was set while the lane was stopping. -/
  startAfter : Bool
  /-- The lane was stopped while it was starting. -/
  stopAfter : Bool
  deriving DecidableEq, Repr

/-- A host lane beside its registers (R182 to R203). -/
structure HostLaneInt where
  /-- Training: the repeats sent of a request without an answer, and the last status reported to the host: 0 none,
  1 updated, 2 at a limit, 3 not supported (R186, R187). -/
  repeats : Nat
  answer : Nat
  /-- The device's own request that the host has not answered: PRE2, PRE1 or POST1 (0 to 2), and its direction (R186).
  -/
  asked : Option (Nat × Bool)
  /-- The receiver's equaliser in use: CTLE, DFE1 and 12 FFE taps (R182). -/
  ctle : Nat
  dfe1 : Nat
  ffe : List Nat
  /-- Consecutive marker periods found and missed, transmit and receive direction (R188). -/
  amFound : Nat
  amMissed : Nat
  rxFound : Nat
  rxMissed : Nat
  /-- Consecutive periods in which the skew differs from the hold (R190). -/
  slipRun : Nat
  /-- The lane's data enters the frames (R194). -/
  entering : Bool
  /-- The host transmit clock slews (R196). -/
  slewing : Bool
  /-- When the PRBS checker last locked, or was cleared later than that, in elapsed 2^-48 ns (R203). -/
  prbsAt : Nat
  deriving DecidableEq, Repr

/-- A stretch of capture memory that was written as a whole: by a fill with a pattern, or, with none, by a record
whose bytes the model does not know. -/
structure CapPatch where
  first : Nat
  size : Nat
  fill : Option Nat
  /-- The recorded bytes from the first on, as far as they are known (R109). -/
  data : List Nat
  /-- Tells one record's bytes from another's. -/
  count : Nat
  deriving DecidableEq, Repr

/-- The values in use that turn samples into decisions: taps, main cursor and enabled echo taps (R89), thresholds (R92),
level means and sigmas and the targets h1 and h2 (R93), the pilot tolerance (R44), the precoder in effect (R62), and
whether decisions come from the MLSE. -/
structure RxShape where
  taps : List Int
  main : Nat
  echo : List (Nat × Int)
  thr : List Int
  mu : List Int
  sigma : List Nat
  h1 : Int
  h2 : Int
  tol : Nat
  precoded : Bool
  mlse : Bool
  deriving DecidableEq, Repr

/-- A capture engine beside its registers (R109 to R116). -/
structure CapInt where
  /-- A trigger event has been seen since ARM (R111). -/
  triggered : Bool
  /-- Writing waits for the background-operation pause; the pause runs (R442). -/
  waiting : Bool
  pause : Bool
  /-- Bytes of each region written since ARM, and at the trigger. -/
  written : Nat
  atTrigger : Nat
  /-- The lanes, source and decimation of the capture in progress. -/
  mask : List Bool
  src : Nat
  decim : Nat
  /-- The pattern of a fill in progress. -/
  pattern : Nat
  /-- By lane of the capture in progress, the values that have turned its samples into decisions, newest first: those at
  ARM and each that came into use since (R109). -/
  shapes : List (List RxShape)
  /-- What was recorded or filled, newest first (`CapPatch`). -/
  patches : List CapPatch
  deriving DecidableEq, Repr

/-- The Gleaner's work on one lane (R207 to R231). -/
structure CalLane where
  /-- Items 0–4: 0 idle, 1 waits for a boundary, 2 and 3 the windows of a run, 4 applies, 5 has applied its last step at
  the present boundary, 6 stops at the next one (R231); and the background-operation pause since the last run (R230). -/
  stage : Nat
  paused : Bool
  /-- The first window's estimates of items 0–4, in 2^-16 step. -/
  first : List (List Int)
  /-- Consecutive failed runs of items 0–5 (R215). -/
  fails : List Nat
  /-- Steps pending of items 0, 1 and 2, per core. -/
  coreOfs : List Int
  coreGain : List Int
  coreSkew : List Int
  /-- Steps pending of items 3 and 4, each for cores 48–95. -/
  subOfs : List Int
  subGain : List Int
  subSkew : List Int
  /-- What the window in progress has accumulated of each core and of each sub-converter (R209, R210). -/
  cores : List CoreSum
  subs : List SubSum
  /-- The DAC sweep: runs left, and 0 idle, 1 waits for a boundary, 2 and 3 the windows, 4 waits for a swap, 6 stops
  at the next boundary; and the background-operation pause since the last run. -/
  sweepLeft : Nat
  sweepStage : Nat
  sweepPaused : Bool
  sweepFirst : Int
  /-- The start-up pass has measured the cell that is out (R211, R223). -/
  passMeasured : Bool
  deriving DecidableEq, Repr

/-- The Gleaner's work on the device: REF_ANCHOR, the start-up pass and the save (R223 to R228). -/
structure CalDev where
  /-- 0 idle, 1 and 2 the halves of a run. -/
  anchor : Nat
  anchorFirst : Int × Int
  /-- Conversions that the half has received, alternately of VREF_EXT and of the reference nodes, and whether one was
  tagged REF_UNSETTLED (R226). -/
  anchorTaken : Nat
  anchorBad : Bool
  anchorFails : Nat
  pendAdc : Int
  pendDac : Int
  /-- The central temperature at the last start of background work (R228). -/
  startTemp : Int
  /-- The start-up pass runs; the lanes it has not left; those among them that were enabled meanwhile and that it leaves
  at the next window boundary; a SAVE waits for a boundary. -/
  startup : Bool
  startupLanes : List Nat
  startupLeaves : List Nat
  saving : Bool
  /-- The copy of the calibration area that holds the valid record with the higher sequence number; the other, older one
  takes the next (R427). -/
  copy : Nat
  /-- The trims of that record: OFFSET, GAIN and SKEW of every core, lane by lane, the 128
  DAC cell trims, and the two reference trims; none where the area holds no valid record (R223, R225). -/
  saved : Option (List Nat)
  /-- Whether the copy in use carries a delay record whose CRC-32 is valid; none while the model has not looked at
  what the part was delivered with (R241, log entry 183). -/
  delay : Option Bool
  deriving DecidableEq, Repr

/-- A Faost message being reassembled (R276). -/
structure Reassembly where
  type : Nat
  auth : Bool
  late : Bool
  /-- Bytes 0–33 of each cell, oldest first. -/
  cells : List (List Nat)
  /-- The received superframe of its cell 0, that superframe's boundary in 2^-8 ns if it was stamped, and the counter
  steps before it. -/
  sfc : Nat
  time : Option Nat
  steps : Nat
  deriving DecidableEq, Repr

/-- A received Faost message (R276 to R278). -/
structure FaostMsg where
  type : Nat
  auth : Bool
  late : Bool
  lane : Nat
  payload : List Nat
  sfc : Nat
  time : Option Nat
  steps : Nat
  deriving DecidableEq, Repr

/-- A message that SEC, FWC or the remote-access engine sends (R278, R297); `remote` marks the answer to a request
that is held. -/
structure OutMsg where
  type : Nat
  auth : Bool
  payload : List Nat
  remote : Bool
  deriving DecidableEq, Repr

/-- An entry of a launch queue (R279): `launch` is in 2^-8 ns; `after` is the boundary of the last superframe whose
cell 0 had been decided at the push; `fired` says that the queue's alarm has launched it (R284). -/
structure QEntry where
  type : Nat
  cells : Nat
  timed : Bool
  auth : Bool
  tsReq : Bool
  tsId : Nat
  payload : List Nat
  launch : Nat
  after : Option Nat
  fired : Bool
  deriving DecidableEq, Repr

/-- An entry of the transmit timestamp queue (R286); `time` is in 2^-8 ns. -/
structure TsEntry where
  id : Nat
  lane : Nat
  status : Nat
  sfc : Nat
  time : Nat
  deriving DecidableEq, Repr

/-- A remote request that is held (R295 to R298). -/
structure RemoteReq where
  lane : Nat
  tag : Nat
  addr : Nat
  count : Nat
  write : Bool
  data : List Nat
  /-- It has been performed and its response waits to be sent. -/
  answered : Bool
  deriving DecidableEq, Repr

/-- The Faost state of a line lane (R270 to R294). -/
structure MsgLink where
  /-- Header bytes 1–3 last received, and those accepted. -/
  header : Option (Nat × Nat × Nat)
  accepted : Option (Nat × Nat × Nat)
  reasm : Option Reassembly
  timeReasm : Option Reassembly
  /-- Complete accepted messages that have not been delivered, oldest first. -/
  inbox : List FaostMsg
  /-- The last 16 TIME departures: count, time in 2^-8 ns, counter steps before it, newest first (R289). -/
  departures : List (Nat × Nat × Nat)
  /-- TX_SFC of the last accepted TIME and the stamp of its arrival (R288). -/
  arrival : Option (Nat × Option Nat)
  seq : Nat
  /-- The cells left of the message in progress, and whether it answers a remote request. -/
  sending : List (List Nat)
  sendRemote : Bool
  /-- The second cell of an authenticated TIME. -/
  timeRest : List (List Nat)
  outbox : List OutMsg
  /-- Cell 0 of the next superframe, and the boundary of the last superframe whose cell 0 was decided. -/
  cell0 : List Nat
  lastCell0 : Option Nat
  /-- The boundaries of the superframe whose cells are being fixed and of the four before it, newest first (R282). -/
  bounds : List Nat
  badCrc : Bool
  /-- The last LEVEL_REPORT delivered to FWC. -/
  report : List Nat
  deriving DecidableEq, Repr

/-- MSG beside its registers and links (R279 to R298). -/
structure MsgInt where
  queues : Vector (List QEntry) 8
  ts : List TsEntry
  rx : List FaostMsg
  remote : List RemoteReq
  deriving DecidableEq, Repr

/-- An alarm comparator: its committed instant C in 2^-16 ns and PERIOD in ns, the next instant due, and whether a
one-shot has fired (R263, R265). -/
structure AlarmInt where
  c : Nat
  period : Nat
  next : Nat
  fired : Bool
  deriving DecidableEq, Repr

/-- A step of the counter that waits for the next tick: a time in 2^-48 ns is loaded, or a difference is added (R240).
-/
inductive CounterStep where
  | load (t : Nat)
  | add (d : Int)
  deriving DecidableEq, Repr

/-- The oscillator epoch record: the epoch, its start in seconds, the ends of those before it, latest first, and the
aging slope (R258). -/
structure EpochRecord where
  epoch : Nat
  start : Nat
  ends : List Nat
  aging : Int
  deriving DecidableEq, Repr

/-- Lantern beside its registers (R237 to R267). -/
structure TimInt where
  /-- The time clock: 0 REFCLK, 1 TREF, 2 the AON oscillator; and P in 2^-48 ns. -/
  clock : Nat
  period : Nat
  /-- y_I in 2^-72, and the rates applied, each with the time in 2^-16 ns since which it has been and whether QUAL was
  LOCKED, newest first (R250, R260). -/
  yI : Int
  rates : List (Nat × Int × Bool)
  /-- The next accepted measurement is the first of its source; the time of the last one in 2^-16 ns (R250). -/
  first : Bool
  last : Option Nat
  /-- The last 16 accepted d and |θ| in 2^-8 ns, newest first (R249, R261). -/
  delays : List Nat
  thetas : List Nat
  /-- Consecutive accepted measurements within LOCK_THR, beyond it, and since the source was lost (R251, R252). -/
  good : Nat
  bad : Nat
  back : Nat
  /-- The selected source is lost. -/
  lost : Bool
  /-- Counter steps so far. -/
  steps : Nat
  /-- The steps of SET and STEP, oldest first, and the servo's, in 2^-48 ns, that wait for the next tick (R240, R250).
  -/
  waiting : List CounterStep
  servoStep : Option Int
  /-- The source that a write of SRC replaces at the next tick (R253). -/
  srcOld : Option Nat
  /-- The HOPS of the last exchange accepted on the worker lane, plus 1 (R290). -/
  hops : Nat
  /-- The last rising and the last falling PPS_IN edge in 2^-8 ns (R248). -/
  ppsRise : Option Nat
  ppsFall : Option Nat
  /-- The oscillator temperature in 2^-24 °C and when it arrived, in 2^-16 ns (R256). -/
  temp : Int
  tempAt : Option Nat
  /-- When TIM_TEMP_HOST was last written, in elapsed 2^-48 ns (R256). -/
  hostAt : Option Nat
  /-- The learning interval: its start in 2^-16 ns, whether a condition has failed in it, and its smallest and largest
  temperature (R259). -/
  learnAt : Nat
  learnBroken : Bool
  learnMin : Int
  learnMax : Int
  /-- The epoch record in use (R258, R260). -/
  osc : EpochRecord
  /-- Holdover: its start, y_avg, the bias if F was defined, and TIM_HOLD_EST in 2^-36 ns (R260, R261). -/
  holdAt : Option Nat
  holdAvg : Int
  holdBias : Int
  holdEst : Nat
  alarms : Vector AlarmInt 32
  /-- A PPS_OUT pulse is in progress (R255). -/
  pulse : Bool
  deriving DecidableEq, Repr

/-- A peer session of one lane: its keys and counters (R277, R477). -/
structure PeerSession where
  keyOut : Nat
  keyIn : Nat
  ctrOut : Nat
  /-- The highest counter accepted and the accepted counters within the 64 below it. -/
  ctrTop : Nat
  ctrSeen : List Nat
  /-- The handshake so far: 0 none; manager 1 HELLO sent, 2 HELLO_REPLY received, 5 FINISH sent; worker 3 HELLO
  received, 4 HELLO_REPLY sent. -/
  step : Nat
  priv : Nat
  hello : List Nat
  reply : List Nat
  /-- The payloads of HELLO, HELLO_REPLY and every CERT so far, in the order sent, and the peer's chain collected. -/
  transcript : List Nat
  chain : List Nat
  chainLen : Nat
  leaf : Nat
  /-- A retry waits for its second (R479). -/
  retry : Bool
  deriving DecidableEq, Repr

/-- An AVSBus frame that PWR sends: a voltage write with commit, of 500 mV + 2.5 mV × code, to a rail address (R377,
R379). -/
structure AvsFrame where
  rail : Nat
  code : Nat
  deriving DecidableEq, Repr

/-- The power controller beside its registers (R366 to R384). -/
structure PowerInt where
  /-- A level change, on its own or as a part of a transition: 0 none, 1 handshake of a lowering, 2 AVSBus write, 3
  settling, 4 last steps. -/
  levelStage : Nat
  /-- The pending level request (R372). -/
  levelPending : Option Nat
  /-- The AVSBus frame that is sent, and whether it has been retried (R379). -/
  avs : Option AvsFrame
  retried : Bool
  /-- A state transition: 0 none, 1 handshake, 2 entry, 3 exit; and the level at its start (R449). -/
  stateStage : Nat
  fromLevel : Nat
  /-- The blocks that have not answered, those whose retry time runs, and their DEFERs, by IRQ index (R370). -/
  asked : List Nat
  deferring : List Nat
  defers : NatMap
  /-- The wake sources that wait for the transition in progress, as bits of PWR_WAKE_STAT (R371, R374, R375). -/
  wakes : Nat
  /-- The clock level, SRAM assist off, and body bias in force: 0 reverse, 1 none, 2 forward (R378). -/
  clockLevel : Nat
  assistOff : Bool
  bias : Nat
  /-- A switch-over waits for the end of its commit, and VIO is back before it (R361, R363). -/
  switching : Bool
  vioBack : Bool
  /-- A thermal hold and a lockdown that were latched during a transition act when it completes (R373). -/
  holdThermal : Bool
  holdLockdown : Bool
  deriving DecidableEq, Repr

/-- The latest superframe boundaries of a lane: the count and the time in 2^-8 ns of the last transmit and the last
receive boundary stamped since the lane left OFF (R241, R243). -/
structure Stamps where
  tx : Option (Nat × Nat)
  rx : Option (Nat × Nat)
  deriving DecidableEq, Repr

/-- A stage-2 output of a filter chain: value, timestamp in 2^-16 ns, whether the time was valid, and whether a
conversion that entered it was tagged REF_UNSETTLED (R311, R314). -/
structure FilterOut where
  v : Int
  time : Int
  valid : Bool
  tagged : Bool
  deriving DecidableEq, Repr

/-- A filter chain beside its registers (R307 to R315). -/
structure FilterChain where
  /-- Stage-1 inputs and stage-1 outputs in 1/16 LSB, newest first, as many as the filters look back on. -/
  inputs : List Int
  stage1 : List Int
  /-- Conversions received since the last change, and how many more will carry a tag into an output. -/
  got : Nat
  tagLeft : Nat
  /-- Outputs computed and not delivered, oldest first; the last 8 outputs, newest first. -/
  ready : List FilterOut
  past : List FilterOut
  /-- Consecutive outputs beyond the limit, by comparator. -/
  runs : List Nat
  /-- The last firing of the chain's alarm, and the firings without an output yet, with TS_VALID (R310). -/
  lastFire : Option Nat
  fires : List (Nat × Bool)
  /-- When its last output was delivered, in elapsed 2^-48 ns (R256). -/
  seen : Option Nat
  deriving DecidableEq, Repr

/-- A control DAC channel beside its registers (R319 to R325). -/
structure DacChannel where
  /-- The output, in 10^-5 of a code of the span. -/
  pos : Int
  /-- The code that a ramp in progress goes to. -/
  target : Nat
  /-- In SPAN_CHG: the output is held at the safe level (R324). -/
  safe : Bool
  /-- The comparator of a trip that came while CLAMPED (R325). -/
  comp : Option Nat
  deriving DecidableEq, Repr

/-- A repair record of Granary: a row of a memory and the spare that replaces it, or a retired slice, 5s + k (R423,
R431). -/
inductive Repair where
  | row (memid row spare : Nat)
  | slice (n : Nat)
  deriving DecidableEq, Repr

/-- The boot record: the bank that it selects and the LBIST flag, with TST_CFG.ONCE (R402, R426, R432). -/
structure BootRecord where
  bank : Nat
  lbist : Bool
  once : Bool
  deriving DecidableEq, Repr

/-- What of the security store changes in use: the sequence number of its valid copy, the anti-rollback counters and the
certificate chain of slot 1 (R463). -/
structure SecStore where
  seq : Nat
  fwSvn : Nat
  profileSvn : Nat
  chain1 : List Nat
  deriving DecidableEq, Repr

/-- A record of Granary in a format that the spec does not give, whole: the repair records, the boot record, the epoch
record, the trims of a calibration record, or a copy of the security store (R223, R258, R423, R426, R427, R431, R463). -/
inductive GranaryRecord where
  | repairs (rs : List Repair)
  | boot (b : BootRecord)
  | epoch (e : EpochRecord)
  | trims (vs : List Nat)
  | store (x : SecStore)
  deriving DecidableEq, Repr

/-- What a writer's words are: given data, words whose VALID is cleared (R258, R262), those of a record, or the last word of
a record that a newer one replaces. -/
inductive JobKind where
  | plain
  | clear
  | record (r : GranaryRecord)
  | part
  deriving DecidableEq, Repr

/-- A Granary write of a writer that competes by priority: `left` words from `addr` on, of `data` where they are plain
(R427). -/
structure NvsJob where
  writer : Nat
  addr : Nat
  data : Nat
  left : Nat
  kind : JobKind
  deriving DecidableEq, Repr

/-- What Granary keeps in formats that the spec does not give, as the last whole writes left it: the repair records, the
boot record, the epoch record, and the valid copy of the security store with the higher sequence number, 0 or 1 (R423,
R426, R427, R431, R463); and the Stub slots: the bits USED and SIGNED, the last slot,
its triggers and the sequence number (R455, R457). -/
structure Kept where
  repairs : List Repair
  boot : BootRecord
  epoch : EpochRecord
  store : SecStore
  storeCopy : Nat
  used : Nat
  signed : Nat
  lastSlot : Nat
  lastTrig : Nat
  seq : Nat
  deriving DecidableEq, Repr

/-- The memories beside their contents (R410 to R432). -/
structure MemInt where
  /-- The stored errors, by 64-bit word (`wordKey` for a memory that no port addresses): 1 correctable, 2 uncorrectable,
  3 an address fault (R411, R432). -/
  ecc : NatMap
  /-- The memories that have failed, and the spare rows used, by MEMID (R423, R424). -/
  failed : List Nat
  spares : NatMap
  /-- The slice memories that hold zeros in every word, by MEMID: cleared and not written since (R416, R422). -/
  zeroed : List Nat
  /-- The job whose word is being written to Granary, and those that compete for the next word slot (R427). -/
  slot : Option NvsJob
  jobs : List NvsJob
  /-- The march in progress: its MEMID, PRESERVE and an ABORT of it (R422). -/
  marchId : Nat
  marchKeep : Bool
  marchStop : Bool
  /-- The repair records in use, and the boot record as last written or being written (R423, R424, R426, R431). -/
  repairs : List Repair
  boot : BootRecord
  kept : Kept
  deriving DecidableEq, Repr

/-- A Stub commit in progress (R452 to R455). -/
structure StubCommit where
  /-- The trigger mask, the slot, and whether there is no slot. -/
  mask : Nat
  slot : Nat
  discard : Bool
  /-- The pages lie frozen in capture memory; the header write has begun; an event was dropped since the start. -/
  frozen : Bool
  begun : Bool
  dropped : Bool
  /-- The commit time in 2^-16 ns; RST_CAUSE, RST_STAT, PWR_STATE and THM_STAT; the EVR_SNAP_PAGE words; the words of
  the pages, none where a page is not included. -/
  time : Nat
  words : List Nat
  names : List Nat
  pages : List (List Nat)
  /-- The ring indices of the oldest entry and of the opening COMMIT entry, once it is in the ring; the ring as it was
  then; and the positions known to be copied. -/
  first : Nat
  last : Option Nat
  ring : NatMap
  copied : Nat
  deriving DecidableEq, Repr

/-- EVR beside its registers: the event ring, 128 bits an entry and 0 an empty one; the commit in progress; the mask of
the further commit that waits; and when the last commit with each trigger ended, in 2^-48 ns (R449 to R453). -/
structure StubInt where
  ring : NatMap
  commit : Option StubCommit
  waiting : Nat
  ended : List (Option Nat)
  deriving DecidableEq, Repr

/-- THM beside its registers: by sensor, consecutive samples at 125 °C or more, consecutive samples with an unchanged
raw code, that code, and consecutive samples that disagree; and the counts of the thresholds (R435 to R440). -/
structure ThmInt where
  hot : List Nat
  same : List Nat
  raw : List Nat
  apart : List Nat
  warnUp : Nat
  warnDown : Nat
  throttleUp : Nat
  throttleDown : Nat
  shut : Nat
  deriving DecidableEq, Repr

/-- The eFuses and the security store, which survive every reset: the lifecycle state, the owner public keys by slot and
the bits of revoked slots, whether vendor slot 0 is revoked, whether SEC can use the identity key, and the
anti-rollback counters (R459 to R463). -/
structure Fuses where
  life : Nat
  owners : List Nat
  revoked : Nat
  vendorRevoked : Bool
  identity : Bool
  fwSvn : Nat
  profileSvn : Nat
  /-- The owner's certificate chain of SPDM slot 1 (R463, R470). -/
  chain1 : List Nat
  /-- The key-encryption key is not revoked (R460, R483). -/
  kek : Bool
  deriving DecidableEq, Repr

/-- The SPDM responder: how far the requester has negotiated, 1 the version, 2 the capabilities and 3 the algorithms; and the
messages that its next signatures cover: those of the negotiation, of certificates, and of measurements (R470). -/
structure SpdmInt where
  stage : Nat
  negotiation : List Nat
  certificates : List Nat
  measures : List Nat
  deriving DecidableEq, Repr

/-- SEC beside its registers (R471 to R487). -/
structure SecInt where
  /-- The command in progress, 0 for none, and whether WRITE_OWNER wrote it. -/
  op : Nat
  owner : Bool
  /-- The unused 32-byte nonce of NONCE. -/
  nonce : Option Nat
  /-- N and the ephemeral private key of the last OWN_BEGIN. -/
  begun : Option (Nat × Nat)
  /-- The owner write key of the session that is UP. -/
  key : Nat
  /-- Lockdown blocks the key-encryption key until POR (R485). -/
  kekBlocked : Bool
  /-- Consecutive OWN_FINISH failures; the backoff runs. -/
  fails : Nat
  backoff : Bool
  /-- The debug scopes that are open. -/
  scope : Nat
  /-- The SPDM responder (R470). -/
  spdm : SpdmInt
  deriving DecidableEq, Repr

/-- The mailbox beside its registers (R355): the slots that are QUEUED, oldest first; the LEN of each slot's submit; the
slots whose abort is asked, as bits; and whether a Granary write of firmware has failed since its command began. -/
structure MbxInt where
  order : List Nat
  lens : List Nat
  abort : Nat
  fail : Bool
  /-- An access of FWC has raised a bus-error exception in the core since firmware started (R413). -/
  busError : Bool
  deriving DecidableEq, Repr

/-- The verified firmware image (R404, R466, R467): its VERSION and SVN, whether it is to revoke vendor slot 0, and
whether it came from Granary without a fallback; and the digests of its body and of the boot profile that was applied,
0 for none (R469, R470). -/
structure BootInt where
  version : Nat
  svn : Nat
  revoke : Bool
  normal : Bool
  digest : Nat
  profile : Nat
  /-- The bank that the boot record selected when BOOT_RECORD read it (R404). -/
  bank : Nat
  /-- WARM or WDT fell into FW_START, and the sheaves that SHEAF has reset since the release of COLD (R394, R407). -/
  warmed : Bool
  sheaves : List Nat
  deriving DecidableEq, Repr

/-- The state of the device. -/
structure State where
  /-- The register file: every field that differs from its reset value, by key (`Fld.key`). -/
  regs : NatMap
  /-- The shadows of wide values, per requester (R9). -/
  shadow : NatMap
  /-- The staged lower words of wide writes, per requester (R9). -/
  staged : NatMap
  /-- Scratch, capture memory and Granary, by byte address (R334). -/
  mem : List Host.Cell
  /-- Lantern time in 2^-48 ns: the counter in 2^-16 ns and its 32-bit accumulator (R237). -/
  time : Nat
  /-- How many free values have been drawn. -/
  freeCount : Nat
  /-- The SPI port. -/
  spi : Port
  /-- The I3C port. -/
  i3c : Port
  /-- The I3C target's lengths and event enables. -/
  target : I3cTarget
  /-- The domains woken by accesses. -/
  woken : List WokenDomain
  /-- Stub events raised by the command in progress; empty between commands. -/
  raised : List StubEvent
  /-- The 16-entry input queue of EVR, oldest first (R450). -/
  evQueue : List StubEvent
  /-- Stub events dropped since the last LOST entry (R450). -/
  evDropped : Nat
  /-- Stub events dropped in all: EVR_LOST.COUNT (R450). -/
  evLost : Nat
  /-- The reset sources that are asserted. -/
  resets : ResetSources
  /-- The transmit and receive directions, and the start and stop, of the line lanes. -/
  txs : Vector TxLane 8
  rxs : Vector RxLane 8
  powers : Vector LanePower 8
  /-- The host lanes. -/
  hosts : Vector HostLaneInt 16
  /-- The capture engines. -/
  caps : Vector CapInt 2
  /-- The Gleaner. -/
  cals : Vector CalLane 8
  calDev : CalDev
  /-- MSG, the Faost links and the peer sessions. -/
  msg : MsgInt
  links : Vector MsgLink 8
  sessions : Vector PeerSession 8
  /-- The power controller. -/
  pwr : PowerInt
  /-- The boundary stamps of the line lanes. -/
  stamps : Vector Stamps 8
  /-- Lantern. -/
  tim : TimInt
  /-- The filter chains and the control DAC channels. -/
  chains : Vector FilterChain 8
  dacs : Vector DacChannel 48
  /-- The memories beside their contents. -/
  store : MemInt
  /-- GPIO pins that a pulse of FUNC 1 drives high, as bits (R356). -/
  gpioPulse : Nat
  /-- The time since POR was released, in 2^-48 ns: the tick's share, which no write of the counter changes. -/
  elapsed : Nat
  /-- The Stub record, and THM. -/
  stub : StubInt
  thm : ThmInt
  /-- The eFuses with the security store, and SEC. -/
  fuses : Fuses
  sec : SecInt
  /-- The mailbox, and the firmware image that start-up verified. -/
  mbx : MbxInt
  boot : BootInt
  /-- The commands that are waiting, first in, first out. -/
  pending : List Instr
  deriving DecidableEq, Repr

/-- A port right after reset. -/
def Port.reset : Port := { queue := [], tags := [], failure := none, response := none, waiting := none }

/-- A line transmitter at reset. -/
def TxLane.reset : TxLane where
  running := false
  hold := .none
  frame := 0
  scrambler := 0
  overhead := []
  history := List.replicate 12 none
  symbols := []
  codes := []
  volts := []
  clock := 0
  saturated := false
  dim := .full
  leaveDim := false
  mute := false
  commit := false
  patSel := 0
  patHalf := 8
  patLevel := 0
  patPos := 0
  precoded := false
  fs := 16
  inverted := false
  clockSat := false
  lastTaps := [0, 0, 256, 0, 0, 0, 0]
  lastMain := 2
  lastStep := 40
  lastPd := []
  lastFs := 16
  lastInverted := false

/-- A line receiver at reset. -/
def RxLane.reset : RxLane where
  goodRun := 0
  badRun := 0
  phase := 0
  complemented := 0
  burstRun := 0
  burstSeen := false
  burstMissed := false
  sfcLast := none
  sfcPair := false
  missRun := 0
  detector := false
  quietPeriods := 0
  agcRun := 0
  trGood := 0
  trBad := 0
  ffeRun := 0
  mlseRun := 0
  snrTen := false
  measured := 0
  levels := List.replicate 4 ⟨0, 0, 0⟩
  levelRef := []
  tapFine := List.replicate 48 0
  trPhase := 0
  reach := 1
  warm := false
  adapt := 0
  afe := 0
  agcTarget := 0x2C
  commit := false
  thresholds := [-64, 0, 64]
  precoded := false
  mux := false
  txSwap := false
  rxSwap := false
  winCorr := 0
  winUncorr := 0
  winThrottled := false
  sdClear := 0
  sfClear := 0
  p2Off := false
  hard := false
  failedOnly := false
  pauseLeft := 0
  p1 := 6
  p2 := 5
  alpha := 8
  beta := 8
  data := []
  assist := false
  assistPending := false
  realign := false
  histLeft := 0
  histOffset := 0
  lpi := false
  priors := []
  forwarded := [[], []]

/-- A lane neither starting nor stopping. -/
def LanePower.reset : LanePower := { starting := false, stopping := false, startAfter := false, stopAfter := false }

/-- A host lane at reset. -/
def HostLaneInt.reset : HostLaneInt where
  repeats := 0
  answer := 0
  asked := none
  ctle := 12
  dfe1 := 0
  ffe := [0, 0, 0, 0x100, 0, 0, 0, 0, 0, 0, 0, 0]
  amFound := 0
  amMissed := 0
  rxFound := 0
  rxMissed := 0
  slipRun := 0
  entering := false
  slewing := false
  prbsAt := 0

/-- A capture engine at reset, its memory never written. -/
def CapInt.reset : CapInt where
  triggered := false
  waiting := false
  pause := false
  written := 0
  atTrigger := 0
  mask := []
  src := 0
  decim := 0
  pattern := 0
  shapes := []
  patches := []

/-- The Gleaner's lane work at reset. -/
def CalLane.reset : CalLane where
  stage := 0
  paused := false
  first := []
  fails := [0, 0, 0, 0, 0, 0]
  coreOfs := []
  coreGain := []
  coreSkew := []
  subOfs := []
  subGain := []
  subSkew := []
  cores := List.replicate 96 CoreSum.zero
  subs := List.replicate 2 SubSum.zero
  sweepLeft := 0
  sweepStage := 0
  sweepPaused := false
  sweepFirst := 0
  passMeasured := false

/-- The Gleaner's device work at reset. -/
def CalDev.reset : CalDev where
  anchor := 0
  anchorFirst := (0, 0)
  anchorTaken := 0
  anchorBad := false
  anchorFails := 0
  pendAdc := 0
  pendDac := 0
  startTemp := 0
  startup := false
  startupLanes := []
  startupLeaves := []
  saving := false
  copy := 0
  saved := none
  delay := none

/-- No peer session. -/
def PeerSession.reset : PeerSession where
  keyOut := 0
  keyIn := 0
  ctrOut := 0
  ctrTop := 0
  ctrSeen := []
  step := 0
  priv := 0
  hello := []
  reply := []
  transcript := []
  chain := []
  chainLen := 0
  leaf := 0
  retry := false

/-- The power controller at reset: PL3 (R382). -/
def PowerInt.reset : PowerInt where
  levelStage := 0
  levelPending := none
  avs := none
  retried := false
  stateStage := 0
  fromLevel := 3
  asked := []
  deferring := []
  defers := []
  wakes := 0
  clockLevel := 3
  assistOff := true
  bias := 2
  switching := false
  vioBack := false
  holdThermal := false
  holdLockdown := false

/-- A Faost link at reset. -/
def MsgLink.reset : MsgLink where
  header := none
  accepted := none
  reasm := none
  timeReasm := none
  inbox := []
  departures := []
  arrival := none
  seq := 0
  sending := []
  sendRemote := false
  timeRest := []
  outbox := []
  cell0 := []
  lastCell0 := none
  bounds := []
  badCrc := false
  report := []

/-- MSG at reset: every queue empty. -/
def MsgInt.reset : MsgInt where
  queues := Vector.replicate 8 []
  ts := []
  rx := []
  remote := []

/-- A free alarm. -/
def AlarmInt.reset : AlarmInt := { c := 0, period := 0, next := 0, fired := false }

/-- Granary's records as delivered: nothing repaired, retired or committed; bank A, epoch 0. -/
def Kept.reset : Kept where
  repairs := []
  boot := { bank := 0, lbist := false, once := false }
  epoch := { epoch := 0, start := 0, ends := [], aging := 0 }
  store := { seq := 0, fwSvn := 0, profileSvn := 0, chain1 := [] }
  storeCopy := 0
  used := 0
  signed := 0
  lastSlot := 0
  lastTrig := 0
  seq := 0

/-- Lantern at reset: the counter runs from REFCLK at 6.4 ns (R237). -/
def TimInt.reset : TimInt where
  clock := 0
  period := 1801439850948198
  yI := 0
  rates := []
  first := true
  last := none
  delays := []
  thetas := []
  good := 0
  bad := 0
  back := 0
  lost := false
  steps := 0
  waiting := []
  servoStep := none
  srcOld := none
  hops := 0
  ppsRise := none
  ppsFall := none
  temp := 0
  tempAt := none
  hostAt := none
  learnAt := 0
  learnBroken := true
  learnMin := 0
  learnMax := 0
  osc := Kept.reset.epoch
  holdAt := none
  holdAvg := 0
  holdBias := 0
  holdEst := 0
  alarms := Vector.replicate 32 AlarmInt.reset
  pulse := false

/-- A filter chain at reset: nothing received. -/
def FilterChain.reset : FilterChain where
  inputs := []
  stage1 := []
  got := 0
  tagLeft := 0
  ready := []
  past := []
  runs := [0, 0]
  lastFire := none
  fires := []
  seen := none

/-- A control DAC channel at reset. -/
def DacChannel.reset : DacChannel := { pos := 0, target := 0, safe := false, comp := none }

/-- The memories at reset. -/
def MemInt.reset : MemInt where
  ecc := []
  failed := []
  spares := []
  zeroed := []
  slot := none
  jobs := []
  marchId := 0
  marchKeep := true
  marchStop := false
  repairs := []
  boot := Kept.reset.boot
  kept := Kept.reset

/-- An empty event ring. -/
def StubInt.reset : StubInt := { ring := [], commit := none, waiting := 0, ended := List.replicate 6 none }

/-- THM at reset. -/
def ThmInt.reset : ThmInt where
  hot := List.replicate 14 0
  same := List.replicate 14 0
  raw := List.replicate 14 0
  apart := List.replicate 14 0
  warnUp := 0
  warnDown := 0
  throttleUp := 0
  throttleDown := 0
  shut := 0

/-- A part as delivered: PROVISIONED, without an owner (DESIGN CHOICE). -/
def Fuses.reset : Fuses where
  life := 1
  owners := []
  revoked := 0
  vendorRevoked := false
  identity := true
  fwSvn := 0
  profileSvn := 0
  chain1 := []
  kek := true

/-- No SPDM negotiation. -/
def SpdmInt.reset : SpdmInt := { stage := 0, negotiation := [], certificates := [], measures := [] }

/-- SEC at reset. -/
def SecInt.reset : SecInt where
  op := 0
  owner := false
  nonce := none
  begun := none
  key := 0
  fails := 0
  backoff := false
  scope := 0
  kekBlocked := false
  spdm := SpdmInt.reset

/-- An empty mailbox. -/
def MbxInt.reset : MbxInt := { order := [], lens := [0, 0, 0, 0], abort := 0, fail := false, busError := false }

/-- No image verified. -/
def BootInt.reset : BootInt := { version := 0, svn := 0, revoke := false, normal := false, digest := 0, profile := 0,
                                    bank := 0, warmed := false, sheaves := [] }

/-- The RESET entry of an assertion of POR: of block 3 (RST), at time 0, with RST_CAUSE bit 0 (R449). -/
def porEntry : StubEvent :=
  { block := 3, inst := 0, code := 1, data := 1, time := 0, power := 0, timeValid := false, lost := 0 }

/-- The device right after the release of POR, with COLD still asserted (R389, R391); the event queue holds the entry
of the POR. -/
def State.reset : State where
  regs := []
  shadow := []
  staged := []
  mem := []
  time := 0
  freeCount := 0
  spi := Port.reset
  i3c := Port.reset
  target := { maxWrite := 0, maxRead := 0, events := 0, answer := [] }
  woken := []
  raised := []
  evQueue := [porEntry]
  evDropped := 0
  evLost := 0
  resets := { por := false, supply := true, switch := false, timekeep := false, pin := false, global := false,
              warm := false, wdt := false, waiting := true, leaving := false, wick := false }
  txs := Vector.replicate 8 TxLane.reset
  rxs := Vector.replicate 8 RxLane.reset
  powers := Vector.replicate 8 LanePower.reset
  hosts := Vector.replicate 16 HostLaneInt.reset
  caps := Vector.replicate 2 CapInt.reset
  cals := Vector.replicate 8 CalLane.reset
  calDev := CalDev.reset
  msg := MsgInt.reset
  links := Vector.replicate 8 MsgLink.reset
  sessions := Vector.replicate 8 PeerSession.reset
  pwr := PowerInt.reset
  stamps := Vector.replicate 8 { tx := none, rx := none }
  tim := TimInt.reset
  chains := Vector.replicate 8 FilterChain.reset
  dacs := Vector.replicate 48 DacChannel.reset
  store := MemInt.reset
  gpioPulse := 0
  elapsed := 0
  stub := StubInt.reset
  thm := ThmInt.reset
  fuses := Fuses.reset
  sec := SecInt.reset
  mbx := MbxInt.reset
  boot := BootInt.reset
  pending := []

end Sys2Proof.Machine
end

