-- ==== Sys2Proof/Machine/RegFile.lean ====
section
/-!
DEFINITION. The register file: reading and writing one field, and the reset of fields by reach (R5, R8).
-/

namespace Sys2Proof.Machine

open Sys2Proof

/-- The value a map holds at a key. -/
def natGet : NatMap → Nat → Option Nat
  | [], _ => none
  | (k, v) :: m, x => if x = k then some v else natGet m x

/-- A map with one key set. -/
def natPut : NatMap → Nat → Nat → NatMap
  | [], k, v => [(k, v)]
  | (a, b) :: m, k, v =>
    if k < a then (k, v) :: (a, b) :: m else if k = a then (k, v) :: m else (a, b) :: natPut m k v

/-- A map without a key. -/
def natDel (m : NatMap) (k : Nat) : NatMap := m.filter (fun e => e.1 != k)

/-- A map with one key set to `v`, an absent key standing for `d`. -/
def natSet (m : NatMap) (k v d : Nat) : NatMap := if v = d then natDel m k else natPut m k v

/-- The keys of a map strictly rise. -/
def natSorted : NatMap → Bool
  | [] => true
  | [_] => true
  | (a, _) :: (b, w) :: m => decide (a < b) && natSorted ((b, w) :: m)

/-- The value of a field. -/
def State.get (s : State) (f : Fld) : Nat := (natGet s.regs f.key).getD f.rst

/-- A field as a truth value. -/
def State.getB (s : State) (f : Fld) : Bool := s.get f != 0

/-- The state with a field set, the value cut to the field's width. -/
def State.set (s : State) (f : Fld) (v : Nat) : State :=
  { s with regs := natSet s.regs f.key (v % 2 ^ f.w) f.rst }

/-- The state with a one-bit field set. -/
def State.setB (s : State) (f : Fld) (b : Bool) : State := s.set f (b2n b)

/-- A counter field that saturates, moved on by `k`. -/
def State.satInc (s : State) (f : Fld) (k : Nat) : State := s.set f (satAdd f.w (s.get f) k)

/-- A counter field that wraps, moved on by `k`. -/
def State.wrapInc (s : State) (f : Fld) (k : Nat) : State := s.set f (s.get f + k)

/-- A signed field's value (R3). -/
def State.getI (s : State) (f : Fld) : Int := toInt f.w (s.get f)

/-- The state with a signed field set (R3). -/
def State.setI (s : State) (f : Fld) (v : Int) : State := s.set f (ofInt f.w v)

/-- The narrowest reset of the field with a key. -/
def keyKind (k : Nat) : Nat := k % 4

/-- The 64 KiB region of the block whose field has a key. -/
def keyRegion (k : Nat) : Nat :=
  if k / 256 < 2 ^ 36 then k / 256 / 65536 else (k / 256 - 2 ^ 36) / 16777216

/-- The fields with BLOCK reset of the block at `base` return to their reset values (R390). -/
def resetBlockRegs (m : NatMap) (base : Nat) : NatMap :=
  m.filter (fun e => !(keyKind e.1 == 0 && keyRegion e.1 == base / 65536))

/-- The fields with WARM reset return to their reset values (R390). -/
def resetWarmRegs (m : NatMap) : NatMap := m.filter (fun e => keyKind e.1 != 1)

/-- Every field but those with POR reset returns to its reset value (R390). -/
def resetColdRegs (m : NatMap) : NatMap := m.filter (fun e => keyKind e.1 == 3)

end Sys2Proof.Machine
end

