-- ==== Sys2Proof/Machine/Ops.lean ====
section
/-!
DEFINITION. Operations that every chapter shares: Lantern time in its layouts, reset reach, block states, interrupt
sources, performance counters, Stub events, conflicts and free values.
-/

namespace Sys2Proof.Machine

open Sys2Proof

/-- The device block of a kind. -/
def dev (k : BK) : Blk := ⟨k, 0⟩

/-! ### Lantern time (R236, R237) -/

/-- The counter, in 2^-16 ns. -/
def State.now (s : State) : Nat := s.time / 2 ^ 32

/-- One second in 2^-16 ns. -/
def secondUnits : Nat := 1000000000 * 2 ^ 16

/-- The counter's period: 2^48 seconds (R236). -/
def timeModulus : Nat := 2 ^ 48 * secondUnits

/-- A time in the full layout: FRAC, NSEC, SEC (R236). -/
def fullTime (t : Nat) : Nat :=
  t % 2 ^ 16 + 2 ^ 16 * (t / 2 ^ 16 % 1000000000) + 2 ^ 46 * (t / secondUnits % 2 ^ 48)

/-- A time in the reported layout, with bit 31 of its word 2 (R236). -/
def reportedTime (t : Nat) (top : Bool) : Nat :=
  t % 2 ^ 16 / 256 + 2 ^ 8 * (t / 2 ^ 16 % 1000000000) + 2 ^ 38 * (t / secondUnits % 2 ^ 48) + b2n top * 2 ^ 95

/-- The time, in 2^-16 ns, that a value in the full layout spells (R236). -/
def ofFullTime (v : Nat) : Nat := bits v 46 48 * secondUnits + bits v 16 30 * 2 ^ 16 + bits v 0 16

/-- The time, in 2^-16 ns, that a value in the reported layout spells (R236). -/
def ofReportedTime (v : Nat) : Nat := bits v 38 48 * secondUnits + bits v 8 30 * 2 ^ 16 + bits v 0 8 * 256

/-! ### Free values -/

/-- The next free value of `w` bits. -/
def State.free (s : State) (w : Nat) : Nat := (Config.freeValue s.freeCount w).toNat

/-- The state with one free value drawn. -/
def State.draw (s : State) : State := { s with freeCount := s.freeCount + 1 }

/-! ### The counter between its ticks (R237, R238, R241) -/

/-- What one tick of the time clock adds to the counter, in 2^-48 ns (R237). -/
def State.tickStep (s : State) : Nat :=
  ((s.tim.period : Int) * (2 ^ 40 + s.getI R.TIM_FREQ_RATE) / 2 ^ 40).toNat

/-- The instant of an event in 2^-8 ns: the counter, and of the tick in progress a part that the model does not know
(R241, log entry 190). -/
def State.fineNow (s : State) : Nat := (s.time + s.free 56 % max 1 s.tickStep) / 2 ^ 40

/-! ### Resets and block states (R389, R390, R335) -/

/-- Whether a source of COLD reach is asserted (R389). -/
def State.coldAsserted (s : State) : Bool :=
  s.resets.por || s.resets.supply || s.resets.switch || s.resets.timekeep || s.resets.pin || s.resets.global
    || s.resets.waiting

/-- Whether a source of WARM reach is asserted (R389). -/
def State.warmAsserted (s : State) : Bool := s.resets.warm || s.resets.wdt

/-- Whether SHEAF s is asserted (R389). -/
def State.sheafReset (s : State) (sh : Nat) : Bool := s.getB (R.RST_CTRL_SHEAF sh)

/-- Whether a reset whose reach includes a block is asserted: BLK_STAT.IN_RESET (R335, R390). -/
def State.inReset (s : State) (b : Blk) : Bool :=
  s.coldAsserted || s.getB (R.BLK_STAT_IN_RESET b) || (b.kind == .fwc && s.warmAsserted) ||
  (b.kind != .shf && (match b.sheaf? with | some sh => s.sheafReset sh | none => false))

/-- The start-up phase (R402). -/
def State.phase (s : State) : Nat := s.get R.RST_STAT_PHASE

/-- Whether a latched hold acts (R373, R398). -/
def State.held (s : State) : Bool :=
  (s.getB R.RST_STAT_HOLD_THERMAL && !s.pwr.holdThermal) || (s.getB R.RST_STAT_HOLD_LOCKDOWN && !s.pwr.holdLockdown)

/-- The power state: 0 ACTIVE, 1 DOZE, 2 RETAIN, 3 TIMEKEEP (R366). -/
def State.power (s : State) : Nat := s.get R.PWR_STATE_STATE

/-- Whether the start-up sequence has started a block (R405, R406). -/
def State.started (s : State) (b : Blk) : Bool :=
  if s.coldAsserted then false
  else match b.kind with
    | .fwc | .tim | .mem | .pmc | .msg | .cal => 5 ≤ s.phase
    | .shf | .cap | .lrx | .req | .idec | .gbx | .txp | .lfr | .ltx | .hsd => 6 ≤ s.phase
    | _ => true

/-- Whether a block is in one of the sheaves or lanes. -/
def Blk.inSheaf (b : Blk) : Bool := b.sheaf?.isSome

/-- Whether a block is FENCED: in management-only service the sheaves, MSG and CAL; under a hold the lane blocks
and HSD; in RETAIN both CAPs (R335, R365, R406, R438). -/
def State.fenced (s : State) (b : Blk) : Bool :=
  (s.phase == 9 && (Blk.inSheaf b || b.kind == .msg || b.kind == .cal)) ||
  (s.held && b.lane?.isSome) || (b.kind == .cap && s.power == 2)

/-- Whether a block is FAILED (R335). -/
def State.failed (s : State) (b : Blk) : Bool := s.getB (R.BLK_FAILED_FLAG b)

/-- The state code of line lane l (R26). -/
def State.laneCode (s : State) (l : Nat) : Nat := s.get (R.SHF_LANE_STATE_STATE (l / 4) (l % 4))

/-- BLK_STAT.STATE: stored for a block with a writable EN; for the others it follows the start and stop of the
block's domain, which for SHF is stopped below ACTIVE (R335, R336, R365; log entry 195). -/
def State.blkState (s : State) (b : Blk) : Nat :=
  if s.failed b then 5
  else if s.fenced b then 4
  else if b.kind.enWritable then s.get (R.BLK_STAT_STATE b)
  else if !s.started b then 0
  else match b.lane? with
    | none => if b.kind == .shf && s.power != 0 then 0 else 2
    | some l =>
      if ((s.powers[l]?).map (·.starting)).getD false then 1
      else if ((s.powers[l]?).map (·.stopping)).getD false then 3
      else if s.laneCode l == 0 || s.laneCode l == 6 || (b.kind == .hsd && !s.getB (R.HSD_CFG_EN b.inst)) then 0
      else 2

/-- Whether a block's function runs: STATE = ON and no reset on it. -/
def State.blkOn (s : State) (b : Blk) : Bool := s.blkState b == 2 && !s.inReset b

/-- Whether THM throttles, as the other blocks see it: a reset of THM takes the signal back (R396, R442). -/
def State.throttling (s : State) : Bool := s.getB R.THM_STAT_THROTTLING && !s.inReset (dev .thm)

/-- Whether the background-operation pause is in force (R442). -/
def State.bgPause (s : State) : Bool := s.throttling && s.get R.THM_THROTTLE_BG_PAUSE != 0

/-- The second-pass pause in effect, which IDEC_THROTTLE.PAUSE reports (R134, R442). -/
def State.p2Pause (s : State) : Nat := if s.throttling then s.get R.THM_THROTTLE_P2_PAUSE else 0

/-! ### Performance counters (R445, R446) -/

/-- A snapshot is requested: it starts, waits for the pause, or counts as an overlap; the answer says whether SNAP_OVERLAP
is raised (R442, R447). -/
def snapAsk (s : State) (command : Bool) : State × Bool :=
  if s.getB R.PMC_SNAP_STAT_BUSY || s.getB R.PMC_INT_WAITING then
    if command then (s.setB (R.BLK_STAT_CONFLICT (dev .pmc)) true, false)
    else (s.satInc R.PMC_SNAP_STAT_OVERLAP 1, true)
  else if s.bgPause && s.getB R.PMC_INT_PAUSE then
    ((s.setB R.PMC_INT_WAITING true).setB R.PMC_SNAP_STAT_DELAYED true, false)
  else
    (((s.setB R.PMC_SNAP_STAT_BUSY true).setB R.PMC_SNAP_STAT_DELAYED false).set R.PMC_SNAP_TIME_TIME
      (reportedTime s.now (s.getB R.TIM_STAT_FINE_READY)), false)

/-- A counter that passes 2^48 − 1 reloads and sets OVF (R446). -/
def carryPut (s : State) (b : Blk) (c sum : Nat) : State :=
  let p := s.get (R.PMC_PRELOAD_P b c)
  (s.set (R.PMC_CNT_COUNT b c) (if p = 0 then sum else 2 ^ 48 - p + (sum - 2 ^ 48))).setB (R.PMC_EVSEL_OVF b c) true

/-- A counter passes 2^48 − 1, which may request a snapshot; the answer lists the sources of PMC that are raised, 1 OVF and
2 SNAP_OVERLAP (R446). -/
def counterCarry (s : State) (b : Blk) (c sum : Nat) : State × List Nat :=
  let s := carryPut s b c sum
  if s.getB R.PMC_SNAP_CFG_OVF_SNAP then
    let r := snapAsk s false
    (r.1, if r.2 then [1, 2] else [1])
  else (s, [1])

/-- Counter c of a block counts k events (R445, R446). -/
def counterAdd (s : State) (b : Blk) (c k : Nat) : State × List Nat :=
  let sum := s.get (R.PMC_CNT_COUNT b c) + k
  if 2 ^ 48 ≤ sum then counterCarry s b c sum else (s.set (R.PMC_CNT_COUNT b c) sum, [])

/-- Whether counter c of a block counts an event (R445). -/
def counterCounts (s : State) (b : Blk) (event c : Nat) : Bool :=
  s.getB (R.PMC_EVSEL_EN b c) && s.get (R.PMC_EVSEL_EVENT b c) == event && !s.getB R.PMC_CTRL_FREEZE

/-- Counter c of a block, where it selects an event, counts k of it; what PMC raises joins the list. -/
def countIn (b : Blk) (event k : Nat) (p : State × List Nat) (c : Nat) : State × List Nat :=
  if k != 0 && counterCounts p.1 b event c then
    let r := counterAdd p.1 b c k
    (r.1, p.2 ++ r.2)
  else p

/-- Every counter of a block that selects an event counts k of it (R445). -/
def countOnce (s : State) (b : Blk) (event k : Nat) : State × List Nat :=
  (List.range 8).foldl (countIn b event k) (s, [])

/-- An event is counted, and the sources of PMC that carries raise are set, unless PMC is in reset, and counted by PMC's
own counters in turn, up to a depth that only a counter of PMC which counts its own overflows at every event exceeds
(R396, R445, R446; log entry 239). -/
def countTo : Nat → State → Blk → Nat → Nat → State
  | 0, s, b, event, k => (countOnce s b event k).1
  | n + 1, s, b, event, k =>
    let r := countOnce s b event k
    r.2.foldl (fun s src =>
      if s.inReset (dev .pmc) then s
      else countTo n (s.setB (R.IRQ_RAW_RAW (dev .pmc) src) true) (dev .pmc) (0x20 + src) 1) r.1

/-- A block's event occurs k times (R445). -/
def State.count (s : State) (b : Blk) (event k : Nat) : State := countTo 16 s b event k

/-- What a counter's carry raises in PMC is set and counted (R396, R445, R446). -/
def carryRaise (r : State × List Nat) : State :=
  r.2.foldl (fun s src =>
    if s.inReset (dev .pmc) then s
    else (s.setB (R.IRQ_RAW_RAW (dev .pmc) src) true).count (dev .pmc) (0x20 + src) 1) r.1

/-! ### Domains that run, and counters of clock cycles (R347, R365, R445) -/

/-- Whether a domain runs in the present power state, without a wake (R365). -/
def State.domainOn (s : State) : Domain → Bool
  | .management => s.power != 3
  | .time => s.power ≤ 1
  | .sheaf _ => s.power == 0
  | .lane l =>
    s.power == 0 && (s.laneCode l != 0 || ((s.powers[l]?).map fun p => p.starting || p.stopping).getD false)

/-- Whether a domain was woken by an access and is ready (R347). -/
def State.domainWoken (s : State) (d : Domain) : Bool := s.woken.any fun w => w.domain == d && w.ready

/-- Whether a domain answers accesses beyond the header. -/
def State.domainAwake (s : State) (d : Domain) : Bool := s.domainOn d || s.domainWoken d

/-- A counter that counts clock cycles has counted on while its domain ran, by how many the model does not know, but
short of a carry, which PMC_OVERFLOW tells (R445, R446; log entry 240). -/
def clockCount (b : Blk) (c : Nat) (s : State) : State :=
  if counterCounts s b 1 c && s.domainAwake b.domain then
    let v := s.get (R.PMC_CNT_COUNT b c)
    (s.set (R.PMC_CNT_COUNT b c) (v + s.free 48 % (2 ^ 48 - v))).draw
  else s

/-- The counters of clock cycles of every block that `p` picks have counted on (R445). -/
def clockCounts (p : Blk → Bool) (s : State) : State :=
  (allBlocks.filter p).foldl (fun s b => (List.range 8).foldl (fun s c => clockCount b c s) s) s

/-! ### Stub events, interrupt sources and conflicts -/

/-- A Stub event of a block (R449); it is accepted at the end of the command (R450). -/
def State.event (s : State) (b : Blk) (inst code data : Nat) : State :=
  { s with raised := s.raised ++ [{ block := b.irq, inst, code, data, time := s.now, power := s.power, lost := 0,
                                    timeValid := s.getB R.TIM_STAT_FINE_READY }] }

/-- An event of interrupt source n of a block: IRQ_RAW[n] is set, unless the block is in reset (R352, R396). -/
def State.irq (s : State) (b : Blk) (n : Nat) : State :=
  if s.inReset b then s else (s.setB (R.IRQ_RAW_RAW b n) true).count b (0x20 + n) 1

/-- A snapshot is requested by a command or by an alarm (R447). -/
def snapRequest (s : State) (command : Bool) : State :=
  let r := snapAsk s command
  if r.2 then r.1.irq (dev .pmc) 2 else r.1

/-- An interrupt source raised together with a SIGNAL Stub event that carries a bit's new value (R449). -/
def State.signal (s : State) (b : Blk) (n : Nat) (new : Bool) : State :=
  (s.irq b n).event b b.inst 5 (n + 256 * b2n new)

/-- A write or command refused by a rule of a block (R335). -/
def State.conflict (s : State) (b : Blk) : State := s.setB (R.BLK_STAT_CONFLICT b) true

/-- The requester code of R264. -/
def Requester.code : Requester → Nat
  | .spi => 1 | .i3c => 2 | .fwc => 3 | .tim => 4 | .remote => 5

/-- A refused claim: CONFLICT and a Stub event with the register offset and the requester (R349, R449). -/
def State.claimRefused (s : State) (b : Blk) (off : Nat) (req : Requester) : State :=
  (s.conflict b).event b b.inst 9 (off + 65536 * Requester.code req)

/-- Set a bit and raise its change source when the bit changes, with the SIGNAL event of a lock change. -/
def State.change (s : State) (f : Fld) (new : Bool) (b : Blk) (n : Nat) : State :=
  if s.getB f == new then s else (s.setB f new).signal b n new

/-! ### The end of a command -/

/-- The order in which events of one cycle are accepted: BLOCK, then INST, then CODE (R450). -/
def eventBefore (a b : StubEvent) : Bool :=
  if a.block != b.block then a.block < b.block
  else if a.inst != b.inst then a.inst < b.inst
  else a.code < b.code

/-- An event put in its place among the events of a cycle; events that tie keep their order. -/
def eventInsert (e : StubEvent) : List StubEvent → List StubEvent
  | [] => [e]
  | x :: xs => if eventBefore e x then e :: x :: xs else x :: eventInsert e xs

/-- The events of a cycle in the order of R450. -/
def eventSort (es : List StubEvent) : List StubEvent := es.foldl (fun acc e => eventInsert e acc) []

/-- An event was dropped: a commit in progress notes it (R455). -/
def StubInt.dropped (x : StubInt) : StubInt := { x with commit := x.commit.map fun c => { c with dropped := true } }

/-- The input queue takes as many of the command's events as it has free entries; the first of them carries the number of
events that were dropped before it, for its LOST entry, and the others are counted as dropped (R449, R450). -/
def settle (s : State) : State :=
  let es := eventSort s.raised
  let room := 16 - s.evQueue.length
  let es' := match es.take room with
    | [] => []
    | e :: rest => { e with lost := s.evDropped } :: rest
  let drops := es.length - room
  { s with raised := [], evQueue := s.evQueue ++ es', evDropped := (if es'.isEmpty then s.evDropped else 0) + drops,
           evLost := satAdd 32 s.evLost drops, stub := if drops = 0 then s.stub else s.stub.dropped }

/-- The outcome of a command: a next state. -/
def done (s : State) : Host.Outcome State Fault Refusal := .next (settle s)

end Sys2Proof.Machine
end

