-- ==== Sys2Proof/Machine/Level.lean ====
section
/-!
DEFINITION. The performance level that the lanes need, and level requests (R25, R370, R371, R372, R378, R381, R382,
R384).
-/

namespace Sys2Proof.Machine

open Sys2Proof

/-- The performance level that a RATE requires: PL3 at 230 GBd, PL2 at 115 GBd (R25). -/
def levelOfRate (rate : Nat) : Nat := if rate = 0 then 3 else 2

/-- A lane's requirement, 0 for none (R384). -/
def State.laneNeed (s : State) (l : Nat) : Nat :=
  let sh := l / 4
  let k := l % 4
  if !s.getB (R.SHF_LANE_CFG_EN sh k) || s.laneCode l == 6 then 0
  else if s.laneCode l == 5 && s.getB (R.SHF_LANE_STATE_TX_DIM sh k) && s.getB (R.SHF_LANE_CFG_DIM_REQ sh k) then 1
  else levelOfRate (s.get (R.SHF_LANE_CFG_RATE sh k))

/-- PWR_PL_STAT.NEED (R381). -/
def State.need (s : State) : Nat := (List.range 8).foldl (fun n l => max n (s.laneNeed l)) 0

/-- Whether PWR_PL_CFG applies: the Gleaner start-up pass has ended and the device is in ACTIVE (R372, R382). -/
def State.levelCfgApplies (s : State) : Bool :=
  !s.coldAsserted && s.getB R.CAL_STAT_STARTUP_DONE && s.power == 0

/-- The level that PWR_PL_CFG selects (R381). -/
def State.cfgLevel (s : State) : Nat :=
  if s.getB R.PWR_PL_CFG_AUTO then max (s.get R.PWR_PL_CFG_MIN) s.need else s.get R.PWR_PL_CFG_REQ

/-- The blocks that answer a handshake, by IRQ index (R370). -/
def handshakeBlocks : List Nat := allBlocks.map Blk.irq

/-- PWR_PL_VOLT of level k, 500 mV + 2.5 mV × code: the nominal value plus the fused trim of −40 mV to +20 mV, kept
within 0.60 V and 0.82 V (R377, R387). -/
def levelVolt (k : Nat) : Nat :=
  (clampInt 40 128 ([40, 60, 80, 120].getD k 40 + ((Config.levelTrim k).toNat % 25 : Nat) - 16)).toNat

/-- PWR sends a voltage write for a level (R377 to R379). -/
def avsSend (t : Nat) (s : State) : State :=
  { s with pwr := { s.pwr with
    levelStage := 2, retried := false, avs := some { rail := s.get R.PWR_AVS_CFG_RAIL, code := levelVolt t } } }

/-- SRAM assist, body bias and clock of a level (R378). -/
def levelSteps (t : Nat) (s : State) : State :=
  { s with pwr := { s.pwr with clockLevel := t, assistOff := t == 3, bias := t - 1 } }

/-- A level change runs, past its handshake: a raise begins with the AVSBus write, a lowering with clock, bias and assist
(R378). -/
def levelMove (t : Nat) (s : State) : State :=
  if s.get R.PWR_PL_STAT_LEVEL = t then s
  else
    let s := (s.setB R.PWR_PL_STAT_BUSY true).set R.PWR_PL_STAT_TARGET t
    avsSend t (if s.get R.PWR_PL_STAT_LEVEL < t then s else levelSteps t s)

/-- A level change starts: a raise at once, a lowering with its handshake (R370, R378). -/
def startLevel (t : Nat) (s : State) : State :=
  if s.get R.PWR_PL_STAT_LEVEL < t then levelMove t s
  else
    let s := (s.setB R.PWR_PL_STAT_BUSY true).set R.PWR_PL_STAT_TARGET t
    { s with pwr := { s.pwr with
      levelStage := 1, retried := false, asked := handshakeBlocks, deferring := [], defers := [] } }

/-- A request for a level: ignored when it equals the current target, pending while a change or a transition is in
progress, in place of what was pending there. One that comes while none is in progress supersedes a request that an
AVSBus failure left pending (R371 to R373; log entry 235). -/
def requestLevel (t : Nat) (s : State) : State :=
  if s.pwr.levelStage != 0 || s.pwr.stateStage != 0 then
    if s.get R.PWR_PL_STAT_TARGET = t then s else { s with pwr := { s.pwr with levelPending := some t } }
  else
    let s := { s with pwr := { s.pwr with levelPending := none } }
    if s.get R.PWR_PL_STAT_TARGET = t then s else startLevel t s

/-- AUTO raises the level as soon as NEED exceeds it (R381). -/
def autoRaise (s : State) : State :=
  if s.levelCfgApplies && s.getB R.PWR_PL_CFG_AUTO && s.get R.PWR_PL_STAT_TARGET < s.need then
    requestLevel s.cfgLevel s
  else s

/-! ### Power-state requests (R371, R374) -/

/-- The current target: of the transition in progress, else the present state (R371). -/
def State.stateTarget (s : State) : Nat := if s.pwr.stateStage != 0 then s.get R.PWR_STATE_TARGET else s.power

/-- The level that an exit to ACTIVE restores: PL3 before the start-up pass has ended, else what PWR_PL_CFG selects
(R382, R383). -/
def State.exitLevel (s : State) : Nat := if s.getB R.CAL_STAT_STARTUP_DONE then s.cfgLevel else 3

/-- A transition starts: to a lower state with its handshake, to a higher one at once, with the level of ACTIVE as a part
of it (R366, R370, R378, R383). -/
def startState (t : Nat) (s : State) : State :=
  let s := (s.setB R.PWR_STATE_BUSY true).set R.PWR_STATE_TARGET t
  let s := { s with pwr := { s.pwr with fromLevel := s.get R.PWR_PL_STAT_LEVEL } }
  if s.power < t then { s with pwr := { s.pwr with
    stateStage := 1, asked := handshakeBlocks, deferring := [], defers := [] } }
  else
    let s := { s with pwr := { s.pwr with stateStage := 3 } }
    if t = 0 then levelMove s.exitLevel s else s

/-- A POWER entry: old and new state, old and new level, and the fields of a refusal or a switch-over (R449). -/
def powerEvent (old new oldLevel newLevel extra : Nat) (s : State) : State :=
  s.event (dev .pwr) 0 3 (old + 4 * new + 16 * oldLevel + 64 * newLevel + extra)

/-- A request for a power state: ignored when it equals the current target, in a switch-over and under COLD; pending
while a change or a transition is in progress (R371 to R373; log entry 225). -/
def requestState (t : Nat) (s : State) : State :=
  if s.pwr.switching || s.coldAsserted || s.stateTarget = t then s
  else if s.pwr.stateStage != 0 || s.pwr.levelStage != 0 then (s.setB R.PWR_STATE_PEND_VALID true).set R.PWR_STATE_PEND t
  else startState t s

/-- The causes of an exit, as bits 0 to 4 of PWR_WAKE_STAT, are latched (R374, R387). -/
def wakeLatch (w : Nat) (s : State) : State :=
  let put (k : Nat) (f : Fld) (s : State) : State := if bitAt w k = 1 then s.setB f true else s
  put 0 R.PWR_WAKE_STAT_PIN <| put 1 R.PWR_WAKE_STAT_WICK <| put 2 R.PWR_WAKE_STAT_ALARM <|
    put 3 R.PWR_WAKE_STAT_VIO <| put 4 R.PWR_WAKE_STAT_REQ s

/-- Wake source k, a bit of PWR_WAKE_STAT, acts in DOZE or RETAIN, or on the way to a lower state: it counts as a
request for ACTIVE, and is the cause of the exit that follows (R371, R374). -/
def wakeActive (k : Nat) (s : State) : State :=
  if s.pwr.switching || s.coldAsserted || s.stateTarget = 0 then s
  else if s.pwr.stateStage != 0 || s.pwr.levelStage != 0 then
    requestState 0 { s with pwr := { s.pwr with wakes := orBits 5 s.pwr.wakes (2 ^ k) } }
  else startState 0 (wakeLatch (2 ^ k) s)

/-- The wake alarm fires in DOZE or on the way there, as no entry to DOZE loses a wake (R374, R375). -/
def wakeAlarm (k : Nat) (s : State) : State :=
  if s.getB R.PWR_WAKE_EN_ALM_EN && s.get R.PWR_WAKE_EN_ALARM == k && (s.power == 1 || s.stateTarget == 1) then
    wakeActive 2 s
  else s

end Sys2Proof.Machine
end

