-- ==== Sys2Proof/Machine/Frame.lean ====
section
/-!
DEFINITION. The Keporus frame and the KIC-1428 inner code as pure functions: pilots, scrambler, encoder,
interleaver, Gray map, precoder, transition stuff and frame layout (R35 to R62), and the transmit shaping (R154 to
R156). A bit is a natural 0 or 1; a level is 0 to 3.
-/

namespace Sys2Proof.Machine

/-- One step of a shift register of `len` bits, bit 0 the oldest: the new bit is the oldest XOR bit `tap`. -/
def lfsrStep (len tap w : Nat) : Nat := w / 2 + 2 ^ (len - 1) * ((w / 2 ^ tap + w) % 2)

/-- The next `n` bits of a shift register and the register after them. -/
def lfsrRun (len tap : Nat) : Nat → Nat → List Nat × Nat
  | 0, w => ([], w)
  | n + 1, w =>
    let r := lfsrRun len tap n (lfsrStep len tap w)
    (w % 2 :: r.1, r.2)

/-! ### Pilots and scrambler -/

/-- The pilot register at p[0] to p[10] = 1, 0, 1, 1, 0, 0, 1, 0, 1, 1, 1 (R42). -/
def pilotSeed : Nat := ofBits [1, 0, 1, 1, 0, 0, 1, 0, 1, 1, 1]

/-- The pilot register moved on by `n` bits (R42). -/
def pilotSkip : Nat → Nat → Nat
  | 0, w => w
  | n + 1, w => pilotSkip n (lfsrStep 11 2 w)

/-- The eight pilot bits of frame f of a superframe (R41, R42). -/
def pilotBits (f : Nat) : List Nat :=
  let bs := (lfsrRun 11 2 8 (pilotSkip (8 * f) pilotSeed)).1
  if f = 255 then bs.take 7 ++ [0] else bs

/-- The pilot levels of frame f; the complemented field replaces L by 3 − L (R43, R44, R64). -/
def pilotLevels (f : Nat) (complement : Bool) : List Nat :=
  (pilotBits f).map fun b => if complement then 3 - 3 * b else 3 * b

/-- The scrambler register at s[0] to s[57] of a superframe with count `sfc` (R48). -/
def scramblerSeed (sfc : Nat) : Nat :=
  ofBits (List.replicate 8 0 ++ (List.range 8).map (fun i => bitAt sfc (7 - i)) ++ List.replicate 42 1)

/-- The 2,864 scrambler bits of one frame and the register after them (R48, R49). -/
def scramblerFrame (w : Nat) : List Nat × Nat := lfsrRun 58 19 2864 w

/-- The scrambler register moved on by n bits. -/
def scramblerSkip : Nat → Nat → Nat
  | 0, w => w
  | n + 1, w => scramblerSkip n (lfsrStep 58 19 w)

/-! ### The KIC-1428 code -/

/-- The generator polynomial g(x) without its leading term x^66, bit i the coefficient of x^i: the product of the
minimal polynomials of α, α^3, α^5, α^7, α^9 and α^11 over x^11 + x^2 + 1 (R54). -/
def kicGenLow : Nat := 0x0855797AB7D105E3F

/-- One step of the division by g(x), the next data bit entering at x^66 (R56). -/
def kicStep (r b : Nat) : Nat :=
  let shifted := r * 2 % 2 ^ 66
  if (r / 2 ^ 65 + b) % 2 = 1 then shifted ^^^ kicGenLow else shifted

/-- The coefficients of r(x) from x^65 down to x^0 for 1,360 data bits (R56). -/
def kicParity (u : List Nat) : List Nat :=
  let r := u.foldl kicStep 0
  (List.range 66).map fun i => bitAt r (65 - i)

/-- The XOR of the bits at even places and of the bits at odd places of a list. -/
def halfParities : List Nat → Nat × Nat
  | [] => (0, 0)
  | b :: bs => let p := halfParities bs; ((b + p.2) % 2, p.1)

/-- A KIC-1428 codeword: data, BCH parity, even and odd half-parity (R55, R57). -/
def kicEncode (u : List Nat) : List Nat :=
  let c := u ++ kicParity u
  let p := halfParities c
  c ++ [p.1, p.2]

/-- The data bits of codeword A (even places) and of codeword B (odd places) of a frame (R58). -/
def splitAB : List Nat → List Nat × List Nat
  | a :: b :: rest => let r := splitAB rest; (a :: r.1, b :: r.2)
  | [a] => ([a], [])
  | [] => ([], [])

/-- The coded stream: symbol m carries A then B when m is even, B then A when m is odd (R59). -/
def interleave : Bool → List Nat → List Nat → List Nat
  | odd, a :: as, b :: bs => if odd then b :: a :: interleave false as bs else a :: b :: interleave true as bs
  | _, _, _ => []

/-- The coded stream of a frame's 2,720 data bits (R58, R59). -/
def codedStream (d : List Nat) : List Nat :=
  let ab := splitAB d
  interleave false (kicEncode ab.1) (kicEncode ab.2)

/-! ### Mapping, precoding and layout -/

/-- The Gray map of a bit pair (R60). -/
def grayLevel (msb lsb : Nat) : Nat := if msb = 0 then (if lsb = 0 then 0 else 1) else (if lsb = 0 then 3 else 2)

/-- The levels of a bit stream, two bits a symbol, MSB first (R37, R60). -/
def grayMap : List Nat → List Nat
  | m :: l :: rest => grayLevel m l :: grayMap rest
  | _ => []

/-- The precoder: y[n] = (x[n] − y[n−1]) mod 4 (R62). -/
def precode : Nat → List Nat → List Nat
  | _, [] => []
  | y, x :: xs => let y' := (x + 4 - y % 4) % 4; y' :: precode y' xs

/-- The receiver's inverse of the precoder: x[n] = (y[n] + y[n−1]) mod 4 (R62). -/
def unprecode : Nat → List Nat → List Nat
  | _, [] => []
  | y, x :: xs => (x + y) % 4 :: unprecode x xs

/-- The transition-stuff level after a level, or after a position that was not sent (R38). -/
def stuffLevel : Option Nat → Nat
  | none => 0
  | some l => if l ≤ 1 then 3 else 0

/-- Blocks put after their stuff symbols, given the level sent before (R35, R38). -/
def placeBlocks : Nat → Option Nat → List Nat → List Nat
  | 0, _, _ => []
  | n + 1, prev, body =>
    let here := body.take 45
    stuffLevel prev :: here ++ placeBlocks n here.getLast? (body.drop 45)

/-- What LFR and TXP build one frame from. -/
structure FrameInput where
  frame : Nat
  complement : Bool
  overhead : Nat
  data : List Nat
  scramble : Bool
  precoded : Bool
  deriving DecidableEq, Repr

/-- The 2,864 transmitted bits of a frame, overhead byte first, and the scrambler after it (R49). -/
def frameBits (i : FrameInput) (w : Nat) : List Nat × Nat :=
  let s := scramblerFrame w
  let clear := (List.range 8).map (fun k => bitAt i.overhead (7 - k)) ++ codedStream i.data
  (if i.scramble then List.zipWith (fun a b => (a + b) % 2) clear s.1 else clear, s.2)

/-- The 1,472 levels of a frame sent in full, after the level sent before it, and the scrambler after it (R35). -/
def frameLevels (i : FrameInput) (prev : Option Nat) (w : Nat) : List Nat × Nat :=
  let b := frameBits i w
  let x := grayMap b.1
  let y := if i.precoded then precode 0 x else x
  (placeBlocks 32 prev (pilotLevels i.frame i.complement ++ y), b.2)

/-- The 2,720 data bits that GBX makes of the bits of host lanes A and B: RS symbols of ten bits alternately
(R193). -/
def muxTwo : Nat → List Nat → List Nat → List Nat
  | 0, _, _ => []
  | n + 1, a, b => a.take 10 ++ b.take 10 ++ muxTwo n (a.drop 10) (b.drop 10)

/-- The bits of host lanes A and B in a frame's data bits (R193). -/
def demuxTwo : Nat → List Nat → List Nat × List Nat
  | 0, _ => ([], [])
  | n + 1, d =>
    let r := demuxTwo n (d.drop 20)
    (d.take 10 ++ r.1, (d.drop 10).take 10 ++ r.2)

/-! ### Transmit shaping -/

/-- The values that shape the output: taps, main tap, level step and predistortion (R154 to R156). -/
structure TxShape where
  taps : List Int
  main : Nat
  step : Nat
  pd : List Int
  deriving DecidableEq, Repr

/-- The nominal amplitude of a level, 0 where nothing is sent (R154, R155). -/
def amplitude (step : Nat) : Option Nat → Int
  | none => 0
  | some l => (2 * (l : Int) - 3) * step

/-- The FIR output in 1/256 code for a window of 13 symbols whose middle is symbol n (R155). -/
def firSum (p : TxShape) (win : List (Option Nat)) : Int :=
  (List.range 7).foldl (fun acc t => acc + p.taps.getD t 0 * amplitude p.step (win.getD (6 + p.main - t) none)) 0

/-- The predistortion entry of the middle symbol, a neighbour that is not sent taken as level 0 (R156). -/
def pdEntry (p : TxShape) (win : List (Option Nat)) (a : Nat) : Int :=
  p.pd.getD (16 * ((win.getD 5 none).getD 0) + 4 * a + (win.getD 7 none).getD 0) 0

/-- The DAC code before saturation; none where the middle symbol is not sent (R155, R156). -/
def rawCode (p : TxShape) (win : List (Option Nat)) : Option Int :=
  match win.getD 6 none with
  | none => none
  | some a => some (roundDiv (firSum p win + 64 * pdEntry p win a) 256)

/-- The DAC code, saturated to −128 … +127 (R156). -/
def dacCode (p : TxShape) (win : List (Option Nat)) : Option Int := (rawCode p win).map (clampInt (-128) 127)

/-- Whether the code saturates (R156). -/
def codeSaturates (p : TxShape) (win : List (Option Nat)) : Bool :=
  match rawCode p win with
  | none => false
  | some k => k < -128 || 127 < k

/-- The windows of 13 symbols of a stream. -/
def windows13 : List (Option Nat) → List (List (Option Nat))
  | [] => []
  | x :: xs => if xs.length < 12 then [] else (x :: xs.take 12) :: windows13 xs

end Sys2Proof.Machine
end

