-- ==== Sys2Proof/Machine/Kic.lean ====
section
/-!
DEFINITION. Decoding the KIC-1428 code: the field GF(2^11), the bounded-distance decoder, hard and soft passes and
extrinsic values (R54 to R57, R124 to R126), and the receiver's path from levels to line bits (R60, R62).
-/

namespace Sys2Proof.Machine

/-! ### GF(2^11) over x^11 + x^2 + 1 (R54) -/

/-- Multiplication by α. -/
def gfDouble (a : Nat) : Nat := if 2048 ≤ 2 * a then (2 * a) ^^^ 0x805 else 2 * a

/-- The product with the low `n` bits of `b`. -/
def gfMulBits : Nat → Nat → Nat → Nat
  | 0, _, _ => 0
  | n + 1, a, b => (if b % 2 = 1 then a else 0) ^^^ gfMulBits n (gfDouble a) (b / 2)

def gfMul (a b : Nat) : Nat := gfMulBits 11 a b

/-- α^n. -/
def gfAlpha : Nat → Nat
  | 0 => 1
  | n + 1 => gfDouble (gfAlpha n)

/-- The product of the next `n` squarings of `sq`. -/
def gfInvLoop : Nat → Nat → Nat → Nat
  | 0, _, acc => acc
  | n + 1, sq, acc => let q := gfMul sq sq; gfInvLoop n q (gfMul acc q)

/-- The inverse a^2046. -/
def gfInv (a : Nat) : Nat := gfInvLoop 10 a 1

/-- The value of a polynomial, lowest coefficient first. -/
def gfEval (x : Nat) : List Nat → Nat
  | [] => 0
  | c :: cs => c ^^^ gfMul x (gfEval x cs)

/-! ### The bounded-distance decoder -/

/-- Syndrome S_j of the 1,426 bits of a word, bit i the coefficient of x^(1425−i). -/
def syndrome (j : Nat) (h : List Nat) : Nat :=
  let a := gfAlpha j
  h.foldl (fun s b => gfMul s a ^^^ (b % 2)) 0

/-- The twelve syndromes S_1 to S_12. -/
def syndromes (h : List Nat) : List Nat := (List.range 12).map fun j => syndrome (j + 1) h

/-- Sum of two polynomials, the second times `k` and x^m. -/
def polyAdd (p : List Nat) (k m : Nat) (q : List Nat) : List Nat :=
  (List.range (max p.length (q.length + m))).map fun i =>
    p.getD i 0 ^^^ (if i < m then 0 else gfMul k (q.getD (i - m) 0))

/-- The error locator in the making: the polynomial, its length, and the last one before the length changed. -/
structure Locator where
  sigma : List Nat
  len : Nat
  last : List Nat
  gap : Nat
  disc : Nat
  deriving DecidableEq, Repr

/-- One step of the Berlekamp-Massey algorithm at syndrome index n. -/
def locatorStep (ss : List Nat) (c : Locator) (n : Nat) : Locator :=
  let d := (List.range (c.len + 1)).foldl (fun acc i =>
    if n < i then acc else acc ^^^ gfMul (c.sigma.getD i 0) (ss.getD (n - i) 0)) 0
  if d = 0 then { c with gap := c.gap + 1 }
  else
    let next := polyAdd c.sigma (gfMul d (gfInv c.disc)) c.gap c.last
    if 2 * c.len ≤ n then { sigma := next, len := n + 1 - c.len, last := c.sigma, gap := 1, disc := d }
    else { c with sigma := next, gap := c.gap + 1 }

/-- The error locator of twelve syndromes. -/
def locator (ss : List Nat) : Locator :=
  (List.range 12).foldl (locatorStep ss) { sigma := [1], len := 0, last := [1], gap := 1, disc := 1 }

/-- The word with the bits at the locator's roots flipped, and how many there were. -/
def flipRoots (sigma : List Nat) : Nat → List Nat → List Nat × Nat
  | _, [] => ([], 0)
  | x, b :: bs =>
    let r := flipRoots sigma (gfDouble x) bs
    if gfEval x sigma = 0 then ((b + 1) % 2 :: r.1, r.2 + 1) else (b :: r.1, r.2)

/-- The BCH decoding of 1,426 bits: the corrected word and its number of errors, at most 6 (R124). -/
def bchDecode (h : List Nat) : Option (List Nat × Nat) :=
  let c := locator (syndromes h)
  if 6 < c.len then none
  else
    let r := flipRoots c.sigma (gfAlpha 622) h
    if r.2 = c.len then some r else none

/-- A hard pass over 1,428 bits (R124). -/
def hardPass (h : List Nat) : Option (List Nat) :=
  match bchDecode (h.take 1426) with
  | none => none
  | some (w, e) =>
    let p := halfParities w
    let q := b2n (p.1 != h.getD 1426 0) + b2n (p.2 != h.getD 1427 0)
    if e + q ≤ 6 then some (w ++ [p.1, p.2]) else none

/-! ### Soft passes -/

/-- The hard decisions of a list of values (R122). -/
def hardBits (r : List Int) : List Nat := r.map fun v => if v < 0 then 1 else 0

/-- A position put into a list of the least reliable, lower index first among equals (R125). -/
def leastInsert (x : Nat × Nat) : List (Nat × Nat) → List (Nat × Nat)
  | [] => [x]
  | y :: ys => if x.1 < y.1 then x :: y :: ys else y :: leastInsert x ys

/-- The P least reliable positions among 0 to 1425 (R125). -/
def leastReliable (p : Nat) (r : List Int) : List Nat :=
  ((List.zipIdx (r.take 1426)).foldl (fun acc v => (leastInsert (v.1.natAbs, v.2) acc).take p) []).map (·.2)

/-- Test word t: the bits at the positions that the set bits of t name are flipped (R125). -/
def testWord (h : List Nat) (pos : List Nat) (t : Nat) : List Nat :=
  (List.zipIdx pos).foldl (fun w p => if bitAt t p.2 = 1 then w.set p.1 (1 - w.getD p.1 0) else w) h

/-- The metric of a result: the sum of |r_i| where it differs from h (R125). -/
def metric (r : List Int) (h d : List Nat) : Nat :=
  (List.zipWith (fun (v : Int) (p : Nat × Nat) => if p.1 = p.2 then 0 else v.natAbs) r (List.zip h d)).foldl
    (· + ·) 0

/-- The accepted results of all test words with their metrics, by rising t (R125). -/
def accepted (p : Nat) (r : List Int) : List (List Nat × Nat) :=
  let h := hardBits r
  let pos := leastReliable p r
  (List.range (2 ^ p)).filterMap fun t => (hardPass (testWord h pos t)).map fun d => (d, metric r h d)

/-- The result with the smallest metric, the earlier one among equals (R125). -/
def bestOf : List (List Nat × Nat) → Option (List Nat × Nat)
  | [] => none
  | x :: xs => match bestOf xs with
    | none => some x
    | some y => if y.2 < x.2 then some y else some x

/-- A soft pass (R125). -/
def softPass (p : Nat) (r : List Int) : Option (List Nat) := (bestOf (accepted p r)).map (·.1)

/-- The extrinsic value of bit i (R126); `alpha` is in sixteenths, `beta` and the values in units of 0.5. -/
def extrinsicBit (acc : List (List Nat × Nat)) (d : List Nat × Nat) (alpha beta : Nat) (i : Nat) (r : Int) : Int :=
  let di := d.1.getD i 0
  let sign : Int := 1 - 2 * di
  let si : Int := match bestOf (acc.filter fun c => c.1.getD i 0 != di) with
    | some c => sign * ((c.2 : Int) - d.2)
    | none => sign * beta
  clampInt (-31) 31 (roundDiv (alpha * (si - r)) 16)

/-- The extrinsic values of a codeword's 1,428 bits, all 0 when it is uncorrectable (R126). -/
def extrinsic (p alpha beta : Nat) (r : List Int) : List Int :=
  let acc := accepted p r
  match bestOf acc with
  | none => r.map fun _ => 0
  | some d => (List.zipIdx r).map fun v => extrinsicBit acc d alpha beta v.2 v.1

/-! ### From levels to values -/

/-- The levels of a frame without its 32 stuff symbols (R35). -/
def unstuff : Nat → List Nat → List Nat
  | 0, _ => []
  | n + 1, ls => (ls.drop 1).take 45 ++ unstuff n (ls.drop 46)

/-- The two bits of a level, MSB first (R60). -/
def grayBits (l : Nat) : List Nat := if l = 0 then [0, 0] else if l = 1 then [0, 1] else if l = 2 then [1, 1] else [1, 0]

/-- The 2,864 line bits, overhead byte first, of the 1,472 decided levels of a frame (R35, R60, R62). -/
def lineBits (precoded : Bool) (levels : List Nat) : List Nat :=
  let x := (unstuff 32 levels).drop 8
  (if precoded then unprecode 0 x else x).flatMap grayBits

/-- A stream of coded values split into codewords A and B, as bit i = m of each (R59, R122). -/
def deinterleave {α : Type} : Bool → List α → List α × List α
  | odd, x :: y :: rest =>
    let r := deinterleave (!odd) rest
    if odd then (y :: r.1, x :: r.2) else (x :: r.1, y :: r.2)
  | _, _ => ([], [])

/-- The coded stream of two codewords' values: the inverse of `deinterleave` (R59). -/
def reinterleave {α : Type} : Bool → List α → List α → List α
  | odd, a :: as, b :: bs => if odd then b :: a :: reinterleave false as bs else a :: b :: reinterleave true as bs
  | _, _, _ => []

/-- The data bits d of two codewords (R58, R123). -/
def joinAB : List Nat → List Nat → List Nat
  | a :: as, b :: bs => a :: b :: joinAB as bs
  | _, _ => []

/-- The scrambler bits of the coded stream of frame f under a superframe count (R49, R122). -/
def codedScrambler (sfc f : Nat) : List Nat :=
  (lfsrRun 58 19 2856 (scramblerSkip (2864 * f + 8) (scramblerSeed sfc))).1

/-- Values with their signs turned where the scrambler bit is 1 (R122). -/
def descramble (sc : List Nat) (v : List Int) : List Int := List.zipWith (fun b x => if b = 1 then -x else x) sc v

end Sys2Proof.Machine
end

