-- ==== Sys2Proof/Machine/Sequence.lean ====
section
/-!
DEFINITION. A receiver's path from ADC samples to decisions and likelihoods as pure functions: interleaved cores, the
equaliser, the slicer, the sequence detector and its trellis, the LMS step, level measurement, the phase detector and the
packing of captures (R44, R78, R86, R89, R92 to R97, R106, R108, R109). Level means and sigmas are in 1/16 code,
coefficients in 2^-10.
-/

namespace Sys2Proof.Machine

open Sys2Proof

/-! ### The interleaved converter (R78) -/

/-- The sub-converter that takes sample n. -/
def subOf (n : Nat) : Nat := n % 2

/-- The core that takes sample n. -/
def coreOf (n : Nat) : Nat := 48 * (n % 2) + n / 2 % 48

/-! ### Equaliser and slicer -/

/-- The sum of products of two lists. -/
def dot : List Int → List Int → Int
  | a :: as, b :: bs => a * b + dot as bs
  | _, _ => 0

/-- The 48 samples that the taps weigh, newest first; `xs` begins 1,023 − M samples before the symbol (R89). -/
def tapSamples (xs : List Int) : List Int := ((xs.drop 976).take 48).reverse

/-- The equalised sample of the symbol that `xs` stands at (R89): `xs` begins 1,023 samples before x[n + M]. -/
def equalised (taps : List Int) (echo : List (Nat × Int)) (xs : List Int) : Int :=
  let sum := echo.foldl (fun acc e => acc + e.2 * xs.getD (1023 - e.1) 0) (dot taps (tapSamples xs))
  clampInt (-128) 127 (roundDiv sum 1024)

/-- The equalised samples of `n` symbols in a row (R89). -/
def equaliseRun (taps : List Int) (echo : List (Nat × Int)) : Nat → List Int → List Int
  | 0, _ => []
  | n + 1, xs => equalised taps echo xs :: equaliseRun taps echo n xs.tail

/-- The equalised samples of a stretch, from 32 symbols before its first to 32 after its last (R89, R95). -/
def RxShape.equalise (p : RxShape) (x : LineSamples) : List Int :=
  equaliseRun p.taps p.echo (x.size + 64) (x.codes.drop p.main)

/-- The slicer's level of a sample (R92). -/
def sliceLevel (thr : List Int) (z : Int) : Nat :=
  if z < thr.getD 0 0 then 0 else if z < thr.getD 1 0 then 1 else if z < thr.getD 2 0 then 2 else 3

/-! ### Pilots -/

/-- The hard decision of a pilot sample, 1 for level 3: above the midpoint of the means of levels 0 and 3 (R44). -/
def pilotDecision (mu : List Int) (z : Int) : Nat := b2n (decide (mu.getD 0 0 + mu.getD 3 0 < 32 * z))

/-- The eight decisions of a pilot field, bit i for symbol i (R44). -/
def pilotDecisions (mu z : List Int) : Nat := ofBits (z.map (pilotDecision mu))

/-- How many of eight pilot decisions (bit i of `d` is 1 for level 3) differ from the expected levels (R44). -/
def pilotMisses (f : Nat) (complement : Bool) (d : Nat) : Nat :=
  ((List.range 8).filter fun i => 3 * bitAt d i != (pilotLevels f complement).getD i 0).length

/-- Whether a pilot field is good, and whether it is good against the complemented sequence (R44). -/
def pilotJudge (tol f d : Nat) : Bool × Bool :=
  let comp := 248 ≤ f && pilotMisses f true d ≤ tol
  (pilotMisses f false d ≤ tol || comp, comp)

/-! ### The trellis (R93, R94) -/

/-- What the frame structure says of a symbol: transition stuff, a pilot of a known level, or an overhead or coded
symbol whose precoder memory is nothing, the level before it, or the level before the stuff symbol before it (R35,
R62, R94). -/
inductive SymKind where
  | stuff
  | pilot (level : Nat)
  | coded (memory : Option Bool)
  deriving DecidableEq, Repr

/-- The place of a symbol in its superframe: the frame and the position in it (R35, R41). -/
def frameOf (place : Nat) : Nat := place / 1472 % 256

def positionOf (place : Nat) : Nat := place % 1472

/-- What the frame structure says of the symbol at a place (R94); `comp` says that the pilot field matches the
complemented sequence. -/
def symKind (place : Nat) (comp : Bool) : SymKind :=
  let q := positionOf place
  if q % 46 = 0 then .stuff
  else if q ≤ 8 then .pilot ((pilotLevels (frameOf place) comp).getD (q - 1) 0)
  else .coded (if q = 9 then none else some (q % 46 != 1))

/-- Whether the pilot field that a pilot symbol stands in matches the complemented sequence; `field` holds the field's
equalised samples (R44, R94). -/
def fieldComplemented (p : RxShape) (place : Nat) (field : List Int) : Bool :=
  field.length == 8 && (pilotJudge p.tol (frameOf place) (pilotDecisions p.mu field)).2

/-- What the detector knows of a symbol: its equalised sample, its kind, and the priors of its bits in units of 0.5. -/
structure TrellisSym where
  z : Int
  kind : SymKind
  prior1 : Int
  prior0 : Int
  deriving DecidableEq, Repr

/-- The symbols of equalised samples `zs` that begin at a place, with the priors of their line bits, MSB first. -/
def trellisSyms (p : RxShape) (place : Nat) (zs : List Int) (priors : List (Int × Int)) : List TrellisSym :=
  (List.zipIdx zs).map fun v =>
    let at' := place + v.2
    let q := positionOf at'
    let field := if 1 ≤ q ∧ q ≤ 8 ∧ q ≤ v.2 + 1 then (zs.drop (v.2 + 1 - q)).take 8 else []
    let pr := priors.getD v.2 (0, 0)
    { z := v.1, kind := symKind at' (fieldComplemented p at' field), prior1 := pr.1, prior0 := pr.2 }

/-- The binary logarithm of a number below 2^16 and at least 1, rounded down. -/
def highBit (n : Nat) : Nat := (List.range 16).foldl (fun h i => if 2 ^ i ≤ n then i else h) 0

/-- The next `k` bits of the binary logarithm of m / 2^30, which is at least 1 and below 2. -/
def logBits : Nat → Nat → Nat
  | 0, _ => 0
  | k + 1, m =>
    let q := m * m / 2 ^ 30
    if 2 ^ 31 ≤ q then 2 ^ k + logBits k (q / 2) else logBits k q

/-- The natural logarithm of n in 2^-24. -/
def lnFixed (n : Nat) : Nat := (2 ^ 28 * highBit n + logBits 28 (n * 2 ^ 30 / 2 ^ highBit n)) * 2977044472 / 2 ^ 36

/-- The sigma of a level as the branch metric takes it; R93 states no metric for a sigma of 0. -/
def sigmaUsed (sigma : Nat) : Nat := if sigma = 0 then Config.zeroSigma.toNat else sigma

/-- The expected sample of R93 in 2^-14 code. -/
def RxShape.expected (p : RxShape) (a a1 a2 : Nat) : Int :=
  1024 * p.mu.getD a 0 + p.h1 * p.mu.getD a1 0 + p.h2 * p.mu.getD a2 0

/-- The MSB and LSB that a branch stands for (R60, R62, R94). -/
def branchBits (precoded : Bool) (memory : Option Bool) (a a1 a2 : Nat) : Nat × Nat :=
  let before := match memory with
    | none => 0
    | some near => if near then a1 else a2
  let x := if precoded then (a + before) % 4 else a
  ((grayBits x).getD 0 0, (grayBits x).getD 1 0)

/-- Whether a branch is allowed (R94). -/
def branchAllowed (k : SymKind) (a a1 : Nat) : Bool :=
  match k with
  | .stuff => 2 ≤ absDiff a a1
  | .pilot level => a == level
  | .coded _ => true

/-- What the priors of a branch's bits add to its metric, in 2^-24 (R93). -/
def priorTerm (p : RxShape) (y : TrellisSym) (a a1 a2 : Nat) : Int :=
  match y.kind with
  | .coded m =>
    let b := branchBits p.precoded m a a1 a2
    2 ^ 22 * ((2 * (b.1 : Int) - 1) * y.prior1 + (2 * (b.2 : Int) - 1) * y.prior0)
  | _ => 0

/-- The branch metric of R93 in 2^-24, none for a branch that R94 forbids. -/
def branchMetric (p : RxShape) (y : TrellisSym) (a a1 a2 : Nat) : Option Int :=
  if branchAllowed y.kind a a1 then
    let d := 16384 * y.z - p.expected a a1 a2
    let sg := sigmaUsed (p.sigma.getD a 0)
    some (8 * (d * d) / (sg * sg : Nat) + lnFixed sg - lnFixed 16 + priorTerm p y a a1 a2)
  else none

/-- The smaller of two path metrics. -/
def pathMin : Option Int → Option Int → Option Int
  | none, y => y
  | x, none => x
  | some x, some y => if y < x then some y else some x

/-- The sum of two path metrics. -/
def pathAdd : Option Int → Option Int → Option Int
  | some x, some y => some (x + y)
  | _, _ => none

/-- The smallest metric of a list. -/
def pathBest (ms : List (Option Int)) : Option Int := ms.foldl pathMin none

/-- The path metrics of the 16 states after a symbol, state 4·a[n] + a[n−1] (R93). -/
def stepForward (p : RxShape) (y : TrellisSym) (m : List (Option Int)) : List (Option Int) :=
  (List.range 16).map fun st =>
    pathBest ((List.range 4).map fun a2 =>
      pathAdd (m.getD (4 * (st % 4) + a2) none) (branchMetric p y (st / 4) (st % 4) a2))

/-- The metrics of the paths that go on from the 16 states before a symbol (R93). -/
def stepBackward (p : RxShape) (y : TrellisSym) (m : List (Option Int)) : List (Option Int) :=
  (List.range 16).map fun st =>
    pathBest ((List.range 4).map fun a =>
      pathAdd (m.getD (4 * a + st / 4) none) (branchMetric p y a (st / 4) (st % 4)))

/-- The path metrics before each symbol of a window. -/
def forwards (p : RxShape) : List (Option Int) → List TrellisSym → List (List (Option Int))
  | _, [] => []
  | m, y :: ys => m :: forwards p (stepForward p y m) ys

/-- The metrics of the paths that go on after each symbol of a window, and from before the first. -/
def backwards (p : RxShape) : List TrellisSym → List (List (Option Int)) × List (Option Int)
  | [] => ([], List.replicate 16 (some 0))
  | y :: ys => let r := backwards p ys; (r.2 :: r.1, stepBackward p y r.2)

/-- The smallest total metric of the paths through a symbol on branches that satisfy `want` (R95). -/
def throughSymbol (p : RxShape) (y : TrellisSym) (before after : List (Option Int))
    (want : Nat → Nat → Nat → Bool) : Option Int :=
  pathBest ((List.range 64).map fun i =>
    let a := i / 16
    let a1 := i / 4 % 4
    let a2 := i % 4
    if want a a1 a2 then
      pathAdd (pathAdd (before.getD (4 * a1 + a2) none) (branchMetric p y a a1 a2)) (after.getD (4 * a + a1) none)
    else none)

/-- λ = M1 − M0 in units of 0.5, to nearest, saturated (R95). -/
def softValue (m1 m0 : Option Int) : Int :=
  match m1, m0 with
  | some x, some y => clampInt (-31) 31 (roundDiv (x - y) (2 ^ 23))
  | none, some _ => 31
  | some _, none => -31
  | none, none => 0

/-- What the detector answers for a symbol: its level and the λ of its MSB and LSB, 0 where the symbol has no bits (R93
to R95). -/
structure Detected where
  level : Nat
  msb : Int
  lsb : Int
  deriving DecidableEq, Repr

/-- The level on the best path through a symbol, the lower one among equals (R93). -/
def bestLevel (p : RxShape) (y : TrellisSym) (before after : List (Option Int)) : Nat :=
  let m := (List.range 4).map fun v => throughSymbol p y before after fun a _ _ => a == v
  let best := pathBest m
  ((List.range 4).find? fun v => m.getD v none == best).getD 0

/-- The detector's answer for a symbol of a window (R93 to R95). -/
def detectSymbol (p : RxShape) (y : TrellisSym) (before after : List (Option Int)) : Detected :=
  let level := bestLevel p y before after
  match y.kind with
  | .coded mem =>
    let least (sel : Nat × Nat → Nat) (v : Nat) := throughSymbol p y before after fun a a1 a2 =>
      sel (branchBits p.precoded mem a a1 a2) == v
    { level := level, msb := softValue (least (·.1) 1) (least (·.1) 0),
      lsb := softValue (least (·.2) 1) (least (·.2) 0) }
  | _ => { level := level, msb := 0, lsb := 0 }

/-- The detector's answers for every symbol of a window, exact within it (R95). -/
def detectWindow (p : RxShape) (ys : List TrellisSym) : List Detected :=
  (ys.zip ((forwards p (List.replicate 16 (some 0)) ys).zip (backwards p ys).1)).map fun v =>
    detectSymbol p v.1 v.2.1 v.2.2

/-- `k` windows of 160 symbols in a row, each answering for the 96 between its overlaps of 32 (R95). -/
def detectRun (p : RxShape) : Nat → List TrellisSym → List Detected
  | 0, _ => []
  | k + 1, ys =>
    let w := ys.take 160
    ((detectWindow p w).drop 32).take (w.length - 64) ++ detectRun p k (ys.drop 96)

/-! ### Decisions of a stretch -/

/-- The detector's answers for the symbols of a stretch, with the priors of their bits (R93 to R96). -/
def RxShape.detect (p : RxShape) (x : LineSamples) (priors : List (Int × Int)) : List Detected :=
  let ys := trellisSyms p x.before (p.equalise x) (List.replicate 32 (0, 0) ++ priors)
  detectRun p ((x.size + 95) / 96) ys

/-- The decided levels of a stretch, from the slicer or the MLSE (R92, R93). -/
def RxShape.levels (p : RxShape) (x : LineSamples) : List Nat :=
  if p.mlse then (p.detect x []).map (·.level)
  else (((p.equalise x).drop 32).take x.size).map (sliceLevel p.thr)

/-- The decided levels of the two symbols before a stretch, oldest first, from the stretch's first window (R93, R209; log
entry 211). -/
def RxShape.levelsBefore (p : RxShape) (x : LineSamples) : List Nat :=
  let zs := p.equalise x
  if p.mlse then
    (((detectWindow p ((trellisSyms p x.before zs []).take 160)).drop 30).take 2).map (·.level)
  else ((zs.drop 30).take 2).map (sliceLevel p.thr)

/-- The decided levels of a stretch with those of the two symbols before it: the level of symbol i stands at i + 2. -/
def RxShape.context (p : RxShape) (x : LineSamples) : List Nat :=
  let before := p.levelsBefore x
  [before.getD 0 0, before.getD 1 0] ++ p.levels x

/-- The λ of the bits of a frame's coded stream, 2,856 values (R95, R121). -/
def codedValues (ds : List Detected) : List Int :=
  ((List.zipIdx ds).filter fun v => 13 ≤ v.2 && v.2 % 46 != 0).flatMap fun v => [v.1.msb, v.1.lsb]

/-- The priors of a frame's symbols from those of its 2,856 coded bits; all other symbols have none (R126). -/
def symbolPriors (e : List Int) : List (Int × Int) :=
  (List.range 1472).map fun q =>
    if q < 13 || q % 46 = 0 then (0, 0)
    else let m := q - 13 - q / 46; (e.getD (2 * m) 0, e.getD (2 * m + 1) 0)

/-- The second engine's values: λ minus the prior, in the format of λ (R96). -/
def withoutPriors (y e : List Int) : List Int := List.zipWith (fun a b => clampInt (-31) 31 (a - b)) y e

/-! ### Loops and measurement -/

/-- The error of an equalised sample against its target, in 2^-14 code: the slicer's level mean, or the expected sample
of R93 while decisions come from the MLSE (R97, R106). -/
def RxShape.error (p : RxShape) (z : Int) (a a1 a2 : Nat) : Int :=
  16384 * z - (if p.mlse then p.expected a a1 a2 else 1024 * p.mu.getD a 0)

/-- The LMS step of one tap in 2^-15: by 2^-MU, up where the error of the target against the sample and the tap's
sample have one sign, down where they differ (R97). -/
def lmsTap (mu : Nat) (e x c : Int) : Int :=
  clampInt (-65536) 65535 (c + Int.sign (-e) * Int.sign x * 2 ^ (15 - mu))

/-- A sign-sign LMS update of all 48 taps, in 2^-15, at symbol i of a stretch with the decided levels `lv` from two
symbols before it on (R97). -/
def lmsUpdate (p : RxShape) (mu : Nat) (x : LineSamples) (lv : List Nat) (fine : List Int) (i : Nat) : List Int :=
  let xs := x.codes.drop (i + 32 + p.main)
  let z := equalised (fine.map (· / 32)) p.echo xs
  let e := p.error z (lv.getD (i + 2) 0) (lv.getD (i + 1) 0) (lv.getD i 0)
  List.zipWith (lmsTap mu e) (tapSamples xs) fine

/-- One decided symbol is added to the four levels' sums (R106). -/
def levelAdd (sums : List LevelSum) (a : Nat) (z e : Int) : List LevelSum :=
  let m := sums.getD a ⟨0, 0, 0⟩
  sums.set a ⟨m.count + 1, m.sum + z, m.square + (e * e).toNat⟩

/-- A stretch, with the decided levels `lv` from two symbols before it on, is added to the four levels' sums, but for
the places that `use` does not name (R87, R106). -/
def levelSums (p : RxShape) (x : LineSamples) (lv : List Nat) (use : Nat → Bool) (sums : List LevelSum) :
    List LevelSum :=
  let zs := (p.equalise x).drop 32
  (List.zipIdx ((lv.drop 2).zip zs)).foldl (fun m v =>
    if !use (x.place + v.2) then m
    else levelAdd m v.1.1 v.1.2 (p.error v.1.2 v.1.1 (lv.getD (v.2 + 1) 0) (lv.getD v.2 0))) sums

/-- The square root of n, rounded down, below 2^k. -/
def rootBits : Nat → Nat → Nat → Nat
  | 0, _, base => base
  | k + 1, n, base => rootBits k n (if (base + 2 ^ k) * (base + 2 ^ k) ≤ n then base + 2 ^ k else base)

/-- The square root of a / b to nearest, below 2^16. -/
def rootNear (a b : Nat) : Nat := (rootBits 17 (4 * a / b) 0 + 1) / 2

/-- The mean and the sigma of a level, in 1/16 code; none where no symbol was decided as the level (R106). -/
def LevelSum.result (m : LevelSum) : Option (Int × Nat) :=
  if m.count = 0 then none else some (roundDiv (16 * m.sum) m.count, rootNear m.square (m.count * 2 ^ 20))

/-- The detected phase error at symbol i of a stretch, in 2^-16 UI: from the equalised samples `zs` and decisions `lv`,
both from the symbol before the stretch on, with the two-level transition of a stuff symbol added at a fixed weight (R86).
-/
def phaseError (zs : List Int) (lv : List Nat) (stuff : Bool) (i : Nat) : Int :=
  let z0 := zs.getD i 0
  let z1 := zs.getD (i + 1) 0
  let a0 := lv.getD i 0
  let a1 := lv.getD (i + 1) 0
  Config.phaseDetector z0 z1 a0 a1 + if stuff then Config.stuffWeight.toNat * Config.stuffPhase z0 z1 a0 a1 else 0

/-- The places from which timing recovery updates in DIM: positions 0 to 8 of frame 0, and the training burst (R87). -/
def dimPlace (burst : Bool) (place : Nat) : Bool :=
  (frameOf place == 0 && positionOf place ≤ 8) || (burst && 192 ≤ frameOf place)

/-- The detected phase errors of a stretch with the decided levels `lv` from two symbols before it on, at the places that
`use` names (R86, R87). -/
def phaseErrors (p : RxShape) (x : LineSamples) (lv : List Nat) (use : Nat → Bool) : List Int :=
  let zs := (p.equalise x).drop 31
  ((List.range x.size).filter fun i => use (x.place + i)).map fun i =>
    phaseError zs lv.tail (positionOf (x.place + i) % 46 == 0) i

/-- Whether phase errors stay within ±1/16 UI RMS (R86). -/
def phaseSmall (es : List Int) : Bool := (es.foldl (fun a e => a + e * e) 0).toNat ≤ es.length * 2 ^ 24

/-- The data-path clocks of a stretch with a sample at −128 or +127; a clock carries 160 symbols (R77). -/
def clipClocks : Nat → List Int → Nat
  | 0, _ => 0
  | n + 1, xs => b2n ((xs.take 160).any fun c => c == -128 || c == 127) + clipClocks n (xs.drop 160)

/-- The symbols of a stretch that the histogram engine takes: one in each clock, its offset advancing by 1 (R108). -/
def histPicks (x : LineSamples) (offset : Nat) : List Nat :=
  ((List.range x.clocks).map fun k => 160 * k + (offset + k) % 160).filter (· < x.size)

/-! ### Capture packing (R109) -/

/-- The bytes of a block of 160 symbols by SRC. -/
def blockBytes (src : Nat) : Nat := if src = 2 then 40 else if src = 3 then 320 else 160

/-- Four decisions in a byte (R109). -/
def packLevels : Nat → List Nat → List Nat
  | 0, _ => []
  | n + 1, a => (a.getD 0 0 + 4 * a.getD 1 0 + 16 * a.getD 2 0 + 64 * a.getD 3 0) :: packLevels n (a.drop 4)

/-- The bytes that one lane's record takes from a stretch, symbol by symbol (R109). -/
def packStretch (p : RxShape) (src : Nat) (x : LineSamples) : List Nat :=
  if src = 0 then x.body.map (ofInt 8)
  else if src = 1 then (((p.equalise x).drop 32).take x.size).map (ofInt 8)
  else if src = 2 then packLevels (x.size / 4) (p.levels x)
  else (p.detect x []).flatMap fun d => [ofInt 6 d.msb, ofInt 6 d.lsb]

/-- The bytes of the blocks that decimation records, one in every 2^D (R109). -/
def decimate (size every : Nat) : Nat → List Nat → List Nat
  | 0, _ => []
  | n + 1, bs => bs.take size ++ decimate size every n (bs.drop (size * every))

/-- The recorded bytes of a stretch that begins with a recorded block (R109). -/
def packRecord (p : RxShape) (src d : Nat) (x : LineSamples) : List Nat :=
  decimate (blockBytes src) (2 ^ d) (x.clocks / 2 ^ d + 1) (packStretch p src x)

/-! ### Gleaner opportunities (R209, R210) -/

/-- One sample of a stuff pair is added to its core (R209). -/
def coreAdd (sums : List CoreSum) (n : Nat) (x mean slope : Int) : List CoreSum :=
  let c := coreOf n
  let m := sums.getD c CoreSum.zero
  let d := 16 * x - mean
  sums.set c ⟨m.count + 1, m.d + d, m.dMean + d * mean, m.mean2 + mean * mean, m.dSlope + d * slope,
    m.slope2 + slope * slope⟩

/-- The 32 stuff pairs of a frame are added: ADC samples and decided levels of the stuff symbol and of the symbol
before it (R209). -/
def stuffPairs (p : RxShape) (x : LineSamples) (sums : List CoreSum) : List CoreSum :=
  let lv := (p.context x).tail
  let xs := x.codes.drop 1054
  (List.range 32).foldl (fun m b =>
    let i := 46 * b
    let before := p.mu.getD (lv.getD i 0) 0
    let here := p.mu.getD (lv.getD (i + 1) 0) 0
    let slope := here - before
    coreAdd (coreAdd m (x.first + 96 + i - 1) (xs.getD i 0) before slope) (x.first + 96 + i) (xs.getD (i + 1) 0) here
      slope) sums

/-- The samples of positions 2 to 7 of a good pilot field are added, with the expected levels (R210). -/
def pilotSums (f : Nat) (comp : Bool) (v : PilotField) (sums : List SubSum) : List SubSum :=
  (List.range 6).foldl (fun m k =>
    let i := k + 1
    let c := subOf (v.first + i)
    let a := m.getD c SubSum.zero
    let x := v.x.getD i 0
    m.set c (if (pilotLevels f comp).getD i 0 = 0 then { a with n0 := a.n0 + 1, sum0 := a.sum0 + x }
      else { a with n3 := a.n3 + 1, sum3 := a.sum3 + x })) sums

/-- A quotient of sums in 2^-16. -/
def ratio16 (a : Int) (b : Int) : Int := roundDiv (65536 * a) b.toNat

/-- The estimates of one sort for the 96 cores, each against the mean of its own sub-converter: what the trim has to
move by (R209, R212). -/
def coreEstimates (v : List Int) : List Int :=
  let mean (c : Nat) := roundDiv (((v.drop (48 * c)).take 48).foldl (· + ·) 0) 48
  (List.zipIdx v).map fun e => mean (e.2 / 48) - e.1

/-- Steps of 10 fs in a unit interval, as a fraction (R79): 10,000 / 23 at 230 GBd, twice that at 115 GBd. -/
def skewSteps (half : Nat) : Int := 10000 * (half + 1)

/-- The skews of the cores in 2^-16 step of 10 fs, before they are set against a mean (R209). -/
def coreSkews (half : Nat) (m : List CoreSum) : List Int :=
  m.map fun c => ratio16 (skewSteps half * c.dSlope) (23 * c.slope2)

/-- The estimates of items 0 to 4 from what two kinds of opportunity accumulated, in 2^-16 step; none where a core or a
pilot level has not been seen (R209, R210). -/
def windowEstimates (half : Nat) (m : List CoreSum) (q : List SubSum) : Option (List (List Int)) :=
  let a := q.getD 0 SubSum.zero
  let b := q.getD 1 SubSum.zero
  if m.length != 96 || m.any (fun c => c.count == 0 || c.mean2 == 0 || c.slope2 == 0)
      || a.n0 == 0 || a.n3 == 0 || b.n0 == 0 || b.n3 == 0 then none
  else
    let ofs := m.map fun c => ratio16 c.d (4 * c.count)
    let gain := m.map fun c => ratio16 (4096 * c.dMean) c.mean2
    let skew := coreSkews half m
    let lo (x : SubSum) := ratio16 x.sum0 x.n0
    let hi (x : SubSum) := ratio16 x.sum3 x.n3
    let mid := 2 * (lo a + hi a - lo b - hi b)
    let spanA := hi a - lo a
    let gain1 := if spanA ≤ 0 then 0 else ratio16 (4096 * (spanA - (hi b - lo b))) spanA
    let skew1 := roundDiv ((skew.take 48).foldl (· + ·) 0 - (skew.drop 48).foldl (· + ·) 0) 48
    some [coreEstimates ofs, coreEstimates gain, coreEstimates skew, [mid, gain1], [skew1]]

end Sys2Proof.Machine
end

