-- ==== Sys2Proof/Machine/Lane.lean ====
section
/-!
DEFINITION. Line lanes: the records of a lane, and a lane's passage from one state to another with everything that
comes with it (R22 to R32, R82, R97 to R105, R129, R143, R145, R220, R272, R508).
-/

namespace Sys2Proof.Machine

open Sys2Proof

/-! ### Records by lane -/

def State.tx (s : State) (l : Nat) : TxLane := s.txs[l]?.getD TxLane.reset
def State.putTx (s : State) (l : Nat) (t : TxLane) : State := { s with txs := s.txs.setIfInBounds l t }
def State.rx (s : State) (l : Nat) : RxLane := s.rxs[l]?.getD RxLane.reset
def State.putRx (s : State) (l : Nat) (r : RxLane) : State := { s with rxs := s.rxs.setIfInBounds l r }
def State.lp (s : State) (l : Nat) : LanePower := s.powers[l]?.getD LanePower.reset
def State.host (s : State) (h : Nat) : HostLaneInt := s.hosts[h]?.getD HostLaneInt.reset
def State.putHost (s : State) (h : Nat) (x : HostLaneInt) : State := { s with hosts := s.hosts.setIfInBounds h x }
def State.cap (s : State) (c : Nat) : CapInt := s.caps[c]?.getD CapInt.reset
def State.putCap (s : State) (c : Nat) (x : CapInt) : State := { s with caps := s.caps.setIfInBounds c x }
def State.cal (s : State) (l : Nat) : CalLane := s.cals[l]?.getD CalLane.reset
def State.putCal (s : State) (l : Nat) (x : CalLane) : State := { s with cals := s.cals.setIfInBounds l x }
def State.session (s : State) (l : Nat) : PeerSession := s.sessions[l]?.getD PeerSession.reset
def State.putSession (s : State) (l : Nat) (x : PeerSession) : State :=
  { s with sessions := s.sessions.setIfInBounds l x }

def State.link (s : State) (l : Nat) : MsgLink := s.links[l]?.getD MsgLink.reset
def State.putLink (s : State) (l : Nat) (x : MsgLink) : State := { s with links := s.links.setIfInBounds l x }
def State.stamp (s : State) (l : Nat) : Stamps := s.stamps[l]?.getD { tx := none, rx := none }
def State.putStamp (s : State) (l : Nat) (x : Stamps) : State := { s with stamps := s.stamps.setIfInBounds l x }

/-- The start and stop record of a lane; SHF_LANE_STATE.BUSY follows it (R32). -/
def State.putLp (s : State) (l : Nat) (p : LanePower) : State :=
  { s with powers := s.powers.setIfInBounds l p }.setB (R.SHF_LANE_STATE_BUSY (l / 4) (l % 4))
    (p.starting || p.stopping)

/-- The SHF block of a lane. -/
def shfOf (l : Nat) : Blk := ⟨.shf, l / 4⟩

/-- An SHF field of a lane (R33). -/
def laneFld (f : Nat → Nat → Fld) (l : Nat) : Fld := f (l / 4) (l % 4)

/-! ### Lane conditions -/

/-- SHF_LANE_CFG.EN. -/
def State.laneEn (s : State) (l : Nat) : Bool := s.getB (laneFld R.SHF_LANE_CFG_EN l)

/-- SHF_LANE_CFG.RATE: 0 for 230 GBd, 1 for 115 GBd. -/
def State.rate (s : State) (l : Nat) : Nat := s.get (laneFld R.SHF_LANE_CFG_RATE l)

/-- SHF_LANE_CFG.MODE: 0 LL, 1 STD, 2 FULL. -/
def State.mode (s : State) (l : Nat) : Nat := s.get (laneFld R.SHF_LANE_CFG_MODE l)

/-- The device's performance level (R372). -/
def State.level (s : State) : Nat := s.get R.PWR_PL_STAT_LEVEL

/-- Whether the device is in ACTIVE, at a level that reaches the lane's requirement (R25, R367). -/
def State.levelOk (s : State) (l : Nat) : Bool := s.power == 0 && levelOfRate (s.rate l) ≤ s.level

/-- The slice that serves a lane, 7 for none (R11). -/
def State.slice (s : State) (l : Nat) : Nat := s.get (laneFld R.SHF_SLICE_MAP_LANE_SLICE l)

/-- Both PLLs of the lane's sheaf are locked (R507). -/
def State.pllsLocked (s : State) (sh : Nat) : Bool :=
  s.getB (R.SHF_PLL_STAT_LINE_LOCK sh) && s.getB (R.SHF_PLL_STAT_HOST_LOCK sh)

/-- A reset or a switch-over holds the lane in OFF (R29). -/
def State.heldOff (s : State) (l : Nat) : Bool :=
  s.coldAsserted || s.sheafReset (l / 4) || s.getB R.PWR_RAIL_STAT_ON_VBAK

/-- LRX or LTX of the lane is FAILED (R14). -/
def State.converterFailed (s : State) (l : Nat) : Bool := s.failed ⟨.lrx, l⟩ || s.failed ⟨.ltx, l⟩

/-- The lane is out of OFF and FAULT. -/
def State.laneUp (s : State) (l : Nat) : Bool := 1 ≤ s.laneCode l && s.laneCode l ≤ 5

/-- The lane is one of CANDLE, FULL and COAST. -/
def decodes (code : Nat) : Bool := code == 2 || code == 3 || code == 4

/-- SHF_LANE_STATE.COAST_CANDLE. -/
def State.coastCandle (s : State) (l : Nat) : Bool := s.getB (laneFld R.SHF_LANE_STATE_COAST_CANDLE l)

/-- Whether the lane works with the configuration of FULL: in FULL, or in COAST entered from FULL (R30). -/
def State.asFull (s : State) (l : Nat) : Bool :=
  s.laneCode l == 3 || (s.laneCode l == 4 && !s.coastCandle l)

/-- Whether FWC runs (R394). -/
def State.fwcRunning (s : State) : Bool := s.getB R.FWC_STAT_RUNNING

/-- Whether a block is expert-managed (R337). -/
def State.expert (s : State) (b : Blk) : Bool := s.get (R.BLK_CTRL_EXPERT b) == 2

/-- Both locks that the inner decoder needs (R51). -/
def State.decoderRuns (s : State) (l : Nat) : Bool :=
  s.getB (R.LFR_STAT_PILOT_LOCK l) && s.getB (R.LFR_STAT_SCR_LOCK l)

/-! ### Captures and the Gleaner, as far as a lane's events reach them -/

/-- A trigger cause of a lane is recorded in an armed capture that selects the lane and the cause (R111). -/
def capCause (l cause : Nat) (s : State) : State :=
  let c := l / 4
  if s.get (R.CAP_STAT_STATE c) == 1 && (s.cap c).mask.getD (l % 4) false && s.get (R.CAP_CFG_TRIG c) == cause then
    s.putCap c { s.cap c with triggered := true }
  else s

/-- Items 0 to 4 of a lane start with a pair of windows at the next boundary, if nothing forbids it (R212, R218,
R231). -/
def calMayRun (s : State) (l : Nat) : Bool :=
  (s.laneCode l == 2 || s.laneCode l == 3) && s.getB (R.CAL_LANE_CFG_ADC_EN l) && s.blkState (dev .cal) == 2
    && !s.expert ⟨.lrx, l⟩ && !s.held

/-- The accumulators of items 0 to 4 of a lane start from nothing (R209, R210). -/
def CalLane.cleared (c : CalLane) : CalLane :=
  { c with cores := List.replicate 96 CoreSum.zero, subs := List.replicate 2 SubSum.zero }

/-- The windows in progress of items 0 to 4 are discarded and counted (R216). -/
def calDiscardAdc (l : Nat) (s : State) : State :=
  let c := s.cal l
  if c.stage == 2 || c.stage == 3 then
    let s := (List.range 5).foldl (fun s i => s.satInc (R.CAL_REC_X_DISCARD (l * 6 + i)) 1) s
    (s.putCal l { c.cleared with stage := 1, first := [] }).setB (R.CAL_LANE_STAT_MEASURING l) false
  else s

/-- The window in progress of item 5 is discarded and counted (R216, R228). -/
def calDiscardDac (l : Nat) (s : State) : State :=
  let c := s.cal l
  if c.sweepStage == 2 || c.sweepStage == 3 then
    (s.satInc (R.CAL_REC_X_DISCARD (l * 6 + 5)) 1).putCal l { c with sweepStage := 1, sweepFirst := 0 }
  else s

/-- Application on a lane stops: the remaining steps are dropped (R218). -/
def calStopApplying (l : Nat) (s : State) : State :=
  let c := s.cal l
  (s.putCal l { c with
    stage := if c.stage == 4 || c.stage == 5 then 1 else c.stage, coreOfs := [], coreGain := [], coreSkew := [],
    subOfs := [], subGain := [], subSkew := [] }).setB (R.CAL_LANE_STAT_APPLYING l) false

/-- The lane leaves CANDLE and FULL: windows are discarded, application stops, nothing waits (R216, R218). -/
def calLeave (l : Nat) (s : State) : State :=
  let s := calStopApplying l (calDiscardDac l (calDiscardAdc l s))
  s.putCal l { s.cal l with stage := 0 }

/-- The lane enters CANDLE, or returns to CANDLE or FULL: the first window waits for the boundary (R212). -/
def calEnter (l : Nat) (s : State) : State :=
  if calMayRun s l then
    let c := s.cal l
    s.putCal l { c with stage := 1, paused := if s.laneCode l == 2 then false else c.paused, first := [] }
  else s

/-- Items 0 to 4 of a lane start or stop as their conditions allow; a run that ends at the next boundary goes on to it
(R212, R231). -/
def calRefresh (l : Nat) (s : State) : State :=
  if (s.cal l).stage = 6 then s
  else if calMayRun s l then if (s.cal l).stage = 0 then s.putCal l { s.cal l with stage := 1, first := [] } else s
  else
    let s := calStopApplying l (calDiscardAdc l s)
    s.putCal l { s.cal l with stage := 0 }

/-- CAL is ON again: the items of every lane may start (R231, R336). -/
def calResume (s : State) : State := (List.range 8).foldl (fun s l => calRefresh l s) s

/-- Whether the background-operation pause applies (R230, R442): CAL_STAT.THROTTLED. -/
def State.calThrottled (s : State) : Bool := s.bgPause

/-- Whether a window of items 0 to 4 stands (R216). -/
def adcWindowOk (s : State) (l : Nat) : Bool :=
  (s.laneCode l == 2 || s.laneCode l == 3) && s.decoderRuns l && s.getB (R.REQ_STAT_TR_LOCK l)
    && !s.getB (R.LRX_STAT_LOS l)

/-- A run of items 0 to 4 begins at a receive superframe boundary, if nothing stands against a window: where a lock is
missing or LOS is 1 none begins, and none is discarded or counted (R212, R216, R218, R230; DEDUCED, log entry 233). -/
def calRunBegin (l : Nat) (s : State) : State :=
  let c := s.cal l
  if !(c.paused && s.calThrottled) && calMayRun s l && adcWindowOk s l then
    (s.putCal l { c.cleared with stage := 2, first := [] }).setB (R.CAL_LANE_STAT_MEASURING l) true
  else s

/-- Items 0 to 4 have stopped: nothing is judged or counted (R231). -/
def calRunStop (l : Nat) (s : State) : State :=
  (s.putCal l { (s.cal l).cleared with stage := if calMayRun s l then 1 else 0, first := [] }).setB
    (R.CAL_LANE_STAT_MEASURING l) false

/-- A receive superframe boundary, as RX_SFC_RECEIVED marks it: a run that waits for it begins, unless the last step of
the run before was applied at this same boundary (stage 5); a run that CAL's stop has caught ends (R212, R218, R231). -/
def calRxBoundary (l : Nat) (s : State) : State :=
  let c := s.cal l
  if c.stage == 6 then calRunStop l s
  else if c.stage == 5 then s.putCal l { c with stage := 1 }
  else if c.stage == 1 then calRunBegin l s
  else s

/-- FG_CONV and FG_DONE of a lane are cleared (R220). -/
def calClearFg (l : Nat) (s : State) : State :=
  let s := (List.range 5).foldl (fun s i => s.setB (R.CAL_LANE_STAT_FG_CONV l i) false) s
  s.setB (R.CAL_LANE_STAT_FG_DONE l) false

/-! ### Faost links and sessions -/

/-- A peer session or handshake of a lane ends and its keys are zeroised; the end of a session that was UP is reported
(R480, R486, R488). -/
def sessionEnd (l : Nat) (s : State) : State :=
  let up := s.get (R.MSG_LANE_STAT_SESSION l) == 2
  let s := (s.putSession l PeerSession.reset).set (R.MSG_LANE_STAT_SESSION l) 0
  if up then (s.irq (dev .sec) 2).event (dev .sec) 0 8 (0x18 + 256 * l) else s

/-- Every reassembly in progress is discarded and counted (R276). -/
def dropReassembly (l : Nat) (s : State) : State :=
  let k := s.link l
  let n := b2n k.reasm.isSome + b2n k.timeReasm.isSome
  (s.satInc (R.MSG_ERR_DISCARD l) n).putLink l { k with reasm := none, timeReasm := none }

/-- LINK_UP of a lane becomes 0 (R272, R276, R480). -/
def linkDown (l : Nat) (s : State) : State :=
  let s := s.putLink l { s.link l with header := none, accepted := none }
  if s.getB (R.MSG_LANE_STAT_LINK_UP l) then
    let s := s.setB (R.MSG_LANE_STAT_LINK_UP l) false
    let s := s.setB (R.MSG_LANE_STAT_ROLE_CONFLICT l) false
    sessionEnd l (dropReassembly l (s.irq (dev .msg) 5))
  else s

/-! ### Host side, as far as a lane's events reach it -/

/-- Whether host lane h is logical lane B of its pair, under the swap in effect (R201). -/
def hostIndex (swap : Bool) (h : Nat) : Nat := if swap then 1 - h % 2 else h % 2

/-- MUX in effect: the 1:1 configuration (R178, R179). -/
def State.oneToOne (s : State) (l : Nat) : Bool := (s.rx l).mux && s.rate l == 1

/-- HSD_STAT.ACTIVE: the host lane is powered and in use, and its HSD has not failed (R14, R179, R204). In 1:1 it
follows TX_SWAP, also where RX_SWAP differs (R201; DESIGN CHOICE, log entry 259). -/
def State.hostActive (s : State) (h : Nat) : Bool :=
  let l := h / 2
  s.laneCode l != 0 && s.laneCode l != 6 && s.getB (R.HSD_CFG_EN h) && !s.failed ⟨.hsd, h⟩
    && !(s.oneToOne l && hostIndex (s.rx l).txSwap h == 1)

/-- GBX_HOST_CFG.PORT_W of a lane. -/
def State.portW (s : State) (l : Nat) : Nat := s.get (R.GBX_HOST_CFG_PORT_W l)

/-- The line lanes of a port of width code w, none for HALF (R180). -/
def portLanes (w : Nat) : Nat := 2 ^ (w - 1)

/-- The lead lane of the port of a lane (R180). -/
def State.leadLane (s : State) (l : Nat) : Nat := l / portLanes (s.portW l) * portLanes (s.portW l)

/-- Whether a port width is supported at a rate and multiplex (R180). -/
def portSupported (rate : Nat) (one : Bool) (w : Nat) : Bool :=
  if rate = 0 then w ≤ 3 else if one then 1 ≤ w && w ≤ 4 else w ≤ 4

/-- The lane's port combination is unsupported, or its width differs from that of the lead lane (R181). -/
def State.portBad (s : State) (l : Nat) : Bool :=
  !portSupported (s.rate l) (s.oneToOne l) (s.portW l) || s.portW (s.leadLane l) != s.portW l

/-- The lanes of the port of a lane that share its engine: those set to its width (R180, R181). -/
def State.portMembers (s : State) (l : Nat) : List Nat :=
  if s.portBad l then [l]
  else (List.range (portLanes (s.portW l))).map (s.leadLane l + ·) |>.filter fun m =>
    !s.portBad m && s.portW m == s.portW l

/-- GBX_HOST_STAT.CFG_ERR (R179, R181). -/
def State.cfgErr (s : State) (l : Nat) : Bool := s.portBad l || ((s.rx l).mux && s.rate l == 0)

/-- CFG_ERR of every lane follows its condition; a rise raises CFG_ERR. A lane whose port does not stand is in no
deskew and on no outer-code engine (R181, R206). -/
def cfgRefresh (s : State) : State :=
  (List.range 8).foldl (fun s l =>
    let e := s.cfgErr l
    let s := if e && !s.getB (R.GBX_HOST_STAT_CFG_ERR l) then s.irq ⟨.gbx, l⟩ 4 else s
    let s := s.setB (R.GBX_HOST_STAT_CFG_ERR l) e
    if s.portBad l then
      (s.change (R.GBX_OC_STAT_CW_LOCK l) false ⟨.gbx, l⟩ 9).setB (R.GBX_HOST_STAT_DESKEWED l) false
    else s) s

/-- The receive-direction marker locks that CW_LOCK of a lane's port needs all hold (R137, R188); with TWO_PORTS = 1
those of both its host lanes (DESIGN CHOICE, log entry 258). -/
def State.rxMarkers (s : State) (l : Nat) : Bool :=
  !s.portBad l && (s.portMembers l).all fun m =>
    s.getB (R.GBX_HOST_STAT_RX_AM_LOCK m 0) && (s.oneToOne m || s.getB (R.GBX_HOST_STAT_RX_AM_LOCK m 1))

/-- CW_LOCK of every lane of the port is lost where a marker lock is missing (R137). -/
def cwDrop (l : Nat) (s : State) : State :=
  (s.portMembers l).foldl (fun s m =>
    if s.rxMarkers m then s else s.change (R.GBX_OC_STAT_CW_LOCK m) false ⟨.gbx, m⟩ 9) s

/-- The transmitter runs its superframe timing and is in no hold (R150 to R153). -/
def State.txRuns (s : State) (l : Nat) : Bool :=
  (s.tx l).running && ((s.tx l).hold == .none || (s.tx l).hold == .ratePending)

/-- The data of a host lane enters the frames no longer: fill replaces it (R150, R194). -/
def hostLeave (h : Nat) (s : State) : State :=
  (s.putHost h { s.host h with entering := false }).setB (R.TXP_STAT_FILL (h / 2) (h % 2))
    (s.txRuns (h / 2) && !(s.oneToOne (h / 2) && hostIndex (s.rx (h / 2)).txSwap h == 1))

/-- The transmit-direction marker lock of host lane h ends at once (R188). -/
def amLose (h : Nat) (s : State) : State :=
  let l := h / 2
  let j := hostIndex (s.rx l).txSwap h
  let s := s.change (R.GBX_HOST_STAT_AM_LOCK l j) false ⟨.gbx, l⟩ 0
  hostLeave h (s.putHost h { s.host h with amFound := 0, amMissed := 0 })

/-- Link training of host lane h starts (R186, R188); a selected pattern ends it at once (R197). -/
def trainStart (h : Nat) (s : State) : State :=
  if s.getB (R.HSD_TRAIN_EN h) && s.hostActive h then
    let s := amLose h (s.putHost h { s.host h with repeats := 0, answer := 0, asked := none })
    s.set (R.HSD_TRAIN_STATE h) (if s.get (R.HSD_PRBS_CFG_GEN h) == 0 then 1 else 4)
  else s

/-- The PRBS checker of a host lane has counted since its last lock or CLR what the model does not know (R203). -/
def State.prbsOpen (s : State) (h : Nat) : Bool := s.getB (R.HSD_PRBS_STAT_LOCK h) && s.elapsed != (s.host h).prbsAt

/-- The host transmitters of a lane begin to slew toward the clock that TR_LOCK now selects (R196). -/
def hostClockSlew (l : Nat) (s : State) : State :=
  [2 * l, 2 * l + 1].foldl (fun s h => s.putHost h { s.host h with slewing := true }) s

/-- The lane's timing lane: 1 logical lane A, 2 logical lane B, 0 nominal (R195). -/
def State.timingOf (s : State) (l : Nat) : Nat :=
  let a := if (s.rx l).txSwap then 2 * l + 1 else 2 * l
  let b := 4 * l + 1 - a
  if s.getB (R.HSD_STAT_CDR_LOCK a) then 1
  else if s.getB (R.HSD_STAT_CDR_LOCK b) && !s.oneToOne l then 2
  else 0

/-- The transmit clock leaves its timing lane's frequency: TX_TRACK is 0 and fill replaces data (R194, R195). -/
def trackLose (l : Nat) (s : State) : State :=
  hostLeave (2 * l + 1) (hostLeave (2 * l) (s.setB (R.GBX_HOST_STAT_TX_TRACK l) false))

/-- The received frequency of timing lane t of a lane, 1 for lane A and 2 for lane B (R195). -/
def State.timingFreq (s : State) (l t : Nat) : Int :=
  let a := if (s.rx l).txSwap then 2 * l + 1 else 2 * l
  s.getI (R.HSD_STAT_FREQ (if t = 1 then a else 4 * l + 1 - a))

/-- TIMING_LANE follows the CDR locks; a change slews the transmit clock, unless the new timing lane's frequency is within
0.1 ppm of the old one's, which the clock has (R195). -/
def timingRefresh (l : Nat) (s : State) : State :=
  let old := s.get (R.GBX_HOST_STAT_TIMING_LANE l)
  let new := s.timingOf l
  if old = new then s
  else
    let t := s.set (R.GBX_HOST_STAT_TIMING_LANE l) new
    if old ≠ 0 && new ≠ 0 && (s.timingFreq l new - s.timingFreq l old).natAbs ≤ 10 then t else trackLose l t

/-- Marker periods that do not follow one another do not count together (R188). -/
def amForget (h : Nat) (s : State) : State :=
  s.putHost h { s.host h with amFound := 0, amMissed := 0, rxFound := 0, rxMissed := 0, slipRun := 0 }

/-! ### Inner decoder status -/

/-- The passes that R129 and IDEC_FORCE give a lane: 0 none, 1 hard, 2 soft, 3 soft with a second pass. -/
def passesOf (code : Nat) (coastCandle : Bool) (mode : Nat) (p2Off hard : Bool) : Nat :=
  if !decodes code then 0
  else if code = 2 || (code = 4 && coastCandle) || mode = 0 || hard then 1
  else if mode = 1 || p2Off then 2
  else 3

/-- IDEC_STAT.PASS as the lane stands (R129, R146). -/
def State.passes (s : State) (l : Nat) : Nat :=
  if s.decoderRuns l && !s.getB (R.IDEC_STAT_STOPPED l) then
    passesOf (s.laneCode l) (s.coastCandle l) (s.mode l) (s.rx l).p2Off (s.rx l).hard
  else 0

/-- The SD and SF window starts again (R141). -/
def windowClear (l : Nat) (s : State) : State :=
  s.putRx l { s.rx l with winCorr := 0, winUncorr := 0, winThrottled := false }

/-- PASS, MLSE_ACTIVE and PASS2_ACTIVE follow the lane; a change of the running passes restarts the window (R93,
R96, R141). In DIM the slicer decides (DESIGN CHOICE, log entry 256). -/
def passRefresh (l : Nat) (s : State) : State :=
  let p := s.passes l
  let s := if s.get (R.IDEC_STAT_PASS l) == p then s else windowClear l (s.set (R.IDEC_STAT_PASS l) p)
  let s := s.setB (R.REQ_STAT_MLSE_ACTIVE l) (s.asFull l && s.mode l != 0)
  s.setB (R.REQ_STAT_PASS2_ACTIVE l) (p == 3)

/-- SF is 1 in ACQUIRE and FAULT of an enabled lane and while decoding is stopped; SD and SF are 0 in OFF. `quiet`
changes them without their sources (R143, R508). -/
def sdSf (l : Nat) (quiet : Bool) (s : State) : State :=
  let b : Blk := ⟨.idec, l⟩
  let put (s : State) (f : Fld) (v : Bool) (n : Nat) : State := if quiet then s.setB f v else s.change f v b n
  if s.laneCode l == 0 then put (put s (R.IDEC_STAT_SD l) false 0) (R.IDEC_STAT_SF l) false 1
  else if (s.laneEn l && (s.laneCode l == 1 || s.laneCode l == 6)) || s.getB (R.IDEC_STAT_STOPPED l) then
    put s (R.IDEC_STAT_SF l) true 1
  else s

/-! ### Receiver values -/

/-- The CTLE code, VGA code and main cursor of a reach class (R101). -/
def reachStart (reach : Nat) : Nat × Nat × Nat :=
  if reach = 0 then (12, 24, 8) else if reach = 1 then (18, 24, 12) else (24, 32, 16)

/-- The slicer thresholds that follow the level means in use: midpoints, rounded down, in codes (R92). -/
def midpoints (s : State) (l : Nat) : List Int :=
  (List.range 3).map fun i =>
    (s.getI (R.REQ_LVL_MEAN_MEAN l i) + s.getI (R.REQ_LVL_MEAN_MEAN l (i + 1))) / 32

/-- A gain code comes into use; a change discards the Gleaner's windows (R216). -/
def gainPut (l : Nat) (f : Fld) (v : Nat) (s : State) : State :=
  if s.get f = v then s else calDiscardAdc l (s.set f v)

/-- The frozen values in effect come from the expert registers (R98). -/
def forceValues (l : Nat) (s : State) : State :=
  let r := s.rx l
  let s := if bitAt r.adapt 3 = 1 then (List.range 4).foldl (fun s i =>
      (s.set (R.REQ_LVL_MEAN_MEAN l i) (s.get (R.REQ_LVL_FORCE_MEAN l i))).set (R.REQ_LVL_SIGMA_SIGMA l i)
        (s.get (R.REQ_LVL_FORCE_SIGMA l i))) s else s
  let thr := if bitAt r.adapt 4 = 1 then (List.range 3).map fun i => s.getI (R.REQ_SLICER_THR_T l i)
    else midpoints s l
  let s := s.putRx l { s.rx l with thresholds := thr }
  let s := if bitAt r.afe 0 = 1 then gainPut l (R.LRX_GAIN_CTLE l) (s.get (R.LRX_AFE_CTRL_CTLE_FORCE l)) s else s
  if bitAt r.afe 1 = 1 then gainPut l (R.LRX_GAIN_VGA l) (s.get (R.LRX_AFE_CTRL_VGA_FORCE l)) s else s

/-- REQ_ADAPT as a number. -/
def adaptBits (s : State) (l : Nat) : Nat :=
  s.get (R.REQ_ADAPT_TR_FREEZE l) + 2 * s.get (R.REQ_ADAPT_FFE_FREEZE l) + 4 * s.get (R.REQ_ADAPT_ECHO_FREEZE l)
    + 8 * s.get (R.REQ_ADAPT_LVL_FREEZE l) + 16 * s.get (R.REQ_ADAPT_THR_FREEZE l)

/-- CTLE_FREEZE and AGC_FREEZE as a number. -/
def afeBits (s : State) (l : Nat) : Nat :=
  s.get (R.LRX_AFE_CTRL_CTLE_FREEZE l) + 2 * s.get (R.LRX_AFE_CTRL_AGC_FREEZE l)

/-- The stored writes of freeze bits, forced values and AGC_TGT take effect (R98, R100). -/
def freezeApply (l : Nat) (s : State) : State :=
  forceValues l (s.putRx l { s.rx l with
    adapt := adaptBits s l, afe := afeBits s l, agcTarget := s.get (R.LRX_AFE_CTRL_AGC_TGT l) })

/-- The echo taps in use as at reset: disabled, with no weight (R91). -/
def echoReset (l : Nat) (s : State) : State :=
  (List.range 4).foldl (fun s k =>
    ((s.set (R.REQ_FFE_SET_ECHO_DELAY l 1 k) 48).setB (R.REQ_FFE_SET_ECHO_EN l 1 k) false).set
      (R.REQ_FFE_SET_ECHO_WEIGHT l 1 k) 0) s

/-- The starting values of the reach class that the entry to ACQUIRE took (R101). What the table does not list stands
as at reset: levels, targets, echo taps and the recovered frequency (DESIGN CHOICE, log entry 188). -/
def reachLoad (l : Nat) (s : State) : State :=
  let v := reachStart (s.rx l).reach
  let s := gainPut l (R.LRX_GAIN_VGA l) v.2.1 (gainPut l (R.LRX_GAIN_CTLE l) v.1 s)
  let s := s.set (R.REQ_FFE_SET_MAIN l 1) v.2.2
  let s := (List.range 48).foldl (fun s t =>
    s.set (R.REQ_FFE_SET_TAP_COEF l 1 t) (if t = v.2.2 then 0x400 else 0)) s
  let s := (echoReset l (s.putRx l { s.rx l with tapFine := List.replicate 48 0 })).set (R.REQ_TR_FREQ_FREQ l) 0
  let s := (List.range 4).foldl (fun s i =>
    (s.set (R.REQ_LVL_MEAN_MEAN l i) (R.REQ_LVL_MEAN_MEAN l i).rst).set (R.REQ_LVL_SIGMA_SIGMA l i) 0x80) s
  let s := if bitAt (s.rx l).adapt 3 = 1 then s
    else (s.set (R.REQ_MLSE_TGT_H1 l) 0).set (R.REQ_MLSE_TGT_H2 l) 0
  freezeApply l s

/-- The values in use that turn a lane's samples into decisions (R89, R92, R93). -/
def State.rxShape (s : State) (l : Nat) : RxShape :=
  { taps := (List.range 48).map fun t => s.getI (R.REQ_FFE_SET_TAP_COEF l 1 t)
    main := s.get (R.REQ_FFE_SET_MAIN l 1)
    echo := ((List.range 4).filter fun k => s.getB (R.REQ_FFE_SET_ECHO_EN l 1 k)).map fun k =>
      (s.get (R.REQ_FFE_SET_ECHO_DELAY l 1 k), s.getI (R.REQ_FFE_SET_ECHO_WEIGHT l 1 k))
    thr := (s.rx l).thresholds
    mu := (List.range 4).map fun i => s.getI (R.REQ_LVL_MEAN_MEAN l i)
    sigma := (List.range 4).map fun i => s.get (R.REQ_LVL_SIGMA_SIGMA l i)
    h1 := s.getI (R.REQ_MLSE_TGT_H1 l)
    h2 := s.getI (R.REQ_MLSE_TGT_H2 l)
    tol := s.get (R.LFR_TEST_PILOT_TOL l)
    precoded := (s.rx l).precoded
    mlse := s.getB (R.REQ_STAT_MLSE_ACTIVE l) }

/-- A capture in progress notes the values that turn a lane's samples into decisions, where they have changed (R109). -/
def capNote (l : Nat) (s : State) : State :=
  let c := l / 4
  let x := s.cap c
  let code := s.get (R.CAP_STAT_STATE c)
  let old := x.shapes.getD (l % 4) []
  if (code == 1 || code == 2) && x.mask.getD (l % 4) false && old.head? != some (s.rxShape l) then
    s.putCap c { x with shapes := x.shapes.set (l % 4) (s.rxShape l :: old) }
  else s

/-- The phase of a lane's sampling clock in 1/128 UI: the recovered phase and PHASE_OFS, which is always added (R85,
R98). -/
def State.samplingPhase (s : State) (l : Nat) : Int := (s.rx l).trPhase + s.getI (R.REQ_TR_LOOP_PHASE_OFS l)

/-! ### Transmitter stop -/

/-- The transmitter of a lane stops: its output goes to common mode (R149, R150, R160). -/
def txStop (l : Nat) (s : State) : State :=
  let s := if s.getB (R.LTX_STAT_READY l) then (s.setB (R.LTX_STAT_READY l) false).irq ⟨.ltx, l⟩ 1 else s
  let s := (s.setB (R.LTX_STAT_SWING l) false).setB (R.LTX_STAT_FS_RAMP l) false
  let s := ((s.setB (R.TXP_STAT_FILL l 0) false).setB (R.TXP_STAT_FILL l 1) false).setB (R.TXP_STAT_PATTERN l) false
  let s := (s.setB (laneFld R.SHF_LANE_STATE_TX_DIM l) false).setB (R.LFR_STAT_TX_MARK l) false
  let t := s.tx l
  s.putTx l { TxLane.reset with fs := s.get (R.LTX_CFG_FS l), inverted := s.getB (R.LTX_CFG_POL_INV l),
                                mute := s.getB (R.LTX_CFG_SQUELCH l), commit := t.commit, precoded := t.precoded }

/-! ### Entries -/

/-- What every entry to OFF or FAULT does to the lane's status without raising sources of the receive direction
(R82, R129, R508). -/
def goDark (l : Nat) (s : State) : State :=
  let s := txStop l (calLeave l s)
  let s := if s.getB (R.LRX_STAT_LOS l) then s else capCause l 1 s
  let s := ((s.setB (R.LRX_STAT_LOS l) true).setB (R.LRX_STAT_LOS_RAW l) true).setB (R.LRX_STAT_ADC_READY l) false
  let tr := s.getB (R.REQ_STAT_TR_LOCK l)
  let s := ((s.setB (R.REQ_STAT_TR_LOCK l) false).setB (R.REQ_STAT_FROZEN l) false).setB (R.REQ_SNR_VALID l) false
  let s := if tr then hostClockSlew l s else s
  let s := if s.getB (R.LFR_STAT_PILOT_LOCK l) then capCause l 2 s else s
  let s := ((s.setB (R.LFR_STAT_PILOT_LOCK l) false).setB (R.LFR_STAT_SCR_LOCK l) false).setB
    (R.LFR_STAT_RX_DIM l) false
  let s := (s.setB (R.GBX_HOST_STAT_RX_AM_LOCK l 0) false).setB (R.GBX_HOST_STAT_RX_AM_LOCK l 1) false
  let s := amForget (2 * l + 1) (amForget (2 * l) (cwDrop l s))
  let s := (s.setB (R.IDEC_STAT_STOPPED l) false).setB (laneFld R.SHF_LANE_STATE_COAST_CANDLE l) false
  let r := s.rx l
  let s := s.putRx l { r with detector := false, realign := false, histLeft := r.histLeft, sfcLast := none,
                              sfcPair := false, burstSeen := false, quietPeriods := 0, lpi := false }
  linkDown l (sdSf l true (passRefresh l s))

/-- RX_DIM becomes 0 and LOS follows LOS_RAW again (R74, R83). -/
def leaveRxDim (l : Nat) (s : State) : State :=
  if s.getB (R.LFR_STAT_RX_DIM l) then
    let s := (s.setB (R.LFR_STAT_RX_DIM l) false).irq ⟨.lfr, l⟩ 3
    if s.getB (R.LRX_STAT_LOS_RAW l) then
      (if s.getB (R.LRX_STAT_LOS l) then s else capCause l 1 s).change (R.LRX_STAT_LOS l) true ⟨.lrx, l⟩ 0
    else s
  else s

/-- The six bits that every entry to ACQUIRE returns to 0 (R103). -/
def clearLocks (l : Nat) (s : State) : State :=
  let tr := s.getB (R.REQ_STAT_TR_LOCK l)
  let s := s.change (R.REQ_STAT_TR_LOCK l) false ⟨.req, l⟩ 0
  let s := if tr then hostClockSlew l s else s
  let s := ((s.setB (R.REQ_STAT_FFE_CONV l) false).setB (R.REQ_STAT_MLSE_CONV l) false).setB
    (R.LRX_STAT_AGC_DONE l) false
  let s := if s.getB (R.LFR_STAT_PILOT_LOCK l) then capCause l 2 s else s
  let s := s.change (R.LFR_STAT_PILOT_LOCK l) false ⟨.lfr, l⟩ 0
  s.change (R.LFR_STAT_SCR_LOCK l) false ⟨.lfr, l⟩ 1

/-- An entry to ACQUIRE takes the transmit direction's swap and multiplex from what `was` in effect: the marker locks and
holds, which belong to the host lanes, change their letters, and a host lane that takes no part loses its lock (R179,
R201). -/
def swapTake (l : Nat) (was : Bool) (s : State) : State :=
  let s := if was == (s.rx l).txSwap then s
    else
      let a := s.getB (R.GBX_HOST_STAT_AM_LOCK l 0)
      let b := s.getB (R.GBX_HOST_STAT_AM_LOCK l 1)
      let x := s.get (R.GBX_SKEW_HOLD l 0)
      let y := s.get (R.GBX_SKEW_HOLD l 1)
      let s := (s.set (R.GBX_SKEW_HOLD l 0) y).set (R.GBX_SKEW_HOLD l 1) x
      (s.change (R.GBX_HOST_STAT_AM_LOCK l 0) b ⟨.gbx, l⟩ 0).change (R.GBX_HOST_STAT_AM_LOCK l 1) a ⟨.gbx, l⟩ 0
  if s.oneToOne l then amLose (if (s.rx l).txSwap then 2 * l else 2 * l + 1) s else s

/-- What an entry to ACQUIRE does: locks are found afresh, and settings that wait for ACQUIRE take effect (R63,
R67, R102, R103, R143, R179, R201, R220, R272). `fresh` starts from the reach class. -/
def goAcquire (l : Nat) (warm fresh : Bool) (s : State) : State :=
  let s := clearLocks l (leaveRxDim l (calClearFg l (calLeave l s)))
  let s := (s.setB (R.IDEC_STAT_STOPPED l) false).setB (R.REQ_SNR_VALID l) false
  let s := (s.setB (R.REQ_STAT_FROZEN l) false).setB (laneFld R.SHF_LANE_STATE_COAST_CANDLE l) false
  let r := s.rx l
  let s := s.putRx l { RxLane.reset with
    detector := r.detector, warm := warm, adapt := r.adapt, afe := r.afe, agcTarget := r.agcTarget,
    commit := r.commit, tapFine := r.tapFine, trPhase := r.trPhase, reach := s.get (R.REQ_CFG_REACH l),
    thresholds := r.thresholds, precoded := s.getB (R.LFR_CFG_RX_PRECODE l),
    mux := s.getB (R.GBX_HOST_CFG_MUX l), txSwap := s.getB (R.GBX_HOST_CFG_TX_SWAP l),
    rxSwap := s.getB (R.GBX_HOST_CFG_RX_SWAP l), sdClear := r.sdClear, sfClear := r.sfClear, p2Off := r.p2Off,
    hard := r.hard, failedOnly := r.failedOnly, p1 := r.p1, p2 := r.p2, alpha := r.alpha, beta := r.beta,
    assist := r.assist, assistPending := r.assistPending, pauseLeft := r.pauseLeft, histLeft := r.histLeft,
    histOffset := r.histOffset }
  let s := swapTake l r.txSwap s
  let t := s.tx l
  let s := s.putTx l { t with precoded := s.getB (R.LFR_CFG_TX_PRECODE l),
                              leaveDim := t.leaveDim || t.dim == .marker || t.dim == .dim }
  let s := if fresh then reachLoad l s else freezeApply l s
  linkDown l (sdSf l false (passRefresh l (cfgRefresh (timingRefresh l s))))

/-- What an entry to CANDLE, FULL, COAST or DIM does, from the state with code `old` (R69, R97, R105, R107, R129,
R216). -/
def goActive (l old new : Nat) (s : State) : State :=
  let s := if new == 4 || new == 5 then calLeave l s else s
  let s := s.setB (laneFld R.SHF_LANE_STATE_COAST_CANDLE l) (new == 4 && old == 2)
  let s := s.setB (R.REQ_STAT_FROZEN l) (new == 4 || new == 5)
  let s := if new == 5 then ((s.setB (R.LFR_STAT_RX_DIM l) true).irq ⟨.lfr, l⟩ 2).setB (R.REQ_SNR_VALID l) false
    else leaveRxDim l s
  let s := if new == 5 && s.getB (R.LRX_STAT_LOS l) then s.change (R.LRX_STAT_LOS l) false ⟨.lrx, l⟩ 1 else s
  let s := if new == 3 && old == 2 && s.mode l != 0 then s.putRx l { s.rx l with realign := true } else s
  let s := if new == 5 then s.putRx l { s.rx l with
      burstRun := 0, burstSeen := false, burstMissed := false, quietPeriods := 0, badRun := 0
      sfcLast := none, sfcPair := false, lpi := true } else s
  let s := if old == 4 then freezeApply l s else s
  let s := if (new == 2 || new == 3) && old != 2 then calEnter l s else s
  let s := if new == 2 then s.putRx l { s.rx l with warm := false } else s
  passRefresh l s

/-- The state code changes, with STATE_CHG and the LANE Stub event (R31). -/
def setLaneCode (l new cause : Nat) (s : State) : State :=
  let old := s.laneCode l
  let s := s.set (laneFld R.SHF_LANE_STATE_STATE l) new
  if old = new then s
  else (s.irq (shfOf l) (l % 4)).event (shfOf l) l 4 (old + 16 * new + 256 * cause)

/-- A lane enters a state. `cause` is the FAULT cause; `fresh` marks an entry to ACQUIRE through RATE, MODE or slice.
The transmit superframe count returns to 0 as the lane leaves OFF, for FAULT too, and no boundary has been stamped since
(R27, R29, R31, R47, R102, R243). -/
def enterState (l new cause : Nat) (fresh : Bool) (s : State) : State :=
  let old := s.laneCode l
  let s := setLaneCode l new cause s
  let s := s.set (laneFld R.SHF_LANE_FAULT_CAUSE l) (if new = 6 then cause else 0)
  let s := if old = 4 && (new = 0 || new = 6) then freezeApply l s else s
  let s := if old = 0 && new != 0 then (s.set (R.LFR_TX_SFC_COUNT l) 0).putStamp l { tx := none, rx := none } else s
  capNote l (autoRaise (if new = 0 then calClearFg l (goDark l s)
    else if new = 6 then goDark l (s.irq (shfOf l) 6)
    else if new = 1 then
      goAcquire l (((2 ≤ old && old ≤ 5) || (old = 1 && (s.rx l).warm)) && !fresh) (old = 0 || fresh) s
    else goActive l old new s))

/-- The lane's stop begins, or is recorded while a start is in progress (R32). -/
def beginStop (l : Nat) (s : State) : State :=
  let p := s.lp l
  if p.starting then s.putLp l { p with stopAfter := true, startAfter := false }
  else s.putLp l { p with stopping := true, startAfter := false }

/-- A lane passes into OFF: SHF_LANE_STATE shows OFF and its stop begins (R32). -/
def toOff (l : Nat) (s : State) : State :=
  if s.laneCode l = 0 then s else beginStop l (enterState l 0 0 false s)

/-- A lane passes into FAULT with a cause: 1 THERMAL, 2 LOCKDOWN, 3 NO_SLICE, 4 CONVERTER (R29). -/
def toFault (l cause : Nat) (s : State) : State :=
  if s.laneCode l = 6 && s.get (laneFld R.SHF_LANE_FAULT_CAUSE l) ≤ cause then s
  else (enterState l 6 cause false s).setB (laneFld R.SHF_LANE_STATE_PL_WAIT l) false

/-- The hold's cause: THERMAL first (R29, R398). -/
def holdCause (s : State) : Nat := if s.getB R.RST_STAT_HOLD_THERMAL then 1 else 2

/-- Whether an enabled lane in OFF may start (R25, R27, R29, R32, R507). -/
def State.canStart (s : State) (l : Nat) : Bool :=
  s.laneCode l == 0 && s.laneEn l && s.slice l != 7 && s.levelOk l && s.pllsLocked (l / 4) && !s.heldOff l
    && !s.held && !s.converterFailed l && !(s.lp l).stopping && !(s.lp l).starting && s.blkOn (shfOf l)

/-- The memories of a slice are cleared (R32, R416). -/
def memoriesClear (memid : Nat) (s : State) : State :=
  { s with store := { s.store with
    zeroed := if s.store.zeroed.contains memid then s.store.zeroed else memid :: s.store.zeroed } }

/-- The memories of a slice are in use (R10, R416). -/
def memoriesUse (memid : Nat) (s : State) : State :=
  { s with store := { s.store with zeroed := s.store.zeroed.filter (· != memid) } }

/-- A lane leaves OFF: ACQUIRE from the reach class, the transmit superframe count at 0, host training, ASSIST
as written, the slice's memories cleared (R23, R27, R32, R47, R186, R416). -/
def startLane (l : Nat) (s : State) : State :=
  let s := s.setB (laneFld R.SHF_LANE_STATE_PL_WAIT l) false
  let s := enterState l 1 0 false s
  let s := s.putLp l { s.lp l with starting := true }
  let s := memoriesClear (0x40 + 8 * (l / 4) + s.slice l) s
  let s := s.putRx l { s.rx l with assist := s.getB (laneFld R.SHF_LANE_CFG_ASSIST l), assistPending := false }
  let s := if s.calDev.startupLanes.contains l then { s with calDev := { s.calDev with
    startupLeaves := l :: s.calDev.startupLeaves } } else s
  trainStart (2 * l + 1) (trainStart (2 * l) s)

/-- A lane in OFF looks at its causes of FAULT and the conditions of its start: a hold is a FAULT whatever EN, a missing
slice or a failed converter is one for an enabled lane, a missing level is PL_WAIT (R25, R27, R29). -/
def considerStart (l : Nat) (s : State) : State :=
  if s.laneCode l != 0 || s.heldOff l then s
  else if s.held then toFault l (holdCause s) s
  else if !s.laneEn l then s
  else if s.slice l = 7 then toFault l 3 s
  else if s.converterFailed l then toFault l 4 s
  else s.setB (laneFld R.SHF_LANE_STATE_PL_WAIT l) (!s.levelOk l)

end Sys2Proof.Machine
end

