-- ==== Sys2Proof/Machine/Transmit.lean ====
section
/-!
DEFINITION. The transmit direction of a line lane: frames, superframe boundaries, DIM, patterns, shaping and its
shadow set, swing, squelch and the LDIS outputs (R35 to R68, R149 to R177, R385).
-/

namespace Sys2Proof.Machine

open Sys2Proof

/-! ### Frames -/

/-- Bits brought to a length, 0 where none is given. -/
def padBits (n : Nat) (bs : List Bool) : List Nat := (List.range n).map fun i => b2n (bs.getD i false)

/-- A port of one host lane needs no deskew (R181, R194). -/
def State.soloHost (s : State) (l : Nat) : Bool :=
  s.portBad l || s.portW l == 0 || (s.portW l == 1 && s.oneToOne l)

/-- Whether host lane h takes part in the transmit stream (R178, R179). -/
def State.hostUsed (s : State) (h : Nat) : Bool :=
  !(s.oneToOne (h / 2) && hostIndex (s.rx (h / 2)).txSwap h == 1)

/-- Whether the data of host lane h may enter the frames (R187, R194, R202). -/
def State.hostReady (s : State) (h : Nat) : Bool :=
  let l := h / 2
  s.getB (R.GBX_HOST_STAT_AM_LOCK l (hostIndex (s.rx l).txSwap h))
    && (s.soloHost l || s.getB (R.GBX_HOST_STAT_DESKEWED l))
    && s.getB (R.GBX_HOST_STAT_TX_TRACK l) && s.get (R.HSD_TRAIN_STATE h) != 1 && s.get (R.HSD_PRBS_CFG_CHK h) == 0

/-- At a frame boundary data enters or fill replaces it, and FILL reports it (R150, R194). -/
def hostEnter (h : Nat) (s : State) : State :=
  let e := s.hostReady h
  (s.putHost h { s.host h with entering := e }).setB (R.TXP_STAT_FILL (h / 2) (h % 2))
    (s.txRuns (h / 2) && s.hostUsed h && !e)

/-- The bits of PAM4 symbols at inverted polarity: level L becomes 3 − L, which changes the MSB of its Gray code (R60,
R185). -/
def invertBits : List Bool → List Bool
  | m :: l :: rest => (!m) :: l :: invertBits rest
  | bs => bs

/-- The data bits d of a frame from the bits that arrive at the two host lanes, at the polarity of RX_INV, fill where a
lane does not enter (R150, R185, R193, R201). -/
def frameData (s : State) (l : Nat) (a b : List Bool) : List Nat :=
  let pick (h : Nat) (bs : List Bool) : List Bool :=
    if !(s.host h).entering then [] else if s.getB (R.HSD_CFG_RX_INV h) then invertBits bs else bs
  let x := pick (2 * l) a
  let y := pick (2 * l + 1) b
  let p := if (s.rx l).txSwap then (y, x) else (x, y)
  if s.oneToOne l then padBits 2720 p.1 else muxTwo 136 (padBits 1360 p.1) (padBits 1360 p.2)

/-- The frame that goes out, and the scrambler after it (R47, R49, R64, R73, R165). -/
def builtFrame (s : State) (l : Nat) (data : List Nat) : List Nat × Nat :=
  let t := s.tx l
  let prev := t.history.getLast?.getD none
  frameLevels { frame := t.frame, complement := t.dim == .marker && 248 ≤ t.frame,
                overhead := if t.frame = 0 then s.get (R.LFR_TX_SFC_COUNT l) % 256 else t.overhead.getD t.frame 0,
                data := if t.dim == .burst then List.replicate 2720 0 else data,
                scramble := !s.getB (R.LFR_TEST_SCR_BYPASS_TX l), precoded := t.precoded } prev t.scrambler

/-- The level of symbol `pos` of PRBS13Q (1), PRBS31Q (2) or SSPRQ (3): bits are paired under the Gray map of R60, and
SSPRQ repeats every 65,535 symbols (R166, R202). -/
def standardLevel (sel pos : Nat) : Nat :=
  if sel = 3 then (Config.ssprq (pos % 65535)).toNat
  else grayLevel (b2n (Config.patternBit sel (2 * pos))) (b2n (Config.patternBit sel (2 * pos + 1)))

/-- The level of symbol `pos` of the pattern in effect (R166). -/
def patternLevel (t : TxLane) (pos : Nat) : Nat :=
  if t.patSel = 4 then
    let half := if t.patHalf = 0 then 64 else t.patHalf
    if pos / half % 2 = 0 then 0 else 3
  else if t.patSel = 5 then t.patLevel
  else standardLevel t.patSel pos

/-- What is sent at the 1,472 positions of the frame (R65, R66, R149, R162, R166). -/
def sentSymbols (t : TxLane) (levels : List Nat) : List (Option Nat) :=
  if t.mute then List.replicate 1472 none
  else if t.patSel != 0 then (List.range 1472).map fun i => some (patternLevel t (t.patPos + i))
  else if t.dim == .dim || (t.dim == .burst && t.frame < 192) then
    if t.frame = 0 then (0 :: (levels.drop 1).take 8).map some ++ List.replicate 1463 none
    else List.replicate 1472 none
  else levels.map some

/-- The shaping values in use (R154 to R156). -/
def shapeOf (s : State) (l : Nat) : TxShape where
  taps := (List.range 7).map fun t => s.getI (R.TXP_SET_FIR_COEF l 1 t)
  main := s.get (R.TXP_SET_MAIN l 1)
  step := s.get (R.TXP_SET_STEP l 1)
  pd := (List.range 64).map fun i => s.getI (R.TXP_SET_PD_P l 1 i)

/-- The shape that the frame before was sent with. -/
def lastShape (t : TxLane) : TxShape := { taps := t.lastTaps, main := t.lastMain, step := t.lastStep, pd := t.lastPd }

/-- The output voltage of a DAC code in 1/512 mV (R159, R161). -/
def outVolt (fs : Nat) (inverted : Bool) (k : Int) : Int :=
  let v := (2 * k + 1) * (400 + 25 * fs)
  if inverted then -v else v

/-- Saturating clocks: a clock of 160 symbols counts once (R156). -/
def satClocks : List Bool → Nat → Bool → Nat → Nat × Nat × Bool
  | [], pos, sat, n => (n, pos, sat)
  | x :: xs, pos, sat, n =>
    let n := if x && !sat then n + 1 else n
    let sat := sat || x
    if pos = 159 then satClocks xs 0 false n else satClocks xs (pos + 1) sat n

/-- A frame goes through the shaping; saturating clocks count, and the first of a superframe raises SAT. The codes run
six symbols behind: the first six belong to the frame before, with its shape, full scale and polarity (R155, R156,
R160, R161). -/
def shapeFrame (l : Nat) (symbols : List (Option Nat)) (s : State) : State :=
  let t := s.tx l
  let wins := windows13 (t.history ++ symbols)
  let old := lastShape t
  let new := shapeOf s l
  let shaped := (List.zipIdx wins).map fun w => (if w.2 < 6 then old else new, w.1)
  let codes := shaped.map fun w => dacCode w.1 w.2
  let volts := (List.zipIdx codes).map fun k =>
    k.1.map (if k.2 < 6 then outVolt t.lastFs t.lastInverted else outVolt t.fs t.inverted)
  let c := satClocks (shaped.map fun w => codeSaturates w.1 w.2) t.clock t.clockSat 0
  let s := s.putTx l { t with
    history := (t.history ++ symbols).drop symbols.length, symbols := symbols, codes := codes, volts := volts,
    clock := c.2.1, clockSat := c.2.2, saturated := t.saturated || c.1 != 0, lastTaps := new.taps,
    lastMain := new.main, lastStep := new.step, lastPd := new.pd, lastFs := t.fs, lastInverted := t.inverted }
  let s := s.satInc (R.TXP_SAT_CNT_COUNT l) c.1
  if c.1 != 0 && !t.saturated then s.irq ⟨.txp, l⟩ 0 else s

/-- Nothing is sent after the symbols so far: the last six get their codes, and what comes later has no neighbours
before it (R38, R152, R155). -/
def flushLine (l : Nat) (s : State) : State :=
  let s := shapeFrame l (List.replicate 6 none) s
  s.putTx l { s.tx l with history := List.replicate 12 none, symbols := [] }

/-- TX_FRAME: the next frame of the superframe (R58, R149, R150, R194). -/
def txFrameOp (l : Nat) (a b : List Bool) (s : State) : State :=
  if s.laneUp l && s.txRuns l && (s.tx l).frame < 256 then
    let s := hostEnter (2 * l + 1) (hostEnter (2 * l) s)
    let r := builtFrame s l (frameData s l a b)
    let s := if s.getB (R.TXP_STAT_FILL l 0) || s.getB (R.TXP_STAT_FILL l 1) then s.count ⟨.gbx, l⟩ 0x43 1 else s
    let t := s.tx l
    let s := shapeFrame l (sentSymbols t r.1) s
    s.putTx l { s.tx l with
      frame := t.frame + 1, scrambler := r.2, patPos := if t.patSel = 0 then 0 else t.patPos + 1472 }
  else s

/-! ### Superframe boundaries -/

/-- The output is at common mode: the live full scale takes its target at once (R160). -/
def fsAtOnce (l : Nat) (s : State) : State :=
  (s.putTx l { s.tx l with fs := s.get (R.LTX_CFG_FS l) }).setB (R.LTX_STAT_FS_RAMP l) false

/-- The live full scale moves one code toward FS at a boundary (R160). -/
def fsStep (l : Nat) (s : State) : State :=
  let t := s.tx l
  let goal := s.get (R.LTX_CFG_FS l)
  if t.mute then fsAtOnce l s
  else
    let fs := if t.fs < goal then t.fs + 1 else if goal < t.fs then t.fs - 1 else t.fs
    (s.putTx l { t with fs := fs }).setB (R.LTX_STAT_FS_RAMP l) (fs != goal)

/-- TX_DIM and TX_MARK follow the place in the DIM structure; DIM ends the windows of item 5 (R67, R73, R228). -/
def dimPut (l : Nat) (d : DimPhase) (s : State) : State :=
  let s := if d == .dim then calDiscardDac l s else s
  let s := s.putTx l { s.tx l with dim := d }
  (s.setB (laneFld R.SHF_LANE_STATE_TX_DIM l) (d == .dim || d == .burst)).setB (R.LFR_STAT_TX_MARK l) (d == .marker)

/-- A pattern starts, goes on or ends at a boundary; one that starts ends DIM without a burst (R167, R168). -/
def patternStep (l : Nat) (s : State) : State :=
  let t := s.tx l
  let sel := s.get (R.TXP_PAT_SEL l)
  let half := s.get (R.TXP_PAT_HALF l)
  let fresh := sel != t.patSel || (sel == 4 && half != t.patHalf)
  let s := s.putTx l { t with
    patSel := sel, patHalf := half, patLevel := s.get (R.TXP_PAT_LEVEL l)
    patPos := if fresh then 0 else t.patPos, leaveDim := t.leaveDim && sel == 0 }
  let s := s.setB (R.TXP_STAT_PATTERN l) (sel != 0)
  if sel = 0 then s else calDiscardDac l (dimPut l .full s)

/-- A marker begins if DIM is asked for, the lane is in FULL and no pattern is selected (R67). After a pattern the
marker superframe is the one with which frames resume (DESIGN CHOICE, log entry 189). -/
def markerStep (l : Nat) (s : State) : State :=
  if s.getB (laneFld R.SHF_LANE_CFG_DIM_REQ l) && s.laneCode l == 3 && s.get (R.TXP_PAT_SEL l) == 0 then
    dimPut l .marker s
  else dimPut l .full s

/-- The DIM structure at a boundary (R64 to R68). -/
def dimStep (l : Nat) (s : State) : State :=
  match (s.tx l).dim with
  | .full => markerStep l s
  | .marker => dimPut l .dim s
  | .dim => s
  | .burst => markerStep l (s.putTx l { s.tx l with leaveDim := false })

/-- TIM stamps a transmit boundary with its count (R238, R241, R243). -/
def stampTx (l : Nat) (s : State) : State :=
  if s.getB R.TIM_STAT_FINE_READY then
    (s.putStamp l { s.stamp l with tx := some (s.get (R.LFR_TX_SFC_COUNT l), s.fineNow) }).draw
  else s

/-! ### Bonds (R292, R293) -/

/-- The first lane of the group that a lane's BOND setting names. -/
def State.bondBase (s : State) (l : Nat) : Nat :=
  let n := 2 ^ s.get (R.MSG_LANE_CFG_BOND l)
  l / n * n

/-- MSG_LANE_STAT.BOND_ERR: the peer's accepted bond fields differ, or a lane of the group is set otherwise. -/
def State.bondErr (s : State) (l : Nat) : Bool :=
  let w := s.get (R.MSG_LANE_CFG_BOND l)
  let base := s.bondBase l
  (List.range (2 ^ w)).any (fun i => s.get (R.MSG_LANE_CFG_BOND (base + i)) != w) ||
    (match (s.link l).accepted with
     | some (_, b, _) => b / 32 != l - base || b / 8 % 4 != w
     | none => false)

/-- The lead lane of a lane's bond, or the lane itself where it works alone. -/
def State.lead (s : State) (l : Nat) : Nat :=
  if s.bondErr l || s.bondErr (s.bondBase l) then l else s.bondBase l

/-- The session of a lane's bond is UP. -/
def State.sessionUp (s : State) (l : Nat) : Bool := s.get (R.MSG_LANE_STAT_SESSION (s.lead l)) == 2

/-! ### The overhead of a superframe -/

/-- Header bytes 1 to 3 of a superframe; the role is that of the bond's lead (R271, R293). -/
def faostHeader (s : State) (l : Nat) : List Nat :=
  let w := s.get (R.MSG_LANE_CFG_BOND l)
  let pos := l % 2 ^ w
  [128 * s.get (R.MSG_LANE_CFG_ROLE (s.lead l)) + 64 * b2n (s.sessionUp l)
    + 32 * s.get (R.LFR_CFG_TX_PRECODE l) + 16 * s.get (R.LFR_CFG_RX_PRECODE l) + s.laneCode l,
   32 * pos + 8 * w, 0x27]

/-- The overhead bytes of a superframe as far as its boundary fixes them: byte 0 stands for the count, and nothing but
zeros follows where Faost does not run on the lane (R52, R271). -/
def overheadStart (s : State) (l : Nat) : List Nat :=
  if s.getB (R.MSG_LANE_CFG_EN l) && s.blkOn (dev .msg) then 0 :: faostHeader s l ++ (s.link l).cell0 else []

/-! ### Item 5 of the Gleaner -/

/-- Row 5 of Transmit output precedence applies: the transmitter sends frames of a running superframe (R149, R245). -/
def State.framesSent (s : State) (l : Nat) : Bool :=
  s.laneUp l && s.getB (R.LTX_STAT_READY l) && s.txRuns l && !(s.tx l).mute && (s.tx l).patSel == 0
    && ((s.tx l).dim == .full || (s.tx l).dim == .marker)

/-- The conditions of a DAC_CELL run and of a swap: frames go out, and the lane is in CANDLE or FULL (R211). -/
def cellOk (s : State) (l : Nat) : Bool := (s.laneCode l == 2 || s.laneCode l == 3) && s.framesSent l

/-- A transmit superframe boundary: a run of item 5 that waits for it begins, and a sweep that CAL's stop has caught
ends (R211, R212, R228, R230, R231). -/
def calTxBoundary (l : Nat) (s : State) : State :=
  let c := s.cal l
  if c.sweepStage == 6 then s.putCal l { c with sweepLeft := 0, sweepStage := 0, sweepFirst := 0 }
  else if c.sweepStage == 1 && !(c.sweepPaused && s.calThrottled) && !s.held && cellOk s l then
    s.putCal l { c with sweepStage := 2 }
  else s

/-- What every superframe boundary that begins a superframe does (R46 to R48, R160 to R162, R167, R243). -/
def txBoundary (l : Nat) (s : State) : State :=
  let s := stampTx l s
  let s := s.putTx l { s.tx l with
    running := true, hold := .none, frame := 0, scrambler := scramblerSeed (s.get (R.LFR_TX_SFC_COUNT l) % 256)
    overhead := overheadStart s l, saturated := false, inverted := s.getB (R.LTX_CFG_POL_INV l) }
  let s := s.putLink l { s.link l with cell0 := [] }
  let s := fsStep l s
  let s := s.putTx l { s.tx l with mute := s.getB (R.LTX_CFG_SQUELCH l) }
  let s := s.setB (R.LTX_STAT_SWING l) (!s.getB (R.LTX_CFG_SQUELCH l))
  let s := patternStep l s
  let s := if s.get (R.TXP_PAT_SEL l) = 0 then dimStep l s else s
  calTxBoundary l (autoRaise (hostEnter (2 * l + 1) (hostEnter (2 * l) s)))

/-- The place in the DIM structure when a hold begins: a rate change waits for the superframe's end, a slice change cuts
a marker or a burst short (R64 to R67, R152, R153; log entry 265). -/
def heldPhase (h : TxHold) : DimPhase → DimPhase
  | .marker => if h == .slice then .full else .dim
  | .burst => .full
  | d => d

/-- The output is held at common mode until a boundary: no swing, no fill, no ramp, no marker (R67, R73, R150 to R153,
R160). -/
def txHold (l : Nat) (h : TxHold) (s : State) : State :=
  let s := calDiscardDac l (flushLine l s)
  let d := heldPhase h (s.tx l).dim
  let s := dimPut l d (s.putTx l { s.tx l with hold := h, leaveDim := (s.tx l).leaveDim && d == .dim })
  let s := fsAtOnce l (s.setB (R.LTX_STAT_SWING l) false)
  (s.setB (R.TXP_STAT_FILL l 0) false).setB (R.TXP_STAT_FILL l 1) false

/-- The transmitter is ready and its lane is out of OFF and FAULT (R149, R151). -/
def State.txReady (s : State) (l : Nat) : Bool := s.laneUp l && s.getB (R.LTX_STAT_READY l)

/-- TX_SUPERFRAME_BOUNDARY: the first one starts the superframe timing, one with a rate change pending ends in the
hold, and every other advances the count (R47, R151, R152). -/
def txSuperframeBoundaryOp (l : Nat) (s : State) : State :=
  let t := s.tx l
  if !s.txReady l || t.hold == .rate || t.hold == .slice then s
  else if !t.running then txBoundary l s
  else if t.hold == .ratePending then txHold l .rate s
  else txBoundary l (s.wrapInc (R.LFR_TX_SFC_COUNT l) 1)

/-- TX_RATE_RESUME: the hold ends with the first superframe at the new rate, which carries the count that follows
(R152). -/
def txRateResumeOp (l : Nat) (s : State) : State :=
  let h := (s.tx l).hold
  if s.txReady l && (h == .rate || h == .ratePending) then
    txBoundary l ((if h == .ratePending then txHold l .rate s else s).wrapInc (R.LFR_TX_SFC_COUNT l) 1)
  else s

/-- TX_SLICE_RESUME: the new slice reaches its first boundary with the count at 0 (R153). -/
def txSliceResumeOp (l : Nat) (s : State) : State :=
  if s.txReady l && (s.tx l).hold == .slice then txBoundary l (s.set (R.LFR_TX_SFC_COUNT l) 0) else s

/-- TRAINING_BURST_START: frame 192 of a DIM superframe with DIM_REQ = 0, or with DIM left for ACQUIRE; below the
lane's level the transmitter stays in DIM (R66, R67, R385). -/
def trainingBurstStartOp (l : Nat) (s : State) : State :=
  let t := s.tx l
  if s.txRuns l && t.dim == .dim && t.frame ≤ 192 && s.levelOk l
      && (!s.getB (laneFld R.SHF_LANE_CFG_DIM_REQ l) || t.leaveDim) then
    let s := if t.frame = 192 then s else
      let s := flushLine l s
      s.putTx l { s.tx l with
        frame := 192
        scrambler := scramblerSkip (2864 * 192) (scramblerSeed (s.get (R.LFR_TX_SFC_COUNT l) % 256)) }
    dimPut l .burst s
  else s

/-! ### Squelch, swing, patterns -/

/-- SQUELCH_ON: the differential swing goes (R160, R162). -/
def squelchOnOp (l : Nat) (s : State) : State :=
  let s := flushLine l (calDiscardDac l (s.setB (R.LTX_CFG_SQUELCH l) true))
  fsAtOnce l ((s.putTx l { s.tx l with mute := true }).setB (R.LTX_STAT_SWING l) false)

/-- SQUELCH_OFF: swing resumes at a superframe boundary (R162). -/
def squelchOffOp (l : Nat) (s : State) : State := s.setB (R.LTX_CFG_SQUELCH l) false

/-- Whether the output is at common mode by rows 1 and 2 of Transmit output precedence or by a hold (R149, R151). -/
def State.commonMode (s : State) (l : Nat) : Bool := !s.txReady l || !s.txRuns l || (s.tx l).mute

/-- FS_WRITE: a ramp starts, or the value takes effect at once at common mode; above 24 it is refused (R159, R160). -/
def fsWriteOp (l v : Nat) (s : State) : State :=
  if 24 < v then s.conflict ⟨.ltx, l⟩
  else
    let s := s.set (R.LTX_CFG_FS l) v
    if s.commonMode l then fsAtOnce l s else s.setB (R.LTX_STAT_FS_RAMP l) ((s.tx l).fs != v)

/-- PATTERN_SELECT: SEL, HALF and LEVEL wait for the boundary; a reserved SEL is refused (R166, R167). -/
def patternSelectOp (l sel half level : Nat) (s : State) : State :=
  let s := if 5 < sel then s.conflict ⟨.txp, l⟩ else s.set (R.TXP_PAT_SEL l) sel
  (s.set (R.TXP_PAT_HALF l) half).set (R.TXP_PAT_LEVEL l) level

/-! ### The shadow set -/

/-- One set of shaping values copied over another: 0 shadow, 1 in use, 2 read-back (R157). -/
def txpCopy (l src dst : Nat) (s : State) : State :=
  let s := (s.set (R.TXP_SET_MAIN l dst) (s.get (R.TXP_SET_MAIN l src))).set (R.TXP_SET_STEP l dst)
    (s.get (R.TXP_SET_STEP l src))
  let s := (List.range 7).foldl (fun s t => s.set (R.TXP_SET_FIR_COEF l dst t) (s.get (R.TXP_SET_FIR_COEF l src t))) s
  (List.range 64).foldl (fun s i => s.set (R.TXP_SET_PD_P l dst i) (s.get (R.TXP_SET_PD_P l src i))) s

/-- TXP_COMMIT: the commit waits for the frame boundary, merged with one that waits already (R157). -/
def txpCommitOp (l : Nat) (s : State) : State := s.putTx l { s.tx l with commit := true }

/-- TXP_COMMIT_APPLY: the whole shadow set is applied and COMMIT_DONE raised (R157). -/
def txpCommitApplyOp (l : Nat) (s : State) : State :=
  if (s.tx l).commit then (txpCopy l 0 1 (s.putTx l { s.tx l with commit := false })).irq ⟨.txp, l⟩ 1 else s

/-- TXP_SNAP: the live values are copied into the read-back set (R157). -/
def txpSnapOp (l : Nat) (s : State) : State := txpCopy l 1 2 s

/-- TXP_STAT.AUTO_RUN: firmware adapts the FIR or the predistortion (R158). -/
def State.autoRuns (s : State) (l : Nat) : Bool :=
  (s.getB (R.TXP_CFG_FIR_AUTO l) || s.getB (R.TXP_CFG_PD_AUTO l)) && !s.expert ⟨.txp, l⟩ && s.fwcRunning
    && s.getB (R.MSG_LANE_STAT_LINK_UP l) && s.get (R.TXP_PAT_SEL l) == 0

/-- TX_ADAPT_STEP: firmware writes new taps and table entries to the shadow set and commits them. It starts from the live
values: what the shadow set held without a commit that waits is dropped (R157, R158). -/
def txAdaptStepOp (l : Nat) (fir pd : List Int) (s : State) : State :=
  if s.autoRuns l then
    let s := if (s.tx l).commit then s else txpCopy l 1 0 s
    let s := if s.getB (R.TXP_CFG_FIR_AUTO l) then
      (List.zipIdx (fir.take 7)).foldl (fun s v => s.setI (R.TXP_SET_FIR_COEF l 0 v.2) v.1) s else s
    let s := if s.getB (R.TXP_CFG_PD_AUTO l) then
      (List.zipIdx (pd.take 64)).foldl (fun s v => s.setI (R.TXP_SET_PD_P l 0 v.2) v.1) s else s
    txpCommitOp l s
  else s

/-! ### LDIS -/

/-- The level of LDIS[l]: pulled high under POR and COLD, in TIMEKEEP and after a switch-over, else by R169. -/
def State.ldisPin (s : State) (l : Nat) : Bool :=
  s.coldAsserted || s.power == 3 || s.getB R.PWR_RAIL_STAT_ON_VBAK || s.getB (R.LTX_LDIS_DIS l) || s.getB (R.LTX_LDIS_TRIP l)
    || s.held
    || (s.getB (R.LTX_LDIS_AUTO l) && (s.laneCode l == 0 || s.laneCode l == 6))

/-- LDIS_WRITE: DIS and AUTO are stored; the pin follows R169 (R170). -/
def ldisWriteOp (l : Nat) (dis auto : Bool) (s : State) : State :=
  (s.setB (R.LTX_LDIS_DIS l) dis).setB (R.LTX_LDIS_AUTO l) auto

/-- LTX_LDIS.TRIP_ACTIVE: a comparator bound to LDIS[l] is active (R316). -/
def State.tripActive (s : State) (l : Nat) : Bool :=
  (List.range 8).any fun c => (List.range 2).any fun j =>
    s.getB (R.MFIL_LIM_CFG_ACTIVE c j) && bitAt (s.get (R.MFIL_LIM_CFG_LDIS c j)) l == 1

/-- LDIS_TRIP_CLEAR: TRIP clears only while no bound comparator is beyond its limit (R172). -/
def ldisTripClearOp (l : Nat) (s : State) : State :=
  if s.tripActive l then s.conflict ⟨.ltx, l⟩ else s.setB (R.LTX_LDIS_TRIP l) false

/-! ### Meanings -/

/-- TX_FRAME (R58). -/
def execTxFrame (l : Lane) (a b : List Bool) (s : State) : Host.Outcome State Fault Refusal :=
  done (txFrameOp l.val a b s)

/-- TX_SUPERFRAME_BOUNDARY (R47). -/
def execTxSuperframeBoundary (l : Lane) (s : State) : Host.Outcome State Fault Refusal :=
  done (txSuperframeBoundaryOp l.val s)

/-- TRAINING_BURST_START (R66). -/
def execTrainingBurstStart (l : Lane) (s : State) : Host.Outcome State Fault Refusal :=
  done (trainingBurstStartOp l.val s)

/-- SQUELCH_ON (R162). -/
def execSquelchOn (l : Lane) (s : State) : Host.Outcome State Fault Refusal :=
  done (squelchOnOp l.val s)

/-- SQUELCH_OFF (R162). -/
def execSquelchOff (l : Lane) (s : State) : Host.Outcome State Fault Refusal :=
  done (squelchOffOp l.val s)

/-- TXP_COMMIT (R157). -/
def execTxpCommit (l : Lane) (s : State) : Host.Outcome State Fault Refusal :=
  done (txpCommitOp l.val s)

/-- TXP_COMMIT_APPLY (R157). -/
def execTxpCommitApply (l : Lane) (s : State) : Host.Outcome State Fault Refusal :=
  done (txpCommitApplyOp l.val s)

/-- TXP_SNAP (R157). -/
def execTxpSnap (l : Lane) (s : State) : Host.Outcome State Fault Refusal :=
  done (txpSnapOp l.val s)

/-- TX_ADAPT_STEP (R158). -/
def execTxAdaptStep (l : Lane) (fir pd : List Int) (s : State) : Host.Outcome State Fault Refusal :=
  done (txAdaptStepOp l.val fir pd s)

/-- FS_WRITE (R160). -/
def execFsWrite (l : Lane) (fs : BitVec 5) (s : State) : Host.Outcome State Fault Refusal :=
  done (fsWriteOp l.val fs.toNat s)

/-- PATTERN_SELECT (R167). -/
def execPatternSelect (l : Lane) (sel : BitVec 3) (half : BitVec 6) (level : BitVec 2)
    (s : State) : Host.Outcome State Fault Refusal :=
  done (patternSelectOp l.val sel.toNat half.toNat level.toNat s)

/-- LDIS_WRITE (R169). -/
def execLdisWrite (l : Lane) (dis auto : Bool) (s : State) : Host.Outcome State Fault Refusal :=
  done (ldisWriteOp l.val dis auto s)

/-- LDIS_TRIP_CLEAR (R172). -/
def execLdisTripClear (l : Lane) (s : State) : Host.Outcome State Fault Refusal :=
  done (ldisTripClearOp l.val s)

/-- TX_RATE_RESUME (R152). -/
def execTxRateResume (l : Lane) (s : State) : Host.Outcome State Fault Refusal :=
  done (txRateResumeOp l.val s)

/-- TX_SLICE_RESUME (R153). -/
def execTxSliceResume (l : Lane) (s : State) : Host.Outcome State Fault Refusal :=
  done (txSliceResumeOp l.val s)

end Sys2Proof.Machine
end

