-- ==== Sys2Proof/Machine/HostLane.lean ====
section
/-!
DEFINITION. Host lanes: loss of signal, clock recovery, equalisers, link training, alignment markers, deskew, ports,
transmit clock, test patterns and the host output (R178 to R206, R244, R245).
-/

namespace Sys2Proof.Machine

open Sys2Proof

/-- The HSD block of host lane h. -/
def hsd (h : Nat) : Blk := ⟨.hsd, h⟩

/-! ### Signal and clock recovery -/

/-- CDR lock of host lane h ends: marker lock and RX_EQ_DONE go with it (R183, R188, R195). -/
def cdrDrop (h : Nat) (s : State) : State :=
  if s.getB (R.HSD_STAT_CDR_LOCK h) then
    let s := (s.change (R.HSD_STAT_CDR_LOCK h) false (hsd h) 1).setB (R.HSD_STAT_RX_EQ_DONE h) false
    timingRefresh (h / 2) (amLose h s)
  else s

/-- HOST_LOS_SET: the amplitude, in mVppd, fell below 40 (R183, R188). -/
def hostLosSetOp (h amp : Nat) (s : State) : State :=
  if s.hostActive h && amp < 40 && !s.getB (R.HSD_STAT_LOS h) then
    amLose h (cdrDrop h (s.change (R.HSD_STAT_LOS h) true (hsd h) 0))
  else s

/-- HOST_LOS_CLEAR: the amplitude, in mVppd, rose above 80 (R183). -/
def hostLosClearOp (h amp : Nat) (s : State) : State :=
  if s.hostActive h && 80 < amp then s.change (R.HSD_STAT_LOS h) false (hsd h) 0 else s

/-- The transmit clock loses track when its timing lane moved by more than 0.1 ppm (R195). -/
def trackMoved (h : Nat) (old new : Int) (s : State) : State :=
  let l := h / 2
  let t := s.get (R.GBX_HOST_STAT_TIMING_LANE l)
  let mine := t == hostIndex (s.rx l).txSwap h + 1
  if mine && 10 < (new - old).natAbs then trackLose l s else s

/-- CDR_LOCK: the frequency, in 0.01 ppm, is within 200 ppm; after a loss of more than 1 ms training starts (R183,
R186, R195). -/
def cdrLockOp (h : Nat) (freq : Int) (long : Bool) (s : State) : State :=
  if s.hostActive h && !s.getB (R.HSD_STAT_LOS h) && -20000 ≤ freq && freq ≤ 20000 then
    let old := s.getI (R.HSD_STAT_FREQ h)
    let was := s.getB (R.HSD_STAT_CDR_LOCK h)
    let s := s.setI (R.HSD_STAT_FREQ h) freq
    if was then trackMoved h old freq s
    else
      let s := timingRefresh (h / 2) (s.change (R.HSD_STAT_CDR_LOCK h) true (hsd h) 1)
      if long then trainStart h s else s
  else s

/-- CDR_LOCK_LOSS (R183). -/
def cdrLockLossOp (h : Nat) (s : State) : State := cdrDrop h s

/-! ### Equalisers -/

/-- While training runs, the device asks the host transmitter for the step that the tap shape of its receiver indicates,
one request at a time (R186, R187). -/
def trainAsk (h : Nat) (s : State) : State :=
  let x := s.host h
  let v := (Config.trainAsk x.ffe).toNat
  if s.get (R.HSD_TRAIN_STATE h) = 1 && x.asked.isNone && v != 0 && v != 7 then
    s.putHost h { x with asked := some ((v - 1) / 2, (v - 1) % 2 == 1), repeats := 0 }
  else s

/-- HOST_RX_EQ_DONE: the adaptation reached these CTLE, DFE1 and FFE values; a frozen receiver keeps its own (R182,
R186). -/
def hostRxEqDoneOp (h ctle dfe1 : Nat) (ffe : List Nat) (s : State) : State :=
  if s.getB (R.HSD_STAT_CDR_LOCK h) then
    let s := if s.getB (R.HSD_RX_EQ_FREEZE h) then s
      else s.putHost h { s.host h with ctle := min ctle 24, dfe1 := dfe1 % 1024,
                                       ffe := (List.range 12).map fun t => ffe.getD t 0 % 1024 }
    trainAsk h (s.setB (R.HSD_STAT_RX_EQ_DONE h) true)
  else s

/-- The values in use are copied into HSD_RX_EQ and HSD_RX_FFE (R182). -/
def eqToRegs (h : Nat) (s : State) : State :=
  let x := s.host h
  let s := (s.set (R.HSD_RX_EQ_CTLE h) x.ctle).set (R.HSD_RX_EQ_DFE1 h) x.dfe1
  (List.range 12).foldl (fun s t => s.set (R.HSD_RX_FFE_COEF h t) (x.ffe.getD t 0)) s

/-- The receiver takes its values from HSD_RX_EQ and HSD_RX_FFE (R182). -/
def eqFromRegs (h : Nat) (s : State) : State :=
  s.putHost h { s.host h with
    ctle := s.get (R.HSD_RX_EQ_CTLE h), dfe1 := s.get (R.HSD_RX_EQ_DFE1 h)
    ffe := (List.range 12).map fun t => s.get (R.HSD_RX_FFE_COEF h t) }

/-- HSD_RX_FREEZE: a rising FREEZE copies the values in use; a falling one goes on from them (R182). The
copy comes after a write of CTLE or DFE1 in the same word (DESIGN CHOICE, log entry 261). -/
def hsdRxFreezeOp (h : Nat) (on : Bool) (s : State) : State :=
  let was := s.getB (R.HSD_RX_EQ_FREEZE h)
  let s := s.setB (R.HSD_RX_EQ_FREEZE h) on
  if on && !was then eqToRegs h s else if was then eqFromRegs h s else s

/-- The magnitude of a 6-bit tap. -/
def tapSize (v : Nat) : Nat := (toInt 6 v).natAbs

/-- Whether PRE2, PRE1 and POST1 keep the limit of 48/64 (R184). -/
def tapsOk (pre2 pre1 post1 : Nat) : Bool := tapSize pre2 + tapSize pre1 + tapSize post1 ≤ 48

/-- The three transmit taps set (R184). -/
def txTapsPut (h pre2 pre1 post1 : Nat) (s : State) : State :=
  ((s.set (R.HSD_TX_EQ_PRE2 h) pre2).set (R.HSD_TX_EQ_PRE1 h) pre1).set (R.HSD_TX_EQ_POST1 h) post1

/-- HSD_TX_EQ_WRITE: refused beyond the limit and while training runs (R184). -/
def hsdTxEqWriteOp (h pre2 pre1 post1 swing : Nat) (s : State) : State :=
  if s.get (R.HSD_TRAIN_STATE h) = 1 || !tapsOk pre2 pre1 post1 then s.conflict (hsd h)
  else (txTapsPut h pre2 pre1 post1 s).set (R.HSD_TX_EQ_SWING h) swing

/-- HSD_INVERT: a change of the received polarity under marker lock ends that lock (R185, R188). -/
def hsdInvertOp (h : Nat) (rx tx : Bool) (s : State) : State :=
  let was := s.getB (R.HSD_CFG_RX_INV h)
  let s := (s.setB (R.HSD_CFG_RX_INV h) rx).setB (R.HSD_CFG_TX_INV h) tx
  if was == rx then s else amLose h s

/-! ### Link training -/

/-- TRAIN_RESTART (R186). -/
def trainRestartOp (h : Nat) (s : State) : State := trainStart h s

/-- The answer to a request of the host is recorded: 1 updated, 2 at a limit, 3 not supported (R186, R187). -/
def trainAnswer (h code : Nat) (s : State) : State := s.putHost h { s.host h with answer := code }

/-- The taps that a request asks for, from the taps in use; none for a coefficient that the device does not
support (R186). -/
def requestedTaps (q : TrainRequest) (pre2 pre1 post1 : Nat) : Option (Nat × Nat × Nat) :=
  let of18 (v : BitVec 18) : Nat × Nat × Nat := (bits v.toNat 0 6, bits v.toNat 6 6, bits v.toNat 12 6)
  let move (v : Nat) (up : Bool) : Nat := ofInt 6 (clampInt (-32) 31 (toInt 6 v + (if up then 1 else -1)))
  match q with
  | .preset k => some (of18 (Config.trainPreset k))
  | .initial => some (of18 Config.trainInitial)
  | .step tap up =>
    if tap.val = 0 then some (move pre2 up, pre1, post1)
    else if tap.val = 1 then some (pre2, move pre1 up, post1)
    else some (pre2, pre1, move post1 up)
  | .other => none

/-- TRAIN_REQUEST: applied to the transmitter within the tap limit and answered (R184, R186, R187). -/
def trainRequestOp (h : Nat) (q : TrainRequest) (s : State) : State :=
  if s.get (R.HSD_TRAIN_STATE h) = 1 then
    let a := s.get (R.HSD_TX_EQ_PRE2 h)
    let b := s.get (R.HSD_TX_EQ_PRE1 h)
    let c := s.get (R.HSD_TX_EQ_POST1 h)
    match requestedTaps q a b c with
    | none => trainAnswer h 3 s
    | some (x, y, z) =>
      if !tapsOk x y z || (x, y, z) = (a, b, c) then trainAnswer h 2 s
      else trainAnswer h 1 (txTapsPut h x y z s)
  else s

/-- TRAINING_ANSWER: the host answers the device's request, and the next one goes out (R186, R187). -/
def trainingAnswerOp (h : Nat) (s : State) : State :=
  trainAsk h (s.putHost h { s.host h with asked := none, repeats := 0 })

/-- Training fails: STATE is FAILED and TRAIN_FAIL is raised (R187, R206). -/
def trainFail (h : Nat) (s : State) : State := (s.set (R.HSD_TRAIN_STATE h) 3).irq (hsd h) 3

/-- TRAIN_RESPONSE_TIMEOUT: 5 ms without an answer repeats the request; after three repeats training fails (R187). -/
def trainResponseTimeoutOp (h : Nat) (s : State) : State :=
  if s.get (R.HSD_TRAIN_STATE h) = 1 && (s.host h).asked.isSome then
    let n := (s.host h).repeats
    if n < 3 then s.putHost h { s.host h with repeats := n + 1 } else trainFail h s
  else s

/-- TRAIN_TIMEOUT: the limit that HSD_TRAIN.TIMEOUT sets has passed (R187). -/
def trainTimeoutOp (h : Nat) (s : State) : State :=
  if s.get (R.HSD_TRAIN_STATE h) = 1 && s.get (R.HSD_TRAIN_TIMEOUT h) != 3 then trainFail h s else s

/-- TRAIN_DONE: both receivers are declared ready; the device's own has adapted (R186, R187). -/
def trainDoneOp (h : Nat) (s : State) : State :=
  if s.get (R.HSD_TRAIN_STATE h) = 1 && s.getB (R.HSD_STAT_RX_EQ_DONE h) then
    (s.set (R.HSD_TRAIN_STATE h) 2).irq (hsd h) 2
  else s

/-! ### Alignment markers and deskew -/

/-- Whether the markers of every PCS lane of a stream were found (R188). -/
def markersFound (maxErr : Nat) (ms : List (Option Nat)) : Bool :=
  !ms.isEmpty && ms.all fun m => match m with
    | some e => e ≤ maxErr
    | none => false

/-- One period of a transmit-direction stream: lock after LOCK_N good periods, loss after LOSS_N bad ones (R188). -/
def amJudge (h : Nat) (found : Bool) (s : State) : State :=
  let l := h / 2
  let j := hostIndex (s.rx l).txSwap h
  let x := s.host h
  let s := s.putHost h { x with amFound := if found then x.amFound + 1 else 0,
                                amMissed := if found then 0 else x.amMissed + 1 }
  let able := s.hostActive h && !s.getB (R.HSD_STAT_LOS h) && s.getB (R.HSD_STAT_CDR_LOCK h)
    && s.get (R.HSD_TRAIN_STATE h) != 1 && s.get (R.HSD_PRBS_CFG_CHK h) = 0
  if s.getB (R.GBX_HOST_STAT_AM_LOCK l j) then
    if s.get (R.GBX_AM_CFG_LOSS_N l) ≤ (s.host h).amMissed then amLose h s else s
  else if able && s.get (R.GBX_AM_CFG_LOCK_N l) ≤ (s.host h).amFound then
    s.change (R.GBX_HOST_STAT_AM_LOCK l j) true ⟨.gbx, l⟩ 0
  else s

/-- One period of the stream delivered at logical lane j of line lane l (R188). -/
def rxAmJudge (l j : Nat) (found : Bool) (s : State) : State :=
  let h := 2 * l + j
  let x := s.host h
  let s := s.putHost h { x with rxFound := if found then x.rxFound + 1 else 0,
                                rxMissed := if found then 0 else x.rxMissed + 1 }
  if s.getB (R.GBX_HOST_STAT_RX_AM_LOCK l j) then
    if s.get (R.GBX_AM_CFG_LOSS_N l) ≤ (s.host h).rxMissed then
      s.change (R.GBX_HOST_STAT_RX_AM_LOCK l j) false ⟨.gbx, l⟩ 1
    else s
  else if decodes (s.laneCode l) && s.get (R.GBX_AM_CFG_LOCK_N l) ≤ (s.host h).rxFound then
    s.change (R.GBX_HOST_STAT_RX_AM_LOCK l j) true ⟨.gbx, l⟩ 1
  else s

/-- The host lanes of the port of a lane: logical lane B takes no part in the 1:1 configuration (R180, R189). -/
def State.portHosts (s : State) (l : Nat) : List Nat :=
  ((s.portMembers l).flatMap fun m => [2 * m, 2 * m + 1]).filter fun h =>
    !(s.oneToOne (h / 2) && hostIndex (s.rx (h / 2)).txSwap h == 1)

/-- Whether host lane h holds marker lock. -/
def State.amLocked (s : State) (h : Nat) : Bool :=
  s.getB (R.GBX_HOST_STAT_AM_LOCK (h / 2) (hostIndex (s.rx (h / 2)).txSwap h))

/-- Whether the port needs deskew: it has more than one host lane (R189). -/
def State.portDeskews (s : State) (l : Nat) : Bool :=
  !s.portBad l && s.portW l != 0 && 1 < (s.portHosts l).length

/-- The hold of a host lane in GBX_SKEW. -/
def holdFld (s : State) (h : Nat) : Fld := R.GBX_SKEW_HOLD (h / 2) (hostIndex (s.rx (h / 2)).txSwap h)

/-- The latest arrival among host lanes. -/
def latest (arrive : List Nat) (hs : List Nat) : Nat := hs.foldl (fun m h => max m (arrive.getD h 0)) 0

/-- The difference between a host lane's arrival and the latest (R189). -/
def skewOf (arrive : List Nat) (hs : List Nat) (h : Nat) : Nat := latest arrive hs - arrive.getD h 0

/-- A status bit of every lane of a port. -/
def portPut (f : Nat → Fld) (ms : List Nat) (v : Bool) (s : State) : State :=
  ms.foldl (fun s m => s.setB (f m) v) s

/-- The skew is above 180 ns: no hold, and fill for every host lane of the port (R190). -/
def skewTooLarge (l : Nat) (s : State) : State :=
  let hs := s.portHosts l
  let s := (s.portMembers l).foldl (fun s m =>
    if s.getB (R.GBX_HOST_STAT_SKEW_ERR m) then s
    else (s.setB (R.GBX_HOST_STAT_SKEW_ERR m) true).irq ⟨.gbx, m⟩ 2) s
  let s := portPut R.GBX_HOST_STAT_DESKEWED (s.portMembers l) false s
  hs.foldl (fun s h => hostLeave h (s.set (holdFld s h) 0)) s

/-- The holds are set and the port is deskewed (R189). -/
def setHolds (l : Nat) (arrive : List Nat) (s : State) : State :=
  let hs := s.portHosts l
  let s := hs.foldl (fun s h =>
    (s.set (holdFld s h) (skewOf arrive hs h)).putHost h { s.host h with slipRun := 0 }) s
  let s := portPut R.GBX_HOST_STAT_SKEW_ERR (s.portMembers l) false s
  portPut R.GBX_HOST_STAT_DESKEWED (s.portMembers l) true s

/-- Two RS symbol times, in 1/16 ns times 425: 640 at 212.5 Gb/s, 1,280 at 106.25 Gb/s (R178, R190). -/
def twoSymbols (s : State) (l : Nat) : Nat := if s.rate l = 1 && !s.oneToOne l then 1280 else 640

/-- The marker lock of every lane of a port ends (R181, R190). -/
def portDrop (ms : List Nat) (s : State) : State :=
  let s := ms.foldl (fun s m => amLose (2 * m + 1) (amLose (2 * m) s)) s
  portPut R.GBX_HOST_STAT_DESKEWED ms false s

/-- The skew of each host lane of line lane l is compared with its hold; a second period beyond two symbols is a slip
(R190); each lane beyond it counts its own (DESIGN CHOICE, log entry 260). -/
def slipCheck (l : Nat) (arrive : List Nat) (s : State) : State :=
  let all := s.portHosts l
  let hs := all.filter fun h => h / 2 == l
  let far (s : State) (h : Nat) : Bool := twoSymbols s l < absDiff (skewOf arrive all h) (s.get (holdFld s h)) * 425
  let s := hs.foldl (fun s h =>
    s.putHost h { s.host h with slipRun := if far s h then (s.host h).slipRun + 1 else 0 }) s
  let slipped := hs.filter fun h => 2 ≤ (s.host h).slipRun
  if slipped.isEmpty then s
  else
    let s := slipped.foldl (fun s h => ((s.satInc (R.GBX_SLIP_CNT_COUNT (h / 2)) 1).irq ⟨.gbx, h / 2⟩ 3).putHost h
      { s.host h with slipRun := 0 }) s
    portDrop (s.portMembers l) s

/-- The deskew of one marker period, given whether every lane held lock before it (R189, R190). -/
def deskewPeriod (l : Nat) (before : Bool) (arrive : List Nat) (s : State) : State :=
  let hs := s.portHosts l
  if !s.portDeskews l || !hs.all s.amLocked then s
  else if 2880 < hs.foldl (fun m h => max m (skewOf arrive hs h)) 0 then skewTooLarge l s
  else if !before || !s.getB (R.GBX_HOST_STAT_DESKEWED l) then setHolds l arrive s
  else slipCheck l arrive s

/-! ### Latency telemetry -/

/-- A latency in ps, rounded to nearest with halves up: `sign` is 1 for the transmit and −1 for the receive direction
(R244). -/
def latencyPs (sign : Int) (m : LatencyStamps) : Nat :=
  let span : Int := m.next - m.first
  let line : Int := m.first * 376832 + m.index * span
  let num := 1000 * (sign * (line - m.host * 376832) - m.hold * 376832)
  let den : Int := 256 * 376832
  ((2 * num + den) / (2 * den)).toNat

/-- Lane A of a pair in the transmit direction (R201). -/
def State.laneA (s : State) (l : Nat) : Nat := if (s.rx l).txSwap then 2 * l + 1 else 2 * l

/-- The pair's host lane whose markers arrive later, or lane A in the 1:1 configuration (R244). -/
def laterHost (s : State) (l : Nat) (arrive : List Nat) : Nat :=
  if s.oneToOne l then s.laneA l
  else if arrive.getD (2 * l) 0 < arrive.getD (2 * l + 1) 0 then 2 * l + 1 else 2 * l

/-- Marker lock on X as it stands between two marker periods: the later lane of a deskewed pair is the one with the
smaller hold, lane A of two alike; without deskew either lane may be the later one, and both must be locked (R245; log
entry 193). -/
def State.laterLocked (s : State) (l : Nat) : Bool :=
  let a := s.laneA l
  let b := 4 * l + 1 - a
  if s.oneToOne l then s.amLocked a
  else if s.getB (R.GBX_HOST_STAT_DESKEWED l) then
    if s.get (holdFld s b) < s.get (holdFld s a) then s.amLocked b else s.amLocked a
  else s.amLocked a && s.amLocked b

/-- The transmit latency of a period, while it is valid (R244, R245). -/
def txLatency (l : Nat) (p : MarkerPeriod) (s : State) : State :=
  if s.getB R.TIM_STAT_FINE_READY && s.amLocked (laterHost s l p.arrive) && s.framesSent l then
    match p.txLat with
    | some m => s.set (R.TIM_LAT_TX_PS l) (latencyPs 1 m)
    | none => s
  else s

/-- Whether the receive latency is valid (R245). -/
def State.rxLatOk (s : State) (l : Nat) : Bool :=
  s.getB R.TIM_STAT_FINE_READY && decodes (s.laneCode l) && s.getB (R.GBX_HOST_STAT_RX_AM_LOCK l 0)
    && !s.getB (R.IDEC_STAT_STOPPED l)

/-- The receive latency of a period, while it is valid (R244, R245). -/
def rxLatency (l : Nat) (p : MarkerPeriod) (s : State) : State :=
  if s.rxLatOk l then
    match p.rxLat with
    | some m => s.set (R.TIM_LAT_RX_PS l) (latencyPs (-1) { m with hold := 0 })
    | none => s
  else s

/-- CW_LOCK of a lane's port: all receive marker locks hold and the line skew is at most 20 ns (R137, R181, R192). -/
def cwJudge (l rxSkew : Nat) (s : State) : State :=
  if s.rxMarkers l && rxSkew ≤ 320 then
    (s.portMembers l).foldl (fun s m =>
      if s.getB (R.GBX_OC_STAT_CW_LOCK m) then s
      else (s.putRx m { s.rx m with forwarded := [[], []] }).change (R.GBX_OC_STAT_CW_LOCK m) true ⟨.gbx, m⟩ 9) s
  else (s.portMembers l).foldl (fun s m => s.change (R.GBX_OC_STAT_CW_LOCK m) false ⟨.gbx, m⟩ 9) s

/-- AM_PERIOD: one alignment-marker period of line lane l (R188 to R190, R192, R244). -/
def amPeriodOp (l : Nat) (p : MarkerPeriod) (s : State) : State :=
  if s.laneUp l then
    let e := s.get (R.GBX_AM_CFG_MAX_ERR l)
    let before := (s.portHosts l).all s.amLocked
    let s := [0, 1].foldl (fun s i => amJudge (2 * l + i) (markersFound e (p.tx.getD i [])) s) s
    let s := [0, 1].foldl (fun s j => rxAmJudge l j (markersFound e (p.rx.getD j [])) s) s
    let s := cwJudge l p.rxSkew (deskewPeriod l before p.arrive s)
    rxLatency l p (txLatency l p s)
  else s

/-- The status of a port starts again: marker locks, deskew, SKEW_ERR and CW_LOCK of its lanes (R181). -/
def portRestart (ms : List Nat) (s : State) : State :=
  let s := portPut R.GBX_HOST_STAT_SKEW_ERR ms false (portDrop ms s)
  ms.foldl (fun s m => s.change (R.GBX_OC_STAT_CW_LOCK m) false ⟨.gbx, m⟩ 9) s

/-- PORT_W of a lane has changed from `was`, when its port had the lanes `old` (R181). -/
def portFollow (l was : Nat) (old : List Nat) (s : State) : State :=
  cfgRefresh (if s.portW l = was then s else portRestart (l :: old ++ s.portMembers l).eraseDups s)

/-- PORT_W_WRITE: a change drops the marker lock of every lane of the old and new ports; 5 to 7 are refused (R181,
R205). -/
def portWWriteOp (l w : Nat) (s : State) : State :=
  if 4 < w then s.conflict ⟨.gbx, l⟩
  else portFollow l (s.portW l) (s.portMembers l) (s.set (R.GBX_HOST_CFG_PORT_W l) w)

/-- TX_CLOCK_SLEW_DONE: the transmit clock is within 0.1 ppm of the timing lane (R195). -/
def txClockSlewDoneOp (l : Nat) (s : State) : State :=
  if s.get (R.GBX_HOST_STAT_TIMING_LANE l) != 0 then s.setB (R.GBX_HOST_STAT_TX_TRACK l) true else s

/-- REALIGN_DONE: the re-alignment of the host outputs ends, and data goes out again (R23, R105). -/
def realignDoneOp (l : Nat) (s : State) : State := s.putRx l { s.rx l with realign := false }

/-! ### Test patterns -/

/-- PRBS_GEN_SELECT: a pattern ends a training in progress (R197, R202). -/
def prbsGenSelectOp (h g : Nat) (s : State) : State :=
  let s := s.set (R.HSD_PRBS_CFG_GEN h) g
  if g % 4 != 0 && s.get (R.HSD_TRAIN_STATE h) = 1 then s.set (R.HSD_TRAIN_STATE h) 4 else s

/-- The checker loses its lock by another selection: what it has counted since its lock or CLR is not known to the model,
unless no time has passed (R203). -/
def prbsUnlock (h : Nat) (s : State) : State :=
  if s.getB (R.HSD_PRBS_STAT_LOCK h) then
    let s := if s.prbsOpen h then
      let s := (s.wrapInc (R.HSD_PRBS_BITS_COUNT h) (s.free 48)).draw
      (s.wrapInc (R.HSD_PRBS_ERR_COUNT h) (s.free 48)).draw else s
    s.change (R.HSD_PRBS_STAT_LOCK h) false (hsd h) 4
  else s

/-- PRBS_CHK_SELECT: the checker seeds itself afresh and marker lock ends; code 3 is refused (R188, R202, R203). -/
def prbsChkSelectOp (h c : Nat) (s : State) : State :=
  if c = 3 then s.conflict (hsd h)
  else
    let was := s.get (R.HSD_PRBS_CFG_CHK h)
    let s := s.set (R.HSD_PRBS_CFG_CHK h) c
    let s := if was = c then s else prbsUnlock h s
    if c = 0 then s else amLose h s

/-- PRBS_LOCK: 64 consecutive symbols match (R203). -/
def prbsLockOp (h : Nat) (s : State) : State :=
  if s.get (R.HSD_PRBS_CFG_CHK h) != 0 && !s.getB (R.HSD_PRBS_STAT_LOCK h) then
    (s.putHost h { s.host h with prbsAt := s.elapsed }).change (R.HSD_PRBS_STAT_LOCK h) true (hsd h) 4
  else s

/-- PRBS_LOSS: 64 of 256 symbols are in error; the bits compared and the errors since lock, or since CLR where that came
later, are counted (R203). -/
def prbsLossOp (h compared errors : Nat) (s : State) : State :=
  if s.getB (R.HSD_PRBS_STAT_LOCK h) then
    let s := (s.wrapInc (R.HSD_PRBS_BITS_COUNT h) compared).wrapInc (R.HSD_PRBS_ERR_COUNT h) errors
    (s.change (R.HSD_PRBS_STAT_LOCK h) false (hsd h) 4).setB (R.HSD_PRBS_STAT_LOST h) true
  else s

/-- PRBS_CLR (R203). -/
def prbsClrOp (h : Nat) (s : State) : State :=
  ((s.putHost h { s.host h with prbsAt := s.elapsed }).set (R.HSD_PRBS_ERR_COUNT h) 0).set (R.HSD_PRBS_BITS_COUNT h) 0

/-! ### Host output -/

/-- What the output of a host lane carries (R197 to R199): data are the bits of the last frame or codeword that are the
lane's. -/
inductive HostOutput where
  | off
  | noSwing
  | pattern (gen : Nat)
  | training
  | data (bits : List Nat)
  | lpiSquare
  deriving DecidableEq, Repr

/-- The LOL-defined idle: PRBS31Q, or no swing (R198). -/
def idleOutput (s : State) (l : Nat) : HostOutput :=
  if s.getB (R.GBX_HOST_CFG_IDLE l) then .noSwing else .pattern 2

/-- The bits of RS symbols, bit 0 of each first (PRESUMED, log entry 263). -/
def symbolBits (ws : List Nat) : List Nat := ws.flatMap fun w => (List.range 10).map (bitAt w)

/-- The bits that HTXP/HTXN[h] carries: those of lane A or lane B of the last frame, under the swap in effect, or on an
ASSIST lane under CW_LOCK those of the last outer codeword as it was corrected or marked (R138, R139, R193, R200, R201).
-/
def State.hostBits (s : State) (h : Nat) : List Nat :=
  let l := h / 2
  let r := s.rx l
  let j := hostIndex r.rxSwap h
  let fixed := r.forwarded.getD j []
  if r.assist && s.getB (R.GBX_OC_STAT_CW_LOCK l) && !fixed.isEmpty then symbolBits fixed
  else if s.oneToOne l then r.data
  else
    let p := demuxTwo 136 r.data
    if j = 0 then p.1 else p.2

/-- The output at HTXP/HTXN[h]: the first row of Host output precedence that holds; that of a failed HSD is off, and the
LPI pattern lasts to the first frame decoded after DIM (R14, R197, R199; log entry 194). -/
def State.hostOutput (s : State) (h : Nat) : HostOutput :=
  let l := h / 2
  let code := s.laneCode l
  if !s.getB (R.HSD_CFG_EN h) || code = 0 || code = 6 || s.failed (hsd h)
      || (s.oneToOne l && hostIndex (s.rx l).rxSwap h == 1) then .off
  else if s.getB (R.HSD_CFG_SQUELCH h) then .noSwing
  else if s.get (R.HSD_PRBS_CFG_GEN h) != 0 then .pattern (s.get (R.HSD_PRBS_CFG_GEN h))
  else if s.get (R.HSD_TRAIN_STATE h) = 1 then .training
  else if code = 1 || s.getB (R.IDEC_STAT_STOPPED l) || (s.rx l).realign || (s.host h).slewing then idleOutput s l
  else if code = 5 || (s.rx l).lpi then if s.getB (R.GBX_HOST_CFG_LPI l) then .lpiSquare else .noSwing
  else .data (s.hostBits h)

/-- The level of symbol k of an output, with the polarity of TX_INV; none where there is no swing (R185, R193, R197 to
R199, R202). -/
def State.hostLevel (s : State) (h k : Nat) : Option Nat :=
  let v := match s.hostOutput h with
    | .off | .noSwing => none
    | .pattern g => some (standardLevel g k)
    | .training => some (Config.trainLevel h k).toNat
    | .lpiSquare => some (if k / 16 % 2 = 0 then 0 else 3)
    | .data bs => some (grayLevel (bs.getD (2 * k) 0) (bs.getD (2 * k + 1) 0))
  v.map fun x => if s.getB (R.HSD_CFG_TX_INV h) then 3 - x else x

/-- The main tap of a host transmitter in 1/64 (R184). -/
def State.hostMain (s : State) (h : Nat) : Nat :=
  64 - (tapSize (s.get (R.HSD_TX_EQ_PRE2 h)) + tapSize (s.get (R.HSD_TX_EQ_PRE1 h))
    + tapSize (s.get (R.HSD_TX_EQ_POST1 h)))

/-- The swing of a host transmitter in mVppd (R184). -/
def State.hostSwing (s : State) (h : Nat) : Nat := 600 + 25 * s.get (R.HSD_TX_EQ_SWING h)

/-- The differential output at symbol k in 1/384 mV: the four taps over the levels, a swing of which is from level 0 to
level 3; no swing gives 0 (R184). -/
def State.hostVolt (s : State) (h k : Nat) : Int :=
  let a (i : Nat) : Int := match s.hostLevel h i with
    | some v => 2 * v - 3
    | none => 0
  let tap (f : Nat → Fld) : Int := toInt 6 (s.get (f h))
  (tap R.HSD_TX_EQ_PRE2 * a (k + 2) + tap R.HSD_TX_EQ_PRE1 * a (k + 1) + s.hostMain h * a k
    + (if k = 0 then 0 else tap R.HSD_TX_EQ_POST1 * a (k - 1))) * s.hostSwing h

/-! ### Meanings -/

/-- HOST_LOS_SET (R183). -/
def execHostLosSet (h : HostLane) (amp : Nat) (s : State) : Host.Outcome State Fault Refusal :=
  done (hostLosSetOp h.val amp s)

/-- HOST_LOS_CLEAR (R183). -/
def execHostLosClear (h : HostLane) (amp : Nat) (s : State) : Host.Outcome State Fault Refusal :=
  done (hostLosClearOp h.val amp s)

/-- CDR_LOCK (R183). -/
def execCdrLock (h : HostLane) (freq : Int) (long : Bool) (s : State) : Host.Outcome State Fault Refusal :=
  done (cdrLockOp h.val freq long s)

/-- CDR_LOCK_LOSS (R183). -/
def execCdrLockLoss (h : HostLane) (s : State) : Host.Outcome State Fault Refusal :=
  done (cdrLockLossOp h.val s)

/-- HOST_RX_EQ_DONE (R182). -/
def execHostRxEqDone (h : HostLane) (ctle dfe1 : Nat) (ffe : List Nat)
    (s : State) : Host.Outcome State Fault Refusal :=
  done (hostRxEqDoneOp h.val ctle dfe1 ffe s)

/-- HSD_RX_FREEZE (R182). -/
def execHsdRxFreeze (h : HostLane) (on : Bool) (s : State) : Host.Outcome State Fault Refusal :=
  done (hsdRxFreezeOp h.val on s)

/-- HSD_TX_EQ_WRITE (R184). -/
def execHsdTxEqWrite (h : HostLane) (pre2 pre1 post1 : BitVec 6) (swing : BitVec 4)
    (s : State) : Host.Outcome State Fault Refusal :=
  done (hsdTxEqWriteOp h.val pre2.toNat pre1.toNat post1.toNat swing.toNat s)

/-- HSD_INVERT (R185). -/
def execHsdInvert (h : HostLane) (rx tx : Bool) (s : State) : Host.Outcome State Fault Refusal :=
  done (hsdInvertOp h.val rx tx s)

/-- TRAIN_RESTART (R186). -/
def execTrainRestart (h : HostLane) (s : State) : Host.Outcome State Fault Refusal :=
  done (trainRestartOp h.val s)

/-- TRAIN_REQUEST (R187). -/
def execTrainRequest (h : HostLane) (q : TrainRequest) (s : State) : Host.Outcome State Fault Refusal :=
  done (trainRequestOp h.val q s)

/-- TRAIN_RESPONSE_TIMEOUT (R187). -/
def execTrainResponseTimeout (h : HostLane) (s : State) : Host.Outcome State Fault Refusal :=
  done (trainResponseTimeoutOp h.val s)

/-- TRAIN_TIMEOUT (R187). -/
def execTrainTimeout (h : HostLane) (s : State) : Host.Outcome State Fault Refusal :=
  done (trainTimeoutOp h.val s)

/-- TRAIN_DONE (R187). -/
def execTrainDone (h : HostLane) (s : State) : Host.Outcome State Fault Refusal :=
  done (trainDoneOp h.val s)

/-- AM_PERIOD (R188). -/
def execAmPeriod (l : Lane) (p : MarkerPeriod) (s : State) : Host.Outcome State Fault Refusal :=
  done (amPeriodOp l.val p s)

/-- PORT_W_WRITE (R181). -/
def execPortWWrite (l : Lane) (w : BitVec 3) (s : State) : Host.Outcome State Fault Refusal :=
  done (portWWriteOp l.val w.toNat s)

/-- TX_CLOCK_SLEW_DONE (R195). -/
def execTxClockSlewDone (l : Lane) (s : State) : Host.Outcome State Fault Refusal :=
  done (txClockSlewDoneOp l.val s)

/-- PRBS_GEN_SELECT (R202). -/
def execPrbsGenSelect (h : HostLane) (g : BitVec 2) (s : State) : Host.Outcome State Fault Refusal :=
  done (prbsGenSelectOp h.val g.toNat s)

/-- PRBS_CHK_SELECT (R202). -/
def execPrbsChkSelect (h : HostLane) (c : BitVec 2) (s : State) : Host.Outcome State Fault Refusal :=
  done (prbsChkSelectOp h.val c.toNat s)

/-- PRBS_LOCK (R203). -/
def execPrbsLock (h : HostLane) (s : State) : Host.Outcome State Fault Refusal :=
  done (prbsLockOp h.val s)

/-- PRBS_LOSS (R203). -/
def execPrbsLoss (h : HostLane) (compared errors : Nat) (s : State) : Host.Outcome State Fault Refusal :=
  done (prbsLossOp h.val compared errors s)

/-- PRBS_CLR (R203). -/
def execPrbsClr (h : HostLane) (s : State) : Host.Outcome State Fault Refusal :=
  done (prbsClrOp h.val s)

/-- TRAINING_ANSWER (R187). -/
def execTrainingAnswer (h : HostLane) (s : State) : Host.Outcome State Fault Refusal :=
  done (trainingAnswerOp h.val s)

/-- REALIGN_DONE (R23). -/
def execRealignDone (l : Lane) (s : State) : Host.Outcome State Fault Refusal :=
  done (realignDoneOp l.val s)

end Sys2Proof.Machine
end

