-- ==== Sys2Proof/Machine/Capture.lean ====
section
/-!
DEFINITION. The capture engines: arming, triggers, the record's layout, fills and pre-emption (R109 to R116, R442).
-/

namespace Sys2Proof.Machine

open Sys2Proof

/-- The CAP block of sheaf c. -/
def capBlk (c : Nat) : Blk := ⟨.cap, c⟩

/-- The first address of the capture memory of sheaf c, and its size (R109, R334). -/
def capBase (c : Nat) : Nat := 0x0C000000 + c * 0x00800000

def capSize : Nat := 0x00800000

/-- CAP_CFG.LANE_MASK as a list. -/
def capMask (s : State) (c : Nat) : List Bool := (List.range 4).map fun k => s.getB (R.CAP_CFG_LANE_MASK c k)

/-- The size of a region for a mask: the memory over the next power of two (R110). -/
def regionSize (mask : List Bool) : Nat :=
  let n := (mask.filter id).length
  capSize / (if n ≤ 1 then 1 else if n = 2 then 2 else 4)

/-- Whether a command of a state is accepted: ARM and FILL in IDLE, DONE, PREEMPTED and ABORTED (R113). -/
def capFree (code : Nat) : Bool := code == 0 || code == 3 || code == 4 || code == 5

/-- Whether writing waits for the background-operation pause (R442). -/
def capWaits (s : State) (c : Nat) : Bool :=
  s.bgPause && (s.cap c).pause

/-- The claim is free or held by the requester (R114). -/
def capMine (s : State) (c : Nat) (req : Requester) : Bool :=
  s.get (R.CLAIM_OWNER (capBlk c)) == 0 || s.get (R.CLAIM_OWNER (capBlk c)) == Requester.code req

/-- ARM or FILL is refused to a requester that does not hold the claim, in the wrong state, and outside ACTIVE, where no
capture starts (R113, R114, R365; log entry 238). -/
def capRequest (c : Nat) (req : Requester) (s : State) (go : State → State) : State :=
  if !capMine s c req then s.claimRefused (capBlk c) 0x048 req
  else if !capFree (s.get (R.CAP_STAT_STATE c)) || s.power != 0 then s.conflict (capBlk c)
  else go (s.set (R.CLAIM_OWNER (capBlk c)) (Requester.code req))

/-- CAP_ARM: the rings start; with IMMEDIATE arming itself is the trigger (R110, R111, R113, R114). -/
def capArmOp (c : Nat) (req : Requester) (s : State) : State :=
  if !(capMask s c).any id && capMine s c req then s.conflict (capBlk c)
  else capRequest c req s fun s =>
    (s.putCap c { s.cap c with
      triggered := s.get (R.CAP_CFG_TRIG c) == 0, waiting := capWaits s c, written := 0, atTrigger := 0
      mask := capMask s c, src := s.get (R.CAP_CFG_SRC c), decim := s.get (R.CAP_DECIM_D c)
      shapes := (List.range 4).map fun k => [s.rxShape (4 * c + k)] }).set
      (R.CAP_STAT_STATE c) 1

/-- A stretch of capture memory takes new contents: a fill, or a record whose bytes are known as far as `data` goes. -/
def capPatch (c first size : Nat) (fill : Option Nat) (data : List Nat) (s : State) : State :=
  let lo := capBase c + first
  let s := { s with mem := s.mem.filter fun e => !(lo ≤ e.1 && e.1 < lo + size), freeCount := s.freeCount + 1 }
  let x := s.cap c
  s.putCap c { x with patches :=
    { first := first, size := size, fill := fill, data := data, count := s.freeCount } :: x.patches }

/-- The offset in its record of the oldest byte that a region of `size` bytes still holds after `total` (R111, R112). -/
def oldestByte (size total : Nat) : Nat := total - size

/-- A lane's record of `total` bytes in its region at `base`: all of its bytes are written; `bytes` gives those from the
block of the oldest one on, as far as they are known (R109, R111). -/
def capRegion (c base size block total : Nat) (bytes : List Nat) (s : State) : State :=
  let s := capPatch c base (min total size) none [] s
  let old := oldestByte size total
  let kept := (bytes.drop (old % block)).take (total - old)
  if kept.isEmpty then s
  else
    let here := kept.take (size - old % size)
    let rest := kept.drop (size - old % size)
    let s := capPatch c (base + old % size) here.length none here s
    if rest.isEmpty then s else capPatch c base rest.length none rest s

/-- The bytes of lane k's record in the stretches that were taken of it, oldest first: each packed under the values that
were in use over it, the last one under the present ones (R109; log entry 10). -/
def capBytes (s : State) (c k : Nat) (taken : List (List LineSamples)) : List Nat :=
  let x := s.cap c
  (((taken.getD k []).reverse.zip (x.shapes.getD k [])).map fun v => packRecord v.2 x.src x.decim v.1).reverse.flatten

/-- The bytes that each region of a capture in progress has received so far, where the model does not know how many: a
free number, and at least what its trigger found; none while writing waits (R113, R115, R442; log entry 10). -/
def capWritten (s : State) (c : Nat) : Nat :=
  if (s.cap c).waiting then 0 else max (s.cap c).atTrigger (s.free 24)

/-- Each region of the capture in progress holds the record of `total` bytes of its lane (R109, R110). -/
def capRecorded (c total : Nat) (taken : List (List LineSamples)) (s : State) : State :=
  let m := (s.cap c).mask
  let size := regionSize m
  let block := blockBytes (s.cap c).src
  let lanes := (List.range 4).filter fun k => m.getD k false
  (List.zipIdx lanes).foldl (fun t v => capRegion c (v.2 * size) size block total (capBytes s c v.1 taken) t) s

/-- The background-operation pause of the sheaf starts when a capture or a fill ends (R442). -/
def capEnded (c : Nat) (s : State) : State := s.putCap c { s.cap c with pause := true, waiting := false }

/-- CAP_ABORT: `written` bytes of each region were written so far (R113); CAP_END, CAP_OLDEST and
CAP_SF_POS_k keep what the last finished capture left (DESIGN CHOICE, log entry 254). -/
def capAbortOp (c written : Nat) (taken : List (List LineSamples)) (s : State) : State :=
  let code := s.get (R.CAP_STAT_STATE c)
  if code = 1 || code = 2 then
    let bytes := if (s.cap c).waiting then 0 else max (s.cap c).atTrigger written
    capEnded c (capRecorded c bytes taken (s.set (R.CAP_STAT_STATE c) 5))
  else s.conflict (capBlk c)

/-- CAP_FILL (R113). -/
def capFillOp (c : Nat) (req : Requester) (s : State) : State :=
  capRequest c req s fun s =>
    (s.putCap c { s.cap c with waiting := capWaits s c, pattern := s.get (R.CAP_FILL_PAT_PAT c) }).set
      (R.CAP_STAT_STATE c) 6

/-- CAP_FILL_DONE: the whole memory holds the pattern (R113). -/
def capFillDoneOp (c : Nat) (s : State) : State :=
  if s.get (R.CAP_STAT_STATE c) = 6 && !(s.cap c).waiting then
    let pat := (s.cap c).pattern
    let s := s.putCap c { s.cap c with patches := [] }
    (capEnded c (capPatch c 0 capSize (some pat) [] (s.set (R.CAP_STAT_STATE c) 0))).irq (capBlk c) 3
  else s

/-- CAP_TRIGGER: the armed capture has seen its trigger after `written` bytes of each region (R111, R112). -/
def capTriggerOp (c written : Nat) (s : State) : State :=
  let x := s.cap c
  if s.get (R.CAP_STAT_STATE c) = 1 && x.triggered && !x.waiting then
    let w := if s.get (R.CAP_CFG_TRIG c) = 0 then 0 else written
    let size := regionSize x.mask
    let s := s.putCap c { x with written := w, atTrigger := w }
    let s := (s.set (R.CAP_STAT_STATE c) 2).set (R.CAP_TRIG_POS_OFFSET c) (w % size)
    let s := (s.setB (R.CAP_STAT_WRAPPED c) (size ≤ w)).set (R.CAP_TRIG_TIME_TIME c) (reportedTime s.now false)
    s.irq (capBlk c) 0
  else s

/-- Where the oldest symbol of a lane's record stands: position, frame, whether the lane had scrambler lock, and the
superframe count (R112). -/
def capPosPut (c k : Nat) (p : Nat × Nat × Bool × Nat) (s : State) : State :=
  let s := (s.set (R.CAP_SF_POS_POSITION c k) p.1).set (R.CAP_SF_POS_FRAME c k) p.2.1
  (s.setB (R.CAP_SF_POS_VALID c k) p.2.2.1).set (R.CAP_SF_POS_SFC c k) p.2.2.2

/-- CAP_DONE: the post-trigger share is written, and the layout is reported; `pos` gives each lane's oldest symbol
(R111, R112). A record that fills its region without wrapping ends at the region's end; one that wraps only after its
trigger has WRAPPED = 0 beside an OLDEST that is not 0 (DESIGN CHOICE, log entry 253). -/
def capDoneOp (c : Nat) (pos : List (Nat × Nat × Bool × Nat)) (taken : List (List LineSamples)) (s : State) : State :=
  if s.get (R.CAP_STAT_STATE c) = 2 then
    let x := s.cap c
    let size := regionSize x.mask
    let pre := if s.get (R.CAP_CFG_TRIG c) = 0 then 0 else s.get (R.CAP_CFG_PRE c)
    let total := x.atTrigger + (256 - pre) * size / 256
    let s := (s.set (R.CAP_STAT_STATE c) 3).set (R.CAP_END_OFFSET c)
      (if total = size then size else total % size)
    let s := s.set (R.CAP_OLDEST_OFFSET c) (if size < total then total % size else 0)
    let s := (List.range 4).foldl (fun s k =>
      if x.mask.getD k false then capPosPut c k (pos.getD k (0, 0, false, 0)) s else s) s
    (capEnded c (capRecorded c total taken s)).irq (capBlk c) 1
  else s

/-- Alarm k fires at the captures that wait for it (R111). -/
def capAlarm (k : Nat) (s : State) : State :=
  [0, 1].foldl (fun s c =>
    if s.get (R.CAP_STAT_STATE c) == 1 && s.get (R.CAP_CFG_TRIG c) == 3 && s.get (R.CAP_CFG_ALARM c) == k then
      s.putCap c { s.cap c with triggered := true }
    else s) s

/-- A capture or a fill in progress is cut off: what it has written so far stays written. How much that is follows from
the time since it began, which the model does not hold, so it is a free value, and at least what a trigger found (R115,
R116); a fill writes from offset 0 upward (DESIGN CHOICE, log entry 255). -/
def capCut (c : Nat) (s : State) : State :=
  let code := s.get (R.CAP_STAT_STATE c)
  if (s.cap c).waiting then s
  else if code = 1 || code = 2 then
    capRecorded c (capWritten s c) [] s.draw
  else if code = 6 then capPatch c 0 (s.free 23) (some (s.cap c).pattern) [] s.draw
  else s

/-- A commit may use the capture memory: what was written stays written, with contents that are undefined (R115). -/
def capScramble (c : Nat) (s : State) : State :=
  let mine (e : Host.Cell) : Bool := capBase c ≤ e.1 && e.1 < capBase c + capSize
  let s := { s with freeCount := s.freeCount + 1 }
  let old := (s.cap c).patches.map fun p => { p with fill := none, data := [], count := s.freeCount }
  let cells := (s.mem.filter mine).map fun e =>
    ({ first := e.1 - capBase c, size := 1, fill := none, data := [], count := s.freeCount } : CapPatch)
  { s with mem := s.mem.filter fun e => !mine e }.putCap c { s.cap c with patches := cells ++ old }

/-- A Stub commit pre-empts every active capture (R115). -/
def capPreempt (s : State) : State :=
  [0, 1].foldl (fun s c =>
    let code := s.get (R.CAP_STAT_STATE c)
    if code == 1 || code == 2 || code == 6 then
      (capEnded c ((capScramble c (capCut c s)).set (R.CAP_STAT_STATE c) 4)).irq (capBlk c) 2
    else s) s

/-- The capture memory loses its power: nothing in it is written, and the engine is idle (R116). -/
def capPowerLoss (c : Nat) (s : State) : State :=
  let s := { s with mem := s.mem.filter fun e => !(capBase c ≤ e.1 && e.1 < capBase c + capSize) }
  (s.putCap c CapInt.reset).set (R.CAP_STAT_STATE c) 0

/-! ### Meanings -/

/-- CAP_ARM (R113). -/
def execCapArm (sh : Sheaf) (req : Requester) (s : State) : Host.Outcome State Fault Refusal :=
  done (capArmOp sh.val req s)

/-- CAP_ABORT (R113). -/
def execCapAbort (sh : Sheaf) (written : Nat) (taken : List (List LineSamples))
    (s : State) : Host.Outcome State Fault Refusal :=
  done (capAbortOp sh.val written taken s)

/-- CAP_FILL (R113). -/
def execCapFill (sh : Sheaf) (req : Requester) (s : State) : Host.Outcome State Fault Refusal :=
  done (capFillOp sh.val req s)

/-- CAP_FILL_DONE (R113). -/
def execCapFillDone (sh : Sheaf) (s : State) : Host.Outcome State Fault Refusal :=
  done (capFillDoneOp sh.val s)

/-- CAP_TRIGGER (R111). -/
def execCapTrigger (sh : Sheaf) (written : Nat) (s : State) : Host.Outcome State Fault Refusal :=
  done (capTriggerOp sh.val written s)

/-- CAP_DONE (R111). -/
def execCapDone (sh : Sheaf) (pos : List (Nat × Nat × Bool × Nat)) (taken : List (List LineSamples))
    (s : State) : Host.Outcome State Fault Refusal :=
  done (capDoneOp sh.val pos taken s)

end Sys2Proof.Machine
end

