-- ==== Sys2Proof/Machine/Memory.lean ====
section
/-!
DEFINITION. The memories that the ports address: scratch, capture memory and Granary, their error-correcting code as
far as a read or a write shows it, and Granary writes (R334, R410 to R418, R425 to R428, R432).
-/

namespace Sys2Proof.Machine

open Sys2Proof

/-! ### Bytes -/

/-- The first addresses and sizes of scratch and of Granary (R334). -/
def scratchBase : Nat := 0x08000000
def scratchSize : Nat := 0x00100000
def granaryBase : Nat := 0x10000000
def granarySize : Nat := 0x00800000

/-- Whether an address lies in capture memory; its sheaf and offset follow. -/
def inCapture (a : Nat) : Bool := 0x0C000000 ≤ a && a < 0x0D000000
def capOf (a : Nat) : Nat := (a - 0x0C000000) / capSize
def capOff (a : Nat) : Nat := (a - 0x0C000000) % capSize

/-- The newest stretch of capture memory that covers an address. -/
def State.patchAt (s : State) (a : Nat) : Option CapPatch :=
  (s.cap (capOf a)).patches.find? fun p => p.first ≤ capOff a && capOff a < p.first + p.size

/-- Whether an address lies in the repair records, which DECOMMISSION does not erase (R426, R483). -/
def inRepairs (a : Nat) : Bool := granaryBase + 0x6D1000 ≤ a && a < granaryBase + 0x6D5000

/-- What a byte that the memory does not list holds: 0 in scratch, which is cleared; in Granary the byte with which
the part was delivered, or what erasing left, of which the model knows nothing, and 0 in its reserved area; in capture
memory the recorded byte or the pattern of a fill, else nothing that the model knows (R109, R113, R416, R417, R425).
-/
def memDefault (s : State) (a : Nat) : Option Nat :=
  if inCapture a then
    match s.patchAt a with
    | some p => match p.data[capOff a - p.first]? with
      | some b => some (b % 256)
      | none => p.fill.map fun v => bits v (8 * (a % 4)) 8
    | none => none
  else if granaryBase ≤ a && a < granaryBase + granarySize then
    if granaryBase + 0x6D6100 ≤ a && a < granaryBase + 0x6E0000 then some 0
    else some (if s.fuses.life = 4 && !inRepairs a then Config.freeByte 4 (a - granaryBase) 0
      else Config.granaryByte (a - granaryBase)).toNat
  else some 0

/-- The byte listed at an address. -/
def cellGet : List Host.Cell → Nat → Option (BitVec 8)
  | [], _ => none
  | (k, v) :: m, a => if a = k then some v else cellGet m a

/-- The list with a byte at an address. -/
def cellPut : List Host.Cell → Nat → BitVec 8 → List Host.Cell
  | [], k, v => [(k, v)]
  | (a, b) :: m, k, v =>
    if k < a then (k, v) :: (a, b) :: m else if k = a then (k, v) :: m else (a, b) :: cellPut m k v

/-- The list without an address. -/
def cellDel (m : List Host.Cell) (k : Nat) : List Host.Cell := m.filter fun e => e.1 != k

/-- The addresses of a list strictly rise. -/
def cellSorted : List Host.Cell → Bool
  | [] => true
  | [_] => true
  | (a, _) :: (b, w) :: m => decide (a < b) && cellSorted ((b, w) :: m)

/-- The byte at an address: listed, or what an unlisted one holds, or undefined (R417). -/
def State.byteAt (s : State) (a : Nat) : Nat :=
  match cellGet s.mem a with
  | some v => v.toNat
  | none => match memDefault s a with
    | some d => d
    | none => match s.patchAt a with
      | some p => (Config.freeByte (capOf a) (capOff a) p.count).toNat
      | none => (Config.freeByte (2 + capOf a) (capOff a) s.freeCount).toNat

/-- The memory's canonical form: addresses strictly rise, and no entry equals what an unlisted address holds. -/
def Memory.wf (s : State) : Bool :=
  cellSorted s.mem && s.mem.all fun e => memDefault s e.1 != some e.2.toNat

/-- A byte is written. -/
def State.putByte (s : State) (a v : Nat) : State :=
  { s with mem := if memDefault s a = some (v % 256) then cellDel s.mem a else cellPut s.mem a (BitVec.ofNat 8 v) }

/-- The 32-bit word at an address (R3). -/
def State.memWord (s : State) (a : Nat) : Nat := ofBytesLE ((List.range 4).map fun i => s.byteAt (a + i))

/-- A 32-bit word is written. -/
def State.putMemWord (s : State) (a v : Nat) : State :=
  (List.range 4).foldl (fun s i => s.putByte (a + i) (bits v (8 * i) 8)) s

/-- `n` bytes from an address on. -/
def State.bytesAt (s : State) (a n : Nat) : List Nat := (List.range n).map fun i => s.byteAt (a + i)

/-- The cells of a stretch of bytes, those at what an unlisted byte holds left out. -/
def cellsOf (d : Nat → Option Nat) : Nat → List Nat → List Host.Cell
  | _, [] => []
  | a, b :: bs =>
    if d a = some (b % 256) then cellsOf d (a + 1) bs else (a, BitVec.ofNat 8 b) :: cellsOf d (a + 1) bs

/-- A stretch of scratch or Granary is written as a whole. -/
def State.putBytes (s : State) (a : Nat) (bs : List Nat) : State :=
  { s with mem := s.mem.filter (fun e => decide (e.1 < a)) ++ cellsOf (memDefault s) a bs
                    ++ s.mem.filter (fun e => decide (a + bs.length ≤ e.1)) }

/-- A stretch of scratch is cleared (R416). -/
def State.clearBytes (s : State) (a n : Nat) : State :=
  { s with mem := s.mem.filter fun e => !(a ≤ e.1 && e.1 < a + n) }

/-- The 64-bit word of Granary at an address, and its writing (R425). -/
def State.word64 (s : State) (a : Nat) : Nat := ofBytesLE (s.bytesAt a 8)

def State.putWord64 (s : State) (a v : Nat) : State :=
  (List.range 8).foldl (fun s i => s.putByte (a + i) (bits v (8 * i) 8)) s

/-! ### Errors -/

/-- The class of the stored error of a word by its key: 0 clean, 1 correctable, 2 uncorrectable, 3 an address fault
(R411). -/
def State.classAt (s : State) (k : Nat) : Nat := (natGet s.store.ecc k).getD 0

/-- The stored error of a word changes. -/
def State.putClass (s : State) (k c : Nat) : State := { s with store := { s.store with ecc := natSet s.store.ecc k c 0 } }

/-- The class and the change of it for the word at a byte address. -/
def State.eccAt (s : State) (a : Nat) : Nat := s.classAt (a / 8)

def State.putEcc (s : State) (a c : Nat) : State := s.putClass (a / 8) c

/-- The words of a memory, its spare rows, and the spare rows' place after its own (R410). -/
def memWords (memid : Nat) : Nat :=
  if memid < 4 then 0x8000 else if memid = 0x10 then 0x10000 else if memid = 0x11 then 0x8000
  else if memid = 0x12 then 0x2000 else if memid < 0x40 then 0x100000 else 0x5000

def spareRows (memid : Nat) : Nat :=
  if memid < 4 then 8 else if memid = 0x12 then 4 else if memid ≤ 0x11 then 8 else if memid < 0x40 then 16 else 2

/-- The key of a memory's word: that of its byte address, or one above all addresses for a memory that no port
addresses (R410). -/
def wordKey (memid word : Nat) : Nat :=
  if memid < 4 then (scratchBase + 0x40000 * memid) / 8 + word
  else if 0x20 ≤ memid && memid < 0x22 then (0x0C000000 + capSize * (memid - 0x20)) / 8 + word
  else 2 ^ 32 + 2 ^ 20 * memid + word

/-- A memory's words from `n` on to `m`, exclusive, have fresh check bits (R411). -/
def eccFresh (memid n m : Nat) (s : State) : State :=
  { s with store := { s.store with
    ecc := s.store.ecc.filter fun e => !(wordKey memid n ≤ e.1 && e.1 < wordKey memid m) } }

/-- The MEMID of an address of scratch or capture memory (R410). -/
def memIdOf (a : Nat) : Nat := if inCapture a then 0x20 + capOf a else (a - scratchBase) / 0x40000

/-- The word address of a byte address within its memory (R410). -/
def memWordOf (a : Nat) : Nat := if inCapture a then capOff a / 8 else (a - scratchBase) % 0x40000 / 8

/-- Whether the 64-bit word of capture memory at an address has been written: any of its bytes listed or covered
(R417). -/
def State.wordWritten (s : State) (a : Nat) : Bool :=
  !inCapture a || (List.range 8).any fun i =>
    (cellGet s.mem (a / 8 * 8 + i)).isSome || (s.patchAt (a / 8 * 8 + i)).isSome

/-- Whether the next read of an unwritten capture word is answered ERR_ECC, which the spec leaves open (R417). -/
def State.unwrittenFails (s : State) : Bool := s.free 1 == 1

/-- A correctable read: counted, raised, and written back but for capture memory (R412). -/
def eccCorrect (a : Nat) (s : State) : State :=
  let s := ((s.satInc R.MEM_ECC_CE_CNT_COUNT 1).setB R.MEM_ECC_STAT_CE_SEEN true).irq (dev .mem) 0
  if inCapture a then s else s.putEcc a 0

/-! ### Granary writes -/

/-- The job of the highest priority, the oldest among equals (R427). -/
def topJob : List NvsJob → Option NvsJob
  | [] => none
  | j :: js => match topJob js with
    | none => some j
    | some k => if k.writer < j.writer then some k else some j

/-- The word that a job writes next, by its kind (R258, R262, R426; log entry 245). -/
def State.jobWord (s : State) (j : NvsJob) : Nat :=
  match j.kind with
  | .plain => j.data
  | .clear => s.word64 (granaryBase + j.addr) % 2 ^ 63
  | .record _ | .part => s.free 64

/-- Whether the words of a job hold an area's word that has yet to lose its VALID (R258). -/
def NvsJob.clears (a : Nat) (j : NvsJob) : Bool :=
  j.kind == .clear && granaryBase + j.addr ≤ a && a < granaryBase + j.addr + 8 * j.left

/-- Whether VALID of the word at an address is about to be cleared (R258, R262). -/
def State.clearing (s : State) (a : Nat) : Bool := s.store.slot.any (·.clears a) || s.store.jobs.any (·.clears a)

/-- The next word slot is taken: by a Stub commit in progress, else by the job of the highest priority (R427). -/
def nvsNext (s : State) : State :=
  match (if s.stub.commit.isSome then none else topJob s.store.jobs) with
  | none => { s with store := { s.store with slot := none } }
  | some j => { s with store := { s.store with slot := some j, jobs := s.store.jobs.erase j } }

/-- A free word slot is taken. -/
def nvsGo (s : State) : State := if s.store.slot.isSome then s else nvsNext s

/-- A job enters the competition for Granary (R427). -/
def nvsJobPut (j : NvsJob) (s : State) : State :=
  nvsGo { s with store := { s.store with jobs := s.store.jobs ++ [j] } }

/-- A writer's words enter the competition (R427). -/
def nvsPut (writer addr data left : Nat) (s : State) : State :=
  nvsJobPut { writer := writer, addr := addr, data := data, left := left, kind := .plain } s

/-- VALID of `left` words is to be cleared, at the priority of TIM (R258, R262, R427). -/
def nvsClear (addr left : Nat) (s : State) : State :=
  nvsJobPut { writer := 3, addr := addr, data := 0, left := left, kind := .clear } s

/-- Whether a job writes a record of the same area as another (R427). -/
def GranaryRecord.sameArea : GranaryRecord → GranaryRecord → Bool
  | .repairs _, .repairs _ => true
  | .boot _, .boot _ => true
  | .epoch _, .epoch _ => true
  | .trims _, .trims _ => true
  | .store _, .store _ => true
  | _, _ => false

def NvsJob.sameRecord (r : GranaryRecord) (j : NvsJob) : Bool :=
  match j.kind with
  | .record q => q.sameArea r
  | _ => false

/-- A record is to be written, in place of one of its area that is still being written (R427; log entry 245). -/
def recordPut (writer addr left : Nat) (r : GranaryRecord) (s : State) : State :=
  let s := { s with store := { s.store with
    slot := s.store.slot.map fun j => if j.sameRecord r then { j with left := 1, kind := .part } else j
    jobs := s.store.jobs.filter fun j => !j.sameRecord r } }
  nvsJobPut { writer := writer, addr := addr, data := 0, left := left, kind := .record r } s

/-- The repair records change: those from index `n` on are written, `left` words, as far as the area takes them (R423,
R426, R431). -/
def repairsPut (rs : List Repair) (n left : Nat) (s : State) : State :=
  recordPut 5 (0x6D1000 + 8 * n) left (.repairs (rs.take 2048)) { s with store := { s.store with repairs := rs } }

/-- No further record is stored: a repair acts for this power-on only (R424). -/
def repairsFull (rs : List Repair) (s : State) : State :=
  ({ s with store := { s.store with repairs := rs } }.setB R.MEM_REPAIR_STAT_FULL true).irq (dev .mem) 3

/-- A repair record is appended, or REPAIR_FULL raised (R423, R424, R431). -/
def repairRecord (r : Repair) (s : State) : State :=
  let rs := s.store.repairs
  if rs.length < 2048 then repairsPut (rs ++ [r]) rs.length 1 s else repairsFull (rs ++ [r]) s

/-- The retirement of slice 5s + k is stored (R431). -/
def retireStore (n : Nat) (s : State) : State :=
  if s.store.repairs.contains (.slice n) then s else repairRecord (.slice n) s

/-- The boot record is written to the older of its two copies (R426, R427, R432). -/
def bootPut (b : BootRecord) (s : State) : State :=
  recordPut 5 0x6D0000 256 (.boot b) { s with store := { s.store with boot := b } }

/-- What SEC holds of the security store is written to its older copy, with the next sequence number (R427, R463). -/
def storePut (s : State) : State :=
  let k := s.store.kept
  recordPut 2 (0x6C0000 + 0x8000 * (1 - k.storeCopy)) 0x1000
    (.store { seq := k.store.seq + 1, fwSvn := s.fuses.fwSvn, profileSvn := s.fuses.profileSvn, chain1 := s.fuses.chain1 })
    s

/-- SEC takes what Granary holds of the security store (R463). -/
def storeTake (s : State) : Fuses :=
  let x := s.store.kept.store
  { s.fuses with fwSvn := x.fwSvn, profileSvn := x.profileSvn, chain1 := x.chain1 }

/-- A record is whole in Granary: it is what a later start-up finds; MEM_REPAIR_STAT tells of the repair records stored
(R424, R427, R432). -/
def recordDone (r : GranaryRecord) (s : State) : State :=
  let kept := s.store.kept
  match r with
  | .repairs rs =>
    let s := { s with store := { s.store with kept := { kept with repairs := rs } } }
    (s.set R.MEM_REPAIR_STAT_RECORDS rs.length).setB R.MEM_REPAIR_STAT_FULL (2048 ≤ rs.length)
  | .boot b => { s with store := { s.store with kept := { kept with boot := b } } }
  | .epoch e => { s with store := { s.store with kept := { kept with epoch := e } } }
  | .store x => { s with store := { s.store with kept := { kept with store := x, storeCopy := 1 - kept.storeCopy } } }
  | .trims vs => { s with calDev := { s.calDev with saved := some vs, copy := 1 - s.calDev.copy } }

/-- NVS_STAT.WRITER: the writer that holds the word slot (R427). -/
def State.nvsWriter (s : State) : Nat :=
  match s.store.slot with
  | some j => j.writer
  | none => if s.stub.commit.isSome then 1 else 0

/-- Whether words of a writer are still to be written. -/
def State.nvsHas (s : State) (writer : Nat) : Bool :=
  s.store.slot.any (·.writer == writer) || s.store.jobs.any (·.writer == writer)

/-- Whether a job writes words of a mailbox command. -/
def NvsJob.command (j : NvsJob) : Bool := j.writer == 5 && j.kind == .plain

/-- Whether words of mailbox commands are still to be written. -/
def State.nvsCommands (s : State) : Bool := s.store.slot.any (·.command) || s.store.jobs.any (·.command)

/-- The words of mailbox commands leave the competition, but for a word whose write has started (R355, R427). -/
def nvsDropFwc (s : State) : State :=
  { s with store := { s.store with
    slot := s.store.slot.map fun j => if j.command then { j with left := 1 } else j
    jobs := s.store.jobs.filter fun j => !j.command } }

/-- The word in the slot is written; the last one of a record makes it whole (R427). -/
def nvsStore (s : State) : State :=
  match s.store.slot with
  | some j =>
    let t := ((s.putWord64 (granaryBase + j.addr) (s.jobWord j)).putEcc (granaryBase + j.addr) 0).draw
    match j.kind with
    | .record r => if j.left ≤ 1 then recordDone r t else t
    | _ => t
  | none => s

/-- What is left of a job after a word of it. -/
def jobRest (j : NvsJob) (s : State) : State :=
  if 1 < j.left then
    nvsNext { s with store := { s.store with
      jobs := { j with addr := j.addr + 8, left := j.left - 1 } :: s.store.jobs } }
  else nvsNext s

/-- A port command ends: its state and error, and CMD_DONE (R428). -/
def nvsCmdEnd (state err : Nat) (s : State) : State :=
  ((s.set R.NVS_CMD_STAT_STATE state).set R.NVS_CMD_STAT_ERR err).irq (dev .nvs) 0

/-- The second read-back of a word at a byte offset of Granary differs (R427, R449). -/
def nvsFail (off : Nat) (s : State) : State :=
  ((s.satInc R.NVS_ERR_CNT_VERIFY_FAIL 1).irq (dev .nvs) 1).event (dev .nvs) 0 7 (0xFF + 256 * (off / 8 % 2 ^ 20))

/-- NVS_WORD_DONE: the word in progress is written, or its verification has failed twice: its writer's other words are
dropped, but for those whose VALID is to be cleared (R427, R428; log entry 245). -/
def nvsWordDoneOp (ok : Bool) (s : State) : State :=
  match s.store.slot with
  | none =>
    match s.stub.commit with
    | none => s
    | some c => if ok then s.count (dev .nvs) 0x40 1 else nvsFail (0x300000 + 0x50000 * c.slot) s
  | some j =>
    if !ok then
      let s := nvsFail j.addr s
      let s := if j.kind = .clear then jobRest j s else nvsNext s
      let s := if j.command then { s with mbx := { s.mbx with fail := true } } else s
      if j.writer = 6 then nvsCmdEnd 3 2 s else s
    else
      let s := jobRest j ((nvsStore s).count (dev .nvs) 0x40 1)
      if j.writer = 6 && j.left ≤ 1 then nvsCmdEnd 2 0 s else s

/-- A port command of `count` words: refused while one runs, or when it leaves the spare area (R428). -/
def nvsCommand (count : Nat) (s : State) : State :=
  let off := 8 * s.get R.NVS_CMD_ADDR_OFFSET
  if s.get R.NVS_CMD_STAT_STATE = 1 then s.conflict (dev .nvs)
  else if off < 0x6E0000 || granarySize < off + 8 * count then
    (s.set R.NVS_CMD_STAT_STATE 3).set R.NVS_CMD_STAT_ERR 1
  else
    nvsPut 6 off (s.get R.NVS_CMD_DATA_DATA) count ((s.set R.NVS_CMD_STAT_STATE 1).set R.NVS_CMD_STAT_ERR 0)

/-- NVS_CMD_WRITE: one word (R428). -/
def nvsCmdWriteOp (s : State) : State := nvsCommand 1 s

/-- NVS_CMD_FILL: COUNT + 1 words of one value (R428). -/
def nvsCmdFillOp (count : Nat) (s : State) : State := nvsCommand (count + 1) s

/-! ### Meanings -/

/-- NVS_WORD_DONE (R427). -/
def execNvsWordDone (ok : Bool) (s : State) : Host.Outcome State Fault Refusal :=
  done (nvsWordDoneOp ok s)

/-- NVS_CMD_WRITE (R428). -/
def execNvsCmdWrite (s : State) : Host.Outcome State Fault Refusal :=
  done (nvsCmdWriteOp s)

/-- NVS_CMD_FILL (R428). -/
def execNvsCmdFill (count : BitVec 16) (s : State) : Host.Outcome State Fault Refusal :=
  done (nvsCmdFillOp count.toNat s)

end Sys2Proof.Machine
end

