-- ==== Sys2Proof/Machine/Lanes.lean ====
section
/-!
DEFINITION. The commands of a line lane as a whole: enable, start and stop, rate, mode, ASSIST, DIM, slices,
converters, the change to CANDLE and FULL, and the sheaf PLLs (R11 to R14, R22 to R34, R105, R221, R507).
-/

namespace Sys2Proof.Machine

open Sys2Proof

/-- LANE_ENABLE: EN is set, and SF with it in FAULT; while the lane stops the request is recorded (R25, R27, R32, R143,
R381). -/
def laneEnableOp (l : Nat) (s : State) : State :=
  let s := s.setB (laneFld R.SHF_LANE_CFG_EN l) true
  let p := s.lp l
  let s := if p.stopping || p.stopAfter then s.putLp l { p with startAfter := true } else s
  autoRaise (considerStart l (sdSf l false s))

/-- LANE_DISABLE: the lane goes to OFF, but for a FAULT that a hold keeps (R27, R29, R32). -/
def laneDisableOp (l : Nat) (s : State) : State :=
  let s := s.setB (laneFld R.SHF_LANE_CFG_EN l) false
  let s := s.setB (laneFld R.SHF_LANE_STATE_PL_WAIT l) false
  let s := s.putLp l { s.lp l with startAfter := false }
  if s.laneCode l = 6 && s.get (laneFld R.SHF_LANE_FAULT_CAUSE l) < 3 then s else toOff l s

/-- LANE_START: an enabled lane leaves OFF (R27, R32, R507). -/
def laneStartOp (l : Nat) (s : State) : State := if s.canStart l then startLane l s else s

/-- LANE_START_DONE: both converters are ready, and a stop recorded meanwhile begins (R32, R80, R151). -/
def laneStartDoneOp (l : Nat) (s : State) : State :=
  let p := s.lp l
  if p.starting then
    let s := if s.laneUp l then
      let s := memoriesUse (0x40 + 8 * (l / 4) + s.slice l) s
      ((s.setB (R.LRX_STAT_ADC_READY l) true).setB (R.LTX_STAT_READY l) true).irq ⟨.ltx, l⟩ 1 else s
    s.putLp l { p with starting := false, stopping := p.stopAfter, stopAfter := false }
  else s

/-- LANE_STOP_DONE: the stop is complete, the lane's domain has counted its cycles, and a start recorded meanwhile begins
(R32, R445). -/
def laneStopDoneOp (l : Nat) (s : State) : State :=
  let p := s.lp l
  if p.stopping then
    let s := clockCounts (fun b => b.domain == .lane l) s
    let s := considerStart l (s.putLp l { p with stopping := false, startAfter := false })
    if p.startAfter && s.canStart l then startLane l s else s
  else s

/-- RATE_CHANGE: the lane acquires afresh and its transmitter passes through a hold, or the lane goes to OFF where the
level is too low (R22, R25, R152). -/
def rateChangeOp (l : Nat) (half : Bool) (s : State) : State :=
  if s.rate l = b2n half then s
  else
    let s := cfgRefresh (s.setB (laneFld R.SHF_LANE_CFG_RATE l) half)
    if !s.laneEn l then s
    else if s.laneUp l then
      if s.levelOk l then
        let t := s.tx l
        let s := if t.running && t.hold == .none then s.putTx l { t with hold := .ratePending } else s
        enterState l 1 0 true s
      else autoRaise ((toOff l s).setB (laneFld R.SHF_LANE_STATE_PL_WAIT l) true)
    else autoRaise (considerStart l s)

/-- MODE_CHANGE: an enabled lane acquires afresh; the reserved code is refused (R22, R33). -/
def modeChangeOp (l mode : Nat) (s : State) : State :=
  if mode = 3 then s.conflict (shfOf l)
  else if s.mode l = mode then s
  else
    let s := s.set (laneFld R.SHF_LANE_CFG_MODE l) mode
    if s.laneEn l && s.laneUp l then enterState l 1 0 true s else s

/-- ASSIST_CHANGE: stored; a lane that runs applies it at the next superframe boundary (R23). -/
def assistChangeOp (l : Nat) (on : Bool) (s : State) : State :=
  let s := s.setB (laneFld R.SHF_LANE_CFG_ASSIST l) on
  if s.laneEn l && s.laneUp l then s.putRx l { s.rx l with assistPending := (s.rx l).assist != on } else s

/-- ASSIST_REALIGN: GBX applies the setting and re-aligns the host outputs (R23). -/
def assistRealignOp (l : Nat) (s : State) : State :=
  if (s.rx l).assistPending then
    s.putRx l { s.rx l with assist := s.getB (laneFld R.SHF_LANE_CFG_ASSIST l), assistPending := false,
                            realign := true }
  else s

/-- DIM_REQ_SET (R67, R384). -/
def dimReqSetOp (l : Nat) (s : State) : State := s.setB (laneFld R.SHF_LANE_CFG_DIM_REQ l) true

/-- DIM_REQ_CLEAR: the lane requires its RATE level at once (R67, R384, R385). -/
def dimReqClearOp (l : Nat) (s : State) : State :=
  autoRaise (s.setB (laneFld R.SHF_LANE_CFG_DIM_REQ l) false)

/-! ### Slices and converters -/

/-- Whether a slice is free in its sheaf: not retired, and serving no lane; none is where the
sheaf's control logic has failed (R11, R430). -/
def State.sliceFree (s : State) (sh n : Nat) : Bool :=
  !s.failed ⟨.shf, sh⟩ && !s.getB (R.SHF_SLICE_MAP_RETIRED sh n)
    && (List.range 4).all fun k => s.get (R.SHF_SLICE_MAP_LANE_SLICE sh k) != n

/-- A slice is retired or returned, with its source and its Stub event (R34, R431, R449). -/
def slicePut (sh n : Nat) (retired : Bool) (s : State) : State :=
  if s.getB (R.SHF_SLICE_MAP_RETIRED sh n) == retired then s
  else
    let s := s.setB (R.SHF_SLICE_MAP_RETIRED sh n) retired
    let s := if retired then s.irq ⟨.shf, sh⟩ 5 else s
    s.event ⟨.shf, sh⟩ (8 * sh + n) 0x12 (if retired then 1 else 2)

/-- SPARE_USED follows the map (R33). -/
def spareRefresh (sh : Nat) (s : State) : State :=
  s.setB (R.SHF_SLICE_MAP_SPARE_USED sh) ((List.range 4).any fun k => s.get (R.SHF_SLICE_MAP_LANE_SLICE sh k) == 4)

/-- The blocks that a slice carries (R10). -/
def sliceBlocks (l : Nat) : List Blk := [⟨.req, l⟩, ⟨.idec, l⟩, ⟨.gbx, l⟩, ⟨.txp, l⟩, ⟨.lfr, l⟩]

/-- Loop states that an entry to ACQUIRE keeps on a slice, on a new slice: the recovered phase, the runs of clear windows,
the second pass's pause, and the histogram (R13; log entry 264). -/
def sliceStates (l : Nat) (s : State) : State :=
  let s := (List.range 256).foldl (fun s i => s.set (R.REQ_HIST_BIN_COUNT l i) 0) s
  let s := (s.setB (R.REQ_HIST_STAT_BUSY l) false).setB (R.REQ_HIST_STAT_DONE l) false
  s.putRx l { s.rx l with trPhase := 0, sdClear := 0, sfClear := 0, pauseLeft := 0, histLeft := 0, histOffset := 0 }

/-- The performance counters of a slice's blocks start at 0 (R13, R445). -/
def slicePerf (l : Nat) (s : State) : State :=
  (sliceBlocks l).foldl (fun s b => (List.range 8).foldl (fun s c => s.set (R.PMC_CNT_COUNT b c) 0) s) s

/-- The counters of a slice start at 0 (R13). -/
def sliceCounters (l : Nat) (s : State) : State :=
  let s := [R.LFR_PILOT_BAD_COUNT l, R.LFR_SFC_MISS_COUNT l, R.IDEC_CW_COUNT l, R.IDEC_CORR_BITS_COUNT l,
    R.IDEC_UNCORR_COUNT l, R.IDEC_P2_RUN_COUNT l, R.IDEC_P2_SKIP_COUNT l, R.IDEC_P2_RESCUE_COUNT l,
    R.IDEC_WIN_CORR_COUNT l, R.IDEC_WIN_UNCORR_COUNT l, R.IDEC_WIN_STAT_VALID l, R.GBX_SLIP_CNT_COUNT l,
    R.TXP_SAT_CNT_COUNT l].foldl (fun s f => s.set f 0) s
  [0, 1].foldl (fun s j =>
    let s := [R.GBX_OC_CW_COUNT l j, R.GBX_OC_CORR_CW_COUNT l j, R.GBX_OC_UNCORR_CW_COUNT l j, R.GBX_OC_SYM_COUNT l j,
      R.GBX_OC_LANE_SYM_COUNT l j].foldl (fun s f => s.set f 0) s
    (List.range 16).foldl (fun s n => s.set (R.GBX_OC_HIST_COUNT l j n) 0) s) s

/-- SLICE_REASSIGN: the lane's slice is retired and a free slice of the sheaf takes its place; the lane acquires
afresh and its transmitter holds (R11, R13, R153, R431). -/
def sliceReassignOp (l n : Nat) (s : State) : State :=
  let sh := l / 4
  let old := s.slice l
  if s.sliceFree sh n then
    let s := if old < 5 then retireStore (5 * sh + old) (slicePut sh old true s) else s
    let s := spareRefresh sh (s.set (laneFld R.SHF_SLICE_MAP_LANE_SLICE l) n)
    let s := windowClear l (sliceStates l (slicePerf l (sliceCounters l s)))
    if s.laneEn l && s.laneUp l then
      let s := if (s.tx l).running then txHold l .slice s else s
      enterState l 1 0 true (s.set (R.LFR_TX_SFC_COUNT l) 0)
    else considerStart l s
  else s

/-- CONVERTER_FAILED: LRX or LTX reports FAILED, and its lane goes to FAULT; a failed HSD takes its own host lane only
(R14, R29). -/
def converterFailedOp (l : Nat) (c : Converter) (s : State) : State :=
  match c with
  | .hsd second =>
    let h := 2 * l + b2n second
    cdrDrop h (s.setB (R.BLK_FAILED_FLAG (hsd h)) true)
  | _ =>
    let s := s.setB (R.BLK_FAILED_FLAG (if c = .ltx then ⟨.ltx, l⟩ else ⟨.lrx, l⟩)) true
    if s.laneEn l && s.laneUp l && !s.heldOff l then toFault l 4 s else considerStart l s

/-! ### CANDLE and FULL -/

/-- LANE_CANDLE: pilot lock, a converged FFE and a running decoder, supervised by firmware (R27, R103, R385). -/
def laneCandleOp (l : Nat) (s : State) : State :=
  if s.laneCode l = 1 && s.decoderRuns l && s.getB (R.REQ_STAT_FFE_CONV l) && s.getB (R.REQ_STAT_TR_LOCK l)
      && s.fwcRunning && s.levelOk l then enterState l 2 0 false s
  else s

/-- Whether the Gleaner's foreground items of a lane have converged (R221). -/
def State.foregroundDone (s : State) (l : Nat) : Bool :=
  s.getB (R.CAL_LANE_STAT_FG_DONE l) || !s.getB (R.CAL_LANE_CFG_FG_REQ l) || !s.getB (R.CAL_LANE_CFG_ADC_EN l)
    || s.expert ⟨.lrx, l⟩

/-- LANE_FULL: equaliser, MLSE and foreground items have converged (R27, R103, R105, R221). -/
def laneFullOp (l : Nat) (s : State) : State :=
  if s.laneCode l = 2 && s.getB (R.REQ_STAT_FFE_CONV l) && (s.mode l = 0 || s.getB (R.REQ_STAT_MLSE_CONV l))
      && s.foregroundDone l then enterState l 3 0 false s
  else s

/-! ### PLLs -/

/-- The lock bit of a sheaf's line or host PLL. -/
def pllLockFld (sh : Nat) (host : Bool) : Fld :=
  if host then R.SHF_PLL_STAT_HOST_LOCK sh else R.SHF_PLL_STAT_LINE_LOCK sh

/-- Whether a sheaf's PLLs run: from phase MARCH on, under no reset, with REFCLK, in ACTIVE and DOZE (R494, R507). -/
def State.pllsRun (s : State) (sh : Nat) : Bool :=
  !s.coldAsserted && !s.sheafReset sh && 5 ≤ s.phase && s.phase != 9 && s.power < 2
    && !s.getB R.CLK_STAT_BACKUP

/-- PLL_LOCK (R507). -/
def pllLockOp (sh : Nat) (host : Bool) (s : State) : State :=
  if s.pllsRun sh then s.setB (pllLockFld sh host) true else s

/-- A locked PLL loses lock in service: LOL, PLL_LOL, and the sheaf's running lanes acquire (R16, R27, R34, R507). -/
def pllLose (sh : Nat) (host : Bool) (s : State) : State :=
  if s.getB (pllLockFld sh host) then
    let s := (s.setB (pllLockFld sh host) false).setB
      (if host then R.SHF_PLL_STAT_HOST_LOL sh else R.SHF_PLL_STAT_LINE_LOL sh) true
    let s := s.signal ⟨.shf, sh⟩ 4 false
    (List.range 4).foldl (fun s k =>
      if s.laneUp (4 * sh + k) then enterState (4 * sh + k) 1 0 false s else s) s
  else s

/-- PLL_LOSS_OF_LOCK (R507). -/
def pllLossOfLockOp (sh : Nat) (host : Bool) (s : State) : State := pllLose sh host s

/-! ### Meanings -/

/-- LANE_ENABLE (R27). -/
def execLaneEnable (l : Lane) (s : State) : Host.Outcome State Fault Refusal :=
  done (laneEnableOp l.val s)

/-- LANE_DISABLE (R27). -/
def execLaneDisable (l : Lane) (s : State) : Host.Outcome State Fault Refusal :=
  done (laneDisableOp l.val s)

/-- LANE_START (R27). -/
def execLaneStart (l : Lane) (s : State) : Host.Outcome State Fault Refusal :=
  done (laneStartOp l.val s)

/-- LANE_START_DONE (R32). -/
def execLaneStartDone (l : Lane) (s : State) : Host.Outcome State Fault Refusal :=
  done (laneStartDoneOp l.val s)

/-- LANE_STOP_DONE (R32). -/
def execLaneStopDone (l : Lane) (s : State) : Host.Outcome State Fault Refusal :=
  done (laneStopDoneOp l.val s)

/-- RATE_CHANGE (R22). -/
def execRateChange (l : Lane) (half : Bool) (s : State) : Host.Outcome State Fault Refusal :=
  done (rateChangeOp l.val half s)

/-- MODE_CHANGE (R22). -/
def execModeChange (l : Lane) (mode : Fin 4) (s : State) : Host.Outcome State Fault Refusal :=
  done (modeChangeOp l.val mode.val s)

/-- ASSIST_CHANGE (R23). -/
def execAssistChange (l : Lane) (on : Bool) (s : State) : Host.Outcome State Fault Refusal :=
  done (assistChangeOp l.val on s)

/-- ASSIST_REALIGN (R23). -/
def execAssistRealign (l : Lane) (s : State) : Host.Outcome State Fault Refusal :=
  done (assistRealignOp l.val s)

/-- DIM_REQ_SET (R67). -/
def execDimReqSet (l : Lane) (s : State) : Host.Outcome State Fault Refusal :=
  done (dimReqSetOp l.val s)

/-- DIM_REQ_CLEAR (R67). -/
def execDimReqClear (l : Lane) (s : State) : Host.Outcome State Fault Refusal :=
  done (dimReqClearOp l.val s)

/-- SLICE_REASSIGN (R13). -/
def execSliceReassign (l : Lane) (slice : Fin 5) (s : State) : Host.Outcome State Fault Refusal :=
  done (sliceReassignOp l.val slice.val s)

/-- CONVERTER_FAILED (R14). -/
def execConverterFailed (l : Lane) (c : Converter) (s : State) : Host.Outcome State Fault Refusal :=
  done (converterFailedOp l.val c s)

/-- LANE_CANDLE (R27). -/
def execLaneCandle (l : Lane) (s : State) : Host.Outcome State Fault Refusal :=
  done (laneCandleOp l.val s)

/-- LANE_FULL (R105). -/
def execLaneFull (l : Lane) (s : State) : Host.Outcome State Fault Refusal :=
  done (laneFullOp l.val s)

/-- PLL_LOCK (R507). -/
def execPllLock (sh : Sheaf) (host : Bool) (s : State) : Host.Outcome State Fault Refusal :=
  done (pllLockOp sh.val host s)

/-- PLL_LOSS_OF_LOCK (R507). -/
def execPllLossOfLock (sh : Sheaf) (host : Bool) (s : State) : Host.Outcome State Fault Refusal :=
  done (pllLossOfLockOp sh.val host s)

end Sys2Proof.Machine
end

