-- ==== Sys2Proof/Machine/Faost.lean ====
section
/-!
DEFINITION. Faost: headers, cells and messages, launch queues, transmit timestamps, the receive FIFO, TIME messages
sent, bonds and remote requests (R270 to R300).
-/

namespace Sys2Proof.Machine

open Sys2Proof

/-- The MSG block. -/
def msgBlk : Blk := dev .msg

def State.queue (s : State) (q : Nat) : List QEntry := s.msg.queues[q]?.getD []
def State.putQueue (s : State) (q : Nat) (x : List QEntry) : State :=
  { s with msg := { s.msg with queues := s.msg.queues.setIfInBounds q x } }

/-! ### Headers -/

/-- The accepted header's fields are reported (R272, R299). -/
def headerReport (l b1 b2 b3 : Nat) (s : State) : State :=
  let s := s.putLink l { s.link l with accepted := some (b1, b2, b3) }
  let s := (s.set (R.MSG_LANE_STAT_PEER_ROLE l) (bitAt b1 7)).set (R.MSG_LANE_STAT_PEER_RX_STATE l) (b1 % 16)
  let s := (s.set (R.MSG_LANE_STAT_PEER_TX_PRECODE l) (bitAt b1 5)).set (R.MSG_LANE_STAT_PEER_RX_PRECODE l) (bitAt b1 4)
  (s.set (R.MSG_LANE_STAT_PEER_FVER l) (b3 / 16 % 16)).set (R.MSG_LANE_STAT_PEER_CAP l) (b3 % 16)

/-- ROLE_CONFLICT follows LINK_UP and the two roles, the local one that of the bond's lead; its rise is reported (R272,
R291, R293). -/
def roleRefresh (l : Nat) (s : State) : State :=
  let v := s.getB (R.MSG_LANE_STAT_LINK_UP l)
    && s.get (R.MSG_LANE_STAT_PEER_ROLE l) == s.get (R.MSG_LANE_CFG_ROLE (s.lead l))
  let rises := v && !s.getB (R.MSG_LANE_STAT_ROLE_CONFLICT l)
  let s := s.setB (R.MSG_LANE_STAT_ROLE_CONFLICT l) v
  if rises then (s.irq msgBlk 7).event msgBlk l 5 (7 + 256) else s

/-- A header is accepted (R272). -/
def headerAccept (l b1 b2 b3 : Nat) (s : State) : State :=
  let s := headerReport l b1 b2 b3 s
  if b3 / 16 % 16 = 0 then linkDown l s
  else
    let s := if s.getB (R.MSG_LANE_STAT_LINK_UP l) then s
      else (s.setB (R.MSG_LANE_STAT_LINK_UP l) true).irq msgBlk 5
    roleRefresh l s

/-- A superframe's header bytes 1 to 3: accepted when they repeat those before (R272). -/
def headerIn (l b1 b2 b3 : Nat) (s : State) : State :=
  if s.getB (R.LFR_STAT_SCR_LOCK l) && !s.getB (R.LFR_STAT_RX_DIM l) && s.blkOn msgBlk then
    let same := (s.link l).header == some (b1, b2, b3)
    let s := s.putLink l { s.link l with header := some (b1, b2, b3) }
    if same then headerAccept l b1 b2 b3 s else s
  else s

/-! ### CRC and authentication -/

/-- One byte of CRC-16/CCITT-FALSE (R274). -/
def crcByte (crc b : Nat) : Nat :=
  (List.range 8).foldl (fun c _ => if 0x8000 ≤ c then (c * 2 % 0x10000) ^^^ 0x1021 else c * 2)
    (crc ^^^ (b % 256 * 256))

/-- CRC-16/CCITT-FALSE of a list of bytes (R274). -/
def crc16 (bs : List Nat) : Nat := bs.foldl crcByte 0xFFFF

/-- The initialisation vector of an authenticated message (R277). -/
def faostIv (lane : Nat) (manager : Bool) (ctr : Nat) : Nat :=
  ofBytesBE ([lane, if manager then 1 else 2, 0, 0] ++ toBytesBE 8 ctr)

/-- The tag over the authenticated bytes of a message (R277). -/
def faostTag (key lane : Nat) (manager : Bool) (ctr : Nat) (bytes : List Nat) : Nat :=
  gmac key (faostIv lane manager ctr) bytes

/-- Whether a counter is new in its window of 64 (R277). -/
def ctrFresh (p : PeerSession) (ctr : Nat) : Bool :=
  p.ctrTop < ctr || (p.ctrTop ≤ ctr + 64 && ctr < p.ctrTop && !p.ctrSeen.contains ctr)

/-- The session after a counter is accepted. -/
def ctrAccept (p : PeerSession) (ctr : Nat) : PeerSession :=
  let top := max p.ctrTop ctr
  { p with ctrTop := top, ctrSeen := (ctr :: p.ctrTop :: p.ctrSeen).filter fun c => c < top && top ≤ c + 64 }

/-- An authenticated message is checked: its counter and tag (R277). -/
def authCheck (l : Nat) (cells : List (List Nat)) (s : State) : Option State :=
  let lead := s.lead l
  let p := s.session lead
  let bytes := cells.flatten
  let trailer := bytes.drop (bytes.length - 24)
  let ctr := ofBytesBE (trailer.take 8)
  let peerManager := s.getB (R.MSG_LANE_STAT_PEER_ROLE lead)
  let tag := faostTag p.keyIn lead peerManager ctr (bytes.take (bytes.length - 16))
  if s.sessionUp l && ctrFresh p ctr && ofBytesBE (trailer.drop 8) = tag then
    some (s.putSession lead (ctrAccept p ctr))
  else none

/-! ### Receiving cells -/

/-- Whether a message type is defined for reception (R278). -/
def knownType (t : Nat) : Bool := (1 ≤ t && t ≤ 6) || (8 ≤ t && t ≤ 13) || (0x40 ≤ t && t ≤ 0x7F)

/-- A reassembly of a lane: the one for TIME, or the one for all other types (R276). -/
def State.reasmOf (s : State) (l : Nat) (time : Bool) : Option Reassembly :=
  if time then (s.link l).timeReasm else (s.link l).reasm

def State.putReasm (s : State) (l : Nat) (time : Bool) (r : Option Reassembly) : State :=
  s.putLink l (if time then { s.link l with timeReasm := r } else { s.link l with reasm := r })

/-- The message in progress is discarded and counted (R276). -/
def reasmDiscard (l : Nat) (time : Bool) (s : State) : State :=
  if (s.reasmOf l time).isSome then (s.satInc (R.MSG_ERR_DISCARD l) 1).putReasm l time none else s

/-- A complete message: authenticated, of a known type, it waits to be delivered (R277, R278). -/
def messageComplete (l : Nat) (r : Reassembly) (s : State) : State :=
  let m : FaostMsg := { type := r.type, auth := r.auth, late := r.late, lane := l,
                        payload := (r.cells.map (·.drop 2)).flatten, sfc := r.sfc, time := r.time, steps := r.steps }
  let keep (s : State) : State :=
    if knownType r.type then s.putLink l { s.link l with inbox := (s.link l).inbox ++ [m] }
    else s.satInc (R.MSG_ERR2_UNKNOWN l) 1
  if r.auth then
    match authCheck l r.cells s with
    | some s => keep s
    | none => ((s.satInc (R.MSG_ERR2_AUTH_FAIL l) 1).irq msgBlk 6).event msgBlk l 8 2
  else keep s

/-- A cell whose CRC holds joins or starts a message; its time is the stamp of the superframe that carries it, where
that boundary was stamped (R276, R287 to R289). -/
def cellAccept (l : Nat) (b : List Nat) (s : State) : State :=
  let type := b.getD 0 0
  let h := b.getD 1 0
  let idx := h / 16 % 16
  let time := type == 1
  let body := b.take 34
  let start (s : State) : State :=
    let st := (s.stamp l).rx.filter fun p => p.1 == s.get (R.LFR_RX_SFC_COUNT l)
    let r : Reassembly := { type := type, auth := bitAt h 2 == 1, late := bitAt h 1 == 1, cells := [body],
                            sfc := s.get (R.LFR_RX_SFC_COUNT l), time := st.map (·.2), steps := s.tim.steps }
    if bitAt h 3 = 1 then messageComplete l r s else s.putReasm l time (some r)
  match s.reasmOf l time with
  | none => if idx = 0 then start s else s
  | some r =>
    if idx = r.cells.length && r.type == type && r.auth == (bitAt h 2 == 1) then
      let r := { r with cells := r.cells ++ [body], late := r.late || bitAt h 1 == 1 }
      if bitAt h 3 = 1 then messageComplete l r (s.putReasm l time none) else s.putReasm l time (some r)
    else
      let s := reasmDiscard l time s
      if idx = 0 then start s else s

/-- FAOST_CELL: the 36 bytes of a received cell: a bad CRC is counted whether or not the link is up (R275, R276). -/
def faostCellOp (l : Nat) (bytes : List Nat) (s : State) : State :=
  let b := (List.range 36).map fun i => bytes.getD i 0 % 256
  if !s.getB (R.LFR_STAT_SCR_LOCK l) || s.getB (R.LFR_STAT_RX_DIM l) || !s.blkOn msgBlk then s
  else if b.all (· == 0) then s
  else if crc16 (b.take 34) = ofBytesBE (b.drop 34) then
    if s.getB (R.MSG_LANE_STAT_LINK_UP l) then cellAccept l b (s.count msgBlk 0x41 1) else s
  else reasmDiscard l (b.getD 0 0 == 1) (s.satInc (R.MSG_ERR_CRC l) 1)

/-- REASSEMBLY_TIMEOUT: 8 superframes after its cell 0 a message is discarded (R276). -/
def reassemblyTimeoutOp (l : Nat) (time : Bool) (s : State) : State := reasmDiscard l time s

/-- The oldest undelivered message of a lane of a type, and the state without it. -/
def takeMessage (l : Nat) (ok : Nat → Bool) (s : State) : Option (FaostMsg × State) :=
  let k := s.link l
  match k.inbox.find? fun m => ok m.type with
  | some m => some (m, s.putLink l { k with inbox := k.inbox.erase m })
  | none => none

/-- A message enters the receive FIFO, or is lost when it is full (R287). -/
def fifoPut (m : FaostMsg) (s : State) : State :=
  if 32 ≤ s.msg.rx.length then
    ((s.setB R.MSG_RX_STAT_OVF true).satInc R.MSG_RX_STAT_OVF_CNT 1).irq msgBlk 1
  else
    let s := if s.msg.rx.isEmpty then s.irq msgBlk 0 else s
    { s with msg := { s.msg with rx := s.msg.rx ++ [m] } }

/-- A received message of one of the FIFO's types is delivered (R278, R287). -/
def deliverFifo (l : Nat) (ok : Nat → Bool) (s : State) : State :=
  match takeMessage l ok s with
  | some (m, s) => fifoPut m s
  | none => s

/-- REG_RD_RSP (R287). -/
def regRdRspOp (l : Nat) (s : State) : State := deliverFifo l (· == 4) s

/-- REG_WR_RSP (R287). -/
def regWrRspOp (l : Nat) (s : State) : State := deliverFifo l (· == 6) s

/-- APP (R287). -/
def appOp (l : Nat) (s : State) : State := deliverFifo l (fun t => 0x40 ≤ t && t ≤ 0x7F) s

/-- LEVEL_REPORT: delivered to FWC (R278). -/
def levelReportOp (l : Nat) (s : State) : State :=
  match takeMessage l (· == 2) s with
  | some (m, s) => s.putLink l { s.link l with report := m.payload }
  | none => s

/-- RX_POP: the head of the receive FIFO is removed (R287). -/
def rxPopOp (s : State) : State := { s with msg := { s.msg with rx := s.msg.rx.drop 1 } }

/-- RX_FLUSH (R299). -/
def rxFlushOp (s : State) : State := { s with msg := { s.msg with rx := [] } }

/-! ### Remote requests -/

/-- The status byte of RETRY (R297, R345). -/
def retryCode : Nat := 0x01

/-- A response of the remote-access engine: its 8 header bytes and data words, padded with the trailer to whole cells
(R277, R297). -/
def responsePayload (tag status count addr : Nat) (data : List Nat) : List Nat :=
  let body := [tag, status, count, 0] ++ toBytesBE 4 addr ++ (data.map (toBytesBE 4)).flatten
  let cells := (body.length + 24 + 31) / 32
  body ++ List.replicate (32 * cells - body.length) 0

/-- A message joins the outbox of a lane's bond. -/
def outPut (l : Nat) (m : OutMsg) (s : State) : State :=
  let k := s.lead l
  s.putLink k { s.link k with outbox := (s.link k).outbox ++ [m] }

/-- Whether a remote request may be served (R291, R295). -/
def remoteAllowed (s : State) (m : FaostMsg) : Bool :=
  m.auth && s.sessionUp m.lane && s.getB (R.MSG_LANE_STAT_PEER_ROLE (s.lead m.lane))
    && !s.getB (R.MSG_LANE_CFG_ROLE (s.lead m.lane))

/-- A remote request is refused without a response (R295). -/
def remoteDeny (l : Nat) (s : State) : State :=
  ((s.satInc R.MSG_REMOTE_STAT_DENIED 1).irq msgBlk 8).event msgBlk l 8 3

/-- A remote request is held, answered with RETRY at the bound of 4, or refused (R295, R298). -/
def remoteRequest (l : Nat) (write : Bool) (s : State) : State :=
  match takeMessage l (· == (if write then 5 else 3)) s with
  | none => s
  | some (m, s) =>
    let p := m.payload
    let tag := p.getD 0 0
    let count := p.getD 1 0 % 64
    let addr := ofBytesBE ((p.drop 4).take 4)
    if !remoteAllowed s m then remoteDeny l s
    else if 4 ≤ s.msg.remote.length then
      outPut l { type := if write then 6 else 4, auth := true, remote := false
                 payload := responsePayload tag retryCode count addr
                   (if write then [] else List.replicate (count + 1) 0xFFFFFFFF) } s
    else
      let data := (List.range (count + 1)).map fun i => ofBytesBE ((p.drop (8 + 4 * i)).take 4)
      { s with msg := { s.msg with remote := s.msg.remote ++
        [{ lane := l, tag := tag, addr := addr, count := count, write := write,
           data := if write then data else [], answered := false }] } }

/-- REG_RD_REQ (R295, R298). -/
def regRdReqOp (l : Nat) (s : State) : State := remoteRequest l false s

/-- REG_WR_REQ (R295, R298). -/
def regWrReqOp (l : Nat) (s : State) : State := remoteRequest l true s

/-! ### Launch queues -/

/-- A timestamp entry enters its queue, or is lost when it is full (R286). -/
def tsPut (e : TsEntry) (s : State) : State :=
  if 16 ≤ s.msg.ts.length then
    ((s.setB R.MSG_TS_STAT_OVF true).satInc R.MSG_TS_STAT_OVF_CNT 1).irq msgBlk 3
  else
    let s := if s.msg.ts.isEmpty then s.irq msgBlk 2 else s
    { s with msg := { s.msg with ts := s.msg.ts ++ [e] } }

/-- The timestamp entry of a queue entry that ends with a status: 0 SENT, 1 SENT_LATE, 2 DROPPED_LATE, 3 FLUSHED,
4 NO_SESSION (R286, R299). -/
def tsReport (e : QEntry) (lane status sfc time : Nat) (s : State) : State :=
  if e.tsReq then tsPut { id := e.tsId, lane := lane, status := status, sfc := sfc, time := time } s else s

/-- Whether TYPE and CELLS of a push are accepted (R278, R279). -/
def pushTypeOk (type cells : Nat) (auth : Bool) : Bool :=
  if type = 2 then cells == 9 + b2n auth
  else if type = 3 then cells == 1
  else if type = 5 then 1 ≤ cells && cells ≤ 9
  else 0x40 ≤ type && type ≤ 0x7F

/-- The staged payload bytes (R279). -/
def stagedPayload (s : State) (cells : Nat) : List Nat :=
  ((List.range (8 * cells)).map fun w => toBytesBE 4 (s.get (R.MSG_TX_DATA_WORD w))).flatten

/-- MSG_TX_PUSH: the word written to MSG_TX_PUSH (R279). -/
def msgTxPushOp (word : Nat) (s : State) : State :=
  let q := bits word 0 3
  let cells := bits word 4 4 + 1
  let auth := bitAt word 9 == 1
  let type := bits word 16 8
  let lane := s.get (R.MSG_Q_CFG_LANE q)
  if 16 ≤ (s.queue q).length then s.set R.MSG_TX_RESULT_CODE 1
  else if !s.getB (R.MSG_Q_CFG_EN q) then s.set R.MSG_TX_RESULT_CODE 2
  else if !pushTypeOk type cells auth then s.set R.MSG_TX_RESULT_CODE 3
  else if (type = 3 || type = 5) && !auth then s.set R.MSG_TX_RESULT_CODE 4
  else
    let e : QEntry := {
      type := type, cells := cells, timed := bitAt word 8 == 1, auth := auth, tsReq := bitAt word 10 == 1
      tsId := bits word 24 8, payload := stagedPayload s cells
      launch := ofReportedTime (s.get R.MSG_TX_LAUNCH_TIME) / 256
      after := (s.link (s.lead lane)).lastCell0, fired := false }
    (s.putQueue q (s.queue q ++ [e])).set R.MSG_TX_RESULT_CODE 0

/-- Every entry of a queue ends with FLUSHED (R285). -/
def queueFlush (q : Nat) (s : State) : State :=
  let es := s.queue q
  let lane := s.get (R.MSG_Q_CFG_LANE q)
  es.foldl (fun s e => tsReport e lane 3 0 0 s) (s.putQueue q [])

/-- MSG_Q_FLUSH: bit q of `qs` empties queue q (R285). -/
def msgQFlushOp (qs : Nat) (s : State) : State :=
  (List.range 8).foldl (fun s q => if bitAt qs q = 1 then queueFlush q s else s) s

/-- Alarm k launches the head entry of each gated queue that names it (R284). -/
def msgAlarm (k : Nat) (s : State) : State :=
  (List.range 8).foldl (fun s q =>
    if s.getB (R.MSG_Q_CFG_GATE q) && s.get (R.MSG_Q_CFG_ALARM q) == k then
      match s.queue q with
      | e :: es => if e.fired then s
        else s.putQueue q ({ e with fired := true, launch := s.now / 256, after := none } :: es)
      | [] => s
    else s) s

/-! ### The cell slots -/

/-- A superframe's period in tenths of 2^-8 ns: 1,638.4 ns at 230 GBd, twice that at 115 GBd (R46). -/
def superTenths (s : State) (l : Nat) : Nat := if s.rate l = 0 then 4194304 else 8388608

/-- By how many superframes the newest of the boundaries `bs` follows an entry's target; none before the target. The
boundaries before the recorded ones are taken a nominal period `t`, in tenths, apart (R282; log entry 244). -/
def latenessAt (t : Nat) (e : QEntry) (bs : List Nat) : Option Nat :=
  let run := bs.takeWhile (e.launch ≤ ·)
  match run.getLast? with
  | none => none
  | some x =>
    let before := if run.length = bs.length then 10 * (x - e.launch) / t else 0
    let k := run.length - 1 + before
    let target := x - before * t / 10
    let missed := match e.after with
      | some a => decide (20 * target < 20 * a + t)
      | none => false
    if missed then if k = 0 then none else some (k - 1) else some k

/-- By how many superframes the one whose cells are being fixed on lane l follows an entry's target (R282). -/
def lateness (s : State) (l : Nat) (e : QEntry) : Option Nat := latenessAt (superTenths s l) e (s.link l).bounds

/-- The boundary that is `i` superframes after the one whose cells are being fixed on lane l, as the last two
boundaries, or else the nominal period, foretell it. -/
def State.boundAhead (s : State) (l i : Nat) : Nat :=
  match (s.link l).bounds with
  | b :: a :: _ => b + i * (b - a)
  | b :: _ => b + i * superTenths s l / 10
  | [] => 0

/-- Whether the entries of a queue are timed: by their own bit, or by the queue's gate (R284). -/
def entryTimed (s : State) (q : Nat) (e : QEntry) : Bool := e.timed || s.getB (R.MSG_Q_CFG_GATE q)

/-- A timed head that its gate, if it has one, has launched. -/
def timedReady (s : State) (q : Nat) (e : QEntry) : Bool :=
  if s.getB (R.MSG_Q_CFG_GATE q) then e.fired else e.timed

/-- The lead lane of a queue. -/
def State.queueLead (s : State) (q : Nat) : Nat := s.lead (s.get (R.MSG_Q_CFG_LANE q))

/-- Whether queue heads may go on lane l (R280). -/
def linkSends (s : State) (q l : Nat) : Bool :=
  s.getB (R.MSG_Q_CFG_EN q) && s.getB (R.MSG_LANE_STAT_LINK_UP (s.queueLead q)) && s.framesSent l
    && !s.getB (laneFld R.SHF_LANE_STATE_TX_DIM l)

/-- Heads of an enabled queue that are two superframes late and may not be sent are dropped (R280, R282). -/
def dropLate (l : Nat) : Nat → Nat → State → State
  | 0, _, s => s
  | n + 1, q, s =>
    match s.queue q with
    | e :: es =>
      if s.queueLead q == l && s.getB (R.MSG_Q_CFG_EN q) && timedReady s q e && !s.getB (R.MSG_Q_CFG_LATE_SEND q)
          && (lateness s l e).any (2 ≤ ·) then
        let s := (tsReport e l 2 0 0 (s.putQueue q es)).satInc (R.MSG_Q_STAT_LATE q) 1
        dropLate l n q (s.irq msgBlk 4)
      else s
    | [] => s

/-- The authenticated bytes of a message: the header bytes and payloads of its cells (R273, R277). -/
def cellBodies (type : Nat) (auth late : Bool) (payload : List Nat) : List (List Nat) :=
  let n := (payload.length + 31) / 32
  (List.range n).map fun i =>
    [type, 16 * i + 8 * b2n (i + 1 == n) + 4 * b2n auth + 2 * b2n late] ++ (payload.drop (32 * i)).take 32

/-- The cells of a message, with its trailer where it is authenticated (R273, R274, R277). -/
def buildCells (l type : Nat) (auth late : Bool) (payload : List Nat) (s : State) : List (List Nat) × State :=
  let lead := s.lead l
  let p := s.session lead
  let ctr := p.ctrOut + 1
  let head := payload.take (payload.length - 24) ++ toBytesBE 8 ctr
  let part := (cellBodies type auth late (head ++ List.replicate 16 0)).flatten
  let tag := faostTag p.keyOut lead (s.getB (R.MSG_LANE_CFG_ROLE lead)) ctr (part.take (part.length - 16))
  let full := if auth then head ++ toBytesBE 16 tag else payload
  let s := if auth then s.putSession lead { p with ctrOut := ctr } else s
  ((cellBodies type auth late full).map fun c => c ++ toBytesBE 2 (crc16 c), s)

/-- A time plus a signed 16-bit plane offset, both in 2^-8 ns (R242). -/
def addOffset (t : Nat) (ofs : Int) : Nat := ((t : Int) + ofs).toNat

/-- A time in 2^-8 ns as the 11 bytes of the TIME payload: SEC, NSEC, FRAC (R288). -/
def timeBytes (t : Nat) : List Nat :=
  toBytesBE 6 (t / 256000000000) ++ toBytesBE 4 (t / 256 % 1000000000) ++ [t % 256]

/-- The hop distance H of the device, saturated to 7 (R290). -/
def State.hopsOut (s : State) : Nat := if s.get R.TIM_STAT_SRC_ACTIVE = 1 then min 7 s.tim.hops else 0

/-- The payload of a TIME message of superframe `sfc`, and its departure time (R288, R290). -/
def timePayload (s : State) (l sfc b : Nat) : List Nat × Nat :=
  let k := s.link l
  let stamp := (s.stamp l).tx.filter fun p => p.1 == sfc
  let valid := stamp.isSome
  let t := addOffset ((stamp.map (·.2)).getD b) (s.getI (R.TIM_PLANE_TX_OFS l))
  let arr := k.arrival.bind fun a => a.2.map fun x => (a.1, x)
  let flags := 128 * b2n valid + 64 * b2n arr.isSome + 8 * s.get R.TIM_STAT_QUAL + s.hopsOut
  (toBytesBE 4 sfc ++ timeBytes t ++ toBytesBE 4 ((arr.map (·.1)).getD 0) ++ timeBytes ((arr.map (·.2)).getD 0)
    ++ [flags, k.seq % 256], t)

/-- The cells of a TIME message; its departure is kept (R283, R288, R289). -/
def buildTime (l sfc b : Nat) (auth : Bool) (s : State) : List (List Nat) × State :=
  let p := timePayload s l sfc b
  let k := s.link l
  let s := s.putLink l { k with seq := k.seq + 1, departures := ((sfc, p.2, s.tim.steps) :: k.departures).take 16 }
  buildCells l 1 auth false (if auth then p.1 ++ List.replicate 32 0 else p.1) s

/-- Whether a superframe of a lane carries a TIME message (R283, R290). -/
def timeReserved (s : State) (l sfc : Nat) : Bool :=
  s.lead l == l && s.getB (R.MSG_LANE_CFG_EN l) && s.getB R.MSG_TIME_CFG_EN
    && sfc % 2 ^ s.get R.MSG_TIME_CFG_PERIOD == 0 && ((s.tx l).dim == .full || (s.tx l).dim == .marker)

/-- How many cells of a superframe from slot `c` on are free for messages (R283). -/
def freeCells (s : State) (l c sfc : Nat) : Nat :=
  7 - c - (if timeReserved s l sfc then if s.sessionUp l then 2 else 1 else 0)

/-- Whether an untimed message of `n` cells that starts in slot `c` would fall in cell 0 of a superframe for which a
queued timed head of the lane is due (R281). -/
def blocksTimed (s : State) (l c sfc n : Nat) : Bool :=
  let later (i : Nat) : Nat := ((List.range i).map fun j => freeCells s l 0 (sfc + j + 1)).sum
  let spill (i : Nat) : Bool := freeCells s l c sfc + later i < n
  (List.range 4).any fun i => spill i && (List.range 8).any fun q =>
    match s.queue q with
    | e :: _ => s.queueLead q == l && timedReady s q e && s.getB (R.MSG_Q_CFG_EN q)
        && e.launch ≤ s.boundAhead l (i + 1)
    | [] => false

/-- What a slot can start: a queue with its head and lateness (none for an untimed head). -/
def pickQueue (s : State) (l c sfc : Nat) : Option (Nat × QEntry × Option Nat) :=
  let timed := (List.range 8).findSome? fun q =>
    match s.queue q with
    | e :: _ =>
      if linkSends s q l && s.queueLead q == l && timedReady s q e && s.getB R.TIM_STAT_FINE_READY then
        (lateness s l e).map fun k => (q, e, some k)
      else none
    | [] => none
  let untimed := (List.range 8).findSome? fun q =>
    match s.queue q with
    | e :: _ =>
      if linkSends s q l && s.queueLead q == s.lead l && !entryTimed s q e && !blocksTimed s l c sfc e.cells then
        some (q, e, none)
      else none
    | [] => none
  timed <|> untimed

/-- A head starts: its cells, its timestamp entry and its lateness (R282, R286). -/
def startEntry (l sfc b q : Nat) (e : QEntry) (late : Option Nat) (s : State) : List (List Nat) × State :=
  let isLate := late.any (1 ≤ ·)
  let s := s.putQueue q ((s.queue q).drop 1)
  let r := buildCells l e.type e.auth isLate e.payload s
  let s := if isLate then (r.2.satInc (R.MSG_Q_STAT_LATE q) 1).irq msgBlk 4 else r.2
  (r.1, tsReport e l (b2n isLate) sfc (addOffset b (s.getI (R.TIM_PLANE_TX_OFS l))) s)

/-- The first head that starts; authenticated heads without a session are dropped on the way (R280, R281). -/
def startQueues (l c sfc b : Nat) : Nat → State → List (List Nat) × State
  | 0, s => ([], s)
  | n + 1, s =>
    match pickQueue s l c sfc with
    | none => ([], s)
    | some (q, e, late) =>
      if e.auth && !s.sessionUp l then
        startQueues l c sfc b n (tsReport e l 4 0 0 (s.putQueue q ((s.queue q).drop 1)))
      else startEntry l sfc b q e late s

/-- The first message of the bond's outbox starts; an authenticated one without a session is dropped, and a handshake
message waits for the lead lane (R281, R297, R476). -/
def startOutbox (l : Nat) (s : State) : List (List Nat) × Bool × State :=
  let k := s.lead l
  match (s.link k).outbox with
  | m :: ms =>
    if s.getB (R.MSG_LANE_STAT_LINK_UP k) && s.framesSent l && (m.type < 8 || 14 ≤ m.type || l == k) then
      let s := s.putLink k { s.link k with outbox := ms }
      if m.auth && !s.sessionUp l then ([], m.remote, s)
      else
        let r := buildCells l m.type m.auth false m.payload s
        (r.1, m.remote, r.2)
    else ([], false, s)
  | [] => ([], false, s)

/-- An answered remote request is no longer held once its response is sent (R298). -/
def remoteSent (s : State) : State :=
  { s with msg := { s.msg with remote := match s.msg.remote.find? (·.answered) with
      | some r => s.msg.remote.erase r
      | none => s.msg.remote } }

/-- A cell goes into the overhead bytes of its superframe; BAD_CRC inverts the CRC of the next cell (R270, R299). -/
def emitCell (l c sfc : Nat) (cell : List Nat) (s : State) : State :=
  let s := if cell.isEmpty then s else s.count msgBlk 0x40 1
  let k := s.link l
  let bad := k.badCrc && !cell.isEmpty
  let bytes := if cell.isEmpty then List.replicate 36 0
    else if bad then cell.take 34 ++ (cell.drop 34).map (255 - ·) else cell
  let s := s.putLink l { k with badCrc := k.badCrc && !bad }
  if sfc = s.get (R.LFR_TX_SFC_COUNT l) then
    let o := (s.tx l).overhead
    let o := o ++ List.replicate (4 + 36 * c - o.length) 0
    s.putTx l { s.tx l with overhead := o.take (4 + 36 * c) ++ bytes ++ o.drop (40 + 36 * c) }
  else s.putLink l { s.link l with cell0 := bytes }

/-- The next cell of the message in progress; its last cell frees an answered remote request (R281, R298). -/
def sendNext (l c sfc : Nat) (s : State) : State :=
  let k := s.link l
  match k.sending with
  | x :: xs =>
    let s := s.putLink l { k with sending := xs, sendRemote := k.sendRemote && !xs.isEmpty }
    emitCell l c sfc x (if xs.isEmpty && k.sendRemote then remoteSent s else s)
  | [] => emitCell l c sfc [] s

/-- A message starts in a slot. -/
def beginMessage (l c sfc : Nat) (cells : List (List Nat)) (remote : Bool) (s : State) : State :=
  sendNext l c sfc (s.putLink l { s.link l with sending := cells, sendRemote := remote })

/-- Steps 1 to 6 of R281 for one slot. -/
def fillSlot (l c sfc b : Nat) (s : State) : State :=
  let up := s.sessionUp l
  if timeReserved s l sfc && c = 6 && !(s.link l).timeRest.isEmpty then
    let k := s.link l
    emitCell l c sfc (k.timeRest.getD 0 []) (s.putLink l { k with timeRest := [] })
  else if timeReserved s l sfc && (c = 6 || (c = 5 && up)) then
    let r := buildTime l sfc b (c == 5) s
    emitCell l c sfc (r.1.getD 0 []) (r.2.putLink l { r.2.link l with timeRest := r.1.drop 1 })
  else if !(s.link l).sending.isEmpty then sendNext l c sfc s
  else
    let r := startOutbox l s
    if !r.1.isEmpty then beginMessage l c sfc r.1 r.2.1 r.2.2
    else
      let s := if r.2.1 then remoteSent r.2.2 else r.2.2
      let r := startQueues l c sfc b 130 s
      if r.1.isEmpty then emitCell l c sfc [] r.2 else beginMessage l c sfc r.1 false r.2

/-- The boundary of the superframe whose cells are being fixed is recorded (R282). -/
def boundNote (l b : Nat) (s : State) : State :=
  let k := s.link l
  if k.bounds.head? = some b then s else s.putLink l { k with bounds := (b :: k.bounds).take 5 }

/-- FAOST_CELL_SLOT: MSG fixes cell `c` of the superframe with count `sfc` and boundary `b` in 2^-8 ns (R281). -/
def faostCellSlotOp (l c sfc b : Nat) (s : State) : State :=
  if s.getB (R.MSG_LANE_CFG_EN l) && s.blkOn msgBlk && s.txRuns l then
    let s := boundNote l b s
    let s := (List.range 8).foldl (fun s q => dropLate l 16 q s) s
    let s := fillSlot l c sfc b s
    if c = 0 then s.putLink l { s.link l with lastCell0 := some b } else s
  else s

/-- LEVEL_REPORT_SEND: firmware reports its level statistics: mean and sigma of each of the 64 patterns, in 1/16 code
(R278). -/
def levelReportSendOp (l : Nat) (stats : List (Int × Nat)) (s : State) : State :=
  if s.laneCode l = 3 && s.fwcRunning then
    let head := [s.laneCode l, 0] ++ toBytesBE 2 (s.get (R.REQ_SNR_SNR l)) ++ List.replicate 28 0
    let body := (List.range 64).map fun i =>
      let p := stats.getD i (0, 0)
      toBytesBE 2 (ofInt 16 p.1) ++ toBytesBE 2 (p.2 % 65536)
    let auth := s.sessionUp l
    outPut l { type := 2, auth := auth, remote := false
               payload := head ++ body.flatten ++ (if auth then List.replicate 32 0 else []) } s
  else s

/-! ### Ends of sessions and of the block -/

/-- A change of ROLE, BOND or EN ends the session of the lane; role and bond are judged again (R272, R291, R480). -/
def laneCfgChanged (l : Nat) (s : State) : State :=
  (List.range 8).foldl (fun s k => roleRefresh k s) (sessionEnd l s)

/-- Security lockdown: every queue and the receive FIFO are emptied and every session ends (R285, R485). -/
def msgLockdown (s : State) : State :=
  let s := msgQFlushOp 255 (rxFlushOp s)
  (List.range 8).foldl (fun s l => sessionEnd l s) s

/-- A BLOCK reset of MSG empties its queues and ends sessions and remote requests (R299, R480). -/
def msgBlockReset (s : State) : State :=
  let s := (List.range 8).foldl (fun s l => sessionEnd l s) s
  { s with msg := MsgInt.reset, links := Vector.replicate 8 MsgLink.reset }

/-! ### Meanings -/

/-- FAOST_CELL (R275). -/
def execFaostCell (l : Lane) (bytes : List Nat) (s : State) : Host.Outcome State Fault Refusal :=
  done (faostCellOp l.val bytes s)

/-- REASSEMBLY_TIMEOUT (R276). -/
def execReassemblyTimeout (l : Lane) (time : Bool) (s : State) : Host.Outcome State Fault Refusal :=
  done (reassemblyTimeoutOp l.val time s)

/-- LEVEL_REPORT (R278). -/
def execLevelReport (l : Lane) (s : State) : Host.Outcome State Fault Refusal :=
  done (levelReportOp l.val s)

/-- REG_RD_REQ (R295). -/
def execRegRdReq (l : Lane) (s : State) : Host.Outcome State Fault Refusal :=
  done (regRdReqOp l.val s)

/-- REG_WR_REQ (R295). -/
def execRegWrReq (l : Lane) (s : State) : Host.Outcome State Fault Refusal :=
  done (regWrReqOp l.val s)

/-- REG_RD_RSP (R287). -/
def execRegRdRsp (l : Lane) (s : State) : Host.Outcome State Fault Refusal :=
  done (regRdRspOp l.val s)

/-- REG_WR_RSP (R287). -/
def execRegWrRsp (l : Lane) (s : State) : Host.Outcome State Fault Refusal :=
  done (regWrRspOp l.val s)

/-- APP (R287). -/
def execApp (l : Lane) (s : State) : Host.Outcome State Fault Refusal :=
  done (appOp l.val s)

/-- MSG_TX_PUSH (R279). -/
def execMsgTxPush (word : Word) (s : State) : Host.Outcome State Fault Refusal :=
  done (msgTxPushOp word.toNat s)

/-- FAOST_CELL_SLOT (R281). -/
def execFaostCellSlot (l : Lane) (cell : Fin 7) (sfc : Word) (boundary : Nat)
    (s : State) : Host.Outcome State Fault Refusal :=
  done (faostCellSlotOp l.val cell.val sfc.toNat boundary s)

/-- MSG_Q_FLUSH (R285). -/
def execMsgQFlush (qs : Byte) (s : State) : Host.Outcome State Fault Refusal :=
  done (msgQFlushOp qs.toNat s)

/-- RX_POP (R287). -/
def execRxPop (s : State) : Host.Outcome State Fault Refusal :=
  done (rxPopOp s)

/-- RX_FLUSH (R287). -/
def execRxFlush (s : State) : Host.Outcome State Fault Refusal :=
  done (rxFlushOp s)

/-- LEVEL_REPORT_SEND (R278). -/
def execLevelReportSend (l : Lane) (stats : List (Int × Nat)) (s : State) : Host.Outcome State Fault Refusal :=
  done (levelReportSendOp l.val stats s)

end Sys2Proof.Machine
end

