-- ==== Sys2Proof/Machine/Gleaner.lean ====
section
/-!
DEFINITION. Gleaner: measurement windows, the repeat-agreement test, gradual application, DAC sweeps, REF_ANCHOR, the
start-up pass and saving of the trims (R207 to R234).
-/

namespace Sys2Proof.Machine

open Sys2Proof

/-- The CAL block. -/
def calBlk : Blk := dev .cal

/-- One step, in the units of an estimate. -/
def stepUnit : Nat := 65536

/-! ### Judging a run -/

/-- Whether two estimates of every trim of an item agree (R213). -/
def agrees (s : State) (a b : List Int) : Bool :=
  (a.zip b).all fun p => (p.1 - p.2).natAbs ≤ s.get R.CAL_CFG_AGREE * stepUnit

/-- The mean of two estimates in steps, halves away from zero (R213). -/
def meanSteps (a b : Int) : Int := roundDiv (a + b) (2 * stepUnit)

/-- The unlimited corrections of an item (R213). -/
def stepCorrections (a b : List Int) : List Int := (a.zip b).map fun p => meanSteps p.1 p.2

/-- A correction limited to MAX_STEP (R213). -/
def limitStep (s : State) (c : Int) : Int := clampInt (-(s.get R.CAL_CFG_MAX_STEP : Int)) (s.get R.CAL_CFG_MAX_STEP) c

/-- The largest magnitude of a list. -/
def largest (cs : List Int) : Nat := cs.foldl (fun m c => max m c.natAbs) 0

/-- The first correction of the largest magnitude. -/
def largestSigned (cs : List Int) : Int := (cs.find? fun c => c.natAbs == largest cs).getD 0

/-- The Stub event of a CAL condition: 0 UNSTABLE, 1 LIMIT, 2 VREF_BAD (R449). -/
def calEvent (inst item kind : Nat) (s : State) : State := s.event calBlk inst 0x0D (item + 256 * kind)

/-- A passed run of record r is counted, with its limited corrections and its end; the steps that follow write their own
time (R233). -/
def recordPass (r : Nat) (cs : List Int) (s : State) : State :=
  let s := (s.satInc (R.CAL_REC_RUNS r) 1).set (R.CAL_REC_T_TIME r) (reportedTime s.now false)
  let s := if largest cs = 0 then s else s.satInc (R.CAL_REC_A_APPLIED r) 1
  (s.setI (R.CAL_REC_L_STEP r) (largestSigned cs)).setB (R.CAL_REC_L_VALID r) true

/-- A failed run is counted, and the eighth in a row makes the item unstable (R213, R215). -/
def recordFail (l i : Nat) (s : State) : State :=
  let s := s.satInc (R.CAL_REC_D_DISAGREE (l * 6 + i)) 1
  let n := (s.cal l).fails.getD i 0 + 1
  let s := s.putCal l { s.cal l with fails := (s.cal l).fails.set i (if n = 8 then 0 else n) }
  if n = 8 then calEvent l i 0 ((s.setB (R.CAL_LANE_STAT_UNSTABLE l i) true).irq calBlk 2) else s

/-- Whether an item's run converges (R214). -/
def converges (s : State) (cs : List Int) : Bool := largest cs ≤ s.get R.CAL_CFG_CONV

/-- One of items 0 to 4 of a lane at the end of a run: the corrections that it applies (R213 to R215, R220). -/
def judgeItem (l i : Nat) (a b : List Int) (s : State) : State × List Int :=
  if agrees s a b then
    let cs := stepCorrections a b
    let lim := cs.map (limitStep s)
    let s := recordPass (l * 6 + i) lim s
    let s := s.putCal l { s.cal l with fails := (s.cal l).fails.set i 0 }
    (if converges s cs then s.setB (R.CAL_LANE_STAT_FG_CONV l i) true else s, lim)
  else (recordFail l i s, [])

/-- FG_DONE follows the five FG_CONV bits (R220, R234). -/
def foregroundJudge (l : Nat) (s : State) : State :=
  if !s.getB (R.CAL_LANE_STAT_FG_DONE l) && (List.range 5).all fun i => s.getB (R.CAL_LANE_STAT_FG_CONV l i) then
    (s.setB (R.CAL_LANE_STAT_FG_DONE l) true).irq calBlk 1
  else s

/-- A run of items 0 to 4 ends: each item is judged, and the corrections wait to be applied (R212 to R218). -/
def endRun (l : Nat) (a b : List (List Int)) (s : State) : State :=
  let judge (p : State × List (List Int)) (i : Nat) : State × List (List Int) :=
    let r := judgeItem l i (a.getD i []) (b.getD i []) p.1
    (r.1, p.2 ++ [r.2])
  let r := (List.range 5).foldl judge (s, [])
  let cs := r.2
  let s := foregroundJudge l r.1
  let subOfs := if (cs.getD 3 []).isEmpty then [] else List.replicate 48 ((cs.getD 3 []).getD 0 0)
  let subGain := if (cs.getD 3 []).isEmpty then [] else List.replicate 48 ((cs.getD 3 []).getD 1 0)
  let subSkew := if (cs.getD 4 []).isEmpty then [] else List.replicate 48 ((cs.getD 4 []).getD 0 0)
  let busy := cs.any fun c => largest c != 0
  let s := s.putCal l { s.cal l with
    stage := if busy then 4 else 1, paused := true, sweepPaused := true, first := [], coreOfs := cs.getD 0 [],
    coreGain := cs.getD 1 [], coreSkew := cs.getD 2 [], subOfs := subOfs, subGain := subGain, subSkew := subSkew }
  (s.setB (R.CAL_LANE_STAT_MEASURING l) false).setB (R.CAL_LANE_STAT_APPLYING l) busy

/-- `n` free estimates of 24 bits, from the k-th free value on. -/
def freeEstimates (k n : Nat) : List Int := (List.range n).map fun i => toInt 24 (Config.freeValue (k + i) 24).toNat

/-- The estimates of a window of items 0 to 4; free values where what it accumulated gives none (R209, R210). -/
def laneEstimates (l : Nat) (s : State) : List (List Int) × State :=
  match windowEstimates (s.rate l) (s.cal l).cores (s.cal l).subs with
  | some est => (est, s)
  | none =>
    let k := s.freeCount
    ([freeEstimates k 96, freeEstimates (k + 96) 96, freeEstimates (k + 192) 96, freeEstimates (k + 288) 2,
      freeEstimates (k + 290) 1], { s with freeCount := k + 291 })

/-- A window of items 0 to 4 ends (R212, R216). -/
def adcWindow (l : Nat) (s : State) : State :=
  let stage := (s.cal l).stage
  if stage == 2 || stage == 3 then
    if !adcWindowOk s l then calDiscardAdc l s
    else
      let e := laneEstimates l s
      let s := e.2.putCal l (e.2.cal l).cleared
      if stage = 2 then s.putCal l { s.cal l with stage := 3, first := e.1 } else endRun l (s.cal l).first e.1 s
  else s

/-! ### The DAC sweep -/

/-- A correction beyond a trim's range saturates it: LIMIT (R231). -/
def calLimit (l i : Nat) (s : State) : State :=
  calEvent l i 1 ((s.setB (R.CAL_LANE_STAT_LIMIT l i) true).irq calBlk 3)

/-- The out cell's trim takes a correction in one step, at the end of the run and so at the record's time (R219, R231,
R233). -/
def cellCorrect (l : Nat) (c : Int) (s : State) : State :=
  let f := R.LTX_CELL_TRIM l (s.get (R.LTX_CELL_OUT_CELL l))
  let v := s.getI f + c
  let w := clampInt (-64) 63 v
  let s := s.setI f w
  if v = w then s else calLimit l 5 s

/-- A DAC_CELL run is judged; an expert-managed CAL applies nothing (R213, R219, R231). -/
def cellRun (l : Nat) (a b : Int) (s : State) : State :=
  if agrees s [a] [b] then
    let c := limitStep s (meanSteps a b)
    let s := recordPass (l * 6 + 5) [c] s
    let s := s.putCal l { s.cal l with fails := (s.cal l).fails.set 5 0 }
    if s.expert calBlk then s else cellCorrect l c s
  else recordFail l 5 s

/-- The start-up pass measures the out cell of a lane, once between two swaps, and trims it, unless CAL is
expert-managed (R211, R223, R231). -/
def passCell (l : Nat) (est : Int) (s : State) : State :=
  if (s.cal l).passMeasured then s
  else
    let s := s.putCal l { s.cal l with passMeasured := true }
    if s.expert calBlk then s else cellCorrect l (roundDiv est stepUnit) s

/-- Lanes are no longer in the start-up pass; one that was enabled before the pass had finished with it makes the pass a
partial one (R224). -/
def passRemove (ls : List Nat) (s : State) : State :=
  let c := s.calDev
  let partly := c.startupLeaves.any ls.contains
  let s := { s with calDev := { c with startupLanes := c.startupLanes.filter fun l => !ls.contains l,
                                       startupLeaves := c.startupLeaves.filter fun l => !ls.contains l } }
  if partly then s.setB R.CAL_STAT_STARTUP_PARTIAL true else s

/-- A lane that was enabled meanwhile leaves the start-up pass at a window boundary, with the trims reached (R224). -/
def passLeaves (l : Nat) (s : State) : State := if s.calDev.startupLeaves.contains l then passRemove [l] s else s

/-- A window of item 5 ends; after the second the run is judged and the sweep waits for its swap. In the start-up pass
one measurement trims the cell (R211, R223, R228). -/
def dacWindow (l : Nat) (est : Int) (s : State) : State :=
  let c := s.cal l
  if s.calDev.startupLanes.contains l then passLeaves l (passCell l est s)
  else if c.sweepStage == 2 || c.sweepStage == 3 then
    if !cellOk s l then calDiscardDac l s
    else if c.sweepStage = 2 then s.putCal l { c with sweepStage := 3, sweepFirst := est }
    else
      let s := cellRun l c.sweepFirst est s
      let left := c.sweepLeft - 1
      s.putCal l { s.cal l with sweepLeft := left, sweepStage := if left = 0 then 0 else 4,
                                paused := true, sweepPaused := true, sweepFirst := 0 }
  else s

/-- DAC_CELL_SWAP: the out cell returns and the next one leaves, in service after the run on the out cell and in the
start-up pass after its measurement, and at no other time (R211). -/
def dacCellSwapOp (l : Nat) (s : State) : State :=
  let c := s.cal l
  if (c.sweepStage == 4 && cellOk s l) || (s.calDev.startupLanes.contains l && c.passMeasured) then
    (s.putCal l { c with
      sweepStage := if c.sweepStage = 4 then 1 else c.sweepStage, passMeasured := false }).wrapInc
      (R.LTX_CELL_OUT_CELL l) 1
  else s

/-- A DAC sweep starts on a lane, unless one is in progress (R228). -/
def startSweep (l : Nat) (s : State) : State :=
  let c := s.cal l
  if s.getB (R.CAL_LANE_CFG_DAC_EN l) && c.sweepLeft = 0 && s.blkOn calBlk && !s.held then
    s.putCal l { c with sweepLeft := 16, sweepStage := 1 }
  else s

/-! ### REF_ANCHOR -/

/-- A REF_ANCHOR round starts, unless one is in progress (R226 to R228). -/
def startAnchor (s : State) : State :=
  if s.getB R.CAL_CFG_ANCHOR_EN && s.calDev.anchor = 0 && s.blkOn calBlk && !s.held then
    { s with calDev := { s.calDev with anchor := 1, anchorTaken := 0, anchorBad := false } }.setB
      R.CAL_STAT_ANCHOR_BUSY true
  else s

/-- A failed REF_ANCHOR run (R213, R215). -/
def anchorFail (s : State) : State :=
  let s := s.satInc (R.CAL_REC_D_DISAGREE 48) 1
  let n := s.calDev.anchorFails + 1
  let s := { s with calDev := { s.calDev with anchorFails := if n = 8 then 0 else n } }
  if n = 8 then calEvent 8 6 0 ((s.setB R.CAL_STAT_ANCHOR_UNSTABLE true).irq calBlk 2) else s

/-- A REF_ANCHOR run ends; `vref` is the deviation of VREF_EXT in 0.01 %. What it corrects is applied step by step, in
the start-up pass too (R213, R217, R223, R226, R227). -/
def anchorEnd (a b : Int × Int) (vref : Int) (s : State) : State :=
  let bad := 200 < vref.natAbs
  let s := { s with calDev := { s.calDev with anchor := 0 } }.setB R.CAL_STAT_ANCHOR_BUSY false
  let s := if bad then calEvent 8 6 2 ((s.setB R.CAL_STAT_VREF_BAD true).irq calBlk 4)
    else s.setB R.CAL_STAT_VREF_BAD false
  if agrees s [a.1, a.2] [b.1, b.2] then
    let apply := !bad && !s.expert calBlk && s.getB R.CAL_CFG_ANCHOR_EN
    let x := if bad then 0 else limitStep s (meanSteps a.1 b.1)
    let y := if bad then 0 else limitStep s (meanSteps a.2 b.2)
    let s := recordPass 48 [x, y] s
    let s := { s with calDev := { s.calDev with anchorFails := 0 } }
    if !apply then { s with calDev := { s.calDev with pendAdc := 0, pendDac := 0 } }
    else { s with calDev := { s.calDev with pendAdc := x, pendDac := y } }
  else anchorFail s

/-- A half of a REF_ANCHOR run ends once it has its 128 conversions of each kind; an unsettled one discards it (R226).
-/
def anchorWindow (a d vref : Int) (s : State) : State :=
  let c := s.calDev
  if c.anchor = 0 || c.anchorTaken < 256 then s
  else
    let s := { s with calDev := { c with anchorTaken := 0, anchorBad := false } }
    if c.anchorBad then { s.satInc (R.CAL_REC_X_DISCARD 48) 1 with calDev := { s.calDev with anchor := 1 } }
    else if c.anchor = 1 then { s with calDev := { s.calDev with anchor := 2, anchorFirst := (a, d) } }
    else anchorEnd c.anchorFirst (a, d) vref s

/-- A reference trim changed while a REF_ANCHOR run measures: the window is discarded and counted, and the run begins
again (R216). -/
def anchorDiscard (s : State) : State :=
  if s.calDev.anchor = 0 then s
  else { s.satInc (R.CAL_REC_X_DISCARD 48) 1 with
    calDev := { s.calDev with anchor := 1, anchorTaken := 0, anchorBad := false } }

/-- ANCHOR_EN = 0: a REF_ANCHOR run ends and CAL_REF_TRIM holds (R227). -/
def anchorStop (s : State) : State :=
  { s with calDev := { s.calDev with
    anchor := 0, anchorTaken := 0, anchorBad := false, pendAdc := 0, pendDac := 0 } }.setB R.CAL_STAT_ANCHOR_BUSY false

/-- A window of the start-up pass ends on a lane: the cores take the trims reached, unless LRX is expert-managed, and a
lane that was enabled meanwhile leaves (R79, R223, R224). -/
def passWindow (l : Nat) (core : List (List Int)) (s : State) : State :=
  if !s.calDev.startupLanes.contains l then s
  else
    let s := if s.expert ⟨.lrx, l⟩ then s else
      (List.zipIdx (core.take 96)).foldl (fun s p =>
        let s := s.setI (R.LRX_CORE_TRIM_OFFSET l p.2) (p.1.getD 0 0)
        let s := s.setI (R.LRX_CORE_TRIM_GAIN l p.2) (p.1.getD 1 0)
        s.setI (R.LRX_CORE_TRIM_SKEW l p.2) (p.1.getD 2 0)) s
    passLeaves l s

/-- CAL_WINDOW_END: a window of lane `l`, or of the device for 8, ends (R212 to R216, R223, R226). -/
def calWindowEndOp (l : Nat) (w : CalWindow) (s : State) : State :=
  match w with
  | .adc => if l < 8 then adcWindow l s else s
  | .dac est => if l < 8 then dacWindow l est s else s
  | .anchor a d vref => if l = 8 then anchorWindow a d vref s else s
  | .pass core => if l < 8 then passWindow l core s else s

/-- REF_ANCHOR_TIMEOUT: 10 ms without all conversions discard the run (R226). -/
def refAnchorTimeoutOp (s : State) : State :=
  if s.calDev.anchor = 0 then s
  else
    let s := { s with calDev := { s.calDev with anchor := 0 } }
    (s.satInc (R.CAL_REC_X_DISCARD 48) 1).setB R.CAL_STAT_ANCHOR_BUSY false

/-! ### Gradual application -/

/-- One step toward zero of a pending correction. -/
def oneStep (c : Int) : Int := if 0 < c then c - 1 else if c < 0 then c + 1 else 0

/-- A trim of `w` bits moves by one step of a pending correction; at the end of its range the rest is dropped, and
`true` says so (R217, R231). -/
def trimStep (f : Fld) (c : Int) (s : State) : State × Int × Bool :=
  if c = 0 then (s, 0, false)
  else
    let v := s.getI f + (if 0 < c then 1 else -1)
    if toInt f.w (ofInt f.w v) = v then (s.setI f v, oneStep c, false) else (s, 0, true)

/-- What one boundary does to one kind of trim: the corrections that are left of the core item and of the
sub-converter item, whether a step of each was applied, and whether each met the end of a range. -/
structure CoreStep where
  core : List Int
  sub : List Int
  coreMoved : Bool
  subMoved : Bool
  coreLimit : Bool
  subLimit : Bool
  deriving DecidableEq, Repr

/-- One core's trim moves by at most one step, the sub-converter item's before the core item's (R217). -/
def coreStep (f : Nat → Fld) (core sub : List Int) (p : State × CoreStep) (i : Nat) : State × CoreStep :=
  let a := core.getD i 0
  let b := if i < 48 then 0 else sub.getD (i - 48) 0
  let r := trimStep (f i) (if b = 0 then a else b) p.1
  let d := p.2
  (r.1, { core := d.core ++ [if b = 0 then r.2.1 else a]
          sub := if i < 48 then d.sub else d.sub ++ [if b = 0 then 0 else r.2.1]
          coreMoved := d.coreMoved || (b == 0 && a != 0 && !r.2.2)
          subMoved := d.subMoved || (b != 0 && !r.2.2)
          coreLimit := d.coreLimit || (b == 0 && r.2.2)
          subLimit := d.subLimit || (b != 0 && r.2.2) })

/-- Item i of a lane applies a step: the time of its record (R233). -/
def stepTime (l i : Nat) (moved : Bool) (s : State) : State :=
  if moved then s.set (R.CAL_REC_T_TIME (l * 6 + i)) (reportedTime s.now false) else s

/-- One trim of every core moves by at most one step; `items` are the core item and the sub-converter item. An item's
record takes the time where a step of it is applied (R217, R231, R233). -/
def coreSteps (l : Nat) (f : Nat → Fld) (items : Nat × Nat) (core sub : List Int) (s : State) :
    State × List Int × List Int :=
  let r := (List.range 96).foldl (coreStep f core sub) (s, ⟨[], [], false, false, false, false⟩)
  let d := r.2
  let s := stepTime l items.2 d.subMoved (stepTime l items.1 d.coreMoved r.1)
  let s := if d.coreLimit then calLimit l items.1 s else s
  (if d.subLimit then calLimit l items.2 s else s, d.core, d.sub)

/-- Whether corrections may be applied on a lane (R218). -/
def applyOk (s : State) (l : Nat) : Bool :=
  (s.laneCode l == 2 || s.laneCode l == 3) && s.getB (R.REQ_STAT_TR_LOCK l) && !s.expert ⟨.lrx, l⟩
    && s.blkState calBlk == 2 && !s.held

/-- One boundary of gradual application on a lane; the new pair of windows begins at the boundary after the last step
(R217, R218). -/
def applyLane (l : Nat) (s : State) : State :=
  let c := s.cal l
  if c.stage != 4 then s
  else if !applyOk s l then calStopApplying l s
  else
    let a := coreSteps l (R.LRX_CORE_TRIM_OFFSET l) (0, 3) c.coreOfs c.subOfs s
    let b := coreSteps l (R.LRX_CORE_TRIM_GAIN l) (1, 3) c.coreGain c.subGain a.1
    let d := coreSteps l (R.LRX_CORE_TRIM_SKEW l) (2, 4) c.coreSkew c.subSkew b.1
    let busy := [a.2.1, a.2.2, b.2.1, b.2.2, d.2.1, d.2.2].any fun cs => largest cs != 0
    (d.1.putCal l { d.1.cal l with
      stage := if busy then 4 else 5, coreOfs := a.2.1, subOfs := a.2.2, coreGain := b.2.1, subGain := b.2.2,
      coreSkew := d.2.1, subSkew := d.2.2 }).setB (R.CAL_LANE_STAT_APPLYING l) busy

/-- One step of the two reference trims; an expert-managed CAL applies nothing, and the rest is dropped. A step spoils
the window of a REF_ANCHOR run in progress, and the record takes its time (R216, R217, R231, R233). -/
def applyDevice (s : State) : State :=
  let s := if s.expert calBlk then { s with calDev := { s.calDev with pendAdc := 0, pendDac := 0 } } else s
  let c := s.calDev
  let a := trimStep R.CAL_REF_TRIM_ADC_REF c.pendAdc s
  let b := trimStep R.CAL_REF_TRIM_DAC_REF c.pendDac a.1
  let s := { b.1 with calDev := { b.1.calDev with pendAdc := a.2.1, pendDac := b.2.1 } }
  let moved := (c.pendAdc != 0 && !a.2.2) || (c.pendDac != 0 && !b.2.2)
  let s := if moved then anchorDiscard (s.set (R.CAL_REC_T_TIME 48) (reportedTime s.now false)) else s
  if a.2.2 || b.2.2 then calEvent 8 6 1 ((s.setB R.CAL_STAT_ANCHOR_LIMIT true).irq calBlk 3) else s

/-- Every trim, in the order of `CalDev.saved`. -/
def trimFields : List Fld :=
  (List.range 8).flatMap (fun l => (List.range 96).flatMap fun c =>
    [R.LRX_CORE_TRIM_OFFSET l c, R.LRX_CORE_TRIM_GAIN l c, R.LRX_CORE_TRIM_SKEW l c])
  ++ (List.range 8).flatMap (fun l => (List.range 16).map fun c => R.LTX_CELL_TRIM l c)
  ++ [R.CAL_REF_TRIM_ADC_REF, R.CAL_REF_TRIM_DAC_REF]

/-- The trims in use are written to the older copy of the calibration area of Granary (R223, R225, R427). -/
def saveTrims (s : State) : State :=
  recordPut 4 (0x600000 + 0x20000 * (1 - s.calDev.copy)) 0x4000 (.trims (trimFields.map s.get))
    { s with calDev := { s.calDev with saving := false } }

/-- The trims are loaded from Granary, or take their reset values where it holds no valid record (R223). -/
def loadTrims (s : State) : State :=
  match s.calDev.saved with
  | some vs => (trimFields.zip vs).foldl (fun s p => s.set p.1 p.2) s
  | none => trimFields.foldl (fun s f => s.set f f.rst) s

/-- Lane `l` at a superframe boundary that CAL_APPLY_STEP marks: a step, or the begin of a run whose predecessor had its
last step at the boundary before (R217, R218). -/
def laneBoundary (l : Nat) (s : State) : State :=
  let c := s.cal l
  if c.stage = 4 then applyLane l s
  else if c.stage = 5 then calRunBegin l (s.putCal l { c with stage := 1 })
  else calRxBoundary l s

/-- CAL_APPLY_STEP: at a superframe boundary each pending trim of lane `l`, or of the device for 8, moves by one step,
and a save that waits takes the values in use (R217, R225). -/
def calApplyStepOp (l : Nat) (s : State) : State :=
  let s := if l = 8 then applyDevice s else laneBoundary l s
  if s.calDev.saving then saveTrims s else s

/-! ### Start-up pass and saving -/

/-- The level that PWR_PL_CFG selects is requested once the configuration applies (R381, R382). -/
def levelApply (s : State) : State := if s.levelCfgApplies then requestLevel s.cfgLevel s else s

/-- CAL_STARTUP_DONE: the pass ends with the trims reached and writes all of them to Granary; a lane that has still to
leave it leaves now (R223, R224, R382). -/
def calStartupDoneOp (s : State) : State :=
  if s.calDev.startup then
    let s := passRemove (List.range 8) s
    let s := saveTrims { s with calDev := { s.calDev with startup := false } }
    levelApply ((s.setB R.CAL_STAT_STARTUP_DONE true).irq calBlk 0)
  else s

/-- CAL_SAVE: refused while a save is in progress (R225). -/
def calSaveOp (s : State) : State :=
  if s.getB R.CAL_STAT_SAVE_BUSY then s.conflict calBlk
  else { s with calDev := { s.calDev with saving := true } }.setB R.CAL_STAT_SAVE_BUSY true

/-- CAL_SAVE_DONE: NVS has written the save's last word (R225, R427). -/
def calSaveDoneOp (s : State) : State :=
  if s.getB R.CAL_STAT_SAVE_BUSY && !s.calDev.saving && !s.nvsHas 4 then
    (s.setB R.CAL_STAT_SAVE_BUSY false).irq calBlk 5
  else s

/-! ### Scheduling -/

/-- Background work starts on every lane that wants it and on the device. TEMP_TRIG counts from here: from every start
that an interval, an alarm or the temperature gives, also one that finds the work in progress, and not from CAL_RUN or
CAL_ANCHOR (R228; DESIGN CHOICE, log entry 231). -/
def startBackground (s : State) : State :=
  let s := { s with calDev := { s.calDev with startTemp := s.getI R.THM_CENTRAL_T } }
  startAnchor ((List.range 8).foldl (fun s l => startSweep l s) s)

/-- Some background work is in progress. -/
def State.backgroundBusy (s : State) : Bool :=
  s.calDev.anchor != 0 || (List.range 8).any fun l => (s.cal l).sweepLeft != 0

/-- CAL_INTERVAL_EXPIRY (R228). -/
def calIntervalExpiryOp (s : State) : State :=
  if !s.getB R.CAL_SCHED_MODE && s.blkOn calBlk then startBackground s else s

/-- Alarm k fires at the Gleaner (R228). -/
def calAlarm (k : Nat) (s : State) : State :=
  if s.getB R.CAL_SCHED_MODE && s.get R.CAL_SCHED_ALARM = k && s.blkOn calBlk then
    startBackground (if s.backgroundBusy then s.satInc R.CAL_ROUND_OVERLAP_COUNT 1 else s)
  else s

/-- The central temperature has moved beyond TEMP_TRIG since the last start (R228). -/
def calTempTrigger (s : State) : State :=
  if !s.getB R.CAL_SCHED_MODE && s.blkOn calBlk && s.get R.CAL_CFG_TEMP_TRIG != 0
      && 8 * s.get R.CAL_CFG_TEMP_TRIG < (s.getI R.THM_CENTRAL_T - s.calDev.startTemp).natAbs then
    startBackground s
  else s

/-- CAL_RUN: bit l of `lanes` starts a DAC sweep on lane l (R228). -/
def calRunOp (lanes : Nat) (s : State) : State :=
  (List.range 8).foldl (fun s l => if bitAt lanes l = 1 then startSweep l s else s) s

/-- CAL_ANCHOR (R228). -/
def calAnchorOp (s : State) : State := startAnchor s

/-- Every run ends, the start-up pass too, and pending corrections are dropped: trims hold until the next pass (R231).
-/
def calHalt (s : State) : State :=
  let s := (List.range 8).foldl (fun s l =>
    let s := calRunStop l (calStopApplying l s)
    s.putCal l { s.cal l with stage := 0, sweepLeft := 0, sweepStage := 0, sweepFirst := 0 }) s
  let s := anchorStop s
  { s with calDev := { s.calDev with startup := false, startupLanes := [], startupLeaves := [] } }

/-- The sweep of a lane ends at its next superframe boundary (R231, R232). -/
def sweepStop (l : Nat) (s : State) : State :=
  let c := s.cal l
  s.putCal l { c with sweepStage := if c.sweepLeft = 0 then 0 else 6 }

/-- CAL stops: application stops at once, runs of a lane end at its next superframe boundary, a REF_ANCHOR run at
once, and FG_CONV and FG_DONE of every lane are cleared. The start-up pass measures and trims no lane further (R218,
R220, R231; log entry 232). -/
def calStop (s : State) : State :=
  let s := anchorStop ((List.range 8).foldl (fun s l =>
    let s := sweepStop l (calClearFg l (calStopApplying l s))
    s.putCal l { s.cal l with stage := if (s.cal l).stage = 0 then 0 else 6 }) s)
  { s with calDev := { s.calDev with startupLanes := [], startupLeaves := [] } }

/-- A write of CAL_LANE_CFG: items 0 to 4 follow it, and a sweep in progress ends with DAC_EN = 0 (R232). -/
def laneCfgFollow (l : Nat) (s : State) : State :=
  let s := calRefresh l s
  if s.getB (R.CAL_LANE_CFG_DAC_EN l) then s else sweepStop l s

/-- CAL_REC_SELECT: the selected record is copied; an invalid selection is refused (R233). -/
def calRecSelectOp (lane item : Nat) (s : State) : State :=
  if (lane < 8 && item < 6) || (lane = 8 && item = 6) then
    let r := if lane = 8 then 48 else lane * 6 + item
    let s := (s.set R.CAL_REC_SEL_LANE lane).set R.CAL_REC_SEL_ITEM item
    [(R.CAL_REC_RUNS_COUNT, R.CAL_REC_RUNS r), (R.CAL_REC_APPLIED_COUNT, R.CAL_REC_A_APPLIED r),
     (R.CAL_REC_DISAGREE_COUNT, R.CAL_REC_D_DISAGREE r), (R.CAL_REC_DISCARD_COUNT, R.CAL_REC_X_DISCARD r),
     (R.CAL_REC_LAST_STEP, R.CAL_REC_L_STEP r), (R.CAL_REC_LAST_VALID, R.CAL_REC_L_VALID r),
     (R.CAL_REC_TIME_TIME, R.CAL_REC_T_TIME r)].foldl (fun s p => s.set p.1 (s.get p.2)) s
  else s.conflict calBlk

/-! ### Meanings -/

/-- CAL_WINDOW_END (R212). -/
def execCalWindowEnd (lane : Fin 9) (w : CalWindow) (s : State) : Host.Outcome State Fault Refusal :=
  done (calWindowEndOp lane.val w s)

/-- CAL_APPLY_STEP (R217). -/
def execCalApplyStep (lane : Fin 9) (s : State) : Host.Outcome State Fault Refusal :=
  done (calApplyStepOp lane.val s)

/-- DAC_CELL_SWAP (R211). -/
def execDacCellSwap (l : Lane) (s : State) : Host.Outcome State Fault Refusal :=
  done (dacCellSwapOp l.val s)

/-- CAL_STARTUP_DONE (R223). -/
def execCalStartupDone (s : State) : Host.Outcome State Fault Refusal :=
  done (calStartupDoneOp s)

/-- CAL_SAVE (R225). -/
def execCalSave (s : State) : Host.Outcome State Fault Refusal :=
  done (calSaveOp s)

/-- CAL_SAVE_DONE (R225). -/
def execCalSaveDone (s : State) : Host.Outcome State Fault Refusal :=
  done (calSaveDoneOp s)

/-- REF_ANCHOR_TIMEOUT (R226). -/
def execRefAnchorTimeout (s : State) : Host.Outcome State Fault Refusal :=
  done (refAnchorTimeoutOp s)

/-- CAL_INTERVAL_EXPIRY (R228). -/
def execCalIntervalExpiry (s : State) : Host.Outcome State Fault Refusal :=
  done (calIntervalExpiryOp s)

/-- CAL_RUN (R228). -/
def execCalRun (lanes : Byte) (s : State) : Host.Outcome State Fault Refusal :=
  done (calRunOp lanes.toNat s)

/-- CAL_ANCHOR (R228). -/
def execCalAnchor (s : State) : Host.Outcome State Fault Refusal :=
  done (calAnchorOp s)

/-- CAL_REC_SELECT (R233). -/
def execCalRecSelect (lane : BitVec 4) (item : BitVec 3) (s : State) : Host.Outcome State Fault Refusal :=
  done (calRecSelectOp lane.toNat item.toNat s)

end Sys2Proof.Machine
end

