-- ==== Sys2Proof/Machine/Optics.lean ====
section
/-!
DEFINITION. Optics control: the monitor converters, the filter chains with their limit comparators and trips, and the
control DACs (R301 to R333).
-/

namespace Sys2Proof.Machine

open Sys2Proof

def State.chain (s : State) (c : Nat) : FilterChain := s.chains[c]?.getD FilterChain.reset
def State.putChain (s : State) (c : Nat) (x : FilterChain) : State := { s with chains := s.chains.setIfInBounds c x }
def State.dac (s : State) (n : Nat) : DacChannel := s.dacs[n]?.getD DacChannel.reset
def State.putDac (s : State) (n : Nat) (x : DacChannel) : State := { s with dacs := s.dacs.setIfInBounds n x }

/-! ### Control DACs -/

/-- The CAUSE bits of a channel (R325). -/
def cdacCauses (s : State) (n : Nat) : Nat :=
  s.get (R.CDAC_CH_STAT_CAUSE_THERMAL n) + 2 * s.get (R.CDAC_CH_STAT_CAUSE_LOCKDOWN n)
    + 4 * s.get (R.CDAC_CH_STAT_CAUSE_TRIP n) + 8 * s.get (R.CDAC_CH_STAT_CAUSE_SOFT n)

/-- The CAUSE bit of a cause: 0 THERMAL, 1 LOCKDOWN, 2 TRIP, 3 SOFT (R325). -/
def cdacCause (n : Nat) : Nat → Fld
  | 0 => R.CDAC_CH_STAT_CAUSE_THERMAL n
  | 1 => R.CDAC_CH_STAT_CAUSE_LOCKDOWN n
  | 2 => R.CDAC_CH_STAT_CAUSE_TRIP n
  | _ => R.CDAC_CH_STAT_CAUSE_SOFT n

/-- The state of a channel: 0 CLAMPED, 1 ACTIVE, 2 HOLD, 3 SPAN_CHG, 4 FAULT (R319). -/
def State.cdacState (s : State) (n : Nat) : Nat := s.get (R.CDAC_CH_STAT_STATE n)

/-- The code of 10^-5 code units that is applied: one that the output has reached (R322). -/
def codeOf (pos : Int) (up : Bool) : Nat :=
  (clampInt 0 65535 (if up then pos / 100000 else -(-pos / 100000))).toNat

/-- The output of a channel moves in one step to a code, and no ramp is in progress (R323). -/
def cdacJump (n code : Nat) (s : State) : State :=
  let s := s.putDac n { s.dac n with pos := (code : Int) * 100000, target := code, safe := false }
  (s.set (R.CDAC_CH_STAT_OUT n) code).setB (R.CDAC_CH_STAT_RAMPING n) false

/-- The slew of a channel in 10^-5 code per µs, 0 for no limit; U1 has the finer code (R318, R323). -/
def slewStep (slew span : Nat) : Nat :=
  ([0, 262144, 655360, 1310720, 2621440, 5242880, 13107200, 26214400].getD slew 0) * (if span = 0 then 2 else 1)

/-- A ramp from the present output to a code begins; without a slew limit it is one step (R322, R323). -/
def cdacRampTo (n code : Nat) (s : State) : State :=
  let d := s.dac n
  if s.get (R.CDAC_CH_CFG_SLEW n) = 0 || d.pos = (code : Int) * 100000 then cdacJump n code s
  else (s.putDac n { d with target := code, safe := false }).setB (R.CDAC_CH_STAT_RAMPING n) true

/-- The channel enters FAULT: the output steps to the fault value, FAULT is raised and the TRIP event is written
(R325). -/
def cdacEnterFault (n comp : Nat) (s : State) : State :=
  let s := cdacJump n (s.get (R.CDAC_FV_CODE n)) (s.set (R.CDAC_CH_STAT_STATE n) 4)
  (s.irq (dev .cdac) 0).event (dev .cdac) n 0x0B (cdacCauses s n + 256 * comp)

/-- A fault cause arises at a channel; `comp` is the comparator of a trip (R325, R327). -/
def cdacFault (n cause : Nat) (comp : Option Nat) (s : State) : State :=
  let s := s.setB (cdacCause n cause) true
  if s.cdacState n = 4 then s
  else if s.cdacState n = 0 then
    s.putDac n { s.dac n with comp := if (s.dac n).comp.isNone then comp else (s.dac n).comp }
  else cdacEnterFault n (comp.getD 0xFF) s

/-- A fault cause arises at every channel: 0 THERMAL, 1 LOCKDOWN (R325). -/
def cdacFaultAll (cause : Nat) (s : State) : State := (List.range 48).foldl (fun s n => cdacFault n cause none s) s

/-- The output at 0 V, or at 0 mA for I1, in 10^-5 of a code of a span (R318, R320). -/
def zeroVolt (span : Nat) : Int := if span = 2 then -1048576000 else 0

/-- The clamp of a channel is released: FAULT at once if a cause is present, else a ramp from 0 V (R320, R325). -/
def cdacRelease (n code : Nat) (s : State) : State :=
  let d := s.dac n
  let s := s.putDac n { d with pos := zeroVolt (s.get (R.CDAC_CH_CFG_SPAN n)), comp := none }
  if cdacCauses s n != 0 then cdacEnterFault n (d.comp.getD 0xFF) s
  else cdacRampTo n code (s.set (R.CDAC_CH_STAT_STATE n) 1)

/-- One channel takes its row of the table: SPAN, SLEW, power-up value and fault value (R320). -/
def cdacLoadRow (n : Nat) (row : Nat × Nat × Nat × Nat) (s : State) : State :=
  let s := (s.set (R.CDAC_CH_CFG_SPAN n) row.1).set (R.CDAC_CH_CFG_SLEW n) row.2.1
  let s := (s.set (R.CDAC_PU_CODE n) row.2.2.1).set (R.CDAC_FV_CODE n) row.2.2.2
  cdacRelease n (s.get (R.CDAC_PU_CODE n)) (s.set (R.CDAC_CODE_CODE n) row.2.2.1)

/-- The table that Granary's area holds, if it is a valid one (R320, R426; log entry 108). -/
def State.cdacTable (s : State) : Option (List (Nat × Nat × Nat × Nat)) :=
  (Config.cdacTable ((List.range 0x1000).map fun i => BitVec.ofNat 8 (s.byteAt (granaryBase + 0x6D5000 + i)))).filter
    (·.length == 48)

/-- CDAC_TABLE_LOAD: the load from Granary ends, with the table its area holds if it could be read and is valid (R320,
R328). -/
def cdacTableLoadOp (readable : Bool) (s : State) : State :=
  if s.coldAsserted || s.power == 3 || s.getB R.CDAC_STAT_LOADED then s
  else
    let table := if readable then s.cdacTable else none
    let s := (s.setB R.CDAC_STAT_LOADED true).irq (dev .cdac) 2
    match table with
    | none => (s.setB R.CDAC_STAT_TABLE_OK false).irq (dev .cdac) 1
    | some rows => (List.range 48).foldl (fun s n => cdacLoadRow n (rows.getD n (0, 4, 0, 0)) s)
        (s.setB R.CDAC_STAT_TABLE_OK true)

/-- CDAC_RUN (R321). -/
def cdacRunOp (n : Nat) (s : State) : State :=
  let code := s.get (R.CDAC_CODE_CODE n)
  if s.cdacState n = 2 then cdacRampTo n code (s.set (R.CDAC_CH_STAT_STATE n) 1)
  else if s.cdacState n = 0 && !s.getB R.CDAC_STAT_TABLE_OK && s.getB R.CDAC_STAT_LOADED then cdacRelease n code s
  else s.conflict (dev .cdac)

/-- CDAC_HOLD: a ramp in progress stops where it is, below the span's lowest code too (R321). -/
def cdacHoldOp (n : Nat) (s : State) : State :=
  if s.cdacState n = 1 then
    let s := s.set (R.CDAC_CH_STAT_STATE n) 2
    if (s.dac n).pos < 0 then s.setB (R.CDAC_CH_STAT_RAMPING n) false
    else cdacJump n (s.get (R.CDAC_CH_STAT_OUT n)) s
  else s.conflict (dev .cdac)

/-- CDAC_FAULT: cause SOFT, in every state but CLAMPED (R321). -/
def cdacFaultOp (n : Nat) (s : State) : State :=
  if s.cdacState n = 0 then s.conflict (dev .cdac) else cdacFault n 3 none s

/-- Whether a comparator that TRIP_MASK names has TRIPPED = 1 (R326). -/
def State.cdacTripped (s : State) (n : Nat) : Bool :=
  (List.range 16).any fun k => bitAt (s.get (R.CDAC_CH_CFG_TRIP_MASK n)) k == 1
    && s.getB (R.MFIL_LIM_CFG_TRIPPED (k / 2) (k % 2))

/-- CDAC_CLEAR (R321, R326). -/
def cdacClearOp (n : Nat) (s : State) : State :=
  if s.cdacState n = 4 && cdacCauses s n % 4 = 0 && !s.cdacTripped n then
    ((s.setB (R.CDAC_CH_STAT_CAUSE_TRIP n) false).setB (R.CDAC_CH_STAT_CAUSE_SOFT n) false).set
      (R.CDAC_CH_STAT_STATE n) 2
  else s.conflict (dev .cdac)

/-- CDAC_CODE_WRITE: an ACTIVE channel retargets from its present output; else the code is stored (R322). -/
def cdacCodeWriteOp (n code : Nat) (s : State) : State :=
  let s := s.set (R.CDAC_CODE_CODE n) code
  if s.cdacState n = 1 then
    let d := s.dac n
    let s := if s.getB (R.CDAC_CH_STAT_RAMPING n) && 0 ≤ d.pos then
      s.putDac n { d with pos := (s.get (R.CDAC_CH_STAT_OUT n) : Int) * 100000 } else s
    cdacRampTo n (s.get (R.CDAC_CODE_CODE n)) s
  else s

/-- A ramp has reached its code; a span change ends in HOLD (R322, R324). -/
def cdacArrive (n : Nat) (s : State) : State :=
  let s := cdacJump n (s.dac n).target s
  if s.cdacState n = 3 then s.set (R.CDAC_CH_STAT_STATE n) 2 else s

/-- CDAC_RAMP_STEP: the output moves on by one µs at the slew limit (R323). -/
def cdacRampStepOp (n : Nat) (s : State) : State :=
  if s.getB (R.CDAC_CH_STAT_RAMPING n) then
    let d := s.dac n
    let goal : Int := (d.target : Int) * 100000
    let step : Int := slewStep (s.get (R.CDAC_CH_CFG_SLEW n)) (s.get (R.CDAC_CH_CFG_SPAN n))
    let up := d.pos < goal
    if step = 0 || (goal - d.pos).natAbs ≤ step then cdacArrive n s
    else
      let pos := if up then d.pos + step else d.pos - step
      (s.putDac n { d with pos := pos }).set (R.CDAC_CH_STAT_OUT n) (codeOf pos up)
  else s

/-- CDAC_SPAN_WRITE: a write of CDAC_CH_CFG_n. SPAN changes only in HOLD, and to I1 only on channels 32–47; the
other fields take their values (R318, R324). -/
def cdacSpanWriteOp (n v : Nat) (s : State) : State :=
  let s := (s.set (R.CDAC_CH_CFG_SLEW n) (bits v 4 3)).set (R.CDAC_CH_CFG_TRIP_MASK n) (bits v 16 16)
  let span := bits v 0 2
  if span = s.get (R.CDAC_CH_CFG_SPAN n) then s
  else if s.cdacState n != 2 || (span == 3 && n < 32) then s.conflict (dev .cdac)
  else
    let s := (s.set (R.CDAC_CH_CFG_SPAN n) span).set (R.CDAC_CH_STAT_STATE n) 3
    let s := cdacJump n (if span = 2 then 32768 else 0) s
    s.putDac n { s.dac n with safe := true }

/-- CDAC_SPAN_HOLD_END: the output ramps from the safe level to the stored CODE (R324). -/
def cdacSpanHoldEndOp (n : Nat) (s : State) : State :=
  if s.cdacState n = 3 && (s.dac n).safe then
    let s := cdacRampTo n (s.get (R.CDAC_CODE_CODE n)) s
    if s.getB (R.CDAC_CH_STAT_RAMPING n) then s else s.set (R.CDAC_CH_STAT_STATE n) 2
  else s

/-- VMID in mV, while VDD_DAC is good and POR is released, and off in TIMEKEEP (R318, R329, R400). -/
def State.vmid (s : State) : Option Nat :=
  if s.resets.por || s.resets.timekeep || s.power == 3 || !s.getB (R.PWR_RAIL_STAT_OK 3) then none else some 1650

/-- CDAC_OUT[n], 0 while the channel is clamped: for U1, U2 and B1 in 10^-5 of 1.25 V / 65,536, above AGND; for I1 in
10^-5 of 20 mA / 65,536 (R318, R319). -/
def State.cdacOut (s : State) (n : Nat) : Int :=
  let d := s.dac n
  let code := if d.pos < 0 then d.pos else (s.get (R.CDAC_CH_STAT_OUT n) : Int) * 100000
  let span := s.get (R.CDAC_CH_CFG_SPAN n)
  if s.cdacState n = 0 then 0
  else if span = 1 then 2 * code
  else if span = 2 then 8650752000 + 2 * (code - 3276800000)
  else code

/-- CDAC_FV_WRITE: the fault value in use changes, and a faulted output steps to it (R327, R328). -/
def cdacFvWriteOp (n code : Nat) (s : State) : State :=
  let s := s.set (R.CDAC_FV_CODE n) code
  if s.cdacState n = 4 then cdacJump n (s.get (R.CDAC_FV_CODE n)) s else s

/-- Every channel is clamped, as at COLD and in TIMEKEEP (R319, R329). -/
def cdacClampAll (s : State) : State :=
  let s := (List.range 48).foldl (fun s n => ((s.set (R.CDAC_CH_STAT_STATE n) 0).set (R.CDAC_CH_STAT_OUT n) 0).setB
    (R.CDAC_CH_STAT_RAMPING n) false) s
  { (s.setB R.CDAC_STAT_LOADED false).setB R.CDAC_STAT_TABLE_OK false with
    dacs := Vector.replicate 48 DacChannel.reset }

/-! ### Filter chains -/

/-- The decimation ratio, the filter length and the output width of a preset (R308). -/
def presetOf (p : Nat) : Nat × Nat × Nat :=
  if p = 0 then (8, 24, 18) else if p = 1 then (64, 160, 20) else (1024, 2600, 24)

/-- The number of inputs that stage 1 looks at (R307). -/
def stage1Len (s : State) (c : Nat) : Nat :=
  if s.getB (R.MFIL_CFG_S1_MODE c) then s.get (R.MFIL_CFG_MA_LEN c) + 1 else 5

/-- Twice the group delay of stages 1 and 2, in input periods (R312). -/
def chainDelay2 (s : State) (c : Nat) : Nat :=
  let one := if s.getB (R.MFIL_CFG_S1_MODE c) then s.get (R.MFIL_CFG_MA_LEN c) else 4
  let p := s.get (R.MFIL_CFG_PRESET c)
  one + (if s.getB (R.MFIL_CFG_MINPH c) then (if p = 0 then 9 else if p = 1 then 64 else 1040)
    else if p = 0 then 23 else if p = 1 then 159 else 2599)

/-- The chain receives the conversions of the pair (R304). -/
def State.pairOf (s : State) (c : Nat) : Bool := s.getB R.MADC_CFG_PAIR && s.get R.MADC_CFG_PAIR_CHAIN == c

/-- Half the input period of a chain in 2^-16 ns (R303, R304). -/
def halfPeriod (s : State) (c : Nat) : Nat :=
  if s.pairOf c then 125 * 65536 else 250 * 65536 * 2 ^ s.get (R.MFIL_CFG_DIV c)

/-- The settling count of a chain (R313). -/
def settleCount (s : State) (c : Nat) : Nat :=
  let p := presetOf (s.get (R.MFIL_CFG_PRESET c))
  stage1Len s c - 1 + p.2.1 + (if s.getB (R.MFIL_GRID_RES_EN c) then 7 * p.1 else 0)

/-- The quotient rounded to nearest, halves to even (R309). -/
def roundEven (a : Int) (b : Nat) : Int :=
  let q := a / b
  let r := a - q * b
  if 2 * r < b then q else if (b : Int) < 2 * r then q + 1 else if q % 2 = 0 then q else q + 1

/-- An integer put in its place in a rising list. -/
def insertInt (x : Int) : List Int → List Int
  | [] => [x]
  | y :: ys => if x ≤ y then x :: y :: ys else y :: insertInt x ys

/-- The middle of five values. -/
def median5 (xs : List Int) : Int := (xs.foldl (fun acc x => insertInt x acc) []).getD 2 0

/-- The stage-1 output, in 1/16 input LSB, for the inputs newest first (R307). -/
def stage1Of (average : Bool) (n : Nat) (xs : List Int) : Int :=
  let ys := xs.take n ++ List.replicate (n - xs.length) 0
  if average then roundEven (16 * ys.foldl (· + ·) 0) n else 16 * median5 ys

/-- The half of a symmetrical filter of gain 1 that Config leaves open: the middle coefficient makes up the sum
(R308). -/
def linearHalf (p : Nat) : List Int :=
  let h := (List.range ((presetOf p).2.1 / 2 - 1)).map fun i => (Config.firLinear p i).toInt
  h ++ [2 ^ 23 - h.foldl (· + ·) 0]

/-- The coefficients of a stage-2 filter in 2^-24, newest sample first; their sum is 1 (R308). -/
def firTaps (p : Nat) (minph : Bool) : List Int :=
  if minph then
    let h := (List.range ((presetOf p).2.1 - 1)).map fun i => (Config.firMinimum p i).toInt
    (2 ^ 24 - h.foldl (· + ·) 0) :: h
  else linearHalf p ++ (linearHalf p).reverse

/-- The FIR filter of stage 2, in output LSB, for the stage-1 values in 1/16 input LSB, newest first (R308, R309). -/
def stage2Fir (p : Nat) (minph : Bool) (h : List Int) : Int :=
  roundEven (dot (firTaps p minph) h * 2 ^ (presetOf p).2.2) (2 ^ 44)

/-- The stage-2 output for the stage-1 history, kept within the width (R308). -/
def stage2Of (s : State) (c : Nat) (h : List Int) : Int :=
  let p := s.get (R.MFIL_CFG_PRESET c)
  let w := (presetOf p).2.2
  clampInt (-(2 ^ (w - 1) : Nat)) ((2 ^ (w - 1) : Nat) - 1) (stage2Fir p (s.getB (R.MFIL_CFG_MINPH c)) h)

/-- A conversion enters a chain (R307, R308, R311, R313, R314). -/
def chainInput (c code : Nat) (stamp : Nat) (s : State) : State :=
  let x := s.chain c
  let p := presetOf (s.get (R.MFIL_CFG_PRESET c))
  let n := stage1Len s c
  let resample := s.getB (R.MFIL_GRID_RES_EN c)
  let inputs := (((code : Int) - 32768) :: x.inputs).take n
  let stage1 := (stage1Of (s.getB (R.MFIL_CFG_S1_MODE c)) n inputs :: x.stage1).take p.2.1
  let window := n - 1 + p.2.1
  let tagLeft := if s.getB R.MADC_REF_SETTLED then x.tagLeft - 1 else window
  let x := { x with inputs := inputs, stage1 := stage1, got := x.got + 1, tagLeft := tagLeft }
  if x.got % p.1 = 0 then
    let out : FilterOut :=
      { v := stage2Of s c stage1, time := (stamp : Int) - chainDelay2 s c * halfPeriod s c,
        valid := s.getB R.TIM_STAT_FINE_READY, tagged := 0 < tagLeft }
    if settleCount s c ≤ x.got then s.putChain c { x with ready := x.ready ++ [out] }
    else if resample then s.putChain c { x with past := (out :: x.past).take 8 }
    else s.putChain c x
  else s.putChain c x

/-- A change of a chain: its filter state and its result are cleared, and it settles afresh (R313). -/
def chainChange (c : Nat) (s : State) : State :=
  let s := s.putChain c { FilterChain.reset with runs := (s.chain c).runs }
  let s := ((s.setB (R.MFIL_RES_VALID c) false).setB (R.MFIL_RES_NEW c) false).setB (R.MFIL_RES_OVR c) false
  s.setB (R.MFIL_STAT_SETTLING c) true

/-- The bin of a temperature in 2^-24 °C, if it has one (R257). -/
def oscBin (t : Int) : Option Nat :=
  let b := (t + 40 * 2 ^ 24) * 25 / 2 ^ 24
  if 0 ≤ b && b < 4096 then some b.toNat else none

/-- TIM takes the oscillator temperature, in 2^-24 °C, which is valid or not; the learning interval takes note of it
(R256, R259). -/
def timTempPut (t : Int) (valid : Bool) (s : State) : State :=
  let c := s.tim
  let s := { s with tim := { c with
    temp := t, tempAt := some s.now, learnMin := min c.learnMin t, learnMax := max c.learnMax t
    learnBroken := c.learnBroken || !valid || (oscBin t).isNone } }
  ((s.setI R.TIM_TEMP_T (t / 65536)).setB R.TIM_TEMP_VALID valid).setB R.TIM_STAT_TEMP_VALID valid

/-- TIM works: ON in ACTIVE or DOZE (R238). -/
def State.timOn (s : State) : Bool := s.blkOn (dev .tim) && s.power ≤ 1

/-- TIM takes a sample of the oscillator temperature while it works (R238, R256). -/
def timTempTake (t : Int) (s : State) : State := if s.timOn then timTempPut t true s else s

/-- T from a result of the source chain (R256). -/
def State.chainTemp (s : State) (v : Int) : Int :=
  s.getI R.TIM_TEMP_CFG_OFS * 65536 + s.getI R.TIM_TEMP_GAIN_GAIN * v

/-- Whether something came no longer ago than `n` seconds. -/
def State.within (s : State) (n : Nat) (t : Option Nat) : Bool :=
  match t with
  | some t => s.elapsed - t ≤ n * 1000000000 * 2 ^ 48
  | none => false

/-- T is taken from the source that TIM_TEMP_CFG names, after a write that may have changed the source or its scale
(R256). -/
def timTempRefresh (s : State) : State :=
  if !s.timOn then s
  else if s.getB R.TIM_TEMP_CFG_SRC then timTempPut (s.getI R.TIM_TEMP_HOST_T * 65536) (s.within 10 s.tim.hostAt) s
  else
    let c := s.get R.TIM_TEMP_CFG_CHAIN
    timTempPut (s.chainTemp (s.getI (R.MFIL_RES_VALUE c)))
      (s.getB (R.MFIL_RES_VALID c) && s.within 1 (s.chain c).seen) s

/-- An output is delivered to the result register (R313, R314, R256). -/
def chainDeliver (c : Nat) (o : FilterOut) (s : State) : State :=
  let s := if s.getB (R.MFIL_STAT_SETTLING c) then (s.setB (R.MFIL_STAT_SETTLING c) false).irq (dev .mfil) (16 + c)
    else s
  let missed := s.getB (R.MFIL_RES_NEW c)
  let s := (s.setI (R.MFIL_RES_VALUE c) o.v).setB (R.MFIL_RES_VALID c) true
  let s := ((s.setB (R.MFIL_RES_OVR c) missed).setB (R.MFIL_RES_NEW c) true).setB (R.MFIL_RES_REF_UNSETTLED c) o.tagged
  let s := s.set (R.MFIL_RES_T_TIME c) (reportedTime o.time.toNat o.valid)
  let s := s.putChain c { s.chain c with seen := some s.elapsed }
  let s := if missed then s.irq (dev .mfil) (8 + c) else s
  if !s.getB R.TIM_TEMP_CFG_SRC && s.get R.TIM_TEMP_CFG_CHAIN == c then
    timTempTake (s.chainTemp o.v) s
  else s

/-- TRIP of LDIS[l] becomes 1 (R172). -/
def ldisTrip (l comp : Nat) (s : State) : State :=
  if s.getB (R.LTX_LDIS_TRIP l) then s
  else ((s.setB (R.LTX_LDIS_TRIP l) true).irq ⟨.ltx, l⟩ 0).event ⟨.ltx, l⟩ l 0x0B comp

/-- Comparator j of chain c becomes active at the output v: TRIPPED, its LDIS outputs and its CDAC channels (R316). -/
def limitTrip (c j : Nat) (v : Int) (s : State) : State :=
  let comp := 2 * c + j
  let s := ((s.setB (R.MFIL_LIM_CFG_ACTIVE c j) true).setB (R.MFIL_LIM_CFG_TRIPPED c j) true).irq (dev .mfil) c
  let s := s.event (dev .mfil) c 0x0B (comp + 256 * ofInt 24 v)
  let s := (List.range 8).foldl (fun s l =>
    if bitAt (s.get (R.MFIL_LIM_CFG_LDIS c j)) l = 1 then ldisTrip l comp s else s) s
  (List.range 48).foldl (fun s n =>
    if bitAt (s.get (R.CDAC_CH_CFG_TRIP_MASK n)) comp = 1 then cdacFault n 2 (some comp) s else s) s

/-- The limits of comparator j at an output: beyond, and back by the hysteresis (R315). -/
def limitTest (s : State) (c j : Nat) (v : Int) : Bool × Bool :=
  let thr := s.getI (R.MFIL_LIM_THR_THR c j)
  let w := (presetOf (s.get (R.MFIL_CFG_PRESET c))).2.2
  let hyst : Int := s.get (R.MFIL_LIM_CFG_HYST c j) * 2 ^ (w - 16)
  if s.getB (R.MFIL_LIM_CFG_DIR c j) then (v < thr, thr + hyst ≤ v) else (thr < v, v ≤ thr - hyst)

/-- A comparator evaluates a delivered stage-2 output (R315). -/
def limitCompare (c j : Nat) (v : Int) (s : State) : State :=
  if !s.getB (R.MFIL_LIM_CFG_EN c j) then s
  else
    let t := limitTest s c j v
    let x := s.chain c
    let run := if t.1 then min (x.runs.getD j 0 + 1) (s.get (R.MFIL_LIM_CFG_CNT c j) + 1) else 0
    let s := s.putChain c { x with runs := x.runs.set j run }
    if s.getB (R.MFIL_LIM_CFG_ACTIVE c j) then
      if t.2 then s.setB (R.MFIL_LIM_CFG_ACTIVE c j) false else s
    else if run = s.get (R.MFIL_LIM_CFG_CNT c j) + 1 then limitTrip c j v s
    else s

/-- The eight coefficients of a phase of the resampler in 2^-24, oldest sample first; their sum is 1 (R310). -/
def gridTaps (preset phase : Nat) : List Int :=
  let h := (List.range 7).map fun i => (Config.gridTap preset phase i).toInt
  (2 ^ 24 - h.foldl (· + ·) 0) :: h

/-- The phase of an instant between two samples a `den` apart, `num` after the earlier, to the nearest; 64 is phase 0 of
the next eight samples (R310). -/
def gridPhase (num : Int) (den : Nat) : Nat := (roundEven (64 * num) den).toNat

/-- The resampler's value in a phase (R310). -/
def gridValue (preset : Nat) (samples : List Int) (phase : Nat) : Int :=
  roundEven (dot (gridTaps preset phase) samples) (2 ^ 24)

/-- The oldest firing is answered once the eight newest samples surround it: its instant's phase is one of their 64
(R310). -/
def gridOutput (c : Nat) (s : State) : State :=
  let x := s.chain c
  match x.fires with
  | [] => s
  | f :: fs =>
    let p := presetOf (s.get (R.MFIL_CFG_PRESET c))
    let phase := gridPhase (f.1 - (x.past.getD 4 ⟨0, 0, false, false⟩).time) (2 * halfPeriod s c * p.1)
    if x.past.length = 8 && phase < 64 then
      let w := p.2.2
      let v := gridValue (s.get (R.MFIL_CFG_PRESET c)) (x.past.reverse.map (·.v)) phase
      let o : FilterOut :=
        { v := clampInt (-(2 ^ (w - 1) : Nat)) ((2 ^ (w - 1) : Nat) - 1) v, time := f.1, valid := f.2,
          tagged := x.past.any (·.tagged) }
      chainDeliver c o (s.putChain c { x with fires := fs })
    else s

/-- MFIL_OUTPUT: the oldest output of a chain is delivered: to the comparators, and to the result register or the
resampler (R308, R310, R313 to R316). -/
def mfilOutputOp (c : Nat) (s : State) : State :=
  let x := s.chain c
  match x.ready with
  | [] => s
  | o :: os =>
    if !s.blkOn (dev .mfil) then s
    else
      let s := s.putChain c { x with ready := os, past := (o :: x.past).take 8 }
      let s := limitCompare c 1 o.v (limitCompare c 0 o.v s)
      if s.getB (R.MFIL_GRID_RES_EN c) then gridOutput c s else chainDeliver c o s

/-- Alarm k fires at the chains that resample on it; a firing less than one output period after the last yields no
output, and none is delivered while the chain settles (R310, R313). -/
def mfilAlarm (k : Nat) (s : State) : State :=
  (List.range 8).foldl (fun s c =>
    if s.blkOn (dev .mfil) && s.getB (R.MFIL_CFG_EN c) && s.getB (R.MFIL_GRID_RES_EN c)
        && s.get (R.MFIL_GRID_ALARM c) == k then
      let x := s.chain c
      let period := 2 * halfPeriod s c * (presetOf (s.get (R.MFIL_CFG_PRESET c))).1
      let fast := match x.lastFire with
        | none => false
        | some t => s.now < t + period
      let s := s.putChain c { x with
        lastFire := some s.now
        fires := if fast || x.got < settleCount s c then x.fires
          else x.fires ++ [(s.now, s.getB R.TIM_STAT_FINE_READY)] }
      if fast then s.setB (R.MFIL_STAT_GRID_FAST c) true else s
    else s) s

/-- MFIL_TRIPPED_CLEAR: TRIPPED clears only while ACTIVE = 0 (R317). -/
def mfilTrippedClearOp (c j : Nat) (s : State) : State :=
  if s.getB (R.MFIL_LIM_CFG_ACTIVE c j) then s.conflict (dev .mfil) else s.setB (R.MFIL_LIM_CFG_TRIPPED c j) false

/-- EN of a comparator is written with 0: ACTIVE and the count are cleared (R315). -/
def limitDisable (c j : Nat) (s : State) : State :=
  let x := s.chain c
  (s.putChain c { x with runs := x.runs.set j 0 }).setB (R.MFIL_LIM_CFG_ACTIVE c j) false

/-! ### Monitor converters -/

/-- The slots of the 16-slot cycle that a user with DIV and PHASE takes (R303). -/
def takesSlot (div phase slot : Nat) : Bool := slot % 2 ^ div == phase

/-- Whether two users of one converter would take a common slot. -/
def slotsMeet (d p d' p' : Nat) : Bool := (List.range 16).any fun k => takesSlot d p k && takesSlot d' p' k

/-- Whether an enabled user of a converter, other than raw access or chain `me`, holds one of the slots. -/
def State.slotsHeld (s : State) (conv div phase : Nat) (me : Option Nat) : Bool :=
  (me.isSome && s.getB (R.MADC_RAW_CFG_EN conv)
    && slotsMeet div phase (s.get (R.MADC_RAW_CFG_DIV conv)) (s.get (R.MADC_RAW_CFG_PHASE conv))) ||
  (List.range 8).any fun c => me != some c && s.getB (R.MFIL_CFG_EN c) && s.get (R.MFIL_CFG_CONV c) == conv
    && slotsMeet div phase (s.get (R.MFIL_CFG_DIV c)) (s.get (R.MFIL_CFG_PHASE c))

/-- Whether a configuration word names values that a write may not hold: DIV above 4, PHASE beyond DIV or a reserved
INPUT (R302, R303). -/
def badUser (v : Nat) : Bool := 4 < bits v 2 3 || 2 ^ bits v 2 3 ≤ bits v 8 4 || 0x29 < bits v 12 6

/-- MADC_RAW_CFG_WRITE (R302, R303). -/
def madcRawCfgWriteOp (conv v : Nat) (req : Requester) (s : State) : State :=
  if badUser v then s.conflict (dev .madc)
  else if bitAt v 0 = 1 && s.slotsHeld conv (bits v 2 3) (bits v 8 4) none then
    s.claimRefused (dev .madc) (0x050 + 4 * conv) req
  else
    let s := (s.set (R.MADC_RAW_CFG_EN conv) (bitAt v 0)).set (R.MADC_RAW_CFG_DIV conv) (bits v 2 3)
    let s := (s.set (R.MADC_RAW_CFG_PHASE conv) (bits v 8 4)).set (R.MADC_RAW_CFG_INPUT conv) (bits v 12 6)
    s.set (R.MADC_RAW_CFG_GAIN conv) (bits v 18 2)

/-- The fields of MFIL_CFG whose change is a change of the chain, with EN apart (R313). -/
def chainFields (c : Nat) : List Fld :=
  [R.MFIL_CFG_CONV c, R.MFIL_CFG_DIV c, R.MFIL_CFG_PHASE c, R.MFIL_CFG_INPUT c, R.MFIL_CFG_GAIN c,
   R.MFIL_CFG_PRESET c, R.MFIL_CFG_MINPH c, R.MFIL_CFG_S1_MODE c, R.MFIL_CFG_MA_LEN c]

/-- The fields of MFIL_CFG_c take the values of a word; a reserved PRESET and MA_LEN 0 leave their fields (R308,
R331). -/
def chainWrite (c v : Nat) (s : State) : State :=
  let s := ((s.set (R.MFIL_CFG_EN c) (bitAt v 0)).set (R.MFIL_CFG_CONV c) (bitAt v 1)).set (R.MFIL_CFG_DIV c)
    (bits v 2 3)
  let s := (s.set (R.MFIL_CFG_PHASE c) (bits v 8 4)).set (R.MFIL_CFG_INPUT c) (bits v 12 6)
  let s := (s.set (R.MFIL_CFG_GAIN c) (bits v 18 2)).set (R.MFIL_CFG_MINPH c) (bitAt v 22)
  let s := s.set (R.MFIL_CFG_S1_MODE c) (bitAt v 23)
  let s := if bits v 20 2 = 3 then s.conflict (dev .mfil) else s.set (R.MFIL_CFG_PRESET c) (bits v 20 2)
  if bits v 24 8 = 0 then s.conflict (dev .mfil) else s.set (R.MFIL_CFG_MA_LEN c) (bits v 24 8)

/-- MFIL_CFG_WRITE: refused where its slots are held, else applied; a change settles the chain afresh (R302, R303,
R308, R313, R331). -/
def mfilCfgWriteOp (c v : Nat) (req : Requester) (s : State) : State :=
  if badUser v then s.conflict (dev .mfil)
  else if bitAt v 0 = 1 && s.slotsHeld (bitAt v 1) (bits v 2 3) (bits v 8 4) (some c) then
    s.claimRefused (dev .mfil) (0x100 + 0x40 * c) req
  else
    let t := chainWrite c v s
    if (!s.getB (R.MFIL_CFG_EN c) && t.getB (R.MFIL_CFG_EN c)) || (chainFields c).any fun f => s.get f != t.get f then
      chainChange c t
    else t

/-- MADC_PAIR_WRITE: a change of PAIR or PAIR_CHAIN is a change of every enabled chain (R304). -/
def madcPairWriteOp (pair : Bool) (chain : Nat) (s : State) : State :=
  let t := (s.setB R.MADC_CFG_PAIR pair).set R.MADC_CFG_PAIR_CHAIN chain
  if s.getB R.MADC_CFG_PAIR == pair && s.get R.MADC_CFG_PAIR_CHAIN == chain then t
  else (List.range 8).foldl (fun s c => if s.getB (R.MFIL_CFG_EN c) then chainChange c s else s) t

/-- MADC_REF_WRITE: EN = 0 clears SETTLED (R305). -/
def madcRefWriteOp (en : Bool) (s : State) : State :=
  let s := s.setB R.MADC_REF_EN en
  if en then s else s.setB R.MADC_REF_SETTLED false

/-- MADC_REF_SETTLED (R305). -/
def madcRefSettledOp (s : State) : State :=
  if s.getB R.MADC_REF_EN && !s.getB R.MADC_REF_SETTLED then
    (s.setB R.MADC_REF_SETTLED true).irq (dev .madc) 0
  else s

/-- The code of an input at `nv` nanovolts, the supply inputs scaled by one half (R302). -/
def convCode (input gain : Nat) (nv : Int) : Nat :=
  let scale := if 0x25 ≤ input && input ≤ 0x27 then 2 else 1
  if nv < 0 then 0 else min 65535 (nv.toNat * 2 ^ gain * 65536 / (2500000000 * scale))

/-- A raw conversion is written to MADC_DATA (R306). -/
def rawInput (conv code : Nat) (s : State) : State :=
  let missed := s.getB (R.MADC_DATA_NEW conv)
  let s := (s.set (R.MADC_DATA_CODE conv) code).setB (R.MADC_DATA_NEW conv) true
  let s := s.setB (R.MADC_DATA_REF_UNSETTLED conv) (!s.getB R.MADC_REF_SETTLED)
  if missed then (s.setB (R.MADC_DATA_OVR conv) true).irq (dev .madc) (1 + conv) else s

/-- The enabled chain that takes a slot of a converter, or both converters in pair mode (R303, R304). -/
def State.slotChain (s : State) (conv slot : Nat) : Option Nat :=
  if !s.blkOn (dev .mfil) then none
  else (List.range 8).find? fun c => s.getB (R.MFIL_CFG_EN c) &&
    (if s.getB R.MADC_CFG_PAIR then s.get R.MADC_CFG_PAIR_CHAIN == c
     else s.get (R.MFIL_CFG_CONV c) == conv && takesSlot (s.get (R.MFIL_CFG_DIV c)) (s.get (R.MFIL_CFG_PHASE c)) slot)

/-- No enabled user holds a slot of a converter (R303, R304). -/
def State.slotFree (s : State) (conv slot : Nat) : Bool :=
  !s.getB R.MADC_CFG_PAIR
    && !(s.getB (R.MADC_RAW_CFG_EN conv)
      && takesSlot (s.get (R.MADC_RAW_CFG_DIV conv)) (s.get (R.MADC_RAW_CFG_PHASE conv)) slot)
    && (List.range 8).all fun c => !(s.getB (R.MFIL_CFG_EN c) && s.get (R.MFIL_CFG_CONV c) == conv
      && takesSlot (s.get (R.MFIL_CFG_DIV c)) (s.get (R.MFIL_CFG_PHASE c)) slot)

/-- A REF_ANCHOR run takes a conversion; the start-up pass begins its first only when the reference has settled (R223,
R226). -/
def anchorTake (s : State) : State :=
  let c := s.calDev
  let settled := s.getB R.MADC_REF_SETTLED
  if c.anchor = 0 || (c.startup && !settled && c.anchorTaken = 0) then s
  else { s with calDev := { c with anchorTaken := c.anchorTaken + 1, anchorBad := c.anchorBad || !settled } }

/-- The stamp of a conversion: within 10 ns of Lantern time at its sampling instant (R301). -/
def convStamp (s : State) (stamp : Nat) : Nat :=
  (clampInt ((s.now : Int) - 655360) (s.now + 655360) stamp).toNat

/-- MADC_CONVERSION: the conversion of a slot, of an input at `nv` nanovolts, goes to the slot's user with its stamp; a
free slot of converter 0 serves a REF_ANCHOR run (R301 to R306). -/
def madcConversionOp (conv slot : Nat) (nv : Int) (stamp : Nat) (s : State) : State :=
  if !s.blkOn (dev .madc) then s
  else match s.slotChain conv slot with
    | some c =>
      chainInput c (convCode (s.get (R.MFIL_CFG_INPUT c)) (s.get (R.MFIL_CFG_GAIN c)) nv) (convStamp s stamp) s
    | none =>
      if !s.getB R.MADC_CFG_PAIR && s.getB (R.MADC_RAW_CFG_EN conv)
          && takesSlot (s.get (R.MADC_RAW_CFG_DIV conv)) (s.get (R.MADC_RAW_CFG_PHASE conv)) slot then
        rawInput conv (convCode (s.get (R.MADC_RAW_CFG_INPUT conv)) (s.get (R.MADC_RAW_CFG_GAIN conv)) nv) s
      else if conv = 0 && s.slotFree 0 slot then anchorTake s
      else s

/-- MFIL_STAT.STARVED: the chain is enabled and receives no conversions (R313). -/
def State.starved (s : State) (c : Nat) : Bool :=
  s.getB (R.MFIL_CFG_EN c) && (!s.blkOn (dev .madc) || !s.blkOn (dev .mfil) || (s.getB R.MADC_CFG_PAIR && !s.pairOf c))

/-! ### Meanings -/

/-- MADC_CONVERSION (R301). -/
def execMadcConversion (conv : Fin 2) (slot : Fin 16) (nv : Int) (stamp : Nat)
    (s : State) : Host.Outcome State Fault Refusal :=
  done (madcConversionOp conv.val slot.val nv stamp s)

/-- MADC_RAW_CFG_WRITE (R303). -/
def execMadcRawCfgWrite (conv : Fin 2) (v : Word) (req : Requester)
    (s : State) : Host.Outcome State Fault Refusal :=
  done (madcRawCfgWriteOp conv.val v.toNat req s)

/-- MADC_PAIR_WRITE (R304). -/
def execMadcPairWrite (pair : Bool) (chain : Fin 8) (s : State) : Host.Outcome State Fault Refusal :=
  done (madcPairWriteOp pair chain.val s)

/-- MADC_REF_WRITE (R305). -/
def execMadcRefWrite (en : Bool) (s : State) : Host.Outcome State Fault Refusal :=
  done (madcRefWriteOp en s)

/-- MADC_REF_SETTLED (R305). -/
def execMadcRefSettled (s : State) : Host.Outcome State Fault Refusal :=
  done (madcRefSettledOp s)

/-- MFIL_CFG_WRITE (R313). -/
def execMfilCfgWrite (c : Fin 8) (v : Word) (req : Requester) (s : State) : Host.Outcome State Fault Refusal :=
  done (mfilCfgWriteOp c.val v.toNat req s)

/-- MFIL_OUTPUT (R308). -/
def execMfilOutput (c : Fin 8) (s : State) : Host.Outcome State Fault Refusal :=
  done (mfilOutputOp c.val s)

/-- MFIL_TRIPPED_CLEAR (R317). -/
def execMfilTrippedClear (c : Fin 8) (j : Fin 2) (s : State) : Host.Outcome State Fault Refusal :=
  done (mfilTrippedClearOp c.val j.val s)

/-- CDAC_TABLE_LOAD (R320). -/
def execCdacTableLoad (readable : Bool) (s : State) : Host.Outcome State Fault Refusal :=
  done (cdacTableLoadOp readable s)

/-- CDAC_RUN (R321). -/
def execCdacRun (n : Fin 48) (s : State) : Host.Outcome State Fault Refusal :=
  done (cdacRunOp n.val s)

/-- CDAC_HOLD (R321). -/
def execCdacHold (n : Fin 48) (s : State) : Host.Outcome State Fault Refusal :=
  done (cdacHoldOp n.val s)

/-- CDAC_FAULT (R321). -/
def execCdacFault (n : Fin 48) (s : State) : Host.Outcome State Fault Refusal :=
  done (cdacFaultOp n.val s)

/-- CDAC_CLEAR (R326). -/
def execCdacClear (n : Fin 48) (s : State) : Host.Outcome State Fault Refusal :=
  done (cdacClearOp n.val s)

/-- CDAC_CODE_WRITE (R322). -/
def execCdacCodeWrite (n : Fin 48) (code : BitVec 16) (s : State) : Host.Outcome State Fault Refusal :=
  done (cdacCodeWriteOp n.val code.toNat s)

/-- CDAC_RAMP_STEP (R323). -/
def execCdacRampStep (n : Fin 48) (s : State) : Host.Outcome State Fault Refusal :=
  done (cdacRampStepOp n.val s)

/-- CDAC_SPAN_WRITE (R324). -/
def execCdacSpanWrite (n : Fin 48) (v : Word) (s : State) : Host.Outcome State Fault Refusal :=
  done (cdacSpanWriteOp n.val v.toNat s)

/-- CDAC_SPAN_HOLD_END (R324). -/
def execCdacSpanHoldEnd (n : Fin 48) (s : State) : Host.Outcome State Fault Refusal :=
  done (cdacSpanHoldEndOp n.val s)

/-- CDAC_FV_WRITE (R327). -/
def execCdacFvWrite (n : Fin 48) (code : BitVec 16) (s : State) : Host.Outcome State Fault Refusal :=
  done (cdacFvWriteOp n.val code.toNat s)

end Sys2Proof.Machine
end

