-- ==== Sys2Proof/Machine/Lantern.lean ====
section
/-!
DEFINITION. Lantern: the counter and its clock, stamps, the servo and its sources, time quality, TREF, PPS, the
oscillator table, holdover and the alarms (R235 to R269, R288 to R290).
-/

namespace Sys2Proof.Machine

open Sys2Proof

/-- The TIM block. -/
def timBlk : Blk := dev .tim

/-- The rate TIM_FREQ.RATE, in 2^-40 (R237). -/
def State.timRate (s : State) : Int := s.getI R.TIM_FREQ_RATE

/-- The counter advances by one tick of the time clock (R237). -/
def countUp (s : State) : State :=
  { s with
    time := (s.time + s.tickStep) % (timeModulus * 2 ^ 32)
    elapsed := s.elapsed + s.tim.period }

/-! ### The learning interval (R259) -/

/-- Whether the conditions of learning hold now, but for the steps and the spread of T. -/
def State.learnHolds (s : State) : Bool :=
  s.get R.TIM_STAT_QUAL == 2 && s.get R.TIM_STAT_SRC_ACTIVE != 4 && s.getB R.TIM_STAT_TREF_OK
    && s.getB R.TIM_STAT_TEMP_VALID && (oscBin s.tim.temp).isSome && s.timOn

/-- A condition of learning may have failed: the interval is broken if it has. -/
def learnWatch (s : State) : State :=
  if s.learnHolds then s else { s with tim := { s.tim with learnBroken := true } }

/-- A learning interval begins. -/
def learnBegin (s : State) : State :=
  { s with tim := { s.tim with
    learnAt := s.now, learnBroken := !s.learnHolds, learnMin := s.tim.temp, learnMax := s.tim.temp } }

/-! ### Quality and rate -/

/-- The applied rate or the lock changes: a new entry begins in the record of rates (R260). -/
def rateNote (s : State) : State :=
  { s with tim := { s.tim with rates := (s.now, s.timRate, s.get R.TIM_STAT_QUAL == 2) :: s.tim.rates } }

/-- The counter's rate is set, to the nearest of RATE's units and within its range; `y` is in 2^-72 (R250). -/
def setRate (y : Int) (s : State) : State :=
  rateNote (s.setI R.TIM_FREQ_RATE (clampInt (-(2 ^ 31)) (2 ^ 31 - 1) (roundDiv y (2 ^ 32))))

/-- The time quality changes: QUAL_CHG and its event; LOCKED sets KEPT (R239, R251). -/
def setQual (q : Nat) (s : State) : State :=
  if s.get R.TIM_STAT_QUAL = q then s
  else
    let s := (s.set R.TIM_STAT_QUAL q).irq timBlk 0
    let s := if q = 2 && s.tim.clock != 2 then s.setB R.TIM_STAT_KEPT true else s
    learnWatch (rateNote (s.event timBlk 0 0x0C q))

/-- The active source changes (R246). -/
def setActive (src : Nat) (s : State) : State := learnWatch (s.set R.TIM_STAT_SRC_ACTIVE src)

/-! ### Alarms -/

def State.alarm (s : State) (k : Nat) : AlarmInt := s.tim.alarms[k]?.getD AlarmInt.reset
def State.putAlarm (s : State) (k : Nat) (a : AlarmInt) : State :=
  { s with tim := { s.tim with alarms := s.tim.alarms.setIfInBounds k a } }

/-- The period of an alarm's grid in 2^-16 ns; 0 for a one-shot (R265). -/
def AlarmInt.grid (a : AlarmInt) : Nat := a.period * 65536

/-- The first grid instant at or after a time (R265). -/
def AlarmInt.firstFrom (a : AlarmInt) (t : Nat) : Nat :=
  if t ≤ a.c then a.c else a.c + (t - a.c + a.grid - 1) / a.grid * a.grid

/-- PPS_OUT sends a pulse: it is on, and its gate lets it (R255). -/
def State.ppsMay (s : State) : Bool :=
  !s.getB R.TIM_PPS_OUT_GATE || s.get R.TIM_STAT_QUAL == 2 || s.get R.TIM_STAT_QUAL == 3

/-- GPIO pins of FUNC 1 that follow alarm k are driven high (R356). -/
def gpioAlarm (k : Nat) (s : State) : State :=
  (List.range 8).foldl (fun s g =>
    if s.get (R.PIN_GPIO_CFG_FUNC g) == 1 && s.get (R.PIN_GPIO_CFG_SEL g) == k then
      { s with gpioPulse := s.gpioPulse ||| 2 ^ g } else s) s

/-- A firing reaches every block that names the alarm (R263, R267): captures, the Gleaner, gated queues, resampling
chains, counter snapshots, PPS_OUT, GPIO pins and the wake from DOZE. -/
def alarmReaches (k : Nat) (s : State) : State :=
  let s := s.setB (R.TIM_ALM_FIRED_FIRED k) true
  let s := if s.getB (R.TIM_ALM_IRQ_EN_EN k) then s.irq timBlk 7 else s
  let s := wakeAlarm k (gpioAlarm k (mfilAlarm k (msgAlarm k (calAlarm k (capAlarm k s)))))
  let s := if s.getB R.PMC_SNAP_CFG_ALM_EN && s.get R.PMC_SNAP_CFG_ALARM == k && s.blkOn (dev .pmc) then
    snapRequest s false else s
  if s.getB R.TIM_PPS_OUT_EN && s.get R.TIM_PPS_OUT_ALARM == k && s.get (R.TIM_ALM_CTRL_OWNER k) == 4 && s.ppsMay then
    { s with tim := { s.tim with pulse := true } } else s

/-- Alarm k fires: a one-shot is spent, a grid goes on to its next instant (R265, R266). -/
def alarmFire (k : Nat) (s : State) : State :=
  let a := s.alarm k
  alarmReaches k (s.putAlarm k (if a.period = 0 then { a with fired := true } else { a with next := a.next + a.grid }))

/-- A one-shot whose instant has passed fires with LATE (R265, R266). -/
def alarmLate (k : Nat) (s : State) : State := alarmFire k (s.setB (R.TIM_ALM_CTRL_LATE k) true)

/-- The alarm is armed as of now (R263, R265). -/
def alarmArm (k : Nat) (s : State) : State :=
  let a := s.alarm k
  let s := s.putAlarm k { a with fired := false, next := if a.period = 0 then a.c else a.firstFrom s.now }
  if a.period = 0 && a.c < s.now && s.timOn then alarmLate k s else s

/-- ALARM_FIRE: the counter has reached the alarm's next instant (R238, R265). -/
def alarmFireOp (k : Nat) (s : State) : State :=
  let a := s.alarm k
  if s.getB (R.TIM_ALM_CTRL_EN k) && s.timOn && !(a.period = 0 && a.fired) && a.next ≤ s.now then alarmFire k s else s

/-- The instants of an enabled alarm that lie before now have passed without firing: grid instants are missed, a
one-shot fires late (R266). -/
def alarmSkipped (k : Nat) (s : State) : State :=
  let a := s.alarm k
  if !s.getB (R.TIM_ALM_CTRL_EN k) || s.now ≤ a.next then s
  else if a.period = 0 then if a.fired || !s.timOn then s else alarmLate k s
  else
    let n := (s.now - a.next + a.grid - 1) / a.grid
    (s.putAlarm k { a with next := a.next + n * a.grid }).satInc (R.TIM_ALM_CTRL_MISSED k) n

/-- Every alarm takes account of the instants that have passed: after a forward step, or when TIM is ON again
(R266). -/
def alarmsSkipped (s : State) : State := (List.range 32).foldl (fun s k => alarmSkipped k s) s

/-- The alarms after a step of the counter (R266). -/
def alarmsStepped (forward : Bool) (s : State) : State :=
  let s := (List.range 32).foldl (fun s k =>
    if s.getB (R.TIM_ALM_CTRL_EN k) then
      let s := s.setB (R.TIM_ALM_CTRL_STEPPED k) true
      let a := s.alarm k
      if !forward && a.period != 0 then s.putAlarm k { a with next := a.firstFrom s.now } else s
    else s) s
  if forward then alarmsSkipped s else s

/-- The offset of an alarm's control register. -/
def alarmOff (k : Nat) : Nat := 0x208 + 16 * k

/-- ALARM_CTRL_WRITE: the staged values are committed, and the alarm is claimed, enabled or re-armed; the values of
another requester are refused (R263, R264, R267). -/
def alarmCtrlWriteOp (k v : Nat) (req : Requester) (s : State) : State :=
  let owner := s.get (R.TIM_ALM_CTRL_OWNER k)
  if owner != 0 && owner != Requester.code req then s.claimRefused timBlk (alarmOff k) req
  else
    let en := bitAt v 16 == 1
    let was := s.getB (R.TIM_ALM_CTRL_EN k)
    let a := s.alarm k
    let s := (s.set (R.TIM_ALM_CTRL_SEC_HI k) (bits v 0 16)).setB (R.TIM_ALM_CTRL_EN k) en
    let s := if en && owner = 0 then s.set (R.TIM_ALM_CTRL_OWNER k) (Requester.code req) else s
    let s := if bitAt v 21 = 1 then s.setB (R.TIM_ALM_CTRL_LATE k) false else s
    let s := if bitAt v 22 = 1 then s.setB (R.TIM_ALM_CTRL_STEPPED k) false else s
    let sec := s.get (R.TIM_ALM_SEC_SEC_LO k) + 2 ^ 32 * bits v 0 16
    let c := sec * secondUnits + s.get (R.TIM_ALM_NSEC_NSEC k) * 65536
    let p := s.get (R.TIM_ALM_PERIOD_PERIOD k)
    let s := s.putAlarm k { a with c := c, period := p }
    if en && (c != a.c || p != a.period || !was) then alarmArm k s else s

/-- ALARM_RELEASE: the owner clears EN and OWNER (R264, R350). -/
def alarmReleaseOp (k : Nat) (req : Requester) (s : State) : State :=
  let owner := s.get (R.TIM_ALM_CTRL_OWNER k)
  if owner = Requester.code req then (s.setB (R.TIM_ALM_CTRL_EN k) false).set (R.TIM_ALM_CTRL_OWNER k) 0
  else if owner = 0 then s.conflict timBlk
  else s.claimRefused timBlk (alarmOff k) req

/-! ### Steps of the counter -/

/-- The counter is stepped to a time in 2^-48 ns: STEPPED, the two events, and the alarms; what TIM has noted of the
time before moves with it (R240, R248, R250, R260, R266). -/
def counterStep (t : Nat) (s : State) : State :=
  let forward := s.time < t
  let s := s.event timBlk 0 0x0C 0x10
  let d : Int := (t / 2 ^ 32 : Nat) - (s.now : Int)
  let shift (x : Nat) : Nat := ((x : Int) + d).toNat
  let c := s.tim
  let s := { s with
    time := t
    tim := { c with
      steps := c.steps + 1, last := c.last.map shift, holdAt := c.holdAt.map shift
      ppsRise := c.ppsRise.map fun x => ((x : Int) + d / 256).toNat
      ppsFall := c.ppsFall.map fun x => ((x : Int) + d / 256).toNat
      rates := c.rates.map fun (e : Nat × Int × Bool) => (shift e.1, e.2), learnBroken := true } }
  alarmsStepped forward ((s.event timBlk 0 0x0C 0x20).irq timBlk 2)

/-- The counter after a step of it: a load keeps the accumulator (R240). -/
def CounterStep.after (x : CounterStep) (time : Nat) : Nat :=
  match x with
  | .load t => t + time % 2 ^ 32
  | .add d => (((time : Int) + d) % (timeModulus * 2 ^ 32 : Nat)).toNat

/-- A step takes effect at a tick (R240). -/
def stepTake (x : CounterStep) (s : State) : State := counterStep (x.after s.time) s

/-- The time source in effect: a write of SRC waits for the next tick (R253). -/
def State.source (s : State) : Nat := s.tim.srcOld.getD (s.get R.TIM_SERVO_CFG_SRC)

/-- The servo source is not NONE: SET and STEP make QUAL ACQUIRING (R240). -/
def requalify (s : State) : State :=
  if s.source != 0 then
    setQual 1 { s with tim := { s.tim with good := 0, bad := 0 } } else s

/-- TIME_SET: TIM_SET is loaded into the counter at the next tick, unless its NSEC is out of range (R240). -/
def timeSetOp (s : State) : State :=
  let v := s.get R.TIM_SET_TIME
  if 1000000000 ≤ bits v 16 30 then s.conflict timBlk
  else { s with tim := { s.tim with waiting := s.tim.waiting ++ [.load (ofFullTime v * 2 ^ 32)] } }

/-- TIME_STEP: the signed TIM_STEP is added to the counter at the next tick (R240). -/
def timeStepOp (s : State) : State :=
  { s with tim := { s.tim with waiting := s.tim.waiting ++ [.add (s.getI R.TIM_STEP_STEP * 2 ^ 32)] } }

/-! ### The time clock -/

/-- The time clock that R237 and R494 choose: 0 REFCLK, 1 TREF, 2 the AON oscillator. While COLD is asserted, as it is
in TIMEKEEP, TREF_OK alone tells of TREF (R364; log entry 191). -/
def State.clockChoice (s : State) : Nat :=
  if (s.get R.TIM_CFG_TREF_FREQ != 0 || s.coldAsserted) && s.getB R.TIM_STAT_TREF_OK then 1
  else if s.power = 3 || !s.getB R.CLK_STAT_REF_OK then 2 else 0

/-- TIME_CLOCK_CHANGE: the counter runs from another clock, with the period measured (R237, R238, R239). -/
def timeClockChangeOp (period : Nat) (s : State) : State :=
  let c := s.clockChoice
  if c = s.tim.clock then s
  else
    let s := { s with tim := { s.tim with clock := c, period := period } }.setB R.TIM_STAT_FINE_READY false
    if c = 2 then (s.setB R.TIM_STAT_KEPT false).setB R.TIM_STAT_RC_USED true
    else if s.get R.TIM_STAT_QUAL = 2 then s.setB R.TIM_STAT_KEPT true
    else s

/-- FINE_READY: the time PLL and the converters are ready (R238). -/
def fineReadyOp (s : State) : State := if s.timOn then s.setB R.TIM_STAT_FINE_READY true else s

/-- SFTS_SELECT: the selected boundary pair is copied (R242, R243). -/
def sftsSelectOp (l : Nat) (rx : Bool) (s : State) : State :=
  let s := (s.set R.TIM_SFTS_SEL_LANE l).setB R.TIM_SFTS_SEL_DIR rx
  let p := if rx then (s.stamp l).rx else (s.stamp l).tx
  let ofs := if rx then -s.getI (R.TIM_PLANE_RX_OFS l) else s.getI (R.TIM_PLANE_TX_OFS l)
  match p with
  | some (n, t) => (s.set R.TIM_SFTS_SFC_SFC n).set R.TIM_SFTS_TIME_TIME (reportedTime (addOffset t ofs * 256) true)
  | none => (s.set R.TIM_SFTS_SFC_SFC 0).set R.TIM_SFTS_TIME_TIME 0

/-- TEMP_VALID_TIMEOUT: no sample or write has arrived in time (R256). -/
def tempValidTimeoutOp (s : State) : State :=
  learnWatch ((s.setB R.TIM_STAT_TEMP_VALID false).setB R.TIM_TEMP_VALID false)

/-- TREF_QUALIFIED (R254). -/
def trefQualifiedOp (s : State) : State :=
  if s.get R.TIM_CFG_TREF_FREQ != 0 then s.setB R.TIM_STAT_TREF_OK true else s

/-- TREF_LOS (R254). -/
def trefLosOp (s : State) : State :=
  if s.getB R.TIM_STAT_TREF_OK then
    learnWatch (((s.setB R.TIM_STAT_TREF_OK false).setB R.TIM_STAT_TREF_LOS true).irq timBlk 3)
  else s

/-- TREF_FREQ_WRITE: a change starts qualification afresh (R254). -/
def trefFreqWriteOp (f : Nat) (s : State) : State :=
  if s.get R.TIM_CFG_TREF_FREQ = f then s
  else learnWatch ((s.set R.TIM_CFG_TREF_FREQ f).setB R.TIM_STAT_TREF_OK false)

/-! ### The oscillator table -/

/-- The byte address of entry (e, b) (R257, R426). -/
def oscAddr (e b : Nat) : Nat := granaryBase + 0x580000 + 8 * (4096 * e + b)

/-- FREQ of an entry, if it is valid, in 2^-40; one about to be cleared is not (R257, R258; log entry 245). -/
def State.oscFreq (s : State) (e b : Nat) : Option Int :=
  let v := s.word64 (oscAddr e b)
  if bitAt v 63 = 1 && !s.clearing (oscAddr e b) then some (toInt 32 (bits v 0 32)) else none

/-- SPREAD of an entry, in 2^-36. -/
def State.oscSpread (s : State) (e b : Nat) : Nat := bits (s.word64 (oscAddr e b)) 48 8

/-- The nearest valid bin of an epoch within 16 bins below or above a bin. -/
def nearBin (s : State) (e b : Nat) (up : Bool) : Option Nat :=
  ((List.range 16).map (· + 1)).findSome? fun k =>
    if up then if b + k < 4096 && (s.oscFreq e (b + k)).isSome then some (b + k) else none
    else if k ≤ b && (s.oscFreq e (b - k)).isSome then some (b - k) else none

/-- F(T) in one epoch, in 2^-72, by the bin itself, by interpolation or by the nearest bin, and the bins it rests on
(R260). -/
def oscLook (s : State) (e b : Nat) : Option (Int × List Nat) :=
  match s.oscFreq e b with
  | some f => some (f * 2 ^ 32, [b])
  | none => match nearBin s e b false, nearBin s e b true with
    | some lo, some hi =>
      let f := (s.oscFreq e lo).getD 0
      let g := (s.oscFreq e hi).getD 0
      some (f * 2 ^ 32 + (g - f) * 2 ^ 32 * (b - lo : Nat) / (hi - lo : Nat), [lo, hi])
    | some lo, none => some ((s.oscFreq e lo).getD 0 * 2 ^ 32, [lo])
    | none, some hi => some ((s.oscFreq e hi).getD 0 * 2 ^ 32, [hi])
    | none, none => none

/-- One day in 2^-16 ns. -/
def dayUnits : Nat := 86400 * secondUnits

/-- F(T): the current epoch's, else that of the latest earlier epoch that gives one, with aging to `at`; also SPREAD of
the entries it rests on (R260, R261). -/
def oscPredict (s : State) (b : Nat) (at_ : Nat) : Option (Int × List Nat) :=
  (List.range 16).findSome? fun k =>
    let e := (s.tim.osc.epoch + 16 - k) % 16
    match oscLook s e b with
    | none => none
    | some (f, bs) =>
      let ended := s.tim.osc.ends.getD (k - 1) s.tim.osc.start
      let extra := if k = 0 then 0 else s.tim.osc.aging * 2 ^ 32 * ((at_ : Int) - ended * secondUnits) / dayUnits
      some (f + extra, bs.map (s.oscSpread e ·))

/-- The oscillator's bin now: none without a valid temperature or outside the range (R256, R257). -/
def State.binNow (s : State) : Option Nat := if s.getB R.TIM_STAT_TEMP_VALID then oscBin s.tim.temp else none

/-- The sum of applied rate times time from `start` to `until_`, over a record of rates (R259). -/
def rateSum (start : Nat) : List (Nat × Int × Bool) → Nat → Int
  | [], _ => 0
  | (t, y, _) :: es, until_ => if t ≤ start then y * (until_ - start : Nat)
    else y * (until_ - t : Nat) + rateSum start es (min until_ t)

/-- A mean applied rate of the learning interval, in 2^-40: `y`, which the record of rates bounds to within a unit; an
interval of no length has the rate that stands (R259; log entry 208). -/
def State.meanRate (s : State) (y : Int) : Int :=
  let d := s.now - s.tim.learnAt
  if d = 0 then s.timRate
  else
    let q := rateSum s.tim.learnAt s.tim.rates s.now
    clampInt (q / d) (-(-q / d)) y

/-- OSC_LEARN_UPDATE: an interval with mean applied rate `y` in 2^-40, as the record of rates gives it, and mean
temperature `t` in 2^-24 °C, which lies between its extremes, ends; it updates one entry if its conditions have held
throughout (R259). -/
def oscLearnUpdateOp (y t : Int) (s : State) : State :=
  let c := s.tim
  let y := s.meanRate y
  let t := clampInt c.learnMin c.learnMax t
  let near := match oscBin c.learnMin, oscBin c.learnMax with
    | some lo, some hi => hi ≤ lo + 2
    | _, _ => false
  let may := s.getB R.TIM_OSC_CFG_LEARN_EN && !c.learnBroken && s.learnHolds && near
  let s := learnBegin s
  match oscBin t with
  | none => s.setB R.TIM_OSC_STAT_LEARNING false
  | some b =>
    if !may then s.setB R.TIM_OSC_STAT_LEARNING false
    else
      let v := s.word64 (oscAddr s.tim.osc.epoch b)
      let n := min (bits v 32 16 + 1) 65535
      let m := min n (2 ^ s.get R.TIM_OSC_CFG_K)
      let f := toInt 32 (bits v 0 32)
      let d := y - f
      let num : Int := (d.natAbs : Int) - 16 * bits v 48 8
      let lo := num / (16 * m : Nat)
      let sp : Int := bits v 48 8 + lo + (if num % (16 * m : Nat) = 0 then 0 else s.free 1)
      let new := if (s.oscFreq s.tim.osc.epoch b).isNone then ofInt 32 y + 2 ^ 32 + 2 ^ 63
        else ofInt 32 (f + roundDiv d m) + 2 ^ 32 * n + 2 ^ 48 * (clampInt 0 255 sp).toNat + 2 ^ 63
      (nvsPut 3 (oscAddr s.tim.osc.epoch b - granaryBase) new 1 s.draw).setB R.TIM_OSC_STAT_LEARNING true

/-- The aging slope: the mean of FREQ(e) − FREQ(e−1) over the bins valid in both, per day (R258). -/
def agingOf (s : State) (e : Nat) : Int :=
  let ds := (List.range 4096).filterMap fun b =>
    match s.oscFreq e b, s.oscFreq ((e + 15) % 16) b with
    | some f, some g => some (f - g)
    | _, _ => none
  if ds.length < 16 then s.tim.osc.aging
  else roundDiv (ds.foldl (· + ·) 0) (ds.length * s.get R.TIM_OSC_CFG_EPOCH_DAYS)

/-- A new epoch record is in use, from now on, and goes to Granary; TIM_OSC_STAT.EPOCH and TIM_OSC_AGING show it (R258,
R426). -/
def setEpoch (e : Nat) (ends : List Nat) (aging : Int) (s : State) : State :=
  let r : EpochRecord := { epoch := e, start := s.now / secondUnits, ends := ends.take 15, aging := aging }
  let s := recordPut 3 0x6D6000 32 (.epoch r) { s with tim := { s.tim with osc := r } }
  (s.set R.TIM_OSC_STAT_EPOCH e).setI R.TIM_OSC_AGING_A aging

/-- OSC_EPOCH_ADVANCE (R258). -/
def oscEpochAdvanceOp (s : State) : State :=
  if s.get R.TIM_STAT_QUAL = 2
      && s.tim.osc.start + s.get R.TIM_OSC_CFG_EPOCH_DAYS * 86400 ≤ s.now / secondUnits then
    let e := (s.tim.osc.epoch + 1) % 16
    let a := agingOf s s.tim.osc.epoch
    setEpoch e (s.now / secondUnits :: s.tim.osc.ends) a (nvsClear (oscAddr e 0 - granaryBase) 4096 s)
  else s

/-- OSC_CLEAR: the whole table, and epoch 0 from now (R262). -/
def oscClearOp (s : State) : State := setEpoch 0 [] s.tim.osc.aging (nvsClear (oscAddr 0 0 - granaryBase) 65536 s)

/-! ### Holdover -/

/-- The LOCKED time and the sum of rate times time, over the newest entries of the record until `left` of LOCKED time
is covered; `until_` is where the newest entry ends. -/
def lockedSum : List (Nat × Int × Bool) → Nat → Nat → Int × Nat
  | [], _, _ => (0, 0)
  | (t, y, locked) :: es, until_, left =>
    let d := if locked then min (until_ - t) left else 0
    let r := lockedSum es t (left - d)
    (y * d + r.1, d + r.2)

/-- TIM_HOLD_EST in its register and the quality in holdover; crossing the limit raises HOLD_OUT (R251, R261). -/
def holdQuality (s : State) : State :=
  let ns := s.tim.holdEst / 2 ^ 36
  let s := s.set R.TIM_HOLD_EST_NS ns
  let out := s.get R.TIM_HOLD_LIM_NS * 2 ^ 36 < s.tim.holdEst
  let s := if out && s.get R.TIM_STAT_QUAL != 4 then s.irq timBlk 5 else s
  setQual (if out then 4 else 3) s

/-- TABLE_MISS is set (R260). -/
def tableMiss (s : State) : State :=
  if s.getB R.TIM_STAT_TABLE_MISS then s else (s.setB R.TIM_STAT_TABLE_MISS true).irq timBlk 6

/-- The predictor sets the rate (R260); without TREF the rate holds (R254). -/
def holdRate (s : State) : State :=
  if !s.getB R.TIM_STAT_TREF_OK then s
  else if !s.getB R.TIM_OSC_CFG_PRED_EN then setRate s.tim.holdAvg s
  else
    let t0 := s.tim.holdAt.getD s.now
    let aged := s.tim.osc.aging * 2 ^ 32 * ((s.now : Int) - t0) / dayUnits
    match s.binNow.bind fun b => oscPredict s b t0 with
    | some (f, _) => setRate (f + s.tim.holdBias + aged) s
    | none => setRate (s.tim.holdAvg + aged) (tableMiss s)

/-- Holdover begins: y_avg and the bias, TIM_HOLD_EST and the quality (R252, R260, R261). What no accepted measurement
and no locked time give is a free value. -/
def holdEnter (s : State) : State :=
  let sum := lockedSum s.tim.rates s.now (64 * secondUnits)
  let avg : Int := if sum.2 = 0 then toInt 32 (s.free 32) * 2 ^ 32 else sum.1 * 2 ^ 32 / sum.2
  let s := s.draw
  let est := if s.tim.thetas.isEmpty then s.free 40
    else s.tim.thetas.foldl (· + ·) 0 * 2 ^ 28 / s.tim.thetas.length
  let s := s.draw
  let bias := match s.binNow.bind fun b => oscPredict s b s.now with
    | some (f, _) => avg - f
    | none => 0
  let s := { s with tim := { s.tim with holdAt := some s.now, holdAvg := avg, holdBias := bias, holdEst := est } }
  holdQuality (setActive 4 (holdRate (s.set R.TIM_HOLD_SECONDS 0)))

/-- Holdover ends. -/
def holdLeave (s : State) : State :=
  { s with tim := { s.tim with holdAt := none } }.set R.TIM_HOLD_SECONDS 0

/-- The growth of TIM_HOLD_EST in one second, in 2^-36 ns (R254, R261). Where F rests on two entries the spec names no
SPREAD: a free value. -/
def holdGrowth (s : State) : Nat :=
  if !s.getB R.TIM_STAT_TREF_OK then 10 * 2 ^ 36
  else match s.binNow.bind fun b => oscPredict s b (s.tim.holdAt.getD s.now) with
    | some (_, [sp]) => sp * 1000000000
    | some _ => s.free 8 * 1000000000
    | none => 10 * 2 ^ 36

/-- HOLDOVER_PREDICT: a second of holdover has passed, or only the bin has changed (R260, R261). -/
def holdoverPredictOp (second : Bool) (s : State) : State :=
  if s.get R.TIM_STAT_SRC_ACTIVE != 4 || s.tim.holdAt.isNone || !s.timOn then s
  else
    let s := if second then
      let g := holdGrowth s
      { s with tim := { s.tim with holdEst := s.tim.holdEst + g } }.draw.set R.TIM_HOLD_SECONDS
        (s.get R.TIM_HOLD_SECONDS + 1)
      else s
    holdQuality (holdRate s)

/-! ### The servo -/

/-- The nominal interval of a source in 2^-16 ns; the spec gives none for HOST: a free value (R250, R289). -/
def nominalInterval (s : State) (src : Nat) : Nat :=
  if src = 1 then superTenths s (s.get R.TIM_SERVO_CFG_LANE) * 2 ^ s.get R.MSG_TIME_CFG_PERIOD * 256 / 10
  else if src = 2 then secondUnits
  else s.free 48

/-- The servo sets the rate from an accepted θ in 2^-8 ns, or has the counter stepped at the next tick (R250). -/
def servoUpdate (theta : Int) (s : State) : State :=
  let dt := match s.tim.last with
    | some t => if s.tim.first then nominalInterval s s.source else s.now - t
    | none => nominalInterval s s.source
  let dt := if dt = 0 then s.free 32 + 1 else dt
  let s := { s.draw with tim := { s.tim with first := false, last := some s.now } }
  if s.getB R.TIM_SERVO_CFG_STEP_EN && s.get R.TIM_SERVO_LIM_STEP_THR * 256000 < theta.natAbs then
    { s with tim := { s.tim with servoStep := some (-(theta * 2 ^ 40)) } }
  else
    let r := theta * 2 ^ 80 / (dt : Int)
    let lim : Int := (s.get R.TIM_SERVO_GAIN_SLEW * 2 ^ 72 / 1000000 : Nat)
    let yP := clampInt (-lim) lim (-(r / 2 ^ s.get R.TIM_SERVO_GAIN_KP))
    let yI := s.tim.yI - r / 2 ^ s.get R.TIM_SERVO_GAIN_KI
    setRate (yI + yP) { s with tim := { s.tim with yI := yI } }

/-- An accepted measurement counts toward the quality (R251). -/
def qualCount (theta : Int) (s : State) : State :=
  let inside := theta.natAbs ≤ s.get R.TIM_SERVO_LIM_LOCK_THR * 256
  let t : TimInt := { s.tim with
    good := if inside then s.tim.good + 1 else 0, bad := if inside then 0 else s.tim.bad + 1 }
  let s := { s with tim := t }
  if 8 ≤ t.good then setQual 2 s else if 4 ≤ t.bad then setQual 1 s else s

/-- The source has come back: it is active again and acquires (R252). -/
def sourceBack (s : State) : State :=
  let s := { s with tim := { s.tim with lost := false, back := 0, good := 0, bad := 0, first := true } }
  setQual 1 (setActive s.source (holdLeave s))

/-- A measurement of the selected source: θ and d in 2^-8 ns, whether its stamps straddle a step, and whether it is an
exchange that no authenticated session carried. The answer says whether it was accepted (R247 to R252). -/
def measure (theta : Int) (d : Int) (straddles unauth : Bool) (s : State) : State × Bool :=
  let s := (s.setI R.TIM_OFS_LAST_THETA (clampInt (-(2 ^ 31)) (2 ^ 31 - 1) theta)).setI R.TIM_DLY_LAST_DELAY d
  let tol := s.get R.TIM_SERVO_LIM_DLY_TOL * 256
  let d := d.toNat
  let late := match s.tim.delays with
    | [] => false
    | x :: xs => xs.foldl min x + tol < d
  if straddles || !s.timOn || s.getB R.SEC_STAT_LOCKDOWN then (s, false)
  else if late then (s.satInc R.TIM_SRC_DISCARD_DELAY 1, false)
  else if unauth && s.getB R.TIM_CFG_SECURE_TIME then (s.satInc R.TIM_SRC_DISCARD_UNAUTH 1, false)
  else
    let s := { s with tim := { s.tim with
      delays := (d :: s.tim.delays).take 16, thetas := (theta.natAbs :: s.tim.thetas).take 16 } }
    if s.tim.lost then
      let n := s.tim.back + 1
      let s := { s with tim := { s.tim with back := n, last := some s.now } }
      (if 4 ≤ n && s.getB R.TIM_SERVO_CFG_AUTO_REVERT then sourceBack s else s, true)
    else (qualCount theta (servoUpdate theta s), true)

/-- The last PPS_IN edge of a polarity (R248). -/
def State.ppsEdge (s : State) (falling : Bool) : Option Nat := if falling then s.tim.ppsFall else s.tim.ppsRise

/-- An edge becomes the reference of its polarity (R248). -/
def ppsNote (falling : Bool) (stamp : Nat) (s : State) : State :=
  { s with tim := if falling then { s.tim with ppsFall := some stamp } else { s.tim with ppsRise := some stamp } }

/-- An edge of the selected polarity: its stamp is shown, and it is judged against the one before it (R248). -/
def ppsJudge (old : Option Nat) (stamp : Nat) (s : State) : State :=
  let s := s.set R.TIM_PPS_IN_TS_TIME (reportedTime (stamp * 256) true)
  match old with
  | none => s
  | some t =>
    if absDiff stamp (t + 256000000000) ≤ 256 * 10000 then
      let x := (((stamp : Int) - s.get R.TIM_PPS_IN_DLY * 16) % 256000000000)
      let theta := if 128000000000 ≤ x then x - 256000000000 else x
      if s.source = 2 then (measure theta 0 false false s).1 else s
    else s.irq timBlk 4

/-- PPS_IN_EDGE: an edge stamped at `stamp`, in 2^-8 ns; one of the polarity that EDGE does not select is only a later
edge's reference (R241, R248; log entry 243). -/
def ppsInEdgeOp (falling : Bool) (stamp : Nat) (s : State) : State :=
  if !s.getB R.TIM_PPS_IN_EN || !s.timOn || !s.getB R.TIM_STAT_FINE_READY then s
  else
    let old := s.ppsEdge falling
    let s := ppsNote falling stamp s
    if s.getB R.TIM_PPS_IN_EDGE != falling then s else ppsJudge old stamp s

/-- HOST_OFS_WRITE: a write of TIM_HOST_OFS is one θ (R248). -/
def hostOfsWriteOp (v : Nat) (s : State) : State :=
  if s.source = 3 then (measure (toInt 32 v) 0 false false s).1 else s

/-- SOURCE_LOSS: no accepted measurement for TMO × 100 ms (R252). -/
def sourceLossOp (s : State) : State :=
  let src := s.source
  if src = 0 || 4 ≤ src || s.tim.lost || !s.timOn then s
  else
    let s := { s with tim := { s.tim with lost := true, back := 0, good := 0, bad := 0 } }.irq timBlk 1
    if s.getB R.TIM_SERVO_CFG_AUTO_HOLD then holdEnter s
    else setQual 0 (setActive 0 (setRate s.tim.yI s))

/-- The exchanges in progress are discarded (R253). -/
def exchangesDrop (s : State) : State :=
  (List.range 8).foldl (fun s l => s.putLink l { s.link l with departures := [], arrival := none }) s

/-- The selected source is taken up afresh (R251, R253). -/
def sourceSelect (src : Nat) (s : State) : State :=
  let s := exchangesDrop (holdLeave { s with tim := { s.tim with lost := false, back := 0, good := 0, bad := 0,
                                                                 first := true, last := none, delays := [] } })
  if src = 4 then holdEnter s else setQual (if src = 0 then 0 else 1) (setActive src s)

/-- SERVO_SRC_WRITE: a write of TIM_SERVO_CFG; SRC takes effect at the next tick; a reserved SRC and TMO 0 leave their
fields (R246, R252, R253). -/
def servoSrcWriteOp (v : Nat) (s : State) : State :=
  let s := (s.set R.TIM_SERVO_CFG_LANE (bits v 4 3)).set R.TIM_SERVO_CFG_AUTO_HOLD (bitAt v 8)
  let s := (s.set R.TIM_SERVO_CFG_AUTO_REVERT (bitAt v 9)).set R.TIM_SERVO_CFG_STEP_EN (bitAt v 10)
  let s := if bits v 16 8 = 0 then s.conflict timBlk else s.set R.TIM_SERVO_CFG_TMO (bits v 16 8)
  let src := bits v 0 3
  if 4 < src then s.conflict timBlk
  else { s with tim := { s.tim with srcOld := some s.source } }.set R.TIM_SERVO_CFG_SRC src

/-- The steps of SET and STEP that wait take effect, or else the servo's, which they replace (R240, R250). -/
def stepsTake (waiting : List CounterStep) (servo : Option Int) (s : State) : State :=
  match waiting, servo with
  | [], none => s
  | [], some d => stepTake (.add d) s
  | xs, _ => requalify (xs.foldl (fun s x => stepTake x s) s)

/-- One tick of the time clock: the counter advances, and a new source and the steps that wait take effect (R237,
R240, R250, R253). -/
def tick (s : State) : State :=
  if s.resets.por then s
  else
    let c := s.tim
    let s := { countUp s with tim := { c with waiting := [], servoStep := none, srcOld := none } }
    if c.waiting.isEmpty && c.servoStep.isNone && c.srcOld.isNone then s
    else
      let s := if c.srcOld.isSome then sourceSelect (s.get R.TIM_SERVO_CFG_SRC) s else s
      settle (stepsTake c.waiting c.servoStep s)

/-- TIM_FREQ is written: only while no source is active (R246, R268). -/
def freqWrite (v : Nat) (s : State) : State :=
  if s.get R.TIM_STAT_SRC_ACTIVE != 0 then s.conflict timBlk
  else
    let s := s.set R.TIM_FREQ_RATE v
    rateNote { s with tim := { s.tim with yI := s.timRate * 2 ^ 32 } }

/-! ### TIME messages -/

/-- A time in 2^-8 ns from the 11 bytes of a TIME payload (R288). -/
def ofTimeBytes (b : List Nat) : Nat :=
  ofBytesBE (b.take 6) * 256000000000 + ofBytesBE ((b.drop 6).take 4) % 2 ^ 30 * 256 + b.getD 10 0

/-- Whether a message's QUAL is accepted (R289). -/
def qualAccepted (accept q : Nat) : Bool := accept == 2 || q == 2 || (accept == 1 && q == 3)

/-- A TIME message on the worker lane: the exchange is formed, checked and measured (R247, R289, R290). -/
def timeExchange (l : Nat) (m : FaostMsg) (t2 : Option Nat) (s : State) : State :=
  let p := m.payload
  let flags := p.getD 30 0
  let sfc := ofBytesBE ((p.drop 15).take 4)
  let dep := (s.link l).departures.find? fun e => e.1 == sfc
  match t2, dep with
  | some t2, some (_, t3, steps) =>
    if bitAt flags 7 = 0 || bitAt flags 6 = 0 then s.satInc R.MSG_TIME_DISCARD_NOMATCH 1
    else if 4 ≤ bits flags 0 3 then s.satInc R.MSG_TIME_DISCARD_HOPS 1
    else if !qualAccepted (s.get R.MSG_TIME_CFG_ACCEPT) (bits flags 3 3) then s.satInc R.MSG_TIME_DISCARD_QUAL 1
    else
      let s := s.count msgBlk 0x42 1
      let there : Int := (t2 : Int) - ofTimeBytes ((p.drop 4).take 11)
      let back : Int := (ofTimeBytes ((p.drop 19).take 11) : Int) - t3
      if s.source = 1 then
        let r := measure ((there - back - s.getI R.TIM_ASYM_ASYM) / 2) ((there + back) / 2) (steps != m.steps)
          (!m.auth) s
        if r.2 then
          { r.1 with tim := { r.1.tim with hops := bits flags 0 3 + 1 } }
        else r.1
      else s
  | _, _ => s.satInc R.MSG_TIME_DISCARD_NOMATCH 1

/-- TIME: a received TIME message is recorded as an arrival, and on the worker lane it completes an exchange (R288,
R289, R291). -/
def timeOp (l : Nat) (s : State) : State :=
  match takeMessage l (· == 1) s with
  | none => s
  | some (m, s) =>
    let t2 := m.time.map fun t => addOffset t (-s.getI (R.TIM_PLANE_RX_OFS l))
    let s := s.putLink l { s.link l with arrival := some (ofBytesBE (m.payload.take 4), t2) }
    let s := (s.set (R.MSG_LANE_STAT_PEER_HOPS l) (bits (m.payload.getD 30 0) 0 3)).set (R.MSG_LANE_STAT_PEER_QUAL l)
      (bits (m.payload.getD 30 0) 3 3)
    if s.get R.TIM_SERVO_CFG_LANE == l && !s.getB (R.MSG_LANE_CFG_ROLE l) && s.getB (R.MSG_LANE_STAT_PEER_ROLE l)
        && !s.getB (R.MSG_LANE_STAT_ROLE_CONFLICT l) then timeExchange l m t2 s
    else s

/-! ### PPS_OUT -/

/-- PPS_OUT claims and programs its alarm, or goes off with a conflict where another requester owns it (R255). -/
def ppsClaim (s : State) : State :=
  let k := s.get R.TIM_PPS_OUT_ALARM
  let owner := s.get (R.TIM_ALM_CTRL_OWNER k)
  if owner != 0 && owner != 4 then (s.setB R.TIM_PPS_OUT_EN false).claimRefused timBlk 0x094 .tim
  else
    let sec := s.now / secondUnits
    let ofs := s.get R.TIM_PPS_OUT_OFS_OFS
    let s := (s.setB R.TIM_PPS_OUT_EN true).set (R.TIM_ALM_CTRL_OWNER k) 4
    let s := (s.set (R.TIM_ALM_NSEC_NSEC k) ofs).set (R.TIM_ALM_SEC_SEC_LO k) sec
    let s := (s.set (R.TIM_ALM_CTRL_SEC_HI k) (sec / 2 ^ 32)).setB (R.TIM_ALM_CTRL_EN k) true
    let s := s.set (R.TIM_ALM_PERIOD_PERIOD k) 1000000000
    alarmArm k (s.putAlarm k { s.alarm k with c := sec * secondUnits + ofs * 65536, period := 1000000000 })

/-- PPS_OUT releases its alarm. -/
def ppsRelease (s : State) : State :=
  let k := s.get R.TIM_PPS_OUT_ALARM
  if s.get (R.TIM_ALM_CTRL_OWNER k) = 4 then
    (s.setB (R.TIM_ALM_CTRL_EN k) false).set (R.TIM_ALM_CTRL_OWNER k) 0
  else s

/-- PPS_OUT_ENABLE: a write of EN = 1 claims and programs the alarm (R255). -/
def ppsOutEnableOp (s : State) : State := ppsClaim s

/-- PPS_OUT_DISABLE (R255). -/
def ppsOutDisableOp (s : State) : State :=
  if s.getB R.TIM_PPS_OUT_EN then (ppsRelease s).setB R.TIM_PPS_OUT_EN false else s

/-- PPS_OUT_OFS_WRITE: an enabled output is programmed afresh; a value out of range is refused (R255, R268). -/
def ppsOutOfsWriteOp (v : Nat) (s : State) : State :=
  if 1000000000 ≤ v % 2 ^ 30 then s.conflict timBlk
  else
    let s := s.set R.TIM_PPS_OUT_OFS_OFS v
    if s.getB R.TIM_PPS_OUT_EN then ppsClaim s else s

/-- PPS_OUT is to use alarm k: an enabled output releases the one it leaves (R255). -/
def ppsMove (k : Nat) (s : State) : State :=
  (if s.getB R.TIM_PPS_OUT_EN && s.get R.TIM_PPS_OUT_ALARM != k then ppsRelease s else s).set R.TIM_PPS_OUT_ALARM k

/-- PPS_OUT_ALARM_WRITE: an enabled output moves to another alarm (R255). -/
def ppsOutAlarmWriteOp (k : Nat) (s : State) : State :=
  let moves := s.getB R.TIM_PPS_OUT_EN && s.get R.TIM_PPS_OUT_ALARM != k
  if moves then ppsClaim (ppsMove k s) else ppsMove k s

/-- PPS_OUT_PULSE_END (R255). -/
def ppsOutPulseEndOp (s : State) : State := { s with tim := { s.tim with pulse := false } }

/-- The level of the PPS_OUT pin: pulled high under POR and COLD, where it is not driven (R255, R400). -/
def State.ppsLevel (s : State) : Bool := s.coldAsserted || s.tim.pulse != s.getB R.TIM_PPS_OUT_POL

/-- GPIO_PULSE_END: 1 µs after a firing the pin returns (R356). -/
def gpioPulseEndOp (g : Nat) (s : State) : State := { s with gpioPulse := clearBits s.gpioPulse (2 ^ g) }

/-! ### Resets of TIM -/

/-- What a BLOCK reset of TIM, or the loss of its power, does beside its registers (R239, R268). -/
def timClear (s : State) : State :=
  { s with tim := { s.tim with
      yI := s.timRate * 2 ^ 32, first := true, last := none, delays := [], thetas := [], good := 0, bad := 0, back := 0,
      lost := false, waiting := [], servoStep := none, srcOld := none, ppsRise := none, ppsFall := none
      temp := 0, tempAt := none
      hostAt := none, learnBroken := true, learnMin := 0, learnMax := 0, holdAt := none, hops := 0
      alarms := Vector.replicate 32 AlarmInt.reset, pulse := false } }

/-! ### Meanings -/

/-- TIME_CLOCK_CHANGE (R237). -/
def execTimeClockChange (period : Nat) (s : State) : Host.Outcome State Fault Refusal :=
  done (timeClockChangeOp period s)

/-- FINE_READY (R238). -/
def execFineReady (s : State) : Host.Outcome State Fault Refusal :=
  done (fineReadyOp s)

/-- TIME_SET (R240). -/
def execTimeSet (s : State) : Host.Outcome State Fault Refusal :=
  done (timeSetOp s)

/-- TIME_STEP (R240). -/
def execTimeStep (s : State) : Host.Outcome State Fault Refusal :=
  done (timeStepOp s)

/-- SFTS_SELECT (R243). -/
def execSftsSelect (l : Lane) (rx : Bool) (s : State) : Host.Outcome State Fault Refusal :=
  done (sftsSelectOp l.val rx s)

/-- PPS_IN_EDGE (R248). -/
def execPpsInEdge (falling : Bool) (stamp : Nat) (s : State) : Host.Outcome State Fault Refusal :=
  done (ppsInEdgeOp falling stamp s)

/-- HOST_OFS_WRITE (R248). -/
def execHostOfsWrite (v : Word) (s : State) : Host.Outcome State Fault Refusal :=
  done (hostOfsWriteOp v.toNat s)

/-- SOURCE_LOSS (R252). -/
def execSourceLoss (s : State) : Host.Outcome State Fault Refusal :=
  done (sourceLossOp s)

/-- SERVO_SRC_WRITE (R253). -/
def execServoSrcWrite (v : Word) (s : State) : Host.Outcome State Fault Refusal :=
  done (servoSrcWriteOp v.toNat s)

/-- TREF_QUALIFIED (R254). -/
def execTrefQualified (s : State) : Host.Outcome State Fault Refusal :=
  done (trefQualifiedOp s)

/-- TREF_LOS (R254). -/
def execTrefLos (s : State) : Host.Outcome State Fault Refusal :=
  done (trefLosOp s)

/-- TREF_FREQ_WRITE (R254). -/
def execTrefFreqWrite (f : BitVec 2) (s : State) : Host.Outcome State Fault Refusal :=
  done (trefFreqWriteOp f.toNat s)

/-- PPS_OUT_ENABLE (R255). -/
def execPpsOutEnable (s : State) : Host.Outcome State Fault Refusal :=
  done (ppsOutEnableOp s)

/-- PPS_OUT_DISABLE (R255). -/
def execPpsOutDisable (s : State) : Host.Outcome State Fault Refusal :=
  done (ppsOutDisableOp s)

/-- PPS_OUT_OFS_WRITE (R255). -/
def execPpsOutOfsWrite (v : BitVec 30) (s : State) : Host.Outcome State Fault Refusal :=
  done (ppsOutOfsWriteOp v.toNat s)

/-- PPS_OUT_ALARM_WRITE (R255). -/
def execPpsOutAlarmWrite (k : Fin 32) (s : State) : Host.Outcome State Fault Refusal :=
  done (ppsOutAlarmWriteOp k.val s)

/-- PPS_OUT_PULSE_END (R255). -/
def execPpsOutPulseEnd (s : State) : Host.Outcome State Fault Refusal :=
  done (ppsOutPulseEndOp s)

/-- OSC_LEARN_UPDATE (R259). -/
def execOscLearnUpdate (y t : Int) (s : State) : Host.Outcome State Fault Refusal :=
  done (oscLearnUpdateOp y t s)

/-- OSC_EPOCH_ADVANCE (R258). -/
def execOscEpochAdvance (s : State) : Host.Outcome State Fault Refusal :=
  done (oscEpochAdvanceOp s)

/-- OSC_CLEAR (R262). -/
def execOscClear (s : State) : Host.Outcome State Fault Refusal :=
  done (oscClearOp s)

/-- HOLDOVER_PREDICT (R260). -/
def execHoldoverPredict (second : Bool) (s : State) : Host.Outcome State Fault Refusal :=
  done (holdoverPredictOp second s)

/-- ALARM_CTRL_WRITE (R263). -/
def execAlarmCtrlWrite (k : Fin 32) (v : Word) (req : Requester)
    (s : State) : Host.Outcome State Fault Refusal :=
  done (alarmCtrlWriteOp k.val v.toNat req s)

/-- ALARM_RELEASE (R264). -/
def execAlarmRelease (k : Fin 32) (req : Requester) (s : State) : Host.Outcome State Fault Refusal :=
  done (alarmReleaseOp k.val req s)

/-- ALARM_FIRE (R265). -/
def execAlarmFire (k : Fin 32) (s : State) : Host.Outcome State Fault Refusal :=
  done (alarmFireOp k.val s)

/-- TIME (R289). -/
def execTime (l : Lane) (s : State) : Host.Outcome State Fault Refusal :=
  done (timeOp l.val s)

/-- TEMP_VALID_TIMEOUT (R256). -/
def execTempValidTimeout (s : State) : Host.Outcome State Fault Refusal :=
  done (tempValidTimeoutOp s)

/-- GPIO_PULSE_END (R356). -/
def execGpioPulseEnd (g : Fin 8) (s : State) : Host.Outcome State Fault Refusal :=
  done (gpioPulseEndOp g.val s)

end Sys2Proof.Machine
end

