-- ==== Sys2Proof/Machine/OuterCode.lean ====
section
/-!
DEFINITION. The decoder of the outer code RS(544,514) over GF(2^10), radius 15, as IEEE 802.3 defines the code (R137,
R139; log entry 252).
-/

namespace Sys2Proof.Machine

/-- A product in GF(2^10) by x^10 + x^3 + 1. -/
def rsMul (a b : Nat) : Nat :=
  ((List.range 10).foldl (fun (r : Nat × Nat) i =>
    (if bitAt b i = 1 then r.1 ^^^ r.2 else r.1, if 512 ≤ r.2 then 2 * r.2 ^^^ 0x409 else 2 * r.2)) (0, a)).1

/-- A power by repeated squaring, with `n` bits of the exponent. -/
def rsPow : Nat → Nat → Nat → Nat
  | 0, _, _ => 1
  | n + 1, x, e => rsMul (if e % 2 = 1 then x else 1) (rsPow n (rsMul x x) (e / 2))

/-- The inverse of an element. -/
def rsInv (x : Nat) : Nat := rsPow 10 x 1022

/-- A power of the primitive element. -/
def rsAlpha (e : Nat) : Nat := rsPow 10 2 (e % 1023)

/-- The value of a polynomial, lowest coefficient first. -/
def rsEval (p : List Nat) (x : Nat) : Nat := p.foldr (fun c v => c ^^^ rsMul x v) 0

/-- A sum of polynomials, the shorter one filled with zeros. -/
def rsAdd : List Nat → List Nat → List Nat
  | [], q => q
  | p, [] => p
  | a :: p, b :: q => (a ^^^ b) :: rsAdd p q

/-- The 30 syndromes of a received word, its first symbol the highest coefficient. -/
def rsSyndromes (word : List Nat) : List Nat := (List.range 30).map fun j => rsEval word.reverse (rsAlpha j)

/-- What the Berlekamp–Massey algorithm carries along: the locator, the one before its last change in length, shifted, and
that one's discrepancy, and the length. -/
structure RsLocator where
  now : List Nat
  old : List Nat
  disc : Nat
  len : Nat

/-- One step of it, for syndrome n. -/
def rsLocatorStep (ss : List Nat) (p : RsLocator) (n : Nat) : RsLocator :=
  let d := (List.range (p.len + 1)).foldl (fun v i => v ^^^ rsMul (p.now.getD i 0) (ss.getD (n - i) 0)) 0
  let old := 0 :: p.old
  if d = 0 then { p with old := old }
  else
    let f := rsMul d (rsInv p.disc)
    let now := rsAdd p.now (old.map (rsMul f))
    if 2 * p.len ≤ n then { now := now, old := p.now, disc := d, len := n + 1 - p.len }
    else { p with now := now, old := old }

/-- The error locator of 30 syndromes, and the number of errors it is for. -/
def rsLocator (ss : List Nat) : List Nat × Nat :=
  let p := (List.range 30).foldl (rsLocatorStep ss) { now := [1], old := [1], disc := 1, len := 0 }
  (p.now, p.len)

/-- The value of the error at the symbol of degree d (Forney). -/
def rsErrorValue (ss sigma : List Nat) (d : Nat) : Nat :=
  let x := rsAlpha (1023 - d)
  let omega := (List.range 30).map fun k =>
    (List.range (k + 1)).foldl (fun v i => v ^^^ rsMul (sigma.getD i 0) (ss.getD (k - i) 0)) 0
  let slope := (List.range sigma.length).foldl (fun v i =>
    if i % 2 = 1 then v ^^^ rsMul (sigma.getD i 0) (rsPow 10 x (i - 1)) else v) 0
  rsMul (rsAlpha d) (rsMul (rsEval omega x) (rsInv slope))

/-- The codeword within 15 symbols of a received word of 544 symbols, if there is one. -/
def rsDecode (word : List Nat) : Option (List Nat) :=
  let ss := rsSyndromes word
  if ss.all (· == 0) then some word
  else
    let p := rsLocator ss
    let places := (List.range 544).filter fun d => rsEval p.1 (rsAlpha (1023 - d)) == 0
    if p.2 ≤ 15 && places.length == p.2 then
      let out := (List.zipIdx word).map fun v =>
        if places.contains (543 - v.2) then v.1 ^^^ rsErrorValue ss p.1 (543 - v.2) else v.1
      if (rsSyndromes out).all (· == 0) then some out else none
    else none

end Sys2Proof.Machine
end

