-- ==== Sys2Proof/Machine/Receive.lean ====
section
/-!
DEFINITION. The receive direction of a line lane: pilots, superframe count and scrambler lock, DIM, loss of signal,
the loops, freezes and shadows, lane quality and the histogram (R44 to R53, R69, R75 to R108).
-/

namespace Sys2Proof.Machine

open Sys2Proof

/-- The receiver has samples and its loops may run: not in ACQUIRE below the lane's level (R80, R385). -/
def State.sampling (s : State) (l : Nat) : Bool :=
  s.laneUp l && s.getB (R.LRX_STAT_ADC_READY l) && (s.laneCode l != 1 || s.levelOk l)

/-- ACQUIRE, CANDLE or FULL, where the adaptation loops run (Adaptation loops of a lane). -/
def loopsRun (code : Nat) : Bool := 1 ≤ code && code ≤ 3

/-! ### Pilots -/

/-- TIM stamps a receive boundary with its count (R238, R241, R243). -/
def stampRx (l : Nat) (s : State) : State :=
  if s.getB (R.LFR_STAT_SCR_LOCK l) && s.getB R.TIM_STAT_FINE_READY then
    (s.putStamp l { s.stamp l with rx := some (s.get (R.LFR_RX_SFC_COUNT l), s.fineNow) }).draw
  else s

/-- The runs of good and bad fields, good ones counted only at consecutive phases (R45). -/
def pilotRuns (f : Nat) (good : Bool) (r : RxLane) : RxLane :=
  let next := f == (r.phase + 1) % 256
  { r with
    goodRun := if good then (if next && r.goodRun != 0 then r.goodRun + 1 else 1) else 0
    badRun := if good then 0 else r.badRun + 1
    phase := f }

/-- A burst received while the level is below the lane's requirement sets BURST_MISS and makes every DIM field bad
(R386). -/
def burstSeenNow (l : Nat) (s : State) : State :=
  if s.levelOk l then s.putRx l { s.rx l with burstSeen := true }
  else (s.putRx l { s.rx l with burstMissed := true }).setB (R.PWR_STAT_BURST_MISS l) true

/-- A bad pilot field counts (R73, R445). -/
def pilotBad (l : Nat) (s : State) : State :=
  (s.satInc (R.LFR_PILOT_BAD_COUNT l) 1).count ⟨.lfr, l⟩ 0x41 1

/-- A pilot field in DIM: frame 0 for lock, frames 192 to 255 for the burst (R45, R50, R69, R83). -/
def pilotFieldDim (l f : Nat) (good : Bool) (s : State) : State :=
  if f == 0 then
    let r := s.rx l
    let good := good && (s.levelOk l || !r.burstMissed)
    let s := s.putRx l { r with goodRun := if good then r.goodRun + 1 else 0,
                                badRun := if good then 0 else r.badRun + 1, phase := f, burstRun := 0 }
    let s := if good || !s.getB (R.LFR_STAT_PILOT_LOCK l) then s else pilotBad l s
    if s.getB (R.LFR_STAT_SCR_LOCK l) then stampRx l (s.wrapInc (R.LFR_RX_SFC_COUNT l) 1) else s
  else if 192 ≤ f then
    let r := s.rx l
    let run := if good then (if f == r.phase + 1 || r.burstRun == 0 then r.burstRun + 1 else 1) else 0
    let s := s.putRx l { r with burstRun := run, phase := f }
    if 4 ≤ run && !r.burstSeen then burstSeenNow l s else s
  else s

/-- The samples of a good pilot field go to the Gleaner's window in progress (R210). -/
def calPilots (l f : Nat) (comp : Bool) (v : PilotField) (s : State) : State :=
  let c := s.cal l
  if c.stage == 2 || c.stage == 3 then s.putCal l { c with subs := pilotSums f comp v c.subs } else s

/-- RX_PILOT_FIELD: frame f's field with its samples (R44, R45). -/
def rxPilotFieldOp (l f : Nat) (v : PilotField) (s : State) : State :=
  if !s.sampling l then s
  else
    let p := s.rxShape l
    let j := pilotJudge p.tol f (pilotDecisions p.mu (v.z.take 8))
    let s := s.count ⟨.lfr, l⟩ 0x40 1
    if s.getB (R.LFR_STAT_RX_DIM l) then pilotFieldDim l f j.1 s
    else
      let r := pilotRuns f j.1 (s.rx l)
      let comp := if f ≤ 247 then 0 else r.complemented + b2n j.2
      let s := s.putRx l { r with complemented := comp }
      if j.1 then calPilots l f j.2 v s
      else if s.getB (R.LFR_STAT_PILOT_LOCK l) then pilotBad l s
      else s

/-- PILOT_LOCK: four consecutive good fields at consecutive phases (R45). -/
def pilotLockOp (l : Nat) (s : State) : State :=
  if s.sampling l && !s.getB (R.LFR_STAT_PILOT_LOCK l) && 4 ≤ (s.rx l).goodRun then
    passRefresh l (s.change (R.LFR_STAT_PILOT_LOCK l) true ⟨.lfr, l⟩ 0)
  else s

/-- Pilot lock ends: scrambler lock and the link go with it (R45, R50, R272). -/
def pilotDrop (l : Nat) (s : State) : State :=
  let s := capCause l 2 (s.change (R.LFR_STAT_PILOT_LOCK l) false ⟨.lfr, l⟩ 0)
  let s := calDiscardAdc l (s.change (R.LFR_STAT_SCR_LOCK l) false ⟨.lfr, l⟩ 1)
  linkDown l (passRefresh l (s.putRx l { s.rx l with sfcLast := none, sfcPair := false }))

/-- PILOT_LOCK_LOSS: four consecutive bad fields; an active lane enters ACQUIRE (R27, R45). -/
def pilotLockLossOp (l : Nat) (s : State) : State :=
  if s.getB (R.LFR_STAT_PILOT_LOCK l) && 4 ≤ (s.rx l).badRun then
    if 2 ≤ s.laneCode l && s.laneCode l ≤ 5 then enterState l 1 0 false s else pilotDrop l s
  else s

/-! ### Superframe count and scrambler lock -/

/-- A received count before scrambler lock: it may follow its predecessor (R50). -/
def sfcSearch (l v : Nat) (s : State) : State :=
  let r := s.rx l
  s.putRx l { r with sfcPair := r.sfcLast == some ((v + 255) % 256), sfcLast := some v }

/-- A received count under scrambler lock is compared with the prediction (R50, R53). -/
def sfcCompare (l v : Nat) (s : State) : State :=
  let s := s.wrapInc (R.LFR_RX_SFC_COUNT l) 1
  let r := s.rx l
  let r := { r with sfcPair := r.sfcLast == some ((v + 255) % 256), sfcLast := some v }
  if s.get (R.LFR_RX_SFC_COUNT l) % 256 == v then s.putRx l { r with missRun := 0 }
  else ((s.putRx l { r with missRun := r.missRun + 1 }).satInc (R.LFR_SFC_MISS_COUNT l) 1).irq ⟨.lfr, l⟩ 4

/-- RX_SFC_RECEIVED: the overhead byte of frame 0 of a received superframe (R50, R53, R69). -/
def rxSfcReceivedOp (l v : Nat) (s : State) : State :=
  if s.getB (R.LFR_STAT_PILOT_LOCK l) && !s.getB (R.LFR_STAT_RX_DIM l) then
    calRxBoundary l (stampRx l (if s.getB (R.LFR_STAT_SCR_LOCK l) then sfcCompare l v s else sfcSearch l v s))
  else s

/-- SCR_LOCK: two consecutive superframes carried v and v + 1 (R50, R53). -/
def scrLockOp (l : Nat) (s : State) : State :=
  let r := s.rx l
  if s.getB (R.LFR_STAT_PILOT_LOCK l) && !s.getB (R.LFR_STAT_SCR_LOCK l) && !s.getB (R.LFR_STAT_RX_DIM l)
      && r.sfcPair then
    let s := (s.set (R.LFR_RX_SFC_COUNT l) (r.sfcLast.getD 0)).putRx l { r with missRun := 0 }
    passRefresh l (s.change (R.LFR_STAT_SCR_LOCK l) true ⟨.lfr, l⟩ 1)
  else s

/-- SCR_LOCK_LOSS: four consecutive mismatches; an active lane stops decoding (R50, R143, R145, R272). -/
def scrLockLossOp (l : Nat) (s : State) : State :=
  let r := s.rx l
  if s.getB (R.LFR_STAT_SCR_LOCK l) && !s.getB (R.LFR_STAT_RX_DIM l) && 4 ≤ r.missRun then
    let s := s.putRx l { r with sfcPair := false, missRun := 0 }
    let s := calDiscardAdc l (s.change (R.LFR_STAT_SCR_LOCK l) false ⟨.lfr, l⟩ 1)
    let s := if decodes (s.laneCode l) then s.setB (R.IDEC_STAT_STOPPED l) true else s
    linkDown l (sdSf l false (passRefresh l s))
  else s

/-- IDEC_RESUME: decoding resumes after scrambler lock has returned, and the window restarts (R145). -/
def idecResumeOp (l : Nat) (s : State) : State :=
  if s.getB (R.IDEC_STAT_STOPPED l) && s.decoderRuns l && decodes (s.laneCode l) then
    passRefresh l (windowClear l (s.setB (R.IDEC_STAT_STOPPED l) false))
  else s

/-- DIM_ENTRY: the boundary after a superframe with at least four complemented fields (R69). -/
def dimEntryOp (l : Nat) (s : State) : State :=
  if s.laneCode l == 3 && 4 ≤ (s.rx l).complemented then
    enterState l 5 0 false (s.putRx l { s.rx l with complemented := 0 })
  else s

/-- DIM_EXIT: the boundary after a received training burst; an LOS that was held back until now sends the lane on to
ACQUIRE (R69, R83, R84). -/
def dimExitOp (l : Nat) (s : State) : State :=
  if s.laneCode l == 5 && (s.rx l).burstSeen then
    let s := enterState l 3 0 false s
    if s.getB (R.LRX_STAT_LOS l) then enterState l 1 0 false s else s
  else s

/-! ### Loss of signal -/

/-- POWER_DETECTOR_READY: 2 µs after the lane left OFF the detector works (R81). -/
def powerDetectorReadyOp (l : Nat) (s : State) : State :=
  if s.laneUp l then s.putRx l { s.rx l with detector := true } else s

/-- LOS_SET: the amplitude, in mVppd, fell below LOS_THR (R81, R84). -/
def losSetOp (l amp : Nat) (s : State) : State :=
  if s.laneUp l && (s.rx l).detector && !s.getB (R.LRX_STAT_LOS_RAW l) && !s.getB (R.LFR_STAT_RX_DIM l)
      && amp < 5 * s.get (R.LRX_CFG_LOS_THR l) then
    let s := s.setB (R.LRX_STAT_LOS_RAW l) true
    let s := if s.getB (R.LRX_STAT_LOS l) then s else capCause l 1 s
    let s := calDiscardAdc l (s.change (R.LRX_STAT_LOS l) true ⟨.lrx, l⟩ 0)
    if decodes (s.laneCode l) then enterState l 1 0 false s else s
  else s

/-- LOS_RAW_CLEAR: the amplitude, in mVppd, rose above 1.25 × LOS_THR; in DIM, a sent position arrived above
LOS_THR (R81, R83). -/
def losRawClearOp (l amp : Nat) (s : State) : State :=
  let thr := s.get (R.LRX_CFG_LOS_THR l)
  if s.laneUp l && (s.rx l).detector && s.getB (R.LRX_STAT_LOS_RAW l)
      && (if s.getB (R.LFR_STAT_RX_DIM l) then 5 * thr < amp else 25 * thr < 4 * amp) then
    s.setB (R.LRX_STAT_LOS_RAW l) false
  else s

/-- LOS_CLEAR: LOS_RAW has stayed 0 for the LOS_CLR time (R81). -/
def losClearOp (l : Nat) (s : State) : State :=
  if s.laneUp l && (s.rx l).detector && !s.getB (R.LRX_STAT_LOS_RAW l) then
    s.change (R.LRX_STAT_LOS l) false ⟨.lrx, l⟩ 1
  else s

/-- DIM_SIGNAL_TIMEOUT: two superframe periods in DIM without a sent position (R83). -/
def dimSignalTimeoutOp (l : Nat) (s : State) : State :=
  if s.getB (R.LFR_STAT_RX_DIM l) then s.setB (R.LRX_STAT_LOS_RAW l) true else s

/-! ### The loops -/

/-- Whether the RMS of a stretch's ADC codes is within AGC_TGT ± 2 codes, below it, or above it (R76). -/
def agcBelow (target : Nat) (x : LineSamples) : Bool := x.power < x.size * ((target - 2) * (target - 2))

def agcAbove (target : Nat) (x : LineSamples) : Bool := x.size * ((target + 2) * (target + 2)) < x.power

/-- The AGC steps the VGA code by at most one toward the target (R76). -/
def agcStep (l : Nat) (x : LineSamples) (s : State) : State :=
  let t := (s.rx l).agcTarget
  let v := s.get (R.LRX_GAIN_VGA l)
  gainPut l (R.LRX_GAIN_VGA l) (if agcAbove t x then v - 1 else if agcBelow t x ∧ v < 72 then v + 1 else v) s

/-- Firmware's CTLE code (Adaptation loops of a lane). -/
def ctleStep (l code : Nat) (s : State) : State := if 28 < code then s else gainPut l (R.LRX_GAIN_CTLE l) code s

/-- The FFE taps in use, in 2^-15 (R97). -/
def State.fineTaps (s : State) (l : Nat) : List Int :=
  (List.range 48).map fun t => 32 * s.getI (R.REQ_FFE_SET_TAP_COEF l 1 t) + (s.rx l).tapFine.getD t 0

/-- Taps in 2^-15 come into use (R97). -/
def fineTapsPut (l : Nat) (vs : List Int) (s : State) : State :=
  let s := (List.zipIdx vs).foldl (fun s v => s.setI (R.REQ_FFE_SET_TAP_COEF l 1 v.2) (v.1 / 32)) s
  s.putRx l { s.rx l with tapFine := vs.map fun v => (v % 32).toNat }

/-- The LMS updates of one superframe (R97). -/
def lmsStep (l : Nat) (p : RxShape) (u : RxUpdate) (lv : List Nat) (s : State) : State :=
  fineTapsPut l ((u.lms.filter (· < u.samples.size)).foldl
    (lmsUpdate p (s.get (R.REQ_FFE_CTRL_MU l)) u.samples lv) (s.fineTaps l)) s

/-- The echo weights that their loop has reached (Adaptation loops of a lane). -/
def echoStep (l : Nat) (vs : List Int) (s : State) : State :=
  (List.zipIdx (vs.take 4)).foldl (fun s v => s.setI (R.REQ_FFE_SET_ECHO_WEIGHT l 1 v.2) v.1) s

/-- Whether the AGC, CTLE, FFE and echo loops hold for LOS in ACQUIRE (R84). -/
def losHolds (s : State) (l : Nat) : Bool := s.laneCode l == 1 && s.getB (R.LRX_STAT_LOS l)

/-- The loops of one superframe that change values in use (R76, R84, R97, R98). -/
def loopValues (l : Nat) (p : RxShape) (u : RxUpdate) (lv : List Nat) (s : State) : State :=
  let a := (s.rx l).adapt
  let e := (s.rx l).afe
  let code := s.laneCode l
  if !loopsRun code || losHolds s l then s
  else
    let s := if bitAt e 1 = 1 then s else agcStep l u.samples s
    let s := if bitAt e 0 = 1 || code = 3 || !s.fwcRunning then s else ctleStep l u.ctle s
    let s := if bitAt a 1 = 1 then s else lmsStep l p u lv s
    if bitAt a 2 = 1 || code = 1 then s else echoStep l u.echo s

/-- The magnitude of the main cursor's tap. -/
def mainTap (s : State) (l : Nat) : Nat :=
  (s.getI (R.REQ_FFE_SET_TAP_COEF l 1 (s.get (R.REQ_FFE_SET_MAIN l 1)))).natAbs

/-- The summed magnitude of the changes of the taps, in 2^-15 (R103). -/
def tapChange (a b : List Int) : Nat := (List.zipWith (fun (x y : Int) => (x - y).natAbs) a b).foldl (· + ·) 0

/-- The level means and sigmas in use, h1 and h2 (R103). -/
def State.levelValues (s : State) (l : Nat) : List Int :=
  (List.range 4).map (fun i => s.getI (R.REQ_LVL_MEAN_MEAN l i))
    ++ (List.range 4).map (fun i => (s.get (R.REQ_LVL_SIGMA_SIGMA l i) : Int))
    ++ [s.getI (R.REQ_MLSE_TGT_H1 l), s.getI (R.REQ_MLSE_TGT_H2 l)]

/-- Whether a value has changed by less than 1/64 of itself (R103); one that has not changed has. -/
def changedLittle (was is : Int) : Bool := was == is || 64 * (is - was).natAbs < was.natAbs

/-- The run of superframes over which levels and targets changed little (R103). -/
def levelRun (s : State) (l : Nat) (r : RxLane) : RxLane :=
  let now := s.levelValues l
  if r.levelRef.length == 10 && (r.levelRef.zip now).all fun v => changedLittle v.1 v.2 then
    { r with mlseRun := r.mlseRun + 1 }
  else { r with mlseRun := 0, levelRef := now }

/-- The places of a stretch that timing recovery and the measurements use: all of them, or in DIM those that are sent
(R87). -/
def usedPlace (s : State) (l place : Nat) : Bool :=
  s.laneCode l != 5 || dimPlace ((s.rx l).burstSeen || (s.rx l).burstRun != 0) place

/-- The runs of superframes that the lock and convergence rules count (R76, R86, R103). `before` are the taps before
the superframe, `es` its phase errors. -/
def loopRuns (l : Nat) (u : RxUpdate) (before es : List Int) (s : State) : State :=
  let r := s.rx l
  let tr := phaseSmall es && -20000 ≤ u.freq && u.freq ≤ 20000
  let t := r.agcTarget
  let r := { r with
    agcRun := if agcBelow t u.samples || agcAbove t u.samples then 0 else r.agcRun + 1
    trGood := if es.isEmpty then r.trGood else if tr then r.trGood + 1 else 0
    trBad := if es.isEmpty then r.trBad else if tr then 0 else r.trBad + 1
    ffeRun := if 64 * tapChange before (s.fineTaps l) < 32 * mainTap s l then r.ffeRun + 1 else 0 }
  s.putRx l (levelRun s l r)

/-- The frequency and phase that timing recovery reached, unless it is frozen or has nothing to work from; in ACQUIRE
without a signal the frequency holds (R84, R87, R88, R98). -/
def timingPut (l : Nat) (u : RxUpdate) (es : List Int) (s : State) : State :=
  if bitAt (s.rx l).adapt 0 = 1 || es.isEmpty then s
  else
    let s := s.putRx l { s.rx l with trPhase := u.phase }
    if losHolds s l then s else s.setI (R.REQ_TR_FREQ_FREQ l) u.freq

/-- A stretch is added to the measurement window (R106). -/
def measureAdd (l : Nat) (p : RxShape) (x : LineSamples) (lv : List Nat) (s : State) : State :=
  let r := s.rx l
  s.putRx l { r with measured := r.measured + 1, levels := levelSums p x lv (usedPlace s l) r.levels }

/-- One sample that the histogram engine takes (R108). -/
def histCount (l : Nat) (code : Int) (level : Nat) (s : State) : State :=
  let r := s.rx l
  if r.histLeft = 0 || (s.getB (R.REQ_HIST_CFG_LVL_EN l) && level != s.get (R.REQ_HIST_CFG_LEVEL l)) then s
  else (s.putRx l { r with histLeft := r.histLeft - 1 }).satInc (R.REQ_HIST_BIN_COUNT l (code + 128).toNat) 1

/-- The histogram engine takes its samples of a stretch (R108). -/
def histTake (l : Nat) (p : RxShape) (x : LineSamples) (lv : List Nat) (s : State) : State :=
  if s.getB (R.REQ_HIST_STAT_BUSY l) then
    let values := if s.getB (R.REQ_HIST_CFG_SRC l) then (p.equalise x).drop 32 else x.body
    let s := (histPicks x (s.rx l).histOffset).foldl (fun s i => histCount l (values.getD i 0) (lv.getD i 0) s) s
    s.putRx l { s.rx l with histOffset := ((s.rx l).histOffset + x.clocks) % 160 }
  else s

/-- RX_SUPERFRAME_UPDATE: one superframe's samples reach the loops, the measurements and the clip count (R76, R77, R84
to R88, R97, R98, R106, R108). -/
def rxSuperframeUpdateOp (l : Nat) (u : RxUpdate) (s : State) : State :=
  if !s.sampling l then s
  else
    let p := s.rxShape l
    let x := u.samples
    let lv := p.context x
    let es := phaseErrors p x lv (usedPlace s l)
    let before := s.fineTaps l
    let s := histTake l p x (lv.drop 2) (measureAdd l p x lv s)
    let s := capNote l (timingPut l u es (loopRuns l u before es (loopValues l p u lv s)))
    let clips := clipClocks x.clocks x.body
    let s := s.satInc (R.LRX_CLIP_CNT_COUNT l) clips
    if 64 < clips then s.irq ⟨.lrx, l⟩ 2 else s

/-- AGC_DONE: 16 superframes within the band (R76). -/
def agcDoneOp (l : Nat) (s : State) : State :=
  if s.sampling l && 16 ≤ (s.rx l).agcRun then s.setB (R.LRX_STAT_AGC_DONE l) true else s

/-- TR_LOCK_ACQUIRED: 16 superframes within the limits (R86, R196). -/
def trLockAcquiredOp (l : Nat) (s : State) : State :=
  if s.sampling l && !s.getB (R.REQ_STAT_TR_LOCK l) && 16 ≤ (s.rx l).trGood then
    hostClockSlew l (s.change (R.REQ_STAT_TR_LOCK l) true ⟨.req, l⟩ 0)
  else s

/-- TR_LOCK_LOST: four superframes beyond a limit (R86, R196, R216, R218). -/
def trLockLostOp (l : Nat) (s : State) : State :=
  if s.getB (R.REQ_STAT_TR_LOCK l) && 4 ≤ (s.rx l).trBad then
    calStopApplying l (calDiscardAdc l (hostClockSlew l (s.change (R.REQ_STAT_TR_LOCK l) false ⟨.req, l⟩ 0)))
  else s

/-- HOST_CLOCK_SLEW_DONE: the host transmitters reach the clock that TR_LOCK selects (R196). -/
def hostClockSlewDoneOp (l : Nat) (s : State) : State :=
  [2 * l, 2 * l + 1].foldl (fun s h =>
    if (s.host h).slewing then
      (s.putHost h { s.host h with slewing := false }).setB (R.HSD_STAT_TXCLK_REC h) (s.getB (R.REQ_STAT_TR_LOCK l))
    else s) s

/-! ### Echo search, freezes and shadows -/

/-- A peak put into a list that falls by correlation. -/
def peakInsert (p : Nat × Nat) : List (Nat × Nat) → List (Nat × Nat)
  | [] => [p]
  | x :: xs => if x.2 < p.2 then p :: x :: xs else x :: peakInsert p xs

/-- The four largest peaks, 6 dB or more above the noise floor, at delays 48 to 1,023 (R91). -/
def echoPeaks (ps : List (Nat × Nat)) : List (Nat × Nat) :=
  ((ps.filter fun p => 48 ≤ p.1 && p.1 ≤ 1023 && 60 ≤ p.2).foldl (fun acc p => peakInsert p acc) []).take 4

/-- ECHO_SEARCH: firmware places the echo taps, or disables them with ECHO_AUTO = 0 (R91). A peak is a delay in UI
and its height above the noise floor in 0.1 dB. -/
def echoSearchOp (l : Nat) (ps : List (Nat × Nat)) (s : State) : State :=
  if !s.fwcRunning || s.expert ⟨.req, l⟩ then s
  else if s.getB (R.REQ_CFG_ECHO_AUTO l) then
    if s.laneCode l == 2 || s.laneCode l == 3 then
      let found := echoPeaks ps
      capNote l ((List.range 4).foldl (fun s k =>
        match found[k]? with
        | some p => (s.set (R.REQ_FFE_SET_ECHO_DELAY l 1 k) p.1).setB (R.REQ_FFE_SET_ECHO_EN l 1 k) true
        | none => s.setB (R.REQ_FFE_SET_ECHO_EN l 1 k) false) s)
    else s
  else if s.laneCode l == 4 then s
  else capNote l ((List.range 4).foldl (fun s k => s.setB (R.REQ_FFE_SET_ECHO_EN l 1 k) false) s)

/-- The copies of the values in use that newly set freeze bits make (R98). -/
def freezeCopy (l new old newAfe oldAfe : Nat) (s : State) : State :=
  let rises (i a b : Nat) : Bool := bitAt a i = 1 && bitAt b i = 0
  let s := if rises 3 new old then (List.range 4).foldl (fun s i =>
      (s.set (R.REQ_LVL_FORCE_MEAN l i) (s.get (R.REQ_LVL_MEAN_MEAN l i))).set (R.REQ_LVL_FORCE_SIGMA l i)
        (s.get (R.REQ_LVL_SIGMA_SIGMA l i))) s else s
  let s := if rises 4 new old then
      (List.zipIdx (s.rx l).thresholds).foldl (fun s v => s.setI (R.REQ_SLICER_THR_T l v.2) v.1) s else s
  let s := if rises 0 newAfe oldAfe then s.set (R.LRX_AFE_CTRL_CTLE_FORCE l) (s.get (R.LRX_GAIN_CTLE l)) else s
  if rises 1 newAfe oldAfe then s.set (R.LRX_AFE_CTRL_VGA_FORCE l) (s.get (R.LRX_GAIN_VGA l)) else s

/-- The five freeze bits of REQ_ADAPT set to a value. -/
def adaptPut (l v : Nat) (s : State) : State :=
  let s := s.set (R.REQ_ADAPT_TR_FREEZE l) (bitAt v 0)
  let s := (s.set (R.REQ_ADAPT_FFE_FREEZE l) (bitAt v 1)).set (R.REQ_ADAPT_ECHO_FREEZE l) (bitAt v 2)
  (s.set (R.REQ_ADAPT_LVL_FREEZE l) (bitAt v 3)).set (R.REQ_ADAPT_THR_FREEZE l) (bitAt v 4)

/-- A write of the freeze bits and of the values that they make effective takes effect unless the lane is in COAST
(R98, R100). -/
def freezeSettle (l : Nat) (s : State) : State := if s.laneCode l == 4 then s else capNote l (freezeApply l s)

/-- ADAPT_FREEZE: REQ_ADAPT is written with `bits` [4:0], CTLE_FREEZE and AGC_FREEZE with [6:5] (R98). -/
def adaptFreezeOp (l v : Nat) (s : State) : State :=
  let old := adaptBits s l
  let oldAfe := afeBits s l
  let s := freezeCopy l (bits v 0 5) old (bits v 5 2) oldAfe s
  let s := adaptPut l (bits v 0 5) s
  let s := (s.set (R.LRX_AFE_CTRL_CTLE_FREEZE l) (bitAt v 5)).set (R.LRX_AFE_CTRL_AGC_FREEZE l) (bitAt v 6)
  freezeSettle l s

/-- One set of FFE values copied over another: 0 shadow, 1 in use, 2 read-back (R99). -/
def ffeCopy (l src dst : Nat) (s : State) : State :=
  let s := s.set (R.REQ_FFE_SET_MAIN l dst) (s.get (R.REQ_FFE_SET_MAIN l src))
  let s := (List.range 4).foldl (fun s k =>
    ((s.set (R.REQ_FFE_SET_ECHO_DELAY l dst k) (s.get (R.REQ_FFE_SET_ECHO_DELAY l src k))).set
      (R.REQ_FFE_SET_ECHO_EN l dst k) (s.get (R.REQ_FFE_SET_ECHO_EN l src k))).set
      (R.REQ_FFE_SET_ECHO_WEIGHT l dst k) (s.get (R.REQ_FFE_SET_ECHO_WEIGHT l src k))) s
  let s := if dst = 1 then s.putRx l { s.rx l with tapFine := List.replicate 48 0 } else s
  (List.range 48).foldl (fun s t =>
    s.set (R.REQ_FFE_SET_TAP_COEF l dst t) (s.get (R.REQ_FFE_SET_TAP_COEF l src t))) s

/-- FFE_COMMIT: refused in COAST with CONFLICT, else pending (R99, R100). -/
def ffeCommitOp (l : Nat) (s : State) : State :=
  if s.laneCode l == 4 then s.conflict ⟨.req, l⟩ else s.putRx l { s.rx l with commit := true }

/-- FFE_COMMIT_APPLY: the whole shadow set is applied (R99). -/
def ffeCommitApplyOp (l : Nat) (s : State) : State :=
  if (s.rx l).commit && s.laneCode l != 4 then capNote l (ffeCopy l 0 1 (s.putRx l { s.rx l with commit := false }))
  else s

/-- FFE_SNAP: the set in use is copied into the read-back set (R99). -/
def ffeSnapOp (l : Nat) (s : State) : State := ffeCopy l 1 2 s

/-- WARM_START_TIMEOUT: 20 ms without CANDLE; firmware restarts from the reach class (R102). -/
def warmStartTimeoutOp (l : Nat) (s : State) : State :=
  if s.laneCode l == 1 && (s.rx l).warm && s.fwcRunning then
    capNote l (reachLoad l (s.putRx l { s.rx l with warm := false }))
  else s

/-! ### Convergence and quality -/

/-- FFE_CONVERGED: 16 quiet superframes and an SNR of at least 10.0 dB (R103). -/
def ffeConvergedOp (l : Nat) (s : State) : State :=
  if loopsRun (s.laneCode l) && 16 ≤ (s.rx l).ffeRun && (s.rx l).snrTen then
    s.setB (R.REQ_STAT_FFE_CONV l) true
  else s

/-- MLSE_CONVERGED: levels and targets stable over 64 superframes (R103). -/
def mlseConvergedOp (l : Nat) (s : State) : State :=
  if loopsRun (s.laneCode l) && 64 ≤ (s.rx l).mlseRun then s.setB (R.REQ_STAT_MLSE_CONV l) true else s

/-- Whether 10·log10(a / b), in 0.1 dB, is at least n − 1/2. -/
def snrAtLeast (a b n : Nat) : Bool := b ^ 200 * 10 ^ (2 * n) ≤ a ^ 200 * 10

/-- The largest n below 2^k + base with `snrAtLeast`, found bit by bit. -/
def snrSearch (a b : Nat) : Nat → Nat → Nat
  | 0, base => base
  | k + 1, base => snrSearch a b k (if snrAtLeast a b (base + 2 ^ k) then base + 2 ^ k else base)

/-- The SNR in 0.1 dB, rounded to nearest with halves up (R107); none where the rounded value has no place in the
field's 0 to 1,023, which the rule does not cover. -/
def snrTenths (a b : Nat) : Option Nat :=
  if b = 0 || !snrAtLeast a b 0 || snrAtLeast a b 1024 then none else some (snrSearch a b 10 0)

/-- The two sums of R107, both in 1/256 square code: the level means' spread about their mean, times 16, and the
sigmas' squares, times 16. -/
def snrSums (means sigmas : List Int) : Nat × Nat :=
  let total := means.foldl (· + ·) 0
  ((means.foldl (fun acc m => acc + (4 * m - total) * (4 * m - total)) 0).toNat,
   (16 * sigmas.foldl (fun acc x => acc + x * x) 0).toNat)

/-- The SNR of a window: a free value where the rule gives none (R107). -/
def snrOf (means sigmas : List Int) (s : State) : Nat × State :=
  let p := snrSums means sigmas
  match snrTenths p.1 p.2 with
  | some n => (n, s)
  | none => (s.free 10, s.draw)

/-- The measured levels and targets come into use where their loops run (R92, R97, R98, R106). -/
def levelsInUse (l : Nat) (means sigmas : List Int) (h1 h2 : Nat) (s : State) : State :=
  let a := (s.rx l).adapt
  if !loopsRun (s.laneCode l) then s
  else
    let s := if bitAt a 3 = 1 then s else
      let s := (List.zipIdx means).foldl (fun s v => s.setI (R.REQ_LVL_MEAN_MEAN l v.2) v.1) s
      let s := (List.zipIdx sigmas).foldl (fun s v => s.setI (R.REQ_LVL_SIGMA_SIGMA l v.2) v.1) s
      if s.laneCode l = 1 then s else (s.set (R.REQ_MLSE_TGT_H1 l) h1).set (R.REQ_MLSE_TGT_H2 l) h2
    if bitAt a 4 = 1 then s else s.putRx l { s.rx l with thresholds := midpoints s l }

/-- The SNR of a window is reported, and a low one raises SNR_LOW; `ten` says that it is at least 10.0 dB (R103, R107,
R111). -/
def snrReport (l snr : Nat) (ten : Bool) (s : State) : State :=
  let s := (s.putRx l { s.rx l with snrTen := ten }).set (R.REQ_SNR_SNR l) snr
  if decodes (s.laneCode l) then
    let s := s.setB (R.REQ_SNR_VALID l) true
    if snr < s.get (R.REQ_SNR_MIN_SNR_MIN l) then capCause l 4 (s.irq ⟨.req, l⟩ 1) else s
  else s

/-- Whether an SNR is at least 10.0 dB, from the sums of R107 (R103). -/
def snrIsTen (means sigmas : List Int) : Bool :=
  let p := snrSums means sigmas
  p.1 != 0 && 10 * p.2 ≤ p.1

/-- The measured means and sigmas of a window, in 1/16 code; free values for a level as which no symbol was decided
(R106). -/
def windowLevels (ms : List LevelSum) (s : State) : List Int × List Int × State :=
  ms.foldl (fun v m =>
    match m.result with
    | some (mean, sigma) => (v.1 ++ [mean], v.2.1 ++ [(sigma : Int)], v.2.2)
    | none => (v.1 ++ [toInt 16 (v.2.2.free 16)], v.2.1 ++ [((v.2.2.draw.free 16 : Nat) : Int)], v.2.2.draw.draw))
    ([], [], s)

/-- MEAS_WINDOW_END: after 64 superframes the levels measured over the window are reported, with the targets that the
level loop has reached, and the next window begins (R106, R107). -/
def measWindowEndOp (l : Nat) (h1 h2 : Nat) (s : State) : State :=
  if s.sampling l && 64 ≤ (s.rx l).measured then
    let w := windowLevels (s.rx l).levels s
    let s := w.2.2.putRx l { w.2.2.rx l with measured := 0, levels := List.replicate 4 ⟨0, 0, 0⟩ }
    let s := capNote l (levelsInUse l w.1 w.2.1 h1 h2 s)
    let r := snrOf w.1 w.2.1 s
    snrReport l r.1 (snrIsTen w.1 w.2.1) r.2
  else s

/-- HIST_START: the bins are cleared and the count begins; refused while BUSY (R108). -/
def histStartOp (l : Nat) (s : State) : State :=
  if s.getB (R.REQ_HIST_STAT_BUSY l) then s.conflict ⟨.req, l⟩
  else
    let s := (List.range 256).foldl (fun s i => s.set (R.REQ_HIST_BIN_COUNT l i) 0) s
    let s := s.putRx l { s.rx l with histLeft := 2 ^ s.get (R.REQ_HIST_CFG_LEN l) }
    (s.setB (R.REQ_HIST_STAT_BUSY l) true).setB (R.REQ_HIST_STAT_DONE l) false

/-- HIST_DONE: 2^LEN samples are counted (R108). -/
def histDoneOp (l : Nat) (s : State) : State :=
  if s.getB (R.REQ_HIST_STAT_BUSY l) && (s.rx l).histLeft = 0 then
    ((s.setB (R.REQ_HIST_STAT_BUSY l) false).setB (R.REQ_HIST_STAT_DONE l) true).irq ⟨.req, l⟩ 2
  else s

/-! ### Meanings -/

/-- RX_PILOT_FIELD (R44). -/
def execRxPilotField (l : Lane) (frame : Fin 256) (field : PilotField)
    (s : State) : Host.Outcome State Fault Refusal :=
  done (rxPilotFieldOp l.val frame.val field s)

/-- PILOT_LOCK (R45). -/
def execPilotLock (l : Lane) (s : State) : Host.Outcome State Fault Refusal :=
  done (pilotLockOp l.val s)

/-- PILOT_LOCK_LOSS (R45). -/
def execPilotLockLoss (l : Lane) (s : State) : Host.Outcome State Fault Refusal :=
  done (pilotLockLossOp l.val s)

/-- RX_SFC_RECEIVED (R50). -/
def execRxSfcReceived (l : Lane) (v : Byte) (s : State) : Host.Outcome State Fault Refusal :=
  done (rxSfcReceivedOp l.val v.toNat s)

/-- SCR_LOCK (R50). -/
def execScrLock (l : Lane) (s : State) : Host.Outcome State Fault Refusal :=
  done (scrLockOp l.val s)

/-- SCR_LOCK_LOSS (R50). -/
def execScrLockLoss (l : Lane) (s : State) : Host.Outcome State Fault Refusal :=
  done (scrLockLossOp l.val s)

/-- IDEC_RESUME (R145). -/
def execIdecResume (l : Lane) (s : State) : Host.Outcome State Fault Refusal :=
  done (idecResumeOp l.val s)

/-- DIM_ENTRY (R69). -/
def execDimEntry (l : Lane) (s : State) : Host.Outcome State Fault Refusal :=
  done (dimEntryOp l.val s)

/-- DIM_EXIT (R69). -/
def execDimExit (l : Lane) (s : State) : Host.Outcome State Fault Refusal :=
  done (dimExitOp l.val s)

/-- LOS_SET (R81). -/
def execLosSet (l : Lane) (amp : Nat) (s : State) : Host.Outcome State Fault Refusal :=
  done (losSetOp l.val amp s)

/-- LOS_RAW_CLEAR (R81). -/
def execLosRawClear (l : Lane) (amp : Nat) (s : State) : Host.Outcome State Fault Refusal :=
  done (losRawClearOp l.val amp s)

/-- LOS_CLEAR (R81). -/
def execLosClear (l : Lane) (s : State) : Host.Outcome State Fault Refusal :=
  done (losClearOp l.val s)

/-- DIM_SIGNAL_TIMEOUT (R83). -/
def execDimSignalTimeout (l : Lane) (s : State) : Host.Outcome State Fault Refusal :=
  done (dimSignalTimeoutOp l.val s)

/-- RX_SUPERFRAME_UPDATE (R76). -/
def execRxSuperframeUpdate (l : Lane) (u : RxUpdate) (s : State) : Host.Outcome State Fault Refusal :=
  done (rxSuperframeUpdateOp l.val u s)

/-- AGC_DONE (R76). -/
def execAgcDone (l : Lane) (s : State) : Host.Outcome State Fault Refusal :=
  done (agcDoneOp l.val s)

/-- TR_LOCK_ACQUIRED (R86). -/
def execTrLockAcquired (l : Lane) (s : State) : Host.Outcome State Fault Refusal :=
  done (trLockAcquiredOp l.val s)

/-- TR_LOCK_LOST (R86). -/
def execTrLockLost (l : Lane) (s : State) : Host.Outcome State Fault Refusal :=
  done (trLockLostOp l.val s)

/-- HOST_CLOCK_SLEW_DONE (R196). -/
def execHostClockSlewDone (l : Lane) (s : State) : Host.Outcome State Fault Refusal :=
  done (hostClockSlewDoneOp l.val s)

/-- ECHO_SEARCH (R91). -/
def execEchoSearch (l : Lane) (peaks : List (Nat × Nat)) (s : State) : Host.Outcome State Fault Refusal :=
  done (echoSearchOp l.val peaks s)

/-- ADAPT_FREEZE (R98). -/
def execAdaptFreeze (l : Lane) (v : BitVec 7) (s : State) : Host.Outcome State Fault Refusal :=
  done (adaptFreezeOp l.val v.toNat s)

/-- FFE_COMMIT (R99). -/
def execFfeCommit (l : Lane) (s : State) : Host.Outcome State Fault Refusal :=
  done (ffeCommitOp l.val s)

/-- FFE_COMMIT_APPLY (R99). -/
def execFfeCommitApply (l : Lane) (s : State) : Host.Outcome State Fault Refusal :=
  done (ffeCommitApplyOp l.val s)

/-- FFE_SNAP (R99). -/
def execFfeSnap (l : Lane) (s : State) : Host.Outcome State Fault Refusal :=
  done (ffeSnapOp l.val s)

/-- WARM_START_TIMEOUT (R102). -/
def execWarmStartTimeout (l : Lane) (s : State) : Host.Outcome State Fault Refusal :=
  done (warmStartTimeoutOp l.val s)

/-- FFE_CONVERGED (R103). -/
def execFfeConverged (l : Lane) (s : State) : Host.Outcome State Fault Refusal :=
  done (ffeConvergedOp l.val s)

/-- MLSE_CONVERGED (R103). -/
def execMlseConverged (l : Lane) (s : State) : Host.Outcome State Fault Refusal :=
  done (mlseConvergedOp l.val s)

/-- MEAS_WINDOW_END (R106). -/
def execMeasWindowEnd (l : Lane) (h1 h2 : BitVec 12) (s : State) : Host.Outcome State Fault Refusal :=
  done (measWindowEndOp l.val h1.toNat h2.toNat s)

/-- HIST_START (R108). -/
def execHistStart (l : Lane) (s : State) : Host.Outcome State Fault Refusal :=
  done (histStartOp l.val s)

/-- HIST_DONE (R108). -/
def execHistDone (l : Lane) (s : State) : Host.Outcome State Fault Refusal :=
  done (histDoneOp l.val s)

/-- POWER_DETECTOR_READY (R81). -/
def execPowerDetectorReady (l : Lane) (s : State) : Host.Outcome State Fault Refusal :=
  done (powerDetectorReadyOp l.val s)

end Sys2Proof.Machine
end

