-- ==== Sys2Proof/Machine/Fec.lean ====
section
/-!
DEFINITION. Inner decoding, second-pass policy and throttling, signal degrade and fail, and the outer code (R121 to
R148).
-/

namespace Sys2Proof.Machine

open Sys2Proof

/-! ### One frame -/

/-- IDEC_FORCE, P2_POLICY and IDEC_SOFT take effect at a frame boundary (R129, R133, R146). -/
def idecSettings (l : Nat) (s : State) : State :=
  passRefresh l (s.putRx l { s.rx l with
    p2Off := s.getB (R.IDEC_FORCE_P2_OFF l), hard := s.getB (R.IDEC_FORCE_HARD l),
    failedOnly := s.getB (R.IDEC_CFG_P2_POLICY l), p1 := s.get (R.IDEC_SOFT_P1_TP l),
    p2 := s.get (R.IDEC_SOFT_P2_TP l), alpha := s.get (R.IDEC_SOFT_ALPHA l), beta := s.get (R.IDEC_SOFT_BETA l) })

/-- The values of a frame's coded stream from the first pass: the λ of the MLSE where decisions come from it, else the
line bits of the slicer's decisions (R92, R95, R121, R122). -/
def firstValues (p : RxShape) (x : LineSamples) : List Int :=
  if p.mlse then codedValues (p.detect x [])
  else ((lineBits p.precoded (p.levels x)).drop 8).map fun b => if b = 1 then -1 else 1

/-- The values of a frame's coded stream from the second engine, which works on the same samples with the priors `e` of
the line bits (R96, R127). -/
def secondValues (p : RxShape) (x : LineSamples) (e : List Int) : List Int :=
  withoutPriors (codedValues (p.detect x (symbolPriors e))) e

/-- The stuff pairs of a frame go to the Gleaner's window in progress on a lane (R209). -/
def calPairs (l : Nat) (p : RxShape) (x : LineSamples) (s : State) : State :=
  let c := s.cal l
  if c.stage == 2 || c.stage == 3 then s.putCal l { c with cores := stuffPairs p x c.cores } else s

/-- The scrambler bits that IDEC removes (R73, R122). -/
def rxScrambler (s : State) (l f : Nat) : List Nat :=
  if s.getB (R.LFR_TEST_SCR_BYPASS_RX l) then List.replicate 2856 0
  else codedScrambler (s.get (R.LFR_RX_SFC_COUNT l) % 256) f

/-- How many places of a delivered codeword differ from h (R128). -/
def corrections (h d : List Nat) : Nat := ((List.zip h d).filter fun p => p.1 != p.2).length

/-- A decoded codeword: its 1,428 bits where it was decodable, the first-pass h, the last h, and whether the second
pass rescued it. -/
structure Decoded where
  word : Option (List Nat)
  h : List Nat
  last : List Nat
  rescued : Bool
  deriving DecidableEq, Repr

/-- A codeword of a single pass. -/
def decodeOnce (soft : Option Nat) (r : List Int) : Decoded :=
  let h := hardBits r
  { word := match soft with | none => hardPass h | some p => softPass p r, h, last := h, rescued := false }

/-- A codeword whose second pass ran (R127). -/
def decodeTwice (p2 : Nat) (first : Decoded) (r2 : List Int) : Decoded :=
  match softPass p2 r2 with
  | some w => { first with word := some w, last := hardBits r2, rescued := first.word.isNone }
  | none => { first with last := hardBits r2 }

/-- The counts of one delivered codeword (R128, R140, R445). -/
def countWord (l : Nat) (d : Decoded) (s : State) : State :=
  let s := (s.wrapInc (R.IDEC_CW_COUNT l) 1).count ⟨.idec, l⟩ 0x40 1
  let s := if d.rescued then (s.wrapInc (R.IDEC_P2_RESCUE_COUNT l) 1).count ⟨.idec, l⟩ 0x45 1 else s
  match d.word with
  | some w =>
    let e := corrections d.h w
    let s := (s.wrapInc (R.IDEC_CORR_BITS_COUNT l) e).count ⟨.idec, l⟩ 0x41 e
    s.putRx l { s.rx l with winCorr := (s.rx l).winCorr + e }
  | none =>
    let s := (s.wrapInc (R.IDEC_UNCORR_COUNT l) 1).putRx l { s.rx l with winUncorr := (s.rx l).winUncorr + 1 }
    capCause l 5 ((s.count ⟨.idec, l⟩ 0x42 1).irq ⟨.idec, l⟩ 2)

/-- The data bits of a codeword (R123). -/
def Decoded.data (d : Decoded) : List Nat := (d.word.getD d.last).take 1360

/-- A frame is delivered: its codewords count and its data goes to GBX (R123, R140). -/
def deliver (l : Nat) (a b : Decoded) (s : State) : State :=
  let s := countWord l b (countWord l a s)
  s.putRx l { s.rx l with data := joinAB a.data b.data, lpi := false }

/-- What the second pass does with a frame: not wanted, lost to a pause, or run (R133, R134). -/
def secondWanted (s : State) (l : Nat) (a b : Decoded) : Bool :=
  !(s.rx l).failedOnly || a.word.isNone || b.word.isNone

/-- The priors that the first soft pass returns for the line bits of a frame (R126). -/
def framePriors (r : RxLane) (sc : List Nat) (ra rb : List Int) : List Int :=
  descramble sc (reinterleave false (extrinsic r.p1 r.alpha r.beta ra) (extrinsic r.p1 r.alpha r.beta rb))

/-- A frame in line mode FULL after its first pass; `paused` says that it falls within a pause (R126, R127, R133,
R134). -/
def secondPass (l : Nat) (p : RxShape) (x : LineSamples) (sc : List Nat) (paused : Bool) (a b : Decoded)
    (ra rb : List Int) (s : State) : State :=
  let e := framePriors (s.rx l) sc ra rb
  let s := s.putRx l { s.rx l with priors := e }
  if !secondWanted s l a b then deliver l a b s
  else if paused then
    let s := (s.wrapInc (R.IDEC_P2_SKIP_COUNT l) 1).count ⟨.idec, l⟩ 0x44 1
    deliver l a b (s.putRx l { s.rx l with winThrottled := true })
  else
    let q := deinterleave false (descramble sc (secondValues p x e))
    let s := ((s.wrapInc (R.IDEC_P2_RUN_COUNT l) 1).count ⟨.idec, l⟩ 0x43 1).count ⟨.req, l⟩ 0x41 1
    let s := s.putRx l { s.rx l with pauseLeft := s.p2Pause }
    deliver l (decodeTwice (s.rx l).p2 a q.1) (decodeTwice (s.rx l).p2 b q.2) s

/-- The passes of a frame whose first-pass values are `v` (R122 to R134). -/
def framePasses (l f : Nat) (p : RxShape) (x : LineSamples) (v : List Int) (s : State) : State :=
  let pass := s.get (R.IDEC_STAT_PASS l)
  let sc := rxScrambler s l f
  let q := deinterleave false (descramble sc v)
  let soft := if pass = 1 then none else some (s.rx l).p1
  let a := decodeOnce soft q.1
  let b := decodeOnce soft q.2
  let left := (s.rx l).pauseLeft
  let s := s.putRx l { s.rx l with pauseLeft := left - 1 }
  if pass = 3 then secondPass l p x sc (0 < left) a b q.1 q.2 s else deliver l a b s

/-- IDEC_FRAME: frame f of the received superframe, as the samples of its symbols (R92 to R96, R121 to R134); the
Gleaner takes its stuff pairs (R209). -/
def idecFrameOp (l f : Nat) (x : LineSamples) (s : State) : State :=
  if !s.sampling l || x.size != 1472 then s
  else
    let x := { x with place := 1472 * f }
    let p := s.rxShape l
    let s := idecSettings l (calPairs l p x s)
    if s.get (R.IDEC_STAT_PASS l) = 0 then s
    else
      let s := if p.mlse then s.count ⟨.req, l⟩ 0x40 1 else s
      framePasses l f p x (firstValues p x) s

/-! ### Counters and windows -/

/-- IDEC_CLR: every IDEC counter and the window return to 0 (R140, R146). -/
def idecClrOp (l : Nat) (s : State) : State :=
  let s := [R.IDEC_CW_COUNT l, R.IDEC_CORR_BITS_COUNT l, R.IDEC_UNCORR_COUNT l, R.IDEC_P2_RUN_COUNT l,
    R.IDEC_P2_SKIP_COUNT l, R.IDEC_P2_RESCUE_COUNT l, R.IDEC_WIN_CORR_COUNT l, R.IDEC_WIN_UNCORR_COUNT l,
    R.IDEC_WIN_STAT_VALID l].foldl (fun s f => s.set f 0) s
  windowClear l s

/-- The coded bits of a window of 2^w superframes (R142). -/
def windowBits (w : Nat) : Nat := 2 ^ w * 256 * 2856

/-- The threshold ceil(M × 10^-E × B) (R142). -/
def threshold (m e w : Nat) : Nat := (m * windowBits w + 10 ^ e - 1) / 10 ^ e

/-- SD at a window end (R143). -/
def judgeSd (l corr w : Nat) (s : State) : State :=
  let r := s.rx l
  let below := corr < threshold (s.get (R.IDEC_SD_CFG_CLR_M l)) (s.get (R.IDEC_SD_CFG_CLR_E l)) w
  let run := if below then r.sdClear + 1 else 0
  let s := s.putRx l { r with sdClear := run }
  if threshold (s.get (R.IDEC_SD_CFG_SET_M l)) (s.get (R.IDEC_SD_CFG_SET_E l)) w ≤ corr then
    s.change (R.IDEC_STAT_SD l) true ⟨.idec, l⟩ 0
  else if s.get (R.IDEC_SD_CFG_CLR_WINS l) ≤ run then s.change (R.IDEC_STAT_SD l) false ⟨.idec, l⟩ 0
  else s

/-- SF at a window end (R143). -/
def judgeSf (l corr uncorr w : Nat) (s : State) : State :=
  let r := s.rx l
  let bad := s.get (R.IDEC_SF_CFG_UNC l) ≤ uncorr ||
    threshold (s.get (R.IDEC_SF_CFG_SET_M l)) (s.get (R.IDEC_SF_CFG_SET_E l)) w ≤ corr
  let run := if bad then 0 else r.sfClear + 1
  let s := s.putRx l { r with sfClear := run }
  if bad then s.change (R.IDEC_STAT_SF l) true ⟨.idec, l⟩ 1
  else if s.get (R.IDEC_SD_CFG_CLR_WINS l) ≤ run then s.change (R.IDEC_STAT_SF l) false ⟨.idec, l⟩ 1
  else s

/-- IDEC_WINDOW_END: the window is reported and SD and SF are judged (R141, R143), by the values of
IDEC_SD_CFG and IDEC_SF_CFG that stand at its end (DESIGN CHOICE, log entry 257). -/
def idecWindowEndOp (l : Nat) (s : State) : State :=
  if s.get (R.IDEC_STAT_PASS l) = 0 then s
  else
    let r := s.rx l
    let w := s.get (R.IDEC_SD_CFG_WIN l)
    let s := (s.set (R.IDEC_WIN_CORR_COUNT l) r.winCorr).set (R.IDEC_WIN_UNCORR_COUNT l) r.winUncorr
    let s := ((s.setB (R.IDEC_WIN_STAT_VALID l) true).setB (R.IDEC_WIN_STAT_THROTTLED l) r.winThrottled).set
      (R.IDEC_WIN_STAT_W l) w
    windowClear l ((judgeSf l r.winCorr r.winUncorr w (judgeSd l r.winCorr w s)).irq ⟨.idec, l⟩ 3)

/-! ### The outer code -/

/-- GBX_OC_STAT.LEAD: the lane leads its port (R136). -/
def State.leads (s : State) (l : Nat) : Bool := !s.portBad l && s.leadLane l == l

/-- GBX_OC_STAT.TWO_PORTS (R136, R180). -/
def State.twoPorts (s : State) (l : Nat) : Bool := !s.portBad l && s.portW l == 0

/-- Whether the port's engine decodes: it observes, or some lane corrects (R137, R138). -/
def State.engineOn (s : State) (l : Nat) : Bool :=
  s.getB (R.GBX_OC_CFG_OBSERVE l) || (s.portMembers l).any fun m => (s.rx m).assist

/-- The symbol that a lane forwards: corrected, marked or as received (R138, R139). -/
def forwardSymbol (s : State) (lane pos sym : Nat) (fixed : Option (List Nat)) : Nat :=
  if !(s.rx lane).assist then sym
  else match fixed with
    | some w => w.getD pos sym
    | none => if s.getB (R.GBX_OC_CFG_MARK lane) && pos % 2 = 0 then sym ^^^ 0x2AA else sym

/-- The corrected symbols of a codeword, each counted by the lane that carried it (R136, R147). -/
def countSymbols (set : Nat) (members word fixed carriers : List Nat) (s : State) : State :=
  members.foldl (fun s m =>
    let n := ((List.zipIdx word).filter fun p =>
      p.1 != fixed.getD p.2 p.1 && carriers.getD p.2 16 / 2 == m).length
    s.wrapInc (R.GBX_OC_LANE_SYM_COUNT m set) n) s

/-- The port counts of one codeword (R137, R139, R147). -/
def countCodeword (l set : Nat) (word carriers : List Nat) (r : Option (List Nat × Nat)) (s : State) : State :=
  let s := (s.wrapInc (R.GBX_OC_CW_COUNT l set) 1).count ⟨.gbx, l⟩ 0x40 1
  match r with
  | none => ((s.wrapInc (R.GBX_OC_UNCORR_CW_COUNT l set) 1).count ⟨.gbx, l⟩ 0x42 1).irq ⟨.gbx, l⟩ 8
  | some (w, n) =>
    let s := if n = 0 then s else s.wrapInc (R.GBX_OC_CORR_CW_COUNT l set) 1
    let s := (s.wrapInc (R.GBX_OC_SYM_COUNT l set) n).count ⟨.gbx, l⟩ 0x41 n
    countSymbols set (s.portMembers l) word w carriers (s.satInc (R.GBX_OC_HIST_COUNT l set n) 1)

/-- The outer decoder of radius 15: the corrected word and the number of symbols in which it differs (R137, R139). -/
def outerDecode (word : List Nat) : Option (List Nat × Nat) :=
  match rsDecode word with
  | none => none
  | some w => some (w, ((word.zip w).filter fun p => p.1 != p.2).length)

/-- The symbols of a codeword go on to the host, those of each logical host lane to itself (R138, R139). -/
def forwardWord (members : List Nat) (out carriers : List Nat) (s : State) : State :=
  members.foldl (fun s m =>
    let mine (j : Nat) := ((List.zip out carriers).filter fun p => p.2 == 2 * m + j).map (·.1)
    let put (j : Nat) (fs : List (List Nat)) := if (mine j).isEmpty then fs else fs.set j (mine j)
    s.putRx m { s.rx m with forwarded := put 1 (put 0 (s.rx m).forwarded) }) s

/-- OC_CODEWORD: one codeword of the port led by lane l; `carriers` names each symbol's logical host lane, 2m for lane A
and 2m + 1 for lane B of line lane m (R137 to R139). -/
def ocCodewordOp (l set : Nat) (word carriers : List Nat) (s : State) : State :=
  if s.leads l && s.getB (R.GBX_OC_STAT_CW_LOCK l) && s.engineOn l && word.length == 544
      && (set == 0 || s.twoPorts l) then
    let r := outerDecode word
    let out := (List.zipIdx word).map fun p =>
      forwardSymbol s (carriers.getD p.2 (2 * l) / 2) p.2 p.1 (r.map (·.1))
    countCodeword l set word carriers r (forwardWord (s.portMembers l) out carriers s)
  else s

/-- GBX_OC_CLR: every outer-code counter of the GBX returns to 0 (R147). -/
def gbxOcClrOp (l : Nat) (s : State) : State :=
  [0, 1].foldl (fun s j =>
    let s := [R.GBX_OC_CW_COUNT l j, R.GBX_OC_CORR_CW_COUNT l j, R.GBX_OC_UNCORR_CW_COUNT l j,
      R.GBX_OC_SYM_COUNT l j, R.GBX_OC_LANE_SYM_COUNT l j].foldl (fun s f => s.set f 0) s
    (List.range 16).foldl (fun s n => s.set (R.GBX_OC_HIST_COUNT l j n) 0) s) s

/-! ### Meanings -/

/-- IDEC_FRAME (R121). -/
def execIdecFrame (l : Lane) (f : Fin 256) (x : LineSamples) (s : State) : Host.Outcome State Fault Refusal :=
  done (idecFrameOp l.val f.val x s)

/-- IDEC_CLR (R140). -/
def execIdecClr (l : Lane) (s : State) : Host.Outcome State Fault Refusal :=
  done (idecClrOp l.val s)

/-- IDEC_WINDOW_END (R141). -/
def execIdecWindowEnd (l : Lane) (s : State) : Host.Outcome State Fault Refusal :=
  done (idecWindowEndOp l.val s)

/-- OC_CODEWORD (R137). -/
def execOcCodeword (l : Lane) (set : Fin 2) (word carriers : List Nat)
    (s : State) : Host.Outcome State Fault Refusal :=
  done (ocCodewordOp l.val set.val word carriers s)

/-- GBX_OC_CLR (R147). -/
def execGbxOcClr (l : Lane) (s : State) : Host.Outcome State Fault Refusal :=
  done (gbxOcClrOp l.val s)

end Sys2Proof.Machine
end

