-- ==== Sys2Proof/Machine/Peek.lean ====
section
/-!
DEFINITION. What a register word holds when it is read without side effects: stored fields, banked fields, and fields
that follow the state (R5, R7, R9, R99, R157, R233, R334, R335, R352 to R354, R445, R452).
-/

namespace Sys2Proof.Machine

open Sys2Proof

/-! ### Interrupt routes and pins (R352 to R354) -/

/-- Whether a source bit exists, and whether it is urgent (R353, R354). -/
def sourceExists (b : Blk) (n : Nat) : Bool := b.kind.sources.contains n
def sourceUrgent (b : Blk) (n : Nat) : Bool := b.kind.urgent.contains n

/-- The route of a source: bit 0 INT_N, bit 1 ALARM_N, bit 2 FWC; at COLD INT_N and FWC, and ALARM_N where urgent
(R353). -/
def State.route (s : State) (b : Blk) (n : Nat) : Nat :=
  let v := s.get (R.IRQ_ROUTES_ROUTE b.irq n)
  if v = 0 then 5 + 2 * b2n (sourceUrgent b n) else v - 8

/-- IRQ_PEND[n] (R352). -/
def State.pendBit (s : State) (b : Blk) (n : Nat) : Bool := s.getB (R.IRQ_RAW_RAW b n) && s.getB (R.IRQ_EN_EN b n)

/-- Whether a block has a pending source routed to one of the destinations of a mask (R353, R354). -/
def State.pendsTo (s : State) (b : Blk) (mask : Nat) : Bool :=
  b.kind.sources.any fun n => s.pendBit b n && s.route b n &&& mask != 0

/-- Whether INT_N and ALARM_N are asserted (R353). -/
def State.intPin (s : State) : Bool := s.getB R.IRQ_CTRL_INT_EN && allBlocks.any fun b => s.pendsTo b 1
def State.alarmPin (s : State) : Bool := s.getB R.IRQ_CTRL_ALARM_EN && allBlocks.any fun b => s.pendsTo b 2

/-- The block that IRQ_ROUTE_SEL names. -/
def State.routeBlk (s : State) : Option Blk := blkOfIrq (s.get R.IRQ_ROUTE_SEL_INDEX)

/-- The level of a GPIO pin (R356). -/
def State.gpioLevel (s : State) (g : Nat) : Bool :=
  let sel := s.get (R.PIN_GPIO_CFG_SEL g)
  match s.get (R.PIN_GPIO_CFG_FUNC g) with
  | 1 => bitAt s.gpioPulse g == 1
  | 2 => s.laneCode sel == 3
  | 3 => !s.intPin
  | 4 => s.ppsLevel
  | _ => if s.getB (R.PIN_GPIO_CFG_DIR g) then s.getB (R.PIN_GPIO_CFG_OUT g) else s.getB (R.PIN_GPIO_CFG_IN g)

/-! ### Banked registers -/

/-- The rows of registers that show one of several banks, and of those that only follow the state. -/
def bankRows : BK → List FRow
  | .lrx =>
    [{ bk := .lrx, off := 0x408, lo := 0, w := 8, acc := .rw, kind := .cold, rst := 0, vmax := 255 },
     { bk := .lrx, off := 0x408, lo := 8, w := 12, acc := .rw, kind := .cold, rst := 0, vmax := 4095 },
     { bk := .lrx, off := 0x408, lo := 20, w := 10, acc := .rw, kind := .cold, rst := 0, vmax := 1023 }]
  | .req =>
    [{ bk := .req, off := 0x408, lo := 0, w := 6, acc := .rw, kind := .block, rst := 12, vmax := 47 },
     { bk := .req, off := 0x410, lo := 0, w := 10, acc := .rw, kind := .block, rst := 48, n := 4, s := 4, vmin := 48,
       vmax := 1023 },
     { bk := .req, off := 0x410, lo := 15, w := 1, acc := .rw, kind := .block, rst := 0, n := 4, s := 4, vmax := 1 },
     { bk := .req, off := 0x410, lo := 16, w := 12, acc := .rw, kind := .block, rst := 0, n := 4, s := 4, vmax := 4095 },
     { bk := .req, off := 0x800, lo := 0, w := 12, acc := .rw, kind := .block, rst := 0, n := 48, s := 4, vmax := 4095 }]
  | .txp =>
    [{ bk := .txp, off := 0x400, lo := 0, w := 3, acc := .rw, kind := .block, rst := 2, vmax := 6 },
     { bk := .txp, off := 0x404, lo := 0, w := 6, acc := .rw, kind := .block, rst := 40, vmin := 1, vmax := 42 },
     { bk := .txp, off := 0x410, lo := 0, w := 10, acc := .rw, kind := .block, rst := 0, n := 7, s := 4, vmax := 1023 },
     { bk := .txp, off := 0x800, lo := 0, w := 8, acc := .rw, kind := .block, rst := 0, n := 64, s := 4, vmax := 255 }]
  | .cal =>
    [{ bk := .cal, off := 0x404, lo := 0, w := 7, acc := .rw, kind := .cold, rst := 0, vmax := 127 },
     { bk := .cal, off := 0x404, lo := 8, w := 1, acc := .ro, kind := .cold, rst := 0, vmax := 1 }]
  | .pmc =>
    [{ bk := .pmc, off := 0x090, lo := 0, w := 32, acc := .ro, kind := .block, rst := 0, n := 5, s := 4, vmax := 0 },
     { bk := .pmc, off := 0x0C0, lo := 0, w := 8, acc := .rw, kind := .block, rst := 0, n := 8, s := 4, vmax := 255 },
     { bk := .pmc, off := 0x0C0, lo := 8, w := 1, acc := .rw, kind := .block, rst := 0, n := 8, s := 4, vmax := 1 },
     { bk := .pmc, off := 0x0C0, lo := 9, w := 1, acc := .w1c, kind := .block, rst := 0, n := 8, s := 4, vmax := 1 },
     { bk := .pmc, off := 0x0E0, lo := 0, w := 32, acc := .rw, kind := .block, rst := 0, n := 8, s := 4,
       vmax := 4294967295 },
     { bk := .pmc, off := 0x100, lo := 0, w := 48, acc := .rw, kind := .block, rst := 0, n := 8, s := 8,
       vmax := 281474976710655 }]
  | .irq =>
    [{ bk := .irq, off := 0x064, lo := 0, w := 3, acc := .ro, kind := .cold, rst := 0, vmax := 7 },
     { bk := .irq, off := 0x064, lo := 8, w := 2, acc := .ro, kind := .cold, rst := 0, vmax := 3 }]
  | _ => []

/-- The rows of a block's fixed header words and of IRQ_PEND (R335). -/
def fixedRows : List FRow :=
  [{ bk := .mgt, off := 0x000, lo := 0, w := 32, acc := .ro, kind := .por, rst := 0, vmax := 0 },
   { bk := .mgt, off := 0x004, lo := 0, w := 32, acc := .ro, kind := .por, rst := 0, vmax := 0 },
   { bk := .mgt, off := 0x018, lo := 0, w := 32, acc := .ro, kind := .block, rst := 0, vmax := 0 }]

/-- The block that PMC_SEL shows (R448). -/
def State.pmcSel (s : State) : Blk := (blkOfIrq (s.get R.PMC_SEL_INDEX)).getD (dev .mgt)

/-- The field that a row's element is stored in, where it is banked; `write` tells the shadow set, which takes writes,
from the read-back set (R99, R157). -/
def bankFld (s : State) (b : Blk) (write : Bool) (off lo i : Nat) : Option Fld :=
  let l := b.inst
  let set := if write then 0 else 2
  match b.kind with
  | .lrx =>
    if off = 0x408 then
      let c := s.get (R.LRX_CORE_SEL_CORE l)
      some (if lo = 0 then R.LRX_CORE_TRIM_OFFSET l c else if lo = 8 then R.LRX_CORE_TRIM_GAIN l c
        else R.LRX_CORE_TRIM_SKEW l c)
    else none
  | .req =>
    if off = 0x408 && lo = 0 then some (R.REQ_FFE_SET_MAIN l set)
    else if off = 0x410 then
      some (if lo = 0 then R.REQ_FFE_SET_ECHO_DELAY l set i else if lo = 15 then R.REQ_FFE_SET_ECHO_EN l set i
        else R.REQ_FFE_SET_ECHO_WEIGHT l set i)
    else if off = 0x800 then some (R.REQ_FFE_SET_TAP_COEF l set i)
    else none
  | .txp =>
    if off = 0x400 then some (R.TXP_SET_MAIN l set)
    else if off = 0x404 then some (R.TXP_SET_STEP l set)
    else if off = 0x410 then some (R.TXP_SET_FIR_COEF l set i)
    else if off = 0x800 then some (R.TXP_SET_PD_P l set i)
    else none
  | .cal =>
    if off = 0x404 && lo = 0 then some (R.LTX_CELL_TRIM (s.get R.CAL_DAC_SEL_LANE) (s.get R.CAL_DAC_SEL_CELL)) else none
  | .pmc =>
    let c := s.pmcSel
    if off = 0x0C0 then
      some (if lo = 0 then R.PMC_EVSEL_EVENT c i else if lo = 8 then R.PMC_EVSEL_EN c i else R.PMC_EVSEL_OVF c i)
    else if off = 0x0E0 then some (R.PMC_PRELOAD_P c i)
    else if off = 0x100 then some (R.PMC_CNT_COUNT c i)
    else none
  | _ => none

/-! ### Fields that follow the state -/

/-- A number whose bit i is p i, for i below n. -/
def bitsOf (n : Nat) (p : Nat → Bool) : Nat := ofBits ((List.range n).map fun i => b2n (p i))

/-- Whether a block has a command in progress: BLK_STAT.BUSY (R335). -/
def State.blkBusy (s : State) (b : Blk) : Bool :=
  match b.kind with
  | .cap => s.get (R.CAP_STAT_STATE b.inst) == 1 || s.get (R.CAP_STAT_STATE b.inst) == 2
      || s.get (R.CAP_STAT_STATE b.inst) == 6
  | .pmc => s.getB R.PMC_SNAP_STAT_BUSY
  | .evr => s.stub.commit.isSome
  | .nvs => s.nvsWriter != 0
  | .mem => s.get R.MEM_MARCH_STAT_STATE == 1
  | .sec => s.get R.SEC_CMD_STAT_STATE == 1
  | .pwr => s.getB R.PWR_STATE_BUSY || s.getB R.PWR_PL_STAT_BUSY
  | .cal => s.getB R.CAL_STAT_ANCHOR_BUSY || s.getB R.CAL_STAT_SAVE_BUSY || s.calDev.startup
  | .fwc => (List.range 4).any fun n =>
      s.get (R.FWC_MBX_SLOT_STATE n) == 1 || s.get (R.FWC_MBX_SLOT_STATE n) == 2
  | .shf => (List.range 4).any fun k => s.getB (R.SHF_LANE_STATE_BUSY b.inst k)
  | .req => s.getB (R.REQ_HIST_STAT_BUSY b.inst)
  | _ => false

/-- A header field that follows the state (R335, R506). -/
def liveHeader (s : State) (b : Blk) (off lo : Nat) : Option Nat :=
  if off = 0x000 then some (b.kind.pages + 64 * b.kind.level + 256 * b.inst + 65536 * b.kind.type)
  else if off = 0x004 then some 1
  else if off = 0x008 && lo = 0 && !b.kind.enWritable then some 1
  else if off = 0x00C && lo = 0 then some (s.blkState b)
  else if off = 0x00C && lo = 6 then some (b2n (s.blkBusy b))
  else if off = 0x00C && lo = 7 then some (b2n (s.inReset b))
  else if off = 0x018 then some (bitsOf 32 fun n => s.pendBit b n)
  else none

/-- MSG_Q_STAT.HEAD_DUE: the head entry is timed and its launch time has come (R299). -/
def State.headDue (s : State) (q : Nat) : Bool :=
  match s.queue q with
  | e :: _ => timedReady s q e && e.launch * 256 ≤ s.now
  | [] => false

/-- The 32 words of the head message of the receive FIFO (R287). -/
def rxWord (s : State) (i : Nat) : Nat :=
  match s.msg.rx with
  | m :: _ => ofBytesBE ((List.range 4).map fun k => m.payload.getD (4 * i + k) 0)
  | [] => 0

/-- A field of MSG that follows the state (R286, R287, R292, R293, R299). -/
def liveMsg (s : State) (off lo i : Nat) : Option Nat :=
  if off = 0x060 && lo = 3 then some (b2n (s.bondErr i))
  else if off = 0x060 && lo = 4 then some (s.get (R.MSG_LANE_STAT_SESSION (s.lead i)))
  else if off = 0x084 then some s.hopsOut
  else if off = 0x0C0 && lo = 0 then some (s.queue i).length
  else if off = 0x0C0 && lo = 8 then some (b2n (s.headDue i))
  else if off = 0x100 && lo = 0 then some s.msg.ts.length
  else if off = 0x104 then
    match s.msg.ts with
    | e :: _ => some (if lo = 0 then e.id else if lo = 8 then e.lane else if lo = 12 then e.status else 1)
    | [] => some 0
  else if off = 0x108 then some ((s.msg.ts.head?.map (·.sfc)).getD 0)
  else if off = 0x10C then some ((s.msg.ts.head?.map fun e =>
    if e.time = 0 then 0 else reportedTime (e.time * 256) false).getD 0)
  else if off = 0x120 && lo = 0 then some s.msg.rx.length
  else if off = 0x124 then
    match s.msg.rx with
    | m :: _ => some (if lo = 0 then m.type else if lo = 8 then m.payload.length / 32 - 1 else if lo = 12 then m.lane
        else if lo = 15 then b2n m.auth else if lo = 16 then b2n m.late else 1)
    | [] => some 0
  else if off = 0x128 then
    some ((s.msg.rx.head?.bind fun m => m.time.map fun t =>
      reportedTime (addOffset t (-s.getI (R.TIM_PLANE_RX_OFS m.lane)) * 256) false).getD 0)
  else if off = 0x134 then some ((s.msg.rx.head?.map (·.sfc)).getD 0)
  else if off = 0x184 && lo = 0 then some s.msg.remote.length
  else if off = 0x1200 then some (rxWord s i)
  else none

/-- A field of TIM that follows the state (R236, R245, R258, R257). -/
def liveTim (s : State) (off lo i : Nat) : Option Nat :=
  if off = 0x048 then some (fullTime s.now)
  else if off = 0x100 && lo = 31 then
    some (b2n (s.getB R.TIM_STAT_FINE_READY && s.framesSent i && s.laterLocked i))
  else if off = 0x104 && lo = 31 then
    some (b2n (s.getB R.TIM_STAT_FINE_READY && decodes (s.laneCode i) && s.getB (R.GBX_HOST_STAT_RX_AM_LOCK i 0)
      && !s.getB (R.IDEC_STAT_STOPPED i)))
  else if off = 0x184 && lo = 0 then some s.tim.osc.epoch
  else if off = 0x184 && lo = 16 then some (if s.tim.tempAt.isNone then 0 else (oscBin s.tim.temp).getD 0)
  else if off = 0x184 && lo = 28 then some (b2n (s.tim.tempAt.isSome && (oscBin s.tim.temp).isSome))
  else if off = 0x188 then some (ofInt 32 s.tim.osc.aging)
  else none

/-- A field of a lane block or a host lane that follows the state (R136, R147, R158, R169, R179, R182, R203, R204).
What the spec leaves to the moment of reading, a running count, is a free value. -/
def liveLane (s : State) (b : Blk) (off lo i : Nat) : Option Nat :=
  let l := b.inst
  match b.kind with
  | .idec =>
    if off = 0x0A0 then some s.p2Pause
    else if off = 0x044 && lo = 4 then some (b2n (s.p2Pause != 0))
    else none
  | .gbx =>
    if off = 0x104 && lo = 1 then some (b2n (s.leads l))
    else if off = 0x104 && lo = 2 then some (b2n (s.twoPorts l))
    else if off = 0x104 && lo = 3 then some (b2n (s.rx l).assist)
    else if 0x110 ≤ off && off < 0x200 && off != 0x130 && !s.leads l then some 0
    else none
  | .txp => if off = 0x048 && lo = 3 then some (b2n (s.autoRuns l)) else none
  | .ltx =>
    if off = 0x048 && lo = 9 then some (b2n (s.tripActive l))
    else if off = 0x048 && lo = 10 then some (b2n s.held)
    else if off = 0x048 && lo = 11 then some (b2n (s.ldisPin l))
    else none
  | .hsd =>
    if off = 0x044 && lo = 2 then some (b2n (s.hostActive l))
    else if off = 0x058 && s.prbsOpen l then some ((s.get (R.HSD_PRBS_ERR_COUNT l) + s.free 48) % 2 ^ 48)
    else if off = 0x060 && s.prbsOpen l then some ((s.get (R.HSD_PRBS_BITS_COUNT l) + s.free 48) % 2 ^ 48)
    else if off = 0x410 then some ((s.host l).ffe.getD i 0)
    else none
  | _ => none

/-- The owner slot in use: the highest that is programmed and not revoked (R461). -/
def Fuses.ownerSlot (x : Fuses) : Option Nat :=
  ((List.range 4).filter fun n => n < x.owners.length && bitAt x.revoked n == 0).getLast?

/-- SEC_ID_HASH as a number, word 0 first: SHA-384 of the identity public key (R462). -/
def State.idHash (s : State) : Nat :=
  if s.fuses.identity then sha384 (toBytesBE 96 (publicKey Config.identityKey.toNat))
  else Config.erasedHash.toNat

/-- A field of a device block that follows the state. -/
def liveDev (s : State) (k : BK) (off lo i j : Nat) : Option Nat :=
  match k with
  | .mgt =>
    if off = 0x044 && lo = 0 then some s.spi.queue.length
    else if off = 0x044 && lo = 8 then some s.i3c.queue.length
    else if off = 0x044 && lo = 16 then some s.spi.tags.length
    else if off = 0x044 && lo = 20 then some s.i3c.tags.length
    else none
  | .irq =>
    if off = 0x044 then some (b2n (if lo = 0 then s.intPin else s.alarmPin))
    else if off = 0x048 then some (bitsOf 20 fun n => s.pendsTo (dev (deviceKinds.getD n .mgt)) 3)
    else if off = 0x04C then
      some (bitsOf 4 fun n => s.pendsTo (if n < 2 then ⟨.shf, n⟩ else ⟨.cap, n - 2⟩) 3)
    else if off = 0x050 then some (bitsOf 8 fun l => laneKinds.any fun k => s.pendsTo ⟨k, l⟩ 3)
    else if off = 0x054 then some (bitsOf 16 fun h => s.pendsTo ⟨.hsd, h⟩ 3)
    else if off = 0x064 then
      let n := s.get R.IRQ_ROUTE_SEL_BIT
      match s.routeBlk with
      | some b => some (if !sourceExists b n then 0 else if lo = 0 then s.route b n else b2n (sourceUrgent b n) + 2)
      | none => some 0
    else none
  | .clk =>
    let valid := s.getB R.TIM_STAT_TREF_OK && s.getB R.CLK_STAT_REF_OK
    if off = 0x044 then some (if lo = 31 then b2n valid else if valid then s.free 16 else 0) else none
  | .sec =>
    if off = 0x040 && lo = 0 then some s.fuses.life
    else if off = 0x040 && lo = 4 then some (s.fuses.ownerSlot.getD 0)
    else if off = 0x040 && lo = 6 then some 1
    else if off = 0x054 && lo = 0 then some s.fuses.fwSvn
    else if off = 0x054 then some s.fuses.profileSvn
    else if off = 0x060 then some (s.idHash / 2 ^ (32 * (11 - i)))
    else none
  | .pwr =>
    if off = 0x054 && lo = 8 then some s.need
    else if off = 0x058 then some (levelVolt j)
    else none
  | .tim => liveTim s off lo i
  | .msg => liveMsg s off lo i
  | .cal =>
    if off = 0x04C && lo = 2 then some (b2n s.calThrottled)
    else if off = 0x080 && lo = 3 then some (b2n (s.expert ⟨.lrx, i⟩))
    else if off = 0x404 && lo = 8 then
      some (b2n (s.get (R.LTX_CELL_OUT_CELL (s.get R.CAL_DAC_SEL_LANE)) == s.get R.CAL_DAC_SEL_CELL))
    else none
  | .mfil => if off = 0x108 && lo = 1 then some (b2n (s.starved i)) else none
  | .nvs =>
    if off = 0x040 && lo = 0 then some (b2n (s.nvsWriter != 0))
    else if off = 0x040 then some s.nvsWriter
    else none
  | .pin => if lo = 6 then some (b2n (s.gpioLevel i)) else none
  | .pmc =>
    if off = 0x090 then
      some (bitsOf 32 fun n => match blkOfIrq (32 * i + n) with
        | some b => (List.range 8).any fun c => s.getB (R.PMC_EVSEL_OVF b c)
        | none => false)
    else none
  | .evr =>
    if off = 0x048 && lo = 0 then some (b2n s.stub.commit.isSome)
    else if off = 0x048 && lo = 1 then some (b2n (s.stub.waiting != 0))
    else if off = 0x048 && lo = 4 then some s.store.kept.lastSlot
    else if off = 0x048 && lo = 8 then some s.store.kept.lastTrig
    else if off = 0x04C then some s.store.kept.seq
    else if off = 0x0C0 && lo = 0 then some s.store.kept.used
    else if off = 0x0C0 && lo = 8 then some s.store.kept.signed
    else if off = 0x070 then some s.evLost
    else none
  | _ => none

/-- What element (i, j) of a row holds: a field that follows the state, the bank's field, or the stored field. -/
def fieldValue (s : State) (b : Blk) (r : FRow) (i j : Nat) : Nat :=
  let live := if r.off < 0x40 then liveHeader s b r.off r.lo
    else match b.lane? with
      | some _ => liveLane s b r.off r.lo i
      | none => liveDev s b.kind r.off r.lo i j
  match live with
  | some v => v % 2 ^ r.w
  | none => match bankFld s b false r.off r.lo i with
    | some f => s.get f
    | none => s.get (r.at b.base i j)

/-- The rows of a block. -/
def allRows (b : Blk) : List FRow := fixedRows ++ headerRows ++ bankRows b.kind ++ rowsOf b.kind

/-- The word of a block at an offset (R5, R7). -/
def wordAt (s : State) (b : Blk) (o : Nat) : Nat :=
  (allRows b).foldl (fun acc r =>
    (r.hits o).foldl (fun acc h =>
      let v := fieldValue s b r h.1 h.2.1
      if r.words = 1 then acc + v * 2 ^ (r.lo + r.b2 * h.2.1) else acc + bits v (32 * h.2.2) 32) acc) 0

/-- The registers of a page that only SEC may read: the key material has none on the map, so no register is of the
SECURE class; a page of a block that is not there, or outside the map, has no words. -/
def pageThere (a : Nat) : Option Blk := (blkOfAddr a).filter fun b => a % 65536 / 4096 < b.kind.pages

end Sys2Proof.Machine
end

