-- ==== Sys2Proof/Machine/Stub.lean ====
section
/-!
DEFINITION. Whether a domain answers, and the Stub record: the event ring, commits and the slots in Granary
(R347, R365, R427, R449 to R458).
-/

namespace Sys2Proof.Machine

open Sys2Proof

/-! ### The event ring (R449) -/

/-- The ring's size in entries. -/
def ringSize : Nat := 16384

/-- An entry of the ring: Stub event entry, word 0 in the lowest bits (R449). -/
def entryOf (e : StubEvent) : Nat :=
  reportedTime e.time false % 2 ^ 64
    + 2 ^ 64 * (e.code % 256 + 2 ^ 8 * (e.block % 256) + 2 ^ 16 * (e.inst % 256) + 2 ^ 24 * (e.power % 4)
      + 2 ^ 26 * b2n e.timeValid)
    + 2 ^ 96 * (e.data % 2 ^ 32)

/-- The entry at an index; 0 where none was written. -/
def State.ringAt (s : State) (i : Nat) : Nat := (natGet s.stub.ring i).getD 0

/-- Whether an event is the opening COMMIT entry of a commit (R449). -/
def StubEvent.opens (e : StubEvent) : Bool := e.code == 0x10 && bitAt e.data 8 == 0

/-- An entry goes into the ring at EVR_WR_IDX (R449); the opening entry of a commit fixes the range that the commit
copies (R452). -/
def ringPut (e : StubEvent) (s : State) : State :=
  let i := s.get R.EVR_WR_IDX_INDEX
  let s := { s with stub := { s.stub with ring := natSet s.stub.ring i (entryOf e) 0 } }
  let s := s.set R.EVR_WR_IDX_INDEX (i + 1)
  let s := if i + 1 = ringSize then s.setB R.EVR_WR_IDX_WRAPPED true else s
  let s := if e.code = 0x11 then s.irq (dev .evr) 2 else s
  match s.stub.commit with
  | some c =>
    if c.last.isNone && e.opens then
      let first := if s.getB R.EVR_WR_IDX_WRAPPED then s.get R.EVR_WR_IDX_INDEX else 0
      { s with stub := { s.stub with commit := some { c with last := some i, first := first, ring := s.stub.ring } } }
    else s
  | none => s

/-- The place, within the range that a commit copies, of the ring position that is written next, if it lies in that
range (R452). -/
def StubCommit.place (c : StubCommit) (i : Nat) : Option Nat :=
  match c.last with
  | none => none
  | some last =>
    let k := (i + ringSize - c.first) % ringSize
    if k ≤ (last + ringSize - c.first) % ringSize then some k else none

/-- An event that would overwrite an entry not yet copied is dropped and counted toward LOST (R452). -/
def ringDrop (e : StubEvent) (s : State) : State :=
  let lost := if e.code = 0x11 then e.data else 1
  { s with
    evDropped := s.evDropped + lost
    evLost := if e.code = 0x11 then s.evLost else satAdd 32 s.evLost 1
    stub := s.stub.dropped }

/-- An entry moves into the ring. How far a commit has copied is not given: a free value tells whether the position has
been copied; what has been stays copied, and once the header write has begun all of the range has (R452). -/
def drainPut (e : StubEvent) (s : State) : State :=
  match s.stub.commit with
  | none => ringPut e s
  | some c =>
    match c.place (s.get R.EVR_WR_IDX_INDEX) with
    | none => ringPut e s
    | some k =>
      if c.begun || k < c.copied then ringPut e s
      else if s.free 1 = 0 then ringDrop e s.draw
      else ringPut e { s.draw with stub := { s.stub with commit := some { c with copied := k + 1 } } }

/-- The LOST entry of the first event that was accepted after others had been dropped (R449). -/
def StubEvent.lostEntry (e : StubEvent) : StubEvent :=
  { e with block := (dev .evr).irq, inst := 0, code := 0x11, data := e.lost, lost := 0 }

/-- One event moves from the queue into the ring, its LOST entry before it (R449, R450). -/
def drainOne (e : StubEvent) (s : State) : State :=
  let s := if e.lost = 0 then s else drainPut e.lostEntry s
  drainPut { e with lost := 0 } s

/-- At most n events move from the queue into the ring, oldest first (R450). -/
def drainQueue : Nat → State → State
  | 0, s => s
  | n + 1, s =>
    match s.evQueue with
    | [] => s
    | e :: es => drainQueue n (drainOne e { s with evQueue := es })

/-- STUB_EVENT_DRAIN (R450). -/
def stubEventDrainOp (n : Nat) (s : State) : State := drainQueue n s

/-- EVR_RD_SELECT: the entry is copied into EVR_RD_DATA; `ue` is set when the read of the ring finds an uncorrectable
half, whose data the spec does not give (R449). -/
def evrRdSelectOp (i : Nat) (ue : Bool) (s : State) : State :=
  let s := (s.set R.EVR_RD_IDX_INDEX i).setB R.EVR_RD_IDX_UE ue
  let v := if ue then s.free 128 else s.ringAt (i % ringSize)
  let s := if ue then s.draw else s
  s.set R.EVR_RD_DATA_ENTRY v

/-- EVR_LOG: a SOFTWARE event (R449). -/
def evrLogOp (tag : Nat) (s : State) : State := s.event (dev .evr) tag 0x0F (s.get R.EVR_LOG_DATA_DATA)

/-! ### Snapshot pages (R452) -/

/-- Whether a page of a block is written as all ones: its domain is asleep, fenced or resetting (R452). -/
def State.pageMasked (s : State) (b : Blk) : Bool :=
  !s.domainAwake b.domain || s.fenced b || s.inReset b || !s.started b

/-- The word at an address as a snapshot takes it: all ones where the page is masked or SECURE; a free value at an
address without a readable word (R334, R452). -/
def pageWord (s : State) (a n : Nat) : Nat :=
  match pageThere a with
  | some b => if s.pageMasked b then 0xFFFFFFFF else wordAt s b (a % 65536)
  | none =>
    if scratchBase ≤ a && a < scratchBase + scratchSize then s.memWord a
    else if granaryBase + 0x6C0000 ≤ a && a < granaryBase + 0x6D0000 then 0xFFFFFFFF
    else if granaryBase ≤ a && a < granaryBase + granarySize then s.memWord a
    else (Config.freeValue (s.freeCount + n) 32).toNat

/-- The 1,024 words of snapshot page k; none where it is not included. -/
def pageWords (s : State) (k : Nat) : List Nat :=
  if s.getB (R.EVR_SNAP_PAGE_EN k) then
    (List.range 1024).map fun i => pageWord s (4096 * s.get (R.EVR_SNAP_PAGE_PAGE k) + 4 * i) (1024 * k + i)
  else []

/-- All snapshot pages, in order; the free values they used are spent. -/
def snapPages (s : State) : List (List Nat) := (List.range 15).map (pageWords s)
def State.spendPages (s : State) : State := { s with freeCount := s.freeCount + 15360 }

/-! ### Commits (R451 to R456) -/

/-- The slot of the next commit: in turn, or with KEEP_FIRST the lowest unused one (R454). -/
def nextSlot (s : State) : Option Nat :=
  let k := s.store.kept
  if s.getB R.EVR_CFG_KEEP_FIRST then (List.range 8).find? fun n => bitAt k.used n == 0
  else some (if k.seq = 0 then 0 else (k.lastSlot + 1) % 8)

/-- The sheaf whose capture memory takes the frozen pages: 0, or 1 when that of 0 is FAILED or unpowered (R452). -/
def freezeSheaf (s : State) : Option Nat :=
  if s.coldAsserted || 2 ≤ s.power then none
  else if !s.failed (capBlk 0) then some 0
  else if !s.failed (capBlk 1) then some 1
  else none

/-- A march of capture memory stops for a commit (R422). -/
def marchPreempt (s : State) : State :=
  if s.get R.MEM_MARCH_STAT_STATE = 1 && 0x20 ≤ s.store.marchId && s.store.marchId < 0x22 then
    let c := s.store.marchId - 0x20
    (((capScramble c s).set R.MEM_MARCH_STAT_STATE 4).set (R.CLAIM_OWNER (capBlk c)) 0).irq (dev .mem) 2
  else s

/-- A commit starts with a trigger mask: its opening entry, the pre-emption of the captures and the frozen pages
(R452). -/
def startCommit (mask : Nat) (s : State) : State :=
  let slot := nextSlot s
  let n := slot.getD (s.free 3)
  let s := (if slot.isSome then s else s.draw).event (dev .evr) n 0x10 mask
  let s := marchPreempt (capPreempt s)
  let mem := freezeSheaf s
  let s := match mem with
    | some c => capScramble c s
    | none => s
  let pages := if mem.isSome then snapPages s else []
  let c : StubCommit :=
    { mask := mask, slot := n, discard := slot.isNone, frozen := mem.isSome, begun := false, dropped := false
      time := s.now
      words := [wordAt s (dev .rst) 0x44, wordAt s (dev .rst) 0x48, wordAt s (dev .pwr) 0x44, wordAt s (dev .thm) 0x4C]
      names := (List.range 15).map fun k => wordAt s (dev .evr) (0x80 + 4 * k)
      pages := pages, first := 0, last := none, ring := [], copied := 0 }
  { s.spendPages with stub := { s.stub with commit := some c } }

/-- Whether an automatic trigger is held off: its kind was part of a commit that ended less than HOLDOFF × 100 ms
earlier (R451). -/
def State.heldOffTrigger (s : State) (bit : Nat) : Bool :=
  match (s.stub.ended[bit]?).getD none with
  | some t => bit != 5 && s.elapsed - t < s.get R.EVR_CFG_HOLDOFF * 100000000 * 2 ^ 48
  | none => false

/-- A trigger that comes too late for the commit in progress waits for one further commit, but for a switch-over
(R453). -/
def triggerWaits (bit : Nat) (s : State) : State :=
  if bit = 2 then s
  else if s.heldOffTrigger bit then s.satInc R.EVR_SUPPRESS_COUNT 1
  else { s with stub := { s.stub with waiting := orBits 8 s.stub.waiting (2 ^ bit) } }

/-- A commit trigger: 0 uncorrectable SRAM read, 1 thermal hold, 2 switch-over, 3 watchdog, 4 security, 5 software
(R451, R453). When the header write of a commit begins is not given: a free value tells whether it has. -/
def commitTrigger (bit : Nat) (s : State) : State :=
  if (bit = 0 && !s.getB R.EVR_CFG_TRIG_UE) || (bit = 3 && !s.getB R.EVR_CFG_TRIG_WDT) then s
  else match s.stub.commit with
    | none => if s.heldOffTrigger bit then s.satInc R.EVR_SUPPRESS_COUNT 1 else startCommit (2 ^ bit) s
    | some c =>
      if c.begun then triggerWaits bit s
      else if s.free 1 = 0 then
        { s.draw with stub := { s.stub with commit := some { c with mask := orBits 8 c.mask (2 ^ bit) } } }
      else triggerWaits bit { s.draw with stub := { s.stub with commit := some { c with begun := true } } }

/-- EVR_COMMIT: EVR_CTRL.COMMIT, which EN = 0 stops (R451). -/
def evrCommitOp (s : State) : State := if s.blkState (dev .evr) = 2 then commitTrigger 5 s else s

/-- Whether SEC can use the identity key, which the key-encryption key wraps (R462, R483, R485). -/
def State.identityUsable (s : State) : Bool := s.fuses.identity && s.fuses.kek && !s.sec.kekBlocked

/-- Whether SEC can sign: the identity key is there and the device is not in lockdown (R456). -/
def State.canSign (s : State) : Bool :=
  (s.fuses.life == 1 || s.fuses.life == 2) && s.identityUsable && !s.getB R.SEC_STAT_LOCKDOWN

/-- The first address of a Stub slot (R455). -/
def slotBase (n : Nat) : Nat := 0x10300000 + n * 0x50000

/-- Words as bytes, least significant byte first (R3). -/
def wordsLE (ws : List Nat) : List Nat := ws.flatMap fun w => toBytesLE 4 w

/-- The header of a slot (R455). -/
def slotHeader (c : StubCommit) (seq hash : Nat) : List Nat :=
  let t := fullTime c.time
  wordsLE ([0x53545542, 1, seq, c.mask + 256 * b2n c.frozen + 512 * b2n c.dropped, bits t 0 32, bits t 32 32,
    bits t 64 32, c.first] ++ c.words ++ c.names) ++ List.replicate 20 0
    ++ toBytesBE 48 hash

/-- The bytes of the ring copy, oldest entry first (R452, R455). -/
def ringBytes (c : StubCommit) : List Nat :=
  let last := c.last.getD 0
  (List.range ((last + ringSize - c.first) % ringSize + 1)).flatMap fun k =>
    toBytesLE 16 ((natGet c.ring ((c.first + k) % ringSize)).getD 0)

/-- The trailer of a slot is written: the digest over the slot, and SEC's signature when it signs (R455, R456). -/
def signSlot (n signed : Nat) (s : State) : State :=
  let digest := sha384 (s.bytesAt (slotBase n) 0x4FC00)
  let s := s.putBytes (slotBase n + 0x4FC00) (toBytesBE 48 digest)
  if signed = 0 then s
  else
    let sig := ecdsaSign Config.identityKey.toNat digest (Config.trng s.freeCount 384).toNat
    let s := s.draw.putBytes (slotBase n + 0x4FC30) (toBytesBE 96 sig ++ toBytesLE 4 signed)
    { s with store := { s.store with kept := { s.store.kept with signed := orBits 8 s.store.kept.signed (2 ^ n) } } }

/-- The contents of a commit are written into its slot (R452, R455). -/
def writeSlot (c : StubCommit) (s : State) : State :=
  let a := slotBase c.slot
  let k := s.store.kept
  let seq := (k.seq + 1) % 2 ^ 32
  let pages := if c.frozen then c.pages else snapPages s
  let s := (s.spendPages.putBytes a (List.replicate 0x50000 0)).putBytes a (ringBytes c)
  let s := s.putBytes (a + 0x40000) (slotHeader c seq s.idHash)
  let s := (List.range 15).foldl (fun s i => s.putBytes (a + 0x40400 + 4096 * i) (wordsLE (pages.getD i []))) s
  let s := { s with store := { s.store with kept := { k with
    used := orBits 8 k.used (2 ^ c.slot), signed := clearBits k.signed (2 ^ c.slot % 256), lastSlot := c.slot,
    lastTrig := c.mask, seq := seq } } }
  signSlot c.slot (b2n (s.canSign && bitAt c.mask 2 == 0)) s

/-- The opening entry of the commit in progress is in the ring: what the queue still holds moves first (R450, R452). -/
def commitOpened (s : State) : State :=
  match s.stub.commit with
  | some c => if c.last.isNone then drainQueue s.evQueue.length s else s
  | none => s

/-- A commit ends; where its opening entry was dropped, the ring copy is the whole ring as it then stands. The slot or the
discard, the closing entry, and the further commit that waits (R452 to R454). -/
def endCommit (c : StubCommit) (s : State) : State :=
  let last := c.last.getD ((s.get R.EVR_WR_IDX_INDEX + ringSize - 1) % ringSize)
  let first := if s.getB R.EVR_WR_IDX_WRAPPED then s.get R.EVR_WR_IDX_INDEX else 0
  let c := if c.last.isSome then c else { c with last := some last, first := first, ring := s.stub.ring }
  let s := if c.discard then (s.satInc R.EVR_DISCARD_COUNT 1).irq (dev .evr) 1
    else (writeSlot c s).irq (dev .evr) 0
  let s := s.event (dev .evr) c.slot 0x10 (c.mask + 256 + 512 * b2n c.discard)
  let ended := (List.range 6).map fun b => if bitAt c.mask b = 1 then some s.elapsed else (s.stub.ended[b]?).getD none
  let waiting := s.stub.waiting
  let s := { s with stub := { s.stub with commit := none, waiting := 0, ended := ended } }
  if waiting = 0 then nvsGo s else startCommit waiting s

/-- The commit in progress, if any, completes (R452). -/
def finishCommit (s : State) : State :=
  let s := commitOpened s
  match s.stub.commit with
  | some c => endCommit c s
  | none => s

/-- STUB_ERASE: the slot's USED bit is cleared and its MAGIC reads 0 (R454, R455). -/
def stubErase (n : Nat) (s : State) : State :=
  let k := s.store.kept
  let s := { s with store := { s.store with kept := { k with
    used := clearBits k.used (2 ^ n % 256), signed := clearBits k.signed (2 ^ n % 256) } } }
  s.putBytes (slotBase n + 0x40000) [0, 0, 0, 0]

/-- Before SERVICE, SEC signs the slots that a switch-over left unsigned (R456). -/
def signLater (s : State) : State :=
  (List.range 8).foldl (fun s n =>
    if bitAt s.store.kept.used n == 1 && bitAt s.store.kept.signed n == 0 && s.canSign
        && bitAt (s.memWord (slotBase n + 0x4000C)) 2 == 1 then signSlot n 2 s
    else s) s

/-! ### Performance counter snapshots (R446, R447) -/

/-- Whether a counter's snapshot word is VALID: its block is not in reset, FENCED or FAILED (R447). -/
def State.snapValid (s : State) (b : Blk) : Bool := !s.inReset b && !s.fenced b && !s.failed b

/-- PMC_SNAP: PMC_CTRL.SNAP (R447). -/
def pmcSnapOp (s : State) : State := if s.blkOn (dev .pmc) then snapRequest s true else s

/-- PMC_SNAP_DONE: every counter is in the buffer, SEQ moves on, SNAP_DONE is raised (R442, R447, R448). -/
def pmcSnapDoneOp (s : State) : State :=
  if s.getB R.PMC_SNAP_STAT_BUSY then
    let s := allBlocks.foldl (fun s b =>
      (List.range 8).foldl (fun s c =>
        let s := clockCount b c s
        s.set (R.PMC_SNAP_BUF_COUNT b.irq c) (s.get (R.PMC_CNT_COUNT b c) + 2 ^ 63 * b2n (s.snapValid b))) s) s
    let s := (s.setB R.PMC_SNAP_STAT_BUSY false).wrapInc R.PMC_SNAP_STAT_SEQ 1
    (s.setB R.PMC_INT_PAUSE true).irq (dev .pmc) 0
  else s

/-- PMC_OVERFLOW: counter c of the block with IRQ index i counts past 2^48 − 1, a counter of clock cycles from wherever
it has got to (R445, R446; log entry 240). -/
def pmcOverflowOp (i c : Nat) (s : State) : State :=
  match blkOfIrq i with
  | some b =>
    let cycles := counterCounts s b 1 c && s.domainAwake b.domain
    let last := s.get (R.PMC_CNT_COUNT b c) = 2 ^ 48 - 1 && s.getB (R.PMC_EVSEL_EN b c) && !s.getB R.PMC_CTRL_FREEZE
    if cycles || last then carryRaise (counterCarry s b c (2 ^ 48)) else s
  | none => s

/-! ### Meanings -/

/-- PMC_SNAP (R447). -/
def execPmcSnap (s : State) : Host.Outcome State Fault Refusal :=
  done (pmcSnapOp s)

/-- PMC_SNAP_DONE (R447). -/
def execPmcSnapDone (s : State) : Host.Outcome State Fault Refusal :=
  done (pmcSnapDoneOp s)

/-- PMC_OVERFLOW (R446). -/
def execPmcOverflow (i : Byte) (c : Fin 8) (s : State) : Host.Outcome State Fault Refusal :=
  done (pmcOverflowOp i.toNat c.val s)

/-- EVR_LOG (R449). -/
def execEvrLog (tag : Byte) (s : State) : Host.Outcome State Fault Refusal :=
  done (evrLogOp tag.toNat s)

/-- STUB_EVENT_DRAIN (R450). -/
def execStubEventDrain (n : Nat) (s : State) : Host.Outcome State Fault Refusal :=
  done (stubEventDrainOp n s)

/-- EVR_RD_SELECT (R449). -/
def execEvrRdSelect (i : BitVec 14) (ue : Bool) (s : State) : Host.Outcome State Fault Refusal :=
  done (evrRdSelectOp i.toNat ue s)

/-- EVR_COMMIT (R451). -/
def execEvrCommit (s : State) : Host.Outcome State Fault Refusal :=
  done (evrCommitOp s)

end Sys2Proof.Machine
end

