-- ==== Sys2Proof/Machine/Holds.lean ====
section
/-!
DEFINITION. The holds: what a thermal hold and a security lockdown do, and the end of an owner session (R373, R398,
R438, R473, R485, R486).
-/

namespace Sys2Proof.Machine

open Sys2Proof

def thmBlk : Blk := dev .thm
def secBlk : Blk := dev .sec

/-- A power transition or a level change is in progress (R373). -/
def State.powerChanging (s : State) : Bool := s.pwr.stateStage != 0 || s.pwr.levelStage != 0

/-- Every lane that no reset holds in OFF enters FAULT with a cause (R29, R438). -/
def faultLanes (cause : Nat) (s : State) : State :=
  (List.range 8).foldl (fun s l => if s.heldOff l then s else toFault l cause s) s

/-- The thermal hold acts: lanes and control DACs enter FAULT, calibration stops, SHUTDOWN is raised, a commit starts
(R231, R438). -/
def thermalActs (s : State) : State :=
  let s := calHalt (faultLanes 1 { s with pwr := { s.pwr with holdThermal := false } })
  commitTrigger 1 ((cdacFaultAll 0 s).irq thmBlk 2)

/-- A SECURITY entry with its detail (R449, R486). -/
def secEvent (code detail : Nat) (s : State) : State := s.event secBlk 0 8 (code + 256 * (detail % 256))

/-- An owner session ends with an end-cause code: its key is zeroised (R473). -/
def ownEnd (code : Nat) (s : State) : State :=
  if s.getB R.SEC_STAT_OWN_SESSION then
    secEvent 0x14 code ({ s.setB R.SEC_STAT_OWN_SESSION false with sec := { s.sec with key := 0 } }.irq secBlk 1)
  else s

/-- Debug scopes open (R481 to R483). -/
def debugOpen (scope : Nat) (s : State) : State :=
  { s.setB R.SEC_LIFE_DEBUG true with sec := { s.sec with scope := orBits 2 s.sec.scope scope } }

/-- Debug closes (R481, R485). -/
def debugClose (s : State) : State :=
  { s.setB R.SEC_LIFE_DEBUG false with sec := { s.sec with scope := 0 } }

/-- The lockdown acts on lanes, calibration and control DACs (R231, R485). -/
def lockdownActs (s : State) : State :=
  cdacFaultAll 1 (calHalt (faultLanes 2 { s with pwr := { s.pwr with holdLockdown := false } }))

/-- Lockdown: keys are zeroised and the key-encryption key is blocked, the hold is latched, sessions end, MSG is
flushed, debug closes, a commit starts; lanes and control DACs follow at once, or after the transition in progress
(R373, R484, R485). -/
def lockdown (cause : Nat) (s : State) : State :=
  if s.getB R.SEC_STAT_LOCKDOWN then s
  else
    let s := ((s.setB R.SEC_STAT_LOCKDOWN true).set R.SEC_STAT_LD_CAUSE cause).setB R.RST_STAT_HOLD_LOCKDOWN true
    let s := debugClose (msgLockdown (ownEnd 3 s))
    let s := { s with sec := { s.sec with key := 0, nonce := none, begun := none, kekBlocked := true } }
    let s := secEvent 0x1E cause (s.irq secBlk 5)
    let s := if s.powerChanging then { s with pwr := { s.pwr with holdLockdown := true } } else lockdownActs s
    commitTrigger 4 s

/-- The holds that were latched during a transition or a level change act (R373). -/
def holdsAct (s : State) : State :=
  let s := if s.pwr.holdThermal then thermalActs s else s
  if s.pwr.holdLockdown then lockdownActs s else s

end Sys2Proof.Machine
end

