-- ==== Sys2Proof/Machine/Thermal.lean ====
section
/-!
DEFINITION. THM: samples, broken sensors, the native shutdown, the thresholds of the LN1640, throttling and the
background-operation pause (R434 to R444).
-/

namespace Sys2Proof.Machine

open Sys2Proof

/-! ### Throttling (R442) -/

/-- A waiting snapshot begins (R442, R447). -/
def snapBegin (s : State) : State :=
  let s := s.setB R.PMC_INT_PAUSE false
  if s.getB R.PMC_INT_WAITING then
    ((s.setB R.PMC_INT_WAITING false).setB R.PMC_SNAP_STAT_BUSY true).set
      R.PMC_SNAP_TIME_TIME (reportedTime s.now (s.getB R.TIM_STAT_FINE_READY))
  else s

/-- The pause of one operation elapses: what waited for it may begin (R442). -/
def pauseEnd (p : Paused) (s : State) : State :=
  match p with
  | .run l => s.putCal l.val { s.cal l.val with paused := false }
  | .sweep l => s.putCal l.val { s.cal l.val with sweepPaused := false }
  | .snapshot => snapBegin s
  | .capture c => s.putCap c.val { s.cap c.val with pause := false, waiting := false }

/-- BACKGROUND_PAUSE_END (R442). -/
def backgroundPauseEndOp (p : Paused) (s : State) : State := pauseEnd p s

/-- What waits for a pause begins: THM no longer throttles, or BG_PAUSE is 0. The pauses themselves run on (R230,
R442). -/
def waitersGo (s : State) : State :=
  let s := if s.getB R.PMC_INT_WAITING then snapBegin s else s
  [0, 1].foldl (fun s c => s.putCap c { s.cap c with waiting := false }) s

/-- THM_STAT.THROTTLING follows its causes (R442). -/
def throttleRefresh (s : State) : State :=
  let on := (s.getB R.THM_CFG_COMPAT && s.getB R.THM_STAT_THROTTLE) || s.getB R.THM_STAT_FORCED
    || s.getB R.THM_THROTTLE_FORCE
  let s := s.setB R.THM_STAT_THROTTLING on
  if !on || s.get R.THM_THROTTLE_BG_PAUSE == 0 then waitersGo s else s

/-! ### The thermal hold (R437, R438) -/

/-- The thermal hold is latched, with its sensor and sample, and acts at once, or after the transition in progress
(R373, R437, R440). -/
def thermalLatch (n : Nat) (t : Int) (byShut : Bool) (s : State) : State :=
  let s := (s.setB R.RST_STAT_HOLD_THERMAL true).setB R.THM_STAT_SHUTDOWN true
  let s := ((s.set R.THM_SHUT_REC_SENSOR n).setB R.THM_SHUT_REC_BY_SHUT byShut).set R.THM_SHUT_REC_T (ofInt 16 t)
  let s := s.event thmBlk n 6 (ofInt 16 t + 65536 * (if byShut then 2 else 3))
  if s.powerChanging then { s with pwr := { s.pwr with holdThermal := true } } else thermalActs s

/-! ### Samples (R434 to R440) -/

/-- The sensors that the agreement test of sensor n compares it with (R434). -/
def thmNeighbours (n : Nat) : List Nat :=
  if n < 8 then (if n % 4 = 0 then [] else [n - 1]) ++ (if n % 4 = 3 then [] else [n + 1]) ++ [8 + n / 4]
  else if n < 10 then (List.range 4).map (4 * (n - 8) + ·) ++ [12, 13]
  else if n < 12 then [n - 2, 12, 13]
  else [25 - n, 8, 9]

/-- Twice the median of a list (R435). -/
def twiceMedian (xs : List Int) : Int :=
  let s := xs.foldr insertInt []
  s.getD ((s.length - 1) / 2) 0 + s.getD (s.length / 2) 0

/-- The temperature of sensor n in a sample. -/
def tempAt (temps : List Int) (n : Nat) : Int := temps.getD n 0

/-- Whether sensor n differs by more than 15 °C from the median of its valid neighbours; not while fewer than two are
valid (R435). -/
def disagrees (temps : List Int) (valid : Nat → Bool) (n : Nat) : Bool :=
  let ns := (thmNeighbours n).filter valid
  2 ≤ ns.length && 480 < (2 * tempAt temps n - twiceMedian (ns.map (tempAt temps))).natAbs

/-- Whether sensor n is broken. -/
def State.thmBroken (s : State) (n : Nat) : Bool := s.getB (R.THM_SENSOR_STAT_BROKEN n)

/-- Sensor n becomes broken, with its cause (R435). -/
def thmBreak (n cause : Nat) (t : Int) (s : State) : State :=
  if cause = 0 || s.thmBroken n then s
  else
    let s := (s.setB (R.THM_SENSOR_STAT_BROKEN n) true).set (R.THM_TEMP_CAUSE n) cause
    (s.irq thmBlk 3).event thmBlk n 6 (ofInt 16 t + 65536 * 4)

/-- The counts of a sample that need no neighbour: unchanged raw codes (R435). -/
def thmCount (raws : List Nat) (s : State) : State :=
  let x := s.thm
  let same := (List.range 14).map fun n =>
    if x.same.getD n 0 = 0 || x.raw.getD n 0 != raws.getD n 0 then 1 else min 1000 (x.same.getD n 0 + 1)
  { s with thm := { x with same := same, raw := (List.range 14).map fun n => raws.getD n 0 } }

/-- The cause for which a sample breaks sensor n without its neighbours: 1 range, 2 stuck (R435). -/
def thmOwnCause (temps : List Int) (s : State) (n : Nat) : Nat :=
  if tempAt temps n < -960 || 2720 < tempAt temps n then 1 else if 1000 ≤ s.thm.same.getD n 0 then 2 else 0

/-- The sensors of a sample are judged (R435, R439). -/
def thmJudge (temps : List Int) (s : State) : State :=
  let own := (List.range 14).map (thmOwnCause temps s)
  let valid (n : Nat) : Bool := !s.thmBroken n && own.getD n 0 == 0
  let apart := (List.range 14).map fun n =>
    if valid n && disagrees temps valid n then s.thm.apart.getD n 0 + 1 else 0
  let s := { s with thm := { s.thm with apart := apart } }
  (List.range 14).foldl (fun s n =>
    thmBreak n (if own.getD n 0 != 0 then own.getD n 0 else if 3 ≤ apart.getD n 0 then 3 else 0) (tempAt temps n) s) s

/-- The sensors that are not broken. -/
def State.thmValid (s : State) : List Nat := (List.range 14).filter fun n => !s.thmBroken n

/-- The hottest of a list of sensors; which of several that read alike is left open, and `pick` chooses (R436). -/
def hottest (temps : List Int) (ns : List Nat) (pick : Nat) : Option (Nat × Int) :=
  match ns with
  | [] => none
  | n :: rest =>
    let top := rest.foldl (fun m k => if m < tempAt temps k then tempAt temps k else m) (tempAt temps n)
    let tied := ns.filter fun k => tempAt temps k == top
    some (tied.getD (pick % tied.length) n, top)

/-- The readings are reported; with no valid sensor THM_HOT and THM_CENTRAL hold nothing that the spec gives (R435,
R436). -/
def thmReport (temps : List Int) (hot : Option (Nat × Int)) (s : State) : State :=
  let s := (List.range 14).foldl (fun s n =>
    (s.set (R.THM_TEMP_T n) (ofInt 16 (tempAt temps n))).setB (R.THM_TEMP_VALID n) (!s.thmBroken n)) s
  let s := s.set R.THM_STAT_VALID_CNT s.thmValid.length
  match hot with
  | some h =>
    let s := (s.set R.THM_HOT_T (ofInt 16 h.2)).set R.THM_HOT_SENSOR h.1
    let c := (hottest temps (s.thmValid.filter fun n => 12 ≤ n) 0).getD h
    s.set R.THM_CENTRAL_T (ofInt 16 c.2)
  | none =>
    let v := s.free 36
    ((s.draw.set R.THM_HOT_T (bits v 0 16)).set R.THM_HOT_SENSOR (bits v 16 4)).set R.THM_CENTRAL_T (bits v 20 16)

/-- Fewer than two valid sensors force throttling; the event carries the sensor that broke last (R439). -/
def thmForce (temps : List Int) (s : State) : State :=
  if s.thmValid.length < 2 && !s.getB R.THM_STAT_FORCED then
    let n := (((List.range 14).filter s.thmBroken).getLast?).getD 0
    ((s.setB R.THM_STAT_FORCED true).irq thmBlk 4).event thmBlk n 6 (ofInt 16 (tempAt temps n) + 65536 * 5)
  else s

/-- A level bit changes (R440). -/
def thmLevel (f : Fld) (kind n : Nat) (t : Int) (new : Bool) (s : State) : State :=
  if s.getB f == new then s
  else ((s.setB f new).irq thmBlk kind).event thmBlk n 6 (ofInt 16 t + 65536 * kind)

/-- One more sample in a run, or the end of the run. -/
def runOn (n : Nat) (b : Bool) : Nat := if b then min 3 (n + 1) else 0

/-- The thresholds of the LN1640 look at the hottest valid sample (R440, R441). -/
def thmLevels (n : Nat) (t : Int) (s : State) : State :=
  let x := s.thm
  if s.getB R.THM_CFG_COMPAT then
    let warn := 16 * s.getI R.THM_LEVEL_CFG_WARN
    let thr := 16 * s.getI R.THM_LEVEL_CFG_THROTTLE
    let hyst : Int := 16 * s.get R.THM_LEVEL_CFG_HYST
    let x := { x with
      warnUp := runOn x.warnUp (warn ≤ t), warnDown := runOn x.warnDown (t < warn - hyst)
      throttleUp := runOn x.throttleUp (thr ≤ t), throttleDown := runOn x.throttleDown (t < thr - hyst)
      shut := runOn x.shut (16 * s.getI R.THM_LEVEL_CFG_SHUT ≤ t) }
    let s := { s with thm := x }
    let s := if x.warnUp = 3 then thmLevel R.THM_STAT_WARN 0 n t true s
      else if x.warnDown = 3 then thmLevel R.THM_STAT_WARN 0 n t false s else s
    if x.throttleUp = 3 then thmLevel R.THM_STAT_THROTTLE 1 n t true s
    else if x.throttleDown = 3 then thmLevel R.THM_STAT_THROTTLE 1 n t false s else s
  else
    let s := { s with thm := { x with warnUp := 0, warnDown := 0, throttleUp := 0, throttleDown := 0, shut := 0 } }
    thmLevel R.THM_STAT_THROTTLE 1 n t false (thmLevel R.THM_STAT_WARN 0 n t false s)

/-- The shutdown: three samples of one valid sensor at 125 °C or more, or of the hottest at SHUT (R437, R440). Which of
several sensors is recorded is left open. -/
def thmShutdown (temps : List Int) (hot : Option (Nat × Int)) (s : State) : State :=
  let runs := (List.range 14).map fun n =>
    runOn (s.thm.hot.getD n 0) (!s.thmBroken n && decide (2000 ≤ tempAt temps n))
  let s := { s with thm := { s.thm with hot := runs } }
  let due := (List.range 14).filter fun n => runs.getD n 0 == 3
  if s.getB R.THM_STAT_SHUTDOWN then s
  else match due with
    | n :: _ =>
      let k := due.getD (s.free 4 % due.length) n
      if s.thm.shut = 3 && s.free 5 / 16 = 1 then
        match hot with
        | some h => thermalLatch h.1 h.2 true s.draw
        | none => thermalLatch k (tempAt temps k) false s.draw
      else thermalLatch k (tempAt temps k) false s.draw
    | [] =>
      match hot with
      | some h => if s.thm.shut = 3 then thermalLatch h.1 h.2 true s else s
      | none => s

/-- THM_SAMPLE: all sensors are sampled, in 1/16 °C, with their raw converter codes (R434 to R442). -/
def thmSampleOp (temps : List Int) (raws : List Nat) (s : State) : State :=
  if s.coldAsserted || s.power == 3 || s.inReset thmBlk then s
  else
    let s := thmJudge temps (thmCount raws s)
    let hot := hottest temps s.thmValid (s.free 4)
    let s := thmReport temps hot s.draw
    let s := thmForce temps s
    let s := match hot with
      | some h => thmLevels h.1 h.2 s
      | none =>
        if s.getB R.THM_CFG_COMPAT then { s with thm := { s.thm with
          warnUp := 0, warnDown := 0, throttleUp := 0, throttleDown := 0, shut := 0 } }
        else thmLevels (s.free 8 % 14) (tempAt temps (s.free 8 % 14)) s.draw
    calTempTrigger (throttleRefresh (thmShutdown temps hot s))

/-! ### Meanings -/

/-- THM_SAMPLE (R434). -/
def execThmSample (temps : List Int) (raws : List Nat) (s : State) : Host.Outcome State Fault Refusal :=
  done (thmSampleOp temps raws s)

/-- BACKGROUND_PAUSE_END (R442). -/
def execBackgroundPauseEnd (p : Paused) (s : State) : Host.Outcome State Fault Refusal :=
  done (backgroundPauseEndOp p s)

end Sys2Proof.Machine
end

