-- ==== Sys2Proof/Machine/Reset.lean ====
section
/-!
DEFINITION. Resets: what each source resets, assertion and release, the release of COLD and the watchdog (R389 to R401,
R407).
-/

namespace Sys2Proof.Machine

open Sys2Proof

def rstBlk : Blk := dev .rst

/-- The RESET entry of an assertion, with the RST_CAUSE bits of its source (R449). -/
def resetEvent (cause : Nat) (s : State) : State := s.event rstBlk 0 1 cause

/-- Lanes pass into OFF (R27). -/
def lanesOff (ls : List Nat) (s : State) : State := ls.foldl (fun s l => toOff l s) s

/-! ### COLD reach (R390) -/

/-- EXPERT of a block returns to LOCKED with the rest of the block, which is a Stub event of the requester (R337,
R338). -/
def expertLost (b : Blk) (req : Nat) (s : State) : State :=
  if s.get (R.BLK_CTRL_EXPERT b) = 0 then s else s.event b b.inst 0x0A (4 * req)

/-- The same of every block (R338; log entry 196). -/
def expertsLost (s : State) : State := allBlocks.foldl (fun t b => expertLost b (s.free 3) t) s.draw

/-- The capture engines after COLD: idle; the memory keeps its contents where it keeps its power. -/
def coldCaps (lose : Bool) (s : State) : State :=
  [0, 1].foldl (fun s c =>
    if lose then capPowerLoss c s
    else
      let code := s.get (R.CAP_STAT_STATE c)
      let s := if code = 1 || code = 2 || code = 6 then capCut c s else s
      s.putCap c { CapInt.reset with patches := (s.cap c).patches }) s

/-- Everything but the AON domain, Granary and the fuses returns to reset, and a Granary word whose write has started is
written; a hold that waits for the end of a change acts first, as COLD ends that change. `lose` says that the capture
memories lose their power (R373, R390, R398, R399, R427, R429; log entry 236). -/
def coldClear (lose : Bool) (s : State) : State :=
  let fail := s.getB R.SEC_STAT_TRNG_FAIL
  let s := expertsLost (holdsAct s)
  let s := coldCaps lose (setQual 0 (lanesOff (List.range 8) (nvsStore s)))
  let s := timClear (cdacClampAll s)
  { s with
    regs := resetColdRegs s.regs
    shadow := [], staged := []
    spi := Port.reset, i3c := Port.reset
    target := { maxWrite := 0, maxRead := 0, events := 0, answer := [] }
    woken := []
    txs := Vector.replicate 8 TxLane.reset
    rxs := Vector.replicate 8 RxLane.reset
    powers := Vector.replicate 8 LanePower.reset
    hosts := Vector.replicate 16 HostLaneInt.reset
    cals := Vector.replicate 8 CalLane.reset
    calDev := { CalDev.reset with copy := s.calDev.copy, saved := s.calDev.saved, delay := s.calDev.delay }
    msg := MsgInt.reset
    links := Vector.replicate 8 MsgLink.reset
    sessions := Vector.replicate 8 PeerSession.reset
    pwr := { PowerInt.reset with switching := s.pwr.switching, vioBack := s.pwr.vioBack }
    stamps := Vector.replicate 8 { tx := none, rx := none }
    chains := Vector.replicate 8 FilterChain.reset
    store := { MemInt.reset with
      ecc := s.store.ecc, spares := s.store.spares, repairs := s.store.repairs, boot := s.store.kept.boot
      kept := s.store.kept }
    gpioPulse := 0
    stub := { s.stub with ended := List.replicate 6 none }
    thm := ThmInt.reset
    mbx := MbxInt.reset, boot := BootInt.reset
    fuses := storeTake s
    sec := { SecInt.reset with kekBlocked := s.sec.kekBlocked } }.setB R.SEC_STAT_TRNG_FAIL fail

/-- The capture memories lose their power (R116, R365). -/
def capsLose (s : State) : State := capPowerLoss 1 (capPowerLoss 0 s)

/-- A source of COLD reach is asserted: its cause is recorded; where none was asserted before, the reset acts. The
capture memories lose their contents whenever they lose their power (R116, R389, R391). -/
def assertCold (put : ResetSources → ResetSources) (cause : Fld) (bit : Nat) (lose : Bool) (s : State) : State :=
  let was := s.coldAsserted
  let s := resetEvent (2 ^ bit) (s.setB cause true)
  let s := { s with resets := { put s.resets with waiting := true } }
  if !was then coldClear lose s else if lose then capsLose s else s

/-- RESET_N_ASSERT (R392). -/
def resetNAssertOp (s : State) : State :=
  assertCold (fun r => { r with pin := true }) R.RST_CAUSE_PIN 3 false s

/-- RESET_N_RELEASE (R392). -/
def resetNReleaseOp (s : State) : State := { s with resets := { s.resets with pin := false } }

/-- GLOBAL: RST_CTRL.GLOBAL executes (R393). -/
def globalOp (s : State) : State :=
  assertCold (fun r => { r with global := true }) R.RST_CAUSE_GLOBAL 4 false s

/-- A main rail or VIO is not good: COLD. `core` says that it is VDD_CORE, which supplies the memories (R116, R358,
R362). -/
def supplyCold (core : Bool) (s : State) : State :=
  assertCold (fun r => { r with supply := true }) R.RST_CAUSE_COLD_SUPPLY 1 core s

/-! ### POR (R389, R390, R427) -/

/-- The word of Granary that POR interrupts: old, new, or a value that reads as uncorrectable (R427). -/
def porWord (s : State) : State :=
  match s.store.slot with
  | none => s
  | some j =>
    let a := granaryBase + j.addr
    let v := s.free 2
    let w := s.draw.jobWord j
    let s := s.draw.draw
    if v = 0 then s
    else if v = 1 then (s.putWord64 a w).putEcc a 0
    else s.putEcc a 2

/-- The spare rows that the repair records use; a remap without a record ends with the power-on (R424). -/
def sparesOf (repairs : List Repair) : NatMap :=
  repairs.foldl (fun m r => match r with
    | .row memid _ spare => natSet m memid (max ((natGet m memid).getD 0) (spare + 1)) 0
    | .slice _ => m) []

/-- POR_ASSERT: everything but Granary and the fuses returns to reset, and stays in reset; its RESET entry waits in the
event queue. RESET_N that is low then is a cause too (R390, R408, R429, R449). -/
def porAssertOp (s : State) : State :=
  let s := porWord s
  let t := if s.resets.pin then State.reset.setB R.RST_CAUSE_PIN true else State.reset
  { t with
    mem := s.mem.filter fun e => decide (granaryBase ≤ e.1)
    freeCount := s.freeCount + 1
    resets := { State.reset.resets with por := true, pin := s.resets.pin }
    calDev := { CalDev.reset with copy := s.calDev.copy, saved := s.calDev.saved, delay := s.calDev.delay }
    tim := { TimInt.reset with osc := s.store.kept.epoch }
    store := { MemInt.reset with
      ecc := s.store.ecc.filter fun e => decide (granaryBase / 8 ≤ e.1) && decide (e.1 < 2 ^ 32)
      spares := sparesOf s.store.kept.repairs, repairs := s.store.kept.repairs, boot := s.store.kept.boot
      kept := s.store.kept }
    fuses := storeTake s
    pending := s.pending }

/-- POR_RELEASE: the AON domain leaves reset; Lantern counts from 0 (R239, R389). -/
def porReleaseOp (s : State) : State := { s with resets := { s.resets with por := false } }

/-! ### WARM and WDT (R393 to R395) -/

/-- Lanes in CANDLE or FULL enter COAST (R16, R27). -/
def coastLanes (s : State) : State :=
  (List.range 8).foldl (fun s l => if s.laneCode l = 2 || s.laneCode l = 3 then enterState l 4 0 false s else s) s

/-- Every mailbox slot that is QUEUED or RUNNING becomes DONE with ABORTED, and FWC_STAT records it (R355, R394). -/
def mailboxAborted (s : State) : State :=
  let s := { nvsDropFwc s with mbx := { MbxInt.reset with lens := s.mbx.lens },
                               calDev := { s.calDev with
                                 startupLanes := if s.calDev.startup then s.calDev.startupLanes else []
                                 startupLeaves := if s.calDev.startup then s.calDev.startupLeaves else [] } }
  (List.range 4).foldl (fun s n =>
    if s.get (R.FWC_MBX_SLOT_STATE n) = 1 || s.get (R.FWC_MBX_SLOT_STATE n) = 2 then
      ((s.set (R.FWC_MBX_SLOT_STATE n) 3).set (R.FWC_MBX_SLOT_RESULT n) 7).setB (R.FWC_STAT_ABORTED n) true
    else s) s

/-- Whether a shadow or a staged word outlives WARM: it is not of a port or of FWC, nor of a value with WARM reset. A
key is ((address × 8 + requester) × 4 + reset) (R9). -/
def wideKept (k : Nat) : Bool := !(1 ≤ k / 4 % 8 && k / 4 % 8 ≤ 3) && k % 4 != 1

/-- What WARM reach resets: FWC, the ports' queues, tags and failure records, the watchdog, and the fields with WARM
reset; lanes coast (R390, R393, R394). -/
def warmClear (s : State) : State :=
  let s := mailboxAborted (coastLanes s)
  { s with regs := resetWarmRegs s.regs, spi := Port.reset, i3c := Port.reset,
           shadow := s.shadow.filter fun e => wideKept e.1, staged := s.staged.filter fun e => wideKept e.1 }

/-- A source of WARM reach is asserted; before FW_START, WARM is only recorded, and in FW_START it is one that firmware
has yet to come back from (R391, R394, R407). -/
def assertWarm (put : ResetSources → ResetSources) (cause : Fld) (bit : Nat) (s : State) : State :=
  if s.coldAsserted then s
  else if s.phase < 6 then s.setB cause true
  else
    let s := warmClear { resetEvent (2 ^ bit) (s.setB cause true) with resets := put s.resets }
    { s with boot := { s.boot with warmed := s.boot.warmed || s.phase == 6 } }

/-- WARM: RST_CTRL.WARM executes, or SRST of FWC (R389, R393). -/
def warmOp (s : State) : State := assertWarm (fun r => { r with warm := true }) R.RST_CAUSE_WARM 5 s

/-- WDT_EXPIRY: TIMEOUT ms have passed without a kick (R395, R451). -/
def wdtExpiryOp (s : State) : State :=
  if s.getB R.RST_WDT_CFG_RUNNING && !s.warmAsserted then
    assertWarm (fun r => { r with wdt := true }) R.RST_CAUSE_WDT 6 (commitTrigger 3 s)
  else s

/-- WDT_KICK: only FWC restarts the count, and only with the key (R395). -/
def wdtKickOp (req : Requester) (key : Nat) (s : State) : State :=
  if req = .fwc && key = 0x4F4B then s else s.conflict rstBlk

/-- RESET_PULSE_END: the 10 µs of a source are over (R389). -/
def resetPulseEndOp (p : Pulse) (s : State) : State :=
  { s with resets := match p with
    | .global => { s.resets with global := false }
    | .warm => { s.resets with warm := false }
    | .wdt => { s.resets with wdt := false } }

/-! ### BLOCK and SHEAF (R390, R396, R397) -/

/-- What a BLOCK reset leaves of a lane's transmit direction, all of whose blocks but one keep theirs: TXP its COMMIT,
LTX its full scale, polarity and squelch, LFR its precoding (R157, R160 to R162). The lane is in OFF. -/
def txBlockClear (k : BK) (t : TxLane) : TxLane :=
  let d := TxLane.reset
  match k with
  | .txp => { t with commit := d.commit }
  | .ltx => { t with fs := d.fs, inverted := d.inverted, mute := d.mute }
  | _ => { t with frame := d.frame, scrambler := d.scrambler, overhead := d.overhead, dim := d.dim,
                  leaveDim := d.leaveDim, precoded := d.precoded }

/-- What a BLOCK reset leaves of a lane's receive direction: each block's own values return to reset (R390). -/
def rxBlockClear (k : BK) (r : RxLane) : RxLane :=
  let d := RxLane.reset
  match k with
  | .lrx => { r with detector := d.detector, agcRun := d.agcRun, afe := d.afe, agcTarget := d.agcTarget }
  | .req => { r with
      trGood := d.trGood, trBad := d.trBad, ffeRun := d.ffeRun, mlseRun := d.mlseRun, snrTen := d.snrTen
      measured := d.measured, levels := d.levels, levelRef := d.levelRef, tapFine := d.tapFine, trPhase := d.trPhase
      reach := d.reach, warm := d.warm, adapt := d.adapt, commit := d.commit, thresholds := d.thresholds
      histLeft := d.histLeft, histOffset := d.histOffset, priors := d.priors }
  | .idec => { r with
      winCorr := d.winCorr, winUncorr := d.winUncorr, winThrottled := d.winThrottled, sdClear := d.sdClear
      sfClear := d.sfClear, p2Off := d.p2Off, hard := d.hard, failedOnly := d.failedOnly, pauseLeft := d.pauseLeft
      p1 := d.p1, p2 := d.p2, alpha := d.alpha, beta := d.beta }
  | .gbx => { r with
      mux := d.mux, txSwap := d.txSwap, rxSwap := d.rxSwap, realign := d.realign, data := d.data
      forwarded := d.forwarded }
  | _ => { r with
      goodRun := d.goodRun, badRun := d.badRun, phase := d.phase, complemented := d.complemented, burstRun := d.burstRun
      burstSeen := d.burstSeen, burstMissed := d.burstMissed, sfcLast := d.sfcLast, sfcPair := d.sfcPair
      missRun := d.missRun, quietPeriods := d.quietPeriods, precoded := d.precoded }

/-- What a reset of a block does beside its registers (R231, R268, R299, R304, R329,
R350, R396, R442, R447). -/
def blockClear (b : Blk) (s : State) : State :=
  let l := b.inst
  match b.kind with
  | .tim => timClear (setQual 0 s)
  | .msg => msgBlockReset s
  | .cal => calStop s
  | .thm => waitersGo s
  | .cap =>
    let code := s.get (R.CAP_STAT_STATE l)
    let s := if code = 1 || code = 2 || code = 6 then capCut l s else s
    s.putCap l { CapInt.reset with patches := (s.cap l).patches }
  | .madc => madcPairWriteOp false 0 s
  | .mfil => { s with chains := Vector.replicate 8 FilterChain.reset }
  | .pin => (List.range 8).foldl (fun s g => s.set (R.PIN_GPIO_CFG_OWNER g) 0) s
  | .txp | .ltx => s.putTx l (txBlockClear b.kind (s.tx l))
  | .lrx | .req | .idec => s.putRx l (rxBlockClear b.kind (s.rx l))
  | .gbx => amForget (2 * l + 1) (amForget (2 * l) (s.putRx l (rxBlockClear .gbx (s.rx l))))
  | .lfr => (s.putTx l (txBlockClear .lfr (s.tx l))).putRx l (rxBlockClear .lfr (s.rx l))
  | .hsd => s.putHost l HostLaneInt.reset
  | _ => s

/-- A block returns to reset: its fields with BLOCK reset, and what goes with them; the shadows and stagings of its wide
values, and for MSG those of the remote-access engine. A BLOCK source that is asserted on it stays so (R9, R338, R390,
R391). -/
def blockReset (b : Blk) (req : Nat) (s : State) : State :=
  let s := blockClear b (expertLost b req s)
  let keep (k : Nat) : Bool :=
    !(k % 4 == 0 && k / 32 % 2 ^ 32 / 65536 == b.base / 65536) && !(b.kind == .msg && k / 4 % 8 == 5)
  let t := { s with regs := resetBlockRegs s.regs b.base, shadow := s.shadow.filter fun e => keep e.1,
                    staged := s.staged.filter fun e => keep e.1 }
  let t := if s.getB (R.BLK_STAT_IN_RESET b) then t.setB (R.BLK_STAT_IN_RESET b) true else t
  if b.kind == .gbx then portFollow b.inst (s.portW b.inst) (s.portMembers b.inst) t else t

/-- Whether SRST of a block is refused: RST, SEC and NVS; a lane or sheaf block under a lane that is not in OFF; a block
that has not started (R397, R407). -/
def State.srstRefused (s : State) (b : Blk) : Bool :=
  b.kind == .rst || b.kind == .sec || b.kind == .nvs || !s.started b ||
  (match b.lane? with | some l => s.laneCode l != 0 | none => false) ||
  (b.kind == .shf && (List.range 4).any fun k => s.laneCode (4 * b.inst + k) != 0)

/-- BLK_CTRL.SRST = 1, written by the requester with this code (R338, R396, R397). -/
def srstBy (b : Blk) (req : Nat) (s : State) : State :=
  if s.srstRefused b then s.conflict b
  else if b.kind = .fwc then warmOp s
  else (blockReset b req s).setB (R.BLK_STAT_IN_RESET b) true

/-- BLOCK_SRST: BLK_CTRL.SRST = 1; the command does not tell its requester (R396, R397; log entry 196). -/
def blockSrstOp (b : Blk) (s : State) : State := srstBy b (s.free 3) s.draw

/-- A block with a writable EN starts where EN = 1 (R336). -/
def blockFollow (b : Blk) (s : State) : State :=
  if b.kind.enWritable then s.set (R.BLK_STAT_STATE b) (s.get (R.BLK_CTRL_EN b)) else s

/-- BLOCK_RESET_RELEASE: the BLOCK reset is over, and the block follows EN where no other reset holds it (R336, R391,
R396). -/
def blockResetReleaseOp (b : Blk) (s : State) : State :=
  if s.getB (R.BLK_STAT_IN_RESET b) then
    let s := s.setB (R.BLK_STAT_IN_RESET b) false
    if s.inReset b then s else blockFollow b s
  else s

/-- CAP[sh] follows EN, unless a reset holds it or start-up has not reached it (R336, R396, R405). -/
def capFollow (sh : Nat) (s : State) : State :=
  if s.inReset (capBlk sh) || !s.started (capBlk sh) then s else blockFollow (capBlk sh) s

/-- The blocks of sheaf sh that a SHEAF reset reaches (R390). -/
def sheafBlocks (sh : Nat) : List Blk := allBlocks.filter fun b => b.sheaf? == some sh && b.kind != .shf

/-- A sheaf's PLLs stop as planned (R507). -/
def pllsStop (sh : Nat) (s : State) : State :=
  (s.setB (R.SHF_PLL_STAT_LINE_LOCK sh) false).setB (R.SHF_PLL_STAT_HOST_LOCK sh) false

/-- The lanes of a sheaf leave the start-up pass, or stay out of it where it has yet to begin (R407). -/
def passLeave (sh : Nat) (s : State) : State :=
  let s := { s with boot := { s.boot with sheaves := sh :: s.boot.sheaves.filter (· != sh) } }
  if s.calDev.startup then
    (passRemove ((List.range 4).map (4 * sh + ·)) s).setB R.CAL_STAT_STARTUP_PARTIAL true
  else s

/-- SHEAF: RST_CTRL.SHEAF bit sh is written (R389 to R391). -/
def sheafOp (sh : Nat) (on : Bool) (s : State) : State :=
  if s.sheafReset sh == on then s
  else if on then
    let s := resetEvent (2 ^ (8 + sh)) ((s.setB (R.RST_CTRL_SHEAF sh) true).setB (R.RST_CAUSE_SHEAF sh) true)
    let s := passLeave sh (lanesOff ((List.range 4).map (4 * sh + ·)) s)
    pllsStop sh ((sheafBlocks sh).foldl (fun s b => blockReset b (s.free 3) s) s.draw)
  else
    let s := capFollow sh (s.setB (R.RST_CTRL_SHEAF sh) false)
    (List.range 4).foldl (fun s k => considerStart (4 * sh + k) s) s

/-! ### The release of COLD (R391, R401, R402) -/

/-- The start-up phase changes, with its PHASE entry (R402). -/
def setPhase (p : Nat) (s : State) : State :=
  let s := s.set R.RST_STAT_PHASE p
  s.event rstBlk 0 2 (p + 256 * s.get R.RST_BOOT_STAT_ERROR)

/-- Whether only the release itself is missing: no source but the supply is asserted, and the main rails and VIO are
good (R358, R391). -/
def State.mayRelease (s : State) : Bool :=
  s.resets.waiting && !s.resets.por && !s.resets.switch && !s.resets.timekeep && !s.resets.pin && !s.resets.global
    && (List.range 5).all fun r => s.getB (R.PWR_RAIL_STAT_OK r)

/-- What the straps set (R346, R401). -/
def strapsTake (boot clkmode addr : Nat) (s : State) : State :=
  let s := ((s.set R.RST_STRAP_BOOT boot).set R.RST_STRAP_CLKMODE clkmode).set R.RST_STRAP_ADDR addr
  let s := (s.set R.CLK_STAT_MODE clkmode).set R.MGT_WICK_STATIC (0x48 + addr)
  s.setB R.RST_STAT_STRAP_ERR (clkmode == 0)

/-- The I3C target keeps the dynamic address across TIMEKEEP (R348). -/
def addressKeep (s : State) : State :=
  if s.resets.leaving then
    (s.setB R.MGT_PORT_STAT_DA_VALID (s.get R.MGT_WICK_DYNAMIC != 0)).set R.MGT_PORT_STAT_DA (s.get R.MGT_WICK_DYNAMIC)
  else s

/-- The start-up test of the TRNG: TRNG_FAIL clears where it passes, of which no command tells (R465; log entry 251). -/
def trngStart (s : State) : State :=
  if s.getB R.SEC_STAT_TRNG_FAIL then
    let pass := s.free 1 == 1
    if pass then s.draw.setB R.SEC_STAT_TRNG_FAIL false else s.draw
  else s

/-- COLD_RELEASE: the last source of COLD reach is released; the straps are sampled and start-up begins, which ends
TIMEKEEP with a POWER entry where it was on; under a latched hold the lanes are in FAULT, in RMA debug is open, and TREF
counts no longer, as TREF_FREQ declares none (R29, R254, R368, R391, R398, R401, R449, R459, R481; log entry 191). -/
def coldReleaseOp (boot clkmode addr : Nat) (s : State) : State :=
  if s.mayRelease then
    let s := if s.resets.supply then s.setB R.RST_CAUSE_COLD_SUPPLY true else s
    let s := addressKeep (strapsTake boot clkmode addr s)
    let s := if s.get R.TIM_CFG_TREF_FREQ = 0 then s.setB R.TIM_STAT_TREF_OK false else s
    let s := if s.resets.leaving then powerEvent 3 0 0 3 0 s else s
    let s := { s with resets := { s.resets with supply := false, waiting := false, leaving := false } }
    let s := (s.set R.PWR_STATE_STATE 0).setB R.TST_CFG_LBIST_BOOT s.store.kept.boot.lbist
    let s := if s.fuses.life = 3 && !s.getB R.SEC_STAT_LOCKDOWN then debugOpen 3 s else s
    let s := setPhase 1 (trngStart s)
    if s.held then faultLanes (holdCause s) s else s
  else s

/-! ### Meanings -/

/-- BLOCK_SRST (R396). -/
def execBlockSrst (b : Blk) (s : State) : Host.Outcome State Fault Refusal :=
  if allBlocks.contains b then done (blockSrstOp b s) else .fault .noSuchTarget

/-- BLOCK_RESET_RELEASE (R396). -/
def execBlockResetRelease (b : Blk) (s : State) : Host.Outcome State Fault Refusal :=
  if allBlocks.contains b then done (blockResetReleaseOp b s) else .fault .noSuchTarget

/-- POR_ASSERT (R389). -/
def execPorAssert (s : State) : Host.Outcome State Fault Refusal :=
  done (porAssertOp s)

/-- POR_RELEASE (R389). -/
def execPorRelease (s : State) : Host.Outcome State Fault Refusal :=
  done (porReleaseOp s)

/-- RESET_N_ASSERT (R392). -/
def execResetNAssert (s : State) : Host.Outcome State Fault Refusal :=
  done (resetNAssertOp s)

/-- RESET_N_RELEASE (R392). -/
def execResetNRelease (s : State) : Host.Outcome State Fault Refusal :=
  done (resetNReleaseOp s)

/-- GLOBAL (R393). -/
def execGlobal (s : State) : Host.Outcome State Fault Refusal :=
  done (globalOp s)

/-- WARM (R393). -/
def execWarm (s : State) : Host.Outcome State Fault Refusal :=
  done (warmOp s)

/-- RESET_PULSE_END (R389). -/
def execResetPulseEnd (p : Pulse) (s : State) : Host.Outcome State Fault Refusal :=
  done (resetPulseEndOp p s)

/-- SHEAF (R390). -/
def execSheaf (sh : Sheaf) (on : Bool) (s : State) : Host.Outcome State Fault Refusal :=
  done (sheafOp sh.val on s)

/-- COLD_RELEASE (R391). -/
def execColdRelease (boot clkmode : BitVec 2) (addr : BitVec 3)
    (s : State) : Host.Outcome State Fault Refusal :=
  done (coldReleaseOp boot.toNat clkmode.toNat addr.toNat s)

/-- WDT_KICK (R395). -/
def execWdtKick (req : Requester) (key : Word) (s : State) : Host.Outcome State Fault Refusal :=
  done (wdtKickOp req key.toNat s)

/-- WDT_EXPIRY (R395). -/
def execWdtExpiry (s : State) : Host.Outcome State Fault Refusal :=
  done (wdtExpiryOp s)

end Sys2Proof.Machine
end

