-- ==== Sys2Proof/Machine/Power.lean ====
section
/-!
DEFINITION. Supplies, power states, the entry handshake, wakes and performance levels (R358 to R388), and the reference
clock (R494).
-/

namespace Sys2Proof.Machine

open Sys2Proof

def pwrBlk : Blk := dev .pwr

/-! ### After a change (R371 to R373) -/

/-- A pending level request starts; an equal or an out-of-date one is dropped (R371, R372). -/
def startPendingLevel (s : State) : State :=
  match s.pwr.levelPending with
  | none => s
  | some t =>
    let s := { s with pwr := { s.pwr with levelPending := none } }
    if s.power = 0 then requestLevel t s else s

/-- The pending requests start: the state first, with the wakes that asked for ACTIVE, then the level (R371, R372). -/
def startPending (s : State) : State :=
  if s.powerChanging then s
  else if s.getB R.PWR_STATE_PEND_VALID then
    let t := s.get R.PWR_STATE_PEND
    let w := s.pwr.wakes
    let s := (s.setB R.PWR_STATE_PEND_VALID false).set R.PWR_STATE_PEND 0
    let s := { s with pwr := { s.pwr with wakes := 0 } }
    let s' := requestState t (if t = 0 && s.stateTarget != 0 then wakeLatch w s else s)
    if s'.pwr.stateStage != 0 then s' else startPendingLevel s'
  else startPendingLevel s

/-- A transition or a level change is over: holds act, and pending requests start (R371, R373). -/
def changeOver (s : State) : State := if s.powerChanging then s else startPending (holdsAct s)

/-- Every enabled lane in OFF looks again at its level (R25). -/
def lanesConsider (s : State) : State := (List.range 8).foldl (fun s l => considerStart l s) s

/-! ### TIMEKEEP (R361, R368, R374) -/

/-- The device is in TIMEKEEP: COLD is asserted, with its cause in PWR_STATE, and the capture memories are off (R116,
R361, R365, R366). -/
def enterTimekeep (cause : Nat) (s : State) : State :=
  let s := if s.coldAsserted then capsLose s else coldClear true (resetEvent (2 ^ (if cause = 2 then 2 else 7)) s)
  let s := { s with
    resets := { s.resets with waiting := true, timekeep := true, switch := s.resets.switch || cause == 2 }
    pwr := PowerInt.reset }
  let s := if cause = 2 then s.setB R.RST_CAUSE_COLD_SWITCH true else s
  (s.set R.PWR_STATE_STATE 3).set R.PWR_STATE_CAUSE cause

/-- A wake from TIMEKEEP: the causes are latched, and COLD is released by the rule of R358. Wick answers during the
start-up that its match begins (R348, R368, R374). -/
def leaveTimekeep (w : Nat) (s : State) : State :=
  let s := (wakeLatch w s).setB R.RST_CAUSE_TIMEKEEP true
  { s with resets := { s.resets with
    timekeep := false, switch := false, leaving := true, wick := s.resets.wick || bitAt w 1 == 1 } }

/-- Wake source k that TIMEKEEP knows: it ends TIMEKEEP, is latched or lost on the way there, and wakes from DOZE and
RETAIN if `lower`; while COLD waits it has nothing to end. `late` says that it came within the last 6 AON cycles of the
entry and ended before it (R368, R374, R375). -/
def edgeWake (k : Nat) (late lower : Bool) (s : State) : State :=
  let entering := s.pwr.stateStage != 0 && s.get R.PWR_STATE_TARGET == 3
  if s.resets.timekeep then leaveTimekeep (2 ^ k) s
  else if s.coldAsserted then s
  else if entering && s.pwr.stateStage = 2 && late then s.setB R.PWR_WAKE_STAT_EDGE_LOST true
  else if lower || entering then wakeActive k s
  else s

/-- WAKE_PIN: WAKE_N is low (R374, R375). -/
def wakePinOp (late : Bool) (s : State) : State :=
  if s.getB R.PWR_WAKE_EN_PIN then edgeWake 0 late true s else s

/-- WICK_MATCH: a transfer to one of Wick's addresses in TIMEKEEP, until its COLD is released, or in the entry to it
(R348, R374, R375). -/
def wickMatchOp (addr : Nat) (late : Bool) (s : State) : State :=
  if s.getB R.PWR_WAKE_EN_WICK
      && (addr = s.get R.MGT_WICK_STATIC || (addr != 0 && addr == s.get R.MGT_WICK_DYNAMIC)) then
    let s' := edgeWake 1 late false s
    if s.resets.leaving then { s' with resets := { s'.resets with wick := true } } else s'
  else s

/-! ### Rails (R358 to R363, R388) -/

/-- The number of a rail in PWR_RAIL_STAT.OK (R387). -/
def Rail.index : Rail → Nat
  | .core => 0 | .ana => 1 | .hv => 2 | .dac => 3 | .vio => 4 | .vbak => 5

/-- RAIL_GOOD (R358). -/
def railGoodOp (r : Rail) (s : State) : State := s.setB (R.PWR_RAIL_STAT_OK (Rail.index r)) true

/-- VBAK_LOW: VBAK_OK falls (R388). -/
def vbakLowOp (s : State) : State :=
  let f := R.PWR_RAIL_STAT_OK 5
  if s.getB f then (s.setB f false).irq pwrBlk 4 else s

/-- VIO has been good for 1 ms: the AON domain is back on it, which ends TIMEKEEP (R363, R374). -/
def vioBack (s : State) : State :=
  let s := (s.setB R.PWR_RAIL_STAT_ON_VBAK false).setB (R.PWR_RAIL_STAT_OK 4) true
  if s.resets.timekeep then leaveTimekeep 8 s else s

/-- The end of a switch-over commit: COLD, and TIMEKEEP, which VIO leaves at once where it has come back (R361,
R363). -/
def switchOverEnd (s : State) : State :=
  if s.pwr.switching && s.stub.commit.isNone then
    let back := s.pwr.vioBack
    let s := enterTimekeep 2 s
    if back then vioBack s else s
  else s

/-- A transition or level change in progress stops where it is, and the pending slots are emptied (R373). -/
def changeStop (s : State) : State :=
  let s := (((s.setB R.PWR_STATE_BUSY false).setB R.PWR_STATE_PEND_VALID false).set R.PWR_STATE_PEND 0).setB
    R.PWR_PL_STAT_BUSY false
  { s with pwr := { s.pwr with stateStage := 0, levelStage := 0, levelPending := none, avs := none, asked := [],
                                    deferring := [], wakes := 0 } }

/-- VIO_LOSS: with VBAK_OK the AON domain moves to VBAK, every lane goes to OFF and the Stub commits; without it COLD is
asserted (R361, R362, R373). -/
def vioLossOp (s : State) : State :=
  let s := s.setB (R.PWR_RAIL_STAT_OK 4) false
  if s.getB R.PWR_RAIL_STAT_ON_VBAK then { s with pwr := { s.pwr with vioBack := false } }
  else if s.getB (R.PWR_RAIL_STAT_OK 5) then
    let s := (changeStop s).satInc R.PWR_SWITCH_COUNT 1
    let s := lanesOff (List.range 8) (s.setB R.PWR_RAIL_STAT_ON_VBAK true)
    let s := powerEvent s.power 3 (s.get R.PWR_PL_STAT_LEVEL) 0 (2 ^ 20) s
    let s := commitTrigger 2 { s with pwr := { s.pwr with switching := true } }
    switchOverEnd s
  else supplyCold false s

/-- VIO_RETURN: VIO has been good for 1 ms; a commit in progress completes first (R363, R374). -/
def vioReturnOp (s : State) : State :=
  if !s.getB R.PWR_RAIL_STAT_ON_VBAK then s
  else if s.pwr.switching then { s with pwr := { s.pwr with vioBack := true } }
  else vioBack s

/-- RAIL_LOST: a main rail asserts COLD; VIO and VBAK as R361, R362 and R388 say (R358). -/
def railLostOp (r : Rail) (s : State) : State :=
  match r with
  | .vio => vioLossOp s
  | .vbak => vbakLowOp s
  | r => supplyCold (r == .core) (s.setB (R.PWR_RAIL_STAT_OK (Rail.index r)) false)

/-- RAIL_UV: an undervoltage in ACTIVE is reported (R360). -/
def railUvOp (r : Rail) (s : State) : State :=
  if s.power = 0 && !s.coldAsserted && Rail.index r < 4 then
    ((s.setB (R.PWR_RAIL_STAT_UV (Rail.index r)) true).irq pwrBlk 3).event pwrBlk 0 5 3
  else s

/-- STUB_COMMIT_DONE: the commit in progress completes; a switch-over then ends in TIMEKEEP (R361, R452). -/
def stubCommitDoneOp (s : State) : State :=
  if s.stub.commit.isSome then switchOverEnd (finishCommit s) else s

/-! ### The entry handshake (R370) -/

/-- A SEC command that opens an owner session or needs one is in progress (R370, R471, R487; log entry 237). -/
def State.ownerCommand (s : State) : Bool :=
  s.get R.SEC_CMD_STAT_STATE == 1
    && ([2, 3, 4, 6].contains s.sec.op || ((s.sec.op == 8 || s.sec.op == 9) && s.fuses.life == 2))

/-- A block's answer: ACK, DEFER or REFUSE. -/
inductive Answer where
  | ack | defer | refuse
  deriving DecidableEq, Repr

/-- The answer to a lower power state (R370). -/
def stateAnswer (s : State) (b : Blk) : Answer :=
  match b.kind with
  | .shf => if (List.range 4).any fun k => s.laneUp (4 * b.inst + k) then .refuse else .ack
  | .cap =>
    let c := s.get (R.CAP_STAT_STATE b.inst)
    if c = 1 || c = 2 then .refuse else if c = 6 then .defer else .ack
  | .fwc => if (List.range 4).any fun n =>
      s.get (R.FWC_MBX_SLOT_STATE n) == 1 || s.get (R.FWC_MBX_SLOT_STATE n) == 2 then .defer else .ack
  | .mgt => if s.spi.queue.isEmpty && s.i3c.queue.isEmpty then .ack else .defer
  | .nvs => if s.nvsWriter = 0 then .ack else .defer
  | .evr => if s.stub.commit.isSome then .defer else .ack
  | .cal => if s.getB R.CAL_STAT_SAVE_BUSY || s.getB R.CAL_STAT_ANCHOR_BUSY then .defer else .ack
  | .sec => if s.ownerCommand || (List.range 8).any fun l => s.get (R.MSG_LANE_STAT_SESSION l) == 1 then
      .defer else .ack
  | .msg => if s.msg.remote.isEmpty then .ack else .defer
  | _ => .ack

/-- The answer to a lower performance level (R370). -/
def levelAnswer (s : State) (b : Blk) : Answer :=
  if b.kind = .shf && (List.range 4).any fun k => s.get R.PWR_PL_STAT_TARGET < s.laneNeed (4 * b.inst + k) then .refuse
  else .ack

/-- The handshake of a level change, not of a state transition, is in progress. -/
def State.levelHandshake (s : State) : Bool := s.pwr.levelStage == 1

/-- A handshake is in progress. -/
def State.handshake (s : State) : Bool := s.levelHandshake || s.pwr.stateStage == 1

/-- A block refuses: the entry is aborted and recorded, and the pending request starts (R370, R371). -/
def refuse (i cause : Nat) (s : State) : State :=
  let lvl := s.levelHandshake
  let s := ((s.set R.PWR_REFUSE_INDEX i).set R.PWR_REFUSE_CAUSE cause).setB R.PWR_REFUSE_LEVEL lvl
  let p := s.get R.PWR_PL_STAT_LEVEL
  let s := if lvl then powerEvent s.power s.power p (s.get R.PWR_PL_STAT_TARGET) (256 * i + 65536 * cause) s
    else powerEvent s.power (s.get R.PWR_STATE_TARGET) p p (256 * i + 65536 * cause) s
  let s := s.irq pwrBlk 1
  let s := if lvl then (s.setB R.PWR_PL_STAT_BUSY false).set R.PWR_PL_STAT_TARGET p
    else (s.setB R.PWR_STATE_BUSY false).set R.PWR_STATE_TARGET s.power
  changeOver { s with pwr := { s.pwr with
    levelStage := if lvl then 0 else s.pwr.levelStage, stateStage := if lvl then s.pwr.stateStage else 0,
    asked := [], deferring := [], defers := [] } }

/-- Every block has answered ACK: a lowering goes on with clock, bias, assist and the AVSBus write, and so does an entry,
which lowers the level to PL0 (R370, R378, R383). -/
def proceed (s : State) : State :=
  if s.levelHandshake then levelMove (s.get R.PWR_PL_STAT_TARGET) s
  else levelMove 0 { s with pwr := { s.pwr with stateStage := 2 } }

/-- HANDSHAKE_ANSWER: a block that was asked answers (R370). -/
def handshakeAnswerOp (i : Nat) (s : State) : State :=
  if !s.handshake || !s.pwr.asked.contains i then s
  else match blkOfIrq i with
    | none => s
    | some b =>
      match (if s.levelHandshake then levelAnswer s b else stateAnswer s b) with
      | .ack =>
        let s := { s with pwr := { s.pwr with asked := s.pwr.asked.filter (· != i) } }
        if s.pwr.asked.isEmpty && s.pwr.deferring.isEmpty then proceed s else s
      | .defer =>
        let n := (natGet s.pwr.defers i).getD 0 + 1
        if n = 9 then refuse i 2 s
        else { s with pwr := { s.pwr with
          asked := s.pwr.asked.filter (· != i), deferring := i :: s.pwr.deferring
          defers := natSet s.pwr.defers i n 0 } }
      | .refuse => refuse i 1 s

/-- HANDSHAKE_DEFER_EXPIRY: the block is asked again (R370). -/
def handshakeDeferExpiryOp (i : Nat) (s : State) : State :=
  if s.handshake && s.pwr.deferring.contains i then
    { s with pwr := { s.pwr with asked := i :: s.pwr.asked, deferring := s.pwr.deferring.filter (· != i) } }
  else s

/-- HANDSHAKE_TIMEOUT: a block that was asked has not answered within 50 µs (R370). -/
def handshakeTimeoutOp (i : Nat) (s : State) : State :=
  if s.handshake && s.pwr.asked.contains i then refuse i 3 s else s

/-! ### Power states (R366 to R371) -/

/-- PWR_STATE_REQ: TARGET is written (R371, R374). -/
def pwrStateReqOp (t : Nat) (s : State) : State :=
  let s := s.set R.PWR_STATE_REQ_TARGET t
  if t = 0 then wakeActive 4 s else requestState t s

/-- TIM loses its power: only the counter runs, and holdover ends (R238, R239, R261). -/
def timSleep (s : State) : State :=
  let s := (setActive 0 (holdLeave s)).setB R.TIM_STAT_FINE_READY false
  { s with tim := { s.tim with first := true, last := none, good := 0, bad := 0, back := 0, lost := false
                               ppsRise := none, ppsFall := none, waiting := [], servoStep := none, srcOld := none
                               learnBroken := true } }

/-- TIM has its power again: QUAL is FREERUN, and a selected source is active until it is lost (R239, R251; log entry
192). -/
def timWake (s : State) : State :=
  let src := s.get R.TIM_SERVO_CFG_SRC
  setQual 0 (setActive (if src = 4 then 0 else src) s)

/-- The sheaf PLLs go off, the capture memories lose their power, the time domain goes to retention (R365, R366). -/
def enterRetain (s : State) : State := timSleep (capsLose (pllsStop 1 (pllsStop 0 s)))

/-- A transition has reached its target, and its level is set: one POWER entry carries both. The domains that go down
have counted their cycles (R366, R371, R388, R445, R449; log entry 228). -/
def stateDone (s : State) : State :=
  let s := clockCounts (fun _ => true) s
  let t := s.get R.PWR_STATE_TARGET
  let s := powerEvent s.power t s.pwr.fromLevel (s.get R.PWR_PL_STAT_LEVEL) 0 s
  let s := ((s.set R.PWR_STATE_STATE t).setB R.PWR_STATE_BUSY false).irq pwrBlk 0
  { s with pwr := { s.pwr with stateStage := 0 } }

/-- The domains that accesses woke before the entry go down with it; one that an access in the entry asks for wakes after
it (R347, R373). -/
def wokenRejoin (s : State) : State := { s with woken := s.woken.filter fun w => !w.ready }

/-- POWER_STATE_ENTRY_DONE: the entry completes, once its level is set; a wake or a request that waited ends TIMEKEEP at
once, and a hold that was latched meanwhile acts (R366, R371, R373, R375, R378; log entry 225). -/
def powerStateEntryDoneOp (s : State) : State :=
  if s.pwr.stateStage != 2 || s.pwr.levelStage != 0 then s
  else
    let t := s.get R.PWR_STATE_TARGET
    if t = 3 then
      let wake := s.getB R.PWR_STATE_PEND_VALID
      let w := if s.pwr.wakes = 0 then 16 else s.pwr.wakes
      let s := enterTimekeep 1 (powerEvent s.power 3 s.pwr.fromLevel (s.get R.PWR_PL_STAT_LEVEL) 0 s)
      if wake then leaveTimekeep w s else s
    else
      let s := if t = 2 then enterRetain s else s
      changeOver (lanesConsider (wokenRejoin (stateDone s)))

/-- The domains are powered again, the sheaf PLLs have relocked, the captures follow EN, and TIM is ON again (R251,
R266, R336, R366, R507). -/
def domainsBack (old : Nat) (s : State) : State :=
  if old != 2 then s
  else
    let s := [0, 1].foldl (fun s sh =>
      let s := if s.pllsRun sh then (s.setB (R.SHF_PLL_STAT_LINE_LOCK sh) true).setB (R.SHF_PLL_STAT_HOST_LOCK sh) true
        else s
      if s.power = 2 then s else capFollow sh s) s
    let s := timWake s
    if s.timOn then alarmsSkipped s else s

/-- PWR_PL_CFG as a whole asks for its level: a raise, or a lowering without AUTO, at once (R372, R381). -/
def levelApplyCfg (s : State) : State :=
  if !s.levelCfgApplies then s
  else if s.getB R.PWR_PL_CFG_AUTO && s.cfgLevel < s.get R.PWR_PL_STAT_TARGET then s
  else requestLevel s.cfgLevel s

/-- POWER_STATE_EXIT_DONE: the device is in the higher state, once its level is set or has failed to be; in ACTIVE,
PWR_PL_CFG applies again (R366, R372, R373, R378, R383, R388). -/
def powerStateExitDoneOp (s : State) : State :=
  if s.pwr.stateStage != 3 || s.pwr.levelStage != 0 then s
  else
    let old := s.power
    let t := s.get R.PWR_STATE_TARGET
    let s := (domainsBack old (stateDone s)).irq pwrBlk 6
    let s := if t = 0 then lanesConsider s else s
    let s := changeOver { s with woken := [] }
    if t = 0 then levelApplyCfg s else s

/-! ### Performance levels (R377 to R382) -/

/-- PL_CFG_WRITE (R381). -/
def plCfgWriteOp (v : Nat) (s : State) : State :=
  let s := ((s.set R.PWR_PL_CFG_REQ (bits v 0 2)).set R.PWR_PL_CFG_AUTO (bits v 4 1)).set R.PWR_PL_CFG_MIN (bits v 8 2)
  levelApplyCfg s

/-- PL_AUTO_LOWER: the target of AUTO has stayed lower for 1 ms (R381). -/
def plAutoLowerOp (s : State) : State :=
  if s.levelCfgApplies && s.getB R.PWR_PL_CFG_AUTO && s.cfgLevel < s.get R.PWR_PL_STAT_TARGET then
    requestLevel s.cfgLevel s
  else s

/-- The second AVSBus failure: AVS_ERR; a raise ends at its old level and its request stays pending, unless a newer one
waits, which starts (R373, R379). -/
def avsFail (s : State) : State :=
  let s := (s.setB R.PWR_PL_STAT_AVS_ERR true).irq pwrBlk 5
  let s := { s with pwr := { s.pwr with avs := none } }
  let t := s.get R.PWR_PL_STAT_TARGET
  if s.get R.PWR_PL_STAT_LEVEL < t then
    let s := (s.setB R.PWR_PL_STAT_BUSY false).set R.PWR_PL_STAT_TARGET (s.get R.PWR_PL_STAT_LEVEL)
    let next := s.pwr.levelPending
    let s := changeOver { s with pwr := { s.pwr with levelStage := 0, levelPending := none } }
    match next with
    | some n => requestLevel n s
    | none => { s with pwr := { s.pwr with levelPending := some t } }
  else { s with pwr := { s.pwr with levelStage := 4 } }

/-- AVS_FRAME_DONE: the voltage write in progress ends, `ok` with acknowledge and a status without an error; the first
failure sends it once more (R378, R379). -/
def avsFrameDoneOp (ok : Bool) (s : State) : State :=
  if s.pwr.levelStage != 2 then s
  else if ok then
    { s with pwr := { s.pwr with
      avs := none, levelStage := if s.get R.PWR_PL_STAT_LEVEL < s.get R.PWR_PL_STAT_TARGET then 3 else 4 } }
  else if s.pwr.retried then avsFail s
  else { s with pwr := { s.pwr with retried := true } }

/-- AVS_SETTLE_EXPIRY: assist, bias and clock of the higher level follow (R378). -/
def avsSettleExpiryOp (s : State) : State :=
  if s.pwr.levelStage = 3 then
    levelSteps (s.get R.PWR_PL_STAT_TARGET) { s with pwr := { s.pwr with levelStage := 4 } }
  else s

/-- The level has reached the requirement of a lane: its DIM fields count as they are again (R386). -/
def burstsOver (s : State) : State :=
  (List.range 8).foldl (fun s l =>
    if s.levelOk l then s.putRx l { s.rx l with burstMissed := false } else s) s

/-- PL_CHANGE_DONE: the level change completes; as a part of a transition it has no POWER entry of its own (R378, R386,
R388, R449; log entry 228). -/
def plChangeDoneOp (s : State) : State :=
  if s.pwr.levelStage != 4 then s
  else
    let old := s.get R.PWR_PL_STAT_LEVEL
    let t := s.get R.PWR_PL_STAT_TARGET
    let s := if s.pwr.stateStage = 0 then powerEvent s.power s.power old t 0 s else s
    let s := ((s.set R.PWR_PL_STAT_LEVEL t).setB R.PWR_PL_STAT_BUSY false).irq pwrBlk 2
    changeOver (burstsOver (lanesConsider { s with pwr := { s.pwr with levelStage := 0 } }))

/-! ### Wakes of domains (R347) -/

/-- DOMAIN_WAKE_DONE: a domain that an access woke is ready, which it is not before an entry in progress has ended.
Without REFCLK a wake that needs a sheaf PLL fails (R347, R373, R494). -/
def domainWakeDoneOp (d : Domain) (s : State) : State :=
  if s.pwr.stateStage != 2 && s.woken.any fun w => w.domain == d then
    let s := { s with woken := s.woken.map fun w => if w.domain = d then { w with ready := true } else w }
    (allBlocks.filter fun b => b.domain == d).foldl (fun s b => s.count b 0x04 1) s
  else s

/-- WAKE_HOLD_EXPIRY: the domain rejoins the power state, and has counted its cycles (R347, R445). -/
def wakeHoldExpiryOp (d : Domain) (s : State) : State :=
  let s := clockCounts (fun b => b.domain == d) s
  { s with woken := s.woken.filter fun w => w.domain != d }

/-! ### The reference clock (R494) -/

/-- REFCLK_LOSS: the backup oscillator takes over, and the sheaf PLLs lose lock (R494). -/
def refclkLossOp (s : State) : State :=
  if s.getB R.CLK_STAT_REF_OK && !s.coldAsserted then
    let s := ((s.setB R.CLK_STAT_REF_OK false).setB R.CLK_STAT_REF_LOS true).setB R.CLK_STAT_BACKUP true
    let s := s.irq (dev .clk) 0
    [0, 1].foldl (fun s sh => pllLose sh true (pllLose sh false s)) s
  else s

/-- REFCLK_RESTORED: 1 ms of good edges (R494). -/
def refclkRestoredOp (s : State) : State :=
  if s.getB R.CLK_STAT_REF_OK || s.coldAsserted then s
  else
    let s := s.setB R.CLK_STAT_REF_OK true
    if s.getB R.CLK_STAT_BACKUP then (s.setB R.CLK_STAT_BACKUP false).irq (dev .clk) 1 else s

/-! ### Meanings -/

/-- DOMAIN_WAKE_DONE (R347). -/
def execDomainWakeDone (d : Domain) (s : State) : Host.Outcome State Fault Refusal :=
  done (domainWakeDoneOp d s)

/-- WAKE_HOLD_EXPIRY (R347). -/
def execWakeHoldExpiry (d : Domain) (s : State) : Host.Outcome State Fault Refusal :=
  done (wakeHoldExpiryOp d s)

/-- WICK_MATCH (R348). -/
def execWickMatch (addr : BitVec 7) (late : Bool) (s : State) : Host.Outcome State Fault Refusal :=
  done (wickMatchOp addr.toNat late s)

/-- RAIL_GOOD (R358). -/
def execRailGood (r : Rail) (s : State) : Host.Outcome State Fault Refusal :=
  done (railGoodOp r s)

/-- RAIL_LOST (R358). -/
def execRailLost (r : Rail) (s : State) : Host.Outcome State Fault Refusal :=
  done (railLostOp r s)

/-- RAIL_UV (R360). -/
def execRailUv (r : Rail) (s : State) : Host.Outcome State Fault Refusal :=
  done (railUvOp r s)

/-- VIO_LOSS (R361). -/
def execVioLoss (s : State) : Host.Outcome State Fault Refusal :=
  done (vioLossOp s)

/-- VIO_RETURN (R363). -/
def execVioReturn (s : State) : Host.Outcome State Fault Refusal :=
  done (vioReturnOp s)

/-- VBAK_LOW (R388). -/
def execVbakLow (s : State) : Host.Outcome State Fault Refusal :=
  done (vbakLowOp s)

/-- PWR_STATE_REQ (R371). -/
def execPwrStateReq (t : BitVec 2) (s : State) : Host.Outcome State Fault Refusal :=
  done (pwrStateReqOp t.toNat s)

/-- HANDSHAKE_ANSWER (R370). -/
def execHandshakeAnswer (i : Byte) (s : State) : Host.Outcome State Fault Refusal :=
  done (handshakeAnswerOp i.toNat s)

/-- HANDSHAKE_DEFER_EXPIRY (R370). -/
def execHandshakeDeferExpiry (i : Byte) (s : State) : Host.Outcome State Fault Refusal :=
  done (handshakeDeferExpiryOp i.toNat s)

/-- HANDSHAKE_TIMEOUT (R370). -/
def execHandshakeTimeout (i : Byte) (s : State) : Host.Outcome State Fault Refusal :=
  done (handshakeTimeoutOp i.toNat s)

/-- POWER_STATE_ENTRY_DONE (R366). -/
def execPowerStateEntryDone (s : State) : Host.Outcome State Fault Refusal :=
  done (powerStateEntryDoneOp s)

/-- POWER_STATE_EXIT_DONE (R366). -/
def execPowerStateExitDone (s : State) : Host.Outcome State Fault Refusal :=
  done (powerStateExitDoneOp s)

/-- WAKE_PIN (R374). -/
def execWakePin (late : Bool) (s : State) : Host.Outcome State Fault Refusal :=
  done (wakePinOp late s)

/-- PL_CFG_WRITE (R381). -/
def execPlCfgWrite (v : Word) (s : State) : Host.Outcome State Fault Refusal :=
  done (plCfgWriteOp v.toNat s)

/-- PL_AUTO_LOWER (R381). -/
def execPlAutoLower (s : State) : Host.Outcome State Fault Refusal :=
  done (plAutoLowerOp s)

/-- AVS_FRAME_DONE (R379). -/
def execAvsFrameDone (ok : Bool) (s : State) : Host.Outcome State Fault Refusal :=
  done (avsFrameDoneOp ok s)

/-- AVS_SETTLE_EXPIRY (R378). -/
def execAvsSettleExpiry (s : State) : Host.Outcome State Fault Refusal :=
  done (avsSettleExpiryOp s)

/-- PL_CHANGE_DONE (R378). -/
def execPlChangeDone (s : State) : Host.Outcome State Fault Refusal :=
  done (plChangeDoneOp s)

/-- STUB_COMMIT_DONE (R452). -/
def execStubCommitDone (s : State) : Host.Outcome State Fault Refusal :=
  done (stubCommitDoneOp s)

/-- REFCLK_LOSS (R494). -/
def execRefclkLoss (s : State) : Host.Outcome State Fault Refusal :=
  done (refclkLossOp s)

/-- REFCLK_RESTORED (R494). -/
def execRefclkRestored (s : State) : Host.Outcome State Fault Refusal :=
  done (refclkRestoredOp s)

end Sys2Proof.Machine
end

