-- ==== Sys2Proof/Machine/SelfTest.lean ====
section
/-!
DEFINITION. Memory integrity and self-test: uncorrectable reads, narrow writes and error injection, the scratch aliases,
the scrubber, marches, row repair, failed memories and slice retirement (R411 to R424, R430 to R432).
-/

namespace Sys2Proof.Machine

open Sys2Proof

def memBlk : Blk := dev .mem

/-! ### Uncorrectable reads (R413) -/

/-- An uncorrectable read of a word of a memory: counted, recorded and raised; it triggers a commit but for capture
memory (R411, R413, R449). -/
def eccFail (memid word : Nat) (addrFault : Bool) (s : State) : State :=
  let s := ((s.satInc R.MEM_ECC_UE_CNT_COUNT 1).setB R.MEM_ECC_STAT_UE_SEEN true).set R.MEM_ECC_LAST_MEMID memid
  let s := (s.setB R.MEM_ECC_LAST_ADDR addrFault).set R.MEM_ECC_LAST_ADDR_WORD word
  let s := if addrFault then s.setB R.MEM_ECC_STAT_ADDR_FAULT true else s
  let s := (s.irq memBlk 1).event memBlk 0 7 (memid + 256 * (word % 2 ^ 20))
  if 0x20 ≤ memid && memid < 0x22 then s else commitTrigger 0 s

/-- An uncorrectable read at a byte address of scratch or capture memory. -/
def eccFailAt (a : Nat) (s : State) : State := eccFail (memIdOf a) (memWordOf a) (s.eccAt a == 3) s

/-- The word at a byte address of scratch or capture memory is read: the state after, and whether the data are good
(R411 to R413, R417). -/
def memCheck (a : Nat) (s : State) : State × Bool :=
  if !s.wordWritten a then
    if s.unwrittenFails then (eccFailAt a s.draw, false) else (s.draw, true)
  else
    let c := s.eccAt a
    if c = 0 then (s, true)
    else if c = 1 then (eccCorrect a s, true)
    else (eccFailAt a s, false)

/-! ### Writes (R415, R418, R432) -/

/-- The error that an armed injection stores with the next write of its word (R432). -/
def injectTake (a : Nat) (s : State) : State :=
  if s.get R.MEM_INJ_CTRL_MODE != 0 && scratchBase ≤ a && a < scratchBase + scratchSize
      && (a - scratchBase) / 8 == s.get R.MEM_INJ_ADDR_WORD then
    (s.putEcc a (s.get R.MEM_INJ_CTRL_MODE)).set R.MEM_INJ_CTRL_MODE 0
  else s.putEcc a 0

/-- The undefined bytes of a 64-bit word of capture memory become bytes of the list, as a write of one half fixes the
other. -/
def wordSettle (a : Nat) (s : State) : State :=
  if inCapture a then (List.range 8).foldl (fun s i => s.putByte (a / 8 * 8 + i) (s.byteAt (a / 8 * 8 + i))) s else s

/-- A 32-bit write that reads the word first: whether it had its effect (R415). -/
def memMerge (a : Nat) (f : Nat → Nat) (s : State) : State × Bool :=
  let r := memCheck a s
  if r.2 then (injectTake a ((wordSettle a r.1).putMemWord a (f (r.1.memWord a))), true) else (r.1, false)

/-- A write of a whole 64-bit word, without reading it (R415). -/
def memPair (a lo hi : Nat) (s : State) : State := injectTake a ((s.putMemWord a lo).putMemWord (a + 4) hi)

/-- Whether the scratch bank of an address serves accesses: MEM is up, or a download waits, and the bank has not
failed (R396, R404, R424). -/
def State.scratchServes (s : State) (a : Nat) : Bool :=
  !s.inReset memBlk && (s.started memBlk || s.phase == 3) && s.domainOn memBlk.domain
    && !s.store.failed.contains (memIdOf a)

/-- An alias write at offset x of scratch has its effect where the bank serves; a misaligned one has none (R4, R418,
R424). -/
def scratchAlias (x : Nat) (f : Nat → Nat) (s : State) : State :=
  if x % 4 = 0 && s.scratchServes (scratchBase + x) then (memMerge (scratchBase + x) f s).1 else s

/-- SCRATCH_BIT_SET: w ← w OR v at offset x of scratch (R418). -/
def scratchBitSetOp (x v : Nat) (s : State) : State :=
  scratchAlias (x % scratchSize) (fun w => w ||| v) s

/-- SCRATCH_BIT_CLEAR: w ← w AND NOT v at offset x of scratch (R418). -/
def scratchBitClearOp (x v : Nat) (s : State) : State :=
  scratchAlias (x % scratchSize) (fun w => clearBits w v) s

/-- ECC_INJECT: the next write of a scratch word stores an error (R432). -/
def eccInjectOp (word mode : Nat) (s : State) : State := (s.set R.MEM_INJ_ADDR_WORD word).set R.MEM_INJ_CTRL_MODE mode

/-! ### Scrubbing (R419) -/

/-- Whether the scrubber reads a memory: never capture memory, and a slice's memories while it serves an enabled lane
(R410, R419). -/
def scrubReads (s : State) (memid : Nat) : Bool :=
  memid < 4 || (0x10 ≤ memid && memid ≤ 0x12) ||
  (0x40 ≤ memid && memid < 0x50 && (memid - 0x40) % 8 < 5 && (List.range 4).any fun k =>
    s.get (R.SHF_SLICE_MAP_LANE_SLICE ((memid - 0x40) / 8) k) == (memid - 0x40) % 8
      && s.laneEn (4 * ((memid - 0x40) / 8) + k))

/-- SCRUB_READ: one word of a memory, whose class is the stored one, or else `cls`, which the read shows: a correctable
word is counted and written back, an uncorrectable one stays as it is (R412, R413, R419). -/
def scrubReadOp (memid word cls : Nat) (s : State) : State :=
  if !s.getB R.MEM_SCRUB_EN || !scrubReads s memid || s.inReset memBlk || !s.started memBlk then s
  else
    let word := word % memWords memid
    let k := wordKey memid word
    let c := if s.classAt k = 0 then cls else s.classAt k
    if c = 0 then s
    else if c = 1 then
      (((s.putClass k 0).satInc R.MEM_ECC_CE_CNT_COUNT 1).setB R.MEM_ECC_STAT_CE_SEEN true).irq memBlk 0
    else eccFail memid word (c == 3) (s.putClass k c)

/-! ### Management-only service (R406) -/

/-- Entry to management-only service with its cause, where `run` tells whether firmware runs; the blocks that R406 names
as answering are started. Fencing closes the lanes' registers; where a memory fails in service, no lane changes its state
and the lanes' data goes on (R15, R27, R405, R406, R424; log entry 198). -/
def mgmtOnly (run : Bool) (err : Nat) (s : State) : State :=
  if s.phase = 9 then s else
  let s := if run then s else (s.setB R.FWC_STAT_RUNNING false).setB R.RST_WDT_CFG_RUNNING false
  let start (k : BK) (s : State) : State := if s.started (dev k) then s else blockFollow (dev k) s
  let s := start .pmc (start .tim s)
  (setPhase 9 (s.set R.RST_BOOT_STAT_ERROR err)).irq rstBlk 1

/-- Entry for a cause of R406; only under a hold does firmware run. -/
def enterMgmtOnly (err : Nat) (s : State) : State := mgmtOnly (err == 8) err s

/-! ### Slices, failed memories and row repair (R423, R424, R431) -/

/-- The slice map of a sheaf from its retired slices: the spare serves the lowest lane without a slice (R11, R430). -/
def sliceMap (retired : Nat → Bool) (k : Nat) : Nat :=
  if !retired k then k
  else if !retired 4 && (List.range k).all fun j => !retired j then 4 else 7

/-- A slice is retired during operation: the retirement is stored, and a lane that it served takes a free slice, or has
none (R11, R27, R424, R431). -/
def retireSlice (sh n : Nat) (s : State) : State :=
  let s := retireStore (5 * sh + n) s
  match (List.range 4).find? fun k => s.get (R.SHF_SLICE_MAP_LANE_SLICE sh k) == n with
  | none => spareRefresh sh (slicePut sh n true s)
  | some k =>
    match (List.range 5).find? fun m => m != n && s.sliceFree sh m with
    | some m => sliceReassignOp (4 * sh + k) m s
    | none =>
      let s := spareRefresh sh ((slicePut sh n true s).set (R.SHF_SLICE_MAP_LANE_SLICE sh k) 7)
      if s.laneEn (4 * sh + k) && !s.heldOff (4 * sh + k) then toFault (4 * sh + k) 3 s else s

/-- A memory has failed; `word` is the address of the row that no spare replaces (R424, R449). -/
def memFailed (memid word : Nat) (s : State) : State :=
  let s := (s.setB R.MEM_MARCH_STAT_NO_SPARE true).event memBlk 0 7 (memid + 256 * (word % 2 ^ 20))
  let s := { s with store := { s.store with
    failed := if s.store.failed.contains memid then s.store.failed else s.store.failed ++ [memid] } }
  if 0x10 ≤ memid && memid ≤ 0x12 then enterMgmtOnly 7 s
  else if 0x20 ≤ memid && memid < 0x22 then s.setB (R.BLK_FAILED_FLAG (capBlk (memid - 0x20))) true
  else if 0x40 ≤ memid && memid < 0x50 then retireSlice ((memid - 0x40) / 8) ((memid - 0x40) % 8) s
  else s

/-! ### The march (R420, R423) -/

/-- A read or a write of the all-zero or the all-one word, and the address order of an element (R420). -/
inductive MarchOp where
  | read (one : Bool)
  | write (one : Bool)
  deriving DecidableEq, Repr

inductive MarchOrder where
  | up
  | down
  | either
  deriving DecidableEq, Repr

/-- The elements of March C− (R420). -/
def marchElements : List (MarchOrder × List MarchOp) :=
  [(.either, [.write false]), (.up, [.read false, .write true]), (.up, [.read true, .write false]),
   (.down, [.read false, .write true]), (.down, [.read true, .write false]), (.either, [.read false])]

/-- The 64 data and 8 check bits that stand for 0 or 1 over a background: the background or its complement, with check
bits all-zero or all-one (R420; log entry 246). -/
def marchWord (background : Nat) (one : Bool) : Nat :=
  if one then 0xFF * 2 ^ 64 + (2 ^ 64 - 1 - background) else background

/-- What the march expects to read of a word over a background, in order (R420). -/
def marchReads (background : Nat) : List Nat :=
  marchElements.flatMap fun e => e.2.filterMap fun
    | .read one => some (marchWord background one)
    | .write _ => none

/-- What the whole sequence expects to read of every word: over 0, and once more over 0x5555_5555_5555_5555 (R420). -/
def marchExpected : List Nat := marchReads 0 ++ marchReads 0x5555555555555555

/-- The rows that fail: those of the words of which a read differs from its expectation (R420). -/
def failingRows (words : List (Nat × List Nat)) : List Nat :=
  ((words.filter fun w => w.2 != marchExpected).map (·.1 / 128)).eraseDups

/-- A failing row is remapped to the next free spare row that passes the same test, or its memory fails; `rows` are all
the memory's failing rows, its spares after its own (R423, R424). -/
def rowRepair (memid : Nat) (rows : List Nat) (row : Nat) (s : State) : State :=
  let used := (natGet s.store.spares memid).getD 0
  match (List.range (spareRows memid)).find? fun n => used ≤ n && !rows.contains (memWords memid / 128 + n) with
  | some n =>
    let s := { s with store := { s.store with spares := natSet s.store.spares memid (n + 1) 0 } }
    (repairRecord (.row memid row n) s).satInc R.MEM_MARCH_STAT_ROWS_REPAIRED 1
  | none => memFailed memid (128 * row) s

/-- The rows of a memory that a march found to fail are repaired in turn, until the memory fails (R423, R424). -/
def rowsRepair (memid : Nat) (words : List (Nat × List Nat)) (s : State) : State :=
  let rows := failingRows words
  (rows.filter (· < memWords memid / 128)).foldl (fun s r =>
    if s.store.failed.contains memid then s else rowRepair memid rows r s) s

/-! ### Marches on request (R422) -/

/-- Whether a march of a memory may start (R422). -/
def marchAllowed (memid : Nat) (preserve : Bool) (req : Requester) (s : State) : Bool :=
  if memid < 4 then true
  else if memid = 0x11 || memid = 0x12 then preserve
  else if 0x20 ≤ memid && memid < 0x22 then
    !preserve && capFree (s.get (R.CAP_STAT_STATE (memid - 0x20))) && capMine s (memid - 0x20) req
  else if 0x40 ≤ memid && memid < 0x50 && (memid - 0x40) % 8 < 5 then
    !preserve && (List.range 4).all fun k =>
      s.get (R.SHF_SLICE_MAP_LANE_SLICE ((memid - 0x40) / 8) k) != (memid - 0x40) % 8
        || s.laneCode (4 * ((memid - 0x40) / 8) + k) == 0
  else false

/-- MARCH_START: a write of MEM_MARCH_CTRL with START (R422). -/
def marchStartOp (memid : Nat) (preserve : Bool) (req : Requester) (s : State) : State :=
  let s := (s.set R.MEM_MARCH_CTRL_MEMID memid).setB R.MEM_MARCH_CTRL_PRESERVE preserve
  if s.get R.MEM_MARCH_STAT_STATE = 1 || !marchAllowed memid preserve req s then s.conflict memBlk
  else
    let s := ((s.set R.MEM_MARCH_STAT_STATE 1).set R.MEM_MARCH_STAT_ROWS_REPAIRED 0).setB R.MEM_MARCH_STAT_NO_SPARE false
    let s := if 0x20 ≤ memid && memid < 0x22 then
      s.set (R.CLAIM_OWNER (capBlk (memid - 0x20))) (Requester.code req) else s
    { s with store := { s.store with marchId := memid, marchKeep := preserve, marchStop := false } }

/-- MARCH_ABORT: the march ends at the next row (R422). -/
def marchAbortOp (s : State) : State :=
  if s.get R.MEM_MARCH_STAT_STATE = 1 then { s with store := { s.store with marchStop := true } } else s

/-- What a march leaves in its memory: saved words with fresh check bits, up to a row that is not known where a preserving
march was cut short; a cleared memory; or, where a destructive march was cut short, nothing that the spec gives (R416,
R422). -/
def marchContents (memid : Nat) (keep stop : Bool) (s : State) : State :=
  let lo := scratchBase + 0x40000 * memid
  if keep then eccFresh memid 0 (if stop then 128 * (s.free 8 + 1) else memWords memid) s.draw
  else if memid < 4 then
    let s := eccFresh memid 0 (memWords memid) s
    if stop then
      s.draw.putBytes lo ((List.range 0x40000).map fun i => (Config.freeByte memid i s.freeCount).toNat)
    else s.clearBytes lo 0x40000
  else if 0x20 ≤ memid && memid < 0x22 then
    let c := memid - 0x20
    let s := if stop then capScramble c s
      else capPatch c 0 capSize (some 0) [] (s.putCap c { s.cap c with patches := [] })
    s.set (R.CLAIM_OWNER (capBlk c)) 0
  else
    let s := eccFresh memid 0 (memWords memid) s
    if stop then memoriesUse memid s else memoriesClear memid s

/-- MARCH_DONE: the march ends; `words` are the words with what it read of them, where that is not what it expects, those
of spare rows after the memory's own (R420, R422, R423). -/
def marchDoneOp (words : List (Nat × List Nat)) (s : State) : State :=
  if s.get R.MEM_MARCH_STAT_STATE = 1 then
    let m := s.store.marchId
    let s := marchContents m s.store.marchKeep s.store.marchStop s
    let s := rowsRepair m words s
    let s := s.set R.MEM_MARCH_STAT_STATE
      (if s.store.marchStop then 4 else if s.getB R.MEM_MARCH_STAT_NO_SPARE then 3 else 2)
    s.irq memBlk 2
  else s

/-- TST_CFG_WRITE: LBIST_BOOT is the boot record's flag, and ONCE outlives COLD with it (R432). -/
def tstCfgWriteOp (boot once : Bool) (s : State) : State :=
  let s := (s.setB R.TST_CFG_LBIST_BOOT boot).setB R.TST_CFG_ONCE once
  bootPut { s.store.boot with lbist := boot, once := once } s

/-! ### Meanings -/

/-- SCRUB_READ (R419). -/
def execScrubRead (memid : Byte) (word : Nat) (cls : Fin 4) (s : State) : Host.Outcome State Fault Refusal :=
  done (scrubReadOp memid.toNat word cls.val s)

/-- SCRATCH_BIT_SET (R418). -/
def execScratchBitSet (x : BitVec 20) (v : Word) (s : State) : Host.Outcome State Fault Refusal :=
  done (scratchBitSetOp x.toNat v.toNat s)

/-- SCRATCH_BIT_CLEAR (R418). -/
def execScratchBitClear (x : BitVec 20) (v : Word) (s : State) : Host.Outcome State Fault Refusal :=
  done (scratchBitClearOp x.toNat v.toNat s)

/-- MARCH_START (R422). -/
def execMarchStart (memid : Byte) (preserve : Bool) (req : Requester)
    (s : State) : Host.Outcome State Fault Refusal :=
  done (marchStartOp memid.toNat preserve req s)

/-- MARCH_ABORT (R422). -/
def execMarchAbort (s : State) : Host.Outcome State Fault Refusal :=
  done (marchAbortOp s)

/-- MARCH_DONE (R422). -/
def execMarchDone (words : List (Nat × List Nat)) (s : State) : Host.Outcome State Fault Refusal :=
  done (marchDoneOp words s)

/-- ECC_INJECT (R432). -/
def execEccInject (word : BitVec 17) (mode : BitVec 2) (s : State) : Host.Outcome State Fault Refusal :=
  done (eccInjectOp word.toNat mode.toNat s)

/-- TST_CFG_WRITE (R432). -/
def execTstCfgWrite (boot once : Bool) (s : State) : Host.Outcome State Fault Refusal :=
  done (tstCfgWriteOp boot once s)

end Sys2Proof.Machine
end

