-- ==== Sys2Proof/Machine/Security.lean ====
section
/-!
DEFINITION. Security: SEC commands, owner sessions, ownership, debug and RMA tokens, tamper detection and the Faost peer
handshake (R459 to R488).
-/

namespace Sys2Proof.Machine

open Sys2Proof

/-! ### The command buffer and keys -/

/-- The bytes that spell an ASCII string. -/
def ascii (x : String) : List Nat := x.toList.map (·.toNat)

/-- Byte i of SEC_BUF, byte 4w at [31:24] of word w (R279, R471). -/
def bufByte (s : State) (i : Nat) : Nat := bits (s.get (R.SEC_BUF_DATA (i / 4))) (24 - 8 * (i % 4)) 8

/-- `n` bytes of SEC_BUF from byte `a` on. -/
def bufBytes (s : State) (a n : Nat) : List Nat := (List.range n).map fun i => bufByte s (a + i)

/-- Whole words of bytes are placed in SEC_BUF from word `w` on. -/
def bufPut (w : Nat) (bs : List Nat) (s : State) : State :=
  (List.range (bs.length / 4)).foldl (fun s i => s.set (R.SEC_BUF_DATA (w + i)) (ofBytesBE ((bs.drop (4 * i)).take 4))) s

/-- SHA-384 of bytes as a number (R464). -/
def sha (bs : List Nat) : Nat := sha384 bs

/-- SEC_ID_HASH as its 48 bytes (R462). -/
def State.idBytes (s : State) : List Nat := toBytesBE 48 s.idHash

/-- The owner key in use (R461). -/
def State.ownerKey (s : State) : Option Nat := s.fuses.ownerSlot.bind fun n => s.fuses.owners[n]?

/-- Random bits are drawn. -/
def State.random (s : State) (w : Nat) : Nat := (Config.trng s.freeCount w).toNat

/-! ### SEC commands (R471 to R483, R487) -/

/-- A SEC command is written: it starts, unless one is in progress (R487). -/
def secStart (op : Nat) (owner : Bool) (s : State) : State :=
  if s.get R.SEC_CMD_STAT_STATE = 1 then s.conflict secBlk
  else { s.set R.SEC_CMD_STAT_STATE 1 with sec := { s.sec with op := op, owner := owner } }

/-- The command in progress ends with a result (R487, R488). -/
def secEnd (result : Nat) (s : State) : State :=
  let s := { s with sec := { s.sec with op := 0, owner := false } }
  ((s.set R.SEC_CMD_STAT_STATE 2).set R.SEC_CMD_STAT_RESULT result).irq secBlk 0

/-- NONCE: a fresh nonce at bytes 0 to 31 of SEC_BUF (R475). -/
def nonceRun (s : State) : State :=
  if s.getB R.SEC_STAT_TRNG_FAIL then secEnd 5 s
  else
    let n := s.random 256
    secEnd 0 (bufPut 0 (toBytesBE 32 n) { s.draw with sec := { s.sec with nonce := some n } })

/-- OWN_BEGIN: a nonce and an ephemeral public key in SEC_BUF (R471, R472). -/
def ownBeginRun (s : State) : State :=
  if s.fuses.life != 2 then secEnd 1 s
  else if s.sec.backoff then secEnd 6 s
  else if s.getB R.SEC_STAT_TRNG_FAIL then secEnd 5 s
  else
    let n := s.random 384
    let priv := s.draw.random 384
    let s := { s.draw.draw with sec := { s.sec with begun := some (n, priv) } }
    secEnd 0 (bufPut 12 (toBytesBE 96 (publicKey priv)) (bufPut 0 (toBytesBE 48 n) s))

/-- An owner session is UP: it replaces the one before (R471 to R473). -/
def ownUp (n priv : Nat) (s : State) : State :=
  let s := ownEnd 8 s
  let z := ecdh priv (ofBytesBE (bufBytes s 0 96))
  let s := { s with sec := { s.sec with
    key := hkdf (toBytesBE 48 z) (toBytesBE 48 n) (ascii "LN3280 owner write") 32, fails := 0, backoff := false } }
  secEvent 0x13 0 (((s.setB R.SEC_STAT_OWN_SESSION true).set R.MGT_OWNER_CTR_COUNT 1).irq secBlk 1)

/-- An OWN_FINISH whose signature does not verify (R472). -/
def ownFail (s : State) : State :=
  let n := s.sec.fails + 1
  let s := { s with sec := { s.sec with fails := n, backoff := s.sec.backoff || 4 ≤ n } }
  secEvent 0x15 n (s.satInc R.SEC_FAIL_OWN 1)

/-- OWN_FINISH (R471, R472). -/
def ownFinishRun (s : State) : State :=
  match s.sec.begun, s.ownerKey with
  | some (n, priv), some key =>
    if s.fuses.life != 2 then secEnd 1 s
    else
      let s := { s with sec := { s.sec with begun := none } }
      let msg := ascii "LN3280-OWN" ++ s.idBytes ++ toBytesBE 48 n ++ toBytesBE 96 (publicKey priv)
        ++ bufBytes s 0 96
      if ecdsaVerify key (sha msg) (ofBytesBE (bufBytes s 96 96)) then secEnd 0 (ownUp n priv s)
      else secEnd 3 (ownFail s)
  | _, _ => secEnd 1 s

/-- OWN_END (R473). -/
def ownEndRun (s : State) : State := if s.sec.owner then secEnd 0 (ownEnd 1 s) else secEnd 2 s

/-- The next owner slot is programmed; TAKE_OWNERSHIP changes the lifecycle, TRANSFER revokes the slot before and ends
the session (R475). -/
def ownerProgram (take : Bool) (s : State) : State :=
  let slot := s.fuses.owners.length
  let old := s.fuses.ownerSlot
  let f := { s.fuses with owners := s.fuses.owners ++ [ofBytesBE (bufBytes s 0 96)], life := 2 }
  let f := match take, old with
    | false, some n => { f with revoked := orBits 4 f.revoked (2 ^ n) }
    | _, _ => f
  let s := secEvent 0x16 slot (storePut { s with fuses := f })
  commitTrigger 4 (if take then secEvent 0x1C 2 s else ownEnd 7 s)

/-- TAKE_OWNERSHIP and TRANSFER (R475). -/
def ownershipRun (take : Bool) (s : State) : State :=
  if !take && !s.sec.owner then secEnd 2 s
  else if s.fuses.life != (if take then 1 else 2) then secEnd 1 s
  else match s.sec.nonce with
    | none => secEnd 1 s
    | some n =>
      let s := { s with sec := { s.sec with nonce := none } }
      let msg := ascii "LN3280-TAKE" ++ s.idBytes ++ toBytesBE 32 n
      if !ecdsaVerify (ofBytesBE (bufBytes s 0 96)) (sha msg) (ofBytesBE (bufBytes s 96 96)) then secEnd 3 s
      else if 4 ≤ s.fuses.owners.length then secEnd 4 s
      else secEnd 0 (ownerProgram take s)

/-- Whether the token in SEC_BUF is one of a kind for this device and nonce, signed by the vendor root key (R481,
R482). -/
def tokenGood (kind n : Nat) (s : State) : Bool :=
  ofBytesBE (bufBytes s 0 4) == 0x4C4E544B && ofBytesBE (bufBytes s 4 4) == kind
    && ofBytesBE (bufBytes s 8 4) == 0x3280 && bufBytes s 0x20 48 == s.idBytes
    && ofBytesBE (bufBytes s 0x50 32) == n
    && ecdsaVerify Config.rootKey.toNat (sha (bufBytes s 0 0x70)) (ofBytesBE (bufBytes s 0x70 96))

/-- The scopes that the token in SEC_BUF names (R481). -/
def tokenScope (s : State) : Nat := ofBytesBE (bufBytes s 12 4)

/-- Every peer session ends (R480, R482). -/
def peersEnd (s : State) : State := (List.range 8).foldl (fun s l => sessionEnd l s) s

/-- An accepted debug token (R482). -/
def debugUnlocked (s : State) : State :=
  let scope := tokenScope s
  commitTrigger 4 (secEvent 0x1A scope (peersEnd (ownEnd 4 (debugOpen scope s))))

/-- The security store once it is erased: what its anti-rollback counters read is not given (R463, R483; log entry 165).
-/
def storeErased (s : State) : SecStore :=
  { seq := 0, fwSvn := s.free 16, profileSvn := s.draw.free 16, chain1 := [] }

/-- An accepted RMA token: the state is fused, both copies of the security store are erased, every debug scope opened
(R483). -/
def rmaDone (s : State) : State :=
  let x := storeErased s
  let f := { s.fuses with
    life := 3, identity := false, chain1 := [], fwSvn := x.fwSvn, profileSvn := x.profileSvn }
  let s := { s.draw.draw with
    fuses := f
    store := { s.store with
      kept := { s.store.kept with store := x }
      slot := s.store.slot.filter (·.writer != 2), jobs := s.store.jobs.filter (·.writer != 2) } }
  commitTrigger 4 (secEvent 0x1C 3 (peersEnd (ownEnd 5 (debugOpen 3 s))))

/-- DEBUG_UNLOCK and RMA: the token is checked, and uses up the nonce (R482, R483). -/
def tokenRun (kind : Nat) (accept : State → State) (s : State) : State :=
  match s.sec.nonce with
  | none => secEnd 1 s
  | some n =>
    let s := { s with sec := { s.sec with nonce := none } }
    if tokenGood kind n s then secEnd 0 (accept s) else secEnd 3 (secEvent 0x1B (tokenScope s) s)

/-- DEBUG_UNLOCK (R459, R481, R482). -/
def debugUnlockRun (s : State) : State :=
  if s.fuses.life != 1 && s.fuses.life != 2 then secEnd 1 s else tokenRun 3 debugUnlocked s

/-- RMA: in OWNED it needs the owner session too (R459, R483). -/
def rmaRun (s : State) : State :=
  if s.fuses.life = 2 && !s.sec.owner then secEnd 2 s
  else if s.fuses.life != 1 && s.fuses.life != 2 then secEnd 1 s
  else tokenRun 4 rmaDone s

/-- Granary is erased but for the repair records: nothing is listed there any more, and what the erased areas tell is
not given (R483). -/
def granaryErase (s : State) : State :=
  let boot : BootRecord := { bank := s.free 1, lbist := s.free 1 == 1, once := s.free 1 == 1 }
  let epoch : EpochRecord := { epoch := s.free 4, start := s.free 48, ends := [], aging := toInt 32 (s.free 32) }
  let store := storeErased s
  let kept := { s.store.kept with
    boot := boot, epoch := epoch, store := store, used := 0, signed := 0
    lastSlot := s.free 3, lastTrig := s.free 8, seq := s.free 32 }
  { s.draw.draw with
    mem := s.mem.filter fun e => decide (e.1 < granaryBase) || inRepairs e.1
    calDev := { s.calDev with saved := none, delay := some false }
    tim := { s.tim with osc := epoch }
    fuses := { s.fuses with fwSvn := store.fwSvn, profileSvn := store.profileSvn, chain1 := [] }
    store := { s.store with
      kept := kept
      boot := boot
      slot := none
      jobs := []
      ecc := s.store.ecc.filter fun e => decide (8 * e.1 < granaryBase) || inRepairs (8 * e.1) || decide (2 ^ 32 ≤ e.1) } }

/-- DECOMMISSIONED: the key-encryption key is revoked, Granary erased, debug closed, and management-only service
remains, whose cause code the spec does not give (R483). -/
def decommissioned (s : State) : State :=
  let s := peersEnd (ownEnd 6 (debugClose s))
  let s := granaryErase { s with fuses := { s.fuses with life := 4, identity := false, kek := false } }
  mgmtOnly false (s.free 4) (commitTrigger 4 (secEvent 0x1C 4 s.draw))

/-- DECOMMISSION (R459, R483). -/
def decommissionRun (s : State) : State :=
  if s.fuses.life = 2 && !s.sec.owner then secEnd 2 s
  else if s.fuses.life = 0 || s.fuses.life = 4 then secEnd 1 s
  else if bufBytes s 0 4 != [0x44, 0x45, 0x43, 0x4D] then secEnd 3 s
  else secEnd 0 (decommissioned s)

/-- NONCE (R475). -/
def nonceOp (owner : Bool) (s : State) : State := secStart 1 owner s

/-- OWN_BEGIN (R471). -/
def ownBeginOp (owner : Bool) (s : State) : State := secStart 2 owner s

/-- OWN_FINISH (R471). -/
def ownFinishOp (owner : Bool) (s : State) : State := secStart 3 owner s

/-- OWN_END (R473). -/
def ownEndOp (owner : Bool) (s : State) : State := secStart 4 owner s

/-- TAKE_OWNERSHIP (R475). -/
def takeOwnershipOp (owner : Bool) (s : State) : State := secStart 5 owner s

/-- TRANSFER (R475). -/
def transferOp (owner : Bool) (s : State) : State := secStart 6 owner s

/-- DEBUG_UNLOCK (R482). -/
def debugUnlockOp (owner : Bool) (s : State) : State := secStart 7 owner s

/-- RMA (R483). -/
def rmaOp (owner : Bool) (s : State) : State := secStart 8 owner s

/-- DECOMMISSION (R483). -/
def decommissionOp (owner : Bool) (s : State) : State := secStart 9 owner s

/-- LOCKDOWN: written by WRITE_OWNER it acts at once; by a plain WRITE it ends with NEED_OWNER (R484, R485, R487). -/
def lockdownOp (owner : Bool) (s : State) : State :=
  if s.get R.SEC_CMD_STAT_STATE = 1 then s.conflict secBlk
  else if s.getB R.SEC_STAT_LOCKDOWN then secEnd 1 s
  else if owner then secEnd 0 (lockdown 5 s)
  else secEnd 2 s

/-- SEC_CMD_DONE: the command in progress does its work and ends; after lockdown it returns BAD_STATE (R485, R487). -/
def secCmdDoneOp (s : State) : State :=
  if s.get R.SEC_CMD_STAT_STATE != 1 then s
  else if s.getB R.SEC_STAT_LOCKDOWN then secEnd 1 s
  else match s.sec.op with
    | 1 => nonceRun s
    | 2 => ownBeginRun s
    | 3 => ownFinishRun s
    | 4 => ownEndRun s
    | 5 => ownershipRun true s
    | 6 => ownershipRun false s
    | 7 => debugUnlockRun s
    | 8 => rmaRun s
    | _ => decommissionRun s

/-- OWN_IDLE_TIMEOUT: IDLE minutes have passed without an accepted WRITE_OWNER (R473). -/
def ownIdleTimeoutOp (s : State) : State := if s.get R.SEC_OWN_CFG_IDLE = 0 then s else ownEnd 2 s

/-- OWN_BACKOFF_EXPIRY (R472). -/
def ownBackoffExpiryOp (s : State) : State := { s with sec := { s.sec with backoff := false } }

/-- TRNG_FAIL: three consecutive output blocks have failed (R465). -/
def trngFailOp (s : State) : State :=
  if s.getB R.SEC_STAT_TRNG_FAIL || s.inReset secBlk then s
  else secEvent 0x1F 0 ((s.setB R.SEC_STAT_TRNG_FAIL true).irq secBlk 6)

/-- TAMPER: a cause of R484 is detected: 1 SHIELD, 2 GLITCH_V, 3 GLITCH_CLK, 4 KEY_INTEGRITY. -/
def tamperOp (cause : Nat) (s : State) : State :=
  if cause = 0 || 4 < cause || s.inReset secBlk then s
  else if (cause = 2 && !s.getB R.SEC_TAMPER_CFG_GLITCH_V) || (cause = 3 && !s.getB R.SEC_TAMPER_CFG_GLITCH_CLK) then
    secEvent 0x1D cause (s.irq secBlk 4)
  else lockdown cause s

/-! ### The Faost peer handshake (R476 to R480) -/

/-- Whether the device holds peer sessions (R459, R485). -/
def State.peersAllowed (s : State) : Bool :=
  (s.fuses.life == 1 || s.fuses.life == 2) && s.identityUsable && !s.getB R.SEC_STAT_LOCKDOWN && s.blkOn msgBlk

/-- A payload padded to whole cells (R276). -/
def padCells (bs : List Nat) : List Nat := bs ++ List.replicate ((32 - bs.length % 32) % 32) 0

/-- SEC sends a handshake message on a lane's bond (R476). -/
def peerSend (l type : Nat) (payload : List Nat) (s : State) : State :=
  outPut l { type := type, auth := false, payload := padCells payload, remote := false } s

/-- A handshake fails on the lead lane k: both sides return to NONE, and a manager lane with AUTO retries after 1 s
(R479). -/
def peerFail (k code : Nat) (s : State) : State :=
  let s := (s.set (R.MSG_LANE_STAT_SESSION k) 0).putSession k
    { PeerSession.reset with retry := s.getB (R.MSG_LANE_CFG_ROLE k) && s.getB (R.SEC_PEER_CFG_AUTO k) }
  let s := (s.satInc (R.SEC_PEER_STAT_FAIL k) 1).set (R.SEC_PEER_STAT_LAST_ALERT k) code
  (s.irq secBlk 3).event secBlk 0 8 (0x19 + 256 * k + 65536 * code)

/-- The failing side sends ALERT with a code (R476, R479). -/
def peerAlert (k code : Nat) (s : State) : State := peerFail k code (peerSend k 12 [code] s)

/-- The payload of HELLO or HELLO_REPLY (R476). -/
def helloPayload (s : State) (nonce pub : Nat) : List Nat :=
  let owned := s.fuses.life == 2 && s.ownerKey.isSome
  padCells ([1, s.fuses.life + 8 * b2n owned] ++ toBytesBE 2 Config.identityChain.length ++ toBytesBE 32 nonce
    ++ toBytesBE 96 pub ++ (if owned then toBytesBE 48 (sha (toBytesBE 96 (s.ownerKey.getD 0))) else List.replicate 48 0)
    ++ [0, 0, 0, 0])

/-- The CERT payloads of the device's chain, 508 bytes at most each (R476). -/
def certPayloads : List (List Nat) :=
  (List.range ((Config.identityChain.length + 507) / 508)).map fun i =>
    let piece := (Config.identityChain.drop (508 * i)).take 508
    padCells (toBytesBE 2 (508 * i) ++ toBytesBE 2 piece.length ++ piece)

/-- SEC sends its HELLO or HELLO_REPLY and its CERTs, which join the transcript (R477). -/
def helloSend (k type step : Nat) (s : State) : State :=
  let priv := s.random 384
  let nonce := s.draw.random 256
  let hello := helloPayload s nonce (publicKey priv)
  let s := certPayloads.foldl (fun s c => peerSend k 10 c s) (peerSend k type hello s.draw.draw)
  let p := s.session k
  s.putSession k { p with
    priv := priv, step := step, transcript := p.transcript ++ hello ++ certPayloads.flatten
    hello := if type = 8 then hello else p.hello, reply := if type = 8 then p.reply else hello }

/-- A manager's handshake starts (R477). -/
def peerStart (k : Nat) (s : State) : State :=
  let s := (s.putSession k PeerSession.reset).set (R.MSG_LANE_STAT_SESSION k) 1
  if s.getB R.SEC_STAT_TRNG_FAIL then peerAlert k 6 s else helloSend k 8 1 s

/-- A manager lane with AUTO and LINK_UP and without a session starts a handshake (R479). -/
def autoStart (k : Nat) (s : State) : State :=
  if s.getB (R.SEC_PEER_CFG_AUTO k) && s.getB (R.MSG_LANE_CFG_ROLE k) && s.getB (R.MSG_LANE_STAT_LINK_UP k)
      && s.get (R.MSG_LANE_STAT_SESSION k) == 0 && !(s.session k).retry && s.lead k == k && s.peersAllowed then
    peerStart k s
  else s

/-- FAOST_HEADER: header bytes 1 to 3 of a received superframe (R272, R479). -/
def faostHeaderOp (l b1 b2 b3 : Nat) (s : State) : State :=
  let s := headerIn l b1 b2 b3 s
  autoStart (s.lead l) s

/-- Whether the peer's HELLO or HELLO_REPLY meets the version, its lifecycle and OWNER_MATCH (R476, R478). -/
def helloAllowed (k : Nat) (p : List Nat) (s : State) : Bool :=
  let life := p.getD 1 0 % 8
  let owned := bitAt (p.getD 1 0) 3 == 1
  p.getD 0 0 == 1 && life != 3 &&
    (!s.getB (R.SEC_PEER_CFG_OWNER_MATCH k) ||
      (life == 2 && owned && s.ownerKey.any fun key => (p.drop 132).take 48 == toBytesBE 48 (sha (toBytesBE 96 key))))

/-- The peer's HELLO or HELLO_REPLY joins the handshake (R477). -/
def helloTake (k step : Nat) (p : List Nat) (s : State) : State :=
  let x := s.session k
  s.putSession k { x with
    step := step, transcript := x.transcript ++ p, chain := [], chainLen := ofBytesBE ((p.drop 2).take 2)
    hello := if step = 3 then p else x.hello, reply := if step = 3 then x.reply else p }

/-- HELLO: a worker starts its side; a session that is UP ends first; a lane whose roles are not opposite refuses (R291,
R479, R480). -/
def helloOp (l : Nat) (s : State) : State :=
  match takeMessage l (· == 8) s with
  | none => s
  | some (m, s) =>
    let k := s.lead l
    if !s.peersAllowed then s
    else
      let s := ((sessionEnd k s).set (R.MSG_LANE_STAT_SESSION k) 1)
      if s.getB (R.MSG_LANE_CFG_ROLE k) || !s.getB (R.MSG_LANE_STAT_PEER_ROLE k) then peerAlert k 5 s
      else if helloAllowed k m.payload s then helloTake k 3 m.payload s
      else peerAlert k 3 s

/-- HELLO_REPLY: the manager's side continues (R477). -/
def helloReplyOp (l : Nat) (s : State) : State :=
  match takeMessage l (· == 9) s with
  | none => s
  | some (m, s) =>
    let k := s.lead l
    if (s.session k).step != 1 then s
    else if helloAllowed k m.payload s then helloTake k 2 m.payload s
    else peerAlert k 3 s

/-- TH of R477: the digest of every HELLO, HELLO_REPLY and CERT. -/
def PeerSession.th (p : PeerSession) : List Nat := toBytesBE 48 (sha p.transcript)

/-- What FINISH of the manager or of the worker signs (R477). -/
def PeerSession.finDigest (p : PeerSession) (manager : Bool) : Nat :=
  sha (ascii (if manager then "Faost-FIN-M" else "Faost-FIN-W") ++ p.th)

/-- SEC sends its FINISH (R477). -/
def finishSend (k : Nat) (manager : Bool) (s : State) : State :=
  let sig := ecdsaSign Config.identityKey.toNat ((s.session k).finDigest manager) (s.random 384)
  peerSend k 11 (toBytesBE 96 sig) s.draw

/-- The whole chain of the peer is there: it is checked, and the side's next messages go (R477, R478). -/
def chainDone (k : Nat) (s : State) : State :=
  let p := s.session k
  match chainKey Config.rootKey.toNat p.chain with
  | none => peerAlert k 1 s
  | some leaf =>
    if s.getB R.SEC_STAT_TRNG_FAIL then peerAlert k 6 s
    else
      let s := s.putSession k { p with leaf := leaf }
      if p.step = 3 then helloSend k 9 4 s
      else
        let s := finishSend k true s
        s.putSession k { s.session k with step := 5 }

/-- CERT: a piece of the peer's chain (R476, R478). -/
def certOp (l : Nat) (s : State) : State :=
  match takeMessage l (· == 10) s with
  | none => s
  | some (m, s) =>
    let k := s.lead l
    let p := s.session k
    let n := ofBytesBE ((m.payload.drop 2).take 2)
    if p.step != 2 && p.step != 3 then s
    else if ofBytesBE (m.payload.take 2) != p.chain.length || 508 < n || n = 0 || p.chainLen < p.chain.length + n
        || 2048 < p.chainLen || m.payload.length < 4 + n then peerAlert k 1 s
    else
      let p := { p with chain := p.chain ++ (m.payload.drop 4).take n, transcript := p.transcript ++ m.payload }
      let s := s.putSession k p
      if p.chain.length = p.chainLen then chainDone k s else s

/-- A session is UP: its keys are derived and its counters start (R277, R477). -/
def peerUp (k : Nat) (manager : Bool) (s : State) : State :=
  let p := s.session k
  let z := toBytesBE 48 (ecdh p.priv (ofBytesBE (((if manager then p.reply else p.hello).drop 36).take 96)))
  let salt := (p.hello.drop 4).take 32 ++ (p.reply.drop 4).take 32
  let down := hkdf z salt (ascii "Faost M2W" ++ p.th) 32
  let up := hkdf z salt (ascii "Faost W2M" ++ p.th) 32
  let s := s.putSession k { PeerSession.reset with
    keyOut := if manager then down else up, keyIn := if manager then up else down }
  ((s.set (R.MSG_LANE_STAT_SESSION k) 2).irq secBlk 2).event secBlk 0 8 (0x17 + 256 * k)

/-- FINISH: its signature is verified; the worker answers with its own and is UP, the manager is UP (R477). -/
def finishOp (l : Nat) (s : State) : State :=
  match takeMessage l (· == 11) s with
  | none => s
  | some (m, s) =>
    let k := s.lead l
    let p := s.session k
    if p.step != 4 && p.step != 5 then s
    else if !ecdsaVerify p.leaf (p.finDigest (p.step == 4)) (ofBytesBE (m.payload.take 96)) then peerAlert k 2 s
    else if p.step = 5 then peerUp k true s
    else if s.getB R.SEC_STAT_TRNG_FAIL then peerAlert k 6 s
    else peerUp k false (finishSend k false s)

/-- ALERT: a handshake fails, a session ends (R479, R480). -/
def alertOp (l : Nat) (s : State) : State :=
  match takeMessage l (· == 12) s with
  | none => s
  | some (m, s) =>
    let k := s.lead l
    let code := m.payload.getD 0 0
    if s.get (R.MSG_LANE_STAT_SESSION k) = 1 then peerFail k (code % 8) s
    else
      let s := s.set (R.SEC_PEER_STAT_LAST_ALERT k) code
      if s.get (R.MSG_LANE_STAT_SESSION k) = 2 then autoStart k (sessionEnd k s) else s

/-- CLOSE, which must be authenticated: the session ends (R476, R480). -/
def closeOp (l : Nat) (s : State) : State :=
  match takeMessage l (· == 13) s with
  | none => s
  | some (m, s) =>
    let k := s.lead l
    if m.auth && s.get (R.MSG_LANE_STAT_SESSION k) == 2 then autoStart k (sessionEnd k s) else s

/-- PEER_HANDSHAKE_TIMEOUT: a handshake is not UP within TMO × 10 ms (R479). -/
def peerHandshakeTimeoutOp (l : Nat) (s : State) : State :=
  if s.get (R.MSG_LANE_STAT_SESSION l) = 1 then peerAlert l 4 s else s

/-- PEER_HANDSHAKE_RETRY: 1 s after a failure (R479). -/
def peerHandshakeRetryOp (l : Nat) (s : State) : State :=
  if (s.session l).retry then autoStart l (s.putSession l { s.session l with retry := false }) else s

/-! ### Meanings -/

/-- FAOST_HEADER (R272). -/
def execFaostHeader (l : Lane) (b1 b2 b3 : Byte) (s : State) : Host.Outcome State Fault Refusal :=
  done (faostHeaderOp l.val b1.toNat b2.toNat b3.toNat s)

/-- HELLO (R477). -/
def execHello (l : Lane) (s : State) : Host.Outcome State Fault Refusal :=
  done (helloOp l.val s)

/-- HELLO_REPLY (R477). -/
def execHelloReply (l : Lane) (s : State) : Host.Outcome State Fault Refusal :=
  done (helloReplyOp l.val s)

/-- CERT (R478). -/
def execCert (l : Lane) (s : State) : Host.Outcome State Fault Refusal :=
  done (certOp l.val s)

/-- FINISH (R477). -/
def execFinish (l : Lane) (s : State) : Host.Outcome State Fault Refusal :=
  done (finishOp l.val s)

/-- ALERT (R479). -/
def execAlert (l : Lane) (s : State) : Host.Outcome State Fault Refusal :=
  done (alertOp l.val s)

/-- CLOSE (R480). -/
def execClose (l : Lane) (s : State) : Host.Outcome State Fault Refusal :=
  done (closeOp l.val s)

/-- NONCE (R475). -/
def execNonce (owner : Bool) (s : State) : Host.Outcome State Fault Refusal :=
  done (nonceOp owner s)

/-- OWN_BEGIN (R471). -/
def execOwnBegin (owner : Bool) (s : State) : Host.Outcome State Fault Refusal :=
  done (ownBeginOp owner s)

/-- OWN_FINISH (R471). -/
def execOwnFinish (owner : Bool) (s : State) : Host.Outcome State Fault Refusal :=
  done (ownFinishOp owner s)

/-- OWN_END (R473). -/
def execOwnEnd (owner : Bool) (s : State) : Host.Outcome State Fault Refusal :=
  done (ownEndOp owner s)

/-- TAKE_OWNERSHIP (R475). -/
def execTakeOwnership (owner : Bool) (s : State) : Host.Outcome State Fault Refusal :=
  done (takeOwnershipOp owner s)

/-- TRANSFER (R475). -/
def execTransfer (owner : Bool) (s : State) : Host.Outcome State Fault Refusal :=
  done (transferOp owner s)

/-- DEBUG_UNLOCK (R482). -/
def execDebugUnlock (owner : Bool) (s : State) : Host.Outcome State Fault Refusal :=
  done (debugUnlockOp owner s)

/-- RMA (R483). -/
def execRma (owner : Bool) (s : State) : Host.Outcome State Fault Refusal :=
  done (rmaOp owner s)

/-- DECOMMISSION (R483). -/
def execDecommission (owner : Bool) (s : State) : Host.Outcome State Fault Refusal :=
  done (decommissionOp owner s)

/-- LOCKDOWN (R485). -/
def execLockdown (owner : Bool) (s : State) : Host.Outcome State Fault Refusal :=
  done (lockdownOp owner s)

/-- SEC_CMD_DONE (R487). -/
def execSecCmdDone (s : State) : Host.Outcome State Fault Refusal :=
  done (secCmdDoneOp s)

/-- OWN_IDLE_TIMEOUT (R473). -/
def execOwnIdleTimeout (s : State) : Host.Outcome State Fault Refusal :=
  done (ownIdleTimeoutOp s)

/-- OWN_BACKOFF_EXPIRY (R472). -/
def execOwnBackoffExpiry (s : State) : Host.Outcome State Fault Refusal :=
  done (ownBackoffExpiryOp s)

/-- TRNG_FAIL (R465). -/
def execTrngFail (s : State) : Host.Outcome State Fault Refusal :=
  done (trngFailOp s)

/-- TAMPER (R484). -/
def execTamper (cause : Fin 5) (s : State) : Host.Outcome State Fault Refusal :=
  done (tamperOp cause.val s)

/-- PEER_HANDSHAKE_TIMEOUT (R479). -/
def execPeerHandshakeTimeout (l : Lane) (s : State) : Host.Outcome State Fault Refusal :=
  done (peerHandshakeTimeoutOp l.val s)

/-- PEER_HANDSHAKE_RETRY (R479). -/
def execPeerHandshakeRetry (l : Lane) (s : State) : Host.Outcome State Fault Refusal :=
  done (peerHandshakeRetryOp l.val s)

end Sys2Proof.Machine
end

