-- ==== Sys2Proof/Machine/Control.lean ====
section
/-!
DEFINITION. What the header and the MGT, IRQ, PIN and FWC registers command: starting and stopping blocks, the expert
unlock, claims, interrupts, GPIO pins and the mailbox slots (R335 to R337, R349 to R356).
-/

namespace Sys2Proof.Machine

open Sys2Proof

def mgtBlk : Blk := dev .mgt
def fwcBlk : Blk := dev .fwc
def irqBlk : Blk := dev .irq
def pinBlk : Blk := dev .pin

/-! ### Starting and stopping a block (R336) -/

/-- Whether a write of EN moves the block: it is neither FENCED nor FAILED, not in reset, and started. -/
def State.enActs (s : State) (b : Blk) : Bool := !s.fenced b && !s.failed b && !s.inReset b && s.started b

/-- BLOCK_ENABLE: EN = 1 is written. -/
def blockEnableOp (b : Blk) (s : State) : State :=
  if !b.kind.enWritable then s
  else
    let s := s.setB (R.BLK_CTRL_EN b) true
    if !s.enActs b then s
    else if s.get (R.BLK_STAT_STATE b) = 0 then s.set (R.BLK_STAT_STATE b) 1
    else if s.get (R.BLK_STAT_STATE b) = 3 then s.setB (R.BLK_STAT_RESTART_PENDING b) true
    else s

/-- BLOCK_DISABLE: EN = 0 is written; the Gleaner ends its runs (R231). -/
def blockDisableOp (b : Blk) (s : State) : State :=
  if !b.kind.enWritable then s
  else
    let s := s.setB (R.BLK_CTRL_EN b) false
    if !s.enActs b then s
    else
      let s := s.setB (R.BLK_STAT_RESTART_PENDING b) false
      if s.get (R.BLK_STAT_STATE b) = 1 || s.get (R.BLK_STAT_STATE b) = 2 then
        let s := s.set (R.BLK_STAT_STATE b) 3
        if b.kind = .cal then calStop s else s
      else s

/-- BLOCK_START_DONE: STARTING ends; a periodic alarm takes up its grid when TIM is ON, and the Gleaner's items start
when CAL is (R231, R266). -/
def blockStartDoneOp (b : Blk) (s : State) : State :=
  if b.kind.enWritable && s.get (R.BLK_STAT_STATE b) = 1 then
    let s := s.set (R.BLK_STAT_STATE b) 2
    if b.kind = .tim then alarmsSkipped s else if b.kind = .cal then calResume s else s
  else s

/-- BLOCK_STOP_DONE: STOPPING ends; with RESTART_PENDING the block starts. Without TIM there is no fine time (R238). -/
def blockStopDoneOp (b : Blk) (s : State) : State :=
  if b.kind.enWritable && s.get (R.BLK_STAT_STATE b) = 3 then
    let s := if b.kind = .tim then s.setB R.TIM_STAT_FINE_READY false else s
    if s.getB (R.BLK_STAT_RESTART_PENDING b) then
      (s.setB (R.BLK_STAT_RESTART_PENDING b) false).set (R.BLK_STAT_STATE b) 1
    else s.set (R.BLK_STAT_STATE b) 0
  else s

/-! ### The expert unlock (R337, R338) -/

/-- EXPERT changes, with its Stub event; the Gleaner's items follow an LRX (R231, R338, R449). -/
def expertPut (b : Blk) (v req : Nat) (s : State) : State :=
  if s.get (R.BLK_CTRL_EXPERT b) = v then s
  else
    let s := (s.set (R.BLK_CTRL_EXPERT b) v).event b b.inst 0x0A (v + 4 * req)
    if b.kind = .lrx then calRefresh b.inst s else s

/-- EXPERT_ARM: key 0xA5; while UNLOCKED it does nothing but set CONFLICT. -/
def expertArmOp (b : Blk) (req : Requester) (s : State) : State :=
  if s.get (R.BLK_CTRL_EXPERT b) = 2 then s.conflict b
  else expertPut b 1 (Requester.code req) (s.set (R.BLK_ARM_BY b) (Requester.code req))

/-- EXPERT_UNLOCK: key 0x5A completes the arming of its own requester, and breaks that of another. -/
def expertUnlockOp (b : Blk) (req : Requester) (s : State) : State :=
  if s.get (R.BLK_CTRL_EXPERT b) = 1 then
    if s.get (R.BLK_ARM_BY b) = Requester.code req then expertPut b 2 (Requester.code req) s
    else expertPut b 0 (Requester.code req) (s.conflict b)
  else s.conflict b

/-- EXPERT_RELOCK: key 0xC3. -/
def expertRelockOp (b : Blk) (req : Requester) (s : State) : State := expertPut b 0 (Requester.code req) s

/-- EXPERT_ARM_TIMEOUT: 1 ms has passed since the arming. -/
def expertArmTimeoutOp (b : Blk) (s : State) : State :=
  if s.get (R.BLK_CTRL_EXPERT b) = 1 then expertPut b 0 (s.get (R.BLK_ARM_BY b)) s else s

/-- A write of BLK_CTRL with a key. -/
def expertKey (b : Blk) (req : Requester) (key : Nat) (s : State) : State :=
  if key = 0 then s
  else if key = 0xA5 then expertArmOp b req s
  else if key = 0x5A then expertUnlockOp b req s
  else if key = 0xC3 then expertRelockOp b req s
  else
    let s := s.conflict b
    if s.get (R.BLK_CTRL_EXPERT b) = 1 then expertPut b 0 (Requester.code req) s else s

/-! ### Interrupts (R352, R353) -/

/-- IRQ_FORCE: a 1 on an existing source acts as its event. -/
def irqForceOp (b : Blk) (v : Nat) (s : State) : State :=
  b.kind.sources.foldl (fun s n => if bitAt v n = 1 then s.irq b n else s) s

/-- A write of IRQ_PEND: a 1 clears IRQ_RAW (R352). -/
def irqClear (b : Blk) (v : Nat) (s : State) : State :=
  b.kind.sources.foldl (fun s n => if bitAt v n = 1 then s.setB (R.IRQ_RAW_RAW b n) false else s) s

/-- IRQ_ROUTE_WRITE: the route of the selected source; ALARM for a source that is not urgent is refused, a reserved
bit ignored (R353). -/
def irqRouteWriteOp (int alarm fwc : Bool) (s : State) : State :=
  let n := s.get R.IRQ_ROUTE_SEL_BIT
  match s.routeBlk with
  | none => s
  | some b =>
    if !sourceExists b n then s
    else if alarm && !sourceUrgent b n then s.conflict irqBlk
    else s.set (R.IRQ_ROUTES_ROUTE b.irq n) (8 + b2n int + 2 * b2n alarm + 4 * b2n fwc)

/-! ### GPIO pins (R349, R350, R356) -/

/-- The offset of PIN_GPIO_CFG_g. -/
def gpioOff (g : Nat) : Nat := 0x40 + 4 * g

/-- A pin returns to the free state: an input with its pull-up. -/
def gpioFree (g : Nat) (s : State) : State :=
  ((s.set (R.PIN_GPIO_CFG_FUNC g) 0).setB (R.PIN_GPIO_CFG_DIR g) false).set (R.PIN_GPIO_CFG_OWNER g) 0

/-- The fields of PIN_GPIO_CFG_g take their values; a reserved FUNC is refused (R356). -/
def gpioPut (g v : Nat) (s : State) : State :=
  let s := if 4 < bits v 0 3 then s.conflict pinBlk else s.set (R.PIN_GPIO_CFG_FUNC g) (bits v 0 3)
  let s := (s.set (R.PIN_GPIO_CFG_DIR g) (bitAt v 4)).set (R.PIN_GPIO_CFG_OUT g) (bitAt v 5)
  (s.set (R.PIN_GPIO_CFG_SEL g) (bits v 8 5)).set (R.PIN_GPIO_CFG_IRQ_EDGE g) (bits v 13 2)

/-- GPIO_CFG_WRITE: the first enabling write claims the pin; RELEASE by its owner frees it; other requesters are
refused. -/
def gpioCfgWriteOp (req : Requester) (g v : Nat) (s : State) : State :=
  let owner := s.get (R.PIN_GPIO_CFG_OWNER g)
  if owner != 0 && owner != Requester.code req then
    if bitAt v 19 = 1 then s.conflict pinBlk else s.claimRefused pinBlk (gpioOff g) req
  else if bitAt v 19 = 1 then if owner = 0 then s.conflict pinBlk else gpioFree g s
  else
    let s := gpioPut g v s
    if s.get (R.PIN_GPIO_CFG_FUNC g) != 0 || s.getB (R.PIN_GPIO_CFG_DIR g) then
      s.set (R.PIN_GPIO_CFG_OWNER g) (Requester.code req)
    else s

/-- GPIO_EDGE: an input pin takes a level; an edge that IRQ_EDGE selects raises the pin's source. -/
def gpioEdgeOp (g : Nat) (level : Bool) (s : State) : State :=
  if s.get (R.PIN_GPIO_CFG_FUNC g) != 0 || s.getB (R.PIN_GPIO_CFG_DIR g) || s.getB (R.PIN_GPIO_CFG_IN g) == level then s
  else
    let s := s.setB (R.PIN_GPIO_CFG_IN g) level
    if bitAt (s.get (R.PIN_GPIO_CFG_IRQ_EDGE g)) (if level then 0 else 1) = 1 then s.irq pinBlk g else s

/-! ### Claims (R349, R350) -/

/-- CLAIM_RELEASE: only the owner's release frees the resource. -/
def claimReleaseOp (c : Claim) (req : Requester) (s : State) : State :=
  match c with
  | .capture sh =>
    let b := capBlk sh.val
    if s.get (R.CLAIM_OWNER b) = Requester.code req then s.set (R.CLAIM_OWNER b) 0 else s.conflict b
  | .alarm k => alarmReleaseOp k.val req s
  | .gpio g =>
    if s.get (R.PIN_GPIO_CFG_OWNER g.val) = Requester.code req then gpioFree g.val s else s.conflict pinBlk

/-- CLAIM_FORCE: a WRITE_OWNER of MGT_CLAIM_FORCE; the resource keeps its configuration (R350). -/
def claimForceOp (index res : Nat) (s : State) : State :=
  match blkOfIrq index with
  | some ⟨.tim, _⟩ => s.set (R.TIM_ALM_CTRL_OWNER res) 0
  | some ⟨.pin, _⟩ => if res < 8 then s.set (R.PIN_GPIO_CFG_OWNER res) 0 else s.conflict mgtBlk
  | some ⟨.cap, c⟩ => if res = 0 then s.set (R.CLAIM_OWNER (capBlk c)) 0 else s.conflict mgtBlk
  | _ => s.conflict mgtBlk

/-! ### The mailbox slots (R355) -/

/-- The opcodes of the mailbox, and those of OWNER class. -/
def mbxKnown : List Nat := [0x01, 0x10, 0x11, 0x20, 0x30, 0x40, 0x50, 0x51, 0x60, 0x61, 0x62, 0x63]
def mbxOwner : List Nat := [0x50, 0x51, 0x60, 0x61, 0x62, 0x63]

/-- A word of a slot's buffer. -/
def State.mbxWord (s : State) (n i : Nat) : Nat := s.get (R.FWC_MBX_BUF_WORD n i)

/-- A slot becomes DONE with its result and response: MBX_DONE is raised. -/
def mbxEnd (n result : Nat) (response : List Nat) (s : State) : State :=
  let s := { s with mbx := { s.mbx with
    order := s.mbx.order.filter (· != n), abort := clearBits s.mbx.abort (2 ^ n) } }
  let s := (List.zipIdx response).foldl (fun s w => s.set (R.FWC_MBX_BUF_WORD n w.2) w.1) s
  let s := ((s.set (R.FWC_MBX_SLOT_STATE n) 3).set (R.FWC_MBX_SLOT_RESULT n) result).set (R.FWC_MBX_SLOT_RLEN n)
    response.length
  s.irq fwcBlk n

/-- Whether firmware serves the mailbox. -/
def State.mbxServes (s : State) : Bool := s.fwcRunning && !s.warmAsserted && !s.coldAsserted

/-- MBX_SUBMIT: the slot becomes QUEUED, or the submit is refused; without the owner an OWNER command ends at once, and
so does an opcode that is not in the table. -/
def mbxSubmitOp (slot opcode len : Nat) (owner : Bool) (s : State) : State :=
  if !s.mbxServes then s.set R.FWC_MBX_RESULT_CODE 2
  else if s.get (R.FWC_MBX_SLOT_STATE slot) != 0 then s.set R.FWC_MBX_RESULT_CODE 1
  else if 256 < len then s.set R.FWC_MBX_RESULT_CODE 3
  else
    let s := (s.set R.FWC_MBX_RESULT_CODE 0).set (R.FWC_MBX_SLOT_OPCODE slot) opcode
    let s := (s.setB (R.FWC_MBX_SLOT_OWNER slot) owner).set (R.FWC_MBX_SLOT_RLEN slot) 0
    if !mbxKnown.contains opcode then mbxEnd slot 1 [] s
    else if mbxOwner.contains opcode && !owner then mbxEnd slot 3 [] s
    else
      { s.set (R.FWC_MBX_SLOT_STATE slot) 1 with mbx := { s.mbx with
        order := s.mbx.order ++ [slot], lens := s.mbx.lens.set slot len } }

/-- MBX_ACK: a DONE slot becomes FREE; for another slot CONFLICT is set. -/
def mbxAckOp (slots : Nat) (s : State) : State :=
  (List.range 4).foldl (fun s n =>
    if bitAt slots n = 0 then s
    else if s.get (R.FWC_MBX_SLOT_STATE n) = 3 then s.set (R.FWC_MBX_SLOT_STATE n) 0
    else s.conflict fwcBlk) s

/-- MBX_ABORT: a QUEUED command ends at once, a RUNNING one is asked to end (`MBX_COMMAND_DONE`). -/
def mbxAbortOp (slots : Nat) (s : State) : State :=
  (List.range 4).foldl (fun s n =>
    if bitAt slots n = 0 then s
    else if s.get (R.FWC_MBX_SLOT_STATE n) = 1 then mbxEnd n 7 [] s
    else if s.get (R.FWC_MBX_SLOT_STATE n) = 2 then
      { s with mbx := { s.mbx with abort := orBits 4 s.mbx.abort (2 ^ n) } }
    else s) s

/-! ### Meanings -/

/-- EXPERT_ARM (R337). -/
def execExpertArm (b : Blk) (req : Requester) (s : State) : Host.Outcome State Fault Refusal :=
  if allBlocks.contains b then done (expertArmOp b req s) else .fault .noSuchTarget

/-- EXPERT_UNLOCK (R337). -/
def execExpertUnlock (b : Blk) (req : Requester) (s : State) : Host.Outcome State Fault Refusal :=
  if allBlocks.contains b then done (expertUnlockOp b req s) else .fault .noSuchTarget

/-- EXPERT_RELOCK (R337). -/
def execExpertRelock (b : Blk) (req : Requester) (s : State) : Host.Outcome State Fault Refusal :=
  if allBlocks.contains b then done (expertRelockOp b req s) else .fault .noSuchTarget

/-- EXPERT_ARM_TIMEOUT (R337). -/
def execExpertArmTimeout (b : Blk) (s : State) : Host.Outcome State Fault Refusal :=
  if allBlocks.contains b then done (expertArmTimeoutOp b s) else .fault .noSuchTarget

/-- BLOCK_ENABLE (R336). -/
def execBlockEnable (b : Blk) (s : State) : Host.Outcome State Fault Refusal :=
  if allBlocks.contains b then done (blockEnableOp b s) else .fault .noSuchTarget

/-- BLOCK_DISABLE (R336). -/
def execBlockDisable (b : Blk) (s : State) : Host.Outcome State Fault Refusal :=
  if allBlocks.contains b then done (blockDisableOp b s) else .fault .noSuchTarget

/-- BLOCK_START_DONE (R336). -/
def execBlockStartDone (b : Blk) (s : State) : Host.Outcome State Fault Refusal :=
  if allBlocks.contains b then done (blockStartDoneOp b s) else .fault .noSuchTarget

/-- BLOCK_STOP_DONE (R336). -/
def execBlockStopDone (b : Blk) (s : State) : Host.Outcome State Fault Refusal :=
  if allBlocks.contains b then done (blockStopDoneOp b s) else .fault .noSuchTarget

/-- CLAIM_RELEASE (R350). -/
def execClaimRelease (c : Claim) (req : Requester) (s : State) : Host.Outcome State Fault Refusal :=
  done (claimReleaseOp c req s)

/-- CLAIM_FORCE (R350). -/
def execClaimForce (index : Byte) (res : BitVec 5) (s : State) : Host.Outcome State Fault Refusal :=
  done (claimForceOp index.toNat res.toNat s)

/-- IRQ_FORCE (R352). -/
def execIrqForce (b : Blk) (v : Word) (s : State) : Host.Outcome State Fault Refusal :=
  if allBlocks.contains b then done (irqForceOp b v.toNat s) else .fault .noSuchTarget

/-- IRQ_ROUTE_WRITE (R353). -/
def execIrqRouteWrite (int alarm fwc : Bool) (s : State) : Host.Outcome State Fault Refusal :=
  done (irqRouteWriteOp int alarm fwc s)

/-- MBX_SUBMIT (R355). -/
def execMbxSubmit (slot : Fin 4) (opcode : Byte) (len : BitVec 9) (owner : Bool)
    (s : State) : Host.Outcome State Fault Refusal :=
  done (mbxSubmitOp slot.val opcode.toNat len.toNat owner s)

/-- MBX_ACK (R355). -/
def execMbxAck (slots : BitVec 4) (s : State) : Host.Outcome State Fault Refusal :=
  done (mbxAckOp slots.toNat s)

/-- MBX_ABORT (R355). -/
def execMbxAbort (slots : BitVec 4) (s : State) : Host.Outcome State Fault Refusal :=
  done (mbxAbortOp slots.toNat s)

/-- GPIO_CFG_WRITE (R356). -/
def execGpioCfgWrite (req : Requester) (g : Fin 8) (v : Word) (s : State) : Host.Outcome State Fault Refusal :=
  done (gpioCfgWriteOp req g.val v.toNat s)

/-- GPIO_EDGE (R356). -/
def execGpioEdge (g : Fin 8) (level : Bool) (s : State) : Host.Outcome State Fault Refusal :=
  done (gpioEdgeOp g.val level s)

end Sys2Proof.Machine
end

