-- ==== Sys2Proof/Machine/Images.lean ====
section
/-!
DEFINITION. Signed images: their header, their verification, and the end of the download window (R404, R461, R466,
R467).
-/

namespace Sys2Proof.Machine

open Sys2Proof

/-! ### Reading an image -/

/-- An image as a function from byte offset to byte. -/
abbrev Image := Nat → Nat

/-- `n` bytes of an image, and a big-endian field of four. -/
def Image.seg (x : Image) (o n : Nat) : List Nat := (List.range n).map fun i => x (o + i)
def Image.field (x : Image) (o : Nat) : Nat := ofBytesBE (x.seg o 4)

/-- The image that lies at an address of scratch or Granary. -/
def State.imageAt (s : State) (a : Nat) : Image := fun o => s.byteAt (a + o)

/-- The image of a firmware bank, and of a profile slot, in Granary (R426). -/
def bankBase (k : Nat) : Nat := granaryBase + 0x180000 * k
def profileBase (n : Nat) : Nat := granaryBase + 0x640000 + 0x10000 * n

/-- Whether an image carries MAGIC (Signed-image header). -/
def Image.magic (x : Image) : Bool := x.field 0 == 0x4C4E5349

/-! ### Verification (R461, R466) -/

/-- The vendor slot whose key hash an image's VENDOR_KEY matches and that is not revoked (R461). -/
def vendorSlot (s : State) (x : Image) : Option Nat :=
  let h := sha (x.seg 0x50 96)
  let slot (n : Nat) : Nat := sha (toBytesBE 96 (Config.vendorKey n).toNat)
  if h = slot 1 then some 1 else if h = slot 0 && !s.fuses.vendorRevoked then some 0 else none

/-- VENDOR_SIG verifies under a valid VENDOR_KEY. -/
def vendorSigned (s : State) (x : Image) : Bool :=
  (vendorSlot s x).isSome
    && ecdsaVerify (ofBytesBE (x.seg 0x50 96)) (sha (x.seg 0 0xB0)) (ofBytesBE (x.seg 0xB0 96))

/-- OWNER_SIG verifies under the owner key in use. -/
def ownerSigned (s : State) (x : Image) : Bool :=
  match s.ownerKey with
  | some k => ecdsaVerify k (sha (x.seg 0 0x110)) (ofBytesBE (x.seg 0x110 96))
  | none => false

/-- Whether the signatures that the kind and the lifecycle state require verify. -/
def imageSigned (s : State) (x : Image) (kind : Nat) : Bool :=
  if s.fuses.life = 4 then false
  else if s.fuses.life = 2 then (kind == 2 || vendorSigned s x) && ownerSigned s x
  else vendorSigned s x

/-- Whether an image of a kind, 1 firmware or 2 a profile, verifies in an area of `limit` body bytes (R466). -/
def imageVerifies (s : State) (x : Image) (kind limit : Nat) : Bool :=
  x.magic && x.field 4 == kind && x.field 8 == 0x3280 && x.field 0x14 ≤ limit
    && (x.field 0x1C == 0 || x.field 0x1C == s.idHash / 2 ^ 352)
    && ofBytesBE (x.seg 0x20 48) == sha (x.seg 0x400 (x.field 0x14))
    && (if kind = 1 then s.fuses.fwSvn else s.fuses.profileSvn) ≤ x.field 0x10
    && imageSigned s x kind

/-- The most body bytes of firmware in Granary, of a download and of a profile (R466). -/
def bankLimit : Nat := 1571840
def downloadLimit : Nat := 1047552
def profileLimit : Nat := 64512

/-- What start-up keeps of the image that it has verified. -/
def bootOf (s : State) (x : Image) (normal : Bool) : BootInt where
  version := x.field 0xC
  svn := x.field 0x10
  revoke := bitAt (x.field 0x18) 1 == 1 && vendorSlot s x == some 1
  normal := normal
  digest := ofBytesBE (x.seg 0x20 48)
  profile := 0
  bank := s.boot.bank
  warmed := s.boot.warmed
  sheaves := s.boot.sheaves

/-! ### After SECURE_BOOT (R402, R404, R405) -/

/-- The slice map of a sheaf from the stored retirements; with failed control logic the sheaf has no slice (R11, R430,
R431). -/
def loadSlices (s : State) (sh : Nat) : State :=
  let retired (n : Nat) : Bool := s.store.repairs.contains (.slice (5 * sh + n))
  let bad := s.getB (R.TST_LBIST_STAT_SHEAF_FAIL sh)
  let s := if bad then (s.setB (R.BLK_FAILED_FLAG ⟨.shf, sh⟩) true).setB (R.BLK_FAILED_FLAG (capBlk sh)) true else s
  let s := (List.range 5).foldl (fun s n => if retired n then slicePut sh n true s else s) s
  spareRefresh sh ((List.range 4).foldl (fun s k =>
    s.set (R.SHF_SLICE_MAP_LANE_SLICE sh k) (if bad then 7 else sliceMap retired k)) s)

/-- Phase MARCH begins: the central blocks are started, and the repair records are applied (R402, R405, R423, R431). -/
def enterMarch (s : State) : State :=
  let s := [BK.tim, .msg, .cal, .pmc].foldl (fun s k => blockFollow (dev k) s) s
  let n := s.store.kept.repairs.length
  let s := (s.set R.MEM_REPAIR_STAT_RECORDS n).setB R.MEM_REPAIR_STAT_FULL (n == 2048)
  loadSlices (loadSlices (setPhase 5 s) 0) 1

/-- The classes that a checker has to give: of known patterns, and of an injected error of a data bit, of a check bit, of
two bits and of an address bit (R411, R414). -/
def checkerClasses : List Nat := [0, 1, 1, 2, 3]

/-- Each checker is tested: where one gives a wrong result, its memory fails (R414, R424). -/
def checkersTest (checkers : List (Nat × List Nat)) (s : State) : State :=
  (checkers.filter fun c => c.2 != checkerClasses).foldl (fun s c => memFailed c.1 0 s) s

/-- The checkers are tested and phase MARCH begins; the download modes have tested them before the wait (R404, R414). -/
def marchBegin (checkers : List (Nat × List Nat)) (s : State) : State :=
  let s := checkersTest (if s.get R.RST_STRAP_BOOT < 2 then [] else checkers) s
  if s.phase = 9 then s else enterMarch s

/-- The firmware has been verified: LBIST where the boot record asks for it, else MARCH. -/
def bootVerified (checkers : List (Nat × List Nat)) (s : State) : State :=
  if s.getB R.TST_CFG_LBIST_BOOT then setPhase 4 (s.setB R.RST_STAT_LBIST_RUN true) else marchBegin checkers s

/-- Verification of a firmware image has failed, with the bank (R486). -/
def firmwareRejected (bank : Nat) (s : State) : State := commitTrigger 4 (secEvent 0x10 bank s)

/-- An image that lies in no bank has failed: its entry's detail is a free value (R404, R486; log entry 226). -/
def imageRejected (s : State) : State := firmwareRejected (s.free 8) s.draw

/-- BOOT_GO: RST_BOOT_CTRL.GO closes the download window and verifies the image in scratch; a failure reopens the
window (R404). -/
def bootGoOp (s : State) : State :=
  if s.phase = 3 && s.getB R.RST_BOOT_STAT_WINDOW then
    let x := s.imageAt scratchBase
    if imageVerifies s x 1 downloadLimit then
      bootVerified [] { s.setB R.RST_BOOT_STAT_WINDOW false with boot := bootOf s x false }
    else imageRejected (s.set R.RST_BOOT_STAT_ERROR 5)
  else s

/-! ### Meanings -/

/-- BOOT_GO (R404). -/
def execBootGo (s : State) : Host.Outcome State Fault Refusal :=
  done (bootGoOp s)

end Sys2Proof.Machine
end

