-- ==== Sys2Proof/Machine/Access.lean ====
section
/-!
DEFINITION. One access of a requester to the address space: where it goes, whether it is allowed, what a read of a word
returns and clears, and what a write of a word does (R4 to R9, R116, R296, R334 to R341, R345, R347, R373, R404, R415,
R418, R425, R448).
-/

namespace Sys2Proof.Machine

open Sys2Proof

/-! ### The address map (R334, R341) -/

/-- Where a word of the address space lies. -/
inductive Target where
  /-- A register word of a block, at its byte offset in the block region. -/
  | reg (b : Blk) (off : Nat)
  /-- A scratch word at its plain address; `op` is 0 for the plain window, 1 for the bit-set and 2 for the bit-clear
  alias. -/
  | scratch (op a : Nat)
  | capture (a : Nat)
  | granary (a : Nat)
  deriving DecidableEq, Repr

/-- The target of an address, if it is mapped and aligned. -/
def targetOf (a : Nat) : Option Target :=
  if a % 4 != 0 then none
  else if 0x08000000 ≤ a && a < 0x08100000 then some (.scratch 0 a)
  else if 0x48000000 ≤ a && a < 0x48100000 then some (.scratch 1 (a - 0x40000000))
  else if 0x88000000 ≤ a && a < 0x88100000 then some (.scratch 2 (a - 0x80000000))
  else if inCapture a then some (.capture a)
  else if granaryBase ≤ a && a < granaryBase + granarySize then some (.granary a)
  else (pageThere a).map fun b => .reg b (a % 65536)

/-- The page or memory window of a mapped address, named by its first address. -/
def regionOf (a : Nat) : Nat :=
  if 0x08000000 ≤ a && a < 0x08100000 then 0x08000000
  else if 0x48000000 ≤ a && a < 0x48100000 then 0x48000000
  else if 0x88000000 ≤ a && a < 0x88100000 then 0x88000000
  else if inCapture a then capBase (capOf a)
  else if granaryBase ≤ a && a < granaryBase + granarySize then granaryBase
  else a / 4096 * 4096

/-- Whether `count` words from an address on are mapped, aligned and in one page or window. -/
def wordsMapped (a count : Nat) : Bool :=
  (targetOf a).isSome && (targetOf (a + 4 * (count - 1))).isSome && regionOf a == regionOf (a + 4 * (count - 1))

/-- The block that answers for a target: its own, CAP of a capture window, MEM for scratch, NVS for Granary. -/
def Target.blk : Target → Blk
  | .reg b _ => b
  | .scratch _ _ => dev .mem
  | .capture a => capBlk (capOf a)
  | .granary _ => dev .nvs

/-- Whether a target is answered as a page header: offsets 0x000 to 0x03F, and LTX_LDIS (R335, R347). -/
def Target.header : Target → Bool
  | .reg b off => off < 0x40 || (b.kind == .ltx && off == 0x048)
  | _ => false

/-! ### Register words -/

/-- The elements of a block's rows that a word holds. -/
def rowsHit (b : Blk) (off : Nat) : List (FRow × Nat × Nat × Nat) :=
  (allRows b).flatMap fun r => (r.hits off).map fun h => (r, h)

/-- Write-only words of OWNER class: MGT_CLAIM_FORCE and NVS_CMD (R356, R432). -/
def ownerCommand (b : Blk) (off : Nat) : Bool := (b.kind == .mgt && off == 0x05C) || (b.kind == .nvs && off == 0x050)

/-- Whether every writable field of a word is of OWNER class, and there is one (R339). -/
def ownerWord (b : Blk) (off : Nat) : Bool :=
  let rows := ((rowsHit b off).map (·.1)).filter fun r => r.acc == .rw || r.acc == .w1c
  ownerCommand b off || (!rows.isEmpty && rows.all (·.own))

/-- Whether a word is an expert register (R337). -/
def expertWord (b : Blk) (off : Nat) : Bool :=
  let expertPlace := if off < 0x1000 then 0x400 ≤ off else !(b.kind == .req || b.kind == .msg || b.kind == .fwc)
  expertPlace && !(rowsHit b off).isEmpty

/-! ### Whether an access is allowed -/

/-- The bit of MSG_REMOTE_POLICY that grants writes of a register (R296). -/
def remoteClass (b : Blk) (off : Nat) : Option Nat :=
  match b.kind with
  | .shf | .cap | .req | .idec | .gbx | .txp | .lfr | .lrx | .hsd => some 1
  | .ltx => some (if off = 0x048 then 2 else 1)
  | .madc | .mfil | .cdac => some 2
  | .tim => some 3
  | _ => none

/-- Whether the remote-access engine may make an access (R296). -/
def State.remoteMay (s : State) (write : Bool) (t : Target) : Bool :=
  let policy (n : Nat) : Bool := bitAt (s.get R.MSG_REMOTE_POLICY_CLASSES) n == 1
  match t with
  | .reg b off =>
    if off = 0x008 || ownerWord b off then false
    else if write then ((remoteClass b off).map policy).getD false
    else policy 0
  | _ => !write && policy 0

/-- Reads of PMC that OPEN_READ = 0 refuses: PMC_CNT, pages 1 to 3 and PMC_SNAP_TIME (R448). -/
def pmcClosed (s : State) (b : Blk) (off : Nat) : Bool :=
  b.kind == .pmc && !s.getB R.PMC_ACCESS_OPEN_READ
    && (0x1000 ≤ off || (0x100 ≤ off && off < 0x140) || (0x050 ≤ off && off < 0x05C))

/-- The mailbox slot whose buffer holds a word of FWC (R355). -/
def mailboxOf (b : Blk) (off : Nat) : Option Nat :=
  if b.kind = .fwc && 0x1000 ≤ off then some ((off - 0x1000) / 0x400) else none

/-- Whether a slot is QUEUED or RUNNING. -/
def State.slotBusy (s : State) (n : Nat) : Bool :=
  s.get (R.FWC_MBX_SLOT_STATE n) == 1 || s.get (R.FWC_MBX_SLOT_STATE n) == 2

/-- Whether an address of Granary lies in the security store, which only SEC reaches (R426). -/
def inSecurityStore (a : Nat) : Bool := granaryBase + 0x6C0000 ≤ a && a < granaryBase + 0x6D0000

/-- Whether the port that the strap names is this one (R401, R404). -/
def State.downloadPort (s : State) (req : Requester) : Bool :=
  (s.get R.RST_STRAP_BOOT == 1 && req == .spi) || (s.get R.RST_STRAP_BOOT == 0 && req == .i3c)

/-- ERR_ACCESS: the class of the target refuses the access (R116, R339, R355, R404, R448). -/
def State.classRefuses (s : State) (req : Requester) (owner write : Bool) (t : Target) : Bool :=
  (req == .remote && !s.remoteMay write t) ||
  match t with
  | .reg b off =>
    if write then
      (ownerWord b off && !owner) ||
      (req != .fwc && (match mailboxOf b off with | some n => s.slotBusy n | none => false))
    else req != .fwc && pmcClosed s b off
  | .scratch _ _ => write && s.getB R.RST_BOOT_STAT_WINDOW && !s.downloadPort req
  | .capture a => s.blkBusy (capBlk (capOf a))
  | .granary a => write || inSecurityStore a

/-- ERR_LOCKED: a port or remote write of an expert register of a block that is not unlocked (R338). -/
def State.lockRefuses (s : State) (req : Requester) (write : Bool) (t : Target) : Bool :=
  match t with
  | .reg b off => write && req != .fwc && expertWord b off && !s.expert b
  | _ => false

/-- ERR_ISOLATED: the block is in reset, or start-up has not started it; scratch answers in a download window (R396,
R404, R407). -/
def State.isolates (s : State) (t : Target) : Bool :=
  let b := t.blk
  match t with
  | .scratch _ _ => s.inReset b || !(s.started b || s.phase == 3)
  | _ => s.inReset b || !s.started b

/-- Whether a domain stays powered in the state that a transition enters (R365, R373). -/
def staysOn (target : Nat) : Domain → Bool
  | .management => target != 3
  | .time => target ≤ 1
  | _ => target == 0

/-- Whether the entry of a lower power state is in progress that takes a domain down, or leaves it asleep (R373). -/
def State.enteringSleep (s : State) (d : Domain) : Bool :=
  s.pwr.stateStage == 2 && !staysOn (s.get R.PWR_STATE_TARGET) d

/-- Whether the wake of a domain fails: it needs a sheaf PLL, and REFCLK is gone (R347, R494). -/
def State.wakeFails (s : State) (d : Domain) : Bool :=
  s.getB R.CLK_STAT_BACKUP && s.power == 2 && (match d with | .sheaf _ | .lane _ => true | _ => false)

/-- ERR_DOMAIN: FENCED or FAILED, a failed memory, or a domain asleep that the access may not or cannot wake (R335,
R347, R424). -/
def State.domainRefuses (s : State) (req : Requester) (t : Target) : Bool :=
  let b := t.blk
  s.fenced b || s.failed b ||
  (match t with | .scratch _ a => s.store.failed.contains (memIdOf a) | _ => false) ||
  (req != .fwc && !s.domainAwake b.domain && (!s.getB (R.BLK_CTRL_WAKE_ON_ACCESS b) || s.wakeFails b.domain))

/-- Whether a preserving march holds back an access: the word may be the one under test, of which the spec tells only that
it is one at a time (R422; log entry 247). -/
def State.marchHolds (s : State) (t : Target) : Bool :=
  match t with
  | .scratch _ a => s.get R.MEM_MARCH_STAT_STATE == 1 && s.store.marchKeep && s.store.marchId == memIdOf a && s.free 1 == 1
  | _ => false

/-- WAIT: the domain is asleep or on its way there, the word is under test, or the snapshot buffer is being filled (R347,
R373, R422, R447). -/
def State.mustWait (s : State) (req : Requester) (write : Bool) (t : Target) : Bool :=
  (req != .fwc && (!s.domainAwake t.blk.domain || s.enteringSleep t.blk.domain || s.marchHolds t)) ||
  match t with
  | .reg b off => b.kind == .pmc && 0x1000 ≤ off && !write && s.getB R.PMC_SNAP_STAT_BUSY
  | _ => false

/-- The status that an access to a mapped word meets, by the precedence of R345, ECC apart. -/
def State.accessStatus (s : State) (req : Requester) (owner write : Bool) (t : Target) : Status :=
  if s.classRefuses req owner write t then .errAccess
  else if t.header then .ok
  else if s.lockRefuses req write t then .errLocked
  else if s.isolates t then .errIsolated
  else if s.domainRefuses req t then .errDomain
  else if s.mustWait req write t then .wait
  else .ok

/-! ### Wakes and the record of errors -/

/-- The wake of a domain begins; in an entry it waits for the end of it, also where the domain was awake (R347, R373). -/
def wakeBegin (d : Domain) (s : State) : State :=
  if s.enteringSleep d then
    { s with woken := (s.woken.filter fun w => w.domain != d) ++ [{ domain := d, ready := false }] }
  else if s.domainOn d || s.woken.any fun w => w.domain == d then s
  else { s with woken := s.woken ++ [{ domain := d, ready := false }] }

/-- The code of a status (R345). -/
def Status.code : Status → Nat
  | .ok => 0x00 | .retry => 0x01 | .wait => 0x02 | .errAddr => 0x10 | .errDomain => 0x11 | .errEcc => 0x12
  | .errAccess => 0x13 | .errIsolated => 0x14 | .errCrc => 0x15 | .errLocked => 0x16

/-- An access answered with an error for a block: ERR_CAP, and the counters of accesses and of errors (R335, R445). -/
def errorNote (req : Requester) (a : Nat) (st : Status) (s : State) : State :=
  match blkOfAddr a with
  | none => s
  | some b =>
    let s := (s.count b 2 1).count b 3 1
    ((s.set (R.ERR_CAP_CODE b) (Status.code st)).set (R.ERR_CAP_REQ b) (Requester.code req)).set (R.ERR_CAP_OFFSET b)
      (a % 65536)

/-! ### Reading a word -/

/-- The key of a shadow or staged word: address, requester and the narrowest reset of its value (R9). -/
def wideKey (a : Nat) (req : Requester) (k : Nat) : Nat := (a * 8 + Requester.code req) * 4 + k

/-- The place that names a wide value in the shadows: its address, and for a counter of PMC the page of the block whose
counter it is, as that block's resets restore it (R9, R445). -/
def State.wideAddr (s : State) (b : Blk) (off : Nat) : Nat :=
  if b.kind = .pmc && 0x100 ≤ off && off < 0x140 then 2 ^ 32 + s.pmcSel.base + off else b.base + off

/-- The words of a value from word 1 on go into the requester's shadow (R9). -/
def shadowPut (a n k : Nat) (req : Requester) (v : Nat) (s : State) : State :=
  let put (m : NatMap) (i : Nat) : NatMap := natSet m (wideKey (a + 4 * (i + 1)) req k) (bits v (32 * (i + 1)) 32) 0
  { s with shadow := (List.range (n - 1)).foldl put s.shadow }

/-- A word of the requester's shadow; 0 until a low word has been read (R9). -/
def State.shadowWord (s : State) (a k : Nat) (req : Requester) : Nat := (natGet s.shadow (wideKey a req k)).getD 0

/-- A read of MSG_TS_ENTRY word 0: the oldest entry is popped into the shadow (R286). -/
def tsEntryRead (req : Requester) (s : State) : State :=
  match s.msg.ts with
  | [] => s
  | e :: es =>
    let t := if e.time = 0 then 0 else reportedTime (e.time * 256) false
    shadowPut 0x00080104 5 0 req ((e.sfc % 2 ^ 32 + 2 ^ 32 * t) * 2 ^ 32) { s with msg := { s.msg with ts := es } }

/-- The fields of a word that a read clears (R5). -/
def readClear (b : Blk) (off : Nat) (s : State) : State :=
  let s := (rowsHit b off).foldl (fun s h =>
    if h.1.acc == .rc then s.set (h.1.at b.base h.2.1 h.2.2.1) 0 else s) s
  if b.kind = .evr && off = 0x070 then { s with evLost := 0 } else s

/-- A counter that the word shows and that counts clock cycles has counted on (R445). -/
def clockRead (b : Blk) (off : Nat) (s : State) : State :=
  if b.kind = .pmc && 0x100 ≤ off && off < 0x140 && off % 8 = 0 then clockCount s.pmcSel ((off - 0x100) / 8) s else s

/-- The result of a filter chain that a word belongs to, and which of its four words it is (R314). -/
def resultWord (b : Blk) (off : Nat) : Option (Nat × Nat) :=
  let e := (off - 0x100) % 0x40
  if b.kind = .mfil && 0x100 ≤ off && off < 0x300 && 0x10 ≤ e && e < 0x20 then
    some ((off - 0x100) / 0x40, (e - 0x10) / 4)
  else none

/-- A register word is read: its value and the state after. A higher word of a wide value comes from the shadow, and
the lowest word fills it (R5, R7, R9, R286, R314). -/
def regRead (req : Requester) (b : Blk) (off : Nat) (s : State) : State × Nat :=
  let s := clockRead b off s
  let a := s.wideAddr b off
  if b.kind = .msg && off = 0x104 then (tsEntryRead req s, wordAt s b off)
  else if b.kind = .msg && 0x108 ≤ off && off < 0x118 then (s, s.shadowWord a 0 req)
  else match resultWord b off with
  | some (c, 0) => (shadowPut a 4 0 req (s.get (R.MFIL_RES_T_TIME c) * 2 ^ 32) (readClear b off s), wordAt s b off)
  | some _ => (s, s.shadowWord a 0 req)
  | none => match (rowsHit b off).find? fun h => 1 < h.1.words with
    | some (r, i, j, w) =>
      if w = 0 then
        let v := fieldValue s b r i j
        (shadowPut a r.words r.kind.code req v s, bits v 0 32)
      else (s, s.shadowWord a r.kind.code req)
    | none => (readClear b off s, wordAt s b off)

/-- The 64-bit word of Granary at an address is read: the state after, and whether it is good (R425). -/
def granaryCheck (a : Nat) (s : State) : State × Bool :=
  let c := s.eccAt a
  if c = 0 then (s, true)
  else if c = 1 then ((s.satInc R.NVS_CE_CNT_COUNT 1).putEcc a 0, true)
  else ((s.satInc R.NVS_ERR_CNT_UE_READ 1).irq (dev .nvs) 2, false)

/-- The word of the buffers' memory that holds a word of a mailbox or message buffer; the spec gives no places (R410; log
entry 248). -/
def bufferWord (b : Blk) (off : Nat) : Option Nat :=
  if (b.kind = .fwc || b.kind = .msg) && 0x1000 ≤ off && off < 0x2000 then
    some ((Config.bufferWord (b.kind == .msg) (off / 8)).toNat)
  else none

/-- A word of a buffer is read, by the error that is stored there; a correctable one is written back (R412, R413). -/
def bufferCheck (b : Blk) (off : Nat) (s : State) : State × Bool :=
  match bufferWord b off with
  | none => (s, true)
  | some w =>
    let k := wordKey 0x12 w
    let c := s.classAt k
    if c = 0 then (s, true)
    else if c = 1 then
      ((((s.satInc R.MEM_ECC_CE_CNT_COUNT 1).setB R.MEM_ECC_STAT_CE_SEEN true).irq memBlk 0).putClass k 0, true)
    else (eccFail 0x12 w (c == 3) s, false)

/-- An access of firmware that meets uncorrectable data raises a bus-error exception in the core (R413; log entry
266). -/
def busErrorNote (req : Requester) (s : State) : State :=
  if req = .fwc then { s with mbx := { s.mbx with busError := true } } else s

/-- A word whose access is allowed is read: its value, unless the data are uncorrectable (R411 to R413, R425). -/
def targetRead (req : Requester) (t : Target) (s : State) : State × Option Nat :=
  match t with
  | .reg b off =>
    let c := bufferCheck b off s
    if c.2 then let r := regRead req b off c.1; (r.1, some r.2) else (c.1, none)
  | .scratch _ a => let r := memCheck a s; (r.1, if r.2 then some (r.1.memWord a) else none)
  | .capture a => let r := memCheck a s; (r.1, if r.2 then some (r.1.memWord a) else none)
  | .granary a =>
    if a % 8 = 0 then
      let r := granaryCheck a s
      if r.2 then (shadowPut a 2 3 req (r.1.word64 a) r.1, some (r.1.memWord a)) else (r.1, none)
    else (s, some (s.shadowWord a 3 req))

/-- The accesses of a block are counted (R445). -/
def accessCount (t : Target) (s : State) : State :=
  match t with
  | .reg b _ => s.count b 2 1
  | _ => s

/-- One word is read by a requester: the status, the word and the state after. -/
def wordRead (req : Requester) (a : Nat) (s : State) : State × Status × Nat :=
  match targetOf a with
  | none => (errorNote req a .errAddr s, .errAddr, 0xFFFFFFFF)
  | some t =>
    match s.accessStatus req false false t with
    | .ok =>
      match targetRead req t (accessCount t s) with
      | (s, some v) => (s.draw, .ok, v)
      | (s, none) => (errorNote req a .errEcc (busErrorNote req s.draw), .errEcc, 0xFFFFFFFF)
    | .wait => (wakeBegin t.blk.domain s.draw, .wait, 0xFFFFFFFF)
    | st => (errorNote req a st s, st, 0xFFFFFFFF)

/-! ### Writing the fields of a word -/

/-- A staged lower word; where none has been staged the spec gives no value. A commit does not use the staged words up:
they hold, as a shadow does, until they are staged again or reset (R9; log entries 109 and 199). -/
def State.stagedWord (s : State) (k i : Nat) : Nat :=
  (natGet s.staged k).getD (Config.freeValue (s.freeCount + i) 32).toNat

/-- One element of a row takes its part of a written word (R5, R9, R339). -/
def fieldWrite (req : Requester) (owner : Bool) (b : Blk) (v : Nat) (a : Nat) (h : FRow × Nat × Nat × Nat)
    (s : State) : State :=
  let r := h.1
  let f := (bankFld s b true r.off r.lo h.2.1).getD (r.at b.base h.2.1 h.2.2.1)
  let x := bits v (r.lo + r.b2 * h.2.2.1) r.w
  match r.acc with
  | .rw =>
    if r.own && !owner then s.conflict b
    else if r.words = 1 then if r.vmin ≤ x && x ≤ r.vmax then s.set f x else s.conflict b
    else if h.2.2.2 + 1 < r.words then
      { s with staged := natSet s.staged (wideKey a req r.kind.code) (v % 2 ^ 32) (2 ^ 32) }
    else
      let low (i : Nat) : Nat := wideKey (a - 4 * (i + 1)) req r.kind.code
      let n := r.words - 1
      let part := ((List.range n).map fun i => (s.stagedWord (low i) i) * 2 ^ (32 * (n - 1 - i))).foldl (· + ·) 0
      { s with freeCount := s.freeCount + n }.set f (part + 2 ^ (32 * n) * (v % 2 ^ 32))
  | .w1c => s.set f (clearBits (s.get f) x)
  | _ => s

/-- The fields of a word that start at bits which `keep` picks take their parts of a written word. -/
def fieldsWrite (req : Requester) (owner : Bool) (b : Blk) (off v : Nat) (keep : Nat → Bool) (s : State) : State :=
  let a := s.wideAddr b off
  (rowsHit b off).foldl (fun s h =>
    if keep (h.1.lo + h.1.b2 * h.2.2.1) then fieldWrite req owner b v a h s else s) s

/-! ### Register words whose write acts -/

/-- A write of BLK_CTRL: SRST acts first, then EN, WAKE_ON_ACCESS and the key (R336, R337). -/
def ctrlWrite (req : Requester) (b : Blk) (v : Nat) (s : State) : State :=
  let reset := bitAt v 1 = 1 && !s.srstRefused b
  let s := if bitAt v 1 = 1 then srstBy b (Requester.code req) s else s
  let s := if bitAt v 0 = 1 then blockEnableOp b s else blockDisableOp b s
  let s := s.set (R.BLK_CTRL_WAKE_ON_ACCESS b) (bitAt v 2)
  if reset then s else expertKey b req (bits v 8 8) s

/-- A write of CLAIM: RELEASE frees the block's own resource (R350). -/
def claimWrite (req : Requester) (b : Blk) (v : Nat) (s : State) : State :=
  if bitAt v 8 = 0 then s
  else if b = capBlk 0 then claimReleaseOp (.capture 0) req s
  else if b = capBlk 1 then claimReleaseOp (.capture 1) req s
  else s.conflict b

/-- A write of a header word (R335). -/
def headerWrite (req : Requester) (b : Blk) (off v : Nat) (s : State) : State :=
  if off = 0x008 then ctrlWrite req b v s
  else if off = 0x014 then
    b.kind.sources.foldl (fun s n => s.set (R.IRQ_EN_EN b n) (bitAt v n)) s
  else if off = 0x018 then irqClear b v s
  else if off = 0x01C then irqForceOp b v s
  else if off = 0x024 then claimWrite req b v s
  else fieldsWrite req false b off v (fun _ => true) s

/-- A write of SHF_LANE_CFG of line lane l: EN = 0 first, then RATE, MODE, ASSIST and DIM_REQ where they change, then
EN = 1 (R22, R23, R25, R27, R33). -/
def laneCfgWrite (l v : Nat) (s : State) : State :=
  let en := bitAt v 0 = 1
  let s := if !en && s.laneEn l then laneDisableOp l s else s
  let mode := bits v 2 2
  let s := if s.rate l = bitAt v 1 then modeChangeOp l mode s
    else
      let s := if mode = 3 then s.conflict (shfOf l) else s.set (laneFld R.SHF_LANE_CFG_MODE l) mode
      rateChangeOp l (bitAt v 1 == 1) s
  let assist := bitAt v 4 == 1
  let s := if s.getB (laneFld R.SHF_LANE_CFG_ASSIST l) == assist then s else assistChangeOp l assist s
  let dim := bitAt v 5 == 1
  let s := if s.getB (laneFld R.SHF_LANE_CFG_DIM_REQ l) == dim then s
    else if dim then dimReqSetOp l s else dimReqClearOp l s
  if en && !s.laneEn l then laneEnableOp l s else s

/-- A write of CAP_CTRL: ABORT, then ARM, then FILL; an abort leaves as many bytes as had been written (R113). -/
def capCtrlWrite (req : Requester) (c v : Nat) (s : State) : State :=
  let s := if bitAt v 1 = 1 then capAbortOp c (capWritten s c) [] s.draw else s
  let s := if bitAt v 0 = 1 then capArmOp c req s else s
  if bitAt v 2 = 1 then capFillOp c req s else s

/-- A write of TIM_CTRL: OSC_CLEAR, and SET or STEP; SET and STEP together give SET and a conflict (R240, R268). -/
def timCtrlWrite (v : Nat) (s : State) : State :=
  let s := if bitAt v 3 = 1 then oscClearOp s else s
  if bitAt v 0 = 1 then timeSetOp (if bitAt v 1 = 1 then s.conflict (dev .tim) else s)
  else if bitAt v 1 = 1 then timeStepOp s else s

/-- A write of TIM_PPS_OUT: POL, GATE and WIDTH; an output that stops stops first (R255, R268). -/
def ppsOutWrite (req : Requester) (v : Nat) (s : State) : State :=
  let s := fieldsWrite req false (dev .tim) 0x094 v (fun lo => lo == 1 || lo == 2 || lo == 12) s
  let s := if bitAt v 0 = 0 then ppsOutDisableOp s else s
  let s := ppsMove (bits v 3 5) s
  if bitAt v 0 = 1 then ppsOutEnableOp s else s

/-- A write of an alarm register of another requester's alarm is refused; a periodic alarm is of at least 64 ns (R263,
R264, R268). -/
def alarmWrite (req : Requester) (k word v : Nat) (s : State) : State :=
  let owner := s.get (R.TIM_ALM_CTRL_OWNER k)
  if word = 2 then if bitAt v 17 = 1 then alarmReleaseOp k req s else alarmCtrlWriteOp k v req s
  else if owner != 0 && owner != Requester.code req then s.claimRefused (dev .tim) (0x200 + 16 * k + 4 * word) req
  else if word = 3 && 0 < v && v < 64 then s.conflict (dev .tim)
  else fieldsWrite req false (dev .tim) (0x200 + 16 * k + 4 * word) v (fun _ => true) s

/-- A write of a TIM register. -/
def timWrite (req : Requester) (owner : Bool) (off v : Nat) (s : State) : State :=
  let plain := fieldsWrite req owner (dev .tim) off v
  if off = 0x040 then plain (fun lo => lo != 0) (trefFreqWriteOp (bits v 0 2) s)
  else if off = 0x060 then timCtrlWrite v s
  else if off = 0x070 then servoSrcWriteOp v s
  else if off = 0x080 then hostOfsWriteOp v s
  else if off = 0x088 then freqWrite v s
  else if off = 0x094 then ppsOutWrite req v s
  else if off = 0x098 then ppsOutOfsWriteOp v s
  else if off = 0x0C0 then sftsSelectOp (bits v 0 3) (bitAt v 4 == 1) s
  else if off = 0x194 then
    let s := plain (fun _ => true) s
    let s := { s with tim := { s.tim with hostAt := some s.elapsed } }
    if s.getB R.TIM_TEMP_CFG_SRC then timTempRefresh s else s
  else if off = 0x18C || off = 0x190 then timTempRefresh (plain (fun _ => true) s)
  else if 0x200 ≤ off && off < 0x400 then alarmWrite req ((off - 0x200) / 16) (off % 16 / 4) v s
  else plain (fun _ => true) s

/-- Every manager lane that may start a session does (R479). -/
def autoStartAll (s : State) : State := (List.range 8).foldl (fun s l => autoStart l s) s

/-- A write of an MSG register. -/
def msgWrite (req : Requester) (owner : Bool) (off v : Nat) (s : State) : State :=
  let plain := fieldsWrite req owner (dev .msg) off v (fun _ => true)
  if 0x040 ≤ off && off < 0x060 then
    let l := (off - 0x040) / 4
    let fs := [R.MSG_LANE_CFG_EN l, R.MSG_LANE_CFG_ROLE l, R.MSG_LANE_CFG_BOND l]
    let t := plain s
    if fs.all fun f => s.get f == t.get f then t else autoStartAll (laneCfgChanged l t)
  else if off = 0x0EC then msgTxPushOp v s
  else if off = 0x188 then
    let s := msgQFlushOp (bits v 0 8) s
    let s := if bitAt v 8 = 1 then rxPopOp s else s
    if bitAt v 9 = 1 then rxFlushOp s else s
  else if off = 0x400 then
    let s := plain s
    let l := s.get R.MSG_TEST_LANE
    if bitAt v 0 = 1 then s.putLink l { s.link l with badCrc := true } else s
  else plain s

/-- A write of a CDAC register; more than one command at once is refused (R321, R327, R332). -/
def cdacWrite (req : Requester) (owner : Bool) (off v : Nat) (s : State) : State :=
  if 0x100 ≤ off && off < 0x400 then
    let n := (off - 0x100) / 16
    if off % 16 = 0 then cdacCodeWriteOp n (v % 65536) s
    else if off % 16 = 4 then cdacSpanWriteOp n v s
    else if off % 16 = 8 then
      match v % 16 with
      | 0 => s
      | 1 => cdacRunOp n s
      | 2 => cdacHoldOp n s
      | 4 => cdacFaultOp n s
      | 8 => cdacClearOp n s
      | _ => s.conflict (dev .cdac)
    else s
  else if 0x500 ≤ off && off < 0x5C0 then cdacFvWriteOp ((off - 0x500) / 4) (v % 65536) s
  else fieldsWrite req owner (dev .cdac) off v (fun _ => true) s

/-- A write of an MFIL register. -/
def mfilWrite (req : Requester) (off v : Nat) (s : State) : State :=
  let plain := fieldsWrite req false (dev .mfil) off v
  let c := (off - 0x100) / 0x40
  let e := (off - 0x100) % 0x40
  if off < 0x100 || 0x300 ≤ off then plain (fun _ => true) s
  else if e = 0 then mfilCfgWriteOp c v req s
  else if e = 4 then
    let t := plain (fun _ => true) s
    if s.getB (R.MFIL_GRID_RES_EN c) == t.getB (R.MFIL_GRID_RES_EN c) then t else chainChange c t
  else if e = 0x20 || e = 0x28 then
    let j := (e - 0x20) / 8
    let s := plain (fun lo => lo != 17) s
    let s := if bitAt v 0 = 0 then limitDisable c j s else s
    if bitAt v 17 = 1 then mfilTrippedClearOp c j s else s
  else plain (fun _ => true) s

/-- A write of an MADC register. -/
def madcWrite (req : Requester) (off v : Nat) (s : State) : State :=
  if off = 0x040 then madcRefWriteOp (bitAt v 0 == 1) s
  else if off = 0x044 then madcPairWriteOp (bitAt v 0 == 1) (bits v 4 3) s
  else if off = 0x050 || off = 0x054 then madcRawCfgWriteOp ((off - 0x050) / 4) v req s
  else fieldsWrite req false (dev .madc) off v (fun _ => true) s

/-- A write of a CAL register; a trim that it changes spoils the window in progress, and ANCHOR_EN = 0 ends a REF_ANCHOR
run (R216, R227). -/
def calWrite (req : Requester) (off v : Nat) (s : State) : State :=
  let plain := fieldsWrite req false (dev .cal) off v (fun _ => true)
  let spoil (act : State → State) : State :=
    let t := plain s
    if t.regs = s.regs then t else act t
  if off = 0x040 then
    let t := plain s
    if t.getB R.CAL_CFG_ANCHOR_EN then t else anchorStop t
  else if off = 0x404 then spoil (calDiscardDac (s.get R.CAL_DAC_SEL_LANE))
  else if off = 0x408 then spoil anchorDiscard
  else if off = 0x048 then
    let s := calRunOp (bits v 0 8) s
    let s := if bitAt v 8 = 1 then calAnchorOp s else s
    if bitAt v 9 = 1 then calSaveOp s else s
  else if 0x060 ≤ off && off < 0x080 then laneCfgFollow ((off - 0x060) / 4) (plain s)
  else if off = 0x0A0 then calRecSelectOp (bits v 0 4) (bits v 4 3) s
  else plain s

/-- A write of an HSD register. EN = 0 in HSD_TRAIN lets a training in progress run on (R186; DESIGN CHOICE, log entry
262). -/
def hsdWrite (req : Requester) (h off v : Nat) (s : State) : State :=
  let plain := fieldsWrite req false ⟨.hsd, h⟩ off v
  if off = 0x040 then
    let was := s.getB (R.HSD_CFG_EN h)
    let s := plain (fun lo => lo < 2) s
    let s := if was && bitAt v 0 = 0 then amLose h s else s
    hsdInvertOp h (bitAt v 2 == 1) (bitAt v 3 == 1) s
  else if off = 0x048 then hsdTxEqWriteOp h (bits v 0 6) (bits v 8 6) (bits v 16 6) (bits v 24 4) s
  else if off = 0x04C then
    let s := plain (fun _ => true) s
    if bitAt v 1 = 1 then trainRestartOp h s else s
  else if off = 0x050 then
    let s := if s.get (R.HSD_PRBS_CFG_CHK h) = bits v 0 2 then s else prbsChkSelectOp h (bits v 0 2) s
    let s := if s.get (R.HSD_PRBS_CFG_GEN h) = bits v 4 2 then s else prbsGenSelectOp h (bits v 4 2) s
    if bitAt v 8 = 1 then prbsClrOp h s else s
  else if off = 0x400 then hsdRxFreezeOp h (bitAt v 0 == 1) (plain (fun lo => lo != 0) s)
  else if 0x410 ≤ off && off < 0x440 then
    let s := plain (fun _ => true) s
    if s.getB (R.HSD_RX_EQ_FREEZE h) then eqFromRegs h s else s
  else plain (fun _ => true) s

/-- A write of a register of the receive blocks LRX, REQ and IDEC; a core trim that it changes spoils the Gleaner's
window (R216). -/
def receiveWrite (req : Requester) (b : Blk) (off v : Nat) (s : State) : State :=
  let l := b.inst
  let plain := fieldsWrite req false b off v
  match b.kind with
  | .lrx =>
    if off = 0x400 then adaptFreezeOp l (adaptBits s l + 32 * bits v 0 2) (plain (fun lo => 2 ≤ lo) s)
    else if off = 0x408 then
      let t := plain (fun _ => true) s
      if t.regs = s.regs then t else calDiscardAdc l t
    else plain (fun _ => true) s
  | .req =>
    if off = 0x080 then
      let s := plain (fun _ => true) s
      if bitAt v 31 = 1 then histStartOp l s else s
    else if off = 0x400 then adaptFreezeOp l (bits v 0 5 + 32 * afeBits s l) s
    else if off = 0x408 then
      let s := plain (fun _ => true) s
      let s := if bitAt v 16 = 1 then ffeCommitOp l s else s
      if bitAt v 17 = 1 then ffeSnapOp l s else s
    else if 0x424 ≤ off && off < 0x440 then freezeSettle l (plain (fun _ => true) s)
    else plain (fun _ => true) s
  | _ => if off = 0x050 then if bitAt v 0 = 1 then idecClrOp l s else s else plain (fun _ => true) s

/-- A write of a register of GBX and of the transmit blocks TXP, LFR and LTX. -/
def transmitWrite (req : Requester) (b : Blk) (off v : Nat) (s : State) : State :=
  let l := b.inst
  let plain := fieldsWrite req false b off v
  match b.kind with
  | .gbx =>
    if off = 0x040 then cfgRefresh (portWWriteOp l (bits v 1 3) (plain (fun lo => lo != 1) s))
    else if off = 0x108 then if bitAt v 0 = 1 then gbxOcClrOp l s else s
    else plain (fun _ => true) s
  | .txp =>
    if off = 0x044 then patternSelectOp l (bits v 0 3) (bits v 4 6) (bits v 12 2) s
    else if off = 0x400 then
      let s := plain (fun _ => true) s
      let s := if bitAt v 8 = 1 then txpCommitOp l s else s
      if bitAt v 9 = 1 then txpSnapOp l s else s
    else plain (fun _ => true) s
  | .ltx =>
    if off = 0x040 then
      let s := fsWriteOp l (bits v 0 5) (plain (fun lo => lo == 9) s)
      if s.getB (R.LTX_CFG_SQUELCH l) == (bitAt v 8 == 1) then s
      else if bitAt v 8 = 1 then squelchOnOp l s else squelchOffOp l s
    else if off = 0x048 then
      let s := ldisWriteOp l (bitAt v 0 == 1) (bitAt v 1 == 1) s
      if bitAt v 8 = 1 && s.getB (R.LTX_LDIS_TRIP l) then ldisTripClearOp l s else s
    else plain (fun _ => true) s
  | _ => plain (fun _ => true) s

/-- A write of a CAP register; the configuration of a claimed capture is its owner's (R113, R114, R349). -/
def capWrite (req : Requester) (c off v : Nat) (s : State) : State :=
  if off = 0x048 then capCtrlWrite req c v s
  else if (off = 0x040 || off = 0x044 || off = 0x04C) && !capMine s c req then s.claimRefused (capBlk c) off req
  else fieldsWrite req false (capBlk c) off v (fun _ => true) s

/-- Whether a block has an event (R445). -/
def eventExists (k : BK) (e : Nat) : Bool :=
  e ≤ 4 || (0x20 ≤ e && k.sources.contains (e - 0x20)) ||
  (0x40 ≤ e && e < 0x40 + (match k with
    | .idec => 6 | .gbx => 4 | .lfr | .req => 2 | .mgt | .msg => 3 | .nvs => 1 | _ => 0))

/-- A write of PMC_EVSEL of counter c of the block shown: an event that the block lacks is refused, and a counter that
becomes enabled takes its preload (R445, R446). -/
def evselWrite (c v : Nat) (s : State) : State :=
  let b := s.pmcSel
  let was := s.getB (R.PMC_EVSEL_EN b c)
  let s := clockCount b c s
  let s := if eventExists b.kind (bits v 0 8) then s.set (R.PMC_EVSEL_EVENT b c) (bits v 0 8) else s.conflict (dev .pmc)
  let s := s.set (R.PMC_EVSEL_EN b c) (bitAt v 8)
  let s := if bitAt v 9 = 1 then s.setB (R.PMC_EVSEL_OVF b c) false else s
  let p := s.get (R.PMC_PRELOAD_P b c)
  if !was && bitAt v 8 = 1 && p != 0 then s.set (R.PMC_CNT_COUNT b c) (2 ^ 48 - p) else s

/-- A write of a PMC register (R445 to R448). -/
def pmcWrite (req : Requester) (owner : Bool) (off v : Nat) (s : State) : State :=
  if off = 0x044 then
    let s := if bitAt v 1 = 1 then clockCounts (fun _ => true) s else s
    let s := s.set R.PMC_CTRL_FREEZE (bitAt v 1)
    if bitAt v 0 = 1 then pmcSnapOp s else s
  else if off = 0x080 then
    if (blkOfIrq (bits v 0 8)).isSome then s.set R.PMC_SEL_INDEX (bits v 0 8) else s.conflict (dev .pmc)
  else if 0x0C0 ≤ off && off < 0x0E0 then evselWrite ((off - 0x0C0) / 4) v s
  else fieldsWrite req owner (dev .pmc) off v (fun _ => true) s

/-- A write of an EVR register. An uncorrectable half of the ring is the business of EVR_RD_SELECT (R449). -/
def evrWrite (req : Requester) (off v : Nat) (s : State) : State :=
  if off = 0x044 then if bitAt v 0 = 1 then evrCommitOp s else s
  else if off = 0x054 then evrRdSelectOp (bits v 0 14) false s
  else if off = 0x06C then evrLogOp (bits v 0 8) s
  else fieldsWrite req false (dev .evr) off v (fun _ => true) s

/-- A write of SEC_CMD (R487). -/
def secCmdWrite (op : Nat) (owner : Bool) (s : State) : State :=
  if op = 0 then s
  else if op = 0x0A then lockdownOp owner s
  else if op < 0x0A then secStart op owner s
  else s.conflict (dev .sec)

/-- A write of THM_LEVEL_CFG: SHUT above 125 °C is refused (R441). -/
def thmLevelWrite (req : Requester) (v : Nat) (s : State) : State :=
  let s := fieldsWrite req false (dev .thm) 0x044 v (fun lo => lo != 16) s
  if 125 < toInt 8 (bits v 16 8) then s.conflict (dev .thm) else s.set R.THM_LEVEL_CFG_SHUT (bits v 16 8)

/-- A write of a register of the other device blocks. -/
def deviceWrite (req : Requester) (owner : Bool) (b : Blk) (off v : Nat) (s : State) : State :=
  let plain := fieldsWrite req owner b off v (fun _ => true)
  match b.kind with
  | .mgt => if off = 0x05C then claimForceOp (bits v 0 8) (bits v 8 5) s else plain s
  | .pin => if 0x040 ≤ off && off < 0x060 then gpioCfgWriteOp req ((off - 0x040) / 4) v s else plain s
  | .irq =>
    if off = 0x064 then irqRouteWriteOp (bitAt v 0 == 1) (bitAt v 1 == 1) (bitAt v 2 == 1) s else plain s
  | .fwc =>
    if off = 0x050 then mbxSubmitOp (bits v 0 2) (bits v 8 8) (bits v 16 9) owner s
    else if off = 0x070 then mbxAbortOp (bits v 8 4) (mbxAckOp (bits v 0 4) s)
    else plain s
  | .pwr =>
    if off = 0x040 then pwrStateReqOp (bits v 0 2) s
    else if off = 0x050 then plCfgWriteOp v s
    else plain s
  | .rst =>
    if off = 0x040 then
      let s := sheafOp 1 (bitAt v 9 == 1) (sheafOp 0 (bitAt v 8 == 1) s)
      let s := if bitAt v 1 = 1 then warmOp s else s
      if bitAt v 0 = 1 then globalOp s else s
    else if off = 0x054 then wdtKickOp req v s
    else if off = 0x058 then if bitAt v 0 = 1 then bootGoOp s else s
    else plain s
  | .mem =>
    if off = 0x060 then
      let s := if bitAt v 10 = 1 then marchAbortOp s else s
      if bitAt v 8 = 1 then marchStartOp (bits v 0 8) (bitAt v 9 == 1) req s else plain s
    else plain s
  | .nvs =>
    if off = 0x050 then
      let s := if bitAt v 0 = 1 then nvsCmdWriteOp s else s
      if bitAt v 1 = 1 then nvsCmdFillOp (bits v 16 16) s else s
    else plain s
  | .tst => if off = 0x044 then tstCfgWriteOp (bitAt v 0 == 1) (bitAt v 1 == 1) s else plain s
  | .thm =>
    if off = 0x044 then thmLevelWrite req v s
    else if off = 0x040 || off = 0x048 then throttleRefresh (plain s)
    else plain s
  | .sec =>
    if off = 0x048 then secCmdWrite (bits v 0 8) owner s
    else if 0x0A0 ≤ off && off < 0x0C0 then autoStartAll (plain s)
    else plain s
  | _ => plain s

/-- A write of a register word that is allowed: fields are stored or cleared, and commands act (R5, R7). -/
def regWrite (req : Requester) (owner : Bool) (b : Blk) (off v : Nat) (s : State) : State :=
  if off < 0x40 then headerWrite req b off v s
  else match b.kind with
    | .shf => if off < 0x050 then laneCfgWrite (4 * b.inst + (off - 0x040) / 4) v s
      else fieldsWrite req owner b off v (fun _ => true) s
    | .cap => capWrite req b.inst off v s
    | .lrx | .req | .idec => receiveWrite req b off v s
    | .gbx | .txp | .lfr | .ltx => transmitWrite req b off v s
    | .hsd => hsdWrite req b.inst off v s
    | .tim => timWrite req owner off v s
    | .msg => msgWrite req owner off v s
    | .cal => calWrite req off v s
    | .madc => madcWrite req off v s
    | .mfil => mfilWrite req off v s
    | .cdac => cdacWrite req owner off v s
    | .pmc => pmcWrite req owner off v s
    | .evr => evrWrite req off v s
    | _ => deviceWrite req owner b off v s

/-! ### Writing words -/

/-- The new value of a scratch word written through a window: plain, bit-set or bit-clear (R418). -/
def aliasValue (op w v : Nat) : Nat := if op = 1 then w ||| v else if op = 2 then clearBits w v else v

/-- A word whose access is allowed is written; `false` where its memory word is uncorrectable. While a block is
unlocked, FWC makes no write to its expert fields (R338, R415). -/
def targetWrite (req : Requester) (owner : Bool) (t : Target) (v : Nat) (s : State) : State × Bool :=
  match t with
  | .reg b off =>
    let c := bufferCheck b off s
    if !c.2 then c
    else if req = .fwc && expertWord b off && s.expert b then (c.1, true)
    else (regWrite req owner b off v c.1, true)
  | .scratch op a => memMerge a (fun w => aliasValue op w v) s
  | .capture a => memMerge a (fun _ => v) s
  | .granary _ => (s, true)

/-- One word is written by a requester: the status and the state after. -/
def wordWrite (req : Requester) (owner : Bool) (a v : Nat) (s : State) : State × Status :=
  match targetOf a with
  | none => (errorNote req a .errAddr s, .errAddr)
  | some t =>
    match s.accessStatus req owner true t with
    | .ok =>
      match targetWrite req owner t v (accessCount t s) with
      | (s, true) => (s.draw, .ok)
      | (s, false) => (errorNote req a .errEcc (busErrorNote req s.draw), .errEcc)
    | .wait => (wakeBegin t.blk.domain s.draw, .wait)
    | st => (errorNote req a st s, st)

/-- Whether two words at an address are the halves of one memory word, written without reading it (R415). -/
def State.pairAt (s : State) (req : Requester) (owner : Bool) (a : Nat) : Bool :=
  a % 8 == 0 && (match targetOf a with
    | some t => s.accessStatus req owner true t == .ok && (match t with
      | .scratch op _ => op == 0
      | .capture _ => true
      | _ => false)
    | none => false)

/-- The words of one transaction are written in order, up to the first that does not succeed, whose status and address
are given (R341, R415). A reset that a word asserts ends the transaction. -/
def writeWords (req : Requester) (owner : Bool) : Nat → List Nat → State → State × Status × Nat
  | a, [], s => (s, .ok, a)
  | a, lo :: hi :: rest, s =>
    if s.pairAt req owner a then writeWords req owner (a + 8) rest (memPair a lo hi s)
    else
      match wordWrite req owner a lo s with
      | (t, .ok) =>
        if t.coldAsserted || t.warmAsserted then (t, .ok, a) else writeWords req owner (a + 4) (hi :: rest) t
      | (t, st) => (t, st, a)
  | a, [v], s => let r := wordWrite req owner a v s; (r.1, r.2, a)

/-- The words of one transaction in order: the state after them, the status, the address of the word that failed, and
the data; that word and those after it read 0xFFFF_FFFF (R341). -/
def readRun (req : Requester) : Nat → Nat → State → State × Status × Nat × List Nat
  | a, 0, s => (s, .ok, a, [])
  | a, n + 1, s =>
    match wordRead req a s with
    | (t, .ok, v) => let r := readRun req (a + 4) n t; (r.1, r.2.1, r.2.2.1, v :: r.2.2.2)
    | (t, st, _) => (t, st, a, List.replicate (n + 1) 0xFFFFFFFF)

/-- A read completes whole or has no effect: where a word fails, the words before it clear and capture nothing, and only
the failure itself is recorded (R6, R9, R341, R342). -/
def readWords (req : Requester) (a n : Nat) (s : State) : State × Status × List Nat :=
  let r := readRun req a n s
  if r.2.1 = .ok then (r.1, .ok, r.2.2.2)
  else ({ (wordRead req r.2.2.1 s).1 with freeCount := r.1.freeCount }, r.2.1, r.2.2.2)

/-- The status that the words of a transaction meet before any is performed: that of the first that is not allowed, WAIT
if it is not ready (R342). -/
def State.wordsStatus (s : State) (req : Requester) (owner write : Bool) (a : Nat) : Nat → Status
  | 0 => .ok
  | n + 1 =>
    match targetOf a with
    | none => .errAddr
    | some t =>
      match s.accessStatus req owner write t with
      | .ok => s.wordsStatus req owner write (a + 4) n
      | st => st

/-- The wake that the first word not ready needs begins (R342, R347). -/
def wakeFor (a : Nat) (s : State) : State :=
  match targetOf a with
  | some t => if t.header then s else wakeBegin t.blk.domain s
  | none => s

/-- Whether a port answers: no reset of WARM reach or wider is asserted, and start-up is past BOOT_RECORD (R393,
R405). -/
def State.portUp (s : State) : Bool := !s.coldAsserted && !s.warmAsserted && s.phase != 1

/-- Whether a requester makes accesses now: a port that answers, firmware that runs, or MSG that is ON; Lantern makes
none (R9, R264). -/
def State.reaches (s : State) (req : Requester) : Bool :=
  match req with
  | .spi | .i3c => s.portUp
  | .fwc => s.fwcRunning && !s.coldAsserted && !s.warmAsserted
  | .remote => s.blkOn (dev .msg)
  | .tim => false

/-! ### Commands -/

/-- REGISTER_WRITE: one register or memory word is written by a requester (R5). -/
def registerWriteOp (req : Requester) (owner : Bool) (a v : Nat) (s : State) : State :=
  if s.reaches req then (wordWrite req owner a v s).1 else s

/-- READ_CLEAR: a word with RC fields is read (R5, R6). -/
def readClearOp (req : Requester) (a : Nat) (s : State) : State := if s.reaches req then (wordRead req a s).1 else s

/-- WIDE_LOW_WORD_READ: the lowest word of a wide value is read, and fills the shadow (R9). -/
def wideLowWordReadOp (req : Requester) (a : Nat) (s : State) : State :=
  if s.reaches req then (wordRead req a s).1 else s

/-- WIDE_HIGH_WORD_WRITE: the highest word of a wide value is written, and commits the staged words (R9). -/
def wideHighWordWriteOp (req : Requester) (owner : Bool) (a v : Nat) (s : State) : State :=
  if s.reaches req then (wordWrite req owner a v s).1 else s

/-- MSG_TS_POP: MSG_TS_ENTRY word 0 is read (R286). -/
def msgTsPopOp (req : Requester) (s : State) : State := if s.reaches req then (wordRead req 0x00080104 s).1 else s

/-! ### Meanings -/

/-- REGISTER_WRITE (R5). -/
def execRegisterWrite (req : Requester) (owner : Bool) (addr value : Word)
    (s : State) : Host.Outcome State Fault Refusal :=
  done (registerWriteOp req owner addr.toNat value.toNat s)

/-- READ_CLEAR (R5). -/
def execReadClear (req : Requester) (addr : Word) (s : State) : Host.Outcome State Fault Refusal :=
  done (readClearOp req addr.toNat s)

/-- WIDE_LOW_WORD_READ (R9). -/
def execWideLowWordRead (req : Requester) (addr : Word) (s : State) : Host.Outcome State Fault Refusal :=
  done (wideLowWordReadOp req addr.toNat s)

/-- WIDE_HIGH_WORD_WRITE (R9). -/
def execWideHighWordWrite (req : Requester) (owner : Bool) (addr value : Word)
    (s : State) : Host.Outcome State Fault Refusal :=
  done (wideHighWordWriteOp req owner addr.toNat value.toNat s)

/-- MSG_TS_POP (R286). -/
def execMsgTsPop (req : Requester) (s : State) : Host.Outcome State Fault Refusal :=
  done (msgTsPopOp req s)

end Sys2Proof.Machine
end

