-- ==== Sys2Proof/Machine/Management.lean ====
section
/-!
DEFINITION. The management ports: SPI and I3C transactions, posted writes, split reads, SYNC, the I3C common command
codes, and the remote-access engine (R295 to R298, R340 to R348).
-/

namespace Sys2Proof.Machine

open Sys2Proof

/-! ### Ports -/

/-- The requester that a port is (R264). -/
def portReq : PortId → Requester
  | .spi => .spi
  | .i3c => .i3c

/-- A port, and the state with it changed. -/
def State.port (s : State) : PortId → Port
  | .spi => s.spi
  | .i3c => s.i3c

def State.putPort (s : State) (p : PortId) (x : Port) : State :=
  match p with
  | .spi => { s with spi := x }
  | .i3c => { s with i3c := x }

/-- The words of a response that carries no valid data (R340). -/
def noData (n : Nat) : List Nat := List.replicate n 0xFFFFFFFF

/-- MGT counts RETRY and WAIT answers (R445). -/
def answerCount (st : Status) (s : State) : State :=
  match st with
  | .retry => s.count mgtBlk 0x41 1
  | .wait => s.count mgtBlk 0x42 1
  | _ => s

/-- SPI answers a transaction at once; I3C keeps what the private read will return (R340, R346). -/
def answer (p : PortId) (st : Status) (data : List Nat) (s : State) : State :=
  let s := answerCount st s
  let x := s.port p
  match p with
  | .spi => s.putPort p { x with response := some ⟨st, data⟩ }
  | .i3c => s.putPort p { x with response := none, waiting := some (.fixed ⟨st, data⟩) }

/-- A transaction of a port that answers; one that does not gives no response, and Wick discards private writes (R345,
R348, R405). -/
def transact (p : PortId) (go : State → State) (s : State) : State :=
  if s.portUp then go s else s.putPort p { s.port p with response := none, waiting := none }

/-! ### Frames (R340, R346) -/

/-- The bytes of a request before its CHECK: OPCODE, ADDR, LEN and DATA, most significant byte first. -/
def requestBytes (op a len : Nat) (data : List Nat) : List Nat :=
  [op] ++ toBytesBE 4 a ++ [len] ++ data.flatMap (toBytesBE 4)

/-- The CRC of an SPI request is wrong; I3C carries none. -/
def crcBad (p : PortId) (request : List Nat) (check : Nat) : Bool := p == .spi && crc16 request != check

/-- A response as its port sends it: STATUS, the data, and over SPI the CRC of both. -/
def Response.bytes (p : PortId) (r : Response) : List Nat :=
  let b := Status.code r.status :: r.data.flatMap (toBytesBE 4)
  if p = .spi then b ++ toBytesBE 2 (crc16 b) else b

/-- MIO[3:0] clock by clock for a run of bytes: the high nibble of each first. -/
def nibbles (bs : List Nat) : List Nat := bs.flatMap fun b => [b / 16 % 16, b % 16]

/-- MIO[3:0] over an SPI transaction: the request, the DUMMY clocks in which neither side is bound to drive it, and the
response. -/
def State.spiClocks (s : State) (request : List Nat) : List (Option Nat) :=
  (nibbles request).map some ++ List.replicate (s.get R.MGT_SPI_CFG_DUMMY) none ++
    match s.spi.response with
    | some r => (nibbles (r.bytes .spi)).map some
    | none => []

/-- The words that bytes spell, most significant byte first. -/
def wordsOf : List Nat → List Nat
  | a :: b :: c :: d :: rest => ofBytesBE [a, b, c, d] :: wordsOf rest
  | _ => []

/-- The command that a whole request spells, by its OPCODE; none for one that ends before its CHECK or MAC, and for a
LEN, a TAG or an ADDR outside SPI opcodes (R340; log entry 242). -/
def portCommand (p : PortId) (bs : List Nat) : Option Instr :=
  let n := bs.length
  let op := bs.getD 0 0
  let a := ofBytesBE ((bs.drop 1).take 4)
  let len := bs.getD 5 0
  let tail := if p = .spi then 2 else 0
  let check : BitVec 16 := BitVec.ofNat 16 (if p = .spi then ofBytesBE (bs.drop (n - 2)) else 0)
  let data : List Word := (wordsOf ((bs.drop 6).take (4 * (len + 1)))).map (BitVec.ofNat 32)
  let addr : Word := BitVec.ofNat 32 a
  let len6 : BitVec 6 := BitVec.ofNat 6 len
  if n < 6 + tail then none
  else if !([0x02, 0x03, 0x0B, 0x0C, 0x0D, 0x12].contains op) then
    some (.unknownOpcode p (bs.map (BitVec.ofNat 8)))
  else if 64 ≤ len then none
  else if op = 0x02 then if n = 6 + 4 * (len + 1) + tail then some (.write p addr data check) else none
  else if op = 0x12 then
    if n = 6 + 4 * (len + 1) + 4 then some (.writeOwner p addr data (BitVec.ofNat 32 (ofBytesBE (bs.drop (n - 4)))))
    else none
  else if n != 6 + tail then none
  else if op = 0x03 then some (.read p addr len6 check)
  else if op = 0x0B then some (.readPost p addr len6 check)
  else if op = 0x0C then if a < 8 then some (.fetch p (BitVec.ofNat 3 a) len6 check) else none
  else if a = 0 && len = 0 then some (.sync p check) else none

/-! ### Wakes of a transaction -/

/-- The wake begins that the first word which is not ready needs (R342, R347). -/
def wakeWords (req : Requester) (owner write : Bool) (a : Nat) : Nat → State → State
  | 0, s => s
  | n + 1, s =>
    match targetOf a with
    | none => s
    | some t =>
      match s.accessStatus req owner write t with
      | .ok => wakeWords req owner write (a + 4) n s
      | .wait => wakeBegin t.blk.domain s
      | _ => s

/-! ### Writes (R343) -/

/-- Whether the class of any word of a write refuses it. -/
def wordsRefused (s : State) (req : Requester) (owner : Bool) (a n : Nat) : Bool :=
  (List.range n).any fun i =>
    match targetOf (a + 4 * i) with
    | some t => s.classRefuses req owner true t
    | none => false

/-- What the acceptance of a write finds: RETRY, ERR_ADDR, ERR_ACCESS by the class or the MAC, or OK. -/
def writeAccept (p : PortId) (owner macOk : Bool) (a n : Nat) (s : State) : Status :=
  if 32 ≤ (s.port p).queue.length then .retry
  else if !wordsMapped a n then .errAddr
  else if !macOk || wordsRefused s (portReq p) owner a n then .errAccess
  else .ok

/-- A write is judged and, when it is accepted, queued; one that stands at the head of the queue begins the wake that it
needs (R343, R347). -/
def writePost (p : PortId) (owner macOk : Bool) (a : Nat) (data : List Nat) (s : State) : State :=
  match writeAccept p owner macOk a data.length s with
  | .ok =>
    let x := s.port p
    let s := if x.queue.isEmpty then wakeWords (portReq p) owner true a data.length s else s
    let s := s.putPort p { x with queue := x.queue ++ [{ owner := owner, addr := a, data := data }] }
    answer p .ok [] (s.count mgtBlk 0x40 1)
  | .retry => answer p .retry [] s
  | st => answer p st [] (errorNote (portReq p) a st s)

/-- WRITE: checked and accepted into the port's posted queue. -/
def writeOp (p : PortId) (a : Nat) (data : List Nat) (check : Nat) (s : State) : State :=
  if data.isEmpty || 64 < data.length then s
  else transact p (fun s =>
    if crcBad p (requestBytes 0x02 a (data.length - 1) data) check then answer p .errCrc [] s
    else writePost p false true a data s) s

/-- The bytes that the MAC of a WRITE_OWNER covers: OPCODE, ADDR, LEN, DATA and the owner write counter. -/
def macBytes (a : Nat) (data : List Nat) (counter : Nat) : List Nat :=
  requestBytes 0x12 a (data.length - 1) data ++ toBytesBE 4 counter

/-- Whether a session is up and the MAC is the leading 4 bytes of the CMAC under its write key. -/
def State.macOk (s : State) (a : Nat) (data : List Nat) (mac : Nat) : Bool :=
  s.getB R.SEC_STAT_OWN_SESSION
    && cmac s.sec.key (macBytes a data (s.get R.MGT_OWNER_CTR_COUNT)) / 2 ^ 96 == mac

/-- A MAC failure, or a WRITE_OWNER without a session: counted, raised and logged. -/
def macFail (s : State) : State :=
  ((s.satInc R.MGT_MAC_FAIL_COUNT 1).irq mgtBlk 1).event mgtBlk 0 8 1

/-- WRITE_OWNER: the MAC is checked in every case; an accepted write moves the owner write counter on. -/
def writeOwnerOp (p : PortId) (a : Nat) (data : List Nat) (mac : Nat) (s : State) : State :=
  if data.isEmpty || 64 < data.length then s
  else transact p (fun s =>
    let good := s.macOk a data mac
    let s := if good then s else macFail s
    let took := writeAccept p true good a data.length s == .ok
    let s := writePost p true good a data s
    if took then s.wrapInc R.MGT_OWNER_CTR_COUNT 1 else s) s

/-- The failure of a posted write: MGT_PW_ERR, its source and the port's SYNC record (R343, R344). -/
def postFail (p : PortId) (st : Status) (a : Nat) (s : State) : State :=
  let s := if s.getB R.MGT_PW_ERR_VALID then s
    else
      let s := (s.set R.MGT_PW_ERR_CODE (Status.code st)).set R.MGT_PW_ERR_PORT (Requester.code (portReq p))
      (s.setB R.MGT_PW_ERR_VALID true).set R.MGT_PW_ERR_ADDR_ADDR a
  let s := (s.satInc R.MGT_PW_ERR_CNT_COUNT 1).irq mgtBlk 0
  let x := s.port p
  if x.failure.isNone then s.putPort p { x with failure := some st } else s

/-- The head of a port's queue leaves it; the posted reads accepted after it have one write less ahead (R343). -/
def popWrite (p : PortId) (s : State) : State :=
  let x := s.port p
  s.putPort p { x with queue := x.queue.drop 1, tags := x.tags.map fun t => { t with ahead := t.ahead - 1 } }

/-- POSTED_WRITE_EXECUTE: the write at the head of the queue executes once its target is ready; else it waits, and the
wake that it needs begins. -/
def postedWriteExecuteOp (p : PortId) (s : State) : State :=
  if !s.portUp then s
  else match (s.port p).queue with
    | [] => s
    | w :: _ =>
      if s.wordsStatus (portReq p) w.owner true w.addr w.data.length == .wait then
        wakeWords (portReq p) w.owner true w.addr w.data.length s
      else
        match writeWords (portReq p) w.owner w.addr w.data (popWrite p s) with
        | (t, .ok, _) => t
        | (t, st, a) => postFail p st a t

/-! ### Reads (R342) -/

/-- A READ as its response begins: data, an error, or WAIT with nothing performed; a read waits for every write that
its port accepted before it, unless an error is of higher precedence (R342, R343, R345). -/
def readNow (p : PortId) (a n : Nat) (s : State) : State × Status × List Nat :=
  if !wordsMapped a n then (errorNote (portReq p) a .errAddr s, .errAddr, noData n)
  else
    let st := s.wordsStatus (portReq p) false false a n
    if st == .wait || (st == .ok && !(s.port p).queue.isEmpty) then
      (wakeWords (portReq p) false false a n s, .wait, noData n)
    else readWords (portReq p) a n s

/-- READ. -/
def readOp (p : PortId) (a len check : Nat) (s : State) : State :=
  transact p (fun s =>
    if crcBad p (requestBytes 0x03 a len []) check then answer p .errCrc (noData (len + 1)) s
    else match p with
      | .spi => let r := readNow p a (len + 1) s; answer p r.2.1 r.2.2 r.1
      | .i3c => s.putPort p { s.port p with response := none, waiting := some (.read a (len + 1)) }) s

/-- The lowest tag that no posted read holds. -/
def freeTag (x : Port) : Nat := ((List.range 8).find? fun t => x.tags.all fun r => r.tag != t).getD 0

/-- READ_POST: accepted into a split tag; the wake that it needs begins (R342, R347). -/
def readPostOp (p : PortId) (a len check : Nat) (s : State) : State :=
  transact p (fun s =>
    let x := s.port p
    if crcBad p (requestBytes 0x0B a len []) check then answer p .errCrc (noData 1) s
    else if 8 ≤ x.tags.length then answer p .retry (noData 1) s
    else if !wordsMapped a (len + 1) then answer p .errAddr (noData 1) (errorNote (portReq p) a .errAddr s)
    else
      let tag := freeTag x
      let s := wakeWords (portReq p) false false a (len + 1) s
      let s := s.putPort p { x with tags := x.tags ++
        [{ tag := tag, addr := a, count := len + 1, ahead := x.queue.length, answer := none }] }
      answer p .ok [tag] s) s

/-- POSTED_READ_PERFORM: a posted read is performed after the writes accepted before it, when its target is ready. -/
def postedReadPerformOp (p : PortId) (tag : Nat) (s : State) : State :=
  if !s.portUp then s
  else match (s.port p).tags.find? fun r => r.tag == tag && r.answer.isNone && r.ahead == 0 with
    | none => s
    | some r =>
      if s.wordsStatus (portReq p) false false r.addr r.count == .wait then
        wakeWords (portReq p) false false r.addr r.count s
      else
        let o := readWords (portReq p) r.addr r.count s
        let x := o.1.port p
        let f (t : SplitRead) : SplitRead := if t.tag = tag then { t with answer := some (o.2.1, o.2.2) } else t
        o.1.putPort p { x with tags := x.tags.map f }

/-- A FETCH as its response begins: it frees the tag unless it answers WAIT (R342). -/
def fetchNow (p : PortId) (tag n : Nat) (s : State) : State × Status × List Nat :=
  let x := s.port p
  match x.tags.find? fun r => r.tag == tag with
  | none => (s, .errAddr, noData n)
  | some r =>
    match r.answer with
    | none => (s, .wait, noData r.count)
    | some (st, data) => (s.putPort p { x with tags := x.tags.filter fun t => t.tag != tag }, st, data)

/-- FETCH. -/
def fetchOp (p : PortId) (tag len check : Nat) (s : State) : State :=
  transact p (fun s =>
    if crcBad p (requestBytes 0x0C tag len []) check then answer p .errCrc (noData (len + 1)) s
    else match p with
      | .spi => let r := fetchNow p tag (len + 1) s; answer p r.2.1 r.2.2 r.1
      | .i3c => s.putPort p { s.port p with response := none, waiting := some (.fetch tag (len + 1)) }) s

/-! ### SYNC (R344) -/

/-- A SYNC as its response begins. -/
def syncNow (p : PortId) (s : State) : State × Status :=
  let x := s.port p
  if !x.queue.isEmpty then (s, .wait) else (s.putPort p { x with failure := none }, x.failure.getD .ok)

/-- SYNC. -/
def syncOp (p : PortId) (check : Nat) (s : State) : State :=
  transact p (fun s =>
    if crcBad p (requestBytes 0x0D 0 0 []) check then answer p .errCrc [] s
    else match p with
      | .spi => let r := syncNow p s; answer p r.2 [] r.1
      | .i3c => s.putPort p { s.port p with response := none, waiting := some .sync }) s

/-- UNKNOWN_OPCODE: the CRC, the last two bytes over SPI, goes before the opcode (R340, R345). -/
def unknownOpcodeOp (p : PortId) (frame : List Nat) (s : State) : State :=
  let n := frame.length - 2
  transact p (fun s =>
    answer p (if crcBad p (frame.take n) (ofBytesBE (frame.drop n)) then .errCrc else .errAccess) [] s) s

/-! ### I3C (R346, R348) -/

/-- What the private read returns. -/
def i3cRespond (st : Status) (data : List Nat) (s : State) : State :=
  let s := answerCount st s
  { s with i3c := { s.i3c with response := some ⟨st, data⟩ } }

/-- I3C_PRIVATE_READ: STATUS and data of the preceding transaction; while Wick answers, WAIT with no data. -/
def i3cPrivateReadOp (s : State) : State :=
  if s.portUp then
    let w := s.i3c.waiting
    let s := { s with i3c := { s.i3c with response := none, waiting := none } }
    match w with
    | none => s
    | some (.fixed r) => { s with i3c := { s.i3c with response := some r } }
    | some (.read a n) => let r := readNow .i3c a n s; i3cRespond r.2.1 r.2.2 r.1
    | some (.fetch tag n) => let r := fetchNow .i3c tag n s; i3cRespond r.2.1 r.2.2 r.1
    | some .sync => let r := syncNow .i3c s; i3cRespond r.2 [] r.1
  else { s with i3c := { s.i3c with response := if s.resets.wick then some ⟨.wait, []⟩ else none, waiting := none } }

/-- The dynamic address is set; 0 stands for none. Wick keeps it (R348). -/
def addressPut (a : Nat) (s : State) : State :=
  ((s.setB R.MGT_PORT_STAT_DA_VALID (a != 0)).set R.MGT_PORT_STAT_DA a).set R.MGT_WICK_DYNAMIC a

/-- ENTDAA: a target without a dynamic address takes the one that is assigned. -/
def entdaaOp (a : Nat) (s : State) : State :=
  if s.portUp && !s.getB R.MGT_PORT_STAT_DA_VALID then addressPut a s else s

/-- SETDASA: a dynamic address is assigned from the static one. -/
def setdasaOp (static a : Nat) (s : State) : State :=
  if s.portUp && !s.getB R.MGT_PORT_STAT_DA_VALID && s.get R.MGT_WICK_STATIC == static then addressPut a s else s

/-- SETNEWDA: the dynamic address changes. -/
def setnewdaOp (old a : Nat) (s : State) : State :=
  if s.portUp && s.getB R.MGT_PORT_STAT_DA_VALID && s.get R.MGT_PORT_STAT_DA == old then addressPut a s else s

/-- RSTDAA: the dynamic address is cleared. -/
def rstdaaOp (s : State) : State := if s.portUp then addressPut 0 s else s

/-- The answer of a GET CCC. -/
def cccAnswer (bs : List Nat) (s : State) : State :=
  if s.portUp then { s with target := { s.target with answer := bs } } else s

/-- GETPID: six bytes with the part field 0x3280. -/
def getpidOp (s : State) : State :=
  cccAnswer (toBytesBE 2 Config.pidMaker.toNat ++ [0x32, 0x80] ++ toBytesBE 2 Config.pidTail.toNat) s

/-- GETBCR and GETDCR: 0x00. -/
def getbcrOp (s : State) : State := cccAnswer [0x00] s

def getdcrOp (s : State) : State := cccAnswer [0x00] s

/-- GETSTATUS: two bytes whose contents the spec does not give. -/
def getstatusOp (s : State) : State := cccAnswer (toBytesBE 2 (s.free 16)) s.draw

/-- ENEC and DISEC: bits of `events` are set or cleared. -/
def enecOp (events : Nat) (s : State) : State :=
  if s.portUp then { s with target := { s.target with events := orBits 8 s.target.events events } } else s

def disecOp (events : Nat) (s : State) : State :=
  if s.portUp then { s with target := { s.target with events := clearBits s.target.events events } } else s

/-- SETMWL, GETMWL, SETMRL and GETMRL: the maximum write and read lengths. -/
def setmwlOp (n : Nat) (s : State) : State :=
  if s.portUp then { s with target := { s.target with maxWrite := n } } else s

def getmwlOp (s : State) : State := cccAnswer (toBytesBE 2 s.target.maxWrite) s

def setmrlOp (n : Nat) (s : State) : State :=
  if s.portUp then { s with target := { s.target with maxRead := n } } else s

def getmrlOp (s : State) : State := cccAnswer (toBytesBE 2 s.target.maxRead) s

/-! ### The remote-access engine (R297) -/

/-- The oldest request that has not been performed. -/
def State.remoteNext (s : State) : Option RemoteReq := s.msg.remote.find? fun r => !r.answered

/-- The oldest request that has not been performed is marked as performed. -/
def markFirst : List RemoteReq → List RemoteReq
  | [] => []
  | r :: rs => if r.answered then r :: markFirst rs else { r with answered := true } :: rs

/-- A remote request is performed: the status, and the words that a read returns. -/
def remotePerform (r : RemoteReq) (s : State) : State × Status × List Nat :=
  if r.write then
    let o := writeWords .remote false r.addr r.data s
    (o.1, o.2.1, [])
  else readWords .remote r.addr (r.count + 1) s

/-- REMOTE_ACCESS_EXECUTE: the oldest request is performed once its target is ready, and its response queued. -/
def remoteAccessExecuteOp (s : State) : State :=
  if !s.blkOn (dev .msg) then s
  else match s.remoteNext with
    | none => s
    | some r =>
      if s.wordsStatus .remote false r.write r.addr (r.count + 1) == .wait then
        wakeWords .remote false r.write r.addr (r.count + 1) s
      else
        let o := remotePerform r s
        let t := { o.1 with msg := { o.1.msg with remote := markFirst o.1.msg.remote } }
        outPut r.lane { type := if r.write then 6 else 4, auth := true, remote := true
                        payload := responsePayload r.tag (Status.code o.2.1) r.count r.addr o.2.2 } t

/-! ### Which pins are driven (R340, R346, R379, R400, R404, R481) -/

/-- MIO[3:0] is driven in the response of an SPI transaction alone. -/
def State.mioDriven (s : State) : Bool := s.portUp && s.spi.response.isSome

/-- SDA, an open drain, answers a private read. -/
def State.sdaDriven (s : State) : Bool := s.i3c.response.isSome

/-- AVS_CLK and AVS_MDATA are driven by PWR from the release of COLD on, and pulled high before. -/
def State.avsDriven (s : State) : Bool := !s.coldAsserted

/-- FSCK, FCS_N and FIO[3:0] are driven during an external-flash boot alone; FCS_N is pulled high otherwise. -/
def State.flashDriven (s : State) : Bool := !s.coldAsserted && s.phase == 2 && s.get R.RST_STRAP_BOOT == 2

/-- TDO may be driven while debug is open. -/
def State.tdoDriven (s : State) : Bool := !s.coldAsserted && s.getB R.SEC_LIFE_DEBUG

/-! ### Meanings -/

/-- REMOTE_ACCESS_EXECUTE (R297). -/
def execRemoteAccessExecute (s : State) : Host.Outcome State Fault Refusal :=
  done (remoteAccessExecuteOp s)

/-- WRITE (R343). -/
def execWrite (port : PortId) (addr : Word) (data : List Word) (check : BitVec 16)
    (s : State) : Host.Outcome State Fault Refusal :=
  done (writeOp port addr.toNat (data.map (·.toNat)) check.toNat s)

/-- READ (R342). -/
def execRead (port : PortId) (addr : Word) (len : BitVec 6) (check : BitVec 16)
    (s : State) : Host.Outcome State Fault Refusal :=
  done (readOp port addr.toNat len.toNat check.toNat s)

/-- READ_POST (R342). -/
def execReadPost (port : PortId) (addr : Word) (len : BitVec 6) (check : BitVec 16)
    (s : State) : Host.Outcome State Fault Refusal :=
  done (readPostOp port addr.toNat len.toNat check.toNat s)

/-- FETCH (R342). -/
def execFetch (port : PortId) (tag : BitVec 3) (len : BitVec 6) (check : BitVec 16)
    (s : State) : Host.Outcome State Fault Refusal :=
  done (fetchOp port tag.toNat len.toNat check.toNat s)

/-- SYNC (R344). -/
def execSync (port : PortId) (check : BitVec 16) (s : State) : Host.Outcome State Fault Refusal :=
  done (syncOp port check.toNat s)

/-- WRITE_OWNER (R343). -/
def execWriteOwner (port : PortId) (addr : Word) (data : List Word) (mac : Word)
    (s : State) : Host.Outcome State Fault Refusal :=
  done (writeOwnerOp port addr.toNat (data.map (·.toNat)) mac.toNat s)

/-- UNKNOWN_OPCODE (R340). -/
def execUnknownOpcode (port : PortId) (frame : List Byte) (s : State) : Host.Outcome State Fault Refusal :=
  done (unknownOpcodeOp port (frame.map (·.toNat)) s)

/-- POSTED_WRITE_EXECUTE (R343). -/
def execPostedWriteExecute (port : PortId) (s : State) : Host.Outcome State Fault Refusal :=
  done (postedWriteExecuteOp port s)

/-- POSTED_READ_PERFORM (R342). -/
def execPostedReadPerform (port : PortId) (tag : BitVec 3) (s : State) : Host.Outcome State Fault Refusal :=
  done (postedReadPerformOp port tag.toNat s)

/-- I3C_PRIVATE_READ (R346). -/
def execI3cPrivateRead (s : State) : Host.Outcome State Fault Refusal :=
  done (i3cPrivateReadOp s)

/-- ENTDAA (R346). -/
def execEntdaa (addr : BitVec 7) (s : State) : Host.Outcome State Fault Refusal :=
  done (entdaaOp addr.toNat s)

/-- SETDASA (R346). -/
def execSetdasa (static addr : BitVec 7) (s : State) : Host.Outcome State Fault Refusal :=
  done (setdasaOp static.toNat addr.toNat s)

/-- SETNEWDA (R346). -/
def execSetnewda (old addr : BitVec 7) (s : State) : Host.Outcome State Fault Refusal :=
  done (setnewdaOp old.toNat addr.toNat s)

/-- RSTDAA (R346). -/
def execRstdaa (s : State) : Host.Outcome State Fault Refusal :=
  done (rstdaaOp s)

/-- GETPID (R346). -/
def execGetpid (s : State) : Host.Outcome State Fault Refusal :=
  done (getpidOp s)

/-- GETBCR (R346). -/
def execGetbcr (s : State) : Host.Outcome State Fault Refusal :=
  done (getbcrOp s)

/-- GETDCR (R346). -/
def execGetdcr (s : State) : Host.Outcome State Fault Refusal :=
  done (getdcrOp s)

/-- GETSTATUS (R346). -/
def execGetstatus (s : State) : Host.Outcome State Fault Refusal :=
  done (getstatusOp s)

/-- ENEC (R346). -/
def execEnec (events : Byte) (s : State) : Host.Outcome State Fault Refusal :=
  done (enecOp events.toNat s)

/-- DISEC (R346). -/
def execDisec (events : Byte) (s : State) : Host.Outcome State Fault Refusal :=
  done (disecOp events.toNat s)

/-- SETMWL (R346). -/
def execSetmwl (n : BitVec 16) (s : State) : Host.Outcome State Fault Refusal :=
  done (setmwlOp n.toNat s)

/-- GETMWL (R346). -/
def execGetmwl (s : State) : Host.Outcome State Fault Refusal :=
  done (getmwlOp s)

/-- SETMRL (R346). -/
def execSetmrl (n : BitVec 16) (s : State) : Host.Outcome State Fault Refusal :=
  done (setmrlOp n.toNat s)

/-- GETMRL (R346). -/
def execGetmrl (s : State) : Host.Outcome State Fault Refusal :=
  done (getmrlOp s)

end Sys2Proof.Machine
end

