-- ==== Sys2Proof/Machine/Spdm.lean ====
section
/-!
DEFINITION. The SPDM responder of SEC (R470), with the messages of DMTF SPDM 1.3 (DSP0274; log entry 168).
-/

namespace Sys2Proof.Machine

open Sys2Proof

/-! ### Measurements -/

/-- The contents of the measurement blocks 1 to 5, each with its type: 0 immutable ROM, 1 firmware, 3 its configuration,
2 hardware configuration, and 0x80 for a raw bit stream. -/
def measurements (s : State) : List (Nat × List Nat) :=
  let key (n : Nat) : List Nat := toBytesBE 48 (sha (toBytesBE 96 (Config.vendorKey n).toNat))
  let keys := key 0 ++ key 1 ++ s.fuses.owners.flatMap fun k => toBytesBE 48 (sha (toBytesBE 96 k))
  [ (0, toBytesBE 48 Config.romDigest.toNat),
    (1, toBytesBE 48 (sha (toBytesBE 48 s.boot.digest ++ toBytesBE 4 s.boot.svn))),
    (3, toBytesBE 48 s.boot.profile),
    (0x82, toBytesLE 4 (wordAt s secBlk 0x040) ++ toBytesLE 4 (wordAt s secBlk 0x054)),
    (2, toBytesBE 48 (sha (keys ++ [b2n s.fuses.vendorRevoked, s.fuses.revoked]))) ]

/-- The measurement blocks as they are sent. -/
def measureBlocks (s : State) : List (List Nat) :=
  ((measurements s).zip [1, 2, 3, 4, 5]).map fun m =>
    [m.2, 1] ++ toBytesLE 2 (m.1.2.length + 3) ++ [m.1.1] ++ toBytesLE 2 m.1.2.length ++ m.1.2

/-! ### Messages -/

/-- An ERROR message, in the version that its request asks for. -/
def spdmError (request : List Nat) (code data : Nat) : List Nat :=
  [if request.getD 1 0 = 0x84 then 0x10 else 0x13, 0x7F, code, data]

/-- A signature of the responder over a transcript, under a context of DSP0274: the identity key signs SHA-384 of the
context in its 100 bytes and of SHA-384 of the transcript. -/
def spdmSign (context : String) (transcript : List Nat) (random : Nat) : List Nat :=
  let c := ascii context
  let head := (List.replicate 4 (ascii "dmtf-spdm-v1.3.*")).flatten ++ List.replicate (36 - c.length) 0 ++ c
  toBytesBE 96 (ecdsaSign Config.identityKey.toNat (sha (head ++ toBytesBE 48 (sha transcript))) random)

/-- The certificate chain of slot 0 in the form of SPDM: its length, the digest of its root, and the certificates. -/
def spdmChain0 : List Nat :=
  let c := Config.identityChain
  let after := ((derNext c).map fun r => r.2.length).getD 0
  toBytesLE 2 (c.length + 52) ++ [0, 0] ++ toBytesBE 48 (sha (c.take (c.length - after))) ++ c

/-- The certificate chain of a slot, 0 or 1; that of slot 1 is the owner's, as SET_CERTIFICATE brought it. -/
def State.spdmChain (s : State) (slot : Nat) : List Nat := if slot = 0 then spdmChain0 else s.fuses.chain1

/-- The slots that hold a chain, as bits. -/
def State.spdmSlots (s : State) : Nat := if s.fuses.chain1.isEmpty then 1 else 3

/-- Whether a slot holds a chain. -/
def State.spdmHas (s : State) (slot : Nat) : Bool := slot < 2 && bitAt s.spdmSlots slot = 1

/-- VERSION: 1.3 alone. -/
def spdmVersion : List Nat := [0x10, 0x04, 0, 0, 0, 1] ++ toBytesLE 2 0x1300

/-- CAPABILITIES: CERT, CHAL, MEAS with signature and SET_CERT; 1,020 bytes both ways. -/
def spdmCapabilities : List Nat :=
  [0x13, 0x61, 0, 0, 0, Config.spdmExponent.toNat, 0, 0] ++ toBytesLE 4 0x00080016 ++ toBytesLE 4 1020 ++ toBytesLE 4 1020

/-- ALGORITHMS: of what the requester offers, DMTF measurements, opaque data of format 1, ECDSA on P-384 and SHA-384. -/
def spdmAlgorithms (request : List Nat) : List Nat :=
  let offered (i n : Nat) : Nat := if bitAt (request.getD (i + n / 8) 0) (n % 8) = 1 then 2 ^ n else 0
  [0x13, 0x63, 0, 0] ++ toBytesLE 2 36 ++ [offered 6 0, offered 7 1] ++ toBytesLE 4 (4 * offered 6 0)
    ++ toBytesLE 4 (offered 8 7) ++ toBytesLE 4 (offered 12 1) ++ List.replicate 16 0

/-- DIGESTS: of the chain of each slot that holds one. -/
def State.spdmDigests (s : State) : List Nat :=
  [0x13, 0x01, 3, s.spdmSlots] ++ ([0, 1].filter s.spdmHas).flatMap fun n => toBytesBE 48 (sha (s.spdmChain n))

/-- CERTIFICATE: the portion that a request asks for, of at most 1,012 bytes, and how many bytes remain; or, where it asks
for it, the size of the slot. -/
def State.spdmCertificate (s : State) (request : List Nat) : List Nat :=
  let slot := request.getD 2 0 % 16
  if bitAt (request.getD 3 0) 0 = 1 then [0x13, 0x02, slot, 0] ++ toBytesLE 2 0 ++ toBytesLE 2 4096
  else
    let rest := (s.spdmChain slot).drop (ofBytesLE ((request.drop 4).take 2))
    let n := min (min (ofBytesLE ((request.drop 6).take 2)) 1012) rest.length
    [0x13, 0x02, slot, 0] ++ toBytesLE 2 n ++ toBytesLE 2 (rest.length - n) ++ rest.take n

/-- CHALLENGE_AUTH before its signature. -/
def State.spdmAuth (s : State) (request : List Nat) (nonce : Nat) : List Nat :=
  let slot := request.getD 2 0 % 16
  [0x13, 0x03, slot, s.spdmSlots] ++ toBytesBE 48 (sha (s.spdmChain slot)) ++ toBytesBE 32 nonce
    ++ (if request.getD 3 0 = 0 then [] else toBytesBE 48 (sha (measureBlocks s).flatten)) ++ [0, 0]
    ++ (request.drop 36).take 8

/-- Whether GET_MEASUREMENTS asks for a signature, and how long it is then. -/
def measureSigned (request : List Nat) : Bool := bitAt (request.getD 2 0) 0 = 1
def measureLength (request : List Nat) : Nat := if measureSigned request then 45 else 12

/-- MEASUREMENTS before its signature: no block, one, or all. -/
def State.spdmMeasures (s : State) (request : List Nat) (nonce : Nat) : List Nat :=
  let op := request.getD 3 0
  let blocks := if op = 0 then [] else if op = 0xFF then measureBlocks s else ((measureBlocks s).drop (op - 1)).take 1
  [0x13, 0x60, if op = 0 then 5 else 0, if measureSigned request then request.getD 36 0 % 16 else 0, blocks.length]
    ++ toBytesLE 3 blocks.flatten.length ++ blocks.flatten ++ toBytesBE 32 nonce ++ [0, 0]
    ++ (request.drop (measureLength request - 8)).take 8

/-! ### The responder -/

/-- The request codes that the responder supports: GET_VERSION, GET_CAPABILITIES, NEGOTIATE_ALGORITHMS, GET_DIGESTS,
GET_CERTIFICATE, CHALLENGE, GET_MEASUREMENTS and SET_CERTIFICATE. -/
def spdmCodes : List Nat := [0x84, 0xE1, 0xE3, 0x81, 0x82, 0x83, 0xE0, 0xEE]

/-- Whether every request is answered with ERROR Unspecified: in BLANK, RMA and DECOMMISSIONED, and in lockdown (R459,
R470; log entry 250). -/
def State.spdmClosed (s : State) : Bool :=
  s.fuses.life == 0 || s.fuses.life == 3 || s.fuses.life == 4 || s.getB R.SEC_STAT_LOCKDOWN

/-- The error that a supported request meets, 0 for none: another version than its own, a request out of its place in the
negotiation, or an operand that does not fit; Unspecified where randomness fails or SET_CERTIFICATE is not the owner's
for slot 1. -/
def State.spdmRefuses (s : State) (request : List Nat) (owner : Bool) : Nat :=
  let code := request.getD 1 0
  let slot := request.getD 2 0 % 16
  let n := request.length
  let place := if code = 0xE1 then 1 else if code = 0xE3 then 2 else 3
  if request.getD 0 0 != (if code = 0x84 then 0x10 else 0x13) then 0x41
  else if code != 0x84 && s.sec.spdm.stage != place then 0x04
  else if n < 4 then 0x01
  else if code = 0xE1 then if n < 20 then 0x01 else 0
  else if code = 0xE3 then if n < 32 || n < ofBytesLE ((request.drop 4).take 2) then 0x01 else 0
  else if code = 0x82 then
    if n < 8 || !s.spdmHas slot
        || (bitAt (request.getD 3 0) 0 = 0 && (s.spdmChain slot).length ≤ ofBytesLE ((request.drop 4).take 2)) then 0x01
    else 0
  else if code = 0x83 then
    if n < 44 || !s.spdmHas slot || !([0, 1, 0xFF].contains (request.getD 3 0)) then 0x01
    else if s.getB R.SEC_STAT_TRNG_FAIL then 0x05 else 0
  else if code = 0xE0 then
    let op := request.getD 3 0
    if n < measureLength request || (5 < op && op != 0xFF)
        || (measureSigned request && !s.spdmHas (request.getD 36 0 % 16)) then 0x01
    else if s.getB R.SEC_STAT_TRNG_FAIL then 0x05 else 0
  else if code = 0xEE then if owner && slot = 1 then 0 else 0x05
  else 0

/-- The state with the responder's record changed. -/
def State.putSpdm (s : State) (x : SpdmInt) : State := { s with sec := { s.sec with spdm := x } }

/-- A supported request that meets no error is answered: the messages that later signatures cover are kept, and signed
ones use them up. -/
def spdmServe (request : List Nat) (s : State) : State × List Nat :=
  let code := request.getD 1 0
  let x := s.sec.spdm
  let nonce := s.random 256
  let sign := s.draw.random 384
  if code = 0x84 then
    (s.putSpdm ⟨1, request.take 4 ++ spdmVersion, [], []⟩, spdmVersion)
  else if code = 0xE1 then
    (s.putSpdm { x with stage := 2, negotiation := x.negotiation ++ request.take 20 ++ spdmCapabilities }, spdmCapabilities)
  else if code = 0xE3 then
    let out := spdmAlgorithms request
    let used := request.take (ofBytesLE ((request.drop 4).take 2))
    (s.putSpdm { x with stage := 3, negotiation := x.negotiation ++ used ++ out }, out)
  else if code = 0x81 then
    let out := s.spdmDigests
    (s.putSpdm { x with certificates := x.certificates ++ request.take 4 ++ out, measures := [] }, out)
  else if code = 0x82 then
    let out := s.spdmCertificate request
    (s.putSpdm { x with certificates := x.certificates ++ request.take 8 ++ out, measures := [] }, out)
  else if code = 0x83 then
    let out := s.spdmAuth request nonce
    (s.draw.draw.putSpdm { x with certificates := [], measures := [] }, out ++ spdmSign "responder-challenge_auth signing"
      (x.negotiation ++ x.certificates ++ request.take 44 ++ out) sign)
  else if code = 0xE0 then
    let out := s.spdmMeasures request nonce
    let all := x.measures ++ request.take (measureLength request) ++ out
    if measureSigned request then
      (s.draw.draw.putSpdm { x with certificates := [], measures := [] },
        out ++ spdmSign "responder-measurements signing" (x.negotiation ++ all) sign)
    else (s.draw.putSpdm { x with certificates := [], measures := all }, out)
  else
    let t := s.putSpdm { x with certificates := [], measures := [] }
    (storePut { t with fuses := { t.fuses with chain1 := (request.drop 4).take 4096 } }, [0x13, 0x6E, 1, 0])

/-- SEC answers a request (R470). -/
def spdmAnswer (request : List Nat) (owner : Bool) (s : State) : State × List Nat :=
  let code := request.getD 1 0
  if s.spdmClosed then (s, spdmError request 0x05 0)
  else if !spdmCodes.contains code then (s, spdmError request 0x07 code)
  else
    let e := s.spdmRefuses request owner
    if e != 0 then (s, spdmError request e 0) else spdmServe request s

end Sys2Proof.Machine
end

