-- ==== Sys2Proof/Machine/Firmware.lean ====
section
/-!
DEFINITION. What firmware does: the commands of the mailbox, profiles, and the sequence of start-up (R355, R394, R402 to
R407, R421, R430, R466 to R470).
-/

namespace Sys2Proof.Machine

open Sys2Proof

/-! ### Starting a mailbox command (R355) -/

/-- Whether a slot runs a command that holds later ones back: all but LINK_BRINGUP and CAPTURE, which wait on the line
or on a capture. -/
def State.slotHolds (s : State) (n : Nat) : Bool :=
  s.get (R.FWC_MBX_SLOT_STATE n) == 2 && s.get (R.FWC_MBX_SLOT_OPCODE n) != 0x10
    && s.get (R.FWC_MBX_SLOT_OPCODE n) != 0x30

/-- Whether firmware may start the command of a slot: it is QUEUED, the oldest, and none that runs holds it back. -/
def State.mbxReady (s : State) (n op : Nat) : Bool :=
  s.mbxServes && s.get (R.FWC_MBX_SLOT_STATE n) == 1 && s.get (R.FWC_MBX_SLOT_OPCODE n) == op
    && s.mbx.order.head? == some n && (List.range 4).all fun k => !s.slotHolds k

/-- A command starts: with too few arguments it ends with BAD_ARG. -/
def mbxStart (n op need : Nat) (run : State → State) (s : State) : State :=
  if !s.mbxReady n op then s
  else if s.mbx.lens.getD n 0 < need then mbxEnd n 2 [] s
  else run s

/-- A slot becomes RUNNING. -/
def mbxRun (n : Nat) (s : State) : State :=
  { s with mbx := { s.mbx with order := s.mbx.order.filter (· != n) } }.set (R.FWC_MBX_SLOT_STATE n) 2

/-- The lanes that the low byte of an argument names. -/
def maskLanes (v : Nat) : List Nat := (List.range 8).filter fun l => bitAt v l == 1

/-- Words `i` on of a slot's arguments, as submitted. -/
def State.mbxArgs (s : State) (n i : Nat) : List Nat :=
  (List.range (s.mbx.lens.getD n 0 - i)).map fun k => s.mbxWord n (i + k)

/-! ### FW_INFO, FW_SELECT and STUB_ERASE -/

/-- FW_INFO: the running bank and version, the other bank's version, the anti-rollback count. -/
def fwInfoOp (n : Nat) (s : State) : State :=
  mbxStart n 0x01 0 (fun s =>
    let bank := s.get R.FWC_STAT_BANK
    mbxEnd n 0 [bank + 256 * (s.boot.version % 2 ^ 24), (s.imageAt (bankBase (1 - bank))).field 0xC, s.fuses.fwSvn] s) s

/-- FW_SELECT: the boot record names a bank for the next COLD. -/
def fwSelectOp (n : Nat) (s : State) : State :=
  mbxStart n 0x62 1 (fun s =>
    let bank := s.mbxWord n 0
    if bank < 2 then mbxEnd n 0 [] (bootPut { s.store.boot with bank := bank } s)
    else mbxEnd n 2 [] s) s

/-- STUB_ERASE: a Stub slot is cleared (R454). -/
def stubEraseOp (n : Nat) (s : State) : State :=
  mbxStart n 0x63 1 (fun s =>
    if s.mbxWord n 0 < 8 then mbxEnd n 0 [] (stubErase (s.mbxWord n 0) s) else mbxEnd n 2 [] s) s

/-! ### The lane commands -/

/-- LINK_BRINGUP: the masked lanes are enabled, and the command waits on the line. -/
def linkBringupOp (n : Nat) (s : State) : State :=
  mbxStart n 0x10 2 (fun s =>
    mbxRun n ((maskLanes (s.mbxWord n 0)).foldl (fun s l => if s.laneEn l then s else laneEnableOp l s) s)) s

/-- Whether every masked lane has reached its target: 0 CANDLE, 1 FULL. -/
def State.linkUp (s : State) (w : Nat) : Bool :=
  (maskLanes w).all fun l => s.laneCode l == 3 || (bitAt w 8 == 0 && s.laneCode l == 2)

/-- The response of LINK_BRINGUP: the lane state codes, lane l at [4l + 3 : 4l]. -/
def State.laneCodes (s : State) : Nat := (List.range 8).foldl (fun v l => v + s.laneCode l * 16 ^ l) 0

/-- LINK_RESTART: masked lanes that run re-enter ACQUIRE from their reach-class starting values (R101). -/
def linkRestartOp (n : Nat) (s : State) : State :=
  mbxStart n 0x11 1 (fun s =>
    mbxEnd n 0 [] ((maskLanes (s.mbxWord n 0)).foldl (fun s l =>
      if s.laneEn l && s.laneUp l then enterState l 1 0 true s else s) s)) s

/-- Lanes enter the start-up pass: the cell that is out has yet to be measured (R211, R223). -/
def passBegin (ls : List Nat) (s : State) : State :=
  ls.foldl (fun s l => s.putCal l { s.cal l with passMeasured := false }) s

/-- CAL_STARTUP: the lane part of the start-up pass begins on lanes in OFF (R223). -/
def calStartupOp (n : Nat) (s : State) : State :=
  mbxStart n 0x20 1 (fun s =>
    let ls := maskLanes (s.mbxWord n 0)
    if ls.any fun l => s.laneCode l != 0 then mbxEnd n 2 [] s
    else if s.calDev.startup then mbxEnd n 6 [] s
    else mbxRun n { passBegin ls s with calDev := { s.calDev with
      startupLanes := s.calDev.startupLanes.filter (fun l => !ls.contains l) ++ ls } }) s

/-- CAL_STARTUP ends: the lanes that were still in the pass are reported. -/
def calStartupEnd (n : Nat) (s : State) : State :=
  let ls := (maskLanes (s.mbxWord n 0)).filter fun l =>
    s.calDev.startupLanes.contains l && !s.calDev.startupLeaves.contains l
  let s := passRemove (maskLanes (s.mbxWord n 0)) s
  mbxEnd n 0 [(ls.map (2 ^ ·)).foldl (· + ·) 0] s

/-! ### CAPTURE -/

/-- Firmware writes words in order, up to the first that is not answered OK. -/
def fwcWrites (ws : List (Nat × Nat)) (s : State) : State :=
  match ws with
  | [] => s
  | (a, v) :: ws =>
    match wordWrite .fwc true a v s with
    | (t, .ok) => fwcWrites ws t
    | (t, _) => t

/-- CAPTURE: the capture is claimed as FWC, configured and armed, and the command waits for its end (R113, R114). -/
def captureOp (n : Nat) (s : State) : State :=
  mbxStart n 0x30 4 (fun s =>
    let c := s.mbxWord n 0
    if 2 ≤ c then mbxEnd n 2 [] s
    else if s.get (R.CLAIM_OWNER (capBlk c)) != 0 then mbxEnd n 6 [] s
    else
      let base := (capBlk c).base
      let s := fwcWrites [(base + 0x040, s.mbxWord n 1), (base + 0x044, s.mbxWord n 2), (base + 0x048, 1)] s
      if s.get (R.CAP_STAT_STATE c) = 1 then mbxRun n s else mbxEnd n 6 [] s) s

/-- The claim that a CAPTURE command took is released. -/
def captureRelease (c : Nat) (s : State) : State :=
  if s.get (R.CLAIM_OWNER (capBlk c)) = 3 then s.set (R.CLAIM_OWNER (capBlk c)) 0 else s

/-- A CAPTURE command ends: a capture that still runs is aborted, and the layout is reported. -/
def captureEnd (n result : Nat) (report : Bool) (s : State) : State :=
  let c := s.mbxWord n 0
  let code := s.get (R.CAP_STAT_STATE c)
  let s := if code = 1 || code = 2 then capAbortOp c (capWritten s c) [] s.draw else s
  let b := capBlk c
  mbxEnd n result (if report then [wordAt s b 0x050, wordAt s b 0x054, wordAt s b 0x058, wordAt s b 0x05C] else [])
    (captureRelease c s)

/-! ### SPDM (R470) -/

/-- Bytes as little-endian words, the last one filled with zeros. -/
def bytesWords (bs : List Nat) : List Nat :=
  (List.range ((bs.length + 3) / 4)).map fun i => ofBytesLE ((bs.drop (4 * i)).take 4)

/-- SPDM: one request is relayed to SEC. -/
def spdmOp (n : Nat) (s : State) : State :=
  mbxStart n 0x40 1 (fun s =>
    let count := s.mbxWord n 0
    if 1020 < count || 4 * (s.mbx.lens.getD n 0 - 1) < count then mbxEnd n 2 [] s
    else
      let r := spdmAnswer ((wordsLE (s.mbxArgs n 1)).take count) (s.getB (R.FWC_MBX_SLOT_OWNER n)) s
      let out := r.2.take 1020
      mbxEnd n 0 (out.length :: bytesWords out) r.1) s

/-! ### Profiles (R468, R469) -/

/-- The records of a profile: ADDR, MASK and VALUE. -/
def profileRecords (x : Image) : List (Nat × Nat × Nat) :=
  (List.range (x.field 0x14 / 12)).map fun i =>
    let o := 0x400 + 12 * i
    (x.field o, x.field (o + 4), x.field (o + 8))

/-- Whether a profile may name an address: a wait, or a mapped word outside SEC, RST_CTRL and the Granary window. -/
def recordAllowed (a : Nat) : Bool :=
  match targetOf a with
  | none => a == 0xFFFFFFF0
  | some (.granary _) => false
  | some (.reg b off) => b.kind != .sec && !(b.kind == .rst && off == 0x040)
  | some _ => true

/-- Whether a profile slot's image verifies, its records included. -/
def profileVerifies (s : State) (n : Nat) : Bool :=
  let x := s.imageAt (profileBase n)
  imageVerifies s x 2 profileLimit && (profileRecords x).all fun r => recordAllowed r.1

/-- One record is applied by firmware with OWNER-class rights. -/
def recordApply (r : Nat × Nat × Nat) (s : State) : State × Status :=
  let (a, mask, v) := r
  if a = 0xFFFFFFF0 then (s, .ok)
  else if mask = 0xFFFFFFFF then wordWrite .fwc true a v s
  else
    match wordRead .fwc a s with
    | (t, .ok, w) => wordWrite .fwc true a (clearBits w mask + (v &&& mask)) t
    | (t, st, _) => (t, st)

/-- Records are applied in order, from index `i` on, up to the first that is not answered OK, which is given with its
status; a reset of firmware ends them. -/
def recordsApply : Nat → List (Nat × Nat × Nat) → State → State × Option (Nat × Nat)
  | _, [], s => (s, none)
  | i, r :: rs, s =>
    match recordApply r s with
    | (t, .ok) => if t.coldAsserted || t.warmAsserted then (t, none) else recordsApply (i + 1) rs t
    | (t, st) => (t, some (i, Status.code st))

/-- PROFILE_APPLY: the slot is verified again and its records applied. -/
def profileApplyOp (n : Nat) (s : State) : State :=
  mbxStart n 0x50 1 (fun s =>
    let k := s.mbxWord n 0
    if 8 ≤ k then mbxEnd n 2 [] s
    else if !profileVerifies s k then mbxEnd n 4 [] (secEvent 0x12 k s)
    else
      let r := recordsApply 0 (profileRecords (s.imageAt (profileBase k))) (mbxRun n s)
      if !r.1.mbxServes then r.1
      else match r.2 with
        | none => mbxEnd n 0 [] r.1
        | some (i, st) => mbxEnd n 2 [i, st] r.1) s

/-! ### Writing Granary (R355, R426, R427) -/

/-- Where a storing command writes: the first address of its area and its size. -/
def storeArea (s : State) (op w0 : Nat) : Option (Nat × Nat) :=
  if op = 0x51 then some (profileBase (w0 % 8), 0x10000)
  else if op = 0x61 then some (bankBase (1 - s.get R.FWC_STAT_BANK), 0x180000)
  else if w0 = 0 then some (granaryBase + 0x6D5000, 0x1000)
  else if w0 = 1 then some (granaryBase + 0x600000, 0x40000)
  else none

/-- The chunk's bytes enter the competition for Granary as 64-bit words of firmware, joined with the bytes around. -/
def storeBytes (a : Nat) (bs : List Nat) (s : State) : State :=
  let lo := a / 8 * 8
  (List.range ((a + bs.length + 7) / 8 - a / 8)).foldl (fun s i =>
    let w := lo + 8 * i
    let byte (k : Nat) : Nat := if a ≤ k && k < a + bs.length then bs.getD (k - a) 0 else s.byteAt k
    nvsPut 5 (w - granaryBase) (ofBytesLE ((List.range 8).map fun k => byte (w + k))) 1 s) s

/-- A storing command starts: a chunk that does not fit its area ends it with BAD_ARG. -/
def storeOp (n op : Nat) (s : State) : State :=
  mbxStart n op 2 (fun s =>
    let off := s.mbxWord n 1
    let data := wordsLE (s.mbxArgs n 2)
    match storeArea s op (s.mbxWord n 0) with
    | none => mbxEnd n 2 [] s
    | some (base, size) =>
      if off % 4 != 0 || size < off + data.length then mbxEnd n 2 [] s
      else storeBytes (base + off) data (mbxRun n { s with mbx := { s.mbx with fail := false } })) s

/-- PROFILE_STORE: a chunk of a profile. -/
def profileStoreOp (n : Nat) (s : State) : State := storeOp n 0x51 s

/-- GRANARY_WRITE: the CDAC table or the calibration area. -/
def granaryWriteOp (n : Nat) (s : State) : State := storeOp n 0x60 s

/-- FW_STORE: a chunk of an image in the bank that does not run. -/
def fwStoreOp (n : Nat) (s : State) : State := storeOp n 0x61 s

/-- The image or profile of an area loses its MAGIC (R355, R467). -/
def imageDiscard (base : Nat) (s : State) : State := s.putBytes base [0, 0, 0, 0]

/-- The calibration area has been written: what it holds is not in a format that the spec gives. -/
def savedUnknown (s : State) : State :=
  let k := s.freeCount
  let free := (List.zipIdx trimFields).map fun p => (Config.freeValue (k + 1 + p.2) p.1.w).toNat
  { s with freeCount := k + 1 + trimFields.length,
           calDev := { s.calDev with saved := if s.free 1 = 0 then none else some free, copy := s.free 1 } }

/-- The words of a storing command are written: the result, and the verification at the final chunk. -/
def storeEnd (n op : Nat) (s : State) : State :=
  let w0 := s.mbxWord n 0
  let base := ((storeArea s op w0).map (·.1)).getD 0
  let final := bitAt w0 31 == 1
  let s := if op = 0x60 && w0 = 1 then savedUnknown s else s
  if s.mbx.fail then mbxEnd n 8 [] s
  else if op = 0x51 && final && !profileVerifies s (w0 % 8) then
    mbxEnd n 4 [] (imageDiscard base (secEvent 0x12 (w0 % 8) s))
  else if op = 0x61 && final && !imageVerifies s (s.imageAt base) 1 bankLimit then
    mbxEnd n 4 [] (imageDiscard base (firmwareRejected (1 - s.get R.FWC_STAT_BANK) s))
  else mbxEnd n 0 [] s

/-- A storing command is aborted: a word that is being written completes, and a partly stored image is discarded. -/
def storeAbort (n op : Nat) (s : State) : State :=
  let base := ((storeArea s op (s.mbxWord n 0)).map (·.1)).getD 0
  let s := nvsDropFwc s
  mbxEnd n 7 [] (if op = 0x60 then if s.mbxWord n 0 = 1 then savedUnknown s else s else imageDiscard base s)

/-! ### The end of a command that runs -/

/-- A command that runs ends by an abort. -/
def commandAbort (n op : Nat) (s : State) : State :=
  if op = 0x20 then
    mbxEnd n 7 [] (passRemove (maskLanes (s.mbxWord n 0)) s)
  else if op = 0x30 then captureEnd n 7 false s
  else if op = 0x10 then mbxEnd n 7 [] s
  else storeAbort n op s

/-- A command that runs has reached its goal, or its time-out has passed. -/
def commandEnd (n op : Nat) (timeout : Bool) (s : State) : State :=
  if op = 0x10 then
    if s.linkUp (s.mbxWord n 0) then mbxEnd n 0 [s.laneCodes] s
    else if timeout then mbxEnd n 5 [s.laneCodes] s
    else s
  else if op = 0x20 then calStartupEnd n s
  else if op = 0x30 then
    let code := s.get (R.CAP_STAT_STATE (s.mbxWord n 0))
    if code != 1 && code != 2 then captureEnd n 0 true s
    else if timeout then captureEnd n 5 true s
    else s
  else if s.nvsCommands then s
  else storeEnd n op s

/-- MBX_COMMAND_DONE: a RUNNING command ends by an abort, by reaching its goal or by its time-out. -/
def mbxCommandDoneOp (n : Nat) (timeout : Bool) (s : State) : State :=
  if s.mbxServes && s.get (R.FWC_MBX_SLOT_STATE n) = 2 then
    let op := s.get (R.FWC_MBX_SLOT_OPCODE n)
    if bitAt s.mbx.abort n = 1 then commandAbort n op s else commandEnd n op timeout s
  else s

/-! ### Start-up: firmware verification (R404, R461, R467) -/

/-- An anti-rollback counter rises to an image's SVN (R463, R467, R469). -/
def svnRaise (kind svn : Nat) (s : State) : State :=
  let now := if kind = 1 then s.fuses.fwSvn else s.fuses.profileSvn
  if now < svn then
    let f := if kind = 1 then { s.fuses with fwSvn := svn } else { s.fuses with profileSvn := svn }
    secEvent 0x11 kind (storePut { s with fuses := f })
  else s

/-- ROM verifies the bank that the boot record selects, and the other one where it fails; the answer tells whether one
verifies (R404). -/
def bankPick (s : State) : State × Bool :=
  let k := s.boot.bank
  let x (n : Nat) : Image := s.imageAt (bankBase n)
  if imageVerifies s (x k) 1 bankLimit then ({ s.set R.FWC_STAT_BANK k with boot := bootOf s (x k) true }, true)
  else
    let boot := bootOf s (x (1 - k)) false
    let ok := imageVerifies s (x (1 - k)) 1 bankLimit
    let s := ((firmwareRejected k s).set R.RST_BOOT_STAT_ERROR (1 + k)).setB R.RST_STAT_BANK_FALLBACK true
    if ok then ({ s.set R.FWC_STAT_BANK (1 - k) with boot := boot }, true) else (firmwareRejected (1 - k) s, false)

/-- A Granary boot: the sequence goes on with the image, or ends in management-only service (R404, R406). -/
def bankBoot (checkers : List (Nat × List Nat)) (s : State) : State :=
  let r := bankPick s
  if r.2 then bootVerified checkers r.1 else enterMgmtOnly 3 r.1

/-- After WARM or WDT, ROM verifies the image again: a bank of Granary as in SECURE_BOOT. Of an image from the flash or a
download, that firmware runs tells that it has verified (R394; log entry 241). -/
def romAgain (s : State) : State × Bool := if s.get R.RST_STRAP_BOOT = 3 then bankPick s else (s, true)

/-- ROM verifies the image in the external flash. -/
def flashBoot (flash : List Nat) (checkers : List (Nat × List Nat)) (s : State) : State :=
  let x : Image := fun o => flash.getD o 0xFF
  if imageVerifies s x 1 bankLimit then bootVerified checkers { s with boot := bootOf s x false }
  else enterMgmtOnly 4 (imageRejected s)

/-! ### Start-up: the memories (R402, R404, R414, R416, R421, R423, R424) -/

/-- The memories that `tested` picks are marched, and their failing rows repaired (R420, R421, R423). -/
def marchMemories (r : StartupResult) (tested : Nat → Bool) (s : State) : State :=
  (((r.words.map (·.1)).eraseDups).filter tested).foldl (fun s m =>
    rowsRepair m ((r.words.filter (·.1 == m)).map (·.2)) s) s

/-- Scratch is cleared, with valid check bits. -/
def scratchClear (s : State) : State :=
  let s := s.clearBytes scratchBase scratchSize
  { s with store := { s.store with ecc := s.store.ecc.filter fun e =>
      !(scratchBase / 8 ≤ e.1 && e.1 < (scratchBase + scratchSize) / 8) } }

/-- The download modes test and clear scratch, and then wait for an image. -/
def downloadWait (r : StartupResult) (s : State) : State :=
  let s := checkersTest r.checkers s
  if s.phase = 9 then s
  else setPhase 3 ((scratchClear (marchMemories r (· < 4) s)).setB R.RST_BOOT_STAT_WINDOW true)

/-- Whether firmware is downloaded: BOOT = 0b01 or 0b00. -/
def State.downloads (s : State) : Bool := s.get R.RST_STRAP_BOOT < 2

/-- The memories that phase MARCH tests, and the capture memories, of which only the checkers are tested. -/
def marchTests (s : State) (m : Nat) : Bool :=
  (m < 4 && !s.downloads) || (0x10 ≤ m && m ≤ 0x12) || m == 0x20 || m == 0x21 ||
  (0x40 ≤ m && m < 0x50 && (m - 0x40) % 8 < 5)

/-! ### Start-up: the phases (R402, R405 to R407) -/

/-- The calibration area is looked at; what a part is delivered with there is not given: whether a copy is valid, its
trims and its delay record are free values (R241, R427; log entry 183). -/
def calAreaLook (s : State) : State :=
  match s.calDev.delay with
  | some _ => s
  | none =>
    let ok := s.free 1 == 1
    let s := savedUnknown s.draw
    { s with calDev := { s.calDev with delay := some ok } }

/-- The end of BOOT_RECORD: the ports answer, and CAL_OK tells of the delay record in the calibration copy in use;
CLKMODE 0b00 leads to management-only service (R241, R405, R483). -/
def bootRecordEnd (s : State) : State :=
  let s := calAreaLook { s with resets := { s.resets with wick := false }
                                boot := { s.boot with bank := s.store.kept.boot.bank } }
  let s := s.setB R.TIM_STAT_CAL_OK (s.calDev.saved.isSome && s.calDev.delay == some true)
  let s := [BK.madc, .mfil, .tst, .evr].foldl (fun s k => blockFollow (dev k) s) s
  if s.getB R.RST_STAT_STRAP_ERR then enterMgmtOnly 6 s else setPhase 2 s

/-- The end of SECURE_BOOT: a persisting cause of lockdown acts, and firmware comes from the source of BOOT. -/
def secureBootEnd (r : StartupResult) (s : State) : State :=
  let s := if r.fault = 1 || r.fault = 4 then lockdown r.fault s else s
  match s.get R.RST_STRAP_BOOT with
  | 3 => bankBoot r.checkers s
  | 2 => flashBoot (r.flash.map (·.toNat)) r.checkers s
  | _ => downloadWait r s

/-- The slices that LBIST found to fail replace the stored retirements, of which as many are stored as the repair area
takes (R424, R431). -/
def retirementsPut (slices : List Nat) (s : State) : State :=
  let old := s.store.repairs
  let rs := (old.filter fun r => match r with | .slice _ => false | _ => true) ++ slices.map .slice
  if rs = old then s
  else
    let s := if 2048 < rs.length then repairsFull rs s else s
    repairsPut rs 0 (max 1 (max old.length (min 2048 rs.length))) s

/-- LBIST has judged every partition: its results replace the stored retirements (R430, R431). -/
def lbistEnd (r : StartupResult) (s : State) : State :=
  let s := (s.setB R.TST_LBIST_STAT_RAN true).setB R.TST_LBIST_STAT_CENTRAL_FAIL r.centralFail
  let s := [0, 1].foldl (fun s sh =>
    let s := s.set (R.TST_LBIST_STAT_SHEAF_FAIL sh) (bitAt r.sheafFail.toNat sh)
    s.set (R.TST_LBIST_STAT_SLICE_FAIL sh)
      (((List.range 5).filter fun k => r.sliceFail.contains (5 * sh + k)).foldl (fun v k => v + 2 ^ k) 0)) s
  let s := retirementsPut (r.sliceFail.filter (· < 10)) s
  let b := s.store.boot
  let s := if b.once then bootPut { b with lbist := false, once := false } s else s
  let s := (s.setB R.TST_CFG_LBIST_BOOT s.store.boot.lbist).irq (dev .tst) 0
  let s := if r.centralFail || r.sheafFail != 0 || r.sliceFail.any (· < 10) then s.irq (dev .tst) 1 else s
  if r.centralFail then enterMgmtOnly 7 s else marchBegin r.checkers s

/-- The march has cleared the memories of every slice (R402, R416). -/
def slicesClear (s : State) : State :=
  (List.range 16).foldl (fun s i =>
    if i % 8 < 5 then eccFresh (0x40 + i) 0 (memWords (0x40 + i)) (memoriesClear (0x40 + i) s) else s) s

/-- The march has cleared FWC's data memory and the buffers, and FW_START is about to load the instruction memory: their
words have valid check bits (R416, R421). -/
def centralClear (s : State) : State :=
  [0x10, 0x11, 0x12].foldl (fun s m => eccFresh m 0 (memWords m) s) s

/-- The end of MARCH: memories are repaired and cleared, the trims are loaded from Granary, as any lane may start from
now on, and the sheaves start (R32, R117; log entry 197). -/
def marchEnd (r : StartupResult) (s : State) : State :=
  let s := marchMemories r (marchTests s) s
  let s := slicesClear (centralClear (if s.downloads then s else scratchClear s))
  if s.phase = 9 then s else capFollow 1 (capFollow 0 (setPhase 6 (loadTrims s)))

/-- Firmware applies the boot profile: the lowest slot with FLAGS.BOOT (R469). -/
def bootProfile (s : State) : State :=
  match (List.range 8).find? fun n =>
      let x := s.imageAt (profileBase n); x.magic && bitAt (x.field 0x18) 0 == 1 with
  | none => s
  | some n =>
    let x := s.imageAt (profileBase n)
    if profileVerifies s n then
      let s := svnRaise 2 (x.field 0x10) { s with boot := { s.boot with profile := ofBytesBE (x.seg 0x20 48) } }
      (recordsApply 0 (profileRecords x) s).1
    else secEvent 0x12 n s

/-- The start-up pass begins with a REF_ANCHOR run (R223, R227). -/
def startPassAnchor (s : State) : State :=
  if s.getB R.CAL_CFG_ANCHOR_EN then
    { s with calDev := { s.calDev with anchor := 1, anchorTaken := 0, anchorBad := false } }.setB
      R.CAL_STAT_ANCHOR_BUSY true
  else s

/-- Phase CALIBRATION begins: the start-up pass starts from the stored trims, without the lanes of a sheaf in reset, and
leaves those that run at their next window boundary; firmware applies the boot profile. A sheaf that SHEAF has reset
since the release of COLD is left out, also where it is no longer in reset (R223, R224, R407). -/
def enterCalibration (s : State) : State :=
  let s := madcRefWriteOp true (setPhase 7 s)
  let ls := (List.range 8).filter fun l => !s.sheafReset (l / 4) && !s.boot.sheaves.contains (l / 4)
  let s := (s.setB R.CAL_STAT_STARTUP_DONE false).setB R.CAL_STAT_STARTUP_PARTIAL (ls.length != 8)
  bootProfile <| startPassAnchor { passBegin ls s with calDev := { s.calDev with
    startup := true, startupLanes := ls, startupLeaves := ls.filter fun l => s.laneCode l != 0 } }

/-- Firmware runs, the watchdog is armed, and an old vendor key is revoked (R395, R461). -/
def firmwareStarts (s : State) : State :=
  let s := (s.setB R.FWC_STAT_RUNNING true).setB R.RST_WDT_CFG_RUNNING true
  if s.boot.revoke then { s with fuses := { s.fuses with vendorRevoked := true } } else s

/-- Firmware runs for the first time in this start-up; under a hold management-only service follows (R398, R406). -/
def firmwareFirst (s : State) : State :=
  let s := firmwareStarts s
  if s.held then enterMgmtOnly 8 s else enterCalibration s

/-- The end of FW_START; where WARM or WDT fell into it, ROM has verified the image again, and WARM_DONE is raised (R394,
R407). -/
def fwStartEnd (s : State) : State :=
  if s.boot.warmed then
    let r := romAgain s
    if r.2 then firmwareFirst ({ r.1 with boot := { r.1.boot with warmed := false } }.irq rstBlk 2)
    else enterMgmtOnly 3 r.1
  else firmwareFirst s

/-- The end of CALIBRATION: unsigned slots are signed, the firmware counter rises after a normal boot, and service
begins (R456, R467). -/
def calibrationEnd (s : State) : State :=
  if s.held then enterMgmtOnly 8 s
  else if s.getB R.CAL_STAT_STARTUP_DONE then
    let s := signLater s
    let s := if s.boot.normal then svnRaise 1 s.boot.svn s else s
    lanesConsider (levelApply ((setPhase 8 s).irq rstBlk 0))
  else s

/-- STARTUP_PHASE_DONE: the work of the present phase is done; `r` is what its tests show. DOWNLOAD_WAIT ends with
BOOT_GO; FW_START does not end under a reset of firmware. -/
def startupPhaseDoneOp (r : StartupResult) (s : State) : State :=
  if s.coldAsserted then s
  else match s.phase with
    | 1 => bootRecordEnd s
    | 2 => secureBootEnd r s
    | 4 => lbistEnd r s
    | 5 => marchEnd r s
    | 6 => if s.warmAsserted then s else fwStartEnd s
    | 7 => calibrationEnd s
    | _ => s

/-! ### After WARM or WDT (R394, R407) -/

/-- Whether firmware may run again: it ran before the reset, which is over; in management-only service it runs where a
hold was the cause of entry (R406). -/
def State.mayRestart (s : State) : Bool :=
  !s.coldAsserted && !s.warmAsserted && !s.fwcRunning && s.fuses.life != 4
    && (s.phase == 7 || s.phase == 8 || (s.phase == 9 && s.held && s.get R.RST_BOOT_STAT_ERROR == 8))

/-- Coasting lanes return to the state held at entry (R27). -/
def coastReturn (s : State) : State :=
  (List.range 8).foldl (fun s l =>
    if s.laneCode l = 4 then enterState l (if s.coastCandle l then 2 else 3) 0 false s else s) s

/-- FIRMWARE_RUNNING: ROM has verified the image again, RUNNING returns to 1, WARM_DONE is raised and lanes leave COAST;
during CALIBRATION the boot profile is applied again. With no bank that verifies, management-only service follows (R394,
R406, R407). -/
def firmwareRunningOp (s : State) : State :=
  if s.mayRestart then
    let r := romAgain s
    if r.2 then
      let s := coastReturn ((firmwareStarts r.1).irq rstBlk 2)
      if s.phase = 7 then bootProfile s else s
    else enterMgmtOnly 3 r.1
  else s

/-! ### Meanings -/

/-- FW_INFO (R355). -/
def execFwInfo (slot : Fin 4) (s : State) : Host.Outcome State Fault Refusal :=
  done (fwInfoOp slot.val s)

/-- LINK_BRINGUP (R355). -/
def execLinkBringup (slot : Fin 4) (s : State) : Host.Outcome State Fault Refusal :=
  done (linkBringupOp slot.val s)

/-- LINK_RESTART (R355). -/
def execLinkRestart (slot : Fin 4) (s : State) : Host.Outcome State Fault Refusal :=
  done (linkRestartOp slot.val s)

/-- CAL_STARTUP (R355). -/
def execCalStartup (slot : Fin 4) (s : State) : Host.Outcome State Fault Refusal :=
  done (calStartupOp slot.val s)

/-- CAPTURE (R355). -/
def execCapture (slot : Fin 4) (s : State) : Host.Outcome State Fault Refusal :=
  done (captureOp slot.val s)

/-- SPDM (R470). -/
def execSpdm (slot : Fin 4) (s : State) : Host.Outcome State Fault Refusal :=
  done (spdmOp slot.val s)

/-- PROFILE_APPLY (R468). -/
def execProfileApply (slot : Fin 4) (s : State) : Host.Outcome State Fault Refusal :=
  done (profileApplyOp slot.val s)

/-- PROFILE_STORE (R355). -/
def execProfileStore (slot : Fin 4) (s : State) : Host.Outcome State Fault Refusal :=
  done (profileStoreOp slot.val s)

/-- GRANARY_WRITE (R355). -/
def execGranaryWrite (slot : Fin 4) (s : State) : Host.Outcome State Fault Refusal :=
  done (granaryWriteOp slot.val s)

/-- FW_STORE (R355). -/
def execFwStore (slot : Fin 4) (s : State) : Host.Outcome State Fault Refusal :=
  done (fwStoreOp slot.val s)

/-- FW_SELECT (R355). -/
def execFwSelect (slot : Fin 4) (s : State) : Host.Outcome State Fault Refusal :=
  done (fwSelectOp slot.val s)

/-- STUB_ERASE (R355). -/
def execStubErase (slot : Fin 4) (s : State) : Host.Outcome State Fault Refusal :=
  done (stubEraseOp slot.val s)

/-- FIRMWARE_RUNNING (R394). -/
def execFirmwareRunning (s : State) : Host.Outcome State Fault Refusal :=
  done (firmwareRunningOp s)

/-- STARTUP_PHASE_DONE (R402). -/
def execStartupPhaseDone (result : StartupResult) (s : State) : Host.Outcome State Fault Refusal :=
  done (startupPhaseDoneOp result s)

/-- MBX_COMMAND_DONE (R355). -/
def execMbxCommandDone (slot : Fin 4) (timeout : Bool) (s : State) : Host.Outcome State Fault Refusal :=
  done (mbxCommandDoneOp slot.val timeout s)

end Sys2Proof.Machine
end

