-- ==== Sys2Proof/Machine/Dispatch.lean ====
section
/-!
DEFINITION. The dispatch of every command to its meaning, one arm per row of the command table.
-/

namespace Sys2Proof.Machine

open Sys2Proof

/-- The effect of a command on everything but the queue. -/
def exec (ins : Instr) (s : State) : Host.Outcome State Fault Refusal :=
  match ins with
  | .registerWrite req owner addr value => Sys2Proof.Machine.execRegisterWrite req owner addr value s
  | .readClear req addr => Sys2Proof.Machine.execReadClear req addr s
  | .wideLowWordRead req addr => Sys2Proof.Machine.execWideLowWordRead req addr s
  | .wideHighWordWrite req owner addr value => Sys2Proof.Machine.execWideHighWordWrite req owner addr value s
  | .laneEnable l => Sys2Proof.Machine.execLaneEnable l s
  | .laneDisable l => Sys2Proof.Machine.execLaneDisable l s
  | .laneStart l => Sys2Proof.Machine.execLaneStart l s
  | .laneStartDone l => Sys2Proof.Machine.execLaneStartDone l s
  | .laneStopDone l => Sys2Proof.Machine.execLaneStopDone l s
  | .rateChange l half => Sys2Proof.Machine.execRateChange l half s
  | .modeChange l mode => Sys2Proof.Machine.execModeChange l mode s
  | .assistChange l on => Sys2Proof.Machine.execAssistChange l on s
  | .assistRealign l => Sys2Proof.Machine.execAssistRealign l s
  | .dimReqSet l => Sys2Proof.Machine.execDimReqSet l s
  | .dimReqClear l => Sys2Proof.Machine.execDimReqClear l s
  | .sliceReassign l slice => Sys2Proof.Machine.execSliceReassign l slice s
  | .converterFailed l c => Sys2Proof.Machine.execConverterFailed l c s
  | .laneCandle l => Sys2Proof.Machine.execLaneCandle l s
  | .laneFull l => Sys2Proof.Machine.execLaneFull l s
  | .pllLock sh host => Sys2Proof.Machine.execPllLock sh host s
  | .pllLossOfLock sh host => Sys2Proof.Machine.execPllLossOfLock sh host s
  | .txFrame l a b => Sys2Proof.Machine.execTxFrame l a b s
  | .txSuperframeBoundary l => Sys2Proof.Machine.execTxSuperframeBoundary l s
  | .trainingBurstStart l => Sys2Proof.Machine.execTrainingBurstStart l s
  | .rxPilotField l frame field => Sys2Proof.Machine.execRxPilotField l frame field s
  | .pilotLock l => Sys2Proof.Machine.execPilotLock l s
  | .pilotLockLoss l => Sys2Proof.Machine.execPilotLockLoss l s
  | .rxSfcReceived l v => Sys2Proof.Machine.execRxSfcReceived l v s
  | .scrLock l => Sys2Proof.Machine.execScrLock l s
  | .scrLockLoss l => Sys2Proof.Machine.execScrLockLoss l s
  | .idecResume l => Sys2Proof.Machine.execIdecResume l s
  | .dimEntry l => Sys2Proof.Machine.execDimEntry l s
  | .dimExit l => Sys2Proof.Machine.execDimExit l s
  | .losSet l amp => Sys2Proof.Machine.execLosSet l amp s
  | .losRawClear l amp => Sys2Proof.Machine.execLosRawClear l amp s
  | .losClear l => Sys2Proof.Machine.execLosClear l s
  | .dimSignalTimeout l => Sys2Proof.Machine.execDimSignalTimeout l s
  | .rxSuperframeUpdate l u => Sys2Proof.Machine.execRxSuperframeUpdate l u s
  | .agcDone l => Sys2Proof.Machine.execAgcDone l s
  | .trLockAcquired l => Sys2Proof.Machine.execTrLockAcquired l s
  | .trLockLost l => Sys2Proof.Machine.execTrLockLost l s
  | .hostClockSlewDone l => Sys2Proof.Machine.execHostClockSlewDone l s
  | .echoSearch l peaks => Sys2Proof.Machine.execEchoSearch l peaks s
  | .adaptFreeze l v => Sys2Proof.Machine.execAdaptFreeze l v s
  | .ffeCommit l => Sys2Proof.Machine.execFfeCommit l s
  | .ffeCommitApply l => Sys2Proof.Machine.execFfeCommitApply l s
  | .ffeSnap l => Sys2Proof.Machine.execFfeSnap l s
  | .warmStartTimeout l => Sys2Proof.Machine.execWarmStartTimeout l s
  | .ffeConverged l => Sys2Proof.Machine.execFfeConverged l s
  | .mlseConverged l => Sys2Proof.Machine.execMlseConverged l s
  | .measWindowEnd l h1 h2 => Sys2Proof.Machine.execMeasWindowEnd l h1 h2 s
  | .histStart l => Sys2Proof.Machine.execHistStart l s
  | .histDone l => Sys2Proof.Machine.execHistDone l s
  | .capArm sh req => Sys2Proof.Machine.execCapArm sh req s
  | .capAbort sh written taken => Sys2Proof.Machine.execCapAbort sh written taken s
  | .capFill sh req => Sys2Proof.Machine.execCapFill sh req s
  | .capFillDone sh => Sys2Proof.Machine.execCapFillDone sh s
  | .capTrigger sh written => Sys2Proof.Machine.execCapTrigger sh written s
  | .capDone sh pos taken => Sys2Proof.Machine.execCapDone sh pos taken s
  | .idecFrame l f x => Sys2Proof.Machine.execIdecFrame l f x s
  | .idecClr l => Sys2Proof.Machine.execIdecClr l s
  | .idecWindowEnd l => Sys2Proof.Machine.execIdecWindowEnd l s
  | .ocCodeword l set word carriers => Sys2Proof.Machine.execOcCodeword l set word carriers s
  | .gbxOcClr l => Sys2Proof.Machine.execGbxOcClr l s
  | .squelchOn l => Sys2Proof.Machine.execSquelchOn l s
  | .squelchOff l => Sys2Proof.Machine.execSquelchOff l s
  | .txpCommit l => Sys2Proof.Machine.execTxpCommit l s
  | .txpCommitApply l => Sys2Proof.Machine.execTxpCommitApply l s
  | .txpSnap l => Sys2Proof.Machine.execTxpSnap l s
  | .txAdaptStep l fir pd => Sys2Proof.Machine.execTxAdaptStep l fir pd s
  | .fsWrite l fs => Sys2Proof.Machine.execFsWrite l fs s
  | .patternSelect l sel half level => Sys2Proof.Machine.execPatternSelect l sel half level s
  | .ldisWrite l dis auto => Sys2Proof.Machine.execLdisWrite l dis auto s
  | .ldisTripClear l => Sys2Proof.Machine.execLdisTripClear l s
  | .txRateResume l => Sys2Proof.Machine.execTxRateResume l s
  | .txSliceResume l => Sys2Proof.Machine.execTxSliceResume l s
  | .hostLosSet h amp => Sys2Proof.Machine.execHostLosSet h amp s
  | .hostLosClear h amp => Sys2Proof.Machine.execHostLosClear h amp s
  | .cdrLock h freq long => Sys2Proof.Machine.execCdrLock h freq long s
  | .cdrLockLoss h => Sys2Proof.Machine.execCdrLockLoss h s
  | .hostRxEqDone h ctle dfe1 ffe => Sys2Proof.Machine.execHostRxEqDone h ctle dfe1 ffe s
  | .hsdRxFreeze h on => Sys2Proof.Machine.execHsdRxFreeze h on s
  | .hsdTxEqWrite h pre2 pre1 post1 swing => Sys2Proof.Machine.execHsdTxEqWrite h pre2 pre1 post1 swing s
  | .hsdInvert h rx tx => Sys2Proof.Machine.execHsdInvert h rx tx s
  | .trainRestart h => Sys2Proof.Machine.execTrainRestart h s
  | .trainRequest h q => Sys2Proof.Machine.execTrainRequest h q s
  | .trainResponseTimeout h => Sys2Proof.Machine.execTrainResponseTimeout h s
  | .trainTimeout h => Sys2Proof.Machine.execTrainTimeout h s
  | .trainDone h => Sys2Proof.Machine.execTrainDone h s
  | .amPeriod l p => Sys2Proof.Machine.execAmPeriod l p s
  | .portWWrite l w => Sys2Proof.Machine.execPortWWrite l w s
  | .txClockSlewDone l => Sys2Proof.Machine.execTxClockSlewDone l s
  | .prbsGenSelect h g => Sys2Proof.Machine.execPrbsGenSelect h g s
  | .prbsChkSelect h c => Sys2Proof.Machine.execPrbsChkSelect h c s
  | .prbsLock h => Sys2Proof.Machine.execPrbsLock h s
  | .prbsLoss h compared errors => Sys2Proof.Machine.execPrbsLoss h compared errors s
  | .prbsClr h => Sys2Proof.Machine.execPrbsClr h s
  | .calWindowEnd lane w => Sys2Proof.Machine.execCalWindowEnd lane w s
  | .calApplyStep lane => Sys2Proof.Machine.execCalApplyStep lane s
  | .dacCellSwap l => Sys2Proof.Machine.execDacCellSwap l s
  | .calStartupDone => Sys2Proof.Machine.execCalStartupDone s
  | .calSave => Sys2Proof.Machine.execCalSave s
  | .calSaveDone => Sys2Proof.Machine.execCalSaveDone s
  | .refAnchorTimeout => Sys2Proof.Machine.execRefAnchorTimeout s
  | .calIntervalExpiry => Sys2Proof.Machine.execCalIntervalExpiry s
  | .calRun lanes => Sys2Proof.Machine.execCalRun lanes s
  | .calAnchor => Sys2Proof.Machine.execCalAnchor s
  | .calRecSelect lane item => Sys2Proof.Machine.execCalRecSelect lane item s
  | .timeClockChange period => Sys2Proof.Machine.execTimeClockChange period s
  | .fineReady => Sys2Proof.Machine.execFineReady s
  | .timeSet => Sys2Proof.Machine.execTimeSet s
  | .timeStep => Sys2Proof.Machine.execTimeStep s
  | .sftsSelect l rx => Sys2Proof.Machine.execSftsSelect l rx s
  | .ppsInEdge falling stamp => Sys2Proof.Machine.execPpsInEdge falling stamp s
  | .hostOfsWrite v => Sys2Proof.Machine.execHostOfsWrite v s
  | .sourceLoss => Sys2Proof.Machine.execSourceLoss s
  | .servoSrcWrite v => Sys2Proof.Machine.execServoSrcWrite v s
  | .trefQualified => Sys2Proof.Machine.execTrefQualified s
  | .trefLos => Sys2Proof.Machine.execTrefLos s
  | .trefFreqWrite f => Sys2Proof.Machine.execTrefFreqWrite f s
  | .ppsOutEnable => Sys2Proof.Machine.execPpsOutEnable s
  | .ppsOutDisable => Sys2Proof.Machine.execPpsOutDisable s
  | .ppsOutOfsWrite v => Sys2Proof.Machine.execPpsOutOfsWrite v s
  | .ppsOutAlarmWrite k => Sys2Proof.Machine.execPpsOutAlarmWrite k s
  | .ppsOutPulseEnd => Sys2Proof.Machine.execPpsOutPulseEnd s
  | .oscLearnUpdate y t => Sys2Proof.Machine.execOscLearnUpdate y t s
  | .oscEpochAdvance => Sys2Proof.Machine.execOscEpochAdvance s
  | .oscClear => Sys2Proof.Machine.execOscClear s
  | .holdoverPredict second => Sys2Proof.Machine.execHoldoverPredict second s
  | .alarmCtrlWrite k v req => Sys2Proof.Machine.execAlarmCtrlWrite k v req s
  | .alarmRelease k req => Sys2Proof.Machine.execAlarmRelease k req s
  | .alarmFire k => Sys2Proof.Machine.execAlarmFire k s
  | .faostHeader l b1 b2 b3 => Sys2Proof.Machine.execFaostHeader l b1 b2 b3 s
  | .faostCell l bytes => Sys2Proof.Machine.execFaostCell l bytes s
  | .reassemblyTimeout l time => Sys2Proof.Machine.execReassemblyTimeout l time s
  | .time l => Sys2Proof.Machine.execTime l s
  | .levelReport l => Sys2Proof.Machine.execLevelReport l s
  | .regRdReq l => Sys2Proof.Machine.execRegRdReq l s
  | .regWrReq l => Sys2Proof.Machine.execRegWrReq l s
  | .regRdRsp l => Sys2Proof.Machine.execRegRdRsp l s
  | .regWrRsp l => Sys2Proof.Machine.execRegWrRsp l s
  | .app l => Sys2Proof.Machine.execApp l s
  | .hello l => Sys2Proof.Machine.execHello l s
  | .helloReply l => Sys2Proof.Machine.execHelloReply l s
  | .cert l => Sys2Proof.Machine.execCert l s
  | .finish l => Sys2Proof.Machine.execFinish l s
  | .alert l => Sys2Proof.Machine.execAlert l s
  | .close l => Sys2Proof.Machine.execClose l s
  | .msgTxPush word => Sys2Proof.Machine.execMsgTxPush word s
  | .faostCellSlot l cell sfc boundary => Sys2Proof.Machine.execFaostCellSlot l cell sfc boundary s
  | .msgQFlush qs => Sys2Proof.Machine.execMsgQFlush qs s
  | .msgTsPop req => Sys2Proof.Machine.execMsgTsPop req s
  | .rxPop => Sys2Proof.Machine.execRxPop s
  | .rxFlush => Sys2Proof.Machine.execRxFlush s
  | .remoteAccessExecute => Sys2Proof.Machine.execRemoteAccessExecute s
  | .levelReportSend l stats => Sys2Proof.Machine.execLevelReportSend l stats s
  | .madcConversion conv slot nv stamp => Sys2Proof.Machine.execMadcConversion conv slot nv stamp s
  | .madcRawCfgWrite conv v req => Sys2Proof.Machine.execMadcRawCfgWrite conv v req s
  | .madcPairWrite pair chain => Sys2Proof.Machine.execMadcPairWrite pair chain s
  | .madcRefWrite en => Sys2Proof.Machine.execMadcRefWrite en s
  | .madcRefSettled => Sys2Proof.Machine.execMadcRefSettled s
  | .mfilCfgWrite c v req => Sys2Proof.Machine.execMfilCfgWrite c v req s
  | .mfilOutput c => Sys2Proof.Machine.execMfilOutput c s
  | .mfilTrippedClear c j => Sys2Proof.Machine.execMfilTrippedClear c j s
  | .cdacTableLoad table => Sys2Proof.Machine.execCdacTableLoad table s
  | .cdacRun n => Sys2Proof.Machine.execCdacRun n s
  | .cdacHold n => Sys2Proof.Machine.execCdacHold n s
  | .cdacFault n => Sys2Proof.Machine.execCdacFault n s
  | .cdacClear n => Sys2Proof.Machine.execCdacClear n s
  | .cdacCodeWrite n code => Sys2Proof.Machine.execCdacCodeWrite n code s
  | .cdacRampStep n => Sys2Proof.Machine.execCdacRampStep n s
  | .cdacSpanWrite n v => Sys2Proof.Machine.execCdacSpanWrite n v s
  | .cdacSpanHoldEnd n => Sys2Proof.Machine.execCdacSpanHoldEnd n s
  | .cdacFvWrite n code => Sys2Proof.Machine.execCdacFvWrite n code s
  | .write port addr data check => Sys2Proof.Machine.execWrite port addr data check s
  | .read port addr len check => Sys2Proof.Machine.execRead port addr len check s
  | .readPost port addr len check => Sys2Proof.Machine.execReadPost port addr len check s
  | .fetch port tag len check => Sys2Proof.Machine.execFetch port tag len check s
  | .sync port check => Sys2Proof.Machine.execSync port check s
  | .writeOwner port addr data mac => Sys2Proof.Machine.execWriteOwner port addr data mac s
  | .unknownOpcode port frame => Sys2Proof.Machine.execUnknownOpcode port frame s
  | .postedWriteExecute port => Sys2Proof.Machine.execPostedWriteExecute port s
  | .postedReadPerform port tag => Sys2Proof.Machine.execPostedReadPerform port tag s
  | .i3cPrivateRead => Sys2Proof.Machine.execI3cPrivateRead s
  | .entdaa addr => Sys2Proof.Machine.execEntdaa addr s
  | .setdasa static addr => Sys2Proof.Machine.execSetdasa static addr s
  | .setnewda old addr => Sys2Proof.Machine.execSetnewda old addr s
  | .rstdaa => Sys2Proof.Machine.execRstdaa s
  | .getpid => Sys2Proof.Machine.execGetpid s
  | .getbcr => Sys2Proof.Machine.execGetbcr s
  | .getdcr => Sys2Proof.Machine.execGetdcr s
  | .getstatus => Sys2Proof.Machine.execGetstatus s
  | .enec events => Sys2Proof.Machine.execEnec events s
  | .disec events => Sys2Proof.Machine.execDisec events s
  | .setmwl n => Sys2Proof.Machine.execSetmwl n s
  | .getmwl => Sys2Proof.Machine.execGetmwl s
  | .setmrl n => Sys2Proof.Machine.execSetmrl n s
  | .getmrl => Sys2Proof.Machine.execGetmrl s
  | .domainWakeDone d => Sys2Proof.Machine.execDomainWakeDone d s
  | .wakeHoldExpiry d => Sys2Proof.Machine.execWakeHoldExpiry d s
  | .wickMatch addr late => Sys2Proof.Machine.execWickMatch addr late s
  | .expertArm b req => Sys2Proof.Machine.execExpertArm b req s
  | .expertUnlock b req => Sys2Proof.Machine.execExpertUnlock b req s
  | .expertRelock b req => Sys2Proof.Machine.execExpertRelock b req s
  | .expertArmTimeout b => Sys2Proof.Machine.execExpertArmTimeout b s
  | .blockEnable b => Sys2Proof.Machine.execBlockEnable b s
  | .blockDisable b => Sys2Proof.Machine.execBlockDisable b s
  | .blockStartDone b => Sys2Proof.Machine.execBlockStartDone b s
  | .blockStopDone b => Sys2Proof.Machine.execBlockStopDone b s
  | .blockSrst b => Sys2Proof.Machine.execBlockSrst b s
  | .blockResetRelease b => Sys2Proof.Machine.execBlockResetRelease b s
  | .claimRelease c req => Sys2Proof.Machine.execClaimRelease c req s
  | .claimForce index res => Sys2Proof.Machine.execClaimForce index res s
  | .irqForce b v => Sys2Proof.Machine.execIrqForce b v s
  | .irqRouteWrite int alarm fwc => Sys2Proof.Machine.execIrqRouteWrite int alarm fwc s
  | .mbxSubmit slot opcode len owner => Sys2Proof.Machine.execMbxSubmit slot opcode len owner s
  | .mbxAck slots => Sys2Proof.Machine.execMbxAck slots s
  | .mbxAbort slots => Sys2Proof.Machine.execMbxAbort slots s
  | .fwInfo slot => Sys2Proof.Machine.execFwInfo slot s
  | .linkBringup slot => Sys2Proof.Machine.execLinkBringup slot s
  | .linkRestart slot => Sys2Proof.Machine.execLinkRestart slot s
  | .calStartup slot => Sys2Proof.Machine.execCalStartup slot s
  | .capture slot => Sys2Proof.Machine.execCapture slot s
  | .spdm slot => Sys2Proof.Machine.execSpdm slot s
  | .profileApply slot => Sys2Proof.Machine.execProfileApply slot s
  | .profileStore slot => Sys2Proof.Machine.execProfileStore slot s
  | .granaryWrite slot => Sys2Proof.Machine.execGranaryWrite slot s
  | .fwStore slot => Sys2Proof.Machine.execFwStore slot s
  | .fwSelect slot => Sys2Proof.Machine.execFwSelect slot s
  | .stubErase slot => Sys2Proof.Machine.execStubErase slot s
  | .gpioCfgWrite req g v => Sys2Proof.Machine.execGpioCfgWrite req g v s
  | .gpioEdge g level => Sys2Proof.Machine.execGpioEdge g level s
  | .railGood r => Sys2Proof.Machine.execRailGood r s
  | .railLost r => Sys2Proof.Machine.execRailLost r s
  | .railUv r => Sys2Proof.Machine.execRailUv r s
  | .vioLoss => Sys2Proof.Machine.execVioLoss s
  | .vioReturn => Sys2Proof.Machine.execVioReturn s
  | .vbakLow => Sys2Proof.Machine.execVbakLow s
  | .pwrStateReq t => Sys2Proof.Machine.execPwrStateReq t s
  | .handshakeAnswer i => Sys2Proof.Machine.execHandshakeAnswer i s
  | .handshakeDeferExpiry i => Sys2Proof.Machine.execHandshakeDeferExpiry i s
  | .handshakeTimeout i => Sys2Proof.Machine.execHandshakeTimeout i s
  | .powerStateEntryDone => Sys2Proof.Machine.execPowerStateEntryDone s
  | .powerStateExitDone => Sys2Proof.Machine.execPowerStateExitDone s
  | .wakePin late => Sys2Proof.Machine.execWakePin late s
  | .plCfgWrite v => Sys2Proof.Machine.execPlCfgWrite v s
  | .plAutoLower => Sys2Proof.Machine.execPlAutoLower s
  | .avsFrameDone ok => Sys2Proof.Machine.execAvsFrameDone ok s
  | .avsSettleExpiry => Sys2Proof.Machine.execAvsSettleExpiry s
  | .plChangeDone => Sys2Proof.Machine.execPlChangeDone s
  | .porAssert => Sys2Proof.Machine.execPorAssert s
  | .porRelease => Sys2Proof.Machine.execPorRelease s
  | .resetNAssert => Sys2Proof.Machine.execResetNAssert s
  | .resetNRelease => Sys2Proof.Machine.execResetNRelease s
  | .global => Sys2Proof.Machine.execGlobal s
  | .warm => Sys2Proof.Machine.execWarm s
  | .resetPulseEnd p => Sys2Proof.Machine.execResetPulseEnd p s
  | .sheaf sh on => Sys2Proof.Machine.execSheaf sh on s
  | .coldRelease boot clkmode addr => Sys2Proof.Machine.execColdRelease boot clkmode addr s
  | .wdtKick req key => Sys2Proof.Machine.execWdtKick req key s
  | .wdtExpiry => Sys2Proof.Machine.execWdtExpiry s
  | .firmwareRunning => Sys2Proof.Machine.execFirmwareRunning s
  | .startupPhaseDone result => Sys2Proof.Machine.execStartupPhaseDone result s
  | .bootGo => Sys2Proof.Machine.execBootGo s
  | .scrubRead memid word cls => Sys2Proof.Machine.execScrubRead memid word cls s
  | .scratchBitSet x v => Sys2Proof.Machine.execScratchBitSet x v s
  | .scratchBitClear x v => Sys2Proof.Machine.execScratchBitClear x v s
  | .marchStart memid preserve req => Sys2Proof.Machine.execMarchStart memid preserve req s
  | .marchAbort => Sys2Proof.Machine.execMarchAbort s
  | .marchDone rows => Sys2Proof.Machine.execMarchDone rows s
  | .nvsWordDone ok => Sys2Proof.Machine.execNvsWordDone ok s
  | .nvsCmdWrite => Sys2Proof.Machine.execNvsCmdWrite s
  | .nvsCmdFill count => Sys2Proof.Machine.execNvsCmdFill count s
  | .eccInject word mode => Sys2Proof.Machine.execEccInject word mode s
  | .tstCfgWrite boot once => Sys2Proof.Machine.execTstCfgWrite boot once s
  | .thmSample temps raws => Sys2Proof.Machine.execThmSample temps raws s
  | .pmcSnap => Sys2Proof.Machine.execPmcSnap s
  | .pmcSnapDone => Sys2Proof.Machine.execPmcSnapDone s
  | .pmcOverflow i c => Sys2Proof.Machine.execPmcOverflow i c s
  | .evrLog tag => Sys2Proof.Machine.execEvrLog tag s
  | .stubEventDrain n => Sys2Proof.Machine.execStubEventDrain n s
  | .evrRdSelect i ue => Sys2Proof.Machine.execEvrRdSelect i ue s
  | .evrCommit => Sys2Proof.Machine.execEvrCommit s
  | .stubCommitDone => Sys2Proof.Machine.execStubCommitDone s
  | .nonce owner => Sys2Proof.Machine.execNonce owner s
  | .ownBegin owner => Sys2Proof.Machine.execOwnBegin owner s
  | .ownFinish owner => Sys2Proof.Machine.execOwnFinish owner s
  | .ownEnd owner => Sys2Proof.Machine.execOwnEnd owner s
  | .takeOwnership owner => Sys2Proof.Machine.execTakeOwnership owner s
  | .transfer owner => Sys2Proof.Machine.execTransfer owner s
  | .debugUnlock owner => Sys2Proof.Machine.execDebugUnlock owner s
  | .rma owner => Sys2Proof.Machine.execRma owner s
  | .decommission owner => Sys2Proof.Machine.execDecommission owner s
  | .lockdown owner => Sys2Proof.Machine.execLockdown owner s
  | .secCmdDone => Sys2Proof.Machine.execSecCmdDone s
  | .ownIdleTimeout => Sys2Proof.Machine.execOwnIdleTimeout s
  | .ownBackoffExpiry => Sys2Proof.Machine.execOwnBackoffExpiry s
  | .trngFail => Sys2Proof.Machine.execTrngFail s
  | .tamper cause => Sys2Proof.Machine.execTamper cause s
  | .peerHandshakeTimeout l => Sys2Proof.Machine.execPeerHandshakeTimeout l s
  | .peerHandshakeRetry l => Sys2Proof.Machine.execPeerHandshakeRetry l s
  | .refclkLoss => Sys2Proof.Machine.execRefclkLoss s
  | .refclkRestored => Sys2Proof.Machine.execRefclkRestored s
  | .powerDetectorReady l => Sys2Proof.Machine.execPowerDetectorReady l s
  | .tempValidTimeout => Sys2Proof.Machine.execTempValidTimeout s
  | .mbxCommandDone slot timeout => Sys2Proof.Machine.execMbxCommandDone slot timeout s
  | .trainingAnswer h => Sys2Proof.Machine.execTrainingAnswer h s
  | .realignDone l => Sys2Proof.Machine.execRealignDone l s
  | .backgroundPauseEnd p => Sys2Proof.Machine.execBackgroundPauseEnd p s
  | .gpioPulseEnd g => Sys2Proof.Machine.execGpioPulseEnd g s

end Sys2Proof.Machine
end

