-- ==== Sys2Proof/WellFormed.lean ====
section
/-!
DEFINITION. Which commands are well formed: their operands name blocks and domains that the device has, and lists are of
the lengths that the spec gives.
-/

namespace Sys2Proof

/-- A block of the device (R334). -/
def Blk.wf (b : Blk) : Bool := allBlocks.contains b

/-- A power domain of the device (R365). -/
def Domain.wf : Domain → Bool
  | .sheaf s => s < 2
  | .lane l => l < 8
  | _ => true

/-- A request with an opcode that the ports do not know, over SPI with a CRC at its end (R340). -/
def unknownWf (p : PortId) (frame : List Byte) : Bool :=
  (match frame with
    | [] => false
    | op :: _ => !([0x02, 0x03, 0x0B, 0x0C, 0x0D, 0x12].contains op.toNat))
    && (p == .i3c || 3 ≤ frame.length)

/-- The words of one transaction: 1 to 64 (R341). -/
def wordsWf (data : List Word) : Bool := !data.isEmpty && decide (data.length ≤ 64)

/-- The samples of a stretch hold at least one symbol (R89). -/
def LineSamples.wf (x : LineSamples) : Bool := decide (1134 < x.codes.length)

/-- The samples of one frame (R35, R89). -/
def LineSamples.frameWf (x : LineSamples) : Bool := x.codes.length == 2606

/-- A pilot field has eight symbols (R41). -/
def PilotField.wf (v : PilotField) : Bool := v.z.length == 8 && v.x.length == 8

/-- A window of the start-up pass names every core's three trims (R223). -/
def CalWindow.wf : CalWindow → Bool
  | .pass core => core.map List.length == List.replicate 96 3
  | _ => true

/-- What start-up's tests show names ten slices and two causes of lockdown (R430, R485). -/
def StartupResult.wf (r : StartupResult) : Bool :=
  r.sliceFail.all (· < 10) && (r.fault == 0 || r.fault == 1 || r.fault == 4)

/-- Whether a command's operands exist. -/
def Instr.wf (i : Instr) : Bool :=
  match i with

  | .registerWrite _ _ _ _ => true
  | .readClear _ _ => true
  | .wideLowWordRead _ _ => true
  | .wideHighWordWrite _ _ _ _ => true
  | .laneEnable _ => true
  | .laneDisable _ => true
  | .laneStart _ => true
  | .laneStartDone _ => true
  | .laneStopDone _ => true
  | .rateChange _ _ => true
  | .modeChange _ _ => true
  | .assistChange _ _ => true
  | .assistRealign _ => true
  | .dimReqSet _ => true
  | .dimReqClear _ => true
  | .sliceReassign _ _ => true
  | .converterFailed _ _ => true
  | .laneCandle _ => true
  | .laneFull _ => true
  | .pllLock _ _ => true
  | .pllLossOfLock _ _ => true
  | .txFrame _ a b => a.length ≤ 2720 && b.length ≤ 2720
  | .txSuperframeBoundary _ => true
  | .trainingBurstStart _ => true
  | .rxPilotField _ _ field => field.wf
  | .pilotLock _ => true
  | .pilotLockLoss _ => true
  | .rxSfcReceived _ _ => true
  | .scrLock _ => true
  | .scrLockLoss _ => true
  | .idecResume _ => true
  | .dimEntry _ => true
  | .dimExit _ => true
  | .losSet _ _ => true
  | .losRawClear _ _ => true
  | .losClear _ => true
  | .dimSignalTimeout _ => true
  | .rxSuperframeUpdate _ u => u.samples.wf
  | .agcDone _ => true
  | .trLockAcquired _ => true
  | .trLockLost _ => true
  | .hostClockSlewDone _ => true
  | .echoSearch _ _ => true
  | .adaptFreeze _ _ => true
  | .ffeCommit _ => true
  | .ffeCommitApply _ => true
  | .ffeSnap _ => true
  | .warmStartTimeout _ => true
  | .ffeConverged _ => true
  | .mlseConverged _ => true
  | .measWindowEnd _ _ _ => true
  | .histStart _ => true
  | .histDone _ => true
  | .capArm _ _ => true
  | .capAbort _ _ _ => true
  | .capFill _ _ => true
  | .capFillDone _ => true
  | .capTrigger _ _ => true
  | .capDone _ pos _ => pos.length ≤ 4
  | .idecFrame _ _ x => x.frameWf
  | .idecClr _ => true
  | .idecWindowEnd _ => true
  | .ocCodeword _ _ word carriers => word.length == 544 && word.all (· < 1024) && carriers.length == 544
    && carriers.all (· < 16)
  | .gbxOcClr _ => true
  | .squelchOn _ => true
  | .squelchOff _ => true
  | .txpCommit _ => true
  | .txpCommitApply _ => true
  | .txpSnap _ => true
  | .txAdaptStep _ fir pd => fir.length ≤ 7 && pd.length ≤ 64
  | .fsWrite _ _ => true
  | .patternSelect _ _ _ _ => true
  | .ldisWrite _ _ _ => true
  | .ldisTripClear _ => true
  | .txRateResume _ => true
  | .txSliceResume _ => true
  | .hostLosSet _ _ => true
  | .hostLosClear _ _ => true
  | .cdrLock _ _ _ => true
  | .cdrLockLoss _ => true
  | .hostRxEqDone _ _ _ ffe => ffe.length == 12
  | .hsdRxFreeze _ _ => true
  | .hsdTxEqWrite _ _ _ _ _ => true
  | .hsdInvert _ _ _ => true
  | .trainRestart _ => true
  | .trainRequest _ _ => true
  | .trainResponseTimeout _ => true
  | .trainTimeout _ => true
  | .trainDone _ => true
  | .amPeriod _ _ => true
  | .portWWrite _ _ => true
  | .txClockSlewDone _ => true
  | .prbsGenSelect _ _ => true
  | .prbsChkSelect _ _ => true
  | .prbsLock _ => true
  | .prbsLoss _ _ _ => true
  | .prbsClr _ => true
  | .calWindowEnd _ w => w.wf
  | .calApplyStep _ => true
  | .dacCellSwap _ => true
  | .calStartupDone => true
  | .calSave => true
  | .calSaveDone => true
  | .refAnchorTimeout => true
  | .calIntervalExpiry => true
  | .calRun _ => true
  | .calAnchor => true
  | .calRecSelect _ _ => true
  | .timeClockChange period => decide (0 < period)
  | .fineReady => true
  | .timeSet => true
  | .timeStep => true
  | .sftsSelect _ _ => true
  | .ppsInEdge _ _ => true
  | .hostOfsWrite _ => true
  | .sourceLoss => true
  | .servoSrcWrite _ => true
  | .trefQualified => true
  | .trefLos => true
  | .trefFreqWrite _ => true
  | .ppsOutEnable => true
  | .ppsOutDisable => true
  | .ppsOutOfsWrite _ => true
  | .ppsOutAlarmWrite _ => true
  | .ppsOutPulseEnd => true
  | .oscLearnUpdate _ _ => true
  | .oscEpochAdvance => true
  | .oscClear => true
  | .holdoverPredict _ => true
  | .alarmCtrlWrite _ _ _ => true
  | .alarmRelease _ _ => true
  | .alarmFire _ => true
  | .faostHeader _ _ _ _ => true
  | .faostCell _ bytes => bytes.length == 36 && bytes.all (· < 256)
  | .reassemblyTimeout _ _ => true
  | .time _ => true
  | .levelReport _ => true
  | .regRdReq _ => true
  | .regWrReq _ => true
  | .regRdRsp _ => true
  | .regWrRsp _ => true
  | .app _ => true
  | .hello _ => true
  | .helloReply _ => true
  | .cert _ => true
  | .finish _ => true
  | .alert _ => true
  | .close _ => true
  | .msgTxPush _ => true
  | .faostCellSlot _ _ _ _ => true
  | .msgQFlush _ => true
  | .msgTsPop _ => true
  | .rxPop => true
  | .rxFlush => true
  | .remoteAccessExecute => true
  | .levelReportSend _ stats => stats.length == 64
  | .madcConversion _ _ _ _ => true
  | .madcRawCfgWrite _ _ _ => true
  | .madcPairWrite _ _ => true
  | .madcRefWrite _ => true
  | .madcRefSettled => true
  | .mfilCfgWrite _ _ _ => true
  | .mfilOutput _ => true
  | .mfilTrippedClear _ _ => true
  | .cdacTableLoad _ => true
  | .cdacRun _ => true
  | .cdacHold _ => true
  | .cdacFault _ => true
  | .cdacClear _ => true
  | .cdacCodeWrite _ _ => true
  | .cdacRampStep _ => true
  | .cdacSpanWrite _ _ => true
  | .cdacSpanHoldEnd _ => true
  | .cdacFvWrite _ _ => true
  | .write _ _ data _ => wordsWf data
  | .read _ _ _ _ => true
  | .readPost _ _ _ _ => true
  | .fetch _ _ _ _ => true
  | .sync _ _ => true
  | .writeOwner _ _ data _ => wordsWf data
  | .unknownOpcode port frame => unknownWf port frame
  | .postedWriteExecute _ => true
  | .postedReadPerform _ _ => true
  | .i3cPrivateRead => true
  | .entdaa _ => true
  | .setdasa _ _ => true
  | .setnewda _ _ => true
  | .rstdaa => true
  | .getpid => true
  | .getbcr => true
  | .getdcr => true
  | .getstatus => true
  | .enec _ => true
  | .disec _ => true
  | .setmwl _ => true
  | .getmwl => true
  | .setmrl _ => true
  | .getmrl => true
  | .domainWakeDone d => d.wf
  | .wakeHoldExpiry d => d.wf
  | .wickMatch _ _ => true
  | .expertArm b _ => b.wf
  | .expertUnlock b _ => b.wf
  | .expertRelock b _ => b.wf
  | .expertArmTimeout b => b.wf
  | .blockEnable b => b.wf
  | .blockDisable b => b.wf
  | .blockStartDone b => b.wf
  | .blockStopDone b => b.wf
  | .blockSrst b => b.wf
  | .blockResetRelease b => b.wf
  | .claimRelease _ _ => true
  | .claimForce _ _ => true
  | .irqForce b _ => b.wf
  | .irqRouteWrite _ _ _ => true
  | .mbxSubmit _ _ _ _ => true
  | .mbxAck _ => true
  | .mbxAbort _ => true
  | .fwInfo _ => true
  | .linkBringup _ => true
  | .linkRestart _ => true
  | .calStartup _ => true
  | .capture _ => true
  | .spdm _ => true
  | .profileApply _ => true
  | .profileStore _ => true
  | .granaryWrite _ => true
  | .fwStore _ => true
  | .fwSelect _ => true
  | .stubErase _ => true
  | .gpioCfgWrite _ _ _ => true
  | .gpioEdge _ _ => true
  | .railGood _ => true
  | .railLost _ => true
  | .railUv _ => true
  | .vioLoss => true
  | .vioReturn => true
  | .vbakLow => true
  | .pwrStateReq _ => true
  | .handshakeAnswer _ => true
  | .handshakeDeferExpiry _ => true
  | .handshakeTimeout _ => true
  | .powerStateEntryDone => true
  | .powerStateExitDone => true
  | .wakePin _ => true
  | .plCfgWrite _ => true
  | .plAutoLower => true
  | .avsFrameDone _ => true
  | .avsSettleExpiry => true
  | .plChangeDone => true
  | .porAssert => true
  | .porRelease => true
  | .resetNAssert => true
  | .resetNRelease => true
  | .global => true
  | .warm => true
  | .resetPulseEnd _ => true
  | .sheaf _ _ => true
  | .coldRelease _ _ _ => true
  | .wdtKick _ _ => true
  | .wdtExpiry => true
  | .firmwareRunning => true
  | .startupPhaseDone result => result.wf
  | .bootGo => true
  | .scrubRead _ _ _ => true
  | .scratchBitSet _ _ => true
  | .scratchBitClear _ _ => true
  | .marchStart _ _ _ => true
  | .marchAbort => true
  | .marchDone words => words.all fun w => w.1 < 2 ^ 20 && w.2.length == 10
  | .nvsWordDone _ => true
  | .nvsCmdWrite => true
  | .nvsCmdFill _ => true
  | .eccInject _ _ => true
  | .tstCfgWrite _ _ => true
  | .thmSample temps raws => temps.length == 14 && raws.length == 14
  | .pmcSnap => true
  | .pmcSnapDone => true
  | .pmcOverflow _ _ => true
  | .evrLog _ => true
  | .stubEventDrain _ => true
  | .evrRdSelect _ _ => true
  | .evrCommit => true
  | .stubCommitDone => true
  | .nonce _ => true
  | .ownBegin _ => true
  | .ownFinish _ => true
  | .ownEnd _ => true
  | .takeOwnership _ => true
  | .transfer _ => true
  | .debugUnlock _ => true
  | .rma _ => true
  | .decommission _ => true
  | .lockdown _ => true
  | .secCmdDone => true
  | .ownIdleTimeout => true
  | .ownBackoffExpiry => true
  | .trngFail => true
  | .tamper _ => true
  | .peerHandshakeTimeout _ => true
  | .peerHandshakeRetry _ => true
  | .refclkLoss => true
  | .refclkRestored => true
  | .powerDetectorReady _ => true
  | .tempValidTimeout => true
  | .mbxCommandDone _ _ => true
  | .trainingAnswer _ => true
  | .realignDone _ => true
  | .backgroundPauseEnd _ => true
  | .gpioPulseEnd _ => true

end Sys2Proof
end

