-- ==== Sys2Proof/Safety.lean ====
section
/-!
DEFINITION. What holds of every state that a claim speaks of, and what a claim says that a command does.
-/

namespace Sys2Proof

/-- A field that counting an event can change: the counters of any block and their overflow marks, and the registers
of PMC (R445, R446). -/
def Fld.counter (f : Fld) : Prop :=
  let a := f.key / 256
  (a < 2 ^ 36 ∧ a / 65536 = 0x11) ∨
    (2 ^ 36 ≤ a ∧ ((a - 2 ^ 36) % 16777216 / 256 = 0x1000 ∨ (a - 2 ^ 36) / 16777216 = 0x11))

end Sys2Proof

namespace Sys2Proof.Machine

open Sys2Proof

/-- No event of a command that is over waits to be accepted (R450). -/
def State.settled (s : State) : Bool := s.raised.isEmpty

/-- The register file is in its canonical form: the keys of its fields strictly rise. -/
def State.regsOk (s : State) : Bool := natSorted s.regs

/-- A state between two commands: the register file and the memory are in their canonical forms, and no event waits. -/
def State.Inv (s : State) : Prop := s.regsOk = true ∧ Memory.wf s = true ∧ s.settled = true

/-- The state without its register file and without the Stub's events: what a command leaves as it was here, it leaves
as it was in every lane record, in every memory, in the fuses and in the queue of commands. -/
def State.core (s : State) : State :=
  { s with regs := [], raised := [], evQueue := [], evDropped := 0, evLost := 0, stub := StubInt.reset }

/-- Command `c` runs from `s`: each field of `w` then holds the value beside it; every other field holds what it held,
but for performance counters; and beside registers and Stub events the state is that of `u`. -/
def Effect (c : Instr) (s : State) (w : List (Fld × Nat)) (u : State) : Prop :=
  ∃ t, exec c s = .next t ∧ (∀ p ∈ w, t.get p.1 = p.2) ∧
    (∀ f : Fld, ¬ f.counter → (∀ p ∈ w, p.1.key ≠ f.key) → t.get f = s.get f) ∧ t.core = u.core

/-- Where `g` holds, command `c` has the effect; elsewhere it runs and changes nothing. -/
def EffectIf (g : Bool) (c : Instr) (s : State) (w : List (Fld × Nat)) (u : State) : Prop :=
  if g = true then Effect c s w u else Effect c s [] s

/-- What an interrupt source holds after an event of it: 1, or what it held where its block is in reset (R352, R396). -/
def State.irqAfter (s : State) (b : Blk) (n : Nat) : Fld × Nat :=
  (R.IRQ_RAW_RAW b n, if s.inReset b then s.get (R.IRQ_RAW_RAW b n) else 1)

/-- What a status bit and its change source hold after the bit has taken a value: nothing changes where it had it. -/
def State.changeAfter (s : State) (f : Fld) (new : Bool) (b : Blk) (n : Nat) : List (Fld × Nat) :=
  if s.getB f == new then [] else [s.irqAfter b n, (f, b2n new)]

/-- What an access that block `b` answers with an error leaves: the record of the error (R335). -/
def errorAfter (b : Blk) (req : Requester) (a : Nat) (st : Status) : List (Fld × Nat) :=
  [(R.ERR_CAP_OFFSET b, a % 65536), (R.ERR_CAP_REQ b, Requester.code req), (R.ERR_CAP_CODE b, Status.code st)]

/-- What a write of IDEC_SF_CFG leaves: UNC takes its bits, M and E the values from 1 to 9 and from 3 to 12; another
value is not taken and sets CONFLICT (R146, R335). -/
def State.sfAfter (s : State) (l v : Nat) : List (Fld × Nat) :=
  let m := bits v 0 4
  let e := bits v 4 4
  let mOk := 1 ≤ m ∧ m ≤ 9
  let eOk := 3 ≤ e ∧ e ≤ 12
  [(R.IDEC_SF_CFG_SET_M l, if mOk then m else s.get (R.IDEC_SF_CFG_SET_M l)),
    (R.IDEC_SF_CFG_SET_E l, if eOk then e else s.get (R.IDEC_SF_CFG_SET_E l)), (R.IDEC_SF_CFG_UNC l, bits v 8 16)] ++
  if mOk ∧ eOk then [] else [(R.BLK_STAT_CONFLICT ⟨.idec, l⟩, 1)]

/-- What SEC shows of a command that has ended with a result (R487, R488). -/
def State.secAfter (s : State) (result : Nat) : List (Fld × Nat) :=
  [s.irqAfter (dev .sec) 0, (R.SEC_CMD_STAT_RESULT, result), (R.SEC_CMD_STAT_STATE, 2)]

/-- SEC with no command in progress. -/
def State.secIdle (s : State) : State := { s with sec := { s.sec with op := 0, owner := false } }

/-- What the SHF block shows of a line lane: its state, its cause of FAULT, its configuration and its slice (R33). -/
structure LaneView where
  code : Nat
  cause : Nat
  en : Bool
  rate : Nat
  mode : Nat
  slice : Nat
  deriving DecidableEq, Repr

/-- The view of a lane. -/
def State.laneView (s : State) (l : Nat) : LaneView where
  code := s.laneCode l
  cause := s.get (laneFld R.SHF_LANE_FAULT_CAUSE l)
  en := s.laneEn l
  rate := s.rate l
  mode := s.mode l
  slice := s.slice l

/-- What becomes of a lane that looks at its causes of FAULT: in OFF a hold takes it to FAULT whatever EN, and a missing
slice or a failed converter where EN is set (R29). -/
def LaneView.considered (v : LaneView) (s : State) (l : Nat) : LaneView :=
  if v.code ≠ 0 || s.heldOff l then v
  else if s.held then { v with code := 6, cause := holdCause s }
  else if !v.en then v
  else if v.slice = 7 then { v with code := 6, cause := 3 }
  else if s.converterFailed l then { v with code := 6, cause := 4 }
  else v

/-- Of all line lanes only `l` is seen otherwise than before, and it is seen as `v`. -/
def OnlyLane (s t : State) (l : Nat) (v : LaneView) : Prop :=
  t.laneView l = v ∧ ∀ m, m < 8 → m ≠ l → t.laneView m = s.laneView m

/-- Command `c` runs from `s` and ends in a state of which `P` holds. -/
def Ends (c : Instr) (s : State) (P : State → Prop) : Prop := ∃ t, exec c s = .next t ∧ P t

/-- The view of a lane that passes into another state than FAULT. -/
def State.laneIn (s : State) (l code : Nat) : LaneView := { s.laneView l with code := code, cause := 0 }

/-- Where `g` holds, command `c` takes lane `l` to view `v` and leaves the other lanes' views as they were; elsewhere it
runs and changes nothing. -/
def LaneTo (g : Bool) (c : Instr) (s : State) (l : Nat) (v : LaneView) : Prop :=
  if g = true then Ends c s (fun t => OnlyLane s t l v) else Effect c s [] s

/-- Command `c` runs and leaves of all lanes' views only that of lane `l` otherwise than before: as `v`. -/
def LaneSeen (c : Instr) (s : State) (l : Nat) (v : LaneView) : Prop := Ends c s (fun t => OnlyLane s t l v)

/-- Command `c` runs from `s` and ends in `u`, with the events that it raised accepted. -/
def Runs (c : Instr) (s u : State) : Prop := exec c s = .next (settle u)

end Sys2Proof.Machine
end

