-- ==== Sys2Proof/Certificates/Slice0/Obligations.lean ====
section
/-!
DEFINITION. What is claimed of the model.
-/

open Sys2Proof Sys2Proof.Machine

/-- O1, tier 1: A step runs the command at the front of the queue with the queue's rest (95_what_each_step_holds.md). -/
def Obligations.StepTakesFront : Prop :=
  ∀ (c : Instr) (rest : List Instr) (s : State),
  step { s with pending := c :: rest } = exec c { s with pending := rest }

/-- O2, tier 1: With an empty queue the time counter counts one tick and nothing else changes (the model's choice of
where time passes: log entry 2) (R236, R237). The rounding of a tick to the counter's resolution is the model's
choice too (log entry 75). -/
def Obligations.IdleTick : Prop :=
  ∀ s : State, s.pending = [] → s.tim.waiting = [] → s.tim.servoStep = none → s.tim.srcOld = none → step s = .next
  (if s.resets.por = true then s
   else { s with
     time := (s.time + ((s.tim.period : Int) * (2 ^ 40 + s.timRate) / 2 ^ 40).toNat) % (timeModulus * 2 ^ 32),
     elapsed := s.elapsed + s.tim.period })

/-- O3, tier 2: The steps of TIM_CTRL and of the servo take effect at the next tick, and those of TIM_CTRL replace the
servo's (R236, R237, R240). Where ticks happen, that a load keeps the fraction of a unit, and the order of several
waiting steps are the model's choices (log entries 2, 75 and 76); no rule is cited for them. -/
def Obligations.StepsAtTick : Prop :=
  let modulus : Nat := 2 ^ 48 * 1000000000 * 2 ^ 48
  (∀ s : State, let v := s.get R.TIM_SET_TIME
    if 1000000000 ≤ bits v 16 30 then Effect .timeSet s [(R.BLK_STAT_CONFLICT (dev .tim), 1)] s
    else Effect .timeSet s [] { s with tim := { s.tim with waiting := s.tim.waiting ++
      [.load ((bits v 46 48 * 1000000000 * 2 ^ 16 + bits v 16 30 * 2 ^ 16 + bits v 0 16) * 2 ^ 32)] } }) ∧
  (∀ s : State, Effect .timeStep s [] { s with tim := { s.tim with waiting := s.tim.waiting ++
    [.add (s.getI R.TIM_STEP_STEP * 2 ^ 32)] } }) ∧
  ∀ s : State, s.pending = [] → s.resets.por = false →
    ∃ t, step s = .next t ∧ t.tim.waiting = [] ∧ t.tim.servoStep = none ∧ t.tim.srcOld = none ∧
      t.elapsed = s.elapsed + s.tim.period ∧
      t.time = List.foldl (fun (x : Nat) (w : CounterStep) => match w with
          | .load v => v + x % 2 ^ 32
          | .add d => (((x : Int) + d) % (modulus : Int)).toNat)
        ((s.time + ((s.tim.period : Int) * (2 ^ 40 + s.timRate) / 2 ^ 40).toNat) % modulus)
        (if s.tim.waiting = [] then s.tim.servoStep.toList.map CounterStep.add else s.tim.waiting)

/-- O4, tier 1: No word spells a command (95_what_each_step_holds.md). That the block has no words of its own, so that
these two do nothing, is the model's choice (log entry 4); no rule is cited for it. -/
def Obligations.NoWords : Prop :=
  ∀ (nbits w : Nat), decodeTableWord nbits w = none ∧ ∀ s : State, s.withFetchWord nbits w = s

/-- O5, tier 1: The state after power-on reset (R5, R8, R389, R402, R403). -/
def Obligations.ResetState : Prop :=
  (∀ f : Fld, State.reset.get f = f.rst) ∧ State.reset.mem = [] ∧ State.reset.pending = [] ∧
  State.reset.coldAsserted = true ∧ (∀ l, State.reset.laneCode l = 0) ∧ State.reset.Inv

/-- O6, tier 3: Every step keeps the canonical forms of registers and memory and leaves no event waiting (R5, R425,
R450). -/
def Obligations.InvariantKept : Prop :=
  ∀ s t : State, s.Inv → step s = .next t → t.Inv

/-- O7, tier 3: No command changes the queue of commands (95_what_each_step_holds.md). -/
def Obligations.QueueKept : Prop :=
  ∀ (c : Instr) (s t : State), exec c s = .next t → t.pending = s.pending

/-- O8, tier 1: A field reads the value written to it in its width, and a write changes no other field (R3, R5). -/
def Obligations.FieldWrites : Prop :=
  ∀ (s : State) (f : Fld) (v : Nat), (s.set f v).get f = v % 2 ^ f.w ∧
  (∀ g : Fld, g.key ≠ f.key → (s.set f v).get g = s.get g) ∧ (s.regsOk = true → (s.set f v).regsOk = true)

/-- O9, tier 2: A byte of memory reads the value written to it, and a write changes no other byte (R3, R410, R425). -/
def Obligations.MemoryBytes : Prop :=
  ∀ (s : State) (a v : Nat), (s.putByte a v).byteAt a = v % 256 ∧
  (∀ b, b ≠ a → (s.putByte a v).byteAt b = s.byteAt b) ∧ (Memory.wf s = true → Memory.wf (s.putByte a v) = true)

/-- O10, tier 2: The Stub's input queue takes a command's events in order as far as it has room and counts the others as
dropped (R449, R450). The order of events that tie is the model's choice (log entry 14), of which nothing is said
here. -/
def Obligations.EventQueue : Prop :=
  (∀ es : List StubEvent, List.Perm (eventSort es) es ∧
    List.Pairwise (fun a b => eventBefore b a = false) (eventSort es)) ∧
  (∀ s : State,
    let taken := (eventSort s.raised).take (16 - s.evQueue.length)
    let drops := s.raised.length - (16 - s.evQueue.length)
    (taken = [] → (settle s).evQueue = s.evQueue ∧ (settle s).evDropped = s.evDropped + drops) ∧
    (∀ e rest, taken = e :: rest → (settle s).evQueue = s.evQueue ++ { e with lost := s.evDropped } :: rest ∧
      (settle s).evDropped = drops)) ∧
  ∀ s : State, s.evQueue.length ≤ 16 → (settle s).evQueue.length ≤ 16 ∧ (settle s).raised = []

/-- O11, tier 1: An access whose address is not a multiple of 4 (R4, R335). -/
def Obligations.MisalignedAccess : Prop :=
  ∀ (s : State) (req : Requester) (owner : Bool) (a v : Nat), a % 4 ≠ 0 →
  wordRead req a s = (errorNote req a .errAddr s, .errAddr, 0xFFFFFFFF) ∧
  wordWrite req owner a v s = (errorNote req a .errAddr s, .errAddr)

/-- O12, tier 1: An interrupt source sets its bit unless its block is in reset (R352, R396, R445). That a block in reset
also counts nothing is the model's choice (log entry 13); no rule is cited for it. -/
def Obligations.ResetMasksSources : Prop :=
  ∀ (s : State) (b : Blk) (n : Nat),
  if s.inReset b = true then s.irq b n = s
  else s.irq b n = (s.setB (R.IRQ_RAW_RAW b n) true).count b (0x20 + n) 1 ∧
    (¬ (R.IRQ_RAW_RAW b n).counter → (s.irq b n).get (R.IRQ_RAW_RAW b n) = 1)

/-- O13, tier 1: A counter that passes its end reloads from its preload (R446). That one addition carries at most once,
and what it leaves is then taken modulo 2^48, is the model's choice (log entry 16); no rule is cited for it. The OVF
source, PMC_OVF_SUM and the snapshot are not spoken of here. -/
def Obligations.CounterCarry : Prop :=
  ∀ (s : State) (b : Blk) (c k : Nat), c < 8 →
  let old := s.get (R.PMC_CNT_COUNT b c)
  let p := s.get (R.PMC_PRELOAD_P b c)
  let t := (counterAdd s b c k).1
  if old + k < 2 ^ 48 then t.get (R.PMC_CNT_COUNT b c) = old + k
  else t.get (R.PMC_CNT_COUNT b c) = ((if p = 0 then 0 else 2 ^ 48 - p) + (old + k - 2 ^ 48)) % 2 ^ 48 ∧
    t.getB (R.PMC_EVSEL_OVF b c) = true

/-- O14, tier 1: What drives LDIS[l] high (R169, R361, R399). LDIS from the switch-over on and the pin as a level that
others read are the model's choices (log entries 137 and 180); no rule is cited for them. -/
def Obligations.LineDisable : Prop :=
  ∀ (s : State) (l : Lane), s.ldisPin l = true ↔
  (s.coldAsserted = true ∨ s.power = 3 ∨ s.getB R.PWR_RAIL_STAT_ON_VBAK = true) ∨
  (s.getB (R.LTX_LDIS_DIS l) = true ∨ s.getB (R.LTX_LDIS_TRIP l) = true ∨ s.held = true ∨
    (s.getB (R.LTX_LDIS_AUTO l) = true ∧ (s.laneCode l = 0 ∨ s.laneCode l = 6)))

/-- O15, tier 2: Where a frame's coded-stream symbols stand (R36). -/
def Obligations.SymbolPositions : Prop :=
  ∀ (prev : Option Nat) (pilots : Fin 8 → Nat) (overhead : Fin 4 → Nat) (coded : Fin 1428 → Nat) (m : Fin 1428),
  (placeBlocks 32 prev (List.ofFn pilots ++ List.ofFn overhead ++ List.ofFn coded))[
    if m.val ≤ 32 then 13 + m.val else 46 * (1 + (m.val - 33) / 45) + 1 + (m.val - 33) % 45]? = some (coded m)

/-- O16, tier 2: The half-parity bits of a codeword (R57). -/
def Obligations.HalfParity : Prop :=
  ∀ u : Fin 1360 → Nat,
  let w := kicEncode (List.ofFn u)
  w.length = 1428 ∧ ((List.range 714).map fun i => w.getD (2 * i) 0).sum % 2 = 0 ∧
    ((List.range 714).map fun i => w.getD (2 * i + 1) 0).sum % 2 = 0

/-- O17, tier 2: How two codewords share the coded stream (R59). -/
def Obligations.Interleaving : Prop :=
  ∀ (a b : Fin 1428 → Nat) (m : Fin 1428),
  let x := interleave false (List.ofFn a) (List.ofFn b)
  if m.val % 2 = 0 then x[2 * m.val]? = some (a m) ∧ x[2 * m.val + 1]? = some (b m)
  else x[2 * m.val]? = some (b m) ∧ x[2 * m.val + 1]? = some (a m)

/-- O18, tier 2: Precoding and its inverse (R62). -/
def Obligations.Precoding : Prop :=
  (∀ (i : FrameInput) (prev : Option Nat) (w : Nat), (frameLevels i prev w).1 =
    placeBlocks 32 prev (pilotLevels i.frame i.complement ++
      if i.precoded = true then precode 0 (grayMap (frameBits i w).1) else grayMap (frameBits i w).1)) ∧
  (∀ (y : Fin 4) (x : Fin 4) (xs : List Nat), ∃ z : Nat, (z : Int) = ((x : Int) - (y : Int)) % 4 ∧
    precode y (x.val :: xs) = z :: precode z xs) ∧
  (∀ levels : List Nat, lineBits true levels = (unprecode 0 ((unstuff 32 levels).drop 8)).flatMap grayBits) ∧
  (∀ (y x : Nat) (xs : List Nat), unprecode y (x :: xs) = (x + y) % 4 :: unprecode x xs) ∧
  ∀ x : List (Fin 4), unprecode 0 (precode 0 (x.map (·.val))) = x.map (·.val)

/-- O19, tier 1: The Gray code of a bit pair (R60). -/
def Obligations.GrayCode : Prop :=
  grayLevel 0 0 = 0 ∧ grayLevel 0 1 = 1 ∧ grayLevel 1 1 = 2 ∧ grayLevel 1 0 = 3 ∧
  (∀ (m l : Nat) (rest : List Nat), grayMap (m :: l :: rest) = grayLevel m l :: grayMap rest) ∧
  ∀ (i : FrameInput) (prev : Option Nat) (w : Nat), i.scramble = true → i.precoded = false →
    (frameLevels i prev w).1 = placeBlocks 32 prev (pilotLevels i.frame i.complement ++ grayMap (List.zipWith
      (fun a b => (a + b) % 2) ((List.range 8).map (fun k => bitAt i.overhead (7 - k)) ++ codedStream i.data)
      (scramblerFrame w).1))

/-- O20, tier 1: The nominal amplitude of a level (R154). -/
def Obligations.NominalAmplitude : Prop :=
  (∀ step L : Nat, amplitude step (some L) = (2 * (L : Int) - 3) * step) ∧
  (∀ (s : State) (l : Lane), (shapeOf s l).step = s.get (R.TXP_SET_STEP l 1)) ∧
  (∀ r ∈ bankRows .txp, r.off = 0x404 → r.vmin = 1 ∧ r.vmax = 42) ∧
  ∀ l : Lane, (shapeOf State.reset l).step = 40 ∧
    (List.range 4).map (fun L => amplitude (shapeOf State.reset l).step (some L)) = [-120, -40, 40, 120]

/-- O21, tier 2: The pilot bits of a superframe and their levels (R41, R42, R43, R64). -/
def Obligations.PilotSequence : Prop :=
  let p := fun n => (pilotBits (n / 8)).getD (n % 8) 0
  (List.range 11).map p = [1, 0, 1, 1, 0, 0, 1, 0, 1, 1, 1] ∧
  (∀ n, 11 ≤ n → n ≤ 2046 → p n = (p (n - 9) + p (n - 11)) % 2) ∧ p 2047 = 0 ∧
  ∀ f, pilotLevels f false = (pilotBits f).map (3 * ·) ∧ pilotLevels f true = (pilotLevels f false).map (3 - ·)

/-- O22, tier 2: The scrambler's bits in a superframe (R48, R49). -/
def Obligations.ScramblerSequence : Prop :=
  (∀ sfc : Fin 256,
    let b := fun n => scramblerSkip n (scramblerSeed sfc) % 2
    (∀ i, i < 8 → b i = 0) ∧ (∀ i, i < 8 → b (8 + i) = bitAt sfc (7 - i)) ∧ (∀ i, 16 ≤ i → i < 58 → b i = 1) ∧
      ∀ n, 58 ≤ n → b n = (b (n - 39) + b (n - 58)) % 2) ∧
  ∀ w : Nat, (scramblerFrame w).1 = (List.range 2864).map (fun n => scramblerSkip n w % 2) ∧
    (scramblerFrame w).2 = scramblerSkip 2864 w

/-- O23, tier 2: The line bits of a frame are read back from its levels (R35, R37, R38, R60, R62). -/
def Obligations.FrameRoundTrip : Prop :=
  ∀ (f : Fin 256) (complement scramble precoded : Bool) (overhead : Byte) (d : Fin 2720 → Bool) (prev : Option Nat)
    (w : Nat),
  let i : FrameInput := 
    ⟨f, complement, overhead.toNat, List.ofFn fun k => b2n (d k), scramble, precoded⟩
  lineBits precoded (frameLevels i prev w).1 = (frameBits i w).1

/-- O24, tier 1: The check value of the cell CRC (R274). -/
def Obligations.CellCheck : Prop :=
  crc16 [0x31, 0x32, 0x33, 0x34, 0x35, 0x36, 0x37, 0x38, 0x39] = 0x29B1 ∧ crc16 [] = 0xFFFF

/-- O25, tier 2: The count of a degrade threshold (R142). -/
def Obligations.DegradeThreshold : Prop :=
  ∀ M E W : Nat, windowBits W = 2 ^ W * 256 * 2856 ∧ M * windowBits W ≤ threshold M E W * 10 ^ E ∧
  ∀ T, M * windowBits W ≤ T * 10 ^ E → threshold M E W ≤ T

/-- O26, tier 2: A line lane passes into the state that its command names, and no other lane does (R27, R32, R45, R69,
R81, R83, R84, R103, R105, R221, R385, R507). The model's choices, for which no rule is cited: when a lane in OFF
looks at its causes (log entry 17), the ready bits (20), DIM_REQ and the burst (35), what an entry to ACQUIRE leaves
(188, 200). -/
def Obligations.LaneStates : Prop :=
  ∀ (s : State) (l : Lane),
  LaneTo (s.canStart l) (.laneStart l) s l (s.laneIn l 1) ∧
  LaneTo (decide (s.laneCode l = 1) && s.decoderRuns l && s.getB (R.REQ_STAT_FFE_CONV l) && s.getB (R.REQ_STAT_TR_LOCK l)
    && s.fwcRunning && s.levelOk l) (.laneCandle l) s l (s.laneIn l 2) ∧
  LaneTo (decide (s.laneCode l = 2) && s.getB (R.REQ_STAT_FFE_CONV l)
    && (decide (s.mode l = 0) || s.getB (R.REQ_STAT_MLSE_CONV l)) && s.foregroundDone l) (.laneFull l) s l (s.laneIn l 3) ∧
  LaneTo (s.laneCode l == 3 && 4 ≤ (s.rx l).complemented) (.dimEntry l) s l (s.laneIn l 5) ∧
  LaneTo (s.laneCode l == 5 && (s.rx l).burstSeen) (.dimExit l) s l
    (s.laneIn l (if (enterState l 3 0 false s).getB (R.LRX_STAT_LOS l) then 1 else 3)) ∧
  LaneSeen (.pilotLockLoss l) s l
    (if s.getB (R.LFR_STAT_PILOT_LOCK l) ∧ 4 ≤ (s.rx l).badRun ∧ 2 ≤ s.laneCode l ∧ s.laneCode l ≤ 5 then s.laneIn l 1
     else s.laneView l) ∧
  (∀ amp, LaneSeen (.losSet l amp) s l
    (if s.laneUp l ∧ (s.rx l).detector ∧ ¬ s.getB (R.LRX_STAT_LOS_RAW l) ∧ ¬ s.getB (R.LFR_STAT_RX_DIM l)
        ∧ amp < 5 * s.get (R.LRX_CFG_LOS_THR l) ∧ decodes (s.laneCode l) then s.laneIn l 1
     else s.laneView l)) ∧
  ∀ (sh : Sheaf) (host : Bool), Ends (.pllLossOfLock sh host) s fun t => ∀ m, m < 8 →
    t.laneView m = if s.getB (pllLockFld sh host) ∧ m / 4 = sh ∧ s.laneUp m then s.laneIn m 1 else s.laneView m

/-- O27, tier 2: What enabling, disabling and reconfiguring a lane leaves of its state and configuration (R11, R13, R14,
R22, R25, R27, R29, R32, R33, R143, R152, R381). The model's choices, for which no rule is cited: when causes of
FAULT act and which stays (log entries 17, 18 and 19), starts during a stop (21), the slice that becomes retired
(22), a rate change below the level (23). -/
def Obligations.LaneControls : Prop :=
  ∀ (s : State) (l : Lane),
  LaneSeen (.laneEnable l) s l (LaneView.considered { s.laneView l with en := true } s l) ∧
  LaneSeen (.laneDisable l) s l
    (if (s.laneCode l = 6 ∧ s.get (laneFld R.SHF_LANE_FAULT_CAUSE l) < 3) ∨ s.laneCode l = 0 then
       { s.laneView l with en := false }
     else { s.laneView l with en := false, code := 0, cause := 0 }) ∧
  (∀ mode : Fin 4, LaneSeen (.modeChange l mode) s l
    (if mode.val = 3 ∨ s.mode l = mode then s.laneView l
     else if s.laneEn l ∧ s.laneUp l then { s.laneIn l 1 with mode := mode } else { s.laneView l with mode := mode })) ∧
  (∀ half : Bool, LaneSeen (.rateChange l half) s l
    (if s.rate l = b2n half then s.laneView l
     else if ¬ s.laneEn l then { s.laneView l with rate := b2n half }
     else if s.laneUp l then { s.laneIn l (if levelOfRate (b2n half) ≤ s.level then 1 else 0) with rate := b2n half }
     else LaneView.considered { s.laneView l with rate := b2n half } s l)) ∧
  (∀ n : Fin 5, LaneSeen (.sliceReassign l n) s l
    (if s.sliceFree (l / 4) n then
       if s.laneEn l ∧ s.laneUp l then { s.laneIn l 1 with slice := n }
       else LaneView.considered { s.laneView l with slice := n } s l
     else s.laneView l)) ∧
  ∀ c : Converter, LaneSeen (.converterFailed l c) s l
    (match c with
     | .hsd _ => s.laneView l
     | _ =>
       if s.laneEn l ∧ s.laneUp l ∧ ¬ s.heldOff l then { s.laneView l with code := 6, cause := 4 }
       else if s.laneEn l ∧ s.slice l ≠ 7 ∧ s.laneCode l = 0 ∧ ¬ s.heldOff l ∧ ¬ s.held then
         { s.laneView l with code := 6, cause := 4 }
       else (s.laneView l).considered s l)

/-- O28, tier 1: A lane's start and stop records, its ASSIST and DIM_REQ settings and the sheaf PLLs (R23, R32, R67,
R80, R151, R384, R385, R445, R507). The model's choices, for which no rule is cited: the ready bits (log entry 20),
starts and stops that meet (21), the level asked for (23), the memories of a slice (224). -/
def Obligations.LaneRecords : Prop :=
  ∀ (s : State) (l : Lane),
  Runs (.laneStartDone l) s (if (s.lp l).starting = true then
      State.putLp (if s.laneUp l = true then
          (((memoriesUse (0x40 + 8 * (l / 4) + s.slice l) s).setB (R.LRX_STAT_ADC_READY l) true).setB
            (R.LTX_STAT_READY l) true).irq ⟨.ltx, l⟩ 1 else s) l
        { s.lp l with starting := false, stopping := (s.lp l).stopAfter, stopAfter := false }
    else s) ∧
  Runs (.laneStopDone l) s (if (s.lp l).stopping = true then
      let t := considerStart l ((clockCounts (fun b => b.domain == .lane l) s).putLp l { s.lp l with stopping := false, startAfter := false })
      if ((s.lp l).startAfter && t.canStart l) = true then startLane l t else t
    else s) ∧
  (∀ on, Runs (.assistChange l on) s (let t := s.setB (laneFld R.SHF_LANE_CFG_ASSIST l) on
    if (t.laneEn l && t.laneUp l) = true then t.putRx l { s.rx l with assistPending := (s.rx l).assist != on } else t)) ∧
  EffectIf (s.rx l).assistPending (.assistRealign l) s [] (s.putRx l { s.rx l with
    assist := s.getB (laneFld R.SHF_LANE_CFG_ASSIST l), assistPending := false, realign := true }) ∧
  Effect (.dimReqSet l) s [(laneFld R.SHF_LANE_CFG_DIM_REQ l, 1)] s ∧
  Runs (.dimReqClear l) s (autoRaise (s.setB (laneFld R.SHF_LANE_CFG_DIM_REQ l) false)) ∧
  ∀ (sh : Sheaf) (host : Bool), EffectIf (s.pllsRun sh) (.pllLock sh host) s [(pllLockFld sh host, 1)] s

/-- O29, tier 1: Pilot fields and superframe counts received, and the locks of the receive direction (R27, R44, R45,
R50, R53, R69, R81, R86, R143, R145, R196, R272). The model's choices, for which no rule is cited: runs of fields
outside sampling and across DIM (log entries 27 and 200), the count shown (28), what counts as event 0x40 (29),
windows that a change of lock ends (50), which decisions are in use (256), captures (204). -/
def Obligations.ReceiveFields : Prop :=
  ∀ (s : State) (l : Lane),
  (∀ (frame : Fin 256) (field : PilotField), Runs (.rxPilotField l frame field) s (
      if !s.sampling l then s
      else
        let p := s.rxShape l
        let j := pilotJudge p.tol frame (pilotDecisions p.mu (field.z.take 8))
        let s := s.count ⟨.lfr, l⟩ 0x40 1
        if s.getB (R.LFR_STAT_RX_DIM l) then pilotFieldDim l frame j.1 s
        else
          let r := pilotRuns frame j.1 (s.rx l)
          let comp := if frame ≤ 247 then 0 else r.complemented + b2n j.2
          let s := s.putRx l { r with complemented := comp }
          if j.1 then calPilots l frame j.2 field s
          else if s.getB (R.LFR_STAT_PILOT_LOCK l) then pilotBad l s
          else s)) ∧
  (∀ v : Byte, Runs (.rxSfcReceived l v) s
    (if (s.getB (R.LFR_STAT_PILOT_LOCK l) && !s.getB (R.LFR_STAT_RX_DIM l)) = true then
       calRxBoundary l (stampRx l
         (if s.getB (R.LFR_STAT_SCR_LOCK l) = true then sfcCompare l v.toNat s else sfcSearch l v.toNat s))
     else s)) ∧
  Runs (.pilotLock l) s (if (s.sampling l && !s.getB (R.LFR_STAT_PILOT_LOCK l) && decide (4 ≤ (s.rx l).goodRun)) = true then
    passRefresh l (s.change (R.LFR_STAT_PILOT_LOCK l) true ⟨.lfr, l⟩ 0) else s) ∧
  Runs (.pilotLockLoss l) s (if (s.getB (R.LFR_STAT_PILOT_LOCK l) && decide (4 ≤ (s.rx l).badRun)) = true then
    if (decide (2 ≤ s.laneCode l) && decide (s.laneCode l ≤ 5)) = true then enterState l 1 0 false s else pilotDrop l s
    else s) ∧
  Runs (.scrLock l) s (if (s.getB (R.LFR_STAT_PILOT_LOCK l) && !s.getB (R.LFR_STAT_SCR_LOCK l)
      && !s.getB (R.LFR_STAT_RX_DIM l) && (s.rx l).sfcPair) = true then
    passRefresh l (((s.set (R.LFR_RX_SFC_COUNT l) ((s.rx l).sfcLast.getD 0)).putRx l
      { s.rx l with missRun := 0 }).change (R.LFR_STAT_SCR_LOCK l) true ⟨.lfr, l⟩ 1) else s) ∧
  Runs (.scrLockLoss l) s (if (s.getB (R.LFR_STAT_SCR_LOCK l) && !s.getB (R.LFR_STAT_RX_DIM l)
      && decide (4 ≤ (s.rx l).missRun)) = true then
    let t := calDiscardAdc l ((s.putRx l { s.rx l with sfcPair := false, missRun := 0 }).change (R.LFR_STAT_SCR_LOCK l)
      false ⟨.lfr, l⟩ 1)
    linkDown l (sdSf l false (passRefresh l
      (if decodes (t.laneCode l) = true then t.setB (R.IDEC_STAT_STOPPED l) true else t))) else s) ∧
  Runs (.idecResume l) s (if (s.getB (R.IDEC_STAT_STOPPED l) && s.decoderRuns l && decodes (s.laneCode l)) = true then
    passRefresh l (windowClear l (s.setB (R.IDEC_STAT_STOPPED l) false)) else s) ∧
  Runs (.trLockAcquired l) s (if (s.sampling l && !s.getB (R.REQ_STAT_TR_LOCK l) && decide (16 ≤ (s.rx l).trGood)) = true then
    hostClockSlew l (s.change (R.REQ_STAT_TR_LOCK l) true ⟨.req, l⟩ 0) else s) ∧
  Runs (.trLockLost l) s (if (s.getB (R.REQ_STAT_TR_LOCK l) && decide (4 ≤ (s.rx l).trBad)) = true then
    calStopApplying l (calDiscardAdc l (hostClockSlew l (s.change (R.REQ_STAT_TR_LOCK l) false ⟨.req, l⟩ 0))) else s) ∧
  Runs (.hostClockSlewDone l) s (List.foldl (fun s h => if (s.host h).slewing = true then
      (s.putHost h { s.host h with slewing := false }).setB (R.HSD_STAT_TXCLK_REC h) (s.getB (R.REQ_STAT_TR_LOCK l))
    else s) s [2 * l.val, 2 * l.val + 1]) ∧
  (∀ amp, Runs (.losSet l amp) s (if (s.laneUp l && (s.rx l).detector && !s.getB (R.LRX_STAT_LOS_RAW l)
      && !s.getB (R.LFR_STAT_RX_DIM l) && decide (amp < 5 * s.get (R.LRX_CFG_LOS_THR l))) = true then
    let t := s.setB (R.LRX_STAT_LOS_RAW l) true
    let t := if t.getB (R.LRX_STAT_LOS l) = true then t else capCause l 1 t
    let t := calDiscardAdc l (t.change (R.LRX_STAT_LOS l) true ⟨.lrx, l⟩ 0)
    if decodes (t.laneCode l) = true then enterState l 1 0 false t else t
    else s))

/-- O30, tier 2: The pilot rule: which fields are good, and how the runs of good and bad fields grow (R44, R45). How the
runs start anew after DIM is the model's choice (log entry 200), of which nothing is said here. -/
def Obligations.PilotRuns : Prop :=
  (∀ tol f d : Nat, (pilotJudge tol f d).1 = true ↔
    pilotMisses f false d ≤ tol ∨ (248 ≤ f ∧ pilotMisses f true d ≤ tol)) ∧
  (∀ (f d : Nat) (c : Bool), pilotMisses f c d ≤ 8) ∧
  ∀ (f : Nat) (r : RxLane),
    ((pilotRuns f false r).goodRun = 0 ∧ (pilotRuns f false r).badRun = r.badRun + 1) ∧
    (pilotRuns f true r).badRun = 0 ∧
    (f = (r.phase + 1) % 256 → (pilotRuns f true r).goodRun = r.goodRun + 1) ∧
    (f ≠ (r.phase + 1) % 256 → (pilotRuns f true r).goodRun = 1) ∧
    ∀ good, (pilotRuns f good r).phase = f

/-- O31, tier 2: Loss-of-signal, AGC and convergence bits, each with its frame (R76, R81, R83, R103). The model's
choices, for which no rule is cited: LOS_RAW in DIM (log entry 37), the rounding of the SNR that convergence asks
for (40), what a change by 1/64 is measured against (215). -/
def Obligations.SignalAndConvergence : Prop :=
  ∀ (s : State) (l : Lane),
  EffectIf (s.laneUp l) (.powerDetectorReady l) s [] (s.putRx l { s.rx l with detector := true }) ∧
  (∀ amp, EffectIf (s.laneUp l && (s.rx l).detector && s.getB (R.LRX_STAT_LOS_RAW l)
      && (if s.getB (R.LFR_STAT_RX_DIM l) = true then decide (5 * s.get (R.LRX_CFG_LOS_THR l) < amp)
          else decide (25 * s.get (R.LRX_CFG_LOS_THR l) < 4 * amp))) (.losRawClear l amp) s [(R.LRX_STAT_LOS_RAW l, 0)] s) ∧
  EffectIf (s.laneUp l && (s.rx l).detector && !s.getB (R.LRX_STAT_LOS_RAW l)) (.losClear l) s
    (s.changeAfter (R.LRX_STAT_LOS l) false ⟨.lrx, l⟩ 1) s ∧
  EffectIf (s.getB (R.LFR_STAT_RX_DIM l)) (.dimSignalTimeout l) s [(R.LRX_STAT_LOS_RAW l, 1)] s ∧
  EffectIf (s.sampling l && decide (16 ≤ (s.rx l).agcRun)) (.agcDone l) s [(R.LRX_STAT_AGC_DONE l, 1)] s ∧
  EffectIf (loopsRun (s.laneCode l) && decide (16 ≤ (s.rx l).ffeRun) && (s.rx l).snrTen) (.ffeConverged l) s
    [(R.REQ_STAT_FFE_CONV l, 1)] s ∧
  EffectIf (loopsRun (s.laneCode l) && decide (64 ≤ (s.rx l).mlseRun)) (.mlseConverged l) s
    [(R.REQ_STAT_MLSE_CONV l, 1)] s

/-- O32, tier 1: The loops' updates, freezes and shadows, the quality window and the histogram (R76, R77, R84, R88, R91,
R97, R98, R99, R100, R102, R106, R108). The model's choices, for which no rule is cited: the samples of a command
(log entries 41 and 212), echo peaks (42), freezes written with values (43), an SNR that has no value (39 and 40),
what a warm start leaves (202), the decisions before a stretch (211), the resolution of the taps (213), the phase
detector (214), which places are used in DIM (217), the symbols of the histogram (216). -/
def Obligations.ReceiveLoops : Prop :=
  ∀ (s : State) (l : Lane),
  (∀ (u : RxUpdate), Runs (.rxSuperframeUpdate l u) s (
      if !s.sampling l then s
      else
        let p := s.rxShape l
        let x := u.samples
        let lv := p.context x
        let es := phaseErrors p x lv (usedPlace s l)
        let before := s.fineTaps l
        let s := histTake l p x (lv.drop 2) (measureAdd l p x lv s)
        let s := capNote l (timingPut l u es (loopRuns l u before es (loopValues l p u lv s)))
        let clips := clipClocks x.clocks x.body
        let s := s.satInc (R.LRX_CLIP_CNT_COUNT l) clips
        if 64 < clips then s.irq ⟨.lrx, l⟩ 2 else s)) ∧
  (∀ ps, Runs (.echoSearch l ps) s (if s.fwcRunning = false ∨ s.expert ⟨.req, l⟩ = true then s
    else if s.getB (R.REQ_CFG_ECHO_AUTO l) = true then
      if s.laneCode l = 2 ∨ s.laneCode l = 3 then
        capNote l (List.foldl (fun s k => match (echoPeaks ps)[k]? with
          | some p => (s.set (R.REQ_FFE_SET_ECHO_DELAY l 1 k) p.1).setB (R.REQ_FFE_SET_ECHO_EN l 1 k) true
          | none => s.setB (R.REQ_FFE_SET_ECHO_EN l 1 k) false) s (List.range 4))
      else s
    else if s.laneCode l = 4 then s
    else capNote l (List.foldl (fun s k => s.setB (R.REQ_FFE_SET_ECHO_EN l 1 k) false) s (List.range 4)))) ∧
  (∀ v : BitVec 7, Runs (.adaptFreeze l v) s (freezeSettle l
    (((adaptPut l (bits v.toNat 0 5) (freezeCopy l (bits v.toNat 0 5) (adaptBits s l) (bits v.toNat 5 2) (afeBits s l) s)).set
      (R.LRX_AFE_CTRL_CTLE_FREEZE l) (bitAt v.toNat 5)).set (R.LRX_AFE_CTRL_AGC_FREEZE l) (bitAt v.toNat 6)))) ∧
  Runs (.ffeCommit l) s (if s.laneCode l = 4 then s.conflict ⟨.req, l⟩ else s.putRx l { s.rx l with commit := true }) ∧
  Runs (.ffeCommitApply l) s (if (s.rx l).commit = true ∧ s.laneCode l ≠ 4 then
    capNote l (ffeCopy l 0 1 (s.putRx l { s.rx l with commit := false })) else s) ∧
  Runs (.ffeSnap l) s (ffeCopy l 1 2 s) ∧
  Runs (.warmStartTimeout l) s (if s.laneCode l = 1 ∧ (s.rx l).warm = true ∧ s.fwcRunning = true then
    capNote l (reachLoad l (s.putRx l { s.rx l with warm := false })) else s) ∧
  (∀ (h1 : BitVec 12) (h2 : BitVec 12), Runs (.measWindowEnd l h1 h2) s (
      if s.sampling l && 64 ≤ (s.rx l).measured then
        let w := windowLevels (s.rx l).levels s
        let s := w.2.2.putRx l { w.2.2.rx l with measured := 0, levels := List.replicate 4 ⟨0, 0, 0⟩ }
        let s := capNote l (levelsInUse l w.1 w.2.1 h1.toNat h2.toNat s)
        let r := snrOf w.1 w.2.1 s
        snrReport l r.1 (snrIsTen w.1 w.2.1) r.2
      else s)) ∧
  Runs (.histStart l) s (if s.getB (R.REQ_HIST_STAT_BUSY l) = true then s.conflict ⟨.req, l⟩
    else
      let t := List.foldl (fun s i => s.set (R.REQ_HIST_BIN_COUNT l i) 0) s (List.range 256)
      ((t.putRx l { t.rx l with histLeft := 2 ^ t.get (R.REQ_HIST_CFG_LEN l) }).setB (R.REQ_HIST_STAT_BUSY l) true).setB
        (R.REQ_HIST_STAT_DONE l) false) ∧
  (Runs (.histDone l) s (
      if s.getB (R.REQ_HIST_STAT_BUSY l) && (s.rx l).histLeft = 0 then
        ((s.setB (R.REQ_HIST_STAT_BUSY l) false).setB (R.REQ_HIST_STAT_DONE l) true).irq ⟨.req, l⟩ 2
      else s))

/-- O33, tier 1: The inner decoder's frames, counters and windows, and the outer code's codewords (R121, R123, R126,
R127, R128, R129, R133, R134, R137, R138, R140, R143). The model's choices, for which no rule is cited: one pass
counts for HARD (log entry 47), the second pass under a pause (48), the patterns of the soft passes (49), windows
(50, 51, 206 and 257), a codeword's correction and its places (52, 221, 252 and 263), the one CW_LOCK bit (258). -/
def Obligations.FecChain : Prop :=
  ∀ s : State,
  (∀ (l : Lane) (f : Fin 256) (x : LineSamples), Runs (.idecFrame l f x) s (
      if !s.sampling l || x.size != 1472 then s
      else
        let x := { x with place := 1472 * f }
        let p := s.rxShape l
        let s := idecSettings l (calPairs l p x s)
        if s.get (R.IDEC_STAT_PASS l) = 0 then s
        else
          let s := if p.mlse then s.count ⟨.req, l⟩ 0x40 1 else s
          framePasses l f p x (firstValues p x) s)) ∧
  (∀ (l : Lane), Runs (.idecClr l) s (
      let s := [R.IDEC_CW_COUNT l, R.IDEC_CORR_BITS_COUNT l, R.IDEC_UNCORR_COUNT l, R.IDEC_P2_RUN_COUNT l,
        R.IDEC_P2_SKIP_COUNT l, R.IDEC_P2_RESCUE_COUNT l, R.IDEC_WIN_CORR_COUNT l, R.IDEC_WIN_UNCORR_COUNT l,
        R.IDEC_WIN_STAT_VALID l].foldl (fun s f => s.set f 0) s
      windowClear l s)) ∧
  (∀ (l : Lane), Runs (.idecWindowEnd l) s (
      if s.get (R.IDEC_STAT_PASS l) = 0 then s
      else
        let r := s.rx l
        let w := s.get (R.IDEC_SD_CFG_WIN l)
        let s := (s.set (R.IDEC_WIN_CORR_COUNT l) r.winCorr).set (R.IDEC_WIN_UNCORR_COUNT l) r.winUncorr
        let s := ((s.setB (R.IDEC_WIN_STAT_VALID l) true).setB (R.IDEC_WIN_STAT_THROTTLED l) r.winThrottled).set
          (R.IDEC_WIN_STAT_W l) w
        windowClear l ((judgeSf l r.winCorr r.winUncorr w (judgeSd l r.winCorr w s)).irq ⟨.idec, l⟩ 3))) ∧
  (∀ (l : Lane) (set : Fin 2) (word : List Nat) (carriers : List Nat), Runs (.ocCodeword l set word carriers) s (
      if s.leads l.val && s.getB (R.GBX_OC_STAT_CW_LOCK l.val) && s.engineOn l.val && word.length == 544
          && (set.val == 0 || s.twoPorts l.val) then
        let r := outerDecode word
        let out := (List.zipIdx word).map fun p =>
          forwardSymbol s (carriers.getD p.2 (2 * l.val) / 2) p.2 p.1 (r.map (·.1))
        countCodeword l.val set.val word carriers r (forwardWord (s.portMembers l.val) out carriers s)
      else s)) ∧
  (∀ (l : Lane), Runs (.gbxOcClr l) s (
      [0, 1].foldl (fun s j =>
        let s := [R.GBX_OC_CW_COUNT l j, R.GBX_OC_CORR_CW_COUNT l j, R.GBX_OC_UNCORR_CW_COUNT l j,
          R.GBX_OC_SYM_COUNT l j, R.GBX_OC_LANE_SYM_COUNT l j].foldl (fun s f => s.set f 0) s
        (List.range 16).foldl (fun s n => s.set (R.GBX_OC_HIST_COUNT l j n) 0) s) s)) ∧
  (∀ (l : Lane) (f : Fin 256) (x : LineSamples),
    let y := { x with place := 1472 * f.val }
    let p := s.rxShape l
    let u := idecSettings l (calPairs l p y s)
    let pass := u.get (R.IDEC_STAT_PASS l)
    let q := deinterleave false (descramble (rxScrambler u l f.val) (firstValues p y))
    let first (r : List Int) : Decoded :=
      { word := if pass = 1 then hardPass (hardBits r) else softPass (u.rx l).p1 r, h := hardBits r, last := hardBits r,
        rescued := false }
    let a := first q.1
    let b := first q.2
    let e := framePriors (u.rx l) (rxScrambler u l f.val) q.1 q.2
    let q2 := deinterleave false (descramble (rxScrambler u l f.val) (secondValues p y e))
    let second (d : Decoded) (r : List Int) : Decoded :=
      { d with word := (softPass (u.rx l).p2 r).orElse fun _ => d.word, last := hardBits r,
               rescued := d.word.isNone && (softPass (u.rx l).p2 r).isSome }
    let corrected (d : Decoded) : Nat := (d.word.map (corrections d.h)).getD 0
    let delivered (a b : Decoded) (run skip : Nat) (t : State) : Prop :=
      t.get (R.IDEC_CW_COUNT l) = (s.get (R.IDEC_CW_COUNT l) + 2) % 2 ^ 48 ∧
      t.get (R.IDEC_CORR_BITS_COUNT l) = (s.get (R.IDEC_CORR_BITS_COUNT l) + corrected a + corrected b) % 2 ^ 48 ∧
      t.get (R.IDEC_UNCORR_COUNT l) =
        (s.get (R.IDEC_UNCORR_COUNT l) + b2n a.word.isNone + b2n b.word.isNone) % 2 ^ 48 ∧
      t.get (R.IDEC_P2_RESCUE_COUNT l) = (s.get (R.IDEC_P2_RESCUE_COUNT l) + b2n a.rescued + b2n b.rescued) % 2 ^ 48 ∧
      t.get (R.IDEC_P2_RUN_COUNT l) = (s.get (R.IDEC_P2_RUN_COUNT l) + run) % 2 ^ 48 ∧
      t.get (R.IDEC_P2_SKIP_COUNT l) = (s.get (R.IDEC_P2_SKIP_COUNT l) + skip) % 2 ^ 48 ∧
      (t.rx l).data = joinAB ((a.word.getD a.last).take 1360) ((b.word.getD b.last).take 1360)
    let wanted : Bool := !(u.rx l).failedOnly || a.word.isNone || b.word.isNone
    (s.sampling l = false ∨ x.size ≠ 1472 → Effect (.idecFrame l f x) s [] s) ∧
    (s.sampling l = true → x.size = 1472 →
      (∀ c ∈ [R.IDEC_CW_COUNT l, R.IDEC_CORR_BITS_COUNT l, R.IDEC_UNCORR_COUNT l, R.IDEC_P2_RUN_COUNT l,
        R.IDEC_P2_SKIP_COUNT l, R.IDEC_P2_RESCUE_COUNT l], s.get c < 2 ^ 48) →
      Ends (.idecFrame l f x) s fun t =>
        if pass = 0 then t.get (R.IDEC_CW_COUNT l) = s.get (R.IDEC_CW_COUNT l) ∧ (t.rx l).data = (s.rx l).data
        else if pass ≠ 3 ∨ wanted = false then delivered a b 0 0 t
        else if 0 < (u.rx l).pauseLeft then delivered a b 0 1 t ∧ (t.rx l).winThrottled = true
        else delivered (second a q2.1) (second b q2.2) 1 0 t ∧ (t.rx l).pauseLeft = s.p2Pause)) ∧
  ∀ l : Lane, Ends (.idecClr l) s fun t => ∀ c ∈ [R.IDEC_CW_COUNT l, R.IDEC_CORR_BITS_COUNT l, R.IDEC_UNCORR_COUNT l,
    R.IDEC_P2_RUN_COUNT l, R.IDEC_P2_SKIP_COUNT l, R.IDEC_P2_RESCUE_COUNT l], t.get c = 0

/-- O34, tier 2: Transmitter settings that take effect on their own, each with its frame (R157, R162, R166, R167, R169,
R170, R172). When the settings act, and that SEL above 5 is refused with CONFLICT while the other fields are stored,
are the model's choices (log entries 53, 57 and 59); no rule is cited for them. -/
def Obligations.TransmitSettings : Prop :=
  ∀ (s : State) (l : Lane),
  Effect (.squelchOff l) s [(R.LTX_CFG_SQUELCH l, 0)] s ∧
  Effect (.txpCommit l) s [] (s.putTx l { s.tx l with commit := true }) ∧
  (∀ (sel : BitVec 3) (half : BitVec 6) (level : BitVec 2), Effect (.patternSelect l sel half level) s
    [(R.TXP_PAT_LEVEL l, level.toNat), (R.TXP_PAT_HALF l, half.toNat),
     if 5 < sel.toNat then (R.BLK_STAT_CONFLICT ⟨.txp, l⟩, 1) else (R.TXP_PAT_SEL l, sel.toNat)] s) ∧
  (∀ dis auto, Effect (.ldisWrite l dis auto) s [(R.LTX_LDIS_AUTO l, b2n auto), (R.LTX_LDIS_DIS l, b2n dis)] s) ∧
  Effect (.ldisTripClear l) s
    [if s.tripActive l = true then (R.BLK_STAT_CONFLICT ⟨.ltx, l⟩, 1) else (R.LTX_LDIS_TRIP l, 0)] s

/-- O35, tier 1: Transmitted frames and superframe boundaries, squelch, full scale and the shadow set (R47, R58, R66,
R149, R150, R152, R153, R157, R158, R160, R162, R194). The model's choices, for which no rule is cited: frames and
bits that a command skips (log entries 31, 32 and 36), when settings act (53 and 57), the shaping around a start and
stop (54, 55 and 56), the values of firmware's adaptation (58), the superframe of a marker (35, 189 and 265). -/
def Obligations.TransmitCommands : Prop :=
  ∀ s : State,
  (∀ (l : Lane) (a : List Bool) (b : List Bool), Runs (.txFrame l a b) s (
      if s.laneUp l && s.txRuns l && (s.tx l).frame < 256 then
        let s := hostEnter (2 * l + 1) (hostEnter (2 * l) s)
        let r := builtFrame s l (frameData s l a b)
        let s := if s.getB (R.TXP_STAT_FILL l 0) || s.getB (R.TXP_STAT_FILL l 1) then s.count ⟨.gbx, l⟩ 0x43 1 else s
        let t := s.tx l
        let s := shapeFrame l (sentSymbols t r.1) s
        s.putTx l { s.tx l with
          frame := t.frame + 1, scrambler := r.2, patPos := if t.patSel = 0 then 0 else t.patPos + 1472 }
      else s)) ∧
  (∀ (l : Lane), Runs (.txSuperframeBoundary l) s (
      let t := s.tx l
      if !s.txReady l || t.hold == .rate || t.hold == .slice then s
      else if !t.running then txBoundary l s
      else if t.hold == .ratePending then txHold l .rate s
      else txBoundary l (s.wrapInc (R.LFR_TX_SFC_COUNT l) 1))) ∧
  (∀ (l : Lane), Runs (.txRateResume l) s (
      let h := (s.tx l).hold
      if s.txReady l && (h == .rate || h == .ratePending) then
        txBoundary l ((if h == .ratePending then txHold l .rate s else s).wrapInc (R.LFR_TX_SFC_COUNT l) 1)
      else s)) ∧
  (∀ (l : Lane), Runs (.txSliceResume l) s (
      if s.txReady l && (s.tx l).hold == .slice then txBoundary l (s.set (R.LFR_TX_SFC_COUNT l) 0) else s)) ∧
  (∀ (l : Lane), Runs (.trainingBurstStart l) s (
      let t := s.tx l
      if s.txRuns l && t.dim == .dim && t.frame ≤ 192 && s.levelOk l
          && (!s.getB (laneFld R.SHF_LANE_CFG_DIM_REQ l) || t.leaveDim) then
        let s := if t.frame = 192 then s else
          let s := flushLine l s
          s.putTx l { s.tx l with
            frame := 192
            scrambler := scramblerSkip (2864 * 192) (scramblerSeed (s.get (R.LFR_TX_SFC_COUNT l) % 256)) }
        dimPut l .burst s
      else s)) ∧
  (∀ (l : Lane), Runs (.squelchOn l) s (
      let s := flushLine l (calDiscardDac l (s.setB (R.LTX_CFG_SQUELCH l) true))
      fsAtOnce l ((s.putTx l { s.tx l with mute := true }).setB (R.LTX_STAT_SWING l) false))) ∧
  (∀ (l : Lane) (fs : BitVec 5), Runs (.fsWrite l fs) s (
      if 24 < fs.toNat then s.conflict ⟨.ltx, l⟩
      else
        let s := s.set (R.LTX_CFG_FS l) fs.toNat
        if s.commonMode l then fsAtOnce l s else s.setB (R.LTX_STAT_FS_RAMP l) ((s.tx l).fs != fs.toNat))) ∧
  (∀ (l : Lane), Runs (.txpCommitApply l) s (
      if (s.tx l).commit then (txpCopy l 0 1 (s.putTx l { s.tx l with commit := false })).irq ⟨.txp, l⟩ 1 else s)) ∧
  (∀ (l : Lane), Runs (.txpSnap l) s ( txpCopy l 1 2 s)) ∧
  (∀ (l : Lane) (fir : List Int) (pd : List Int), Runs (.txAdaptStep l fir pd) s (
      if s.autoRuns l then
        let s := if (s.tx l).commit then s else txpCopy l 1 0 s
        let s := if s.getB (R.TXP_CFG_FIR_AUTO l) then
          (List.zipIdx (fir.take 7)).foldl (fun s v => s.setI (R.TXP_SET_FIR_COEF l 0 v.2) v.1) s else s
        let s := if s.getB (R.TXP_CFG_PD_AUTO l) then
          (List.zipIdx (pd.take 64)).foldl (fun s v => s.setI (R.TXP_SET_PD_P l 0 v.2) v.1) s else s
        txpCommitOp l s
      else s))

/-- O36, tier 2: Host-lane status and training bits, each with its frame (R23, R105, R183, R184, R186, R187, R195,
R203). The model's choices, for which no rule is cited: what the training answers (log entries 61 and 222), the
status of a lane that leaves (62), the counts of a checker that loses lock (65). -/
def Obligations.HostStatus : Prop :=
  ∀ (s : State) (h : HostLane),
  (∀ amp, EffectIf (s.hostActive h && decide (80 < amp)) (.hostLosClear h amp) s
    (s.changeAfter (R.HSD_STAT_LOS h) false ⟨.hsd, h⟩ 0) s) ∧
  EffectIf (decide (s.get (R.HSD_TRAIN_STATE h) = 1) && s.getB (R.HSD_STAT_RX_EQ_DONE h)) (.trainDone h) s
    [s.irqAfter ⟨.hsd, h⟩ 2, (R.HSD_TRAIN_STATE h, 2)] s ∧
  EffectIf (decide (s.get (R.HSD_TRAIN_STATE h) = 1) && s.get (R.HSD_TRAIN_TIMEOUT h) != 3) (.trainTimeout h) s
    [s.irqAfter ⟨.hsd, h⟩ 3, (R.HSD_TRAIN_STATE h, 3)] s ∧
  (if s.get (R.HSD_TRAIN_STATE h) ≠ 1 ∨ (s.host h).asked = none then Effect (.trainResponseTimeout h) s [] s
   else if (s.host h).repeats < 3 then
     Effect (.trainResponseTimeout h) s [] (s.putHost h { s.host h with repeats := (s.host h).repeats + 1 })
   else Effect (.trainResponseTimeout h) s [s.irqAfter ⟨.hsd, h⟩ 3, (R.HSD_TRAIN_STATE h, 3)] s) ∧
  Effect (.trainingAnswer h) s [] (trainAsk h (s.putHost h { s.host h with asked := none, repeats := 0 })) ∧
  (∀ l : Lane, EffectIf (s.get (R.GBX_HOST_STAT_TIMING_LANE l) != 0) (.txClockSlewDone l) s
    [(R.GBX_HOST_STAT_TX_TRACK l, 1)] s) ∧
  (∀ l : Lane, Effect (.realignDone l) s [] (s.putRx l { s.rx l with realign := false })) ∧
  EffectIf (s.get (R.HSD_PRBS_CFG_CHK h) != 0 && !s.getB (R.HSD_PRBS_STAT_LOCK h)) (.prbsLock h) s
    [s.irqAfter ⟨.hsd, h⟩ 4, (R.HSD_PRBS_STAT_LOCK h, 1)] (s.putHost h { s.host h with prbsAt := s.elapsed }) ∧
  (∀ compared errors, EffectIf (s.getB (R.HSD_PRBS_STAT_LOCK h)) (.prbsLoss h compared errors) s
    [(R.HSD_PRBS_STAT_LOST h, 1), s.irqAfter ⟨.hsd, h⟩ 4, (R.HSD_PRBS_STAT_LOCK h, 0),
     (R.HSD_PRBS_ERR_COUNT h, (s.get (R.HSD_PRBS_ERR_COUNT h) + errors) % 2 ^ (R.HSD_PRBS_ERR_COUNT h).w),
     (R.HSD_PRBS_BITS_COUNT h, (s.get (R.HSD_PRBS_BITS_COUNT h) + compared) % 2 ^ (R.HSD_PRBS_BITS_COUNT h).w)] s) ∧
  Effect (.prbsClr h) s [(R.HSD_PRBS_BITS_COUNT h, 0), (R.HSD_PRBS_ERR_COUNT h, 0)]
    (s.putHost h { s.host h with prbsAt := s.elapsed }) ∧
  ∀ (pre2 pre1 post1 : BitVec 6) (swing : BitVec 4), Effect (.hsdTxEqWrite h pre2 pre1 post1 swing) s
    (if (decide (s.get (R.HSD_TRAIN_STATE h) = 1) || !tapsOk pre2.toNat pre1.toNat post1.toNat) = true then
       [(R.BLK_STAT_CONFLICT ⟨.hsd, h⟩, 1)]
     else [(R.HSD_TX_EQ_SWING h, swing.toNat), (R.HSD_TX_EQ_POST1 h, post1.toNat), (R.HSD_TX_EQ_PRE1 h, pre1.toNat),
       (R.HSD_TX_EQ_PRE2 h, pre2.toNat)]) s

/-- O37, tier 1: Host receivers, training requests, alignment-marker periods and port widths (R181, R182, R183, R184,
R185, R186, R187, R188, R195, R197, R202, R203). The model's choices, for which no rule is cited: unsupported ports
(log entry 60), answers of training (61, 222 and 262), status that ends (62), deskew (63), latency (64 and 193),
CTLE and DFE1 written with FREEZE (261), slips (260). -/
def Obligations.HostCommands : Prop :=
  ∀ s : State,
  (∀ (h : HostLane) (amp : Nat), Runs (.hostLosSet h amp) s (
      if s.hostActive h && amp < 40 && !s.getB (R.HSD_STAT_LOS h) then
        amLose h (cdrDrop h (s.change (R.HSD_STAT_LOS h) true (hsd h) 0))
      else s)) ∧
  (∀ (h : HostLane) (freq : Int) (long : Bool), Runs (.cdrLock h freq long) s (
      if s.hostActive h && !s.getB (R.HSD_STAT_LOS h) && -20000 ≤ freq && freq ≤ 20000 then
        let old := s.getI (R.HSD_STAT_FREQ h)
        let was := s.getB (R.HSD_STAT_CDR_LOCK h)
        let s := s.setI (R.HSD_STAT_FREQ h) freq
        if was then trackMoved h old freq s
        else
          let s := timingRefresh (h / 2) (s.change (R.HSD_STAT_CDR_LOCK h) true (hsd h) 1)
          if long then trainStart h s else s
      else s)) ∧
  (∀ (h : HostLane), Runs (.cdrLockLoss h) s ( cdrDrop h s)) ∧
  (∀ (h : HostLane) (ctle : Nat) (dfe1 : Nat) (ffe : List Nat), Runs (.hostRxEqDone h ctle dfe1 ffe) s (
      if s.getB (R.HSD_STAT_CDR_LOCK h) then
        let s := if s.getB (R.HSD_RX_EQ_FREEZE h) then s
          else s.putHost h { s.host h with ctle := min ctle 24, dfe1 := dfe1 % 1024,
                                           ffe := (List.range 12).map fun t => ffe.getD t 0 % 1024 }
        trainAsk h (s.setB (R.HSD_STAT_RX_EQ_DONE h) true)
      else s)) ∧
  (∀ (h : HostLane) (on : Bool), Runs (.hsdRxFreeze h on) s (
      let was := s.getB (R.HSD_RX_EQ_FREEZE h)
      let s := s.setB (R.HSD_RX_EQ_FREEZE h) on
      if on && !was then eqToRegs h s else if was then eqFromRegs h s else s)) ∧
  (∀ (h : HostLane) (rx : Bool) (tx : Bool), Runs (.hsdInvert h rx tx) s (
      let was := s.getB (R.HSD_CFG_RX_INV h)
      let s := (s.setB (R.HSD_CFG_RX_INV h) rx).setB (R.HSD_CFG_TX_INV h) tx
      if was == rx then s else amLose h s)) ∧
  (∀ (h : HostLane) (g : BitVec 2), Runs (.prbsGenSelect h g) s (
      let s := s.set (R.HSD_PRBS_CFG_GEN h) g.toNat
      if g.toNat % 4 != 0 && s.get (R.HSD_TRAIN_STATE h) = 1 then s.set (R.HSD_TRAIN_STATE h) 4 else s)) ∧
  (∀ (h : HostLane) (c : BitVec 2), Runs (.prbsChkSelect h c) s (
      if c.toNat = 3 then s.conflict (hsd h)
      else
        let was := s.get (R.HSD_PRBS_CFG_CHK h)
        let s := s.set (R.HSD_PRBS_CFG_CHK h) c.toNat
        let s := if was = c.toNat then s else prbsUnlock h s
        if c.toNat = 0 then s else amLose h s)) ∧
  (∀ (h : HostLane), Runs (.trainRestart h) s ( trainStart h s)) ∧
  (∀ (h : HostLane) (q : TrainRequest), Runs (.trainRequest h q) s (
      if s.get (R.HSD_TRAIN_STATE h) = 1 then
        let a := s.get (R.HSD_TX_EQ_PRE2 h)
        let b := s.get (R.HSD_TX_EQ_PRE1 h)
        let c := s.get (R.HSD_TX_EQ_POST1 h)
        match requestedTaps q a b c with
        | none => trainAnswer h 3 s
        | some (x, y, z) =>
          if !tapsOk x y z || (x, y, z) = (a, b, c) then trainAnswer h 2 s
          else trainAnswer h 1 (txTapsPut h x y z s)
      else s)) ∧
  (∀ (l : Lane) (p : MarkerPeriod), Runs (.amPeriod l p) s (
      if s.laneUp l then
        let e := s.get (R.GBX_AM_CFG_MAX_ERR l)
        let before := (s.portHosts l).all s.amLocked
        let s := [0, 1].foldl (fun s i => amJudge (2 * l + i) (markersFound e (p.tx.getD i [])) s) s
        let s := [0, 1].foldl (fun s j => rxAmJudge l j (markersFound e (p.rx.getD j [])) s) s
        let s := cwJudge l p.rxSkew (deskewPeriod l before p.arrive s)
        rxLatency l p (txLatency l p s)
      else s)) ∧
  (∀ (l : Lane) (w : BitVec 3), Runs (.portWWrite l w) s (
      if 4 < w.toNat then s.conflict ⟨.gbx, l.val⟩
      else portFollow l.val (s.portW l.val) (s.portMembers l.val) (s.set (R.GBX_HOST_CFG_PORT_W l.val) w.toNat)))

/-- O38, tier 1: The capture engine's commands (R110, R111, R112, R113, R114). The model's choices, for which no rule is
cited: several bits in one write (log entry 44), CAP_END and a ring that wraps late (45 and 253), a commit's freeze
(46), causes and settings during a capture (204 and 205), what an abort and a fill leave (10, 254 and 255), states
other than ACTIVE (238). -/
def Obligations.CaptureEngine : Prop :=
  ∀ s : State,
  (∀ (sh : Sheaf) (req : Requester), Runs (.capArm sh req) s (
      if !(capMask s sh).any id && capMine s sh req then s.conflict (capBlk sh)
      else capRequest sh req s fun s =>
        (s.putCap sh { s.cap sh with
          triggered := s.get (R.CAP_CFG_TRIG sh) == 0, waiting := capWaits s sh, written := 0, atTrigger := 0
          mask := capMask s sh, src := s.get (R.CAP_CFG_SRC sh), decim := s.get (R.CAP_DECIM_D sh)
          shapes := (List.range 4).map fun k => [s.rxShape (4 * sh + k)] }).set
          (R.CAP_STAT_STATE sh) 1)) ∧
  (∀ (sh : Sheaf) (written : Nat) (taken : List (List LineSamples)), Runs (.capAbort sh written taken) s (
      let code := s.get (R.CAP_STAT_STATE sh)
      if code = 1 || code = 2 then
        let bytes := if (s.cap sh).waiting then 0 else max (s.cap sh).atTrigger written
        capEnded sh (capRecorded sh bytes taken (s.set (R.CAP_STAT_STATE sh) 5))
      else s.conflict (capBlk sh))) ∧
  (∀ (sh : Sheaf) (req : Requester), Runs (.capFill sh req) s (
      capRequest sh req s fun s =>
        (s.putCap sh { s.cap sh with waiting := capWaits s sh, pattern := s.get (R.CAP_FILL_PAT_PAT sh) }).set
          (R.CAP_STAT_STATE sh) 6)) ∧
  (∀ (sh : Sheaf), Runs (.capFillDone sh) s (
      if s.get (R.CAP_STAT_STATE sh) = 6 && !(s.cap sh).waiting then
        let pat := (s.cap sh).pattern
        let s := s.putCap sh { s.cap sh with patches := [] }
        (capEnded sh (capPatch sh 0 capSize (some pat) [] (s.set (R.CAP_STAT_STATE sh) 0))).irq (capBlk sh) 3
      else s)) ∧
  (∀ (sh : Sheaf) (written : Nat), Runs (.capTrigger sh written) s (
      let x := s.cap sh
      if s.get (R.CAP_STAT_STATE sh) = 1 && x.triggered && !x.waiting then
        let w := if s.get (R.CAP_CFG_TRIG sh) = 0 then 0 else written
        let size := regionSize x.mask
        let s := s.putCap sh { x with written := w, atTrigger := w }
        let s := (s.set (R.CAP_STAT_STATE sh) 2).set (R.CAP_TRIG_POS_OFFSET sh) (w % size)
        let s := (s.setB (R.CAP_STAT_WRAPPED sh) (size ≤ w)).set (R.CAP_TRIG_TIME_TIME sh) (reportedTime s.now false)
        s.irq (capBlk sh) 0
      else s)) ∧
  (∀ (sh : Sheaf) (pos : List (Nat × Nat × Bool × Nat)) (taken : List (List LineSamples)), Runs (.capDone sh pos taken) s (
      if s.get (R.CAP_STAT_STATE sh) = 2 then
        let x := s.cap sh
        let size := regionSize x.mask
        let pre := if s.get (R.CAP_CFG_TRIG sh) = 0 then 0 else s.get (R.CAP_CFG_PRE sh)
        let total := x.atTrigger + (256 - pre) * size / 256
        let s := (s.set (R.CAP_STAT_STATE sh) 3).set (R.CAP_END_OFFSET sh)
          (if total = size then size else total % size)
        let s := s.set (R.CAP_OLDEST_OFFSET sh) (if size < total then total % size else 0)
        let s := (List.range 4).foldl (fun s k =>
          if x.mask.getD k false then capPosPut sh k (pos.getD k (0, 0, false, 0)) s else s) s
        (capEnded sh (capRecorded sh total taken s)).irq (capBlk sh) 1
      else s))

/-- O39, tier 1: The Gleaner's windows, application steps, start-up pass and commands (R211, R212, R216, R217, R223,
R224, R225, R226, R228, R233, R382, R427). The model's choices, for which no rule is cited: the order of items (log
entry 66), the estimates (67), failed agreement and disturbed windows (68, 69 and 233), the out cell (70), VREF
outside its limit (71 and 219), a round that is due (72 and 231), a SAVE's values (73), unknown areas (74), blocks
that are not ON (187), boundaries (218), the pass (220 and 232). -/
def Obligations.Calibration : Prop :=
  ∀ s : State,
  (∀ (lane : Fin 9) (w : CalWindow), Runs (.calWindowEnd lane w) s (
      match w with
      | .adc => if lane.val < 8 then adcWindow lane.val s else s
      | .dac est => if lane.val < 8 then dacWindow lane.val est s else s
      | .anchor a d vref => if lane.val = 8 then anchorWindow a d vref s else s
      | .pass core => if lane.val < 8 then passWindow lane.val core s else s)) ∧
  (∀ (lane : Fin 9), Runs (.calApplyStep lane) s (
      let s := if lane.val = 8 then applyDevice s else laneBoundary lane.val s
      if s.calDev.saving then saveTrims s else s)) ∧
  (∀ (l : Lane), Runs (.dacCellSwap l) s (
      let c := s.cal l
      if (c.sweepStage == 4 && cellOk s l) || (s.calDev.startupLanes.contains l && c.passMeasured) then
        (s.putCal l { c with
          sweepStage := if c.sweepStage = 4 then 1 else c.sweepStage, passMeasured := false }).wrapInc
          (R.LTX_CELL_OUT_CELL l) 1
      else s)) ∧
  (Runs (.calStartupDone) s (
      if s.calDev.startup then
        let s := passRemove (List.range 8) s
        let s := saveTrims { s with calDev := { s.calDev with startup := false } }
        levelApply ((s.setB R.CAL_STAT_STARTUP_DONE true).irq calBlk 0)
      else s)) ∧
  (Runs (.calSave) s (
      if s.getB R.CAL_STAT_SAVE_BUSY then s.conflict calBlk
      else { s with calDev := { s.calDev with saving := true } }.setB R.CAL_STAT_SAVE_BUSY true)) ∧
  (Runs (.calSaveDone) s (
      if s.getB R.CAL_STAT_SAVE_BUSY && !s.calDev.saving && !s.nvsHas 4 then
        (s.setB R.CAL_STAT_SAVE_BUSY false).irq calBlk 5
      else s)) ∧
  (Runs (.refAnchorTimeout) s (
      if s.calDev.anchor = 0 then s
      else
        let s := { s with calDev := { s.calDev with anchor := 0 } }
        (s.satInc (R.CAL_REC_X_DISCARD 48) 1).setB R.CAL_STAT_ANCHOR_BUSY false)) ∧
  (Runs (.calIntervalExpiry) s (
      if !s.getB R.CAL_SCHED_MODE && s.blkOn calBlk then startBackground s else s)) ∧
  (∀ (lanes : Byte), Runs (.calRun lanes) s (
      (List.range 8).foldl (fun s l => if bitAt lanes.toNat l = 1 then startSweep l s else s) s)) ∧
  (Runs (.calAnchor) s ( startAnchor s)) ∧
  (∀ (lane : BitVec 4) (item : BitVec 3), Runs (.calRecSelect lane item) s (
      if (lane.toNat < 8 && item.toNat < 6) || (lane.toNat = 8 && item.toNat = 6) then
        let r := if lane.toNat = 8 then 48 else lane.toNat * 6 + item.toNat
        let s := (s.set R.CAL_REC_SEL_LANE lane.toNat).set R.CAL_REC_SEL_ITEM item.toNat
        [(R.CAL_REC_RUNS_COUNT, R.CAL_REC_RUNS r), (R.CAL_REC_APPLIED_COUNT, R.CAL_REC_A_APPLIED r),
         (R.CAL_REC_DISAGREE_COUNT, R.CAL_REC_D_DISAGREE r), (R.CAL_REC_DISCARD_COUNT, R.CAL_REC_X_DISCARD r),
         (R.CAL_REC_LAST_STEP, R.CAL_REC_L_STEP r), (R.CAL_REC_LAST_VALID, R.CAL_REC_L_VALID r),
         (R.CAL_REC_TIME_TIME, R.CAL_REC_T_TIME r)].foldl (fun s p => s.set p.1 (s.get p.2)) s
      else s.conflict calBlk))

/-- O40, tier 2: Status bits and ends of pulses of the time base, each with its frame (R254, R255, R256, R264, R350,
R356). The model's choices, for which no rule is cited: TREF_OK across COLD (log entry 191), the outputs of pins (84
and 227), the end of a temperature's validity (85), what breaks a learning interval (208). -/
def Obligations.TimeStatus : Prop :=
  ∀ s : State,
  EffectIf s.timOn .fineReady s [(R.TIM_STAT_FINE_READY, 1)] s ∧
  EffectIf (s.get R.TIM_CFG_TREF_FREQ != 0) .trefQualified s [(R.TIM_STAT_TREF_OK, 1)] s ∧
  EffectIf (s.getB R.TIM_STAT_TREF_OK) .trefLos s
    [s.irqAfter ⟨.tim, 0⟩ 3, (R.TIM_STAT_TREF_LOS, 1), (R.TIM_STAT_TREF_OK, 0)]
    { s with tim := { s.tim with learnBroken := true } } ∧
  (∀ f : BitVec 2, EffectIf (s.get R.TIM_CFG_TREF_FREQ != f.toNat) (.trefFreqWrite f) s
    [(R.TIM_STAT_TREF_OK, 0), (R.TIM_CFG_TREF_FREQ, f.toNat)]
    { s with tim := { s.tim with learnBroken := true } }) ∧
  (∀ (k : Fin 32) (req : Requester),
    if s.get (R.TIM_ALM_CTRL_OWNER k) = Requester.code req then
      Effect (.alarmRelease k req) s [(R.TIM_ALM_CTRL_OWNER k, 0), (R.TIM_ALM_CTRL_EN k, 0)] s
    else Effect (.alarmRelease k req) s [(R.BLK_STAT_CONFLICT ⟨.tim, 0⟩, 1)] s) ∧
  Effect .ppsOutPulseEnd s [] { s with tim := { s.tim with pulse := false } } ∧
  Effect .tempValidTimeout s [(R.TIM_TEMP_VALID, 0), (R.TIM_STAT_TEMP_VALID, 0)]
    { s with tim := { s.tim with learnBroken := true } } ∧
  ∀ g : Fin 8, Effect (.gpioPulseEnd g) s [] { s with gpioPulse := clearBits s.gpioPulse (2 ^ g.val) }

/-- O41, tier 1: The time counter, its clock, its stamps and the servo's sources (R237, R238, R239, R240, R241, R242,
R243, R246, R248, R252, R253, R289). The model's choices, for which no rule is cited: when SET, STEP and a new
source act (log entries 76 and 207), the edges of PPS_IN (77 and 243), the registers of other sources (78),
discarded measurements (79), fractions of the integral and the interval (80 and 81), the loss of the source (82),
the measurements in use after a change (184). -/
def Obligations.TimeBase : Prop :=
  ∀ s : State,
  (∀ (period : Nat), Runs (.timeClockChange period) s (
      let c := s.clockChoice
      if c = s.tim.clock then s
      else
        let s := { s with tim := { s.tim with clock := c, period := period } }.setB R.TIM_STAT_FINE_READY false
        if c = 2 then (s.setB R.TIM_STAT_KEPT false).setB R.TIM_STAT_RC_USED true
        else if s.get R.TIM_STAT_QUAL = 2 then s.setB R.TIM_STAT_KEPT true
        else s)) ∧
  (Runs (.timeSet) s (
      let v := s.get R.TIM_SET_TIME
      if 1000000000 ≤ bits v 16 30 then s.conflict timBlk
      else { s with tim := { s.tim with waiting := s.tim.waiting ++ [.load (ofFullTime v * 2 ^ 32)] } })) ∧
  (Runs (.timeStep) s (
      { s with tim := { s.tim with waiting := s.tim.waiting ++ [.add (s.getI R.TIM_STEP_STEP * 2 ^ 32)] } })) ∧
  (∀ (l : Lane) (rx : Bool), Runs (.sftsSelect l rx) s (
      let s := (s.set R.TIM_SFTS_SEL_LANE l).setB R.TIM_SFTS_SEL_DIR rx
      let p := if rx then (s.stamp l).rx else (s.stamp l).tx
      let ofs := if rx then -s.getI (R.TIM_PLANE_RX_OFS l) else s.getI (R.TIM_PLANE_TX_OFS l)
      match p with
      | some (n, t) => (s.set R.TIM_SFTS_SFC_SFC n).set R.TIM_SFTS_TIME_TIME (reportedTime (addOffset t ofs * 256) true)
      | none => (s.set R.TIM_SFTS_SFC_SFC 0).set R.TIM_SFTS_TIME_TIME 0)) ∧
  (∀ (falling : Bool) (stamp : Nat), Runs (.ppsInEdge falling stamp) s (
      if !s.getB R.TIM_PPS_IN_EN || !s.timOn || !s.getB R.TIM_STAT_FINE_READY then s
      else
        let old := s.ppsEdge falling
        let s := ppsNote falling stamp s
        if s.getB R.TIM_PPS_IN_EDGE != falling then s else ppsJudge old stamp s)) ∧
  (∀ (v : Word), Runs (.hostOfsWrite v) s (
      if s.source = 3 then (measure (toInt 32 v.toNat) 0 false false s).1 else s)) ∧
  (Runs (.sourceLoss) s (
      let src := s.source
      if src = 0 || 4 ≤ src || s.tim.lost || !s.timOn then s
      else
        let s := { s with tim := { s.tim with lost := true, back := 0, good := 0, bad := 0 } }.irq timBlk 1
        if s.getB R.TIM_SERVO_CFG_AUTO_HOLD then holdEnter s
        else setQual 0 (setActive 0 (setRate s.tim.yI s)))) ∧
  (∀ (v : Word), Runs (.servoSrcWrite v) s (
      let s := (s.set R.TIM_SERVO_CFG_LANE (bits v.toNat 4 3)).set R.TIM_SERVO_CFG_AUTO_HOLD (bitAt v.toNat 8)
      let s := (s.set R.TIM_SERVO_CFG_AUTO_REVERT (bitAt v.toNat 9)).set R.TIM_SERVO_CFG_STEP_EN (bitAt v.toNat 10)
      let s := if bits v.toNat 16 8 = 0 then s.conflict timBlk else s.set R.TIM_SERVO_CFG_TMO (bits v.toNat 16 8)
      let src := bits v.toNat 0 3
      if 4 < src then s.conflict timBlk
      else { s with tim := { s.tim with srcOld := some s.source } }.set R.TIM_SERVO_CFG_SRC src)) ∧
  (∀ (l : Lane), Runs (.time l) s (
      match takeMessage l (· == 1) s with
      | none => s
      | some (m, s) =>
        let t2 := m.time.map fun t => addOffset t (-s.getI (R.TIM_PLANE_RX_OFS l))
        let s := s.putLink l { s.link l with arrival := some (ofBytesBE (m.payload.take 4), t2) }
        let s := (s.set (R.MSG_LANE_STAT_PEER_HOPS l) (bits (m.payload.getD 30 0) 0 3)).set (R.MSG_LANE_STAT_PEER_QUAL l)
          (bits (m.payload.getD 30 0) 3 3)
        if s.get R.TIM_SERVO_CFG_LANE == l && !s.getB (R.MSG_LANE_CFG_ROLE l) && s.getB (R.MSG_LANE_STAT_PEER_ROLE l)
            && !s.getB (R.MSG_LANE_STAT_ROLE_CONFLICT l) then timeExchange l m t2 s
        else s))

/-- O42, tier 1: PPS_OUT, oscillator learning, holdover and alarms (R238, R255, R258, R259, R260, R261, R262, R263,
R264, R265, R267, R268). The model's choices, for which no rule is cited: the alarm of PPS_OUT (log entry 84),
epochs and aging (86 and 245), holdover without data (87, 88 and 208), what an alarm reads and when it acts (89, 90,
91 and 227). -/
def Obligations.TimeOutputs : Prop :=
  ∀ s : State,
  (Runs (.ppsOutEnable) s ( ppsClaim s)) ∧
  (Runs (.ppsOutDisable) s (
      if s.getB R.TIM_PPS_OUT_EN then (ppsRelease s).setB R.TIM_PPS_OUT_EN false else s)) ∧
  (∀ (v : BitVec 30), Runs (.ppsOutOfsWrite v) s (
      if 1000000000 ≤ v.toNat % 2 ^ 30 then s.conflict timBlk
      else
        let s := s.set R.TIM_PPS_OUT_OFS_OFS v.toNat
        if s.getB R.TIM_PPS_OUT_EN then ppsClaim s else s)) ∧
  (∀ (k : Fin 32), Runs (.ppsOutAlarmWrite k) s (
      let moves := s.getB R.TIM_PPS_OUT_EN && s.get R.TIM_PPS_OUT_ALARM != k
      if moves then ppsClaim (ppsMove k s) else ppsMove k s)) ∧
  (∀ (y : Int) (t : Int), Runs (.oscLearnUpdate y t) s (
      let c := s.tim
      let y := s.meanRate y
      let t := clampInt c.learnMin c.learnMax t
      let near := match oscBin c.learnMin, oscBin c.learnMax with
        | some lo, some hi => hi ≤ lo + 2
        | _, _ => false
      let may := s.getB R.TIM_OSC_CFG_LEARN_EN && !c.learnBroken && s.learnHolds && near
      let s := learnBegin s
      match oscBin t with
      | none => s.setB R.TIM_OSC_STAT_LEARNING false
      | some b =>
        if !may then s.setB R.TIM_OSC_STAT_LEARNING false
        else
          let v := s.word64 (oscAddr s.tim.osc.epoch b)
          let n := min (bits v 32 16 + 1) 65535
          let m := min n (2 ^ s.get R.TIM_OSC_CFG_K)
          let f := toInt 32 (bits v 0 32)
          let d := y - f
          let num : Int := (d.natAbs : Int) - 16 * bits v 48 8
          let lo := num / (16 * m : Nat)
          let sp : Int := bits v 48 8 + lo + (if num % (16 * m : Nat) = 0 then 0 else s.free 1)
          let new := if (s.oscFreq s.tim.osc.epoch b).isNone then ofInt 32 y + 2 ^ 32 + 2 ^ 63
            else ofInt 32 (f + roundDiv d m) + 2 ^ 32 * n + 2 ^ 48 * (clampInt 0 255 sp).toNat + 2 ^ 63
          (nvsPut 3 (oscAddr s.tim.osc.epoch b - granaryBase) new 1 s.draw).setB R.TIM_OSC_STAT_LEARNING true)) ∧
  (Runs (.oscEpochAdvance) s (
      if s.get R.TIM_STAT_QUAL = 2
          && s.tim.osc.start + s.get R.TIM_OSC_CFG_EPOCH_DAYS * 86400 ≤ s.now / secondUnits then
        let e := (s.tim.osc.epoch + 1) % 16
        let a := agingOf s s.tim.osc.epoch
        setEpoch e (s.now / secondUnits :: s.tim.osc.ends) a (nvsClear (oscAddr e 0 - granaryBase) 4096 s)
      else s)) ∧
  (Runs (.oscClear) s ( setEpoch 0 [] s.tim.osc.aging (nvsClear (oscAddr 0 0 - granaryBase) 65536 s))) ∧
  (∀ (second : Bool), Runs (.holdoverPredict second) s (
      if s.get R.TIM_STAT_SRC_ACTIVE != 4 || s.tim.holdAt.isNone || !s.timOn then s
      else
        let s := if second then
          let g := holdGrowth s
          { s with tim := { s.tim with holdEst := s.tim.holdEst + g } }.draw.set R.TIM_HOLD_SECONDS
            (s.get R.TIM_HOLD_SECONDS + 1)
          else s
        holdQuality (holdRate s))) ∧
  (∀ (k : Fin 32) (v : Word) (req : Requester), Runs (.alarmCtrlWrite k v req) s (
      let owner := s.get (R.TIM_ALM_CTRL_OWNER k)
      if owner != 0 && owner != Requester.code req then s.claimRefused timBlk (alarmOff k) req
      else
        let en := bitAt v.toNat 16 == 1
        let was := s.getB (R.TIM_ALM_CTRL_EN k)
        let a := s.alarm k
        let s := (s.set (R.TIM_ALM_CTRL_SEC_HI k) (bits v.toNat 0 16)).setB (R.TIM_ALM_CTRL_EN k) en
        let s := if en && owner = 0 then s.set (R.TIM_ALM_CTRL_OWNER k) (Requester.code req) else s
        let s := if bitAt v.toNat 21 = 1 then s.setB (R.TIM_ALM_CTRL_LATE k) false else s
        let s := if bitAt v.toNat 22 = 1 then s.setB (R.TIM_ALM_CTRL_STEPPED k) false else s
        let sec := s.get (R.TIM_ALM_SEC_SEC_LO k) + 2 ^ 32 * bits v.toNat 0 16
        let c := sec * secondUnits + s.get (R.TIM_ALM_NSEC_NSEC k) * 65536
        let p := s.get (R.TIM_ALM_PERIOD_PERIOD k)
        let s := s.putAlarm k { a with c := c, period := p }
        if en && (c != a.c || p != a.period || !was) then alarmArm k s else s)) ∧
  (∀ (k : Fin 32), Runs (.alarmFire k) s (
      let a := s.alarm k
      if s.getB (R.TIM_ALM_CTRL_EN k) && s.timOn && !(a.period = 0 && a.fired) && a.next ≤ s.now then alarmFire k s else s))

/-- O43, tier 1: Faost cells, messages and queues (R275, R276, R278, R279, R281, R285, R287, R295, R298, R299). The
model's choices, for which no rule is cited: header bytes and cells without MSG (log entry 92), a cell whose CRC
fails (93), a push refused on several grounds (94), the order of messages (95), lateness (96 and 244), remote
requests (99), the report's contents (100). -/
def Obligations.FaostMessages : Prop :=
  ∀ s : State,
  (∀ (l : Lane) (bytes : List Nat), Runs (.faostCell l bytes) s (
      let b := (List.range 36).map fun i => bytes.getD i 0 % 256
      if !s.getB (R.LFR_STAT_SCR_LOCK l) || s.getB (R.LFR_STAT_RX_DIM l) || !s.blkOn msgBlk then s
      else if b.all (· == 0) then s
      else if crc16 (b.take 34) = ofBytesBE (b.drop 34) then
        if s.getB (R.MSG_LANE_STAT_LINK_UP l) then cellAccept l b (s.count msgBlk 0x41 1) else s
      else reasmDiscard l (b.getD 0 0 == 1) (s.satInc (R.MSG_ERR_CRC l) 1))) ∧
  (∀ (l : Lane) (time : Bool), Runs (.reassemblyTimeout l time) s ( reasmDiscard l time s)) ∧
  (∀ (l : Lane), Runs (.levelReport l) s (
      match takeMessage l (· == 2) s with
      | some (m, s) => s.putLink l { s.link l with report := m.payload }
      | none => s)) ∧
  (∀ (l : Lane), Runs (.regRdReq l) s ( remoteRequest l false s)) ∧
  (∀ (l : Lane), Runs (.regWrReq l) s ( remoteRequest l true s)) ∧
  (∀ (l : Lane), Runs (.regRdRsp l) s ( deliverFifo l (· == 4) s)) ∧
  (∀ (l : Lane), Runs (.regWrRsp l) s ( deliverFifo l (· == 6) s)) ∧
  (∀ (l : Lane), Runs (.app l) s ( deliverFifo l (fun t => 0x40 ≤ t && t ≤ 0x7F) s)) ∧
  (∀ (word : Word), Runs (.msgTxPush word) s (
      let q := bits word.toNat 0 3
      let cells := bits word.toNat 4 4 + 1
      let auth := bitAt word.toNat 9 == 1
      let type := bits word.toNat 16 8
      let lane := s.get (R.MSG_Q_CFG_LANE q)
      if 16 ≤ (s.queue q).length then s.set R.MSG_TX_RESULT_CODE 1
      else if !s.getB (R.MSG_Q_CFG_EN q) then s.set R.MSG_TX_RESULT_CODE 2
      else if !pushTypeOk type cells auth then s.set R.MSG_TX_RESULT_CODE 3
      else if (type = 3 || type = 5) && !auth then s.set R.MSG_TX_RESULT_CODE 4
      else
        let e : QEntry := {
          type := type, cells := cells, timed := bitAt word.toNat 8 == 1, auth := auth, tsReq := bitAt word.toNat 10 == 1
          tsId := bits word.toNat 24 8, payload := stagedPayload s cells
          launch := ofReportedTime (s.get R.MSG_TX_LAUNCH_TIME) / 256
          after := (s.link (s.lead lane)).lastCell0, fired := false }
        (s.putQueue q (s.queue q ++ [e])).set R.MSG_TX_RESULT_CODE 0)) ∧
  (∀ (l : Lane) (cell : Fin 7) (sfc : Word) (boundary : Nat), Runs (.faostCellSlot l cell sfc boundary) s (
      if s.getB (R.MSG_LANE_CFG_EN l.val) && s.blkOn msgBlk && s.txRuns l.val then
        let s := boundNote l.val boundary s
        let s := (List.range 8).foldl (fun s q => dropLate l.val 16 q s) s
        let s := fillSlot l.val cell.val sfc.toNat boundary s
        if cell.val = 0 then s.putLink l.val { s.link l.val with lastCell0 := some boundary } else s
      else s)) ∧
  (∀ (qs : Byte), Runs (.msgQFlush qs) s (
      (List.range 8).foldl (fun s q => if bitAt qs.toNat q = 1 then queueFlush q s else s) s)) ∧
  (∀ (l : Lane) (stats : List (Int × Nat)), Runs (.levelReportSend l stats) s (
      if s.laneCode l = 3 && s.fwcRunning then
        let head := [s.laneCode l, 0] ++ toBytesBE 2 (s.get (R.REQ_SNR_SNR l)) ++ List.replicate 28 0
        let body := (List.range 64).map fun i =>
          let p := stats.getD i (0, 0)
          toBytesBE 2 (ofInt 16 p.1) ++ toBytesBE 2 (p.2 % 65536)
        let auth := s.sessionUp l
        outPut l { type := 2, auth := auth, remote := false
                   payload := head ++ body.flatten ++ (if auth then List.replicate 32 0 else []) } s
      else s)) ∧
  Effect .rxPop s [] { s with msg := { s.msg with rx := s.msg.rx.drop 1 } } ∧
  Effect .rxFlush s [] { s with msg := { s.msg with rx := [] } }

/-- O44, tier 1: Conversions, measurement chains and their limits (R301, R302, R303, R304, R306, R308, R310, R313, R316,
R331). The model's choices, for which no rule is cited: the code and tag of a conversion (log entry 101), slots that
conflict (102), the coefficients of the filters, of which free values stand where the spec gives none (103),
comparators that settle (104). -/
def Obligations.Measurement : Prop :=
  ∀ s : State,
  (∀ (conv : Fin 2) (slot : Fin 16) (nv : Int) (stamp : Nat), Runs (.madcConversion conv slot nv stamp) s (
      if !s.blkOn (dev .madc) then s
      else match s.slotChain conv slot with
        | some c =>
          chainInput c (convCode (s.get (R.MFIL_CFG_INPUT c)) (s.get (R.MFIL_CFG_GAIN c)) nv) (convStamp s stamp) s
        | none =>
          if !s.getB R.MADC_CFG_PAIR && s.getB (R.MADC_RAW_CFG_EN conv)
              && takesSlot (s.get (R.MADC_RAW_CFG_DIV conv)) (s.get (R.MADC_RAW_CFG_PHASE conv)) slot then
            rawInput conv (convCode (s.get (R.MADC_RAW_CFG_INPUT conv)) (s.get (R.MADC_RAW_CFG_GAIN conv)) nv) s
          else if conv = 0 && s.slotFree 0 slot then anchorTake s
          else s)) ∧
  (∀ (conv : Fin 2) (v : Word) (req : Requester), Runs (.madcRawCfgWrite conv v req) s (
      if badUser v.toNat then s.conflict (dev .madc)
      else if bitAt v.toNat 0 = 1 && s.slotsHeld conv (bits v.toNat 2 3) (bits v.toNat 8 4) none then
        s.claimRefused (dev .madc) (0x050 + 4 * conv) req
      else
        let s := (s.set (R.MADC_RAW_CFG_EN conv) (bitAt v.toNat 0)).set (R.MADC_RAW_CFG_DIV conv) (bits v.toNat 2 3)
        let s := (s.set (R.MADC_RAW_CFG_PHASE conv) (bits v.toNat 8 4)).set (R.MADC_RAW_CFG_INPUT conv) (bits v.toNat 12 6)
        s.set (R.MADC_RAW_CFG_GAIN conv) (bits v.toNat 18 2))) ∧
  (∀ (pair : Bool) (chain : Fin 8), Runs (.madcPairWrite pair chain) s (
      let t := (s.setB R.MADC_CFG_PAIR pair).set R.MADC_CFG_PAIR_CHAIN chain
      if s.getB R.MADC_CFG_PAIR == pair && s.get R.MADC_CFG_PAIR_CHAIN == chain then t
      else (List.range 8).foldl (fun s c => if s.getB (R.MFIL_CFG_EN c) then chainChange c s else s) t)) ∧
  (∀ (c : Fin 8) (v : Word) (req : Requester), Runs (.mfilCfgWrite c v req) s (
      if badUser v.toNat then s.conflict (dev .mfil)
      else if bitAt v.toNat 0 = 1 && s.slotsHeld (bitAt v.toNat 1) (bits v.toNat 2 3) (bits v.toNat 8 4) (some c) then
        s.claimRefused (dev .mfil) (0x100 + 0x40 * c) req
      else
        let t := chainWrite c v.toNat s
        if (!s.getB (R.MFIL_CFG_EN c) && t.getB (R.MFIL_CFG_EN c)) || (chainFields c).any fun f => s.get f != t.get f then
          chainChange c t
        else t)) ∧
  (∀ (c : Fin 8), Runs (.mfilOutput c) s (
      let x := s.chain c
      match x.ready with
      | [] => s
      | o :: os =>
        if !s.blkOn (dev .mfil) then s
        else
          let s := s.putChain c { x with ready := os, past := (o :: x.past).take 8 }
          let s := limitCompare c 1 o.v (limitCompare c 0 o.v s)
          if s.getB (R.MFIL_GRID_RES_EN c) then gridOutput c s else chainDeliver c o s))

/-- O45, tier 1: The control DACs: table, states, codes, ramps and spans (R318, R320, R321, R322, R323, R324, R326,
R327, R328). The model's choices, for which no rule is cited: where 0 V lies (log entry 105), fractions of a step
(106), SLEW = 0 (107), the layout of the table in Granary (108). -/
def Obligations.ControlOutputs : Prop :=
  ∀ s : State,
  (∀ (readable : Bool), Runs (.cdacTableLoad readable) s (
      if s.coldAsserted || s.power == 3 || s.getB R.CDAC_STAT_LOADED then s
      else
        let table := if readable then s.cdacTable else none
        let s := (s.setB R.CDAC_STAT_LOADED true).irq (dev .cdac) 2
        match table with
        | none => (s.setB R.CDAC_STAT_TABLE_OK false).irq (dev .cdac) 1
        | some rows => (List.range 48).foldl (fun s n => cdacLoadRow n (rows.getD n (0, 4, 0, 0)) s)
            (s.setB R.CDAC_STAT_TABLE_OK true))) ∧
  (∀ (n : Fin 48), Runs (.cdacRun n) s (
      let code := s.get (R.CDAC_CODE_CODE n)
      if s.cdacState n = 2 then cdacRampTo n code (s.set (R.CDAC_CH_STAT_STATE n) 1)
      else if s.cdacState n = 0 && !s.getB R.CDAC_STAT_TABLE_OK && s.getB R.CDAC_STAT_LOADED then cdacRelease n code s
      else s.conflict (dev .cdac))) ∧
  (∀ (n : Fin 48), Runs (.cdacHold n) s (
      if s.cdacState n = 1 then
        let s := s.set (R.CDAC_CH_STAT_STATE n) 2
        if (s.dac n).pos < 0 then s.setB (R.CDAC_CH_STAT_RAMPING n) false
        else cdacJump n (s.get (R.CDAC_CH_STAT_OUT n)) s
      else s.conflict (dev .cdac))) ∧
  (∀ (n : Fin 48), Runs (.cdacFault n) s (
      if s.cdacState n = 0 then s.conflict (dev .cdac) else cdacFault n 3 none s)) ∧
  (∀ (n : Fin 48), Runs (.cdacClear n) s (
      if s.cdacState n = 4 && cdacCauses s n % 4 = 0 && !s.cdacTripped n then
        ((s.setB (R.CDAC_CH_STAT_CAUSE_TRIP n) false).setB (R.CDAC_CH_STAT_CAUSE_SOFT n) false).set
          (R.CDAC_CH_STAT_STATE n) 2
      else s.conflict (dev .cdac))) ∧
  (∀ (n : Fin 48) (code : BitVec 16), Runs (.cdacCodeWrite n code) s (
      let s := s.set (R.CDAC_CODE_CODE n) code.toNat
      if s.cdacState n = 1 then
        let d := s.dac n
        let s := if s.getB (R.CDAC_CH_STAT_RAMPING n) && 0 ≤ d.pos then
          s.putDac n { d with pos := (s.get (R.CDAC_CH_STAT_OUT n) : Int) * 100000 } else s
        cdacRampTo n (s.get (R.CDAC_CODE_CODE n)) s
      else s)) ∧
  (∀ (n : Fin 48), Runs (.cdacRampStep n) s (
      if s.getB (R.CDAC_CH_STAT_RAMPING n) then
        let d := s.dac n
        let goal : Int := (d.target : Int) * 100000
        let step : Int := slewStep (s.get (R.CDAC_CH_CFG_SLEW n)) (s.get (R.CDAC_CH_CFG_SPAN n))
        let up := d.pos < goal
        if step = 0 || (goal - d.pos).natAbs ≤ step then cdacArrive n s
        else
          let pos := if up then d.pos + step else d.pos - step
          (s.putDac n { d with pos := pos }).set (R.CDAC_CH_STAT_OUT n) (codeOf pos up)
      else s)) ∧
  (∀ (n : Fin 48) (v : Word), Runs (.cdacSpanWrite n v) s (
      let s := (s.set (R.CDAC_CH_CFG_SLEW n) (bits v.toNat 4 3)).set (R.CDAC_CH_CFG_TRIP_MASK n) (bits v.toNat 16 16)
      let span := bits v.toNat 0 2
      if span = s.get (R.CDAC_CH_CFG_SPAN n) then s
      else if s.cdacState n != 2 || (span == 3 && n < 32) then s.conflict (dev .cdac)
      else
        let s := (s.set (R.CDAC_CH_CFG_SPAN n) span).set (R.CDAC_CH_STAT_STATE n) 3
        let s := cdacJump n (if span = 2 then 32768 else 0) s
        s.putDac n { s.dac n with safe := true })) ∧
  (∀ (n : Fin 48), Runs (.cdacSpanHoldEnd n) s (
      if s.cdacState n = 3 && (s.dac n).safe then
        let s := cdacRampTo n (s.get (R.CDAC_CODE_CODE n)) s
        if s.getB (R.CDAC_CH_STAT_RAMPING n) then s else s.set (R.CDAC_CH_STAT_STATE n) 2
      else s)) ∧
  (∀ (n : Fin 48) (code : BitVec 16), Runs (.cdacFvWrite n code) s (
      let s := s.set (R.CDAC_FV_CODE n) code.toNat
      if s.cdacState n = 4 then cdacJump n (s.get (R.CDAC_FV_CODE n)) s else s))

/-- O46, tier 1: Register accesses by class, refusals, wide values, and the transactions of the management ports (R4,
R5, R6, R9, R286, R335, R338, R339, R341, R342, R343, R345). The bits of a class are stated on one word each: RO
LFR_STAT, RW IDEC_SF_CFG, W1C PWR_WAKE_STAT, RC LFR_PILOT_BAD, wide IDEC_CW and TIM_STEP. That a staged word is not
used up by the commit is the model's choice (log entry 199), and so is which free tag a READ_POST takes (log entry
113); no rule is cited for these. -/
def Obligations.AccessCommands : Prop :=
  ∀ s : State,
  (∀ (req : Requester) (owner : Bool) (addr : Word) (value : Word), Runs (.registerWrite req owner addr value) s (
      if s.reaches req then (wordWrite req owner addr.toNat value.toNat s).1 else s)) ∧
  (∀ (req : Requester) (addr : Word), Runs (.readClear req addr) s ( if s.reaches req then (wordRead req addr.toNat s).1 else s)) ∧
  (∀ (req : Requester) (addr : Word), Runs (.wideLowWordRead req addr) s (
      if s.reaches req then (wordRead req addr.toNat s).1 else s)) ∧
  (∀ (req : Requester) (owner : Bool) (addr : Word) (value : Word), Runs (.wideHighWordWrite req owner addr value) s (
      if s.reaches req then (wordWrite req owner addr.toNat value.toNat s).1 else s)) ∧
  (∀ (req : Requester), Runs (.msgTsPop req) s ( if s.reaches req then (wordRead req 0x00080104 s).1 else s)) ∧
  (∀ (port : PortId) (addr : Word) (data : List Word) (check : BitVec 16), Runs (.write port addr data check) s (
      if (data.map (·.toNat)).isEmpty || 64 < (data.map (·.toNat)).length then s
      else transact port (fun s =>
        if crcBad port (requestBytes 0x02 addr.toNat ((data.map (·.toNat)).length - 1) (data.map (·.toNat))) check.toNat then answer port .errCrc [] s
        else writePost port false true addr.toNat (data.map (·.toNat)) s) s)) ∧
  (∀ (port : PortId) (addr : Word) (len : BitVec 6) (check : BitVec 16), Runs (.read port addr len check) s (
      transact port (fun s =>
        if crcBad port (requestBytes 0x03 addr.toNat len.toNat []) check.toNat then answer port .errCrc (noData (len.toNat + 1)) s
        else match port with
          | .spi => let r := readNow port addr.toNat (len.toNat + 1) s; answer port r.2.1 r.2.2 r.1
          | .i3c => s.putPort port { s.port port with response := none, waiting := some (.read addr.toNat (len.toNat + 1)) }) s)) ∧
  (∀ (port : PortId) (addr : Word) (len : BitVec 6) (check : BitVec 16), Runs (.readPost port addr len check) s (
      transact port (fun s =>
        let x := s.port port
        if crcBad port (requestBytes 0x0B addr.toNat len.toNat []) check.toNat then answer port .errCrc (noData 1) s
        else if 8 ≤ x.tags.length then answer port .retry (noData 1) s
        else if !wordsMapped addr.toNat (len.toNat + 1) then answer port .errAddr (noData 1) (errorNote (portReq port) addr.toNat .errAddr s)
        else
          let tag := freeTag x
          let s := wakeWords (portReq port) false false addr.toNat (len.toNat + 1) s
          let s := s.putPort port { x with tags := x.tags ++
            [{ tag := tag, addr := addr.toNat, count := len.toNat + 1, ahead := x.queue.length, answer := none }] }
          answer port .ok [tag] s) s)) ∧
  (∀ (port : PortId) (tag : BitVec 3) (len : BitVec 6) (check : BitVec 16), Runs (.fetch port tag len check) s (
      transact port (fun s =>
        if crcBad port (requestBytes 0x0C tag.toNat len.toNat []) check.toNat then answer port .errCrc (noData (len.toNat + 1)) s
        else match port with
          | .spi => let r := fetchNow port tag.toNat (len.toNat + 1) s; answer port r.2.1 r.2.2 r.1
          | .i3c => s.putPort port { s.port port with response := none, waiting := some (.fetch tag.toNat (len.toNat + 1)) }) s)) ∧
  (∀ (port : PortId) (check : BitVec 16), Runs (.sync port check) s (
      transact port (fun s =>
        if crcBad port (requestBytes 0x0D 0 0 []) check.toNat then answer port .errCrc [] s
        else match port with
          | .spi => let r := syncNow port s; answer port r.2 [] r.1
          | .i3c => s.putPort port { s.port port with response := none, waiting := some .sync }) s)) ∧
  (∀ (port : PortId) (addr : Word) (data : List Word) (mac : Word), Runs (.writeOwner port addr data mac) s (
      if (data.map (·.toNat)).isEmpty || 64 < (data.map (·.toNat)).length then s
      else transact port (fun s =>
        let good := s.macOk addr.toNat (data.map (·.toNat)) mac.toNat
        let s := if good then s else macFail s
        let took := writeAccept port true good addr.toNat (data.map (·.toNat)).length s == .ok
        let s := writePost port true good addr.toNat (data.map (·.toNat)) s
        if took then s.wrapInc R.MGT_OWNER_CTR_COUNT 1 else s) s)) ∧
  (∀ (port : PortId) (frame : List Byte), Runs (.unknownOpcode port frame) s (
      let n := (frame.map (·.toNat)).length - 2
      transact port (fun s =>
        answer port (if crcBad port ((frame.map (·.toNat)).take n) (ofBytesBE ((frame.map (·.toNat)).drop n)) then .errCrc else .errAccess) [] s) s)) ∧
  (∀ (port : PortId), Runs (.postedWriteExecute port) s (
      if !s.portUp then s
      else match (s.port port).queue with
        | [] => s
        | w :: _ =>
          if s.wordsStatus (portReq port) w.owner true w.addr w.data.length == .wait then
            wakeWords (portReq port) w.owner true w.addr w.data.length s
          else
            match writeWords (portReq port) w.owner w.addr w.data (popWrite port s) with
            | (t, .ok, _) => t
            | (t, st, a) => postFail port st a t)) ∧
  (∀ (port : PortId) (tag : BitVec 3), Runs (.postedReadPerform port tag) s (
      if !s.portUp then s
      else match (s.port port).tags.find? fun r => r.tag == tag.toNat && r.answer.isNone && r.ahead == 0 with
        | none => s
        | some r =>
          if s.wordsStatus (portReq port) false false r.addr r.count == .wait then
            wakeWords (portReq port) false false r.addr r.count s
          else
            let o := readWords (portReq port) r.addr r.count s
            let x := o.1.port port
            let f (t : SplitRead) : SplitRead := if t.tag = tag.toNat then { t with answer := some (o.2.1, o.2.2) } else t
            o.1.putPort port { x with tags := x.tags.map f })) ∧
  (Runs (.i3cPrivateRead) s (
      if s.portUp then
        let w := s.i3c.waiting
        let s := { s with i3c := { s.i3c with response := none, waiting := none } }
        match w with
        | none => s
        | some (.fixed r) => { s with i3c := { s.i3c with response := some r } }
        | some (.read a n) => let r := readNow .i3c a n s; i3cRespond r.2.1 r.2.2 r.1
        | some (.fetch tag n) => let r := fetchNow .i3c tag n s; i3cRespond r.2.1 r.2.2 r.1
        | some .sync => let r := syncNow .i3c s; i3cRespond r.2 [] r.1
      else { s with i3c := { s.i3c with response := if s.resets.wick then some ⟨.wait, []⟩ else none, waiting := none } })) ∧
  (Runs (.remoteAccessExecute) s (
      if !s.blkOn (dev .msg) then s
      else match s.remoteNext with
        | none => s
        | some r =>
          if s.wordsStatus .remote false r.write r.addr (r.count + 1) == .wait then
            wakeWords .remote false r.write r.addr (r.count + 1) s
          else
            let o := remotePerform r s
            let t := { o.1 with msg := { o.1.msg with remote := markFirst o.1.msg.remote } }
            outPut r.lane { type := if r.write then 6 else 4, auth := true, remote := true
                            payload := responsePayload r.tag (Status.code o.2.1) r.count r.addr o.2.2 } t)) ∧
  (∀ (req : Requester) (owner : Bool) (a v : Word), s.reaches req = false →
    Effect (.registerWrite req owner a v) s [] s ∧ Effect (.readClear req a) s [] s ∧
    Effect (.wideLowWordRead req a) s [] s ∧ Effect (.wideHighWordWrite req owner a v) s [] s ∧
    Effect (.msgTsPop req) s [] s) ∧
  (∀ (req : Requester) (owner : Bool) (a v : Word) (b : Blk) (off : Nat), s.reaches req = true →
    targetOf a.toNat = some (.reg b off) →
    (∀ st, s.accessStatus req owner true (.reg b off) = st → st ≠ .ok → st ≠ .wait →
      Effect (.registerWrite req owner a v) s (errorAfter b req a.toNat st) s ∧
      Effect (.wideHighWordWrite req owner a v) s (errorAfter b req a.toNat st) s) ∧
    (∀ st, s.accessStatus req false false (.reg b off) = st → st ≠ .ok → st ≠ .wait →
      Effect (.readClear req a) s (errorAfter b req a.toNat st) s ∧
      Effect (.wideLowWordRead req a) s (errorAfter b req a.toNat st) s) ∧
    (s.accessStatus req owner true (.reg b off) = .wait →
      Effect (.registerWrite req owner a v) s [] (wakeBegin b.domain s.draw)) ∧
    (s.accessStatus req false false (.reg b off) = .wait →
      Effect (.readClear req a) s [] (wakeBegin b.domain s.draw)) ∧
    (ownerWord b off = true → owner = false → s.accessStatus req owner true (.reg b off) = .errAccess) ∧
    (s.classRefuses req owner true (.reg b off) = false → expertWord b off = true → s.expert b = false → req ≠ .fwc →
      s.accessStatus req owner true (.reg b off) = .errLocked) ∧
    ((Target.reg b off).header = false → s.inReset b = true → (∀ write, s.classRefuses req owner write (.reg b off) = false →
      s.lockRefuses req write (.reg b off) = false → s.accessStatus req owner write (.reg b off) = .errIsolated))) ∧
  (∀ (req : Requester) (owner : Bool) (a v : Word) (l : Lane), s.reaches req = true →
    (a.toNat = (⟨.lfr, l⟩ : Blk).base + 0x044 → s.accessStatus req owner true (.reg ⟨.lfr, l⟩ 0x044) = .ok →
      Effect (.registerWrite req owner a v) s [] s.draw) ∧
    (a.toNat = (⟨.idec, l⟩ : Blk).base + 0x04C → s.accessStatus req owner true (.reg ⟨.idec, l⟩ 0x04C) = .ok →
      Effect (.registerWrite req owner a v) s (s.sfAfter l v.toNat) s.draw) ∧
    (a.toNat = (dev .pwr).base + 0x068 → s.accessStatus req owner true (.reg (dev .pwr) 0x068) = .ok →
      Effect (.registerWrite req owner a v) s
        ([(R.PWR_WAKE_STAT_PIN, 0), (R.PWR_WAKE_STAT_WICK, 1), (R.PWR_WAKE_STAT_ALARM, 2), (R.PWR_WAKE_STAT_VIO, 3),
          (R.PWR_WAKE_STAT_REQ, 4), (R.PWR_WAKE_STAT_EDGE_LOST, 8)].map fun p =>
          (p.1, if bitAt v.toNat p.2 = 1 then 0 else s.get p.1 % 2)) s.draw) ∧
    (a.toNat = (⟨.lfr, l⟩ : Blk).base + 0x050 → s.accessStatus req false false (.reg ⟨.lfr, l⟩ 0x050) = .ok →
      Effect (.readClear req a) s [(R.LFR_PILOT_BAD_COUNT l, 0)] s.draw) ∧
    (a.toNat = (⟨.idec, l⟩ : Blk).base + 0x060 → s.accessStatus req false false (.reg ⟨.idec, l⟩ 0x060) = .ok →
      Ends (.wideLowWordRead req a) s fun t =>
        t.shadowWord (a.toNat + 4) 0 req = bits (s.get (R.IDEC_CW_COUNT l)) 32 32 ∧
        (∀ r, r ≠ req → ∀ x k, k < 4 → t.shadowWord x k r = s.shadowWord x k r) ∧
        ∀ f : Fld, ¬ f.counter → t.get f = s.get f) ∧
    (a.toNat = (⟨.idec, l⟩ : Blk).base + 0x064 → s.accessStatus req false false (.reg ⟨.idec, l⟩ 0x064) = .ok →
      (wordRead req a.toNat s).2.2 = s.shadowWord a.toNat 0 req) ∧
    (a.toNat = (dev .tim).base + 0x064 → s.accessStatus req owner true (.reg (dev .tim) 0x064) = .ok →
      Ends (.registerWrite req owner a v) s fun t => natGet t.staged (wideKey a.toNat req 0) = some v.toNat ∧
        ∀ f : Fld, ¬ f.counter → t.get f = s.get f) ∧
    (a.toNat = (dev .tim).base + 0x068 → s.accessStatus req owner true (.reg (dev .tim) 0x068) = .ok →
      ∀ w : Word, natGet s.staged (wideKey (a.toNat - 4) req 0) = some w.toNat →
      Effect (.wideHighWordWrite req owner a v) s [(R.TIM_STEP_STEP, w.toNat + 2 ^ 32 * v.toNat)] s.draw.draw) ∧
    (s.accessStatus req false false (.reg (dev .msg) 0x104) = .ok →
      (s.msg.ts = [] → Effect (.msgTsPop req) s [] s.draw) ∧
      ∀ e es, s.msg.ts = e :: es → Ends (.msgTsPop req) s fun t =>
        t.msg = { s.msg with ts := es } ∧ t.shadowWord 0x00080108 0 req = e.sfc % 2 ^ 32 ∧
        (∀ i : Fin 3, t.shadowWord (0x0008010C + 4 * i.val) 0 req =
          bits (if e.time = 0 then 0 else reportedTime (e.time * 256) false) (32 * i.val) 32) ∧
        ∀ f : Fld, ¬ f.counter → t.get f = s.get f)) ∧
  (∀ (p : PortId) (a : Word) (len : BitVec 6) (tag : BitVec 3) (check : BitVec 16) (data : List Word) (mac : Word)
      (frame : List Byte),
    let n := len.toNat + 1
    let ds := data.map (·.toNat)
    let req := portReq p
    (s.portUp = false → data ≠ [] → data.length ≤ 64 →
      let u := s.putPort p { s.port p with response := none, waiting := none }
      Effect (.write p a data check) s [] u ∧ Effect (.writeOwner p a data mac) s [] u ∧ Effect (.read p a len check) s [] u ∧
      Effect (.readPost p a len check) s [] u ∧ Effect (.fetch p tag len check) s [] u ∧ Effect (.sync p check) s [] u ∧
      Effect (.unknownOpcode p frame) s [] u ∧ Effect (.postedWriteExecute p) s [] s ∧
      Effect (.postedReadPerform p tag) s [] s) ∧
    (s.portUp = true →
      (crcBad p (requestBytes 0x03 a.toNat len.toNat []) check.toNat = true →
        Effect (.read p a len check) s [] (answer p .errCrc (noData n) s)) ∧
      (crcBad p (requestBytes 0x0B a.toNat len.toNat []) check.toNat = true →
        Effect (.readPost p a len check) s [] (answer p .errCrc (noData 1) s)) ∧
      (crcBad p (requestBytes 0x0C tag.toNat len.toNat []) check.toNat = true →
        Effect (.fetch p tag len check) s [] (answer p .errCrc (noData n) s)) ∧
      (crcBad p (requestBytes 0x0D 0 0 []) check.toNat = true → Effect (.sync p check) s [] (answer p .errCrc [] s)) ∧
      Effect (.unknownOpcode p frame) s [] (answer p
        (if crcBad p ((frame.map (·.toNat)).take (frame.length - 2)) (ofBytesBE ((frame.map (·.toNat)).drop (frame.length - 2)))
          then .errCrc else .errAccess) [] s) ∧
      (data ≠ [] → data.length ≤ 64 →
        (crcBad p (requestBytes 0x02 a.toNat (data.length - 1) ds) check.toNat = true →
          Effect (.write p a data check) s [] (answer p .errCrc [] s)) ∧
        (crcBad p (requestBytes 0x02 a.toNat (data.length - 1) ds) check.toNat = false →
          (32 ≤ (s.port p).queue.length → Effect (.write p a data check) s [] (answer p .retry [] s)) ∧
          (writeAccept p false true a.toNat data.length s = .ok → Ends (.write p a data check) s fun t =>
            (t.port p).queue = (s.port p).queue ++ [⟨false, a.toNat, ds⟩] ∧ t.mem = s.mem ∧
            ∀ f : Fld, ¬ f.counter → t.get f = s.get f) ∧
          (writeAccept p false true a.toNat data.length s ≠ .ok → Ends (.write p a data check) s fun t =>
            (t.port p).queue = (s.port p).queue ∧ t.mem = s.mem)) ∧
        (s.macOk a.toNat ds mac.toNat = true → writeAccept p true true a.toNat data.length s = .ok →
          Ends (.writeOwner p a data mac) s fun t =>
            (t.port p).queue = (s.port p).queue ++ [⟨true, a.toNat, ds⟩] ∧
            t.get R.MGT_OWNER_CTR_COUNT = (s.get R.MGT_OWNER_CTR_COUNT + 1) % 2 ^ R.MGT_OWNER_CTR_COUNT.w) ∧
        (s.macOk a.toNat ds mac.toNat = false → Ends (.writeOwner p a data mac) s fun t =>
          (t.port p).queue = (s.port p).queue ∧ t.get R.MGT_OWNER_CTR_COUNT = s.get R.MGT_OWNER_CTR_COUNT ∧
          t.get R.MGT_MAC_FAIL_COUNT =
            satAdd R.MGT_MAC_FAIL_COUNT.w (s.get R.MGT_MAC_FAIL_COUNT) 1 % 2 ^ R.MGT_MAC_FAIL_COUNT.w)) ∧
      (crcBad p (requestBytes 0x0B a.toNat len.toNat []) check.toNat = false →
        (8 ≤ (s.port p).tags.length → Effect (.readPost p a len check) s [] (answer p .retry (noData 1) s)) ∧
        ((s.port p).tags.length < 8 → wordsMapped a.toNat n = true → Ends (.readPost p a len check) s fun t =>
          (t.port p).tags = (s.port p).tags ++ [⟨freeTag (s.port p), a.toNat, n, (s.port p).queue.length, none⟩] ∧
          ∀ f : Fld, ¬ f.counter → t.get f = s.get f) ∧
        ((s.port p).tags.length < 8 → wordsMapped a.toNat n = false → Ends (.readPost p a len check) s fun t =>
          (t.port p).tags = (s.port p).tags)) ∧
      ((s.port p).queue = [] → Effect (.postedWriteExecute p) s [] s) ∧
      (∀ (w : PostedWrite) (ws : List PostedWrite) (v : Word) (l : Lane), (s.port p).queue = w :: ws → w.data = [v.toNat] →
        w.addr = (⟨.idec, l⟩ : Blk).base + 0x04C →
        (s.accessStatus req w.owner true (.reg ⟨.idec, l⟩ 0x04C) = .ok →
          Effect (.postedWriteExecute p) s (s.sfAfter l v.toNat) (popWrite p s).draw) ∧
        (s.accessStatus req w.owner true (.reg ⟨.idec, l⟩ 0x04C) = .wait →
          Effect (.postedWriteExecute p) s [] (wakeBegin (.lane l) s)) ∧
        ∀ st, s.accessStatus req w.owner true (.reg ⟨.idec, l⟩ 0x04C) = st → st ≠ .ok → st ≠ .wait →
          Ends (.postedWriteExecute p) s fun t => (t.port p).queue = ws ∧ t.getB R.MGT_PW_ERR_VALID = true ∧
            (s.getB R.MGT_PW_ERR_VALID = false → t.get R.MGT_PW_ERR_CODE = Status.code st ∧
              t.get R.MGT_PW_ERR_PORT = Requester.code req ∧ t.get R.MGT_PW_ERR_ADDR_ADDR = w.addr) ∧
            (t.port p).failure = some ((s.port p).failure.getD st)) ∧
      ((s.port p).tags.find? (fun r => r.tag == tag.toNat && r.answer.isNone && r.ahead == 0) = none →
        Effect (.postedReadPerform p tag) s [] s) ∧
      ∀ (r : SplitRead) (l : Lane),
        (s.port p).tags.find? (fun r => r.tag == tag.toNat && r.answer.isNone && r.ahead == 0) = some r →
        r.addr = (⟨.lfr, l⟩ : Blk).base + 0x050 → r.count = 1 →
        s.accessStatus req false false (.reg ⟨.lfr, l⟩ 0x050) = .ok →
        Effect (.postedReadPerform p tag) s [(R.LFR_PILOT_BAD_COUNT l, 0)] (s.draw.putPort p { s.port p with
          tags := (s.port p).tags.map fun t => if t.tag = tag.toNat then
            { t with answer := some (.ok, [s.get (R.LFR_PILOT_BAD_COUNT l)]) } else t }))) ∧
  (∀ (a : Word) (len : BitVec 6) (tag : BitVec 3) (check : BitVec 16), s.portUp = true →
    let n := len.toNat + 1
    (crcBad .spi (requestBytes 0x0D 0 0 []) check.toNat = false →
      (s.spi.queue ≠ [] → Effect (.sync .spi check) s [] (answer .spi .wait [] s)) ∧
      (s.spi.queue = [] → Effect (.sync .spi check) s []
        { s with spi := { s.spi with failure := none, response := some ⟨s.spi.failure.getD .ok, []⟩ } })) ∧
    (crcBad .spi (requestBytes 0x0C tag.toNat len.toNat []) check.toNat = false →
      (s.spi.tags.find? (fun r => r.tag == tag.toNat) = none →
        Effect (.fetch .spi tag len check) s [] (answer .spi .errAddr (noData n) s)) ∧
      ∀ r, s.spi.tags.find? (fun r => r.tag == tag.toNat) = some r →
        (r.answer = none → Effect (.fetch .spi tag len check) s [] (answer .spi .wait (noData r.count) s)) ∧
        ∀ st data, r.answer = some (st, data) → Effect (.fetch .spi tag len check) s []
          { s with spi := { s.spi with tags := s.spi.tags.filter (fun t => t.tag != tag.toNat), response := some ⟨st, data⟩ } }) ∧
    (crcBad .spi (requestBytes 0x03 a.toNat 0 []) check.toNat = false → ∀ l : Lane,
      a.toNat = (⟨.lfr, l⟩ : Blk).base + 0x050 → s.accessStatus .spi false false (.reg ⟨.lfr, l⟩ 0x050) = .ok →
      (s.spi.queue ≠ [] → Effect (.read .spi a 0 check) s [] (answer .spi .wait [0xFFFFFFFF] s)) ∧
      (s.spi.queue = [] → Effect (.read .spi a 0 check) s [(R.LFR_PILOT_BAD_COUNT l, 0)]
        (answer .spi .ok [s.get (R.LFR_PILOT_BAD_COUNT l)] s.draw))) ∧
    Effect (.sync .i3c check) s [] { s with i3c := { s.i3c with response := none, waiting := some .sync } } ∧
    Effect (.fetch .i3c tag len check) s [] { s with i3c := { s.i3c with response := none, waiting := some (.fetch tag.toNat n) } } ∧
    Effect (.read .i3c a len check) s [] { s with i3c := { s.i3c with response := none, waiting := some (.read a.toNat n) } } ∧
    (s.i3c.waiting = none → Effect .i3cPrivateRead s [] { s with i3c := { s.i3c with response := none } }) ∧
    ∀ r, s.i3c.waiting = some (.fixed r) →
      Effect .i3cPrivateRead s [] { s with i3c := { s.i3c with response := some r, waiting := none } }) ∧
  (s.portUp = false → Effect .i3cPrivateRead s [] { s with i3c := { s.i3c with
    response := if s.resets.wick then some ⟨.wait, []⟩ else none, waiting := none } }) ∧
  (s.blkOn (dev .msg) = false ∨ s.remoteNext = none → Effect .remoteAccessExecute s [] s) ∧
  ∀ (r : RemoteReq) (l : Lane), s.blkOn (dev .msg) = true → s.remoteNext = some r → r.write = false → r.count = 0 →
    r.addr = (⟨.lfr, l⟩ : Blk).base + 0x050 → s.accessStatus .remote false false (.reg ⟨.lfr, l⟩ 0x050) = .ok →
    Effect .remoteAccessExecute s [(R.LFR_PILOT_BAD_COUNT l, 0)]
      (outPut r.lane { type := 4, payload := responsePayload r.tag 0 0 r.addr [s.get (R.LFR_PILOT_BAD_COUNT l)],
                       auth := true, remote := true }
        { s.draw with msg := { s.msg with remote := markFirst s.msg.remote } })

/-- O47, tier 1: Common command codes that give addresses and answers (R346). The common command codes are those of MIPI
I3C Basic, PRESUMED (log entry 124), and so are the identity's layout and the status; no rule is cited for them. -/
def Obligations.BusAddressing : Prop :=
  ∀ s : State,
  (∀ (addr : BitVec 7), Runs (.entdaa addr) s (
      if s.portUp && !s.getB R.MGT_PORT_STAT_DA_VALID then addressPut addr.toNat s else s)) ∧
  (∀ (static : BitVec 7) (addr : BitVec 7), Runs (.setdasa static addr) s (
      if s.portUp && !s.getB R.MGT_PORT_STAT_DA_VALID && s.get R.MGT_WICK_STATIC == static.toNat then addressPut addr.toNat s else s)) ∧
  (∀ (old : BitVec 7) (addr : BitVec 7), Runs (.setnewda old addr) s (
      if s.portUp && s.getB R.MGT_PORT_STAT_DA_VALID && s.get R.MGT_PORT_STAT_DA == old.toNat then addressPut addr.toNat s else s)) ∧
  (Runs (.rstdaa) s ( if s.portUp then addressPut 0 s else s)) ∧
  (Runs (.getpid) s (
      cccAnswer (toBytesBE 2 Config.pidMaker.toNat ++ [0x32, 0x80] ++ toBytesBE 2 Config.pidTail.toNat) s)) ∧
  (Runs (.getbcr) s ( cccAnswer [0x00] s)) ∧
  (Runs (.getdcr) s ( cccAnswer [0x00] s)) ∧
  (Runs (.getstatus) s ( cccAnswer (toBytesBE 2 (s.free 16)) s.draw)) ∧
  (Runs (.getmwl) s ( cccAnswer (toBytesBE 2 s.target.maxWrite) s)) ∧
  (Runs (.getmrl) s ( cccAnswer (toBytesBE 2 s.target.maxRead) s))

/-- O48, tier 2: Common command codes that change the target's settings, each with its frame (R346). That the codes act
as in MIPI I3C Basic is PRESUMED (log entry 124); no rule is cited for it. -/
def Obligations.BusSettings : Prop :=
  ∀ s : State,
  (∀ e : Byte, EffectIf s.portUp (.enec e) s []
    { s with target := { s.target with events := orBits 8 s.target.events e.toNat } }) ∧
  (∀ e : Byte, EffectIf s.portUp (.disec e) s []
    { s with target := { s.target with events := clearBits s.target.events e.toNat } }) ∧
  (∀ n : BitVec 16, EffectIf s.portUp (.setmwl n) s [] { s with target := { s.target with maxWrite := n.toNat } }) ∧
  ∀ n : BitVec 16, EffectIf s.portUp (.setmrl n) s [] { s with target := { s.target with maxRead := n.toNat } }

/-- O49, tier 2: Supply, handshake and clock marks, each with its frame (R347, R358, R360, R370, R445, R494). The
model's choices, for which no rule is cited: the supply monitor (log entry 133) and REF_OK under COLD (139 and 191). -/
def Obligations.SupplyStatus : Prop :=
  ∀ s : State,
  (∀ r, Effect (.railGood r) s [(R.PWR_RAIL_STAT_OK (Rail.index r), 1)] s) ∧
  (∀ r, EffectIf (s.power == 0 && !s.coldAsserted && decide (Rail.index r < 4)) (.railUv r) s
    [s.irqAfter ⟨.pwr, 0⟩ 3, (R.PWR_RAIL_STAT_UV (Rail.index r), 1)] s) ∧
  EffectIf (s.getB (R.PWR_RAIL_STAT_OK 5)) .vbakLow s [s.irqAfter ⟨.pwr, 0⟩ 4, (R.PWR_RAIL_STAT_OK 5, 0)] s ∧
  (∀ d, Effect (.wakeHoldExpiry d) s [] { s with woken := s.woken.filter fun w => w.domain != d }) ∧
  (∀ i : Byte, EffectIf (s.handshake && s.pwr.deferring.contains i.toNat) (.handshakeDeferExpiry i) s []
    { s with pwr := { s.pwr with asked := i.toNat :: s.pwr.asked, deferring := s.pwr.deferring.filter (· != i.toNat) } }) ∧
  (if (s.getB R.CLK_STAT_REF_OK || s.coldAsserted) = true then Effect .refclkRestored s [] s
   else Effect .refclkRestored s (if s.getB R.CLK_STAT_BACKUP = true then
       [s.irqAfter ⟨.clk, 0⟩ 1, (R.CLK_STAT_BACKUP, 0), (R.CLK_STAT_REF_OK, 1)]
     else [(R.CLK_STAT_REF_OK, 1)]) s)

/-- O50, tier 1: Supplies, power states, wakes, performance levels and the loss of the reference (R347, R348, R358,
R361, R363, R366, R370, R371, R374, R379, R381, R452). The model's choices, for which no rule is cited: the monitor
and the switch-over (log entries 133 and 137), refused requests and handshakes (134 and 237), holds in a transition
(135 and 236), AVSBus failures and frames (136, 234 and 235), WAKE_N (138), the loss of REFCLK (139), requests on
the way down (225), the level change of a transition (228), a commit without a slot (160). -/
def Obligations.PowerCommands : Prop :=
  ∀ s : State,
  (∀ (r : Rail), Runs (.railLost r) s (
      match r with
      | .vio => vioLossOp s
      | .vbak => vbakLowOp s
      | r => supplyCold (r == .core) (s.setB (R.PWR_RAIL_STAT_OK (Rail.index r)) false))) ∧
  (Runs (.vioLoss) s (
      let s := s.setB (R.PWR_RAIL_STAT_OK 4) false
      if s.getB R.PWR_RAIL_STAT_ON_VBAK then { s with pwr := { s.pwr with vioBack := false } }
      else if s.getB (R.PWR_RAIL_STAT_OK 5) then
        let s := (changeStop s).satInc R.PWR_SWITCH_COUNT 1
        let s := lanesOff (List.range 8) (s.setB R.PWR_RAIL_STAT_ON_VBAK true)
        let s := powerEvent s.power 3 (s.get R.PWR_PL_STAT_LEVEL) 0 (2 ^ 20) s
        let s := commitTrigger 2 { s with pwr := { s.pwr with switching := true } }
        switchOverEnd s
      else supplyCold false s)) ∧
  (Runs (.vioReturn) s (
      if !s.getB R.PWR_RAIL_STAT_ON_VBAK then s
      else if s.pwr.switching then { s with pwr := { s.pwr with vioBack := true } }
      else vioBack s)) ∧
  (∀ (t : BitVec 2), Runs (.pwrStateReq t) s (
      let s := s.set R.PWR_STATE_REQ_TARGET t.toNat
      if t.toNat = 0 then wakeActive 4 s else requestState t.toNat s)) ∧
  (∀ (i : Byte), Runs (.handshakeAnswer i) s (
      if !s.handshake || !s.pwr.asked.contains i.toNat then s
      else match blkOfIrq i.toNat with
        | none => s
        | some b =>
          match (if s.levelHandshake then levelAnswer s b else stateAnswer s b) with
          | .ack =>
            let s := { s with pwr := { s.pwr with asked := s.pwr.asked.filter (· != i.toNat) } }
            if s.pwr.asked.isEmpty && s.pwr.deferring.isEmpty then proceed s else s
          | .defer =>
            let n := (natGet s.pwr.defers i.toNat).getD 0 + 1
            if n = 9 then refuse i.toNat 2 s
            else { s with pwr := { s.pwr with
              asked := s.pwr.asked.filter (· != i.toNat), deferring := i.toNat :: s.pwr.deferring
              defers := natSet s.pwr.defers i.toNat n 0 } }
          | .refuse => refuse i.toNat 1 s)) ∧
  (∀ (i : Byte), Runs (.handshakeTimeout i) s (
      if s.handshake && s.pwr.asked.contains i.toNat then refuse i.toNat 3 s else s)) ∧
  (Runs (.powerStateEntryDone) s (
      if s.pwr.stateStage != 2 || s.pwr.levelStage != 0 then s
      else
        let t := s.get R.PWR_STATE_TARGET
        if t = 3 then
          let wake := s.getB R.PWR_STATE_PEND_VALID
          let w := if s.pwr.wakes = 0 then 16 else s.pwr.wakes
          let s := enterTimekeep 1 (powerEvent s.power 3 s.pwr.fromLevel (s.get R.PWR_PL_STAT_LEVEL) 0 s)
          if wake then leaveTimekeep w s else s
        else
          let s := if t = 2 then enterRetain s else s
          changeOver (lanesConsider (wokenRejoin (stateDone s))))) ∧
  (Runs (.powerStateExitDone) s (
      if s.pwr.stateStage != 3 || s.pwr.levelStage != 0 then s
      else
        let old := s.power
        let t := s.get R.PWR_STATE_TARGET
        let s := (domainsBack old (stateDone s)).irq pwrBlk 6
        let s := if t = 0 then lanesConsider s else s
        let s := changeOver { s with woken := [] }
        if t = 0 then levelApplyCfg s else s)) ∧
  (∀ (late : Bool), Runs (.wakePin late) s (
      if s.getB R.PWR_WAKE_EN_PIN then edgeWake 0 late true s else s)) ∧
  (∀ (addr : BitVec 7) (late : Bool), Runs (.wickMatch addr late) s (
      if s.getB R.PWR_WAKE_EN_WICK
          && (addr.toNat = s.get R.MGT_WICK_STATIC || (addr.toNat != 0 && addr.toNat == s.get R.MGT_WICK_DYNAMIC)) then
        let s' := edgeWake 1 late false s
        if s.resets.leaving then { s' with resets := { s'.resets with wick := true } } else s'
      else s)) ∧
  (∀ (d : Domain), Runs (.domainWakeDone d) s (
      if s.pwr.stateStage != 2 && s.woken.any fun w => w.domain == d then
        let s := { s with woken := s.woken.map fun w => if w.domain = d then { w with ready := true } else w }
        (allBlocks.filter fun b => b.domain == d).foldl (fun s b => s.count b 0x04 1) s
      else s)) ∧
  (Runs (.stubCommitDone) s (
      if s.stub.commit.isSome then switchOverEnd (finishCommit s) else s)) ∧
  (∀ (v : Word), Runs (.plCfgWrite v) s (
      let s := ((s.set R.PWR_PL_CFG_REQ (bits v.toNat 0 2)).set R.PWR_PL_CFG_AUTO (bits v.toNat 4 1)).set R.PWR_PL_CFG_MIN (bits v.toNat 8 2)
      levelApplyCfg s)) ∧
  (Runs (.plAutoLower) s (
      if s.levelCfgApplies && s.getB R.PWR_PL_CFG_AUTO && s.cfgLevel < s.get R.PWR_PL_STAT_TARGET then
        requestLevel s.cfgLevel s
      else s)) ∧
  (∀ (ok : Bool), Runs (.avsFrameDone ok) s (
      if s.pwr.levelStage != 2 then s
      else if ok then
        { s with pwr := { s.pwr with
          avs := none, levelStage := if s.get R.PWR_PL_STAT_LEVEL < s.get R.PWR_PL_STAT_TARGET then 3 else 4 } }
      else if s.pwr.retried then avsFail s
      else { s with pwr := { s.pwr with retried := true } })) ∧
  (Runs (.avsSettleExpiry) s (
      if s.pwr.levelStage = 3 then
        levelSteps (s.get R.PWR_PL_STAT_TARGET) { s with pwr := { s.pwr with levelStage := 4 } }
      else s)) ∧
  (Runs (.plChangeDone) s (
      if s.pwr.levelStage != 4 then s
      else
        let old := s.get R.PWR_PL_STAT_LEVEL
        let t := s.get R.PWR_PL_STAT_TARGET
        let s := if s.pwr.stateStage = 0 then powerEvent s.power s.power old t 0 s else s
        let s := ((s.set R.PWR_PL_STAT_LEVEL t).setB R.PWR_PL_STAT_BUSY false).irq pwrBlk 2
        changeOver (burstsOver (lanesConsider { s with pwr := { s.pwr with levelStage := 0 } })))) ∧
  (Runs (.refclkLoss) s (
      if s.getB R.CLK_STAT_REF_OK && !s.coldAsserted then
        let s := ((s.setB R.CLK_STAT_REF_OK false).setB R.CLK_STAT_REF_LOS true).setB R.CLK_STAT_BACKUP true
        let s := s.irq (dev .clk) 0
        [0, 1].foldl (fun s sh => pllLose sh true (pllLose sh false s)) s
      else s))

/-- O51, tier 1: Asserting and releasing resets, and what each returns to reset (R8, R389, R390, R391, R392, R393, R394,
R395, R396, R397, R401, R429). SHEAF's clause is on the fields of REQ and IDEC. The model's choices, for which no
rule is cited: what delivery and reset leave (log entries 3 and 6), SRST with a key (117), the release of COLD
(140), holds at a release (144), WARM (145), a POR in a commit (161), a BLOCK reset of PIN (185), debug in RMA
(186), the requester of the EXPERT event (196), the TRNG's test (251). -/
def Obligations.Resets : Prop :=
  ∀ s : State,
  (Runs (.porAssert) s (
      let s := porWord s
      let t := if s.resets.pin then State.reset.setB R.RST_CAUSE_PIN true else State.reset
      { t with
        mem := s.mem.filter fun e => decide (granaryBase ≤ e.1)
        freeCount := s.freeCount + 1
        resets := { State.reset.resets with por := true, pin := s.resets.pin }
        calDev := { CalDev.reset with copy := s.calDev.copy, saved := s.calDev.saved, delay := s.calDev.delay }
        tim := { TimInt.reset with osc := s.store.kept.epoch }
        store := { MemInt.reset with
          ecc := s.store.ecc.filter fun e => decide (granaryBase / 8 ≤ e.1) && decide (e.1 < 2 ^ 32)
          spares := sparesOf s.store.kept.repairs, repairs := s.store.kept.repairs, boot := s.store.kept.boot
          kept := s.store.kept }
        fuses := storeTake s
        pending := s.pending })) ∧
  (Runs (.resetNAssert) s (
      assertCold (fun r => { r with pin := true }) R.RST_CAUSE_PIN 3 false s)) ∧
  (Runs (.global) s (
      assertCold (fun r => { r with global := true }) R.RST_CAUSE_GLOBAL 4 false s)) ∧
  (Runs (.warm) s ( assertWarm (fun r => { r with warm := true }) R.RST_CAUSE_WARM 5 s)) ∧
  (∀ (sh : Sheaf) (on : Bool), Runs (.sheaf sh on) s (
      if s.sheafReset sh.val == on then s
      else if on then
        let s := resetEvent (2 ^ (8 + sh.val)) ((s.setB (R.RST_CTRL_SHEAF sh.val) true).setB (R.RST_CAUSE_SHEAF sh.val) true)
        let s := passLeave sh.val (lanesOff ((List.range 4).map (4 * sh.val + ·)) s)
        pllsStop sh.val ((sheafBlocks sh.val).foldl (fun s b => blockReset b (s.free 3) s) s.draw)
      else
        let s := capFollow sh.val (s.setB (R.RST_CTRL_SHEAF sh.val) false)
        (List.range 4).foldl (fun s k => considerStart (4 * sh.val + k) s) s)) ∧
  (∀ (b : Blk), if allBlocks.contains b = true then Runs (.blockSrst b) s ( srstBy b (s.free 3) s.draw)
    else exec (.blockSrst b) s = .fault .noSuchTarget) ∧
  (∀ (b : Blk), if allBlocks.contains b = true then Runs (.blockResetRelease b) s (
      if s.getB (R.BLK_STAT_IN_RESET b) then
        let s := s.setB (R.BLK_STAT_IN_RESET b) false
        if s.inReset b then s else blockFollow b s
      else s)
    else exec (.blockResetRelease b) s = .fault .noSuchTarget) ∧
  (∀ (boot : BitVec 2) (clkmode : BitVec 2) (addr : BitVec 3), Runs (.coldRelease boot clkmode addr) s (
      if s.mayRelease then
        let s := if s.resets.supply then s.setB R.RST_CAUSE_COLD_SUPPLY true else s
        let s := addressKeep (strapsTake boot.toNat clkmode.toNat addr.toNat s)
        let s := if s.get R.TIM_CFG_TREF_FREQ = 0 then s.setB R.TIM_STAT_TREF_OK false else s
        let s := if s.resets.leaving then powerEvent 3 0 0 3 0 s else s
        let s := { s with resets := { s.resets with supply := false, waiting := false, leaving := false } }
        let s := (s.set R.PWR_STATE_STATE 0).setB R.TST_CFG_LBIST_BOOT s.store.kept.boot.lbist
        let s := if s.fuses.life = 3 && !s.getB R.SEC_STAT_LOCKDOWN then debugOpen 3 s else s
        let s := setPhase 1 (trngStart s)
        if s.held then faultLanes (holdCause s) s else s
      else s)) ∧
  (Runs (.wdtExpiry) s (
      if s.getB R.RST_WDT_CFG_RUNNING && !s.warmAsserted then
        assertWarm (fun r => { r with wdt := true }) R.RST_CAUSE_WDT 6 (commitTrigger 3 s)
      else s)) ∧
  (s.store.slot = none → Ends .porAssert s fun t =>
    (∀ f : Fld, f.key ≠ R.RST_CAUSE_PIN.key → t.get f = f.rst) ∧
    (∀ a, granaryBase ≤ a → a < granaryBase + granarySize → t.byteAt a = s.byteAt a) ∧
    t.fuses.life = s.fuses.life ∧ t.fuses.owners = s.fuses.owners ∧ t.pending = s.pending ∧ t.resets.por = true) ∧
  (∀ p ∈ [(Instr.resetNAssert, R.RST_CAUSE_PIN, { s.resets with pin := true, waiting := true }),
      (Instr.global, R.RST_CAUSE_GLOBAL, { s.resets with global := true, waiting := true })],
    if s.coldAsserted = true then Effect p.1 s [(p.2.1, 1)] { s with resets := p.2.2 }
    else Ends p.1 s fun t => t.resets = p.2.2 ∧ t.spi = Port.reset ∧ t.i3c = Port.reset ∧ t.shadow = [] ∧ t.staged = [] ∧
      t.woken = [] ∧
      ∀ f : Fld, keyKind f.key ≠ 3 → f.key ≠ R.SEC_STAT_TRNG_FAIL.key → t.get f = f.rst) ∧
  (s.coldAsserted = true → Effect .warm s [] s) ∧
  (s.coldAsserted = false → s.phase < 6 → Effect .warm s [(R.RST_CAUSE_WARM, 1)] s) ∧
  (s.coldAsserted = false → 6 ≤ s.phase → Ends .warm s fun t => t.resets = { s.resets with warm := true } ∧
    t.spi = Port.reset ∧ t.i3c = Port.reset ∧ (∀ f : Fld, keyKind f.key = 1 → t.get f = f.rst) ∧
    ∀ l : Lane, t.laneView l = if s.laneCode l = 2 ∨ s.laneCode l = 3 then s.laneIn l 4 else s.laneView l) ∧
  (∀ (sh : Sheaf) (on : Bool), s.sheafReset sh = on → Effect (.sheaf sh on) s [] s) ∧
  (∀ sh : Sheaf, s.sheafReset sh = false → Ends (.sheaf sh true) s fun t => t.sheafReset sh = true ∧
    (∀ l : Lane, l.val / 4 = sh.val → t.laneCode l = 0) ∧
    ∀ l : Lane, l.val / 4 = sh.val → ∀ k, k = BK.req ∨ k = BK.idec → ∀ f : Fld, ¬ f.counter → keyKind f.key = 0 →
      keyRegion f.key = (⟨k, l⟩ : Blk).base / 65536 → f.key ≠ (R.BLK_STAT_IN_RESET ⟨k, l⟩).key → t.get f = f.rst) ∧
  (∀ b : Blk, allBlocks.contains b = true →
    (s.srstRefused b = true → Effect (.blockSrst b) s [(R.BLK_STAT_CONFLICT b, 1)] s.draw) ∧
    (s.srstRefused b = false → b.kind ≠ .fwc → b.kind ≠ .gbx → Ends (.blockSrst b) s fun t =>
      t.getB (R.BLK_STAT_IN_RESET b) = true ∧ ∀ f : Fld, keyKind f.key = 0 → keyRegion f.key = b.base / 65536 →
        f.key ≠ (R.BLK_STAT_IN_RESET b).key → t.get f = f.rst) ∧
    (s.getB (R.BLK_STAT_IN_RESET b) = false → Effect (.blockResetRelease b) s [] s) ∧
    (s.getB (R.BLK_STAT_IN_RESET b) = true → (s.setB (R.BLK_STAT_IN_RESET b) false).inReset b = false →
      Effect (.blockResetRelease b) s ((R.BLK_STAT_IN_RESET b, 0) :: if b.kind.enWritable = true then
        [(R.BLK_STAT_STATE b, s.get (R.BLK_CTRL_EN b) % 2 ^ (R.BLK_STAT_STATE b).w)] else []) s)) ∧
  (∀ (boot clkmode : BitVec 2) (addr : BitVec 3),
    (s.mayRelease = false → Effect (.coldRelease boot clkmode addr) s [] s) ∧
    (s.mayRelease = true → s.held = false → Ends (.coldRelease boot clkmode addr) s fun t => t.phase = 1 ∧
      t.coldAsserted = false ∧ t.get R.RST_STRAP_BOOT = boot.toNat ∧ t.get R.RST_STRAP_CLKMODE = clkmode.toNat ∧
      t.get R.RST_STRAP_ADDR = addr.toNat ∧ t.power = 0)) ∧
  (s.getB R.RST_WDT_CFG_RUNNING = false ∨ s.warmAsserted = true → Effect .wdtExpiry s [] s)

/-- O52, tier 2: Ends of reset sources and the watchdog's kick, each with its frame (R239, R389, R392, R395). What the
watchdog's time is measured by is the model's choice (log entry 141), and how WARM ends (145); no rule is cited for
them. -/
def Obligations.ResetEnds : Prop :=
  ∀ s : State,
  Effect .porRelease s [] { s with resets := { s.resets with por := false } } ∧
  Effect .resetNRelease s [] { s with resets := { s.resets with pin := false } } ∧
  (∀ p, Effect (.resetPulseEnd p) s [] { s with resets := match p with
    | .global => { s.resets with global := false }
    | .warm => { s.resets with warm := false }
    | .wdt => { s.resets with wdt := false } }) ∧
  ∀ (req : Requester) (key : Word), Effect (.wdtKick req key) s
    (if req = .fwc ∧ key = 0x4F4B then [] else [(R.BLK_STAT_CONFLICT ⟨.rst, 0⟩, 1)]) s

/-- O53, tier 2: Status marks of measurement, self-test and security, each with its frame (R305, R317, R432, R465,
R472). The model's choices, for which no rule is cited: comparators that settle (log entry 104), marches (148), the
LBIST flag (151), failed attempts (163), that TRNG_FAIL in reset does nothing (13). -/
def Obligations.DeviceMarks : Prop :=
  ∀ s : State,
  (∀ en, Effect (.madcRefWrite en) s
    (if en = true then [(R.MADC_REF_EN, 1)] else [(R.MADC_REF_SETTLED, 0), (R.MADC_REF_EN, 0)]) s) ∧
  EffectIf (s.getB R.MADC_REF_EN && !s.getB R.MADC_REF_SETTLED) .madcRefSettled s
    [s.irqAfter ⟨.madc, 0⟩ 0, (R.MADC_REF_SETTLED, 1)] s ∧
  (∀ (c : Fin 8) (j : Fin 2), Effect (.mfilTrippedClear c j) s
    [if s.getB (R.MFIL_LIM_CFG_ACTIVE c j) = true then (R.BLK_STAT_CONFLICT ⟨.mfil, 0⟩, 1)
     else (R.MFIL_LIM_CFG_TRIPPED c j, 0)] s) ∧
  EffectIf (decide (s.get R.MEM_MARCH_STAT_STATE = 1)) .marchAbort s []
    { s with store := { s.store with marchStop := true } } ∧
  (∀ (word : BitVec 17) (mode : BitVec 2), Effect (.eccInject word mode) s
    [(R.MEM_INJ_CTRL_MODE, mode.toNat), (R.MEM_INJ_ADDR_WORD, word.toNat)] s) ∧
  (∀ boot once, Effect (.tstCfgWrite boot once) s [(R.TST_CFG_ONCE, b2n once), (R.TST_CFG_LBIST_BOOT, b2n boot)]
    (bootPut { s.store.boot with lbist := boot, once := once } s)) ∧
  Effect .ownBackoffExpiry s [] { s with sec := { s.sec with backoff := false } } ∧
  (if (s.getB R.SEC_STAT_TRNG_FAIL || s.inReset ⟨.sec, 0⟩) = true then Effect .trngFail s [] s
   else Effect .trngFail s [s.irqAfter ⟨.sec, 0⟩ 6, (R.SEC_STAT_TRNG_FAIL, 1)] s)

/-- O54, tier 1: Scrubbing, marches, bit writes and Granary writes (R412, R413, R418, R419, R420, R422, R423, R427,
R428). The model's choices, for which no rule is cited: one command's accesses to a word with an error (log entry
146), the scrubber (147), marches and their check bits (148, 246 and 247), Granary's writers and its own writes
(149, 150 and 245). -/
def Obligations.MemoryTests : Prop :=
  ∀ s : State,
  (∀ (memid : Byte) (word : Nat) (cls : Fin 4), Runs (.scrubRead memid word cls) s (
      if !s.getB R.MEM_SCRUB_EN || !scrubReads s memid.toNat || s.inReset memBlk || !s.started memBlk then s
      else
        let word := word % memWords memid.toNat
        let k := wordKey memid.toNat word
        let c := if s.classAt k = 0 then cls.val else s.classAt k
        if c = 0 then s
        else if c = 1 then
          (((s.putClass k 0).satInc R.MEM_ECC_CE_CNT_COUNT 1).setB R.MEM_ECC_STAT_CE_SEEN true).irq memBlk 0
        else eccFail memid.toNat word (c == 3) (s.putClass k c))) ∧
  (∀ (x : BitVec 20) (v : Word), Runs (.scratchBitSet x v) s (
      scratchAlias (x.toNat % scratchSize) (fun w => w ||| v.toNat) s)) ∧
  (∀ (x : BitVec 20) (v : Word), Runs (.scratchBitClear x v) s (
      scratchAlias (x.toNat % scratchSize) (fun w => clearBits w v.toNat) s)) ∧
  (∀ (memid : Byte) (preserve : Bool) (req : Requester), Runs (.marchStart memid preserve req) s (
      let s := (s.set R.MEM_MARCH_CTRL_MEMID memid.toNat).setB R.MEM_MARCH_CTRL_PRESERVE preserve
      if s.get R.MEM_MARCH_STAT_STATE = 1 || !marchAllowed memid.toNat preserve req s then s.conflict memBlk
      else
        let s := ((s.set R.MEM_MARCH_STAT_STATE 1).set R.MEM_MARCH_STAT_ROWS_REPAIRED 0).setB R.MEM_MARCH_STAT_NO_SPARE false
        let s := if 0x20 ≤ memid.toNat && memid.toNat < 0x22 then
          s.set (R.CLAIM_OWNER (capBlk (memid.toNat - 0x20))) (Requester.code req) else s
        { s with store := { s.store with marchId := memid.toNat, marchKeep := preserve, marchStop := false } })) ∧
  (∀ (words : List (Nat × List Nat)), Runs (.marchDone words) s (
      if s.get R.MEM_MARCH_STAT_STATE = 1 then
        let m := s.store.marchId
        let s := marchContents m s.store.marchKeep s.store.marchStop s
        let s := rowsRepair m words s
        let s := s.set R.MEM_MARCH_STAT_STATE
          (if s.store.marchStop then 4 else if s.getB R.MEM_MARCH_STAT_NO_SPARE then 3 else 2)
        s.irq memBlk 2
      else s)) ∧
  (∀ (ok : Bool), Runs (.nvsWordDone ok) s (
      match s.store.slot with
      | none =>
        match s.stub.commit with
        | none => s
        | some c => if ok then s.count (dev .nvs) 0x40 1 else nvsFail (0x300000 + 0x50000 * c.slot) s
      | some j =>
        if !ok then
          let s := nvsFail j.addr s
          let s := if j.kind = .clear then jobRest j s else nvsNext s
          let s := if j.command then { s with mbx := { s.mbx with fail := true } } else s
          if j.writer = 6 then nvsCmdEnd 3 2 s else s
        else
          let s := jobRest j ((nvsStore s).count (dev .nvs) 0x40 1)
          if j.writer = 6 && j.left ≤ 1 then nvsCmdEnd 2 0 s else s)) ∧
  (Runs (.nvsCmdWrite) s ( nvsCommand 1 s)) ∧
  (∀ (count : BitVec 16), Runs (.nvsCmdFill count) s ( nvsCommand (count.toNat + 1) s))

/-- O55, tier 1: Temperature samples, counter snapshots and the commands of the Stub (R434, R442, R445, R446, R447,
R448, R449, R450, R451). The model's choices, for which no rule is cited: ties among sensors (log entry 152), forced
events (153), snapshots (154, 155, 229 and 230), a counter that carries several times (16 and 239), cycle counters
(240), the ring during a commit (121, 156, 157, 158, 159 and 160). -/
def Obligations.ThermalAndEvents : Prop :=
  ∀ s : State,
  (∀ (temps : List Int) (raws : List Nat), Runs (.thmSample temps raws) s (
      if s.coldAsserted || s.power == 3 || s.inReset thmBlk then s
      else
        let s := thmJudge temps (thmCount raws s)
        let hot := hottest temps s.thmValid (s.free 4)
        let s := thmReport temps hot s.draw
        let s := thmForce temps s
        let s := match hot with
          | some h => thmLevels h.1 h.2 s
          | none =>
            if s.getB R.THM_CFG_COMPAT then { s with thm := { s.thm with
              warnUp := 0, warnDown := 0, throttleUp := 0, throttleDown := 0, shut := 0 } }
            else thmLevels (s.free 8 % 14) (tempAt temps (s.free 8 % 14)) s.draw
        calTempTrigger (throttleRefresh (thmShutdown temps hot s)))) ∧
  (∀ (p : Paused), Runs (.backgroundPauseEnd p) s ( pauseEnd p s)) ∧
  (Runs (.pmcSnap) s ( if s.blkOn (dev .pmc) then snapRequest s true else s)) ∧
  (Runs (.pmcSnapDone) s (
      if s.getB R.PMC_SNAP_STAT_BUSY then
        let s := allBlocks.foldl (fun s b =>
          (List.range 8).foldl (fun s c =>
            let s := clockCount b c s
            s.set (R.PMC_SNAP_BUF_COUNT b.irq c) (s.get (R.PMC_CNT_COUNT b c) + 2 ^ 63 * b2n (s.snapValid b))) s) s
        let s := (s.setB R.PMC_SNAP_STAT_BUSY false).wrapInc R.PMC_SNAP_STAT_SEQ 1
        (s.setB R.PMC_INT_PAUSE true).irq (dev .pmc) 0
      else s)) ∧
  (∀ (i : Byte) (c : Fin 8), Runs (.pmcOverflow i c) s (
      match blkOfIrq i.toNat with
      | some b =>
        let cycles := counterCounts s b 1 c && s.domainAwake b.domain
        let last := s.get (R.PMC_CNT_COUNT b c) = 2 ^ 48 - 1 && s.getB (R.PMC_EVSEL_EN b c) && !s.getB R.PMC_CTRL_FREEZE
        if cycles || last then carryRaise (counterCarry s b c (2 ^ 48)) else s
      | none => s)) ∧
  (∀ (tag : Byte), Runs (.evrLog tag) s ( s.event (dev .evr) tag.toNat 0x0F (s.get R.EVR_LOG_DATA_DATA))) ∧
  (∀ (n : Nat), Runs (.stubEventDrain n) s ( drainQueue n s)) ∧
  (∀ (i : BitVec 14) (ue : Bool), Runs (.evrRdSelect i ue) s (
      let s := (s.set R.EVR_RD_IDX_INDEX i.toNat).setB R.EVR_RD_IDX_UE ue
      let v := if ue then s.free 128 else s.ringAt (i.toNat % ringSize)
      let s := if ue then s.draw else s
      s.set R.EVR_RD_DATA_ENTRY v)) ∧
  (Runs (.evrCommit) s ( if s.blkState (dev .evr) = 2 then commitTrigger 5 s else s))

/-- O56, tier 1: Peer handshakes and sessions (R272, R291, R476, R477, R478, R479, R480). The model's choices, for which
no rule is cited: the handshake's order (log entry 169), restarts and CLOSE (170), the chain check and the generator
(8), header bytes while MSG is OFF (92). -/
def Obligations.PeerSessions : Prop :=
  ∀ s : State,
  (∀ (l : Lane) (b1 : Byte) (b2 : Byte) (b3 : Byte), Runs (.faostHeader l b1 b2 b3) s (
      let s := headerIn l b1.toNat b2.toNat b3.toNat s
      autoStart (s.lead l) s)) ∧
  (∀ (l : Lane), Runs (.hello l) s (
      match takeMessage l (· == 8) s with
      | none => s
      | some (m, s) =>
        let k := s.lead l
        if !s.peersAllowed then s
        else
          let s := ((sessionEnd k s).set (R.MSG_LANE_STAT_SESSION k) 1)
          if s.getB (R.MSG_LANE_CFG_ROLE k) || !s.getB (R.MSG_LANE_STAT_PEER_ROLE k) then peerAlert k 5 s
          else if helloAllowed k m.payload s then helloTake k 3 m.payload s
          else peerAlert k 3 s)) ∧
  (∀ (l : Lane), Runs (.helloReply l) s (
      match takeMessage l (· == 9) s with
      | none => s
      | some (m, s) =>
        let k := s.lead l
        if (s.session k).step != 1 then s
        else if helloAllowed k m.payload s then helloTake k 2 m.payload s
        else peerAlert k 3 s)) ∧
  (∀ (l : Lane), Runs (.cert l) s (
      match takeMessage l (· == 10) s with
      | none => s
      | some (m, s) =>
        let k := s.lead l
        let p := s.session k
        let n := ofBytesBE ((m.payload.drop 2).take 2)
        if p.step != 2 && p.step != 3 then s
        else if ofBytesBE (m.payload.take 2) != p.chain.length || 508 < n || n = 0 || p.chainLen < p.chain.length + n
            || 2048 < p.chainLen || m.payload.length < 4 + n then peerAlert k 1 s
        else
          let p := { p with chain := p.chain ++ (m.payload.drop 4).take n, transcript := p.transcript ++ m.payload }
          let s := s.putSession k p
          if p.chain.length = p.chainLen then chainDone k s else s)) ∧
  (∀ (l : Lane), Runs (.finish l) s (
      match takeMessage l (· == 11) s with
      | none => s
      | some (m, s) =>
        let k := s.lead l
        let p := s.session k
        if p.step != 4 && p.step != 5 then s
        else if !ecdsaVerify p.leaf (p.finDigest (p.step == 4)) (ofBytesBE (m.payload.take 96)) then peerAlert k 2 s
        else if p.step = 5 then peerUp k true s
        else if s.getB R.SEC_STAT_TRNG_FAIL then peerAlert k 6 s
        else peerUp k false (finishSend k false s))) ∧
  (∀ (l : Lane), Runs (.alert l) s (
      match takeMessage l (· == 12) s with
      | none => s
      | some (m, s) =>
        let k := s.lead l
        let code := m.payload.getD 0 0
        if s.get (R.MSG_LANE_STAT_SESSION k) = 1 then peerFail k (code % 8) s
        else
          let s := s.set (R.SEC_PEER_STAT_LAST_ALERT k) code
          if s.get (R.MSG_LANE_STAT_SESSION k) = 2 then autoStart k (sessionEnd k s) else s)) ∧
  (∀ (l : Lane), Runs (.close l) s (
      match takeMessage l (· == 13) s with
      | none => s
      | some (m, s) =>
        let k := s.lead l
        if m.auth && s.get (R.MSG_LANE_STAT_SESSION k) == 2 then autoStart k (sessionEnd k s) else s)) ∧
  (∀ (l : Lane), Runs (.peerHandshakeTimeout l) s (
      if s.get (R.MSG_LANE_STAT_SESSION l) = 1 then peerAlert l 4 s else s)) ∧
  (∀ (l : Lane), Runs (.peerHandshakeRetry l) s (
      if (s.session l).retry then autoStart l (s.putSession l { s.session l with retry := false }) else s))

/-- O57, tier 1: SEC's commands and what each leaves of nonce, session, lifecycle and owner, lockdown and tamper (R471,
R472, R473, R475, R481, R482, R483, R484, R485, R487). The model's choices, for which no rule is cited: the order of
refusals (log entry 162), nonces and failed attempts (163), ownership (164), scopes, RMA and DECOMMISSION (165),
lockdown in a transition and TAMPER (166, 236), the generator and the vendor's keys, which are values that nothing
constrains (8). -/
def Obligations.SecurityCommands : Prop :=
  ∀ s : State,
  (∀ (owner : Bool), Runs (.nonce owner) s ( secStart 1 owner s)) ∧
  (∀ (owner : Bool), Runs (.ownBegin owner) s ( secStart 2 owner s)) ∧
  (∀ (owner : Bool), Runs (.ownFinish owner) s ( secStart 3 owner s)) ∧
  (∀ (owner : Bool), Runs (.ownEnd owner) s ( secStart 4 owner s)) ∧
  (∀ (owner : Bool), Runs (.takeOwnership owner) s ( secStart 5 owner s)) ∧
  (∀ (owner : Bool), Runs (.transfer owner) s ( secStart 6 owner s)) ∧
  (∀ (owner : Bool), Runs (.debugUnlock owner) s ( secStart 7 owner s)) ∧
  (∀ (owner : Bool), Runs (.rma owner) s ( secStart 8 owner s)) ∧
  (∀ (owner : Bool), Runs (.decommission owner) s ( secStart 9 owner s)) ∧
  (∀ (owner : Bool), Runs (.lockdown owner) s (
      if s.get R.SEC_CMD_STAT_STATE = 1 then s.conflict secBlk
      else if s.getB R.SEC_STAT_LOCKDOWN then secEnd 1 s
      else if owner then secEnd 0 (lockdown 5 s)
      else secEnd 2 s)) ∧
  (Runs (.secCmdDone) s (
      if s.get R.SEC_CMD_STAT_STATE != 1 then s
      else if s.getB R.SEC_STAT_LOCKDOWN then secEnd 1 s
      else match s.sec.op with
        | 1 => nonceRun s
        | 2 => ownBeginRun s
        | 3 => ownFinishRun s
        | 4 => ownEndRun s
        | 5 => ownershipRun true s
        | 6 => ownershipRun false s
        | 7 => debugUnlockRun s
        | 8 => rmaRun s
        | _ => decommissionRun s)) ∧
  (Runs (.ownIdleTimeout) s ( if s.get R.SEC_OWN_CFG_IDLE = 0 then s else ownEnd 2 s)) ∧
  (∀ (cause : Fin 5), Runs (.tamper cause) s (
      if cause.val = 0 || 4 < cause.val || s.inReset secBlk then s
      else if (cause.val = 2 && !s.getB R.SEC_TAMPER_CFG_GLITCH_V) || (cause.val = 3 && !s.getB R.SEC_TAMPER_CFG_GLITCH_CLK) then
        secEvent 0x1D cause.val (s.irq secBlk 4)
      else lockdown cause.val s)) ∧
  (∀ owner : Bool, ∀ p ∈ [(1, Instr.nonce owner), (2, .ownBegin owner), (3, .ownFinish owner), (4, .ownEnd owner),
      (5, .takeOwnership owner), (6, .transfer owner), (7, .debugUnlock owner), (8, .rma owner), (9, .decommission owner)],
    if s.get R.SEC_CMD_STAT_STATE = 1 then Effect p.2 s [(R.BLK_STAT_CONFLICT (dev .sec), 1)] s
    else Effect p.2 s [(R.SEC_CMD_STAT_STATE, 1)] { s with sec := { s.sec with op := p.1, owner := owner } }) ∧
  (∀ owner : Bool,
    if s.get R.SEC_CMD_STAT_STATE = 1 then Effect (.lockdown owner) s [(R.BLK_STAT_CONFLICT (dev .sec), 1)] s
    else if s.getB R.SEC_STAT_LOCKDOWN = true then Effect (.lockdown owner) s (s.secAfter 1) s.secIdle
    else if owner = false then Effect (.lockdown owner) s (s.secAfter 2) s.secIdle
    else Ends (.lockdown owner) s fun t => t.getB R.SEC_STAT_LOCKDOWN = true ∧ t.get R.SEC_STAT_LD_CAUSE = 5 ∧
      t.get R.SEC_CMD_STAT_STATE = 2 ∧ t.get R.SEC_CMD_STAT_RESULT = 0 ∧
      t.sec.key = 0 ∧ t.sec.nonce = none ∧ t.sec.begun = none ∧ t.sec.kekBlocked = true) ∧
  (s.get R.SEC_CMD_STAT_STATE ≠ 1 → Effect .secCmdDone s [] s) ∧
  (s.get R.SEC_CMD_STAT_STATE = 1 → s.getB R.SEC_STAT_LOCKDOWN = true → Effect .secCmdDone s (s.secAfter 1) s.secIdle) ∧
  (s.get R.SEC_CMD_STAT_STATE = 1 → s.getB R.SEC_STAT_LOCKDOWN = false →
    let ended (r : Nat) : Prop := Effect .secCmdDone s (s.secAfter r) s.secIdle
    let ok (P : State → Prop) : Prop := Ends .secCmdDone s fun t => P t ∧ t.get R.SEC_CMD_STAT_STATE = 2 ∧
      t.get R.SEC_CMD_STAT_RESULT = 0
    let spent : State := { s.secIdle with sec := { s.secIdle.sec with nonce := none } }
    (s.sec.op = 1 → if s.getB R.SEC_STAT_TRNG_FAIL = true then ended 5
      else ok fun t => t.sec.nonce = some (s.random 256) ∧ bufBytes t 0 32 = toBytesBE 32 (s.random 256)) ∧
    (s.sec.op = 2 → if s.fuses.life ≠ 2 then ended 1 else if s.sec.backoff = true then ended 6
      else if s.getB R.SEC_STAT_TRNG_FAIL = true then ended 5
      else ok fun t => t.sec.begun = some (s.random 384, s.draw.random 384) ∧
        t.get R.SEC_STAT_OWN_SESSION = s.get R.SEC_STAT_OWN_SESSION) ∧
    (s.sec.op = 3 → (s.sec.begun = none ∨ s.ownerKey = none ∨ s.fuses.life ≠ 2 → ended 1) ∧
      ∀ n priv key, s.sec.begun = some (n, priv) → s.ownerKey = some key → s.fuses.life = 2 →
        let good := ecdsaVerify key (sha (ascii "LN3280-OWN" ++ s.idBytes ++ toBytesBE 48 n ++ toBytesBE 96 (publicKey priv)
          ++ bufBytes s 0 96)) (ofBytesBE (bufBytes s 96 96))
        (good = true → ok fun t => t.getB R.SEC_STAT_OWN_SESSION = true ∧ t.get R.MGT_OWNER_CTR_COUNT = 1 ∧
          t.sec.begun = none ∧ t.sec.fails = 0 ∧ t.sec.backoff = false ∧
          t.sec.key = hkdf (toBytesBE 48 (ecdh priv (ofBytesBE (bufBytes s 0 96)))) (toBytesBE 48 n)
            (ascii "LN3280 owner write") 32) ∧
        (good = false → Effect .secCmdDone s
          (s.secAfter 3 ++ [(R.SEC_FAIL_OWN, satAdd R.SEC_FAIL_OWN.w (s.get R.SEC_FAIL_OWN) 1 % 2 ^ R.SEC_FAIL_OWN.w)])
          { s.secIdle with sec := { s.secIdle.sec with begun := none, fails := s.sec.fails + 1,
                                                       backoff := s.sec.backoff || 4 ≤ s.sec.fails + 1 } })) ∧
    (s.sec.op = 4 → if s.sec.owner = false then ended 2 else if s.getB R.SEC_STAT_OWN_SESSION = false then ended 0
      else Effect .secCmdDone s (s.secAfter 0 ++ [s.irqAfter (dev .sec) 1, (R.SEC_STAT_OWN_SESSION, 0)])
        { s.secIdle with sec := { s.secIdle.sec with key := 0 } }) ∧
    (s.sec.op = 5 ∨ s.sec.op = 6 →
      if s.sec.op = 6 ∧ s.sec.owner = false then ended 2
      else if s.fuses.life ≠ (if s.sec.op = 5 then 1 else 2) ∨ s.sec.nonce = none then ended 1
      else ∀ n, s.sec.nonce = some n →
        let good := ecdsaVerify (ofBytesBE (bufBytes s 0 96)) (sha (ascii "LN3280-TAKE" ++ s.idBytes ++ toBytesBE 32 n))
          (ofBytesBE (bufBytes s 96 96))
        if good = false then Effect .secCmdDone s (s.secAfter 3) spent
        else if 4 ≤ s.fuses.owners.length then Effect .secCmdDone s (s.secAfter 4) spent
        else ok fun t => t.fuses.owners = s.fuses.owners ++ [ofBytesBE (bufBytes s 0 96)] ∧ t.fuses.life = 2 ∧
          t.sec.nonce = none ∧ (s.sec.op = 6 → t.getB R.SEC_STAT_OWN_SESSION = false ∧
            ∀ m, s.fuses.ownerSlot = some m → t.fuses.revoked = orBits 4 s.fuses.revoked (2 ^ m))) ∧
    (s.sec.op = 7 → if (s.fuses.life ≠ 1 ∧ s.fuses.life ≠ 2) ∨ s.sec.nonce = none then ended 1
      else ∀ n, s.sec.nonce = some n → if tokenGood 3 n s = false then Effect .secCmdDone s (s.secAfter 3) spent
        else ok fun t => t.getB R.SEC_LIFE_DEBUG = true ∧ t.getB R.SEC_STAT_OWN_SESSION = false ∧ t.sec.nonce = none ∧
          t.sec.scope = orBits 2 s.sec.scope (tokenScope s)) ∧
    (s.sec.op = 8 → if s.fuses.life = 2 ∧ s.sec.owner = false then ended 2
      else if (s.fuses.life ≠ 1 ∧ s.fuses.life ≠ 2) ∨ s.sec.nonce = none then ended 1
      else ∀ n, s.sec.nonce = some n → if tokenGood 4 n s = false then Effect .secCmdDone s (s.secAfter 3) spent
        else ok fun t => t.fuses.life = 3 ∧ t.fuses.identity = false ∧ t.getB R.SEC_LIFE_DEBUG = true ∧
          t.getB R.SEC_STAT_OWN_SESSION = false) ∧
    (s.sec.op = 9 → if s.fuses.life = 2 ∧ s.sec.owner = false then ended 2
      else if s.fuses.life = 0 ∨ s.fuses.life = 4 then ended 1
      else if bufBytes s 0 4 ≠ [0x44, 0x45, 0x43, 0x4D] then ended 3
      else ok fun t => t.fuses.life = 4 ∧ t.fuses.kek = false ∧ t.fuses.identity = false ∧ t.getB R.SEC_LIFE_DEBUG = false ∧
        t.phase = 9)) ∧
  (if s.get R.SEC_OWN_CFG_IDLE = 0 ∨ s.getB R.SEC_STAT_OWN_SESSION = false then Effect .ownIdleTimeout s [] s
   else Effect .ownIdleTimeout s [s.irqAfter (dev .sec) 1, (R.SEC_STAT_OWN_SESSION, 0)]
     { s with sec := { s.sec with key := 0 } }) ∧
  ∀ cause : Fin 5,
    if cause.val = 0 ∨ s.inReset (dev .sec) = true then Effect (.tamper cause) s [] s
    else if (cause.val = 2 ∧ s.getB R.SEC_TAMPER_CFG_GLITCH_V = false) ∨
        (cause.val = 3 ∧ s.getB R.SEC_TAMPER_CFG_GLITCH_CLK = false) then
      Effect (.tamper cause) s [s.irqAfter (dev .sec) 4] s
    else if s.getB R.SEC_STAT_LOCKDOWN = true then Effect (.tamper cause) s [] s
    else Ends (.tamper cause) s fun t => t.getB R.SEC_STAT_LOCKDOWN = true ∧ t.get R.SEC_STAT_LD_CAUSE = cause.val ∧
      t.sec.key = 0 ∧ t.sec.nonce = none ∧ t.sec.begun = none ∧ t.sec.kekBlocked = true

/-- O58, tier 1: Starting, stopping and expert management of a block, claims, interrupt routes and pins (R231, R238,
R266, R336, R337, R350, R352, R353, R356). The model's choices, for which no rule is cited: RELEASE without a claim
(log entry 116), the key (117), routes of absent sources (126), EN = 0 while STARTING (127), GPIO (129, 130 and
227), a block that the device has not, which is a fault (181). -/
def Obligations.BlockAndClaimControl : Prop :=
  ∀ s : State,
  (∀ (b : Blk), if allBlocks.contains b = true then Runs (.blockEnable b) s (
      if !b.kind.enWritable then s
      else
        let s := s.setB (R.BLK_CTRL_EN b) true
        if !s.enActs b then s
        else if s.get (R.BLK_STAT_STATE b) = 0 then s.set (R.BLK_STAT_STATE b) 1
        else if s.get (R.BLK_STAT_STATE b) = 3 then s.setB (R.BLK_STAT_RESTART_PENDING b) true
        else s)
    else exec (.blockEnable b) s = .fault .noSuchTarget) ∧
  (∀ (b : Blk), if allBlocks.contains b = true then Runs (.blockDisable b) s (
      if !b.kind.enWritable then s
      else
        let s := s.setB (R.BLK_CTRL_EN b) false
        if !s.enActs b then s
        else
          let s := s.setB (R.BLK_STAT_RESTART_PENDING b) false
          if s.get (R.BLK_STAT_STATE b) = 1 || s.get (R.BLK_STAT_STATE b) = 2 then
            let s := s.set (R.BLK_STAT_STATE b) 3
            if b.kind = .cal then calStop s else s
          else s)
    else exec (.blockDisable b) s = .fault .noSuchTarget) ∧
  (∀ (b : Blk), if allBlocks.contains b = true then Runs (.blockStartDone b) s (
      if b.kind.enWritable && s.get (R.BLK_STAT_STATE b) = 1 then
        let s := s.set (R.BLK_STAT_STATE b) 2
        if b.kind = .tim then alarmsSkipped s else if b.kind = .cal then calResume s else s
      else s)
    else exec (.blockStartDone b) s = .fault .noSuchTarget) ∧
  (∀ (b : Blk), if allBlocks.contains b = true then Runs (.blockStopDone b) s (
      if b.kind.enWritable && s.get (R.BLK_STAT_STATE b) = 3 then
        let s := if b.kind = .tim then s.setB R.TIM_STAT_FINE_READY false else s
        if s.getB (R.BLK_STAT_RESTART_PENDING b) then
          (s.setB (R.BLK_STAT_RESTART_PENDING b) false).set (R.BLK_STAT_STATE b) 1
        else s.set (R.BLK_STAT_STATE b) 0
      else s)
    else exec (.blockStopDone b) s = .fault .noSuchTarget) ∧
  (∀ (b : Blk) (req : Requester), if allBlocks.contains b = true then Runs (.expertArm b req) s (
      if s.get (R.BLK_CTRL_EXPERT b) = 2 then s.conflict b
      else expertPut b 1 (Requester.code req) (s.set (R.BLK_ARM_BY b) (Requester.code req)))
    else exec (.expertArm b req) s = .fault .noSuchTarget) ∧
  (∀ (b : Blk) (req : Requester), if allBlocks.contains b = true then Runs (.expertUnlock b req) s (
      if s.get (R.BLK_CTRL_EXPERT b) = 1 then
        if s.get (R.BLK_ARM_BY b) = Requester.code req then expertPut b 2 (Requester.code req) s
        else expertPut b 0 (Requester.code req) (s.conflict b)
      else s.conflict b)
    else exec (.expertUnlock b req) s = .fault .noSuchTarget) ∧
  (∀ (b : Blk) (req : Requester), if allBlocks.contains b = true then Runs (.expertRelock b req) s ( expertPut b 0 (Requester.code req) s)
    else exec (.expertRelock b req) s = .fault .noSuchTarget) ∧
  (∀ (b : Blk), if allBlocks.contains b = true then Runs (.expertArmTimeout b) s (
      if s.get (R.BLK_CTRL_EXPERT b) = 1 then expertPut b 0 (s.get (R.BLK_ARM_BY b)) s else s)
    else exec (.expertArmTimeout b) s = .fault .noSuchTarget) ∧
  (∀ (b : Blk) (v : Word), if allBlocks.contains b = true then Runs (.irqForce b v) s (
      b.kind.sources.foldl (fun s n => if bitAt v.toNat n = 1 then s.irq b n else s) s)
    else exec (.irqForce b v) s = .fault .noSuchTarget) ∧
  (∀ (c : Claim) (req : Requester), Runs (.claimRelease c req) s (
      match c with
      | .capture sh =>
        let b := capBlk sh.val
        if s.get (R.CLAIM_OWNER b) = Requester.code req then s.set (R.CLAIM_OWNER b) 0 else s.conflict b
      | .alarm k => alarmReleaseOp k.val req s
      | .gpio g =>
        if s.get (R.PIN_GPIO_CFG_OWNER g.val) = Requester.code req then gpioFree g.val s else s.conflict pinBlk)) ∧
  (∀ (index : Byte) (res : BitVec 5), Runs (.claimForce index res) s (
      match blkOfIrq index.toNat with
      | some ⟨.tim, _⟩ => s.set (R.TIM_ALM_CTRL_OWNER res.toNat) 0
      | some ⟨.pin, _⟩ => if res.toNat < 8 then s.set (R.PIN_GPIO_CFG_OWNER res.toNat) 0 else s.conflict mgtBlk
      | some ⟨.cap, c⟩ => if res.toNat = 0 then s.set (R.CLAIM_OWNER (capBlk c)) 0 else s.conflict mgtBlk
      | _ => s.conflict mgtBlk)) ∧
  (∀ (int : Bool) (alarm : Bool) (fwc : Bool), Runs (.irqRouteWrite int alarm fwc) s (
      let n := s.get R.IRQ_ROUTE_SEL_BIT
      match s.routeBlk with
      | none => s
      | some b =>
        if !sourceExists b n then s
        else if alarm && !sourceUrgent b n then s.conflict irqBlk
        else s.set (R.IRQ_ROUTES_ROUTE b.irq n) (8 + b2n int + 2 * b2n alarm + 4 * b2n fwc))) ∧
  (∀ (req : Requester) (g : Fin 8) (v : Word), Runs (.gpioCfgWrite req g v) s (
      let owner := s.get (R.PIN_GPIO_CFG_OWNER g)
      if owner != 0 && owner != Requester.code req then
        if bitAt v.toNat 19 = 1 then s.conflict pinBlk else s.claimRefused pinBlk (gpioOff g) req
      else if bitAt v.toNat 19 = 1 then if owner = 0 then s.conflict pinBlk else gpioFree g s
      else
        let s := gpioPut g v.toNat s
        if s.get (R.PIN_GPIO_CFG_FUNC g) != 0 || s.getB (R.PIN_GPIO_CFG_DIR g) then
          s.set (R.PIN_GPIO_CFG_OWNER g) (Requester.code req)
        else s)) ∧
  (∀ (g : Fin 8) (level : Bool), Runs (.gpioEdge g level) s (
      if s.get (R.PIN_GPIO_CFG_FUNC g) != 0 || s.getB (R.PIN_GPIO_CFG_DIR g) || s.getB (R.PIN_GPIO_CFG_IN g) == level then s
      else
        let s := s.setB (R.PIN_GPIO_CFG_IN g) level
        if bitAt (s.get (R.PIN_GPIO_CFG_IRQ_EDGE g)) (if level then 0 else 1) = 1 then s.irq pinBlk g else s))

/-- O59, tier 1: The mailbox and what firmware does with each of its commands (R101, R113, R114, R223, R355, R454, R468,
R470). The model's choices, for which no rule is cited: refused submits (log entry 131), aborts and few arguments
(132), the order of commands (172), FW_INFO (173), LINK_BRINGUP and CAPTURE (174), stores (175, 176 and 177), SPDM
(168 and 250), unknown areas (74 and 245). -/
def Obligations.MailboxCommands : Prop :=
  ∀ s : State,
  (∀ (slot : Fin 4) (opcode : Byte) (len : BitVec 9) (owner : Bool), Runs (.mbxSubmit slot opcode len owner) s (
      if !s.mbxServes then s.set R.FWC_MBX_RESULT_CODE 2
      else if s.get (R.FWC_MBX_SLOT_STATE slot.val) != 0 then s.set R.FWC_MBX_RESULT_CODE 1
      else if 256 < len.toNat then s.set R.FWC_MBX_RESULT_CODE 3
      else
        let s := (s.set R.FWC_MBX_RESULT_CODE 0).set (R.FWC_MBX_SLOT_OPCODE slot.val) opcode.toNat
        let s := (s.setB (R.FWC_MBX_SLOT_OWNER slot.val) owner).set (R.FWC_MBX_SLOT_RLEN slot.val) 0
        if !mbxKnown.contains opcode.toNat then mbxEnd slot.val 1 [] s
        else if mbxOwner.contains opcode.toNat && !owner then mbxEnd slot.val 3 [] s
        else
          { s.set (R.FWC_MBX_SLOT_STATE slot.val) 1 with mbx := { s.mbx with
            order := s.mbx.order ++ [slot.val], lens := s.mbx.lens.set slot.val len.toNat } })) ∧
  (∀ (slots : BitVec 4), Runs (.mbxAck slots) s (
      (List.range 4).foldl (fun s n =>
        if bitAt slots.toNat n = 0 then s
        else if s.get (R.FWC_MBX_SLOT_STATE n) = 3 then s.set (R.FWC_MBX_SLOT_STATE n) 0
        else s.conflict fwcBlk) s)) ∧
  (∀ (slots : BitVec 4), Runs (.mbxAbort slots) s (
      (List.range 4).foldl (fun s n =>
        if bitAt slots.toNat n = 0 then s
        else if s.get (R.FWC_MBX_SLOT_STATE n) = 1 then mbxEnd n 7 [] s
        else if s.get (R.FWC_MBX_SLOT_STATE n) = 2 then
          { s with mbx := { s.mbx with abort := orBits 4 s.mbx.abort (2 ^ n) } }
        else s) s)) ∧
  (∀ (slot : Fin 4) (timeout : Bool), Runs (.mbxCommandDone slot timeout) s (
      if s.mbxServes && s.get (R.FWC_MBX_SLOT_STATE slot) = 2 then
        let op := s.get (R.FWC_MBX_SLOT_OPCODE slot)
        if bitAt s.mbx.abort slot = 1 then commandAbort slot op s else commandEnd slot op timeout s
      else s)) ∧
  (∀ (slot : Fin 4), Runs (.fwInfo slot) s (
      mbxStart slot 0x01 0 (fun s =>
        let bank := s.get R.FWC_STAT_BANK
        mbxEnd slot 0 [bank + 256 * (s.boot.version % 2 ^ 24), (s.imageAt (bankBase (1 - bank))).field 0xC, s.fuses.fwSvn] s) s)) ∧
  (∀ (slot : Fin 4), Runs (.linkBringup slot) s (
      mbxStart slot 0x10 2 (fun s =>
        mbxRun slot ((maskLanes (s.mbxWord slot 0)).foldl (fun s l => if s.laneEn l then s else laneEnableOp l s) s)) s)) ∧
  (∀ (slot : Fin 4), Runs (.linkRestart slot) s (
      mbxStart slot 0x11 1 (fun s =>
        mbxEnd slot 0 [] ((maskLanes (s.mbxWord slot 0)).foldl (fun s l =>
          if s.laneEn l && s.laneUp l then enterState l 1 0 true s else s) s)) s)) ∧
  (∀ (slot : Fin 4), Runs (.calStartup slot) s (
      mbxStart slot 0x20 1 (fun s =>
        let ls := maskLanes (s.mbxWord slot 0)
        if ls.any fun l => s.laneCode l != 0 then mbxEnd slot 2 [] s
        else if s.calDev.startup then mbxEnd slot 6 [] s
        else mbxRun slot { passBegin ls s with calDev := { s.calDev with
          startupLanes := s.calDev.startupLanes.filter (fun l => !ls.contains l) ++ ls } }) s)) ∧
  (∀ (slot : Fin 4), Runs (.capture slot) s (
      mbxStart slot 0x30 4 (fun s =>
        let c := s.mbxWord slot 0
        if 2 ≤ c then mbxEnd slot 2 [] s
        else if s.get (R.CLAIM_OWNER (capBlk c)) != 0 then mbxEnd slot 6 [] s
        else
          let base := (capBlk c).base
          let s := fwcWrites [(base + 0x040, s.mbxWord slot 1), (base + 0x044, s.mbxWord slot 2), (base + 0x048, 1)] s
          if s.get (R.CAP_STAT_STATE c) = 1 then mbxRun slot s else mbxEnd slot 6 [] s) s)) ∧
  (∀ (slot : Fin 4), Runs (.spdm slot) s (
      mbxStart slot 0x40 1 (fun s =>
        let count := s.mbxWord slot 0
        if 1020 < count || 4 * (s.mbx.lens.getD slot 0 - 1) < count then mbxEnd slot 2 [] s
        else
          let r := spdmAnswer ((wordsLE (s.mbxArgs slot 1)).take count) (s.getB (R.FWC_MBX_SLOT_OWNER slot)) s
          let out := r.2.take 1020
          mbxEnd slot 0 (out.length :: bytesWords out) r.1) s)) ∧
  (∀ (slot : Fin 4), Runs (.profileApply slot) s (
      mbxStart slot 0x50 1 (fun s =>
        let k := s.mbxWord slot 0
        if 8 ≤ k then mbxEnd slot 2 [] s
        else if !profileVerifies s k then mbxEnd slot 4 [] (secEvent 0x12 k s)
        else
          let r := recordsApply 0 (profileRecords (s.imageAt (profileBase k))) (mbxRun slot s)
          if !r.1.mbxServes then r.1
          else match r.2 with
            | none => mbxEnd slot 0 [] r.1
            | some (i, st) => mbxEnd slot 2 [i, st] r.1) s)) ∧
  (∀ (slot : Fin 4), Runs (.profileStore slot) s ( storeOp slot 0x51 s)) ∧
  (∀ (slot : Fin 4), Runs (.granaryWrite slot) s ( storeOp slot 0x60 s)) ∧
  (∀ (slot : Fin 4), Runs (.fwStore slot) s ( storeOp slot 0x61 s)) ∧
  (∀ (slot : Fin 4), Runs (.fwSelect slot) s (
      mbxStart slot 0x62 1 (fun s =>
        let bank := s.mbxWord slot 0
        if bank < 2 then mbxEnd slot 0 [] (bootPut { s.store.boot with bank := bank } s)
        else mbxEnd slot 2 [] s) s)) ∧
  (∀ (slot : Fin 4), Runs (.stubErase slot) s (
      mbxStart slot 0x63 1 (fun s =>
        if s.mbxWord slot 0 < 8 then mbxEnd slot 0 [] (stubErase (s.mbxWord slot 0) s) else mbxEnd slot 2 [] s) s))

/-- O60, tier 1: The order of the start-up phases, the other bank, the download's GO and the ways into management-only
service (R394, R402, R404, R405, R406, R407). The model's choices, for which no rule is cited: when PHASE shows
DOWNLOAD_WAIT (log entry 142), GO outside the window (143), holds during start-up (144), WARM (145 and 241), LBIST
results (178), the trims loaded at the end of MARCH (197), the entry of an image in no bank (226). The clauses on
the ends of phases speak of tests that found nothing. -/
def Obligations.StartUp : Prop :=
  ∀ s : State,
  (Runs (.bootGo) s (
      if s.phase = 3 && s.getB R.RST_BOOT_STAT_WINDOW then
        let x := s.imageAt scratchBase
        if imageVerifies s x 1 downloadLimit then
          bootVerified [] { s.setB R.RST_BOOT_STAT_WINDOW false with boot := bootOf s x false }
        else imageRejected (s.set R.RST_BOOT_STAT_ERROR 5)
      else s)) ∧
  (Runs (.firmwareRunning) s (
      if s.mayRestart then
        let r := romAgain s
        if r.2 then
          let s := coastReturn ((firmwareStarts r.1).irq rstBlk 2)
          if s.phase = 7 then bootProfile s else s
        else enterMgmtOnly 3 r.1
      else s)) ∧
  (∀ (result : StartupResult), Runs (.startupPhaseDone result) s (
      if s.coldAsserted then s
      else match s.phase with
        | 1 => bootRecordEnd s
        | 2 => secureBootEnd result s
        | 4 => lbistEnd result s
        | 5 => marchEnd result s
        | 6 => if s.warmAsserted then s else fwStartEnd s
        | 7 => calibrationEnd s
        | _ => s)) ∧
  (∀ r : StartupResult,
    (s.coldAsserted = true ∨ s.phase = 0 ∨ s.phase = 3 ∨ 8 ≤ s.phase → Effect (.startupPhaseDone r) s [] s) ∧
    (s.coldAsserted = false →
      (s.phase = 1 → Ends (.startupPhaseDone r) s fun t => if s.getB R.RST_STAT_STRAP_ERR = true then
        t.phase = 9 ∧ t.get R.RST_BOOT_STAT_ERROR = 6 else t.phase = 2) ∧
      (s.phase = 2 → s.get R.RST_STRAP_BOOT = 3 → r.checkers = [] → r.fault ≠ 1 → r.fault ≠ 4 → ∀ k : Fin 2,
        s.store.kept.boot.bank = k.val → s.boot.bank = k.val →
        let good (n : Nat) : Bool := imageVerifies s (s.imageAt (bankBase n)) 1 bankLimit
        Ends (.startupPhaseDone r) s fun t =>
          if good k = true then t.phase = (if s.getB R.TST_CFG_LBIST_BOOT = true then 4 else 5) ∧
            t.get R.FWC_STAT_BANK = k.val ∧ t.get R.RST_STAT_BANK_FALLBACK = s.get R.RST_STAT_BANK_FALLBACK
          else if good (1 - k) = true then t.phase = (if s.getB R.TST_CFG_LBIST_BOOT = true then 4 else 5) ∧
            t.get R.FWC_STAT_BANK = 1 - k.val ∧ t.getB R.RST_STAT_BANK_FALLBACK = true ∧
            t.get R.RST_BOOT_STAT_ERROR = 1 + k.val
          else t.phase = 9 ∧ t.get R.RST_BOOT_STAT_ERROR = 3 ∧ t.getB R.RST_STAT_BANK_FALLBACK = true) ∧
      (s.phase = 4 → r.checkers = [] → Ends (.startupPhaseDone r) s fun t => t.getB R.TST_LBIST_STAT_RAN = true ∧
        t.getB R.TST_LBIST_STAT_CENTRAL_FAIL = r.centralFail ∧
        if r.centralFail = true then t.phase = 9 ∧ t.get R.RST_BOOT_STAT_ERROR = 7 else t.phase = 5) ∧
      (s.phase = 5 → r.words = [] → Ends (.startupPhaseDone r) s fun t => t.phase = 6) ∧
      (s.phase = 6 → s.warmAsserted = true → Effect (.startupPhaseDone r) s [] s) ∧
      (s.phase = 6 → s.warmAsserted = false → s.boot.warmed = false →
        (s.held = true → Ends (.startupPhaseDone r) s fun t => t.phase = 9 ∧ t.get R.RST_BOOT_STAT_ERROR = 8 ∧
          t.getB R.FWC_STAT_RUNNING = true) ∧
        (s.held = false → (∀ n, n < 8 → (s.imageAt (profileBase n)).magic = false) → Ends (.startupPhaseDone r) s fun t =>
          t.phase = 7 ∧ t.getB R.FWC_STAT_RUNNING = true ∧ t.getB R.RST_WDT_CFG_RUNNING = true ∧
          t.getB R.CAL_STAT_STARTUP_DONE = false)) ∧
      (s.phase = 7 → s.held = true → Ends (.startupPhaseDone r) s fun t => t.phase = 9 ∧
        t.get R.RST_BOOT_STAT_ERROR = 8) ∧
      (s.phase = 7 → s.held = false → s.getB R.CAL_STAT_STARTUP_DONE = false → Effect (.startupPhaseDone r) s [] s) ∧
      (s.phase = 7 → s.held = false → s.getB R.CAL_STAT_STARTUP_DONE = true → Ends (.startupPhaseDone r) s fun t =>
        t.phase = 8))) ∧
  (if s.phase ≠ 3 ∨ s.getB R.RST_BOOT_STAT_WINDOW = false then Effect .bootGo s [] s
   else if imageVerifies s (s.imageAt scratchBase) 1 downloadLimit = false then Ends .bootGo s fun t =>
     t.get R.RST_BOOT_STAT_ERROR = 5 ∧ t.getB R.RST_BOOT_STAT_WINDOW = true ∧ t.phase = 3
   else Ends .bootGo s fun t => t.getB R.RST_BOOT_STAT_WINDOW = false ∧
     t.phase = if s.getB R.TST_CFG_LBIST_BOOT = true then 4 else 5) ∧
  (s.mayRestart = false → Effect .firmwareRunning s [] s) ∧
  (s.mayRestart = true → s.get R.RST_STRAP_BOOT ≠ 3 → s.phase = 8 → (∀ l, l < 8 → s.laneCode l ≠ 4) →
    ∃ t, exec .firmwareRunning s = .next t ∧ t.getB R.FWC_STAT_RUNNING = true ∧ t.getB R.RST_WDT_CFG_RUNNING = true ∧
      t.get (R.IRQ_RAW_RAW (dev .rst) 2) = (s.irqAfter (dev .rst) 2).2 ∧ t.phase = 8)
end

