-- ==== Sys2Proof/Laws/State.lean ====
section
/-!
SUPPORT. What each update of the state leaves as it was, one lemma per field and update.
-/

namespace Sys2Proof.Machine

open Sys2Proof

variable (s : State)

/-! ### State.set -/

@[simp] theorem State.set_shadow (f : Fld) (v : Nat) : (s.set f v).shadow = s.shadow := rfl
@[simp] theorem State.set_staged (f : Fld) (v : Nat) : (s.set f v).staged = s.staged := rfl
@[simp] theorem State.set_mem (f : Fld) (v : Nat) : (s.set f v).mem = s.mem := rfl
@[simp] theorem State.set_time (f : Fld) (v : Nat) : (s.set f v).time = s.time := rfl
@[simp] theorem State.set_freeCount (f : Fld) (v : Nat) : (s.set f v).freeCount = s.freeCount := rfl
@[simp] theorem State.set_spi (f : Fld) (v : Nat) : (s.set f v).spi = s.spi := rfl
@[simp] theorem State.set_i3c (f : Fld) (v : Nat) : (s.set f v).i3c = s.i3c := rfl
@[simp] theorem State.set_target (f : Fld) (v : Nat) : (s.set f v).target = s.target := rfl
@[simp] theorem State.set_woken (f : Fld) (v : Nat) : (s.set f v).woken = s.woken := rfl
@[simp] theorem State.set_raised (f : Fld) (v : Nat) : (s.set f v).raised = s.raised := rfl
@[simp] theorem State.set_evQueue (f : Fld) (v : Nat) : (s.set f v).evQueue = s.evQueue := rfl
@[simp] theorem State.set_evDropped (f : Fld) (v : Nat) : (s.set f v).evDropped = s.evDropped := rfl
@[simp] theorem State.set_evLost (f : Fld) (v : Nat) : (s.set f v).evLost = s.evLost := rfl
@[simp] theorem State.set_resets (f : Fld) (v : Nat) : (s.set f v).resets = s.resets := rfl
@[simp] theorem State.set_txs (f : Fld) (v : Nat) : (s.set f v).txs = s.txs := rfl
@[simp] theorem State.set_rxs (f : Fld) (v : Nat) : (s.set f v).rxs = s.rxs := rfl
@[simp] theorem State.set_powers (f : Fld) (v : Nat) : (s.set f v).powers = s.powers := rfl
@[simp] theorem State.set_hosts (f : Fld) (v : Nat) : (s.set f v).hosts = s.hosts := rfl
@[simp] theorem State.set_caps (f : Fld) (v : Nat) : (s.set f v).caps = s.caps := rfl
@[simp] theorem State.set_cals (f : Fld) (v : Nat) : (s.set f v).cals = s.cals := rfl
@[simp] theorem State.set_calDev (f : Fld) (v : Nat) : (s.set f v).calDev = s.calDev := rfl
@[simp] theorem State.set_msg (f : Fld) (v : Nat) : (s.set f v).msg = s.msg := rfl
@[simp] theorem State.set_links (f : Fld) (v : Nat) : (s.set f v).links = s.links := rfl
@[simp] theorem State.set_sessions (f : Fld) (v : Nat) : (s.set f v).sessions = s.sessions := rfl
@[simp] theorem State.set_pwr (f : Fld) (v : Nat) : (s.set f v).pwr = s.pwr := rfl
@[simp] theorem State.set_stamps (f : Fld) (v : Nat) : (s.set f v).stamps = s.stamps := rfl
@[simp] theorem State.set_tim (f : Fld) (v : Nat) : (s.set f v).tim = s.tim := rfl
@[simp] theorem State.set_chains (f : Fld) (v : Nat) : (s.set f v).chains = s.chains := rfl
@[simp] theorem State.set_dacs (f : Fld) (v : Nat) : (s.set f v).dacs = s.dacs := rfl
@[simp] theorem State.set_store (f : Fld) (v : Nat) : (s.set f v).store = s.store := rfl
@[simp] theorem State.set_gpioPulse (f : Fld) (v : Nat) : (s.set f v).gpioPulse = s.gpioPulse := rfl
@[simp] theorem State.set_elapsed (f : Fld) (v : Nat) : (s.set f v).elapsed = s.elapsed := rfl
@[simp] theorem State.set_stub (f : Fld) (v : Nat) : (s.set f v).stub = s.stub := rfl
@[simp] theorem State.set_thm (f : Fld) (v : Nat) : (s.set f v).thm = s.thm := rfl
@[simp] theorem State.set_fuses (f : Fld) (v : Nat) : (s.set f v).fuses = s.fuses := rfl
@[simp] theorem State.set_sec (f : Fld) (v : Nat) : (s.set f v).sec = s.sec := rfl
@[simp] theorem State.set_mbx (f : Fld) (v : Nat) : (s.set f v).mbx = s.mbx := rfl
@[simp] theorem State.set_boot (f : Fld) (v : Nat) : (s.set f v).boot = s.boot := rfl
@[simp] theorem State.set_pending (f : Fld) (v : Nat) : (s.set f v).pending = s.pending := rfl

/-! ### State.event -/

@[simp] theorem State.event_regs (b : Blk) (i c d : Nat) : (s.event b i c d).regs = s.regs := rfl
@[simp] theorem State.event_shadow (b : Blk) (i c d : Nat) : (s.event b i c d).shadow = s.shadow := rfl
@[simp] theorem State.event_staged (b : Blk) (i c d : Nat) : (s.event b i c d).staged = s.staged := rfl
@[simp] theorem State.event_mem (b : Blk) (i c d : Nat) : (s.event b i c d).mem = s.mem := rfl
@[simp] theorem State.event_time (b : Blk) (i c d : Nat) : (s.event b i c d).time = s.time := rfl
@[simp] theorem State.event_freeCount (b : Blk) (i c d : Nat) : (s.event b i c d).freeCount = s.freeCount := rfl
@[simp] theorem State.event_spi (b : Blk) (i c d : Nat) : (s.event b i c d).spi = s.spi := rfl
@[simp] theorem State.event_i3c (b : Blk) (i c d : Nat) : (s.event b i c d).i3c = s.i3c := rfl
@[simp] theorem State.event_target (b : Blk) (i c d : Nat) : (s.event b i c d).target = s.target := rfl
@[simp] theorem State.event_woken (b : Blk) (i c d : Nat) : (s.event b i c d).woken = s.woken := rfl
@[simp] theorem State.event_evQueue (b : Blk) (i c d : Nat) : (s.event b i c d).evQueue = s.evQueue := rfl
@[simp] theorem State.event_evDropped (b : Blk) (i c d : Nat) : (s.event b i c d).evDropped = s.evDropped := rfl
@[simp] theorem State.event_evLost (b : Blk) (i c d : Nat) : (s.event b i c d).evLost = s.evLost := rfl
@[simp] theorem State.event_resets (b : Blk) (i c d : Nat) : (s.event b i c d).resets = s.resets := rfl
@[simp] theorem State.event_txs (b : Blk) (i c d : Nat) : (s.event b i c d).txs = s.txs := rfl
@[simp] theorem State.event_rxs (b : Blk) (i c d : Nat) : (s.event b i c d).rxs = s.rxs := rfl
@[simp] theorem State.event_powers (b : Blk) (i c d : Nat) : (s.event b i c d).powers = s.powers := rfl
@[simp] theorem State.event_hosts (b : Blk) (i c d : Nat) : (s.event b i c d).hosts = s.hosts := rfl
@[simp] theorem State.event_caps (b : Blk) (i c d : Nat) : (s.event b i c d).caps = s.caps := rfl
@[simp] theorem State.event_cals (b : Blk) (i c d : Nat) : (s.event b i c d).cals = s.cals := rfl
@[simp] theorem State.event_calDev (b : Blk) (i c d : Nat) : (s.event b i c d).calDev = s.calDev := rfl
@[simp] theorem State.event_msg (b : Blk) (i c d : Nat) : (s.event b i c d).msg = s.msg := rfl
@[simp] theorem State.event_links (b : Blk) (i c d : Nat) : (s.event b i c d).links = s.links := rfl
@[simp] theorem State.event_sessions (b : Blk) (i c d : Nat) : (s.event b i c d).sessions = s.sessions := rfl
@[simp] theorem State.event_pwr (b : Blk) (i c d : Nat) : (s.event b i c d).pwr = s.pwr := rfl
@[simp] theorem State.event_stamps (b : Blk) (i c d : Nat) : (s.event b i c d).stamps = s.stamps := rfl
@[simp] theorem State.event_tim (b : Blk) (i c d : Nat) : (s.event b i c d).tim = s.tim := rfl
@[simp] theorem State.event_chains (b : Blk) (i c d : Nat) : (s.event b i c d).chains = s.chains := rfl
@[simp] theorem State.event_dacs (b : Blk) (i c d : Nat) : (s.event b i c d).dacs = s.dacs := rfl
@[simp] theorem State.event_store (b : Blk) (i c d : Nat) : (s.event b i c d).store = s.store := rfl
@[simp] theorem State.event_gpioPulse (b : Blk) (i c d : Nat) : (s.event b i c d).gpioPulse = s.gpioPulse := rfl
@[simp] theorem State.event_elapsed (b : Blk) (i c d : Nat) : (s.event b i c d).elapsed = s.elapsed := rfl
@[simp] theorem State.event_stub (b : Blk) (i c d : Nat) : (s.event b i c d).stub = s.stub := rfl
@[simp] theorem State.event_thm (b : Blk) (i c d : Nat) : (s.event b i c d).thm = s.thm := rfl
@[simp] theorem State.event_fuses (b : Blk) (i c d : Nat) : (s.event b i c d).fuses = s.fuses := rfl
@[simp] theorem State.event_sec (b : Blk) (i c d : Nat) : (s.event b i c d).sec = s.sec := rfl
@[simp] theorem State.event_mbx (b : Blk) (i c d : Nat) : (s.event b i c d).mbx = s.mbx := rfl
@[simp] theorem State.event_boot (b : Blk) (i c d : Nat) : (s.event b i c d).boot = s.boot := rfl
@[simp] theorem State.event_pending (b : Blk) (i c d : Nat) : (s.event b i c d).pending = s.pending := rfl
@[simp] theorem State.event_get (b : Blk) (i c d : Nat) (g : Fld) : (s.event b i c d).get g = s.get g := rfl
@[simp] theorem State.event_getB (b : Blk) (i c d : Nat) (g : Fld) : (s.event b i c d).getB g = s.getB g := rfl

/-! ### State.draw -/

@[simp] theorem State.draw_regs : (s.draw).regs = s.regs := rfl
@[simp] theorem State.draw_shadow : (s.draw).shadow = s.shadow := rfl
@[simp] theorem State.draw_staged : (s.draw).staged = s.staged := rfl
@[simp] theorem State.draw_mem : (s.draw).mem = s.mem := rfl
@[simp] theorem State.draw_time : (s.draw).time = s.time := rfl
@[simp] theorem State.draw_spi : (s.draw).spi = s.spi := rfl
@[simp] theorem State.draw_i3c : (s.draw).i3c = s.i3c := rfl
@[simp] theorem State.draw_target : (s.draw).target = s.target := rfl
@[simp] theorem State.draw_woken : (s.draw).woken = s.woken := rfl
@[simp] theorem State.draw_raised : (s.draw).raised = s.raised := rfl
@[simp] theorem State.draw_evQueue : (s.draw).evQueue = s.evQueue := rfl
@[simp] theorem State.draw_evDropped : (s.draw).evDropped = s.evDropped := rfl
@[simp] theorem State.draw_evLost : (s.draw).evLost = s.evLost := rfl
@[simp] theorem State.draw_resets : (s.draw).resets = s.resets := rfl
@[simp] theorem State.draw_txs : (s.draw).txs = s.txs := rfl
@[simp] theorem State.draw_rxs : (s.draw).rxs = s.rxs := rfl
@[simp] theorem State.draw_powers : (s.draw).powers = s.powers := rfl
@[simp] theorem State.draw_hosts : (s.draw).hosts = s.hosts := rfl
@[simp] theorem State.draw_caps : (s.draw).caps = s.caps := rfl
@[simp] theorem State.draw_cals : (s.draw).cals = s.cals := rfl
@[simp] theorem State.draw_calDev : (s.draw).calDev = s.calDev := rfl
@[simp] theorem State.draw_msg : (s.draw).msg = s.msg := rfl
@[simp] theorem State.draw_links : (s.draw).links = s.links := rfl
@[simp] theorem State.draw_sessions : (s.draw).sessions = s.sessions := rfl
@[simp] theorem State.draw_pwr : (s.draw).pwr = s.pwr := rfl
@[simp] theorem State.draw_stamps : (s.draw).stamps = s.stamps := rfl
@[simp] theorem State.draw_tim : (s.draw).tim = s.tim := rfl
@[simp] theorem State.draw_chains : (s.draw).chains = s.chains := rfl
@[simp] theorem State.draw_dacs : (s.draw).dacs = s.dacs := rfl
@[simp] theorem State.draw_store : (s.draw).store = s.store := rfl
@[simp] theorem State.draw_gpioPulse : (s.draw).gpioPulse = s.gpioPulse := rfl
@[simp] theorem State.draw_elapsed : (s.draw).elapsed = s.elapsed := rfl
@[simp] theorem State.draw_stub : (s.draw).stub = s.stub := rfl
@[simp] theorem State.draw_thm : (s.draw).thm = s.thm := rfl
@[simp] theorem State.draw_fuses : (s.draw).fuses = s.fuses := rfl
@[simp] theorem State.draw_sec : (s.draw).sec = s.sec := rfl
@[simp] theorem State.draw_mbx : (s.draw).mbx = s.mbx := rfl
@[simp] theorem State.draw_boot : (s.draw).boot = s.boot := rfl
@[simp] theorem State.draw_pending : (s.draw).pending = s.pending := rfl
@[simp] theorem State.draw_get (g : Fld) : (s.draw).get g = s.get g := rfl
@[simp] theorem State.draw_getB (g : Fld) : (s.draw).getB g = s.getB g := rfl

/-! ### State.putTx -/

@[simp] theorem State.putTx_regs (l : Nat) (x : TxLane) : (s.putTx l x).regs = s.regs := rfl
@[simp] theorem State.putTx_shadow (l : Nat) (x : TxLane) : (s.putTx l x).shadow = s.shadow := rfl
@[simp] theorem State.putTx_staged (l : Nat) (x : TxLane) : (s.putTx l x).staged = s.staged := rfl
@[simp] theorem State.putTx_mem (l : Nat) (x : TxLane) : (s.putTx l x).mem = s.mem := rfl
@[simp] theorem State.putTx_time (l : Nat) (x : TxLane) : (s.putTx l x).time = s.time := rfl
@[simp] theorem State.putTx_freeCount (l : Nat) (x : TxLane) : (s.putTx l x).freeCount = s.freeCount := rfl
@[simp] theorem State.putTx_spi (l : Nat) (x : TxLane) : (s.putTx l x).spi = s.spi := rfl
@[simp] theorem State.putTx_i3c (l : Nat) (x : TxLane) : (s.putTx l x).i3c = s.i3c := rfl
@[simp] theorem State.putTx_target (l : Nat) (x : TxLane) : (s.putTx l x).target = s.target := rfl
@[simp] theorem State.putTx_woken (l : Nat) (x : TxLane) : (s.putTx l x).woken = s.woken := rfl
@[simp] theorem State.putTx_raised (l : Nat) (x : TxLane) : (s.putTx l x).raised = s.raised := rfl
@[simp] theorem State.putTx_evQueue (l : Nat) (x : TxLane) : (s.putTx l x).evQueue = s.evQueue := rfl
@[simp] theorem State.putTx_evDropped (l : Nat) (x : TxLane) : (s.putTx l x).evDropped = s.evDropped := rfl
@[simp] theorem State.putTx_evLost (l : Nat) (x : TxLane) : (s.putTx l x).evLost = s.evLost := rfl
@[simp] theorem State.putTx_resets (l : Nat) (x : TxLane) : (s.putTx l x).resets = s.resets := rfl
@[simp] theorem State.putTx_rxs (l : Nat) (x : TxLane) : (s.putTx l x).rxs = s.rxs := rfl
@[simp] theorem State.putTx_powers (l : Nat) (x : TxLane) : (s.putTx l x).powers = s.powers := rfl
@[simp] theorem State.putTx_hosts (l : Nat) (x : TxLane) : (s.putTx l x).hosts = s.hosts := rfl
@[simp] theorem State.putTx_caps (l : Nat) (x : TxLane) : (s.putTx l x).caps = s.caps := rfl
@[simp] theorem State.putTx_cals (l : Nat) (x : TxLane) : (s.putTx l x).cals = s.cals := rfl
@[simp] theorem State.putTx_calDev (l : Nat) (x : TxLane) : (s.putTx l x).calDev = s.calDev := rfl
@[simp] theorem State.putTx_msg (l : Nat) (x : TxLane) : (s.putTx l x).msg = s.msg := rfl
@[simp] theorem State.putTx_links (l : Nat) (x : TxLane) : (s.putTx l x).links = s.links := rfl
@[simp] theorem State.putTx_sessions (l : Nat) (x : TxLane) : (s.putTx l x).sessions = s.sessions := rfl
@[simp] theorem State.putTx_pwr (l : Nat) (x : TxLane) : (s.putTx l x).pwr = s.pwr := rfl
@[simp] theorem State.putTx_stamps (l : Nat) (x : TxLane) : (s.putTx l x).stamps = s.stamps := rfl
@[simp] theorem State.putTx_tim (l : Nat) (x : TxLane) : (s.putTx l x).tim = s.tim := rfl
@[simp] theorem State.putTx_chains (l : Nat) (x : TxLane) : (s.putTx l x).chains = s.chains := rfl
@[simp] theorem State.putTx_dacs (l : Nat) (x : TxLane) : (s.putTx l x).dacs = s.dacs := rfl
@[simp] theorem State.putTx_store (l : Nat) (x : TxLane) : (s.putTx l x).store = s.store := rfl
@[simp] theorem State.putTx_gpioPulse (l : Nat) (x : TxLane) : (s.putTx l x).gpioPulse = s.gpioPulse := rfl
@[simp] theorem State.putTx_elapsed (l : Nat) (x : TxLane) : (s.putTx l x).elapsed = s.elapsed := rfl
@[simp] theorem State.putTx_stub (l : Nat) (x : TxLane) : (s.putTx l x).stub = s.stub := rfl
@[simp] theorem State.putTx_thm (l : Nat) (x : TxLane) : (s.putTx l x).thm = s.thm := rfl
@[simp] theorem State.putTx_fuses (l : Nat) (x : TxLane) : (s.putTx l x).fuses = s.fuses := rfl
@[simp] theorem State.putTx_sec (l : Nat) (x : TxLane) : (s.putTx l x).sec = s.sec := rfl
@[simp] theorem State.putTx_mbx (l : Nat) (x : TxLane) : (s.putTx l x).mbx = s.mbx := rfl
@[simp] theorem State.putTx_boot (l : Nat) (x : TxLane) : (s.putTx l x).boot = s.boot := rfl
@[simp] theorem State.putTx_pending (l : Nat) (x : TxLane) : (s.putTx l x).pending = s.pending := rfl
@[simp] theorem State.putTx_get (l : Nat) (x : TxLane) (g : Fld) : (s.putTx l x).get g = s.get g := rfl
@[simp] theorem State.putTx_getB (l : Nat) (x : TxLane) (g : Fld) : (s.putTx l x).getB g = s.getB g := rfl

/-! ### State.putRx -/

@[simp] theorem State.putRx_regs (l : Nat) (x : RxLane) : (s.putRx l x).regs = s.regs := rfl
@[simp] theorem State.putRx_shadow (l : Nat) (x : RxLane) : (s.putRx l x).shadow = s.shadow := rfl
@[simp] theorem State.putRx_staged (l : Nat) (x : RxLane) : (s.putRx l x).staged = s.staged := rfl
@[simp] theorem State.putRx_mem (l : Nat) (x : RxLane) : (s.putRx l x).mem = s.mem := rfl
@[simp] theorem State.putRx_time (l : Nat) (x : RxLane) : (s.putRx l x).time = s.time := rfl
@[simp] theorem State.putRx_freeCount (l : Nat) (x : RxLane) : (s.putRx l x).freeCount = s.freeCount := rfl
@[simp] theorem State.putRx_spi (l : Nat) (x : RxLane) : (s.putRx l x).spi = s.spi := rfl
@[simp] theorem State.putRx_i3c (l : Nat) (x : RxLane) : (s.putRx l x).i3c = s.i3c := rfl
@[simp] theorem State.putRx_target (l : Nat) (x : RxLane) : (s.putRx l x).target = s.target := rfl
@[simp] theorem State.putRx_woken (l : Nat) (x : RxLane) : (s.putRx l x).woken = s.woken := rfl
@[simp] theorem State.putRx_raised (l : Nat) (x : RxLane) : (s.putRx l x).raised = s.raised := rfl
@[simp] theorem State.putRx_evQueue (l : Nat) (x : RxLane) : (s.putRx l x).evQueue = s.evQueue := rfl
@[simp] theorem State.putRx_evDropped (l : Nat) (x : RxLane) : (s.putRx l x).evDropped = s.evDropped := rfl
@[simp] theorem State.putRx_evLost (l : Nat) (x : RxLane) : (s.putRx l x).evLost = s.evLost := rfl
@[simp] theorem State.putRx_resets (l : Nat) (x : RxLane) : (s.putRx l x).resets = s.resets := rfl
@[simp] theorem State.putRx_txs (l : Nat) (x : RxLane) : (s.putRx l x).txs = s.txs := rfl
@[simp] theorem State.putRx_powers (l : Nat) (x : RxLane) : (s.putRx l x).powers = s.powers := rfl
@[simp] theorem State.putRx_hosts (l : Nat) (x : RxLane) : (s.putRx l x).hosts = s.hosts := rfl
@[simp] theorem State.putRx_caps (l : Nat) (x : RxLane) : (s.putRx l x).caps = s.caps := rfl
@[simp] theorem State.putRx_cals (l : Nat) (x : RxLane) : (s.putRx l x).cals = s.cals := rfl
@[simp] theorem State.putRx_calDev (l : Nat) (x : RxLane) : (s.putRx l x).calDev = s.calDev := rfl
@[simp] theorem State.putRx_msg (l : Nat) (x : RxLane) : (s.putRx l x).msg = s.msg := rfl
@[simp] theorem State.putRx_links (l : Nat) (x : RxLane) : (s.putRx l x).links = s.links := rfl
@[simp] theorem State.putRx_sessions (l : Nat) (x : RxLane) : (s.putRx l x).sessions = s.sessions := rfl
@[simp] theorem State.putRx_pwr (l : Nat) (x : RxLane) : (s.putRx l x).pwr = s.pwr := rfl
@[simp] theorem State.putRx_stamps (l : Nat) (x : RxLane) : (s.putRx l x).stamps = s.stamps := rfl
@[simp] theorem State.putRx_tim (l : Nat) (x : RxLane) : (s.putRx l x).tim = s.tim := rfl
@[simp] theorem State.putRx_chains (l : Nat) (x : RxLane) : (s.putRx l x).chains = s.chains := rfl
@[simp] theorem State.putRx_dacs (l : Nat) (x : RxLane) : (s.putRx l x).dacs = s.dacs := rfl
@[simp] theorem State.putRx_store (l : Nat) (x : RxLane) : (s.putRx l x).store = s.store := rfl
@[simp] theorem State.putRx_gpioPulse (l : Nat) (x : RxLane) : (s.putRx l x).gpioPulse = s.gpioPulse := rfl
@[simp] theorem State.putRx_elapsed (l : Nat) (x : RxLane) : (s.putRx l x).elapsed = s.elapsed := rfl
@[simp] theorem State.putRx_stub (l : Nat) (x : RxLane) : (s.putRx l x).stub = s.stub := rfl
@[simp] theorem State.putRx_thm (l : Nat) (x : RxLane) : (s.putRx l x).thm = s.thm := rfl
@[simp] theorem State.putRx_fuses (l : Nat) (x : RxLane) : (s.putRx l x).fuses = s.fuses := rfl
@[simp] theorem State.putRx_sec (l : Nat) (x : RxLane) : (s.putRx l x).sec = s.sec := rfl
@[simp] theorem State.putRx_mbx (l : Nat) (x : RxLane) : (s.putRx l x).mbx = s.mbx := rfl
@[simp] theorem State.putRx_boot (l : Nat) (x : RxLane) : (s.putRx l x).boot = s.boot := rfl
@[simp] theorem State.putRx_pending (l : Nat) (x : RxLane) : (s.putRx l x).pending = s.pending := rfl
@[simp] theorem State.putRx_get (l : Nat) (x : RxLane) (g : Fld) : (s.putRx l x).get g = s.get g := rfl
@[simp] theorem State.putRx_getB (l : Nat) (x : RxLane) (g : Fld) : (s.putRx l x).getB g = s.getB g := rfl

/-! ### State.putHost -/

@[simp] theorem State.putHost_regs (l : Nat) (x : HostLaneInt) : (s.putHost l x).regs = s.regs := rfl
@[simp] theorem State.putHost_shadow (l : Nat) (x : HostLaneInt) : (s.putHost l x).shadow = s.shadow := rfl
@[simp] theorem State.putHost_staged (l : Nat) (x : HostLaneInt) : (s.putHost l x).staged = s.staged := rfl
@[simp] theorem State.putHost_mem (l : Nat) (x : HostLaneInt) : (s.putHost l x).mem = s.mem := rfl
@[simp] theorem State.putHost_time (l : Nat) (x : HostLaneInt) : (s.putHost l x).time = s.time := rfl
@[simp] theorem State.putHost_freeCount (l : Nat) (x : HostLaneInt) : (s.putHost l x).freeCount = s.freeCount := rfl
@[simp] theorem State.putHost_spi (l : Nat) (x : HostLaneInt) : (s.putHost l x).spi = s.spi := rfl
@[simp] theorem State.putHost_i3c (l : Nat) (x : HostLaneInt) : (s.putHost l x).i3c = s.i3c := rfl
@[simp] theorem State.putHost_target (l : Nat) (x : HostLaneInt) : (s.putHost l x).target = s.target := rfl
@[simp] theorem State.putHost_woken (l : Nat) (x : HostLaneInt) : (s.putHost l x).woken = s.woken := rfl
@[simp] theorem State.putHost_raised (l : Nat) (x : HostLaneInt) : (s.putHost l x).raised = s.raised := rfl
@[simp] theorem State.putHost_evQueue (l : Nat) (x : HostLaneInt) : (s.putHost l x).evQueue = s.evQueue := rfl
@[simp] theorem State.putHost_evDropped (l : Nat) (x : HostLaneInt) : (s.putHost l x).evDropped = s.evDropped := rfl
@[simp] theorem State.putHost_evLost (l : Nat) (x : HostLaneInt) : (s.putHost l x).evLost = s.evLost := rfl
@[simp] theorem State.putHost_resets (l : Nat) (x : HostLaneInt) : (s.putHost l x).resets = s.resets := rfl
@[simp] theorem State.putHost_txs (l : Nat) (x : HostLaneInt) : (s.putHost l x).txs = s.txs := rfl
@[simp] theorem State.putHost_rxs (l : Nat) (x : HostLaneInt) : (s.putHost l x).rxs = s.rxs := rfl
@[simp] theorem State.putHost_powers (l : Nat) (x : HostLaneInt) : (s.putHost l x).powers = s.powers := rfl
@[simp] theorem State.putHost_caps (l : Nat) (x : HostLaneInt) : (s.putHost l x).caps = s.caps := rfl
@[simp] theorem State.putHost_cals (l : Nat) (x : HostLaneInt) : (s.putHost l x).cals = s.cals := rfl
@[simp] theorem State.putHost_calDev (l : Nat) (x : HostLaneInt) : (s.putHost l x).calDev = s.calDev := rfl
@[simp] theorem State.putHost_msg (l : Nat) (x : HostLaneInt) : (s.putHost l x).msg = s.msg := rfl
@[simp] theorem State.putHost_links (l : Nat) (x : HostLaneInt) : (s.putHost l x).links = s.links := rfl
@[simp] theorem State.putHost_sessions (l : Nat) (x : HostLaneInt) : (s.putHost l x).sessions = s.sessions := rfl
@[simp] theorem State.putHost_pwr (l : Nat) (x : HostLaneInt) : (s.putHost l x).pwr = s.pwr := rfl
@[simp] theorem State.putHost_stamps (l : Nat) (x : HostLaneInt) : (s.putHost l x).stamps = s.stamps := rfl
@[simp] theorem State.putHost_tim (l : Nat) (x : HostLaneInt) : (s.putHost l x).tim = s.tim := rfl
@[simp] theorem State.putHost_chains (l : Nat) (x : HostLaneInt) : (s.putHost l x).chains = s.chains := rfl
@[simp] theorem State.putHost_dacs (l : Nat) (x : HostLaneInt) : (s.putHost l x).dacs = s.dacs := rfl
@[simp] theorem State.putHost_store (l : Nat) (x : HostLaneInt) : (s.putHost l x).store = s.store := rfl
@[simp] theorem State.putHost_gpioPulse (l : Nat) (x : HostLaneInt) : (s.putHost l x).gpioPulse = s.gpioPulse := rfl
@[simp] theorem State.putHost_elapsed (l : Nat) (x : HostLaneInt) : (s.putHost l x).elapsed = s.elapsed := rfl
@[simp] theorem State.putHost_stub (l : Nat) (x : HostLaneInt) : (s.putHost l x).stub = s.stub := rfl
@[simp] theorem State.putHost_thm (l : Nat) (x : HostLaneInt) : (s.putHost l x).thm = s.thm := rfl
@[simp] theorem State.putHost_fuses (l : Nat) (x : HostLaneInt) : (s.putHost l x).fuses = s.fuses := rfl
@[simp] theorem State.putHost_sec (l : Nat) (x : HostLaneInt) : (s.putHost l x).sec = s.sec := rfl
@[simp] theorem State.putHost_mbx (l : Nat) (x : HostLaneInt) : (s.putHost l x).mbx = s.mbx := rfl
@[simp] theorem State.putHost_boot (l : Nat) (x : HostLaneInt) : (s.putHost l x).boot = s.boot := rfl
@[simp] theorem State.putHost_pending (l : Nat) (x : HostLaneInt) : (s.putHost l x).pending = s.pending := rfl
@[simp] theorem State.putHost_get (l : Nat) (x : HostLaneInt) (g : Fld) : (s.putHost l x).get g = s.get g := rfl
@[simp] theorem State.putHost_getB (l : Nat) (x : HostLaneInt) (g : Fld) : (s.putHost l x).getB g = s.getB g := rfl

/-! ### State.putCap -/

@[simp] theorem State.putCap_regs (l : Nat) (x : CapInt) : (s.putCap l x).regs = s.regs := rfl
@[simp] theorem State.putCap_shadow (l : Nat) (x : CapInt) : (s.putCap l x).shadow = s.shadow := rfl
@[simp] theorem State.putCap_staged (l : Nat) (x : CapInt) : (s.putCap l x).staged = s.staged := rfl
@[simp] theorem State.putCap_mem (l : Nat) (x : CapInt) : (s.putCap l x).mem = s.mem := rfl
@[simp] theorem State.putCap_time (l : Nat) (x : CapInt) : (s.putCap l x).time = s.time := rfl
@[simp] theorem State.putCap_freeCount (l : Nat) (x : CapInt) : (s.putCap l x).freeCount = s.freeCount := rfl
@[simp] theorem State.putCap_spi (l : Nat) (x : CapInt) : (s.putCap l x).spi = s.spi := rfl
@[simp] theorem State.putCap_i3c (l : Nat) (x : CapInt) : (s.putCap l x).i3c = s.i3c := rfl
@[simp] theorem State.putCap_target (l : Nat) (x : CapInt) : (s.putCap l x).target = s.target := rfl
@[simp] theorem State.putCap_woken (l : Nat) (x : CapInt) : (s.putCap l x).woken = s.woken := rfl
@[simp] theorem State.putCap_raised (l : Nat) (x : CapInt) : (s.putCap l x).raised = s.raised := rfl
@[simp] theorem State.putCap_evQueue (l : Nat) (x : CapInt) : (s.putCap l x).evQueue = s.evQueue := rfl
@[simp] theorem State.putCap_evDropped (l : Nat) (x : CapInt) : (s.putCap l x).evDropped = s.evDropped := rfl
@[simp] theorem State.putCap_evLost (l : Nat) (x : CapInt) : (s.putCap l x).evLost = s.evLost := rfl
@[simp] theorem State.putCap_resets (l : Nat) (x : CapInt) : (s.putCap l x).resets = s.resets := rfl
@[simp] theorem State.putCap_txs (l : Nat) (x : CapInt) : (s.putCap l x).txs = s.txs := rfl
@[simp] theorem State.putCap_rxs (l : Nat) (x : CapInt) : (s.putCap l x).rxs = s.rxs := rfl
@[simp] theorem State.putCap_powers (l : Nat) (x : CapInt) : (s.putCap l x).powers = s.powers := rfl
@[simp] theorem State.putCap_hosts (l : Nat) (x : CapInt) : (s.putCap l x).hosts = s.hosts := rfl
@[simp] theorem State.putCap_cals (l : Nat) (x : CapInt) : (s.putCap l x).cals = s.cals := rfl
@[simp] theorem State.putCap_calDev (l : Nat) (x : CapInt) : (s.putCap l x).calDev = s.calDev := rfl
@[simp] theorem State.putCap_msg (l : Nat) (x : CapInt) : (s.putCap l x).msg = s.msg := rfl
@[simp] theorem State.putCap_links (l : Nat) (x : CapInt) : (s.putCap l x).links = s.links := rfl
@[simp] theorem State.putCap_sessions (l : Nat) (x : CapInt) : (s.putCap l x).sessions = s.sessions := rfl
@[simp] theorem State.putCap_pwr (l : Nat) (x : CapInt) : (s.putCap l x).pwr = s.pwr := rfl
@[simp] theorem State.putCap_stamps (l : Nat) (x : CapInt) : (s.putCap l x).stamps = s.stamps := rfl
@[simp] theorem State.putCap_tim (l : Nat) (x : CapInt) : (s.putCap l x).tim = s.tim := rfl
@[simp] theorem State.putCap_chains (l : Nat) (x : CapInt) : (s.putCap l x).chains = s.chains := rfl
@[simp] theorem State.putCap_dacs (l : Nat) (x : CapInt) : (s.putCap l x).dacs = s.dacs := rfl
@[simp] theorem State.putCap_store (l : Nat) (x : CapInt) : (s.putCap l x).store = s.store := rfl
@[simp] theorem State.putCap_gpioPulse (l : Nat) (x : CapInt) : (s.putCap l x).gpioPulse = s.gpioPulse := rfl
@[simp] theorem State.putCap_elapsed (l : Nat) (x : CapInt) : (s.putCap l x).elapsed = s.elapsed := rfl
@[simp] theorem State.putCap_stub (l : Nat) (x : CapInt) : (s.putCap l x).stub = s.stub := rfl
@[simp] theorem State.putCap_thm (l : Nat) (x : CapInt) : (s.putCap l x).thm = s.thm := rfl
@[simp] theorem State.putCap_fuses (l : Nat) (x : CapInt) : (s.putCap l x).fuses = s.fuses := rfl
@[simp] theorem State.putCap_sec (l : Nat) (x : CapInt) : (s.putCap l x).sec = s.sec := rfl
@[simp] theorem State.putCap_mbx (l : Nat) (x : CapInt) : (s.putCap l x).mbx = s.mbx := rfl
@[simp] theorem State.putCap_boot (l : Nat) (x : CapInt) : (s.putCap l x).boot = s.boot := rfl
@[simp] theorem State.putCap_pending (l : Nat) (x : CapInt) : (s.putCap l x).pending = s.pending := rfl
@[simp] theorem State.putCap_get (l : Nat) (x : CapInt) (g : Fld) : (s.putCap l x).get g = s.get g := rfl
@[simp] theorem State.putCap_getB (l : Nat) (x : CapInt) (g : Fld) : (s.putCap l x).getB g = s.getB g := rfl

/-! ### State.putCal -/

@[simp] theorem State.putCal_regs (l : Nat) (x : CalLane) : (s.putCal l x).regs = s.regs := rfl
@[simp] theorem State.putCal_shadow (l : Nat) (x : CalLane) : (s.putCal l x).shadow = s.shadow := rfl
@[simp] theorem State.putCal_staged (l : Nat) (x : CalLane) : (s.putCal l x).staged = s.staged := rfl
@[simp] theorem State.putCal_mem (l : Nat) (x : CalLane) : (s.putCal l x).mem = s.mem := rfl
@[simp] theorem State.putCal_time (l : Nat) (x : CalLane) : (s.putCal l x).time = s.time := rfl
@[simp] theorem State.putCal_freeCount (l : Nat) (x : CalLane) : (s.putCal l x).freeCount = s.freeCount := rfl
@[simp] theorem State.putCal_spi (l : Nat) (x : CalLane) : (s.putCal l x).spi = s.spi := rfl
@[simp] theorem State.putCal_i3c (l : Nat) (x : CalLane) : (s.putCal l x).i3c = s.i3c := rfl
@[simp] theorem State.putCal_target (l : Nat) (x : CalLane) : (s.putCal l x).target = s.target := rfl
@[simp] theorem State.putCal_woken (l : Nat) (x : CalLane) : (s.putCal l x).woken = s.woken := rfl
@[simp] theorem State.putCal_raised (l : Nat) (x : CalLane) : (s.putCal l x).raised = s.raised := rfl
@[simp] theorem State.putCal_evQueue (l : Nat) (x : CalLane) : (s.putCal l x).evQueue = s.evQueue := rfl
@[simp] theorem State.putCal_evDropped (l : Nat) (x : CalLane) : (s.putCal l x).evDropped = s.evDropped := rfl
@[simp] theorem State.putCal_evLost (l : Nat) (x : CalLane) : (s.putCal l x).evLost = s.evLost := rfl
@[simp] theorem State.putCal_resets (l : Nat) (x : CalLane) : (s.putCal l x).resets = s.resets := rfl
@[simp] theorem State.putCal_txs (l : Nat) (x : CalLane) : (s.putCal l x).txs = s.txs := rfl
@[simp] theorem State.putCal_rxs (l : Nat) (x : CalLane) : (s.putCal l x).rxs = s.rxs := rfl
@[simp] theorem State.putCal_powers (l : Nat) (x : CalLane) : (s.putCal l x).powers = s.powers := rfl
@[simp] theorem State.putCal_hosts (l : Nat) (x : CalLane) : (s.putCal l x).hosts = s.hosts := rfl
@[simp] theorem State.putCal_caps (l : Nat) (x : CalLane) : (s.putCal l x).caps = s.caps := rfl
@[simp] theorem State.putCal_calDev (l : Nat) (x : CalLane) : (s.putCal l x).calDev = s.calDev := rfl
@[simp] theorem State.putCal_msg (l : Nat) (x : CalLane) : (s.putCal l x).msg = s.msg := rfl
@[simp] theorem State.putCal_links (l : Nat) (x : CalLane) : (s.putCal l x).links = s.links := rfl
@[simp] theorem State.putCal_sessions (l : Nat) (x : CalLane) : (s.putCal l x).sessions = s.sessions := rfl
@[simp] theorem State.putCal_pwr (l : Nat) (x : CalLane) : (s.putCal l x).pwr = s.pwr := rfl
@[simp] theorem State.putCal_stamps (l : Nat) (x : CalLane) : (s.putCal l x).stamps = s.stamps := rfl
@[simp] theorem State.putCal_tim (l : Nat) (x : CalLane) : (s.putCal l x).tim = s.tim := rfl
@[simp] theorem State.putCal_chains (l : Nat) (x : CalLane) : (s.putCal l x).chains = s.chains := rfl
@[simp] theorem State.putCal_dacs (l : Nat) (x : CalLane) : (s.putCal l x).dacs = s.dacs := rfl
@[simp] theorem State.putCal_store (l : Nat) (x : CalLane) : (s.putCal l x).store = s.store := rfl
@[simp] theorem State.putCal_gpioPulse (l : Nat) (x : CalLane) : (s.putCal l x).gpioPulse = s.gpioPulse := rfl
@[simp] theorem State.putCal_elapsed (l : Nat) (x : CalLane) : (s.putCal l x).elapsed = s.elapsed := rfl
@[simp] theorem State.putCal_stub (l : Nat) (x : CalLane) : (s.putCal l x).stub = s.stub := rfl
@[simp] theorem State.putCal_thm (l : Nat) (x : CalLane) : (s.putCal l x).thm = s.thm := rfl
@[simp] theorem State.putCal_fuses (l : Nat) (x : CalLane) : (s.putCal l x).fuses = s.fuses := rfl
@[simp] theorem State.putCal_sec (l : Nat) (x : CalLane) : (s.putCal l x).sec = s.sec := rfl
@[simp] theorem State.putCal_mbx (l : Nat) (x : CalLane) : (s.putCal l x).mbx = s.mbx := rfl
@[simp] theorem State.putCal_boot (l : Nat) (x : CalLane) : (s.putCal l x).boot = s.boot := rfl
@[simp] theorem State.putCal_pending (l : Nat) (x : CalLane) : (s.putCal l x).pending = s.pending := rfl
@[simp] theorem State.putCal_get (l : Nat) (x : CalLane) (g : Fld) : (s.putCal l x).get g = s.get g := rfl
@[simp] theorem State.putCal_getB (l : Nat) (x : CalLane) (g : Fld) : (s.putCal l x).getB g = s.getB g := rfl

/-! ### State.putSession -/

@[simp] theorem State.putSession_regs (l : Nat) (x : PeerSession) : (s.putSession l x).regs = s.regs := rfl
@[simp] theorem State.putSession_shadow (l : Nat) (x : PeerSession) : (s.putSession l x).shadow = s.shadow := rfl
@[simp] theorem State.putSession_staged (l : Nat) (x : PeerSession) : (s.putSession l x).staged = s.staged := rfl
@[simp] theorem State.putSession_mem (l : Nat) (x : PeerSession) : (s.putSession l x).mem = s.mem := rfl
@[simp] theorem State.putSession_time (l : Nat) (x : PeerSession) : (s.putSession l x).time = s.time := rfl
@[simp] theorem State.putSession_freeCount (l : Nat) (x : PeerSession) : (s.putSession l x).freeCount = s.freeCount := rfl
@[simp] theorem State.putSession_spi (l : Nat) (x : PeerSession) : (s.putSession l x).spi = s.spi := rfl
@[simp] theorem State.putSession_i3c (l : Nat) (x : PeerSession) : (s.putSession l x).i3c = s.i3c := rfl
@[simp] theorem State.putSession_target (l : Nat) (x : PeerSession) : (s.putSession l x).target = s.target := rfl
@[simp] theorem State.putSession_woken (l : Nat) (x : PeerSession) : (s.putSession l x).woken = s.woken := rfl
@[simp] theorem State.putSession_raised (l : Nat) (x : PeerSession) : (s.putSession l x).raised = s.raised := rfl
@[simp] theorem State.putSession_evQueue (l : Nat) (x : PeerSession) : (s.putSession l x).evQueue = s.evQueue := rfl
@[simp] theorem State.putSession_evDropped (l : Nat) (x : PeerSession) : (s.putSession l x).evDropped = s.evDropped := rfl
@[simp] theorem State.putSession_evLost (l : Nat) (x : PeerSession) : (s.putSession l x).evLost = s.evLost := rfl
@[simp] theorem State.putSession_resets (l : Nat) (x : PeerSession) : (s.putSession l x).resets = s.resets := rfl
@[simp] theorem State.putSession_txs (l : Nat) (x : PeerSession) : (s.putSession l x).txs = s.txs := rfl
@[simp] theorem State.putSession_rxs (l : Nat) (x : PeerSession) : (s.putSession l x).rxs = s.rxs := rfl
@[simp] theorem State.putSession_powers (l : Nat) (x : PeerSession) : (s.putSession l x).powers = s.powers := rfl
@[simp] theorem State.putSession_hosts (l : Nat) (x : PeerSession) : (s.putSession l x).hosts = s.hosts := rfl
@[simp] theorem State.putSession_caps (l : Nat) (x : PeerSession) : (s.putSession l x).caps = s.caps := rfl
@[simp] theorem State.putSession_cals (l : Nat) (x : PeerSession) : (s.putSession l x).cals = s.cals := rfl
@[simp] theorem State.putSession_calDev (l : Nat) (x : PeerSession) : (s.putSession l x).calDev = s.calDev := rfl
@[simp] theorem State.putSession_msg (l : Nat) (x : PeerSession) : (s.putSession l x).msg = s.msg := rfl
@[simp] theorem State.putSession_links (l : Nat) (x : PeerSession) : (s.putSession l x).links = s.links := rfl
@[simp] theorem State.putSession_pwr (l : Nat) (x : PeerSession) : (s.putSession l x).pwr = s.pwr := rfl
@[simp] theorem State.putSession_stamps (l : Nat) (x : PeerSession) : (s.putSession l x).stamps = s.stamps := rfl
@[simp] theorem State.putSession_tim (l : Nat) (x : PeerSession) : (s.putSession l x).tim = s.tim := rfl
@[simp] theorem State.putSession_chains (l : Nat) (x : PeerSession) : (s.putSession l x).chains = s.chains := rfl
@[simp] theorem State.putSession_dacs (l : Nat) (x : PeerSession) : (s.putSession l x).dacs = s.dacs := rfl
@[simp] theorem State.putSession_store (l : Nat) (x : PeerSession) : (s.putSession l x).store = s.store := rfl
@[simp] theorem State.putSession_gpioPulse (l : Nat) (x : PeerSession) : (s.putSession l x).gpioPulse = s.gpioPulse := rfl
@[simp] theorem State.putSession_elapsed (l : Nat) (x : PeerSession) : (s.putSession l x).elapsed = s.elapsed := rfl
@[simp] theorem State.putSession_stub (l : Nat) (x : PeerSession) : (s.putSession l x).stub = s.stub := rfl
@[simp] theorem State.putSession_thm (l : Nat) (x : PeerSession) : (s.putSession l x).thm = s.thm := rfl
@[simp] theorem State.putSession_fuses (l : Nat) (x : PeerSession) : (s.putSession l x).fuses = s.fuses := rfl
@[simp] theorem State.putSession_sec (l : Nat) (x : PeerSession) : (s.putSession l x).sec = s.sec := rfl
@[simp] theorem State.putSession_mbx (l : Nat) (x : PeerSession) : (s.putSession l x).mbx = s.mbx := rfl
@[simp] theorem State.putSession_boot (l : Nat) (x : PeerSession) : (s.putSession l x).boot = s.boot := rfl
@[simp] theorem State.putSession_pending (l : Nat) (x : PeerSession) : (s.putSession l x).pending = s.pending := rfl
@[simp] theorem State.putSession_get (l : Nat) (x : PeerSession) (g : Fld) : (s.putSession l x).get g = s.get g := rfl
@[simp] theorem State.putSession_getB (l : Nat) (x : PeerSession) (g : Fld) : (s.putSession l x).getB g = s.getB g := rfl

/-! ### State.putLink -/

@[simp] theorem State.putLink_regs (l : Nat) (x : MsgLink) : (s.putLink l x).regs = s.regs := rfl
@[simp] theorem State.putLink_shadow (l : Nat) (x : MsgLink) : (s.putLink l x).shadow = s.shadow := rfl
@[simp] theorem State.putLink_staged (l : Nat) (x : MsgLink) : (s.putLink l x).staged = s.staged := rfl
@[simp] theorem State.putLink_mem (l : Nat) (x : MsgLink) : (s.putLink l x).mem = s.mem := rfl
@[simp] theorem State.putLink_time (l : Nat) (x : MsgLink) : (s.putLink l x).time = s.time := rfl
@[simp] theorem State.putLink_freeCount (l : Nat) (x : MsgLink) : (s.putLink l x).freeCount = s.freeCount := rfl
@[simp] theorem State.putLink_spi (l : Nat) (x : MsgLink) : (s.putLink l x).spi = s.spi := rfl
@[simp] theorem State.putLink_i3c (l : Nat) (x : MsgLink) : (s.putLink l x).i3c = s.i3c := rfl
@[simp] theorem State.putLink_target (l : Nat) (x : MsgLink) : (s.putLink l x).target = s.target := rfl
@[simp] theorem State.putLink_woken (l : Nat) (x : MsgLink) : (s.putLink l x).woken = s.woken := rfl
@[simp] theorem State.putLink_raised (l : Nat) (x : MsgLink) : (s.putLink l x).raised = s.raised := rfl
@[simp] theorem State.putLink_evQueue (l : Nat) (x : MsgLink) : (s.putLink l x).evQueue = s.evQueue := rfl
@[simp] theorem State.putLink_evDropped (l : Nat) (x : MsgLink) : (s.putLink l x).evDropped = s.evDropped := rfl
@[simp] theorem State.putLink_evLost (l : Nat) (x : MsgLink) : (s.putLink l x).evLost = s.evLost := rfl
@[simp] theorem State.putLink_resets (l : Nat) (x : MsgLink) : (s.putLink l x).resets = s.resets := rfl
@[simp] theorem State.putLink_txs (l : Nat) (x : MsgLink) : (s.putLink l x).txs = s.txs := rfl
@[simp] theorem State.putLink_rxs (l : Nat) (x : MsgLink) : (s.putLink l x).rxs = s.rxs := rfl
@[simp] theorem State.putLink_powers (l : Nat) (x : MsgLink) : (s.putLink l x).powers = s.powers := rfl
@[simp] theorem State.putLink_hosts (l : Nat) (x : MsgLink) : (s.putLink l x).hosts = s.hosts := rfl
@[simp] theorem State.putLink_caps (l : Nat) (x : MsgLink) : (s.putLink l x).caps = s.caps := rfl
@[simp] theorem State.putLink_cals (l : Nat) (x : MsgLink) : (s.putLink l x).cals = s.cals := rfl
@[simp] theorem State.putLink_calDev (l : Nat) (x : MsgLink) : (s.putLink l x).calDev = s.calDev := rfl
@[simp] theorem State.putLink_msg (l : Nat) (x : MsgLink) : (s.putLink l x).msg = s.msg := rfl
@[simp] theorem State.putLink_sessions (l : Nat) (x : MsgLink) : (s.putLink l x).sessions = s.sessions := rfl
@[simp] theorem State.putLink_pwr (l : Nat) (x : MsgLink) : (s.putLink l x).pwr = s.pwr := rfl
@[simp] theorem State.putLink_stamps (l : Nat) (x : MsgLink) : (s.putLink l x).stamps = s.stamps := rfl
@[simp] theorem State.putLink_tim (l : Nat) (x : MsgLink) : (s.putLink l x).tim = s.tim := rfl
@[simp] theorem State.putLink_chains (l : Nat) (x : MsgLink) : (s.putLink l x).chains = s.chains := rfl
@[simp] theorem State.putLink_dacs (l : Nat) (x : MsgLink) : (s.putLink l x).dacs = s.dacs := rfl
@[simp] theorem State.putLink_store (l : Nat) (x : MsgLink) : (s.putLink l x).store = s.store := rfl
@[simp] theorem State.putLink_gpioPulse (l : Nat) (x : MsgLink) : (s.putLink l x).gpioPulse = s.gpioPulse := rfl
@[simp] theorem State.putLink_elapsed (l : Nat) (x : MsgLink) : (s.putLink l x).elapsed = s.elapsed := rfl
@[simp] theorem State.putLink_stub (l : Nat) (x : MsgLink) : (s.putLink l x).stub = s.stub := rfl
@[simp] theorem State.putLink_thm (l : Nat) (x : MsgLink) : (s.putLink l x).thm = s.thm := rfl
@[simp] theorem State.putLink_fuses (l : Nat) (x : MsgLink) : (s.putLink l x).fuses = s.fuses := rfl
@[simp] theorem State.putLink_sec (l : Nat) (x : MsgLink) : (s.putLink l x).sec = s.sec := rfl
@[simp] theorem State.putLink_mbx (l : Nat) (x : MsgLink) : (s.putLink l x).mbx = s.mbx := rfl
@[simp] theorem State.putLink_boot (l : Nat) (x : MsgLink) : (s.putLink l x).boot = s.boot := rfl
@[simp] theorem State.putLink_pending (l : Nat) (x : MsgLink) : (s.putLink l x).pending = s.pending := rfl
@[simp] theorem State.putLink_get (l : Nat) (x : MsgLink) (g : Fld) : (s.putLink l x).get g = s.get g := rfl
@[simp] theorem State.putLink_getB (l : Nat) (x : MsgLink) (g : Fld) : (s.putLink l x).getB g = s.getB g := rfl

/-! ### State.putStamp -/

@[simp] theorem State.putStamp_regs (l : Nat) (x : Stamps) : (s.putStamp l x).regs = s.regs := rfl
@[simp] theorem State.putStamp_shadow (l : Nat) (x : Stamps) : (s.putStamp l x).shadow = s.shadow := rfl
@[simp] theorem State.putStamp_staged (l : Nat) (x : Stamps) : (s.putStamp l x).staged = s.staged := rfl
@[simp] theorem State.putStamp_mem (l : Nat) (x : Stamps) : (s.putStamp l x).mem = s.mem := rfl
@[simp] theorem State.putStamp_time (l : Nat) (x : Stamps) : (s.putStamp l x).time = s.time := rfl
@[simp] theorem State.putStamp_freeCount (l : Nat) (x : Stamps) : (s.putStamp l x).freeCount = s.freeCount := rfl
@[simp] theorem State.putStamp_spi (l : Nat) (x : Stamps) : (s.putStamp l x).spi = s.spi := rfl
@[simp] theorem State.putStamp_i3c (l : Nat) (x : Stamps) : (s.putStamp l x).i3c = s.i3c := rfl
@[simp] theorem State.putStamp_target (l : Nat) (x : Stamps) : (s.putStamp l x).target = s.target := rfl
@[simp] theorem State.putStamp_woken (l : Nat) (x : Stamps) : (s.putStamp l x).woken = s.woken := rfl
@[simp] theorem State.putStamp_raised (l : Nat) (x : Stamps) : (s.putStamp l x).raised = s.raised := rfl
@[simp] theorem State.putStamp_evQueue (l : Nat) (x : Stamps) : (s.putStamp l x).evQueue = s.evQueue := rfl
@[simp] theorem State.putStamp_evDropped (l : Nat) (x : Stamps) : (s.putStamp l x).evDropped = s.evDropped := rfl
@[simp] theorem State.putStamp_evLost (l : Nat) (x : Stamps) : (s.putStamp l x).evLost = s.evLost := rfl
@[simp] theorem State.putStamp_resets (l : Nat) (x : Stamps) : (s.putStamp l x).resets = s.resets := rfl
@[simp] theorem State.putStamp_txs (l : Nat) (x : Stamps) : (s.putStamp l x).txs = s.txs := rfl
@[simp] theorem State.putStamp_rxs (l : Nat) (x : Stamps) : (s.putStamp l x).rxs = s.rxs := rfl
@[simp] theorem State.putStamp_powers (l : Nat) (x : Stamps) : (s.putStamp l x).powers = s.powers := rfl
@[simp] theorem State.putStamp_hosts (l : Nat) (x : Stamps) : (s.putStamp l x).hosts = s.hosts := rfl
@[simp] theorem State.putStamp_caps (l : Nat) (x : Stamps) : (s.putStamp l x).caps = s.caps := rfl
@[simp] theorem State.putStamp_cals (l : Nat) (x : Stamps) : (s.putStamp l x).cals = s.cals := rfl
@[simp] theorem State.putStamp_calDev (l : Nat) (x : Stamps) : (s.putStamp l x).calDev = s.calDev := rfl
@[simp] theorem State.putStamp_msg (l : Nat) (x : Stamps) : (s.putStamp l x).msg = s.msg := rfl
@[simp] theorem State.putStamp_links (l : Nat) (x : Stamps) : (s.putStamp l x).links = s.links := rfl
@[simp] theorem State.putStamp_sessions (l : Nat) (x : Stamps) : (s.putStamp l x).sessions = s.sessions := rfl
@[simp] theorem State.putStamp_pwr (l : Nat) (x : Stamps) : (s.putStamp l x).pwr = s.pwr := rfl
@[simp] theorem State.putStamp_tim (l : Nat) (x : Stamps) : (s.putStamp l x).tim = s.tim := rfl
@[simp] theorem State.putStamp_chains (l : Nat) (x : Stamps) : (s.putStamp l x).chains = s.chains := rfl
@[simp] theorem State.putStamp_dacs (l : Nat) (x : Stamps) : (s.putStamp l x).dacs = s.dacs := rfl
@[simp] theorem State.putStamp_store (l : Nat) (x : Stamps) : (s.putStamp l x).store = s.store := rfl
@[simp] theorem State.putStamp_gpioPulse (l : Nat) (x : Stamps) : (s.putStamp l x).gpioPulse = s.gpioPulse := rfl
@[simp] theorem State.putStamp_elapsed (l : Nat) (x : Stamps) : (s.putStamp l x).elapsed = s.elapsed := rfl
@[simp] theorem State.putStamp_stub (l : Nat) (x : Stamps) : (s.putStamp l x).stub = s.stub := rfl
@[simp] theorem State.putStamp_thm (l : Nat) (x : Stamps) : (s.putStamp l x).thm = s.thm := rfl
@[simp] theorem State.putStamp_fuses (l : Nat) (x : Stamps) : (s.putStamp l x).fuses = s.fuses := rfl
@[simp] theorem State.putStamp_sec (l : Nat) (x : Stamps) : (s.putStamp l x).sec = s.sec := rfl
@[simp] theorem State.putStamp_mbx (l : Nat) (x : Stamps) : (s.putStamp l x).mbx = s.mbx := rfl
@[simp] theorem State.putStamp_boot (l : Nat) (x : Stamps) : (s.putStamp l x).boot = s.boot := rfl
@[simp] theorem State.putStamp_pending (l : Nat) (x : Stamps) : (s.putStamp l x).pending = s.pending := rfl
@[simp] theorem State.putStamp_get (l : Nat) (x : Stamps) (g : Fld) : (s.putStamp l x).get g = s.get g := rfl
@[simp] theorem State.putStamp_getB (l : Nat) (x : Stamps) (g : Fld) : (s.putStamp l x).getB g = s.getB g := rfl

/-! ### State.putChain -/

@[simp] theorem State.putChain_regs (l : Nat) (x : FilterChain) : (s.putChain l x).regs = s.regs := rfl
@[simp] theorem State.putChain_shadow (l : Nat) (x : FilterChain) : (s.putChain l x).shadow = s.shadow := rfl
@[simp] theorem State.putChain_staged (l : Nat) (x : FilterChain) : (s.putChain l x).staged = s.staged := rfl
@[simp] theorem State.putChain_mem (l : Nat) (x : FilterChain) : (s.putChain l x).mem = s.mem := rfl
@[simp] theorem State.putChain_time (l : Nat) (x : FilterChain) : (s.putChain l x).time = s.time := rfl
@[simp] theorem State.putChain_freeCount (l : Nat) (x : FilterChain) : (s.putChain l x).freeCount = s.freeCount := rfl
@[simp] theorem State.putChain_spi (l : Nat) (x : FilterChain) : (s.putChain l x).spi = s.spi := rfl
@[simp] theorem State.putChain_i3c (l : Nat) (x : FilterChain) : (s.putChain l x).i3c = s.i3c := rfl
@[simp] theorem State.putChain_target (l : Nat) (x : FilterChain) : (s.putChain l x).target = s.target := rfl
@[simp] theorem State.putChain_woken (l : Nat) (x : FilterChain) : (s.putChain l x).woken = s.woken := rfl
@[simp] theorem State.putChain_raised (l : Nat) (x : FilterChain) : (s.putChain l x).raised = s.raised := rfl
@[simp] theorem State.putChain_evQueue (l : Nat) (x : FilterChain) : (s.putChain l x).evQueue = s.evQueue := rfl
@[simp] theorem State.putChain_evDropped (l : Nat) (x : FilterChain) : (s.putChain l x).evDropped = s.evDropped := rfl
@[simp] theorem State.putChain_evLost (l : Nat) (x : FilterChain) : (s.putChain l x).evLost = s.evLost := rfl
@[simp] theorem State.putChain_resets (l : Nat) (x : FilterChain) : (s.putChain l x).resets = s.resets := rfl
@[simp] theorem State.putChain_txs (l : Nat) (x : FilterChain) : (s.putChain l x).txs = s.txs := rfl
@[simp] theorem State.putChain_rxs (l : Nat) (x : FilterChain) : (s.putChain l x).rxs = s.rxs := rfl
@[simp] theorem State.putChain_powers (l : Nat) (x : FilterChain) : (s.putChain l x).powers = s.powers := rfl
@[simp] theorem State.putChain_hosts (l : Nat) (x : FilterChain) : (s.putChain l x).hosts = s.hosts := rfl
@[simp] theorem State.putChain_caps (l : Nat) (x : FilterChain) : (s.putChain l x).caps = s.caps := rfl
@[simp] theorem State.putChain_cals (l : Nat) (x : FilterChain) : (s.putChain l x).cals = s.cals := rfl
@[simp] theorem State.putChain_calDev (l : Nat) (x : FilterChain) : (s.putChain l x).calDev = s.calDev := rfl
@[simp] theorem State.putChain_msg (l : Nat) (x : FilterChain) : (s.putChain l x).msg = s.msg := rfl
@[simp] theorem State.putChain_links (l : Nat) (x : FilterChain) : (s.putChain l x).links = s.links := rfl
@[simp] theorem State.putChain_sessions (l : Nat) (x : FilterChain) : (s.putChain l x).sessions = s.sessions := rfl
@[simp] theorem State.putChain_pwr (l : Nat) (x : FilterChain) : (s.putChain l x).pwr = s.pwr := rfl
@[simp] theorem State.putChain_stamps (l : Nat) (x : FilterChain) : (s.putChain l x).stamps = s.stamps := rfl
@[simp] theorem State.putChain_tim (l : Nat) (x : FilterChain) : (s.putChain l x).tim = s.tim := rfl
@[simp] theorem State.putChain_dacs (l : Nat) (x : FilterChain) : (s.putChain l x).dacs = s.dacs := rfl
@[simp] theorem State.putChain_store (l : Nat) (x : FilterChain) : (s.putChain l x).store = s.store := rfl
@[simp] theorem State.putChain_gpioPulse (l : Nat) (x : FilterChain) : (s.putChain l x).gpioPulse = s.gpioPulse := rfl
@[simp] theorem State.putChain_elapsed (l : Nat) (x : FilterChain) : (s.putChain l x).elapsed = s.elapsed := rfl
@[simp] theorem State.putChain_stub (l : Nat) (x : FilterChain) : (s.putChain l x).stub = s.stub := rfl
@[simp] theorem State.putChain_thm (l : Nat) (x : FilterChain) : (s.putChain l x).thm = s.thm := rfl
@[simp] theorem State.putChain_fuses (l : Nat) (x : FilterChain) : (s.putChain l x).fuses = s.fuses := rfl
@[simp] theorem State.putChain_sec (l : Nat) (x : FilterChain) : (s.putChain l x).sec = s.sec := rfl
@[simp] theorem State.putChain_mbx (l : Nat) (x : FilterChain) : (s.putChain l x).mbx = s.mbx := rfl
@[simp] theorem State.putChain_boot (l : Nat) (x : FilterChain) : (s.putChain l x).boot = s.boot := rfl
@[simp] theorem State.putChain_pending (l : Nat) (x : FilterChain) : (s.putChain l x).pending = s.pending := rfl
@[simp] theorem State.putChain_get (l : Nat) (x : FilterChain) (g : Fld) : (s.putChain l x).get g = s.get g := rfl
@[simp] theorem State.putChain_getB (l : Nat) (x : FilterChain) (g : Fld) : (s.putChain l x).getB g = s.getB g := rfl

/-! ### State.putDac -/

@[simp] theorem State.putDac_regs (l : Nat) (x : DacChannel) : (s.putDac l x).regs = s.regs := rfl
@[simp] theorem State.putDac_shadow (l : Nat) (x : DacChannel) : (s.putDac l x).shadow = s.shadow := rfl
@[simp] theorem State.putDac_staged (l : Nat) (x : DacChannel) : (s.putDac l x).staged = s.staged := rfl
@[simp] theorem State.putDac_mem (l : Nat) (x : DacChannel) : (s.putDac l x).mem = s.mem := rfl
@[simp] theorem State.putDac_time (l : Nat) (x : DacChannel) : (s.putDac l x).time = s.time := rfl
@[simp] theorem State.putDac_freeCount (l : Nat) (x : DacChannel) : (s.putDac l x).freeCount = s.freeCount := rfl
@[simp] theorem State.putDac_spi (l : Nat) (x : DacChannel) : (s.putDac l x).spi = s.spi := rfl
@[simp] theorem State.putDac_i3c (l : Nat) (x : DacChannel) : (s.putDac l x).i3c = s.i3c := rfl
@[simp] theorem State.putDac_target (l : Nat) (x : DacChannel) : (s.putDac l x).target = s.target := rfl
@[simp] theorem State.putDac_woken (l : Nat) (x : DacChannel) : (s.putDac l x).woken = s.woken := rfl
@[simp] theorem State.putDac_raised (l : Nat) (x : DacChannel) : (s.putDac l x).raised = s.raised := rfl
@[simp] theorem State.putDac_evQueue (l : Nat) (x : DacChannel) : (s.putDac l x).evQueue = s.evQueue := rfl
@[simp] theorem State.putDac_evDropped (l : Nat) (x : DacChannel) : (s.putDac l x).evDropped = s.evDropped := rfl
@[simp] theorem State.putDac_evLost (l : Nat) (x : DacChannel) : (s.putDac l x).evLost = s.evLost := rfl
@[simp] theorem State.putDac_resets (l : Nat) (x : DacChannel) : (s.putDac l x).resets = s.resets := rfl
@[simp] theorem State.putDac_txs (l : Nat) (x : DacChannel) : (s.putDac l x).txs = s.txs := rfl
@[simp] theorem State.putDac_rxs (l : Nat) (x : DacChannel) : (s.putDac l x).rxs = s.rxs := rfl
@[simp] theorem State.putDac_powers (l : Nat) (x : DacChannel) : (s.putDac l x).powers = s.powers := rfl
@[simp] theorem State.putDac_hosts (l : Nat) (x : DacChannel) : (s.putDac l x).hosts = s.hosts := rfl
@[simp] theorem State.putDac_caps (l : Nat) (x : DacChannel) : (s.putDac l x).caps = s.caps := rfl
@[simp] theorem State.putDac_cals (l : Nat) (x : DacChannel) : (s.putDac l x).cals = s.cals := rfl
@[simp] theorem State.putDac_calDev (l : Nat) (x : DacChannel) : (s.putDac l x).calDev = s.calDev := rfl
@[simp] theorem State.putDac_msg (l : Nat) (x : DacChannel) : (s.putDac l x).msg = s.msg := rfl
@[simp] theorem State.putDac_links (l : Nat) (x : DacChannel) : (s.putDac l x).links = s.links := rfl
@[simp] theorem State.putDac_sessions (l : Nat) (x : DacChannel) : (s.putDac l x).sessions = s.sessions := rfl
@[simp] theorem State.putDac_pwr (l : Nat) (x : DacChannel) : (s.putDac l x).pwr = s.pwr := rfl
@[simp] theorem State.putDac_stamps (l : Nat) (x : DacChannel) : (s.putDac l x).stamps = s.stamps := rfl
@[simp] theorem State.putDac_tim (l : Nat) (x : DacChannel) : (s.putDac l x).tim = s.tim := rfl
@[simp] theorem State.putDac_chains (l : Nat) (x : DacChannel) : (s.putDac l x).chains = s.chains := rfl
@[simp] theorem State.putDac_store (l : Nat) (x : DacChannel) : (s.putDac l x).store = s.store := rfl
@[simp] theorem State.putDac_gpioPulse (l : Nat) (x : DacChannel) : (s.putDac l x).gpioPulse = s.gpioPulse := rfl
@[simp] theorem State.putDac_elapsed (l : Nat) (x : DacChannel) : (s.putDac l x).elapsed = s.elapsed := rfl
@[simp] theorem State.putDac_stub (l : Nat) (x : DacChannel) : (s.putDac l x).stub = s.stub := rfl
@[simp] theorem State.putDac_thm (l : Nat) (x : DacChannel) : (s.putDac l x).thm = s.thm := rfl
@[simp] theorem State.putDac_fuses (l : Nat) (x : DacChannel) : (s.putDac l x).fuses = s.fuses := rfl
@[simp] theorem State.putDac_sec (l : Nat) (x : DacChannel) : (s.putDac l x).sec = s.sec := rfl
@[simp] theorem State.putDac_mbx (l : Nat) (x : DacChannel) : (s.putDac l x).mbx = s.mbx := rfl
@[simp] theorem State.putDac_boot (l : Nat) (x : DacChannel) : (s.putDac l x).boot = s.boot := rfl
@[simp] theorem State.putDac_pending (l : Nat) (x : DacChannel) : (s.putDac l x).pending = s.pending := rfl
@[simp] theorem State.putDac_get (l : Nat) (x : DacChannel) (g : Fld) : (s.putDac l x).get g = s.get g := rfl
@[simp] theorem State.putDac_getB (l : Nat) (x : DacChannel) (g : Fld) : (s.putDac l x).getB g = s.getB g := rfl

/-! ### settle -/

@[simp] theorem settle_regs : (settle s).regs = s.regs := rfl
@[simp] theorem settle_shadow : (settle s).shadow = s.shadow := rfl
@[simp] theorem settle_staged : (settle s).staged = s.staged := rfl
@[simp] theorem settle_mem : (settle s).mem = s.mem := rfl
@[simp] theorem settle_time : (settle s).time = s.time := rfl
@[simp] theorem settle_freeCount : (settle s).freeCount = s.freeCount := rfl
@[simp] theorem settle_spi : (settle s).spi = s.spi := rfl
@[simp] theorem settle_i3c : (settle s).i3c = s.i3c := rfl
@[simp] theorem settle_target : (settle s).target = s.target := rfl
@[simp] theorem settle_woken : (settle s).woken = s.woken := rfl
@[simp] theorem settle_resets : (settle s).resets = s.resets := rfl
@[simp] theorem settle_txs : (settle s).txs = s.txs := rfl
@[simp] theorem settle_rxs : (settle s).rxs = s.rxs := rfl
@[simp] theorem settle_powers : (settle s).powers = s.powers := rfl
@[simp] theorem settle_hosts : (settle s).hosts = s.hosts := rfl
@[simp] theorem settle_caps : (settle s).caps = s.caps := rfl
@[simp] theorem settle_cals : (settle s).cals = s.cals := rfl
@[simp] theorem settle_calDev : (settle s).calDev = s.calDev := rfl
@[simp] theorem settle_msg : (settle s).msg = s.msg := rfl
@[simp] theorem settle_links : (settle s).links = s.links := rfl
@[simp] theorem settle_sessions : (settle s).sessions = s.sessions := rfl
@[simp] theorem settle_pwr : (settle s).pwr = s.pwr := rfl
@[simp] theorem settle_stamps : (settle s).stamps = s.stamps := rfl
@[simp] theorem settle_tim : (settle s).tim = s.tim := rfl
@[simp] theorem settle_chains : (settle s).chains = s.chains := rfl
@[simp] theorem settle_dacs : (settle s).dacs = s.dacs := rfl
@[simp] theorem settle_store : (settle s).store = s.store := rfl
@[simp] theorem settle_gpioPulse : (settle s).gpioPulse = s.gpioPulse := rfl
@[simp] theorem settle_elapsed : (settle s).elapsed = s.elapsed := rfl
@[simp] theorem settle_thm : (settle s).thm = s.thm := rfl
@[simp] theorem settle_fuses : (settle s).fuses = s.fuses := rfl
@[simp] theorem settle_sec : (settle s).sec = s.sec := rfl
@[simp] theorem settle_mbx : (settle s).mbx = s.mbx := rfl
@[simp] theorem settle_boot : (settle s).boot = s.boot := rfl
@[simp] theorem settle_pending : (settle s).pending = s.pending := rfl
@[simp] theorem settle_get (g : Fld) : (settle s).get g = s.get g := rfl
@[simp] theorem settle_getB (g : Fld) : (settle s).getB g = s.getB g := rfl

/-! ### Reading back a record -/

theorem State.putTx_tx (l k : Nat) (x : TxLane) : (s.putTx l x).tx k = if l = k ∧ k < 8 then x else s.tx k := by
  simp only [State.tx, State.putTx, Vector.getElem?_setIfInBounds]
  split <;> rename_i h
  · subst h
    by_cases hk : l < 8 <;> simp [hk]
  · simp [h]

theorem State.putRx_rx (l k : Nat) (x : RxLane) : (s.putRx l x).rx k = if l = k ∧ k < 8 then x else s.rx k := by
  simp only [State.rx, State.putRx, Vector.getElem?_setIfInBounds]
  split <;> rename_i h
  · subst h
    by_cases hk : l < 8 <;> simp [hk]
  · simp [h]

theorem State.putHost_host (l k : Nat) (x : HostLaneInt) : (s.putHost l x).host k = if l = k ∧ k < 16 then x else s.host k := by
  simp only [State.host, State.putHost, Vector.getElem?_setIfInBounds]
  split <;> rename_i h
  · subst h
    by_cases hk : l < 16 <;> simp [hk]
  · simp [h]

theorem State.putCap_cap (l k : Nat) (x : CapInt) : (s.putCap l x).cap k = if l = k ∧ k < 2 then x else s.cap k := by
  simp only [State.cap, State.putCap, Vector.getElem?_setIfInBounds]
  split <;> rename_i h
  · subst h
    by_cases hk : l < 2 <;> simp [hk]
  · simp [h]

theorem State.putCal_cal (l k : Nat) (x : CalLane) : (s.putCal l x).cal k = if l = k ∧ k < 8 then x else s.cal k := by
  simp only [State.cal, State.putCal, Vector.getElem?_setIfInBounds]
  split <;> rename_i h
  · subst h
    by_cases hk : l < 8 <;> simp [hk]
  · simp [h]

theorem State.putSession_session (l k : Nat) (x : PeerSession) : (s.putSession l x).session k = if l = k ∧ k < 8 then x else s.session k := by
  simp only [State.session, State.putSession, Vector.getElem?_setIfInBounds]
  split <;> rename_i h
  · subst h
    by_cases hk : l < 8 <;> simp [hk]
  · simp [h]

theorem State.putLink_link (l k : Nat) (x : MsgLink) : (s.putLink l x).link k = if l = k ∧ k < 8 then x else s.link k := by
  simp only [State.link, State.putLink, Vector.getElem?_setIfInBounds]
  split <;> rename_i h
  · subst h
    by_cases hk : l < 8 <;> simp [hk]
  · simp [h]

theorem State.putStamp_stamp (l k : Nat) (x : Stamps) : (s.putStamp l x).stamp k = if l = k ∧ k < 8 then x else s.stamp k := by
  simp only [State.stamp, State.putStamp, Vector.getElem?_setIfInBounds]
  split <;> rename_i h
  · subst h
    by_cases hk : l < 8 <;> simp [hk]
  · simp [h]

end Sys2Proof.Machine
end

