-- ==== Sys2Proof/Laws/Regs.lean ====
section
/-!
SUPPORT. Reading the register file after a change of one field, a counted event or an interrupt source.
-/

namespace Sys2Proof.Machine

open Sys2Proof

theorem natGet_natPut (m : NatMap) (k v x : Nat) : natGet (natPut m k v) x = if x = k then some v else natGet m x := by
  induction m with
  | nil => rfl
  | cons e m ih =>
    obtain ⟨a, b⟩ := e
    unfold natPut
    split
    · rfl
    · split
      · next h => subst h; by_cases hx : x = k <;> simp [natGet, hx]
      · next h =>
        by_cases hx : x = a
        · subst hx; simp [natGet, Ne.symm h]
        · simp [natGet, hx, ih]

theorem natGet_natDel (m : NatMap) (k x : Nat) : natGet (natDel m k) x = if x = k then none else natGet m x := by
  induction m with
  | nil => simp [natDel, natGet]
  | cons e m ih =>
    obtain ⟨a, b⟩ := e
    unfold natDel at ih ⊢
    by_cases ha : a = k
    · subst ha
      rw [List.filter_cons_of_neg (by simp), ih]
      by_cases hx : x = a <;> simp [natGet, hx]
    · rw [List.filter_cons_of_pos (by simp [ha])]
      by_cases hx : x = a
      · subst hx; simp [natGet, ha]
      · simp only [natGet, if_neg hx, ih]

/-- A field reads as it was written, cut to its width. -/
theorem State.get_set_same (s : State) (f : Fld) (v : Nat) : (s.set f v).get f = v % 2 ^ f.w := by
  unfold State.get State.set natSet
  split
  · next h => simp [natGet_natDel, h]
  · simp [natGet_natPut]

/-- A write of one field changes no other. -/
theorem State.get_set_ne (s : State) {f g : Fld} (v : Nat) (h : f.key ≠ g.key) : (s.set f v).get g = s.get g := by
  unfold State.get State.set natSet
  split
  · simp [natGet_natDel, Ne.symm h]
  · simp [natGet_natPut, Ne.symm h]

/-- What two chains of changes of the register file alone have in common: everything else. -/
def RegsOnly (s t : State) : Prop := t = { s with regs := t.regs } ∧ ∀ g : Fld, ¬ g.counter → t.get g = s.get g

theorem RegsOnly.rfl' (s : State) : RegsOnly s s := ⟨rfl, fun _ _ => rfl⟩

theorem RegsOnly.set {s t : State} (f : Fld) (v : Nat) (hf : f.counter) (h : RegsOnly s t) :
    RegsOnly s (t.set f v) := by
  refine ⟨?_, fun g hg => ?_⟩
  · have := h.1
    unfold State.set
    rw [this]
  · rw [State.get_set_ne t v (fun he => ?_), h.2 g hg]
    unfold Fld.counter at hf hg
    rw [he] at hf
    exact hg hf

theorem RegsOnly.ite {c : Prop} [Decidable c] {s a b : State} (ha : RegsOnly s a) (hb : RegsOnly s b) :
    RegsOnly s (if c then a else b) := by
  split
  · exact ha
  · exact hb

theorem RegsOnly.foldl {α : Type} {s : State} {g : State → α → State} (l : List α) {t : State}
    (h : ∀ a t, RegsOnly s t → RegsOnly s (g t a)) (ht : RegsOnly s t) : RegsOnly s (l.foldl g t) := by
  induction l generalizing t with
  | nil => exact ht
  | cons a l ih => exact ih (h a t ht)

theorem base_aligned (b : Blk) : b.base % 65536 = 0 := by
  unfold Blk.base
  split <;> omega

/-- The fields that a counted event can change are marked so, whatever the block. -/
theorem counter_fld (b : Blk) (o lo w rst : Nat) (k : Kind) (ho : 0x100000 ≤ o) (h2 : o < 0x100100) (hl : lo < 32) :
    (fld (hid b.base o) lo w rst k).counter := by
  have hb := base_aligned b
  have hk : k.code < 4 := by cases k <;> decide
  simp only [Fld.counter, fld, hid]
  omega

theorem counter_count (b : Blk) {c : Nat} (hc : c < 8) : (R.PMC_CNT_COUNT b c).counter := by
  have := counter_fld b (0x100008 + 0x20 * c) 0 48 0 .block (by omega) (by omega) (by omega)
  simpa [R.PMC_CNT_COUNT, hid, Nat.add_assoc] using this

theorem counter_ovf (b : Blk) {c : Nat} (hc : c < 8) : (R.PMC_EVSEL_OVF b c).counter := by
  have := counter_fld b (0x100000 + 0x20 * c) 9 1 0 .block (by omega) (by omega) (by omega)
  simpa [R.PMC_EVSEL_OVF, hid, Nat.add_assoc] using this

/-- A field of PMC that a carry changes. -/
theorem RegsOnly.setB {s t : State} (f : Fld) (v : Bool) (hf : f.counter) (h : RegsOnly s t) :
    RegsOnly s (t.setB f v) := h.set f (b2n v) hf

theorem snapAsk_regsOnly (s t : State) (h : RegsOnly s t) : RegsOnly s (snapAsk t false).1 := by
  unfold snapAsk
  simp only [Bool.false_eq_true, if_false]
  have hc : ∀ f : Fld, f ∈ [R.PMC_SNAP_STAT_OVERLAP, R.PMC_INT_WAITING, R.PMC_SNAP_STAT_DELAYED, R.PMC_SNAP_STAT_BUSY,
      R.PMC_SNAP_TIME_TIME] → f.counter := by
    simp only [Fld.counter]; decide
  split
  · exact h.set _ _ (hc _ (by simp))
  · split
    · exact (h.setB _ _ (hc _ (by simp))).setB _ _ (hc _ (by simp))
    · exact ((h.setB _ _ (hc _ (by simp))).setB _ _ (hc _ (by simp))).set _ _ (hc _ (by simp))

theorem carryPut_regsOnly (s t : State) (b : Blk) {c : Nat} (sum : Nat) (hc : c < 8) (h : RegsOnly s t) :
    RegsOnly s (carryPut t b c sum) := (h.set _ _ (counter_count b hc)).setB _ _ (counter_ovf b hc)

theorem counterAdd_regsOnly (s t : State) (b : Blk) {c : Nat} (k : Nat) (hc : c < 8) (h : RegsOnly s t) :
    RegsOnly s (counterAdd t b c k).1 := by
  unfold counterAdd counterCarry
  dsimp only
  split
  · have h2 := carryPut_regsOnly s t b (t.get (R.PMC_CNT_COUNT b c) + k) hc h
    generalize carryPut t b c (t.get (R.PMC_CNT_COUNT b c) + k) = u at h2 ⊢
    split
    · exact snapAsk_regsOnly _ _ h2
    · exact h2
  · exact h.set _ _ (counter_count b hc)

theorem countOnce_regsOnly (s t : State) (b : Blk) (e k : Nat) (h : RegsOnly s t) :
    RegsOnly s (countOnce t b e k).1 := by
  unfold countOnce
  suffices ∀ l : List Nat, (∀ c ∈ l, c < 8) → ∀ p : State × List Nat, RegsOnly s p.1 →
      RegsOnly s (l.foldl (countIn b e k) p).1 from this _ (fun c hc => List.mem_range.mp hc) _ h
  intro l hl
  induction l with
  | nil => exact fun p h => h
  | cons c l ih =>
    intro p hp
    refine ih (fun d hd => hl d (List.mem_cons_of_mem _ hd)) _ ?_
    unfold countIn
    split
    · exact counterAdd_regsOnly _ _ _ _ (hl c (List.mem_cons_self ..)) hp
    · exact hp

/-- The sources of PMC that a carry raises. -/
theorem countOnce_sources (t : State) (b : Blk) (e k : Nat) : ∀ x ∈ (countOnce t b e k).2, x = 1 ∨ x = 2 := by
  unfold countOnce
  suffices ∀ l : List Nat, ∀ p : State × List Nat, (∀ x ∈ p.2, x = 1 ∨ x = 2) →
      ∀ x ∈ (l.foldl (countIn b e k) p).2, x = 1 ∨ x = 2 from this _ _ (by simp)
  intro l
  induction l with
  | nil => exact fun p h => h
  | cons c l ih =>
    intro p hp
    refine ih _ ?_
    unfold countIn
    split
    · intro x hx
      rcases List.mem_append.mp hx with hx | hx
      · exact hp x hx
      · revert hx
        unfold counterAdd counterCarry
        dsimp only
        repeat' split
        all_goals simp
        all_goals omega
    · exact hp

theorem countTo_regsOnly (n : Nat) : ∀ (s t : State) (b : Blk) (e k : Nat), RegsOnly s t →
    RegsOnly s (countTo n t b e k) := by
  induction n with
  | zero => exact fun s t b e k h => countOnce_regsOnly s t b e k h
  | succ n ih =>
    intro s t b e k h
    unfold countTo
    suffices ∀ l : List Nat, (∀ x ∈ l, x = 1 ∨ x = 2) → ∀ u, RegsOnly s u → RegsOnly s (l.foldl (fun s src =>
        if s.inReset (dev .pmc) then s
        else countTo n (s.setB (R.IRQ_RAW_RAW (dev .pmc) src) true) (dev .pmc) (0x20 + src) 1) u) from
      this _ (countOnce_sources t b e k) _ (countOnce_regsOnly s t b e k h)
    intro l hl
    induction l with
    | nil => exact fun u h => h
    | cons x l jh =>
      intro u hu
      refine jh (fun y hy => hl y (List.mem_cons_of_mem _ hy)) _ (.ite hu (ih _ _ _ _ _ (hu.setB _ _ ?_)))
      rcases hl x (List.mem_cons_self ..) with rfl | rfl <;> simp only [Fld.counter] <;> decide

theorem count_regsOnly (s : State) (b : Blk) (e k : Nat) : RegsOnly s (s.count b e k) :=
  countTo_regsOnly 16 s s b e k (RegsOnly.rfl' s)

/-- Counting an event changes performance counters alone. -/
theorem State.count_get (s : State) (b : Blk) (e k : Nat) (g : Fld) (hg : ¬ g.counter) :
    (s.count b e k).get g = s.get g := (count_regsOnly s b e k).2 g hg

theorem State.count_eq (s : State) (b : Blk) (e k : Nat) :
    s.count b e k = { s with regs := (s.count b e k).regs } := (count_regsOnly s b e k).1

/-- An interrupt source changes its own bit and performance counters alone. -/
theorem State.irq_get_ne (s : State) (b : Blk) (n : Nat) {g : Fld} (hg : ¬ g.counter)
    (h : (R.IRQ_RAW_RAW b n).key ≠ g.key) : (s.irq b n).get g = s.get g := by
  unfold State.irq
  split
  · rfl
  · rw [State.count_get _ _ _ _ _ hg, State.setB, State.get_set_ne _ _ h]

theorem State.irq_get_raw (s : State) (b : Blk) (n : Nat) (hr : s.inReset b = false)
    (hc : ¬ (R.IRQ_RAW_RAW b n).counter) : (s.irq b n).get (R.IRQ_RAW_RAW b n) = 1 := by
  unfold State.irq
  simp only [hr, Bool.false_eq_true, if_false]
  rw [State.count_get _ _ _ _ _ hc, State.setB, State.get_set_same]
  rfl

theorem State.irq_eq (s : State) (b : Blk) (n : Nat) : s.irq b n = { s with regs := (s.irq b n).regs } := by
  unfold State.irq
  split
  · rfl
  · have h := State.count_eq (s.setB (R.IRQ_RAW_RAW b n) true) b (0x20 + n) 1
    generalize (s.setB (R.IRQ_RAW_RAW b n) true).count b (0x20 + n) 1 = u at h ⊢
    rw [h]
    rfl

end Sys2Proof.Machine
end

