-- ==== Sys2Proof/Laws/Effect.lean ====
section
/-!
SUPPORT. What interrupt sources and counted events leave as it was, and the part of the state beside registers and events.
-/

namespace Sys2Proof.Machine

open Sys2Proof

/-! ### Interrupt sources -/

@[simp] theorem State.irq_shadow (s : State) (b : Blk) (n : Nat) : (s.irq b n).shadow = s.shadow := by rw [State.irq_eq]
@[simp] theorem State.irq_staged (s : State) (b : Blk) (n : Nat) : (s.irq b n).staged = s.staged := by rw [State.irq_eq]
@[simp] theorem State.irq_mem (s : State) (b : Blk) (n : Nat) : (s.irq b n).mem = s.mem := by rw [State.irq_eq]
@[simp] theorem State.irq_time (s : State) (b : Blk) (n : Nat) : (s.irq b n).time = s.time := by rw [State.irq_eq]
@[simp] theorem State.irq_freeCount (s : State) (b : Blk) (n : Nat) : (s.irq b n).freeCount = s.freeCount := by rw [State.irq_eq]
@[simp] theorem State.irq_spi (s : State) (b : Blk) (n : Nat) : (s.irq b n).spi = s.spi := by rw [State.irq_eq]
@[simp] theorem State.irq_i3c (s : State) (b : Blk) (n : Nat) : (s.irq b n).i3c = s.i3c := by rw [State.irq_eq]
@[simp] theorem State.irq_target (s : State) (b : Blk) (n : Nat) : (s.irq b n).target = s.target := by rw [State.irq_eq]
@[simp] theorem State.irq_woken (s : State) (b : Blk) (n : Nat) : (s.irq b n).woken = s.woken := by rw [State.irq_eq]
@[simp] theorem State.irq_raised (s : State) (b : Blk) (n : Nat) : (s.irq b n).raised = s.raised := by rw [State.irq_eq]
@[simp] theorem State.irq_evQueue (s : State) (b : Blk) (n : Nat) : (s.irq b n).evQueue = s.evQueue := by rw [State.irq_eq]
@[simp] theorem State.irq_evDropped (s : State) (b : Blk) (n : Nat) : (s.irq b n).evDropped = s.evDropped := by rw [State.irq_eq]
@[simp] theorem State.irq_evLost (s : State) (b : Blk) (n : Nat) : (s.irq b n).evLost = s.evLost := by rw [State.irq_eq]
@[simp] theorem State.irq_resets (s : State) (b : Blk) (n : Nat) : (s.irq b n).resets = s.resets := by rw [State.irq_eq]
@[simp] theorem State.irq_txs (s : State) (b : Blk) (n : Nat) : (s.irq b n).txs = s.txs := by rw [State.irq_eq]
@[simp] theorem State.irq_rxs (s : State) (b : Blk) (n : Nat) : (s.irq b n).rxs = s.rxs := by rw [State.irq_eq]
@[simp] theorem State.irq_powers (s : State) (b : Blk) (n : Nat) : (s.irq b n).powers = s.powers := by rw [State.irq_eq]
@[simp] theorem State.irq_hosts (s : State) (b : Blk) (n : Nat) : (s.irq b n).hosts = s.hosts := by rw [State.irq_eq]
@[simp] theorem State.irq_caps (s : State) (b : Blk) (n : Nat) : (s.irq b n).caps = s.caps := by rw [State.irq_eq]
@[simp] theorem State.irq_cals (s : State) (b : Blk) (n : Nat) : (s.irq b n).cals = s.cals := by rw [State.irq_eq]
@[simp] theorem State.irq_calDev (s : State) (b : Blk) (n : Nat) : (s.irq b n).calDev = s.calDev := by rw [State.irq_eq]
@[simp] theorem State.irq_msg (s : State) (b : Blk) (n : Nat) : (s.irq b n).msg = s.msg := by rw [State.irq_eq]
@[simp] theorem State.irq_links (s : State) (b : Blk) (n : Nat) : (s.irq b n).links = s.links := by rw [State.irq_eq]
@[simp] theorem State.irq_sessions (s : State) (b : Blk) (n : Nat) : (s.irq b n).sessions = s.sessions := by rw [State.irq_eq]
@[simp] theorem State.irq_pwr (s : State) (b : Blk) (n : Nat) : (s.irq b n).pwr = s.pwr := by rw [State.irq_eq]
@[simp] theorem State.irq_stamps (s : State) (b : Blk) (n : Nat) : (s.irq b n).stamps = s.stamps := by rw [State.irq_eq]
@[simp] theorem State.irq_tim (s : State) (b : Blk) (n : Nat) : (s.irq b n).tim = s.tim := by rw [State.irq_eq]
@[simp] theorem State.irq_chains (s : State) (b : Blk) (n : Nat) : (s.irq b n).chains = s.chains := by rw [State.irq_eq]
@[simp] theorem State.irq_dacs (s : State) (b : Blk) (n : Nat) : (s.irq b n).dacs = s.dacs := by rw [State.irq_eq]
@[simp] theorem State.irq_store (s : State) (b : Blk) (n : Nat) : (s.irq b n).store = s.store := by rw [State.irq_eq]
@[simp] theorem State.irq_gpioPulse (s : State) (b : Blk) (n : Nat) : (s.irq b n).gpioPulse = s.gpioPulse := by rw [State.irq_eq]
@[simp] theorem State.irq_elapsed (s : State) (b : Blk) (n : Nat) : (s.irq b n).elapsed = s.elapsed := by rw [State.irq_eq]
@[simp] theorem State.irq_stub (s : State) (b : Blk) (n : Nat) : (s.irq b n).stub = s.stub := by rw [State.irq_eq]
@[simp] theorem State.irq_thm (s : State) (b : Blk) (n : Nat) : (s.irq b n).thm = s.thm := by rw [State.irq_eq]
@[simp] theorem State.irq_fuses (s : State) (b : Blk) (n : Nat) : (s.irq b n).fuses = s.fuses := by rw [State.irq_eq]
@[simp] theorem State.irq_sec (s : State) (b : Blk) (n : Nat) : (s.irq b n).sec = s.sec := by rw [State.irq_eq]
@[simp] theorem State.irq_mbx (s : State) (b : Blk) (n : Nat) : (s.irq b n).mbx = s.mbx := by rw [State.irq_eq]
@[simp] theorem State.irq_boot (s : State) (b : Blk) (n : Nat) : (s.irq b n).boot = s.boot := by rw [State.irq_eq]
@[simp] theorem State.irq_pending (s : State) (b : Blk) (n : Nat) : (s.irq b n).pending = s.pending := by rw [State.irq_eq]

/-! ### Counted events -/

@[simp] theorem State.count_shadow (s : State) (b : Blk) (e k : Nat) : (s.count b e k).shadow = s.shadow := by rw [State.count_eq]
@[simp] theorem State.count_staged (s : State) (b : Blk) (e k : Nat) : (s.count b e k).staged = s.staged := by rw [State.count_eq]
@[simp] theorem State.count_mem (s : State) (b : Blk) (e k : Nat) : (s.count b e k).mem = s.mem := by rw [State.count_eq]
@[simp] theorem State.count_time (s : State) (b : Blk) (e k : Nat) : (s.count b e k).time = s.time := by rw [State.count_eq]
@[simp] theorem State.count_freeCount (s : State) (b : Blk) (e k : Nat) : (s.count b e k).freeCount = s.freeCount := by rw [State.count_eq]
@[simp] theorem State.count_spi (s : State) (b : Blk) (e k : Nat) : (s.count b e k).spi = s.spi := by rw [State.count_eq]
@[simp] theorem State.count_i3c (s : State) (b : Blk) (e k : Nat) : (s.count b e k).i3c = s.i3c := by rw [State.count_eq]
@[simp] theorem State.count_target (s : State) (b : Blk) (e k : Nat) : (s.count b e k).target = s.target := by rw [State.count_eq]
@[simp] theorem State.count_woken (s : State) (b : Blk) (e k : Nat) : (s.count b e k).woken = s.woken := by rw [State.count_eq]
@[simp] theorem State.count_raised (s : State) (b : Blk) (e k : Nat) : (s.count b e k).raised = s.raised := by rw [State.count_eq]
@[simp] theorem State.count_evQueue (s : State) (b : Blk) (e k : Nat) : (s.count b e k).evQueue = s.evQueue := by rw [State.count_eq]
@[simp] theorem State.count_evDropped (s : State) (b : Blk) (e k : Nat) : (s.count b e k).evDropped = s.evDropped := by rw [State.count_eq]
@[simp] theorem State.count_evLost (s : State) (b : Blk) (e k : Nat) : (s.count b e k).evLost = s.evLost := by rw [State.count_eq]
@[simp] theorem State.count_resets (s : State) (b : Blk) (e k : Nat) : (s.count b e k).resets = s.resets := by rw [State.count_eq]
@[simp] theorem State.count_txs (s : State) (b : Blk) (e k : Nat) : (s.count b e k).txs = s.txs := by rw [State.count_eq]
@[simp] theorem State.count_rxs (s : State) (b : Blk) (e k : Nat) : (s.count b e k).rxs = s.rxs := by rw [State.count_eq]
@[simp] theorem State.count_powers (s : State) (b : Blk) (e k : Nat) : (s.count b e k).powers = s.powers := by rw [State.count_eq]
@[simp] theorem State.count_hosts (s : State) (b : Blk) (e k : Nat) : (s.count b e k).hosts = s.hosts := by rw [State.count_eq]
@[simp] theorem State.count_caps (s : State) (b : Blk) (e k : Nat) : (s.count b e k).caps = s.caps := by rw [State.count_eq]
@[simp] theorem State.count_cals (s : State) (b : Blk) (e k : Nat) : (s.count b e k).cals = s.cals := by rw [State.count_eq]
@[simp] theorem State.count_calDev (s : State) (b : Blk) (e k : Nat) : (s.count b e k).calDev = s.calDev := by rw [State.count_eq]
@[simp] theorem State.count_msg (s : State) (b : Blk) (e k : Nat) : (s.count b e k).msg = s.msg := by rw [State.count_eq]
@[simp] theorem State.count_links (s : State) (b : Blk) (e k : Nat) : (s.count b e k).links = s.links := by rw [State.count_eq]
@[simp] theorem State.count_sessions (s : State) (b : Blk) (e k : Nat) : (s.count b e k).sessions = s.sessions := by rw [State.count_eq]
@[simp] theorem State.count_pwr (s : State) (b : Blk) (e k : Nat) : (s.count b e k).pwr = s.pwr := by rw [State.count_eq]
@[simp] theorem State.count_stamps (s : State) (b : Blk) (e k : Nat) : (s.count b e k).stamps = s.stamps := by rw [State.count_eq]
@[simp] theorem State.count_tim (s : State) (b : Blk) (e k : Nat) : (s.count b e k).tim = s.tim := by rw [State.count_eq]
@[simp] theorem State.count_chains (s : State) (b : Blk) (e k : Nat) : (s.count b e k).chains = s.chains := by rw [State.count_eq]
@[simp] theorem State.count_dacs (s : State) (b : Blk) (e k : Nat) : (s.count b e k).dacs = s.dacs := by rw [State.count_eq]
@[simp] theorem State.count_store (s : State) (b : Blk) (e k : Nat) : (s.count b e k).store = s.store := by rw [State.count_eq]
@[simp] theorem State.count_gpioPulse (s : State) (b : Blk) (e k : Nat) : (s.count b e k).gpioPulse = s.gpioPulse := by rw [State.count_eq]
@[simp] theorem State.count_elapsed (s : State) (b : Blk) (e k : Nat) : (s.count b e k).elapsed = s.elapsed := by rw [State.count_eq]
@[simp] theorem State.count_stub (s : State) (b : Blk) (e k : Nat) : (s.count b e k).stub = s.stub := by rw [State.count_eq]
@[simp] theorem State.count_thm (s : State) (b : Blk) (e k : Nat) : (s.count b e k).thm = s.thm := by rw [State.count_eq]
@[simp] theorem State.count_fuses (s : State) (b : Blk) (e k : Nat) : (s.count b e k).fuses = s.fuses := by rw [State.count_eq]
@[simp] theorem State.count_sec (s : State) (b : Blk) (e k : Nat) : (s.count b e k).sec = s.sec := by rw [State.count_eq]
@[simp] theorem State.count_mbx (s : State) (b : Blk) (e k : Nat) : (s.count b e k).mbx = s.mbx := by rw [State.count_eq]
@[simp] theorem State.count_boot (s : State) (b : Blk) (e k : Nat) : (s.count b e k).boot = s.boot := by rw [State.count_eq]
@[simp] theorem State.count_pending (s : State) (b : Blk) (e k : Nat) : (s.count b e k).pending = s.pending := by rw [State.count_eq]

/-! ### The part beside registers and events -/

@[simp] theorem State.set_core (s : State) (f : Fld) (v : Nat) : (s.set f v).core = s.core := rfl
@[simp] theorem State.event_core (s : State) (b : Blk) (i c d : Nat) : (s.event b i c d).core = s.core := rfl
@[simp] theorem settle_core (s : State) : (settle s).core = s.core := rfl
@[simp] theorem State.irq_core (s : State) (b : Blk) (n : Nat) : (s.irq b n).core = s.core := by
  rw [State.irq_eq]
  rfl
@[simp] theorem State.count_core (s : State) (b : Blk) (e k : Nat) : (s.count b e k).core = s.core := by
  rw [State.count_eq]
  rfl
@[simp] theorem State.putTx_core (s : State) (l : Nat) (x : TxLane) : (s.putTx l x).core = s.core.putTx l x := rfl
@[simp] theorem State.putRx_core (s : State) (l : Nat) (x : RxLane) : (s.putRx l x).core = s.core.putRx l x := rfl
@[simp] theorem State.putHost_core (s : State) (l : Nat) (x : HostLaneInt) : (s.putHost l x).core = s.core.putHost l x := rfl
@[simp] theorem State.putCap_core (s : State) (l : Nat) (x : CapInt) : (s.putCap l x).core = s.core.putCap l x := rfl
@[simp] theorem State.putCal_core (s : State) (l : Nat) (x : CalLane) : (s.putCal l x).core = s.core.putCal l x := rfl
@[simp] theorem State.putSession_core (s : State) (l : Nat) (x : PeerSession) : (s.putSession l x).core = s.core.putSession l x := rfl
@[simp] theorem State.putLink_core (s : State) (l : Nat) (x : MsgLink) : (s.putLink l x).core = s.core.putLink l x := rfl
@[simp] theorem State.putStamp_core (s : State) (l : Nat) (x : Stamps) : (s.putStamp l x).core = s.core.putStamp l x := rfl
@[simp] theorem State.putChain_core (s : State) (l : Nat) (x : FilterChain) : (s.putChain l x).core = s.core.putChain l x := rfl
@[simp] theorem State.putDac_core (s : State) (l : Nat) (x : DacChannel) : (s.putDac l x).core = s.core.putDac l x := rfl
@[simp] theorem State.draw_core (s : State) : s.draw.core = s.core.draw := rfl

/-! ### What a chain of updates leaves in the registers -/

/-- A field that no counted event changes and on which no reset of a block rests. -/
def Plain (f : Fld) : Prop := ¬ f.counter ∧ f.key % 16777216 ≠ 3100 ∧ f.key / 256 ≠ 0x30040

/-- After some updates of `s` the fields of `w` hold the values beside them and the others what they held. -/
structure After (s v : State) (w : List (Fld × Nat)) : Prop where
  vals : ∀ p ∈ w, v.get p.1 = p.2
  rest : ∀ f : Fld, ¬ f.counter → (∀ p ∈ w, p.1.key ≠ f.key) → v.get f = s.get f
  plain : ∀ p ∈ w, Plain p.1
  resets : v.resets = s.resets

theorem After.nil {s : State} : After s s [] :=
  ⟨fun _ h => absurd h List.not_mem_nil, fun _ _ _ => rfl, fun _ h => absurd h List.not_mem_nil, rfl⟩

theorem After.congr {s v u : State} {w : List (Fld × Nat)} (hr : u.regs = v.regs) (hs : u.resets = v.resets)
    (h : After s v w) : After s u w := by
  have hg : ∀ f, u.get f = v.get f := fun f => by unfold State.get; rw [hr]
  exact ⟨fun p hp => by rw [hg]; exact h.vals p hp, fun f a b => by rw [hg]; exact h.rest f a b, h.plain,
    hs.trans h.resets⟩

theorem After.set {s v : State} {w : List (Fld × Nat)} {f : Fld} {x : Nat} (hx : x < 2 ^ f.w) (hp : Plain f)
    (hd : ∀ p ∈ w, p.1.key ≠ f.key) (h : After s v w) : After s (v.set f x) ((f, x) :: w) := by
  refine ⟨List.forall_mem_cons.mpr ⟨?_, fun p hm => ?_⟩, fun g hg hn => ?_, List.forall_mem_cons.mpr ⟨hp, h.plain⟩,
    h.resets⟩
  · rw [State.get_set_same, Nat.mod_eq_of_lt hx]
  · rw [State.get_set_ne _ _ (hd p hm).symm]
    exact h.vals p hm
  · have hn' := List.forall_mem_cons.mp hn
    rw [State.get_set_ne _ _ hn'.1]
    exact h.rest g hg hn'.2

theorem After.ite {c : Prop} [Decidable c] {s a b : State} {w x : List (Fld × Nat)} (ha : After s a w)
    (hb : After s b x) : After s (if c then a else b) (if c then w else x) := by
  split
  · exact ha
  · exact hb

theorem plain_inReset (b : Blk) {f : Fld} (hp : Plain f) : f.key ≠ (R.BLK_STAT_IN_RESET b).key := by
  intro h
  have hb := base_aligned b
  refine hp.2.1 ?_
  rw [h]
  simp only [R.BLK_STAT_IN_RESET, fld, Kind.code]
  omega

theorem sheaf_lt (b : Blk) (hb : b.inst < 32) {sh : Nat} (h : b.sheaf? = some sh) : sh < 32 := by
  unfold Blk.sheaf? at h
  split at h <;> cases h <;> omega

theorem After.inReset {s v : State} {w : List (Fld × Nat)} (h : After s v w) (b : Blk) (hb : b.inst < 32)
    (hc : ¬ (R.BLK_STAT_IN_RESET b).counter) : v.inReset b = s.inReset b := by
  unfold State.inReset State.sheafReset State.coldAsserted State.warmAsserted State.getB
  rw [h.resets, h.rest _ hc fun p hm => plain_inReset b (h.plain p hm)]
  cases hs : b.sheaf? with
  | none => rfl
  | some sh =>
    have hl := sheaf_lt b hb hs
    have hsh : v.get (R.RST_CTRL_SHEAF sh) = s.get (R.RST_CTRL_SHEAF sh) := by
      refine h.rest _ ?_ fun p hm he => (h.plain p hm).2.2 ?_
      · simp only [Fld.counter, R.RST_CTRL_SHEAF, fld, Kind.code]; omega
      · rw [he]; simp only [R.RST_CTRL_SHEAF, fld, Kind.code]; omega
    simp only [hsh]

theorem After.irq {s v : State} {w : List (Fld × Nat)} {b : Blk} {n : Nat} (hb : b.inst < 32 ∧ n < 32)
    (hp : Plain (R.IRQ_RAW_RAW b n)) (hd : ∀ p ∈ w, p.1.key ≠ (R.IRQ_RAW_RAW b n).key) (h : After s v w) :
    After s (v.irq b n) (s.irqAfter b n :: w) := by
  have hc : ¬ (R.BLK_STAT_IN_RESET b).counter := by
    have h1 := hp.1
    have h2 := base_aligned b
    simp only [Fld.counter, R.BLK_STAT_IN_RESET, R.IRQ_RAW_RAW, fld, Kind.code] at h1 ⊢
    omega
  have hr := h.inReset b hb.1 hc
  refine ⟨List.forall_mem_cons.mpr ⟨?_, fun p hm => ?_⟩, fun g hg hn => ?_, List.forall_mem_cons.mpr ⟨hp, h.plain⟩,
    by rw [State.irq_resets]; exact h.resets⟩
  · unfold State.irqAfter
    cases hs : s.inReset b with
    | false =>
      simp only [Bool.false_eq_true, if_false]
      exact State.irq_get_raw _ _ _ (by rw [hr, hs]) hp.1
    | true =>
      simp only [if_true]
      unfold State.irq
      rw [if_pos (by rw [hr, hs])]
      exact h.rest _ hp.1 hd
  · rw [State.irq_get_ne _ _ _ (h.plain p hm).1 (hd p hm).symm]
    exact h.vals p hm
  · have hn' := List.forall_mem_cons.mp hn
    rw [State.irq_get_ne _ _ _ hg hn'.1]
    exact h.rest g hg hn'.2

theorem After.count {s v : State} {w : List (Fld × Nat)} {b : Blk} {e k : Nat} (h : After s v w) :
    After s (v.count b e k) w :=
  ⟨fun p hm => by rw [State.count_get _ _ _ _ _ (h.plain p hm).1]; exact h.vals p hm,
   fun f hf hn => by rw [State.count_get _ _ _ _ _ hf]; exact h.rest f hf hn, h.plain,
   by rw [State.count_resets]; exact h.resets⟩

theorem After.event {s v : State} {w : List (Fld × Nat)} {b : Blk} {i c d : Nat} (h : After s v w) :
    After s (v.event b i c d) w := After.congr (v := v) rfl rfl h

theorem After.signal {s v : State} {w : List (Fld × Nat)} {b : Blk} {n : Nat} {new : Bool} (hb : b.inst < 32 ∧ n < 32)
    (hp : Plain (R.IRQ_RAW_RAW b n)) (hd : ∀ p ∈ w, p.1.key ≠ (R.IRQ_RAW_RAW b n).key) (h : After s v w) :
    After s (v.signal b n new) (s.irqAfter b n :: w) := (h.irq hb hp hd).event

theorem After.change {s v : State} {w : List (Fld × Nat)} {f : Fld} {new : Bool} {b : Blk} {n : Nat} (hw : f.w = 1)
    (hb : b.inst < 32 ∧ n < 32) (hf : Plain f) (hp : Plain (R.IRQ_RAW_RAW b n)) (hk : f.key ≠ (R.IRQ_RAW_RAW b n).key)
    (hd : ∀ p ∈ w, p.1.key ≠ f.key ∧ p.1.key ≠ (R.IRQ_RAW_RAW b n).key) (h : After s v w) :
    After s (v.change f new b n) (s.changeAfter f new b n ++ w) := by
  have hg : v.getB f = s.getB f := by
    unfold State.getB
    rw [h.rest f hf.1 fun p hm => (hd p hm).1]
  unfold State.change State.changeAfter
  rw [hg]
  split
  · exact h
  · have hx : b2n new < 2 ^ f.w := by rw [hw]; cases new <;> decide
    have h1 := (h.set hx hf fun p hm => (hd p hm).1).signal (new := new) hb hp
      (List.forall_mem_cons.mpr ⟨hk, fun p hm => (hd p hm).2⟩)
    exact h1

theorem forall_changeAfter {P : Fld × Nat → Prop} {s : State} {f : Fld} {new : Bool} {b : Blk} {n : Nat}
    {w : List (Fld × Nat)} (h1 : P (s.irqAfter b n)) (h2 : P (f, b2n new)) (h : ∀ p ∈ w, P p) :
    ∀ p ∈ s.changeAfter f new b n ++ w, P p := by
  unfold State.changeAfter
  split
  · exact h
  · exact List.forall_mem_cons.mpr ⟨h1, List.forall_mem_cons.mpr ⟨h2, h⟩⟩

theorem forall_mem_ite {P : Fld × Nat → Prop} {c : Prop} [Decidable c] {w x : List (Fld × Nat)} (hw : ∀ p ∈ w, P p)
    (hx : ∀ p ∈ x, P p) : ∀ p ∈ (if c then w else x), P p := by
  split
  · exact hw
  · exact hx

@[simp] theorem State.change_core (s : State) (f : Fld) (new : Bool) (b : Blk) (n : Nat) :
    (s.change f new b n).core = s.core := by
  unfold State.change State.signal State.setB
  split <;> simp

@[simp] theorem State.signal_core (s : State) (b : Blk) (n : Nat) (new : Bool) : (s.signal b n new).core = s.core := by
  unfold State.signal
  simp

/-- A command whose updates are known has their effect. -/
theorem After.effect {c : Instr} {s v u : State} {w : List (Fld × Nat)} (hx : exec c s = done v) (h : After s v w)
    (hc : v.core = u.core) : Effect c s w u :=
  ⟨settle v, hx, fun p hp => h.vals p hp, fun f hf hn => h.rest f hf hn, hc⟩

/-- The same where the updates hang on a condition. -/
theorem effectIf_of {c : Instr} {s v u : State} {w : List (Fld × Nat)} {g : Bool}
    (ht : g = true → exec c s = done v) (hf : ¬ g = true → exec c s = done s) (h : g = true → After s v w)
    (hc : v.core = u.core) : EffectIf g c s w u := by
  unfold EffectIf
  split
  next hg => exact (h hg).effect (ht hg) hc
  next hg => exact After.nil.effect (hf hg) rfl

end Sys2Proof.Machine
end

