-- ==== Sys2Proof/Laws/Keeps.lean ====
section
/-!
SUPPORT. What every operation of the model keeps: the queue of commands, and the canonical forms of the register file
and of the memory.
-/

namespace Sys2Proof.Machine

open Sys2Proof

/-! ### The register file's maps -/

theorem natSorted_tail {e : Nat × Nat} {m : NatMap} (h : natSorted (e :: m) = true) : natSorted m = true := by
  obtain ⟨a, v⟩ := e
  cases m with
  | nil => rfl
  | cons x m => obtain ⟨b, w⟩ := x; simp only [natSorted, Bool.and_eq_true] at h; exact h.2

/-- In a rising map every later key is above the first. -/
theorem natSorted_head {a v : Nat} {m : NatMap} (h : natSorted ((a, v) :: m) = true) : ∀ e ∈ m, a < e.1 := by
  induction m generalizing a v with
  | nil => simp
  | cons x m ih =>
    obtain ⟨b, w⟩ := x
    simp only [natSorted, Bool.and_eq_true, decide_eq_true_eq] at h
    intro e he
    rcases List.mem_cons.mp he with rfl | he
    · exact h.1
    · exact Nat.lt_trans h.1 (ih h.2 e he)

theorem natSorted_cons {a v : Nat} {m : NatMap} (h : natSorted m = true) (ha : ∀ e ∈ m, a < e.1) :
    natSorted ((a, v) :: m) = true := by
  cases m with
  | nil => rfl
  | cons x m =>
    obtain ⟨b, w⟩ := x
    simp only [natSorted, Bool.and_eq_true, decide_eq_true_eq]
    exact ⟨ha (b, w) (by simp), h⟩

/-- A part of a rising map rises. -/
theorem natSorted_filter (p : Nat × Nat → Bool) {m : NatMap} (h : natSorted m = true) :
    natSorted (m.filter p) = true := by
  induction m with
  | nil => rfl
  | cons x m ih =>
    obtain ⟨a, v⟩ := x
    have t := ih (natSorted_tail h)
    rw [List.filter_cons]
    split
    · exact natSorted_cons t fun e he => natSorted_head h e ((List.mem_filter.mp he).1)
    · exact t

theorem natPut_mem {m : NatMap} {k v : Nat} {e : Nat × Nat} (h : e ∈ natPut m k v) : e.1 = k ∨ e ∈ m := by
  induction m with
  | nil => simp [natPut] at h; exact .inl (by rw [h])
  | cons x m ih =>
    obtain ⟨a, b⟩ := x
    simp only [natPut] at h
    split at h
    · rcases List.mem_cons.mp h with rfl | h
      · exact .inl rfl
      · exact .inr h
    · split at h
      · rcases List.mem_cons.mp h with rfl | h
        · exact .inl rfl
        · exact .inr (by simp [h])
      · rcases List.mem_cons.mp h with rfl | h
        · exact .inr (by simp)
        · rcases ih h with h | h
          · exact .inl h
          · exact .inr (by simp [h])

theorem natPut_sorted {m : NatMap} {k v : Nat} (h : natSorted m = true) : natSorted (natPut m k v) = true := by
  induction m with
  | nil => rfl
  | cons x m ih =>
    obtain ⟨a, b⟩ := x
    simp only [natPut]
    split
    · rename_i hk
      exact natSorted_cons h fun e he => by
        rcases List.mem_cons.mp he with rfl | he
        · exact hk
        · exact Nat.lt_trans hk (natSorted_head h e he)
    · split
      · rename_i hk; subst hk
        exact natSorted_cons (natSorted_tail h) (natSorted_head h)
      · refine natSorted_cons (ih (natSorted_tail h)) fun e he => ?_
        rcases natPut_mem he with hk | he
        · omega
        · exact natSorted_head h e he

theorem natSet_sorted {m : NatMap} {k v d : Nat} (h : natSorted m = true) : natSorted (natSet m k v d) = true := by
  unfold natSet natDel
  split
  · exact natSorted_filter _ h
  · exact natPut_sorted h

/-! ### The memory's list -/

theorem cellSorted_tail {e : Host.Cell} {m : List Host.Cell} (h : cellSorted (e :: m) = true) : cellSorted m = true := by
  obtain ⟨a, v⟩ := e
  cases m with
  | nil => rfl
  | cons x m => obtain ⟨b, w⟩ := x; simp only [cellSorted, Bool.and_eq_true] at h; exact h.2

/-- In a rising list every later address is above the first. -/
theorem cellSorted_head {a : Nat} {v : BitVec 8} {m : List Host.Cell} (h : cellSorted ((a, v) :: m) = true) :
    ∀ e ∈ m, a < e.1 := by
  induction m generalizing a v with
  | nil => simp
  | cons x m ih =>
    obtain ⟨b, w⟩ := x
    simp only [cellSorted, Bool.and_eq_true, decide_eq_true_eq] at h
    intro e he
    rcases List.mem_cons.mp he with rfl | he
    · exact h.1
    · exact Nat.lt_trans h.1 (ih h.2 e he)

theorem cellSorted_cons {a : Nat} {v : BitVec 8} {m : List Host.Cell} (h : cellSorted m = true)
    (ha : ∀ e ∈ m, a < e.1) : cellSorted ((a, v) :: m) = true := by
  cases m with
  | nil => rfl
  | cons x m =>
    obtain ⟨b, w⟩ := x
    simp only [cellSorted, Bool.and_eq_true, decide_eq_true_eq]
    exact ⟨ha (b, w) (by simp), h⟩

/-- A part of a rising list rises. -/
theorem cellSorted_filter (p : Host.Cell → Bool) {m : List Host.Cell} (h : cellSorted m = true) :
    cellSorted (m.filter p) = true := by
  induction m with
  | nil => rfl
  | cons x m ih =>
    obtain ⟨a, v⟩ := x
    have t := ih (cellSorted_tail h)
    rw [List.filter_cons]
    split
    · exact cellSorted_cons t fun e he => cellSorted_head h e ((List.mem_filter.mp he).1)
    · exact t

theorem cellPut_mem {m : List Host.Cell} {k : Nat} {v : BitVec 8} {e : Host.Cell} (h : e ∈ cellPut m k v) :
    e = (k, v) ∨ e ∈ m := by
  induction m with
  | nil => simp [cellPut] at h; exact .inl h
  | cons x m ih =>
    obtain ⟨a, b⟩ := x
    simp only [cellPut] at h
    split at h
    · rcases List.mem_cons.mp h with h | h
      · exact .inl h
      · exact .inr h
    · split at h
      · rcases List.mem_cons.mp h with h | h
        · exact .inl h
        · exact .inr (by simp [h])
      · rcases List.mem_cons.mp h with h | h
        · exact .inr (by simp [h])
        · rcases ih h with h | h
          · exact .inl h
          · exact .inr (by simp [h])

theorem cellPut_sorted {m : List Host.Cell} {k : Nat} {v : BitVec 8} (h : cellSorted m = true) :
    cellSorted (cellPut m k v) = true := by
  induction m with
  | nil => rfl
  | cons x m ih =>
    obtain ⟨a, b⟩ := x
    simp only [cellPut]
    split
    · rename_i hk
      exact cellSorted_cons h fun e he => by
        rcases List.mem_cons.mp he with rfl | he
        · exact hk
        · exact Nat.lt_trans hk (cellSorted_head h e he)
    · split
      · rename_i hk; subst hk
        exact cellSorted_cons (cellSorted_tail h) (cellSorted_head h)
      · refine cellSorted_cons (ih (cellSorted_tail h)) fun e he => ?_
        rcases cellPut_mem he with rfl | he
        · simp only []; omega
        · exact cellSorted_head h e he

theorem cellSorted_append {m n : List Host.Cell} (hm : cellSorted m = true) (hn : cellSorted n = true)
    (h : ∀ e ∈ m, ∀ f ∈ n, e.1 < f.1) : cellSorted (m ++ n) = true := by
  induction m with
  | nil => exact hn
  | cons x m ih =>
    obtain ⟨a, v⟩ := x
    refine cellSorted_cons (ih (cellSorted_tail hm) fun e he f hf => h e (by simp [he]) f hf) fun e he => ?_
    rcases List.mem_append.mp he with he | he
    · exact cellSorted_head hm e he
    · exact h (a, v) (by simp) e he

theorem cellsOf_mem {d : Nat → Option Nat} {a : Nat} {bs : List Nat} {e : Host.Cell} (h : e ∈ cellsOf d a bs) :
    a ≤ e.1 ∧ e.1 < a + bs.length ∧ d e.1 ≠ some e.2.toNat := by
  induction bs generalizing a with
  | nil => simp [cellsOf] at h
  | cons b bs ih =>
    simp only [cellsOf] at h
    split at h
    · obtain ⟨h1, h2, h3⟩ := ih h
      exact ⟨by omega, by simp only [List.length_cons]; omega, h3⟩
    · rename_i hb
      rcases List.mem_cons.mp h with rfl | h
      · refine ⟨by simp, by simp, ?_⟩
        simpa using hb
      · obtain ⟨h1, h2, h3⟩ := ih h
        exact ⟨by omega, by simp only [List.length_cons]; omega, h3⟩

theorem cellsOf_sorted {d : Nat → Option Nat} {a : Nat} {bs : List Nat} : cellSorted (cellsOf d a bs) = true := by
  induction bs generalizing a with
  | nil => rfl
  | cons b bs ih =>
    simp only [cellsOf]
    split
    · exact ih
    · exact cellSorted_cons ih fun e he => (cellsOf_mem he).1

/-! ### The memory's canonical form -/

theorem wf_iff {s : State} : Memory.wf s = true ↔
    cellSorted s.mem = true ∧ ∀ e ∈ s.mem, memDefault s e.1 ≠ some e.2.toNat := by
  simp [Memory.wf, List.all_eq_true]

theorem patchAt_congr {s t : State} (hc : ∀ c, (t.cap c).patches = (s.cap c).patches) (a : Nat) :
    t.patchAt a = s.patchAt a := by
  unfold State.patchAt; rw [hc]

/-- What an unlisted address holds rests on the capture stretches and on the lifecycle state alone. -/
theorem memDefault_congr {s t : State} (hc : ∀ c, (t.cap c).patches = (s.cap c).patches)
    (hl : (t.fuses.life = 4) = (s.fuses.life = 4)) (a : Nat) : memDefault t a = memDefault s a := by
  have h : decide (t.fuses.life = 4) = decide (s.fuses.life = 4) := by simp only [hl]
  unfold memDefault
  rw [patchAt_congr hc a, h]

theorem wf_congr {s t : State} (hm : t.mem = s.mem) (hc : ∀ c, (t.cap c).patches = (s.cap c).patches)
    (hl : (t.fuses.life = 4) = (s.fuses.life = 4)) (h : Memory.wf s = true) : Memory.wf t = true := by
  rw [wf_iff] at h ⊢
  rw [hm]
  exact ⟨h.1, fun e he => by rw [memDefault_congr hc hl]; exact h.2 e he⟩

/-- A part of the list keeps the form where no address that stays listed reads otherwise than before. -/
theorem wf_filter {s t : State} (p : Host.Cell → Bool) (hm : t.mem = s.mem.filter p)
    (hd : ∀ e ∈ s.mem, p e = true → memDefault t e.1 = memDefault s e.1 ∨ memDefault t e.1 = none)
    (h : Memory.wf s = true) : Memory.wf t = true := by
  rw [wf_iff] at h ⊢
  rw [hm]
  refine ⟨cellSorted_filter _ h.1, fun e he => ?_⟩
  obtain ⟨he, hp⟩ := List.mem_filter.mp he
  rcases hd e he hp with hd | hd
  · rw [hd]; exact h.2 e he
  · rw [hd]; simp

theorem putByte_default (s : State) (a v x : Nat) : memDefault (s.putByte a v) x = memDefault s x :=
  memDefault_congr (s := s) (t := s.putByte a v) (fun _ => rfl) rfl x

theorem putByte_mem (s : State) (a v : Nat) : (s.putByte a v).mem =
    if memDefault s a = some (v % 256) then cellDel s.mem a else cellPut s.mem a (BitVec.ofNat 8 v) := rfl

theorem putByte_wf {s : State} (a v : Nat) (h : Memory.wf s = true) : Memory.wf (s.putByte a v) = true := by
  rw [wf_iff] at h ⊢
  rw [putByte_mem]
  generalize hd : memDefault (s.putByte a v) = d
  have hd' : ∀ x, d x = memDefault s x := fun x => by rw [← hd]; exact putByte_default s a v x
  by_cases hv : memDefault s a = some (v % 256)
  · rw [if_pos hv]
    exact ⟨cellSorted_filter _ h.1, fun e he => by rw [hd']; exact h.2 e (List.mem_filter.mp he).1⟩
  · rw [if_neg hv]
    refine ⟨cellPut_sorted h.1, fun e he => ?_⟩
    rw [hd']
    rcases cellPut_mem he with rfl | he
    · simpa using hv
    · exact h.2 e he

theorem putBytes_default (s : State) (a : Nat) (bs : List Nat) (x : Nat) :
    memDefault (s.putBytes a bs) x = memDefault s x :=
  memDefault_congr (s := s) (t := s.putBytes a bs) (fun _ => rfl) rfl x

theorem putBytes_mem (s : State) (a : Nat) (bs : List Nat) : (s.putBytes a bs).mem =
    s.mem.filter (fun e => decide (e.1 < a)) ++ cellsOf (memDefault s) a bs
      ++ s.mem.filter (fun e => decide (a + bs.length ≤ e.1)) := rfl

theorem putBytes_wf {s : State} (a : Nat) (bs : List Nat) (h : Memory.wf s = true) :
    Memory.wf (s.putBytes a bs) = true := by
  rw [wf_iff] at h ⊢
  rw [putBytes_mem]
  generalize hd : memDefault (s.putBytes a bs) = d
  have hd' : ∀ x, d x = memDefault s x := fun x => by rw [← hd]; exact putBytes_default s a bs x
  constructor
  · refine cellSorted_append (cellSorted_append (cellSorted_filter _ h.1) cellsOf_sorted ?_) (cellSorted_filter _ h.1) ?_
    · intro e he f hf
      have h1 := (List.mem_filter.mp he).2
      have h2 := (cellsOf_mem hf).1
      simp only [decide_eq_true_eq] at h1
      omega
    · intro e he f hf
      have h2 := (List.mem_filter.mp hf).2
      simp only [decide_eq_true_eq] at h2
      rcases List.mem_append.mp he with he | he
      · have h1 := (List.mem_filter.mp he).2
        simp only [decide_eq_true_eq] at h1
        omega
      · have h1 := (cellsOf_mem he).2.1
        omega
  · intro e he
    rw [hd']
    rcases List.mem_append.mp he with he | he
    · rcases List.mem_append.mp he with he | he
      · exact h.2 e (List.mem_filter.mp he).1
      · exact (cellsOf_mem he).2.2
    · exact h.2 e (List.mem_filter.mp he).1

theorem clearBytes_default (s : State) (a n x : Nat) : memDefault (s.clearBytes a n) x = memDefault s x :=
  memDefault_congr (s := s) (t := s.clearBytes a n) (fun _ => rfl) rfl x

theorem clearBytes_wf {s : State} (a n : Nat) (h : Memory.wf s = true) : Memory.wf (s.clearBytes a n) = true :=
  wf_filter (s := s) (t := s.clearBytes a n) (fun e => !(a ≤ e.1 && e.1 < a + n)) rfl
    (fun e _ _ => .inl (clearBytes_default s a n e.1)) h

/-! ### Keeps -/

/-- What an operation keeps: the queue as it is, and each canonical form that held before. -/
structure Keeps (s t : State) : Prop where
  queue : t.pending = s.pending
  regs : s.regsOk = true → t.regsOk = true
  mem : Memory.wf s = true → Memory.wf t = true

theorem Keeps.rfl' {s : State} : Keeps s s := ⟨rfl, id, id⟩

theorem keeps_ite {z a b : State} {c : Prop} [Decidable c] (ha : Keeps z a) (hb : Keeps z b) :
    Keeps z (if c then a else b) := by
  split
  · exact ha
  · exact hb

theorem keeps_foldl {α : Type} {z s : State} {g : State → α → State} (l : List α) (h : Keeps z s)
    (hg : ∀ t x, Keeps z t → Keeps z (g t x)) : Keeps z (l.foldl g s) := by
  induction l generalizing s with
  | nil => exact h
  | cons x l ih => exact ih (hg s x h)

/-- A change of any field but the queue, the register file, the memory, the capture stretches and the fuses. -/
theorem keeps_congr {z s t : State} (h : Keeps z s) (hq : t.pending = s.pending) (hr : t.regs = s.regs)
    (hm : t.mem = s.mem) (hc : t.caps = s.caps) (hf : (t.fuses.life = 4) = (s.fuses.life = 4)) : Keeps z t := by
  refine ⟨hq.trans h.queue, fun x => ?_, fun x => ?_⟩
  · have := h.regs x
    unfold State.regsOk at this ⊢
    rw [hr]; exact this
  · exact wf_congr hm (fun c => by unfold State.cap; rw [hc]) hf (h.mem x)

theorem keeps_fst {β : Type} {z t : State} {x : β} {p : State × β} (he : p = (t, x)) (h : Keeps z p.1) : Keeps z t := by
  rw [he] at h
  exact h

theorem keeps_foldl_fst {α β : Type} {z : State} {p : State × β} {g : State × β → α → State × β} (l : List α)
    (h : Keeps z p.1) (hg : ∀ q x, Keeps z q.1 → Keeps z (g q x).1) : Keeps z (l.foldl g p).1 := by
  induction l generalizing p with
  | nil => exact h
  | cons x l ih => exact ih (hg p x h)

/-- A change of any field but the register file, the memory, the capture stretches, the fuses and the queue. -/
theorem keeps_mk {z e : State} {shadow : NatMap} {staged : NatMap} {time : Nat} {freeCount : Nat} {spi : Port} {i3c
    : Port} {target : I3cTarget} {woken : List WokenDomain} {raised : List StubEvent} {evQueue : List StubEvent}
    {evDropped : Nat} {evLost : Nat} {resets : ResetSources} {txs : Vector TxLane 8} {rxs : Vector RxLane 8}
    {powers : Vector LanePower 8} {hosts : Vector HostLaneInt 16} {cals : Vector CalLane 8} {calDev : CalDev} {msg
    : MsgInt} {links : Vector MsgLink 8} {sessions : Vector PeerSession 8} {pwr : PowerInt} {stamps : Vector Stamps
    8} {tim : TimInt} {chains : Vector FilterChain 8} {dacs : Vector DacChannel 48} {store : MemInt} {gpioPulse :
    Nat} {elapsed : Nat} {stub : StubInt} {thm : ThmInt} {sec : SecInt} {mbx : MbxInt} {boot : BootInt}:
    Keeps z (State.mk e.regs shadow staged e.mem time freeCount spi i3c target woken raised
    evQueue evDropped evLost resets txs rxs powers hosts e.caps cals calDev msg links sessions pwr stamps tim
    chains dacs store gpioPulse elapsed stub thm e.fuses sec mbx boot e.pending) ↔ Keeps z e :=
  ⟨fun h => keeps_congr h rfl rfl rfl rfl rfl, fun h => keeps_congr h rfl rfl rfl rfl rfl⟩

/-- The same with a change of the fuses but for the lifecycle state. -/
theorem keeps_mk_fuses {z e : State} {shadow : NatMap} {staged : NatMap} {time : Nat} {freeCount : Nat} {spi : Port} {i3c
    : Port} {target : I3cTarget} {woken : List WokenDomain} {raised : List StubEvent} {evQueue : List StubEvent}
    {evDropped : Nat} {evLost : Nat} {resets : ResetSources} {txs : Vector TxLane 8} {rxs : Vector RxLane 8}
    {powers : Vector LanePower 8} {hosts : Vector HostLaneInt 16} {cals : Vector CalLane 8} {calDev : CalDev} {msg
    : MsgInt} {links : Vector MsgLink 8} {sessions : Vector PeerSession 8} {pwr : PowerInt} {stamps : Vector Stamps
    8} {tim : TimInt} {chains : Vector FilterChain 8} {dacs : Vector DacChannel 48} {store : MemInt} {gpioPulse :
    Nat} {elapsed : Nat} {stub : StubInt} {thm : ThmInt} {sec : SecInt} {mbx : MbxInt} {boot : BootInt} {f1 : List Nat} {f2 : Nat} {f3 f4 : Bool} {f5 f6 : Nat} {f7 : List Nat} {f8 : Bool} :
    Keeps z (State.mk e.regs shadow staged e.mem time freeCount spi i3c target woken raised
    evQueue evDropped evLost resets txs rxs powers hosts e.caps cals calDev msg links sessions pwr stamps tim
    chains dacs store gpioPulse elapsed stub thm ⟨e.fuses.life, f1, f2, f3, f4, f5, f6, f7, f8⟩ sec mbx boot e.pending) ↔ Keeps z e :=
  ⟨fun h => keeps_congr h rfl rfl rfl rfl rfl, fun h => keeps_congr h rfl rfl rfl rfl rfl⟩

/-- A change of the fuses that neither enters nor leaves DECOMMISSIONED. -/
theorem keeps_fuses {z s : State} (f : Fuses) (hl : (f.life = 4) = (s.fuses.life = 4)) (h : Keeps z s) :
    Keeps z { s with fuses := f } :=
  keeps_congr h rfl rfl rfl rfl hl

theorem State.set_keeps {z s : State} (f : Fld) (v : Nat) (h : Keeps z s) : Keeps z (s.set f v) :=
  ⟨h.queue, fun x => natSet_sorted (h.regs x),
   fun x => wf_congr (s := s) (t := s.set f v) rfl (fun _ => rfl) rfl (h.mem x)⟩

theorem State.setB_keeps {z s : State} (f : Fld) (b : Bool) (h : Keeps z s) : Keeps z (s.setB f b) :=
  State.set_keeps f _ h

theorem State.setI_keeps {z s : State} (f : Fld) (v : Int) (h : Keeps z s) : Keeps z (s.setI f v) :=
  State.set_keeps f _ h

theorem State.satInc_keeps {z s : State} (f : Fld) (k : Nat) (h : Keeps z s) : Keeps z (s.satInc f k) :=
  State.set_keeps f _ h

theorem State.wrapInc_keeps {z s : State} (f : Fld) (k : Nat) (h : Keeps z s) : Keeps z (s.wrapInc f k) :=
  State.set_keeps f _ h

theorem State.putByte_keeps {z s : State} (a v : Nat) (h : Keeps z s) : Keeps z (s.putByte a v) :=
  ⟨h.queue, h.regs, fun x => putByte_wf a v (h.mem x)⟩

theorem State.putBytes_keeps {z s : State} (a : Nat) (bs : List Nat) (h : Keeps z s) : Keeps z (s.putBytes a bs) :=
  ⟨h.queue, h.regs, fun x => putBytes_wf a bs (h.mem x)⟩

theorem State.clearBytes_keeps {z s : State} (a n : Nat) (h : Keeps z s) : Keeps z (s.clearBytes a n) :=
  ⟨h.queue, h.regs, fun x => clearBytes_wf a n (h.mem x)⟩

/-- A capture engine's other fields change. -/
theorem State.putCap_keeps {z s : State} (c : Nat) (x : CapInt) (hp : x.patches = (s.cap c).patches) (h : Keeps z s) :
    Keeps z (s.putCap c x) := by
  refine ⟨h.queue, h.regs, fun y => wf_congr (s := s) rfl (fun d => ?_) rfl (h.mem y)⟩
  by_cases hd : c = d
  · subst hd
    unfold State.putCap State.cap at *
    by_cases hl : c < 2
    · simp [hl]; simpa [hl] using hp
    · simp [hl]
  · unfold State.putCap State.cap
    simp [hd]

/-- The register file is cut down, and any field but the memory, the capture stretches, the fuses and the queue
changes. -/
theorem keeps_regs {z s t : State} (h : Keeps z s) (hr : natSorted s.regs = true → natSorted t.regs = true)
    (hq : t.pending = s.pending) (hm : t.mem = s.mem) (hc : t.caps = s.caps) (hf : t.fuses = s.fuses) : Keeps z t :=
  ⟨hq.trans h.queue, fun x => hr (h.regs x),
   fun x => wf_congr hm (fun c => by unfold State.cap; rw [hc]) (by rw [hf]) (h.mem x)⟩

/-- The listed bytes of a sheaf's capture memory go. -/
theorem clear_wf {s t : State} (c : Nat)
    (hm : t.mem = s.mem.filter fun e => !(capBase c ≤ e.1 && e.1 < capBase c + capSize)) (hc : t.caps = s.caps)
    (hf : t.fuses = s.fuses) (h : Memory.wf s = true) : Memory.wf t = true :=
  wf_filter (s := s) (t := t) _ hm
    (fun _ _ _ => .inl (memDefault_congr (fun c => by unfold State.cap; rw [hc]) (by rw [hf]) _)) h

/-- A capture engine forgets its stretches: what was not listed is unwritten. -/
theorem putCap_drop_wf {s : State} (c : Nat) (x : CapInt) (hx : x.patches = []) (h : Memory.wf s = true) :
    Memory.wf (s.putCap c x) = true := by
  refine wf_filter (s := s) (t := s.putCap c x) (fun _ => true) (List.filter_eq_self.mpr fun _ _ => rfl).symm
    (fun e he _ => ?_) h
  by_cases hi : inCapture e.1 = true
  · by_cases hc : c = capOf e.1
    · by_cases hl : c < 2
      · refine .inr ?_
        have hp : (s.putCap c x).patchAt e.1 = none := by
          unfold State.patchAt State.putCap State.cap
          subst hc
          simp [hl, hx]
        unfold memDefault
        rw [if_pos hi, hp]
      · refine .inl ?_
        have hp : (s.putCap c x).patchAt e.1 = s.patchAt e.1 := by
          unfold State.patchAt State.putCap State.cap
          subst hc
          simp [hl]
        unfold memDefault
        rw [hp]; rfl
    · refine .inl ?_
      have hp : (s.putCap c x).patchAt e.1 = s.patchAt e.1 := by
        unfold State.patchAt State.putCap State.cap
        simp [hc]
      unfold memDefault
      rw [hp]; rfl
  · refine .inl ?_
    unfold memDefault
    rw [if_neg hi, if_neg hi]; rfl

/-- A capture engine takes new stretches while every byte listed in its memory goes. -/
theorem putCap_wf {s : State} (c : Nat) (x : CapInt) (h : Memory.wf s = true)
    (hm : ∀ e ∈ s.mem, inCapture e.1 = true → capOf e.1 ≠ c) : Memory.wf (s.putCap c x) = true := by
  refine wf_filter (s := s) (t := s.putCap c x) (fun _ => true) (List.filter_eq_self.mpr fun _ _ => rfl).symm (fun e he _ => ?_) h
  by_cases hi : inCapture e.1 = true
  · refine .inl ?_
    have hp : (s.putCap c x).patchAt e.1 = s.patchAt e.1 := by
      have hc : c ≠ capOf e.1 := fun hc => hm e he hi hc.symm
      unfold State.patchAt State.putCap State.cap
      simp [hc]
    unfold memDefault
    rw [hp]; rfl
  · refine .inl ?_
    unfold memDefault
    rw [if_neg hi, if_neg hi]; rfl

end Sys2Proof.Machine
end

