-- ==== Sys2Proof/Laws/KeepsOps.lean ====
section
/-!
SUPPORT. The operations of Machine/Ops.lean keep the queue and the canonical forms.
-/

namespace Sys2Proof.Machine

open Sys2Proof

theorem State.draw_keeps {z s : State} (hk : Keeps z s) : Keeps z (State.draw s) := by
  unfold State.draw
  repeat' with_reducible (first
    | (intro _) | assumption | apply keeps_ite | apply keeps_foldl | apply keeps_foldl_fst | simp only [↓keeps_mk]
    | rfl | split | exact Keeps.rfl')

theorem snapAsk_keeps (command : Bool) {z s : State} (hk : Keeps z s) : Keeps z (snapAsk s command).1 := by
  unfold snapAsk
  repeat' with_reducible (first
    | (intro _) | assumption | apply keeps_ite | apply keeps_foldl | apply keeps_foldl_fst | apply State.setB_keeps
    | apply State.satInc_keeps | apply State.set_keeps | dsimp only | rfl | split | exact Keeps.rfl')

theorem carryPut_keeps (b : Blk) (c sum : Nat) {z s : State} (hk : Keeps z s) : Keeps z (carryPut s b c sum) := by
  unfold carryPut
  repeat' with_reducible (first
    | (intro _) | assumption | apply keeps_ite | apply keeps_foldl | apply keeps_foldl_fst | apply State.set_keeps
    | apply State.setB_keeps | dsimp only | rfl | split | exact Keeps.rfl')

theorem counterCarry_keeps (b : Blk) (c sum : Nat) {z s : State} (hk : Keeps z s) :
    Keeps z (counterCarry s b c sum).1 := by
  unfold counterCarry
  dsimp only
  split
  · exact snapAsk_keeps false (carryPut_keeps b c sum hk)
  · exact carryPut_keeps b c sum hk

theorem counterAdd_keeps (b : Blk) (c k : Nat) {z s : State} (hk : Keeps z s) : Keeps z (counterAdd s b c k).1 := by
  unfold counterAdd
  repeat' with_reducible (first
    | (intro _) | assumption | apply keeps_ite | apply keeps_foldl | apply keeps_foldl_fst | apply counterCarry_keeps
    | apply State.set_keeps | dsimp only | rfl | split | exact Keeps.rfl')

theorem countIn_keeps (b : Blk) (event k : Nat) {z : State} (c : Nat) {p : State × List Nat} (hk : Keeps z p.1) :
    Keeps z (countIn b event k p c).1 := by
  unfold countIn
  split
  · exact counterAdd_keeps b c k hk
  · exact hk

theorem countOnce_keeps (b : Blk) (event k : Nat) {z s : State} (hk : Keeps z s) :
    Keeps z (countOnce s b event k).1 := by
  unfold countOnce
  suffices ∀ (l : List Nat) (p : State × List Nat), Keeps z p.1 → Keeps z (l.foldl (countIn b event k) p).1 from
    this _ _ hk
  intro l
  induction l with
  | nil => exact fun p h => h
  | cons c l ih => exact fun p h => ih _ (countIn_keeps b event k c h)

theorem countTo_keeps (n : Nat) (b : Blk) (event k : Nat) {z s : State} (hk : Keeps z s) :
    Keeps z (countTo n s b event k) := by
  induction n generalizing s b event k with
  | zero => exact countOnce_keeps b event k hk
  | succ n ih =>
    unfold countTo
    dsimp only
    refine keeps_foldl _ (countOnce_keeps b event k hk) fun t x h => ?_
    split
    · exact h
    · exact ih _ _ _ (State.setB_keeps _ _ h)

theorem State.count_keeps (b : Blk) (event k : Nat) {z s : State} (hk : Keeps z s) :
    Keeps z (State.count s b event k) := countTo_keeps 16 b event k hk

theorem carryRaise_keeps {z : State} {r : State × List Nat} (hk : Keeps z r.1) : Keeps z (carryRaise r) := by
  unfold carryRaise
  refine keeps_foldl _ hk fun t x h => ?_
  split
  · exact h
  · exact State.count_keeps _ _ _ (State.setB_keeps _ _ h)

theorem clockCount_keeps (b : Blk) (c : Nat) {z s : State} (hk : Keeps z s) : Keeps z (clockCount b c s) := by
  unfold clockCount
  repeat' with_reducible (first
    | (intro _) | assumption | apply keeps_ite | apply keeps_foldl | apply keeps_foldl_fst | apply State.set_keeps
    | apply State.draw_keeps | dsimp only | rfl | split | exact Keeps.rfl')

theorem clockCounts_keeps (p : Blk → Bool) {z s : State} (hk : Keeps z s) : Keeps z (clockCounts p s) := by
  unfold clockCounts
  repeat' with_reducible (first
    | (intro _) | assumption | apply keeps_ite | apply keeps_foldl | apply keeps_foldl_fst | apply clockCount_keeps
    | dsimp only | rfl | split | exact Keeps.rfl')

theorem State.event_keeps (b : Blk) (inst code data : Nat) {z s : State} (hk : Keeps z s) : Keeps z (State.event s
    b inst code data) := by
  unfold State.event
  repeat' with_reducible (first
    | (intro _) | assumption | apply keeps_ite | apply keeps_foldl | apply keeps_foldl_fst | simp only [↓keeps_mk]
    | rfl | split | exact Keeps.rfl')

theorem State.irq_keeps (b : Blk) (n : Nat) {z s : State} (hk : Keeps z s) : Keeps z (State.irq s b n) := by
  unfold State.irq
  repeat' with_reducible (first
    | (intro _) | assumption | apply keeps_ite | apply keeps_foldl | apply keeps_foldl_fst | apply State.setB_keeps
    | apply State.count_keeps | dsimp only | rfl | split | exact Keeps.rfl')

theorem snapRequest_keeps (command : Bool) {z s : State} (hk : Keeps z s) : Keeps z (snapRequest s command) := by
  unfold snapRequest
  repeat' with_reducible (first
    | (intro _) | assumption | apply keeps_ite | apply keeps_foldl | apply keeps_foldl_fst | apply snapAsk_keeps
    | apply State.irq_keeps | dsimp only | rfl | split | exact Keeps.rfl')

theorem State.signal_keeps (b : Blk) (n : Nat) (new : Bool) {z s : State} (hk : Keeps z s) : Keeps z (State.signal
    s b n new) := by
  unfold State.signal
  repeat' with_reducible (first
    | (intro _) | assumption | apply keeps_ite | apply keeps_foldl | apply keeps_foldl_fst | apply State.irq_keeps
    | apply State.event_keeps | dsimp only | rfl | split | exact Keeps.rfl')

theorem State.conflict_keeps (b : Blk) {z s : State} (hk : Keeps z s) : Keeps z (State.conflict s b) := by
  unfold State.conflict
  repeat' with_reducible (first
    | (intro _) | assumption | apply keeps_ite | apply keeps_foldl | apply keeps_foldl_fst | apply State.setB_keeps
    | dsimp only | rfl | split | exact Keeps.rfl')

theorem State.claimRefused_keeps (b : Blk) (off : Nat) (req : Requester) {z s : State} (hk : Keeps z s) : Keeps z
    (State.claimRefused s b off req) := by
  unfold State.claimRefused
  repeat' with_reducible (first
    | (intro _) | assumption | apply keeps_ite | apply keeps_foldl | apply keeps_foldl_fst
    | apply State.conflict_keeps | apply State.event_keeps | dsimp only | rfl | split | exact Keeps.rfl')

theorem State.change_keeps (f : Fld) (new : Bool) (b : Blk) (n : Nat) {z s : State} (hk : Keeps z s) : Keeps z
    (State.change s f new b n) := by
  unfold State.change
  repeat' with_reducible (first
    | (intro _) | assumption | apply keeps_ite | apply keeps_foldl | apply keeps_foldl_fst | apply State.setB_keeps
    | apply State.signal_keeps | dsimp only | rfl | split | exact Keeps.rfl')

theorem settle_keeps {z s : State} (hk : Keeps z s) : Keeps z (settle s) := by
  unfold settle
  repeat' with_reducible (first
    | (intro _) | assumption | apply keeps_ite | apply keeps_foldl | apply keeps_foldl_fst | simp only [↓keeps_mk]
    | rfl | split | exact Keeps.rfl')

end Sys2Proof.Machine
end

