-- ==== Sys2Proof/Laws/KeepsLevel.lean ====
section
/-!
SUPPORT. The operations of Machine/Level.lean keep the queue and the canonical forms.
-/

namespace Sys2Proof.Machine

open Sys2Proof

theorem avsSend_keeps (t : Nat) {z s : State} (hk : Keeps z s) : Keeps z (avsSend t s) := by
  unfold avsSend
  repeat' with_reducible (first
    | (intro _) | assumption | apply keeps_ite | apply keeps_foldl | apply keeps_foldl_fst | simp only [↓keeps_mk]
    | rfl | split | exact Keeps.rfl')

theorem levelSteps_keeps (t : Nat) {z s : State} (hk : Keeps z s) : Keeps z (levelSteps t s) := by
  unfold levelSteps
  repeat' with_reducible (first
    | (intro _) | assumption | apply keeps_ite | apply keeps_foldl | apply keeps_foldl_fst | simp only [↓keeps_mk]
    | rfl | split | exact Keeps.rfl')

theorem levelMove_keeps (t : Nat) {z s : State} (hk : Keeps z s) : Keeps z (levelMove t s) := by
  unfold levelMove
  repeat' with_reducible (first
    | (intro _) | assumption | apply keeps_ite | apply keeps_foldl | apply keeps_foldl_fst | apply State.setB_keeps
    | apply avsSend_keeps | apply levelSteps_keeps | apply State.set_keeps | dsimp only | rfl | split
    | exact Keeps.rfl')

theorem startLevel_keeps (t : Nat) {z s : State} (hk : Keeps z s) : Keeps z (startLevel t s) := by
  unfold startLevel
  repeat' with_reducible (first
    | (intro _) | assumption | apply keeps_ite | apply keeps_foldl | apply keeps_foldl_fst | apply levelMove_keeps
    | apply State.setB_keeps | apply State.set_keeps | simp only [↓keeps_mk] | rfl | split | exact Keeps.rfl')

theorem requestLevel_keeps (t : Nat) {z s : State} (hk : Keeps z s) : Keeps z (requestLevel t s) := by
  unfold requestLevel
  repeat' with_reducible (first
    | (intro _) | assumption | apply keeps_ite | apply keeps_foldl | apply keeps_foldl_fst | apply startLevel_keeps
    | simp only [↓keeps_mk] | rfl | split | exact Keeps.rfl')

theorem autoRaise_keeps {z s : State} (hk : Keeps z s) : Keeps z (autoRaise s) := by
  unfold autoRaise
  repeat' with_reducible (first
    | (intro _) | assumption | apply keeps_ite | apply keeps_foldl | apply keeps_foldl_fst | apply requestLevel_keeps
    | dsimp only | rfl | split | exact Keeps.rfl')

theorem startState_keeps (t : Nat) {z s : State} (hk : Keeps z s) : Keeps z (startState t s) := by
  unfold startState
  repeat' with_reducible (first
    | (intro _) | assumption | apply keeps_ite | apply keeps_foldl | apply keeps_foldl_fst | apply State.setB_keeps
    | apply levelMove_keeps | apply State.set_keeps | simp only [↓keeps_mk] | rfl | split | exact Keeps.rfl')

theorem powerEvent_keeps (old new oldLevel newLevel extra : Nat) {z s : State} (hk : Keeps z s) : Keeps z
    (powerEvent old new oldLevel newLevel extra s) := by
  unfold powerEvent
  repeat' with_reducible (first
    | (intro _) | assumption | apply keeps_ite | apply keeps_foldl | apply keeps_foldl_fst | apply State.event_keeps
    | dsimp only | rfl | split | exact Keeps.rfl')

theorem requestState_keeps (t : Nat) {z s : State} (hk : Keeps z s) : Keeps z (requestState t s) := by
  unfold requestState
  repeat' with_reducible (first
    | (intro _) | assumption | apply keeps_ite | apply keeps_foldl | apply keeps_foldl_fst | apply State.setB_keeps
    | apply startState_keeps | apply State.set_keeps | dsimp only | rfl | split | exact Keeps.rfl')

theorem wakeLatch_keeps (w : Nat) {z s : State} (hk : Keeps z s) : Keeps z (wakeLatch w s) := by
  unfold wakeLatch
  repeat' with_reducible (first
    | (intro _) | assumption | apply keeps_ite | apply keeps_foldl | apply keeps_foldl_fst | apply State.setB_keeps
    | dsimp only | rfl | split | exact Keeps.rfl')

theorem wakeActive_keeps (k : Nat) {z s : State} (hk : Keeps z s) : Keeps z (wakeActive k s) := by
  unfold wakeActive
  repeat' with_reducible (first
    | (intro _) | assumption | apply keeps_ite | apply keeps_foldl | apply keeps_foldl_fst | apply requestState_keeps
    | apply startState_keeps | apply wakeLatch_keeps | simp only [↓keeps_mk] | rfl | split | exact Keeps.rfl')

theorem wakeAlarm_keeps (k : Nat) {z s : State} (hk : Keeps z s) : Keeps z (wakeAlarm k s) := by
  unfold wakeAlarm
  repeat' with_reducible (first
    | (intro _) | assumption | apply keeps_ite | apply keeps_foldl | apply keeps_foldl_fst | apply wakeActive_keeps
    | dsimp only | rfl | split | exact Keeps.rfl')

end Sys2Proof.Machine
end

