-- ==== Sys2Proof/Laws/KeepsLane.lean ====
section
/-!
SUPPORT. The operations of Machine/Lane.lean keep the queue and the canonical forms.
-/

namespace Sys2Proof.Machine

open Sys2Proof

theorem State.putTx_keeps (l : Nat) (t : TxLane) {z s : State} (hk : Keeps z s) : Keeps z (State.putTx s l t) := by
  unfold State.putTx
  repeat' with_reducible (first
    | (intro _) | assumption | apply keeps_ite | apply keeps_foldl | apply keeps_foldl_fst | simp only [↓keeps_mk]
    | rfl | split | exact Keeps.rfl')

theorem State.putRx_keeps (l : Nat) (r : RxLane) {z s : State} (hk : Keeps z s) : Keeps z (State.putRx s l r) := by
  unfold State.putRx
  repeat' with_reducible (first
    | (intro _) | assumption | apply keeps_ite | apply keeps_foldl | apply keeps_foldl_fst | simp only [↓keeps_mk]
    | rfl | split | exact Keeps.rfl')

theorem State.putHost_keeps (h : Nat) (x : HostLaneInt) {z s : State} (hk : Keeps z s) : Keeps z (State.putHost s h
    x) := by
  unfold State.putHost
  repeat' with_reducible (first
    | (intro _) | assumption | apply keeps_ite | apply keeps_foldl | apply keeps_foldl_fst | simp only [↓keeps_mk]
    | rfl | split | exact Keeps.rfl')

theorem State.putCal_keeps (l : Nat) (x : CalLane) {z s : State} (hk : Keeps z s) : Keeps z (State.putCal s l x) := by
  unfold State.putCal
  repeat' with_reducible (first
    | (intro _) | assumption | apply keeps_ite | apply keeps_foldl | apply keeps_foldl_fst | simp only [↓keeps_mk]
    | rfl | split | exact Keeps.rfl')

theorem State.putSession_keeps (l : Nat) (x : PeerSession) {z s : State} (hk : Keeps z s) : Keeps z
    (State.putSession s l x) := by
  unfold State.putSession
  repeat' with_reducible (first
    | (intro _) | assumption | apply keeps_ite | apply keeps_foldl | apply keeps_foldl_fst | simp only [↓keeps_mk]
    | rfl | split | exact Keeps.rfl')

theorem State.putLink_keeps (l : Nat) (x : MsgLink) {z s : State} (hk : Keeps z s) : Keeps z (State.putLink s l x)
    := by
  unfold State.putLink
  repeat' with_reducible (first
    | (intro _) | assumption | apply keeps_ite | apply keeps_foldl | apply keeps_foldl_fst | simp only [↓keeps_mk]
    | rfl | split | exact Keeps.rfl')

theorem State.putStamp_keeps (l : Nat) (x : Stamps) {z s : State} (hk : Keeps z s) : Keeps z (State.putStamp s l x)
    := by
  unfold State.putStamp
  repeat' with_reducible (first
    | (intro _) | assumption | apply keeps_ite | apply keeps_foldl | apply keeps_foldl_fst | simp only [↓keeps_mk]
    | rfl | split | exact Keeps.rfl')

theorem State.putLp_keeps (l : Nat) (p : LanePower) {z s : State} (hk : Keeps z s) : Keeps z (State.putLp s l p) := by
  unfold State.putLp
  repeat' with_reducible (first
    | (intro _) | assumption | apply keeps_ite | apply keeps_foldl | apply keeps_foldl_fst | apply State.setB_keeps
    | simp only [↓keeps_mk] | rfl | split | exact Keeps.rfl')

theorem capCause_keeps (l cause : Nat) {z s : State} (hk : Keeps z s) : Keeps z (capCause l cause s) := by
  unfold capCause
  repeat' with_reducible (first
    | (intro _) | assumption | apply keeps_ite | apply keeps_foldl | apply keeps_foldl_fst | apply State.putCap_keeps
    | simp only [↓keeps_mk] | rfl | split | exact Keeps.rfl')

theorem calDiscardAdc_keeps (l : Nat) {z s : State} (hk : Keeps z s) : Keeps z (calDiscardAdc l s) := by
  unfold calDiscardAdc
  repeat' with_reducible (first
    | (intro _) | assumption | apply keeps_ite | apply keeps_foldl | apply keeps_foldl_fst | apply State.satInc_keeps
    | apply State.putCal_keeps | apply State.setB_keeps | simp only [↓keeps_mk] | rfl | split | exact Keeps.rfl')

theorem calDiscardDac_keeps (l : Nat) {z s : State} (hk : Keeps z s) : Keeps z (calDiscardDac l s) := by
  unfold calDiscardDac
  repeat' with_reducible (first
    | (intro _) | assumption | apply keeps_ite | apply keeps_foldl | apply keeps_foldl_fst | apply State.satInc_keeps
    | apply State.putCal_keeps | simp only [↓keeps_mk] | rfl | split | exact Keeps.rfl')

theorem calStopApplying_keeps (l : Nat) {z s : State} (hk : Keeps z s) : Keeps z (calStopApplying l s) := by
  unfold calStopApplying
  repeat' with_reducible (first
    | (intro _) | assumption | apply keeps_ite | apply keeps_foldl | apply keeps_foldl_fst | apply State.putCal_keeps
    | apply State.setB_keeps | simp only [↓keeps_mk] | rfl | split | exact Keeps.rfl')

theorem calLeave_keeps (l : Nat) {z s : State} (hk : Keeps z s) : Keeps z (calLeave l s) := by
  unfold calLeave
  repeat' with_reducible (first
    | (intro _) | assumption | apply keeps_ite | apply keeps_foldl | apply keeps_foldl_fst
    | apply calStopApplying_keeps | apply calDiscardDac_keeps | apply calDiscardAdc_keeps | apply State.putCal_keeps
    | simp only [↓keeps_mk] | rfl | split | exact Keeps.rfl')

theorem calEnter_keeps (l : Nat) {z s : State} (hk : Keeps z s) : Keeps z (calEnter l s) := by
  unfold calEnter
  repeat' with_reducible (first
    | (intro _) | assumption | apply keeps_ite | apply keeps_foldl | apply keeps_foldl_fst | apply State.putCal_keeps
    | simp only [↓keeps_mk] | rfl | split | exact Keeps.rfl')

theorem calRefresh_keeps (l : Nat) {z s : State} (hk : Keeps z s) : Keeps z (calRefresh l s) := by
  unfold calRefresh
  repeat' with_reducible (first
    | (intro _) | assumption | apply keeps_ite | apply keeps_foldl | apply keeps_foldl_fst | apply State.putCal_keeps
    | apply calStopApplying_keeps | apply calDiscardAdc_keeps | simp only [↓keeps_mk] | rfl | split | exact
    Keeps.rfl')

theorem calResume_keeps {z s : State} (hk : Keeps z s) : Keeps z (calResume s) := by
  unfold calResume
  repeat' with_reducible (first
    | (intro _) | assumption | apply keeps_ite | apply keeps_foldl | apply keeps_foldl_fst | apply calRefresh_keeps
    | dsimp only | rfl | split | exact Keeps.rfl')

theorem calRunBegin_keeps (l : Nat) {z s : State} (hk : Keeps z s) : Keeps z (calRunBegin l s) := by
  unfold calRunBegin
  repeat' with_reducible (first
    | (intro _) | assumption | apply keeps_ite | apply keeps_foldl | apply keeps_foldl_fst | apply State.putCal_keeps
    | apply State.setB_keeps | simp only [↓keeps_mk] | rfl | split | exact Keeps.rfl')

theorem calRunStop_keeps (l : Nat) {z s : State} (hk : Keeps z s) : Keeps z (calRunStop l s) := by
  unfold calRunStop
  repeat' with_reducible (first
    | (intro _) | assumption | apply keeps_ite | apply keeps_foldl | apply keeps_foldl_fst | apply State.putCal_keeps
    | apply State.setB_keeps | simp only [↓keeps_mk] | rfl | split | exact Keeps.rfl')

theorem calRxBoundary_keeps (l : Nat) {z s : State} (hk : Keeps z s) : Keeps z (calRxBoundary l s) := by
  unfold calRxBoundary
  repeat' with_reducible (first
    | (intro _) | assumption | apply keeps_ite | apply keeps_foldl | apply keeps_foldl_fst | apply calRunStop_keeps
    | apply State.putCal_keeps | apply calRunBegin_keeps | simp only [↓keeps_mk] | rfl | split | exact Keeps.rfl')

theorem calClearFg_keeps (l : Nat) {z s : State} (hk : Keeps z s) : Keeps z (calClearFg l s) := by
  unfold calClearFg
  repeat' with_reducible (first
    | (intro _) | assumption | apply keeps_ite | apply keeps_foldl | apply keeps_foldl_fst | apply State.setB_keeps
    | dsimp only | rfl | split | exact Keeps.rfl')

theorem sessionEnd_keeps (l : Nat) {z s : State} (hk : Keeps z s) : Keeps z (sessionEnd l s) := by
  unfold sessionEnd
  repeat' with_reducible (first
    | (intro _) | assumption | apply keeps_ite | apply keeps_foldl | apply keeps_foldl_fst
    | apply State.putSession_keeps | apply State.irq_keeps | apply State.set_keeps | apply State.event_keeps
    | dsimp only | rfl | split | exact Keeps.rfl')

theorem dropReassembly_keeps (l : Nat) {z s : State} (hk : Keeps z s) : Keeps z (dropReassembly l s) := by
  unfold dropReassembly
  repeat' with_reducible (first
    | (intro _) | assumption | apply keeps_ite | apply keeps_foldl | apply keeps_foldl_fst | apply State.satInc_keeps
    | apply State.putLink_keeps | simp only [↓keeps_mk] | rfl | split | exact Keeps.rfl')

theorem linkDown_keeps (l : Nat) {z s : State} (hk : Keeps z s) : Keeps z (linkDown l s) := by
  unfold linkDown
  repeat' with_reducible (first
    | (intro _) | assumption | apply keeps_ite | apply keeps_foldl | apply keeps_foldl_fst | apply State.putLink_keeps
    | apply State.setB_keeps | apply sessionEnd_keeps | apply dropReassembly_keeps | apply State.irq_keeps
    | simp only [↓keeps_mk] | rfl | split | exact Keeps.rfl')

theorem cfgRefresh_keeps {z s : State} (hk : Keeps z s) : Keeps z (cfgRefresh s) := by
  unfold cfgRefresh
  repeat' with_reducible (first
    | (intro _) | assumption | apply keeps_ite | apply keeps_foldl | apply keeps_foldl_fst | apply State.irq_keeps
    | apply State.setB_keeps | apply State.change_keeps | dsimp only | rfl | split | exact Keeps.rfl')

theorem cwDrop_keeps (l : Nat) {z s : State} (hk : Keeps z s) : Keeps z (cwDrop l s) := by
  unfold cwDrop
  repeat' with_reducible (first
    | (intro _) | assumption | apply keeps_ite | apply keeps_foldl | apply keeps_foldl_fst | apply State.change_keeps
    | dsimp only | rfl | split | exact Keeps.rfl')

theorem hostLeave_keeps (h : Nat) {z s : State} (hk : Keeps z s) : Keeps z (hostLeave h s) := by
  unfold hostLeave
  repeat' with_reducible (first
    | (intro _) | assumption | apply keeps_ite | apply keeps_foldl | apply keeps_foldl_fst | apply State.putHost_keeps
    | apply State.setB_keeps | simp only [↓keeps_mk] | rfl | split | exact Keeps.rfl')

theorem amLose_keeps (h : Nat) {z s : State} (hk : Keeps z s) : Keeps z (amLose h s) := by
  unfold amLose
  repeat' with_reducible (first
    | (intro _) | assumption | apply keeps_ite | apply keeps_foldl | apply keeps_foldl_fst | apply State.change_keeps
    | apply hostLeave_keeps | apply State.putHost_keeps | simp only [↓keeps_mk] | rfl | split | exact Keeps.rfl')

theorem trainStart_keeps (h : Nat) {z s : State} (hk : Keeps z s) : Keeps z (trainStart h s) := by
  unfold trainStart
  repeat' with_reducible (first
    | (intro _) | assumption | apply keeps_ite | apply keeps_foldl | apply keeps_foldl_fst | apply amLose_keeps
    | apply State.putHost_keeps | apply State.set_keeps | simp only [↓keeps_mk] | rfl | split | exact Keeps.rfl')

theorem hostClockSlew_keeps (l : Nat) {z s : State} (hk : Keeps z s) : Keeps z (hostClockSlew l s) := by
  unfold hostClockSlew
  repeat' with_reducible (first
    | (intro _) | assumption | apply keeps_ite | apply keeps_foldl | apply keeps_foldl_fst | apply State.putHost_keeps
    | simp only [↓keeps_mk] | rfl | split | exact Keeps.rfl')

theorem trackLose_keeps (l : Nat) {z s : State} (hk : Keeps z s) : Keeps z (trackLose l s) := by
  unfold trackLose
  repeat' with_reducible (first
    | (intro _) | assumption | apply keeps_ite | apply keeps_foldl | apply keeps_foldl_fst | apply hostLeave_keeps
    | apply State.setB_keeps | dsimp only | rfl | split | exact Keeps.rfl')

theorem timingRefresh_keeps (l : Nat) {z s : State} (hk : Keeps z s) : Keeps z (timingRefresh l s) := by
  unfold timingRefresh
  repeat' with_reducible (first
    | (intro _) | assumption | apply keeps_ite | apply keeps_foldl | apply keeps_foldl_fst | apply State.set_keeps
    | apply trackLose_keeps | dsimp only | rfl | split | exact Keeps.rfl')

theorem amForget_keeps (h : Nat) {z s : State} (hk : Keeps z s) : Keeps z (amForget h s) := by
  unfold amForget
  repeat' with_reducible (first
    | (intro _) | assumption | apply keeps_ite | apply keeps_foldl | apply keeps_foldl_fst | apply State.putHost_keeps
    | simp only [↓keeps_mk] | rfl | split | exact Keeps.rfl')

theorem windowClear_keeps (l : Nat) {z s : State} (hk : Keeps z s) : Keeps z (windowClear l s) := by
  unfold windowClear
  repeat' with_reducible (first
    | (intro _) | assumption | apply keeps_ite | apply keeps_foldl | apply keeps_foldl_fst | apply State.putRx_keeps
    | simp only [↓keeps_mk] | rfl | split | exact Keeps.rfl')

theorem passRefresh_keeps (l : Nat) {z s : State} (hk : Keeps z s) : Keeps z (passRefresh l s) := by
  unfold passRefresh
  repeat' with_reducible (first
    | (intro _) | assumption | apply keeps_ite | apply keeps_foldl | apply keeps_foldl_fst | apply windowClear_keeps
    | apply State.set_keeps | apply State.setB_keeps | dsimp only | rfl | split | exact Keeps.rfl')

theorem sdSf_keeps (l : Nat) (quiet : Bool) {z s : State} (hk : Keeps z s) : Keeps z (sdSf l quiet s) := by
  unfold sdSf
  repeat' with_reducible (first
    | (intro _) | assumption | apply keeps_ite | apply keeps_foldl | apply keeps_foldl_fst | apply State.setB_keeps
    | apply State.change_keeps | dsimp only | rfl | split | exact Keeps.rfl')

theorem gainPut_keeps (l : Nat) (f : Fld) (v : Nat) {z s : State} (hk : Keeps z s) : Keeps z (gainPut l f v s) := by
  unfold gainPut
  repeat' with_reducible (first
    | (intro _) | assumption | apply keeps_ite | apply keeps_foldl | apply keeps_foldl_fst | apply calDiscardAdc_keeps
    | apply State.set_keeps | dsimp only | rfl | split | exact Keeps.rfl')

theorem forceValues_keeps (l : Nat) {z s : State} (hk : Keeps z s) : Keeps z (forceValues l s) := by
  unfold forceValues
  repeat' with_reducible (first
    | (intro _) | assumption | apply keeps_ite | apply keeps_foldl | apply keeps_foldl_fst | apply State.set_keeps
    | apply State.putRx_keeps | apply gainPut_keeps | simp only [↓keeps_mk] | rfl | split | exact Keeps.rfl')

theorem freezeApply_keeps (l : Nat) {z s : State} (hk : Keeps z s) : Keeps z (freezeApply l s) := by
  unfold freezeApply
  repeat' with_reducible (first
    | (intro _) | assumption | apply keeps_ite | apply keeps_foldl | apply keeps_foldl_fst | apply forceValues_keeps
    | apply State.putRx_keeps | simp only [↓keeps_mk] | rfl | split | exact Keeps.rfl')

theorem echoReset_keeps (l : Nat) {z s : State} (hk : Keeps z s) : Keeps z (echoReset l s) := by
  unfold echoReset
  repeat' with_reducible (first
    | (intro _) | assumption | apply keeps_ite | apply keeps_foldl | apply keeps_foldl_fst | apply State.set_keeps
    | apply State.setB_keeps | dsimp only | rfl | split | exact Keeps.rfl')

theorem reachLoad_keeps (l : Nat) {z s : State} (hk : Keeps z s) : Keeps z (reachLoad l s) := by
  unfold reachLoad
  repeat' with_reducible (first
    | (intro _) | assumption | apply keeps_ite | apply keeps_foldl | apply keeps_foldl_fst | apply gainPut_keeps
    | apply State.set_keeps | apply echoReset_keeps | apply State.putRx_keeps | apply freezeApply_keeps
    | simp only [↓keeps_mk] | rfl | split | exact Keeps.rfl')

theorem capNote_keeps (l : Nat) {z s : State} (hk : Keeps z s) : Keeps z (capNote l s) := by
  unfold capNote
  repeat' with_reducible (first
    | (intro _) | assumption | apply keeps_ite | apply keeps_foldl | apply keeps_foldl_fst | apply State.putCap_keeps
    | apply State.set_keeps | simp only [↓keeps_mk] | rfl | split | exact Keeps.rfl')

theorem txStop_keeps (l : Nat) {z s : State} (hk : Keeps z s) : Keeps z (txStop l s) := by
  unfold txStop
  repeat' with_reducible (first
    | (intro _) | assumption | apply keeps_ite | apply keeps_foldl | apply keeps_foldl_fst | apply State.setB_keeps
    | apply State.putTx_keeps | apply State.irq_keeps | simp only [↓keeps_mk] | rfl | split | exact Keeps.rfl')

theorem goDark_keeps (l : Nat) {z s : State} (hk : Keeps z s) : Keeps z (goDark l s) := by
  unfold goDark
  repeat' with_reducible (first
    | (intro _) | assumption | apply keeps_ite | apply keeps_foldl | apply keeps_foldl_fst | apply txStop_keeps
    | apply calLeave_keeps | apply capCause_keeps | apply State.setB_keeps | apply hostClockSlew_keeps
    | apply amForget_keeps | apply cwDrop_keeps | apply State.putRx_keeps | apply linkDown_keeps | apply sdSf_keeps
    | apply passRefresh_keeps | simp only [↓keeps_mk] | rfl | split | exact Keeps.rfl')

theorem leaveRxDim_keeps (l : Nat) {z s : State} (hk : Keeps z s) : Keeps z (leaveRxDim l s) := by
  unfold leaveRxDim
  repeat' with_reducible (first
    | (intro _) | assumption | apply keeps_ite | apply keeps_foldl | apply keeps_foldl_fst | apply State.setB_keeps
    | apply capCause_keeps | apply State.irq_keeps | apply State.change_keeps | dsimp only | rfl | split
    | exact Keeps.rfl')

theorem clearLocks_keeps (l : Nat) {z s : State} (hk : Keeps z s) : Keeps z (clearLocks l s) := by
  unfold clearLocks
  repeat' with_reducible (first
    | (intro _) | assumption | apply keeps_ite | apply keeps_foldl | apply keeps_foldl_fst | apply State.change_keeps
    | apply hostClockSlew_keeps | apply State.setB_keeps | apply capCause_keeps | dsimp only | rfl | split
    | exact Keeps.rfl')

theorem swapTake_keeps (l : Nat) (was : Bool) {z s : State} (hk : Keeps z s) : Keeps z (swapTake l was s) := by
  unfold swapTake
  repeat' with_reducible (first
    | (intro _) | assumption | apply keeps_ite | apply keeps_foldl | apply keeps_foldl_fst | apply State.set_keeps
    | apply State.change_keeps | apply amLose_keeps | dsimp only | rfl | split | exact Keeps.rfl')

theorem goAcquire_keeps (l : Nat) (warm fresh : Bool) {z s : State} (hk : Keeps z s) : Keeps z (goAcquire l warm
    fresh s) := by
  unfold goAcquire
  repeat' with_reducible (first
    | (intro _) | assumption | apply keeps_ite | apply keeps_foldl | apply keeps_foldl_fst | apply clearLocks_keeps
    | apply leaveRxDim_keeps | apply calClearFg_keeps | apply calLeave_keeps | apply State.setB_keeps
    | apply State.putRx_keeps | apply swapTake_keeps | apply State.putTx_keeps | apply reachLoad_keeps
    | apply freezeApply_keeps | apply linkDown_keeps | apply sdSf_keeps | apply passRefresh_keeps
    | apply cfgRefresh_keeps | apply timingRefresh_keeps | simp only [↓keeps_mk] | rfl | split | exact Keeps.rfl')

theorem goActive_keeps (l old new : Nat) {z s : State} (hk : Keeps z s) : Keeps z (goActive l old new s) := by
  unfold goActive
  repeat' with_reducible (first
    | (intro _) | assumption | apply keeps_ite | apply keeps_foldl | apply keeps_foldl_fst | apply calLeave_keeps
    | apply State.setB_keeps | apply leaveRxDim_keeps | apply State.change_keeps | apply State.putRx_keeps
    | apply freezeApply_keeps | apply calEnter_keeps | apply passRefresh_keeps | apply State.irq_keeps
    | simp only [↓keeps_mk] | rfl | split | exact Keeps.rfl')

theorem setLaneCode_keeps (l new cause : Nat) {z s : State} (hk : Keeps z s) : Keeps z (setLaneCode l new cause s)
    := by
  unfold setLaneCode
  repeat' with_reducible (first
    | (intro _) | assumption | apply keeps_ite | apply keeps_foldl | apply keeps_foldl_fst | apply State.set_keeps
    | apply State.irq_keeps | apply State.event_keeps | dsimp only | rfl | split | exact Keeps.rfl')

theorem enterState_keeps (l new cause : Nat) (fresh : Bool) {z s : State} (hk : Keeps z s) : Keeps z (enterState l
    new cause fresh s) := by
  unfold enterState
  repeat' with_reducible (first
    | (intro _) | assumption | apply keeps_ite | apply keeps_foldl | apply keeps_foldl_fst | apply setLaneCode_keeps
    | apply State.set_keeps | apply freezeApply_keeps | apply capNote_keeps | apply autoRaise_keeps
    | apply calClearFg_keeps | apply goDark_keeps | apply State.irq_keeps | apply goAcquire_keeps
    | apply goActive_keeps | apply State.putStamp_keeps | simp only [↓keeps_mk] | rfl | split | exact Keeps.rfl')

theorem beginStop_keeps (l : Nat) {z s : State} (hk : Keeps z s) : Keeps z (beginStop l s) := by
  unfold beginStop
  repeat' with_reducible (first
    | (intro _) | assumption | apply keeps_ite | apply keeps_foldl | apply keeps_foldl_fst | apply State.putLp_keeps
    | simp only [↓keeps_mk] | rfl | split | exact Keeps.rfl')

theorem toOff_keeps (l : Nat) {z s : State} (hk : Keeps z s) : Keeps z (toOff l s) := by
  unfold toOff
  repeat' with_reducible (first
    | (intro _) | assumption | apply keeps_ite | apply keeps_foldl | apply keeps_foldl_fst | apply beginStop_keeps
    | apply enterState_keeps | dsimp only | rfl | split | exact Keeps.rfl')

theorem toFault_keeps (l cause : Nat) {z s : State} (hk : Keeps z s) : Keeps z (toFault l cause s) := by
  unfold toFault
  repeat' with_reducible (first
    | (intro _) | assumption | apply keeps_ite | apply keeps_foldl | apply keeps_foldl_fst | apply enterState_keeps
    | apply State.setB_keeps | dsimp only | rfl | split | exact Keeps.rfl')

theorem memoriesClear_keeps (memid : Nat) {z s : State} (hk : Keeps z s) : Keeps z (memoriesClear memid s) := by
  unfold memoriesClear
  repeat' with_reducible (first
    | (intro _) | assumption | apply keeps_ite | apply keeps_foldl | apply keeps_foldl_fst | simp only [↓keeps_mk]
    | rfl | split | exact Keeps.rfl')

theorem memoriesUse_keeps (memid : Nat) {z s : State} (hk : Keeps z s) : Keeps z (memoriesUse memid s) := by
  unfold memoriesUse
  repeat' with_reducible (first
    | (intro _) | assumption | apply keeps_ite | apply keeps_foldl | apply keeps_foldl_fst | simp only [↓keeps_mk]
    | rfl | split | exact Keeps.rfl')

theorem startLane_keeps (l : Nat) {z s : State} (hk : Keeps z s) : Keeps z (startLane l s) := by
  unfold startLane
  repeat' with_reducible (first
    | (intro _) | assumption | apply keeps_ite | apply keeps_foldl | apply keeps_foldl_fst | apply State.setB_keeps
    | apply enterState_keeps | apply State.putLp_keeps | apply memoriesClear_keeps | apply State.putRx_keeps
    | apply trainStart_keeps | simp only [↓keeps_mk] | rfl | split | exact Keeps.rfl')

theorem considerStart_keeps (l : Nat) {z s : State} (hk : Keeps z s) : Keeps z (considerStart l s) := by
  unfold considerStart
  repeat' with_reducible (first
    | (intro _) | assumption | apply keeps_ite | apply keeps_foldl | apply keeps_foldl_fst | apply toFault_keeps
    | apply State.setB_keeps | dsimp only | rfl | split | exact Keeps.rfl')

end Sys2Proof.Machine
end

