-- ==== Sys2Proof/Laws/KeepsTransmit.lean ====
section
/-!
SUPPORT. The operations of Machine/Transmit.lean keep the queue and the canonical forms.
-/

namespace Sys2Proof.Machine

open Sys2Proof

theorem hostEnter_keeps (h : Nat) {z s : State} (hk : Keeps z s) : Keeps z (hostEnter h s) := by
  unfold hostEnter
  repeat' with_reducible (first
    | (intro _) | assumption | apply keeps_ite | apply keeps_foldl | apply keeps_foldl_fst | apply State.putHost_keeps
    | apply State.setB_keeps | simp only [↓keeps_mk] | rfl | split | exact Keeps.rfl')

theorem shapeFrame_keeps (l : Nat) (symbols : List (Option Nat)) {z s : State} (hk : Keeps z s) : Keeps z
    (shapeFrame l symbols s) := by
  unfold shapeFrame
  repeat' with_reducible (first
    | (intro _) | assumption | apply keeps_ite | apply keeps_foldl | apply keeps_foldl_fst | apply State.putTx_keeps
    | apply State.satInc_keeps | apply State.irq_keeps | simp only [↓keeps_mk] | rfl | split | exact Keeps.rfl')

theorem flushLine_keeps (l : Nat) {z s : State} (hk : Keeps z s) : Keeps z (flushLine l s) := by
  unfold flushLine
  repeat' with_reducible (first
    | (intro _) | assumption | apply keeps_ite | apply keeps_foldl | apply keeps_foldl_fst | apply shapeFrame_keeps
    | apply State.putTx_keeps | simp only [↓keeps_mk] | rfl | split | exact Keeps.rfl')

theorem txFrameOp_keeps (l : Nat) (a b : List Bool) {z s : State} (hk : Keeps z s) : Keeps z (txFrameOp l a b s) := by
  unfold txFrameOp
  repeat' with_reducible (first
    | (intro _) | assumption | apply keeps_ite | apply keeps_foldl | apply keeps_foldl_fst | apply hostEnter_keeps
    | apply State.count_keeps | apply shapeFrame_keeps | apply State.putTx_keeps | simp only [↓keeps_mk] | rfl | split
    | exact Keeps.rfl')

theorem fsAtOnce_keeps (l : Nat) {z s : State} (hk : Keeps z s) : Keeps z (fsAtOnce l s) := by
  unfold fsAtOnce
  repeat' with_reducible (first
    | (intro _) | assumption | apply keeps_ite | apply keeps_foldl | apply keeps_foldl_fst | apply State.putTx_keeps
    | apply State.setB_keeps | simp only [↓keeps_mk] | rfl | split | exact Keeps.rfl')

theorem fsStep_keeps (l : Nat) {z s : State} (hk : Keeps z s) : Keeps z (fsStep l s) := by
  unfold fsStep
  repeat' with_reducible (first
    | (intro _) | assumption | apply keeps_ite | apply keeps_foldl | apply keeps_foldl_fst | apply fsAtOnce_keeps
    | apply State.putTx_keeps | apply State.setB_keeps | simp only [↓keeps_mk] | rfl | split | exact Keeps.rfl')

theorem dimPut_keeps (l : Nat) (d : DimPhase) {z s : State} (hk : Keeps z s) : Keeps z (dimPut l d s) := by
  unfold dimPut
  repeat' with_reducible (first
    | (intro _) | assumption | apply keeps_ite | apply keeps_foldl | apply keeps_foldl_fst | apply calDiscardDac_keeps
    | apply State.putTx_keeps | apply State.setB_keeps | simp only [↓keeps_mk] | rfl | split | exact Keeps.rfl')

theorem patternStep_keeps (l : Nat) {z s : State} (hk : Keeps z s) : Keeps z (patternStep l s) := by
  unfold patternStep
  repeat' with_reducible (first
    | (intro _) | assumption | apply keeps_ite | apply keeps_foldl | apply keeps_foldl_fst | apply State.putTx_keeps
    | apply State.setB_keeps | apply calDiscardDac_keeps | apply dimPut_keeps | simp only [↓keeps_mk] | rfl | split
    | exact Keeps.rfl')

theorem markerStep_keeps (l : Nat) {z s : State} (hk : Keeps z s) : Keeps z (markerStep l s) := by
  unfold markerStep
  repeat' with_reducible (first
    | (intro _) | assumption | apply keeps_ite | apply keeps_foldl | apply keeps_foldl_fst | apply dimPut_keeps
    | dsimp only | rfl | split | exact Keeps.rfl')

theorem dimStep_keeps (l : Nat) {z s : State} (hk : Keeps z s) : Keeps z (dimStep l s) := by
  unfold dimStep
  repeat' with_reducible (first
    | (intro _) | assumption | apply keeps_ite | apply keeps_foldl | apply keeps_foldl_fst | apply markerStep_keeps
    | apply dimPut_keeps | apply State.putTx_keeps | simp only [↓keeps_mk] | rfl | split | exact Keeps.rfl')

theorem stampTx_keeps (l : Nat) {z s : State} (hk : Keeps z s) : Keeps z (stampTx l s) := by
  unfold stampTx
  repeat' with_reducible (first
    | (intro _) | assumption | apply keeps_ite | apply keeps_foldl | apply keeps_foldl_fst
    | apply State.putStamp_keeps | apply State.draw_keeps | simp only [↓keeps_mk] | rfl | split | exact Keeps.rfl')

theorem calTxBoundary_keeps (l : Nat) {z s : State} (hk : Keeps z s) : Keeps z (calTxBoundary l s) := by
  unfold calTxBoundary
  repeat' with_reducible (first
    | (intro _) | assumption | apply keeps_ite | apply keeps_foldl | apply keeps_foldl_fst | apply State.putCal_keeps
    | simp only [↓keeps_mk] | rfl | split | exact Keeps.rfl')

theorem txBoundary_keeps (l : Nat) {z s : State} (hk : Keeps z s) : Keeps z (txBoundary l s) := by
  unfold txBoundary
  repeat' with_reducible (first
    | (intro _) | assumption | apply keeps_ite | apply keeps_foldl | apply keeps_foldl_fst | apply stampTx_keeps
    | apply State.putTx_keeps | apply State.putLink_keeps | apply fsStep_keeps | apply State.setB_keeps
    | apply patternStep_keeps | apply dimStep_keeps | apply calTxBoundary_keeps | apply autoRaise_keeps
    | apply hostEnter_keeps | simp only [↓keeps_mk] | rfl | split | exact Keeps.rfl')

theorem txHold_keeps (l : Nat) (h : TxHold) {z s : State} (hk : Keeps z s) : Keeps z (txHold l h s) := by
  unfold txHold
  repeat' with_reducible (first
    | (intro _) | assumption | apply keeps_ite | apply keeps_foldl | apply keeps_foldl_fst | apply calDiscardDac_keeps
    | apply flushLine_keeps | apply dimPut_keeps | apply State.putTx_keeps | apply fsAtOnce_keeps
    | apply State.setB_keeps | simp only [↓keeps_mk] | rfl | split | exact Keeps.rfl')

theorem txSuperframeBoundaryOp_keeps (l : Nat) {z s : State} (hk : Keeps z s) : Keeps z (txSuperframeBoundaryOp l
    s) := by
  unfold txSuperframeBoundaryOp
  repeat' with_reducible (first
    | (intro _) | assumption | apply keeps_ite | apply keeps_foldl | apply keeps_foldl_fst | apply txBoundary_keeps
    | apply txHold_keeps | apply State.wrapInc_keeps | dsimp only | rfl | split | exact Keeps.rfl')

theorem txRateResumeOp_keeps (l : Nat) {z s : State} (hk : Keeps z s) : Keeps z (txRateResumeOp l s) := by
  unfold txRateResumeOp
  repeat' with_reducible (first
    | (intro _) | assumption | apply keeps_ite | apply keeps_foldl | apply keeps_foldl_fst | apply txBoundary_keeps
    | apply txHold_keeps | apply State.wrapInc_keeps | dsimp only | rfl | split | exact Keeps.rfl')

theorem txSliceResumeOp_keeps (l : Nat) {z s : State} (hk : Keeps z s) : Keeps z (txSliceResumeOp l s) := by
  unfold txSliceResumeOp
  repeat' with_reducible (first
    | (intro _) | assumption | apply keeps_ite | apply keeps_foldl | apply keeps_foldl_fst | apply txBoundary_keeps
    | apply State.set_keeps | dsimp only | rfl | split | exact Keeps.rfl')

theorem trainingBurstStartOp_keeps (l : Nat) {z s : State} (hk : Keeps z s) : Keeps z (trainingBurstStartOp l s) := by
  unfold trainingBurstStartOp
  repeat' with_reducible (first
    | (intro _) | assumption | apply keeps_ite | apply keeps_foldl | apply keeps_foldl_fst | apply flushLine_keeps
    | apply State.putTx_keeps | apply dimPut_keeps | simp only [↓keeps_mk] | rfl | split | exact Keeps.rfl')

theorem squelchOnOp_keeps (l : Nat) {z s : State} (hk : Keeps z s) : Keeps z (squelchOnOp l s) := by
  unfold squelchOnOp
  repeat' with_reducible (first
    | (intro _) | assumption | apply keeps_ite | apply keeps_foldl | apply keeps_foldl_fst | apply flushLine_keeps
    | apply calDiscardDac_keeps | apply State.setB_keeps | apply fsAtOnce_keeps | apply State.putTx_keeps
    | simp only [↓keeps_mk] | rfl | split | exact Keeps.rfl')

theorem squelchOffOp_keeps (l : Nat) {z s : State} (hk : Keeps z s) : Keeps z (squelchOffOp l s) := by
  unfold squelchOffOp
  repeat' with_reducible (first
    | (intro _) | assumption | apply keeps_ite | apply keeps_foldl | apply keeps_foldl_fst | apply State.setB_keeps
    | dsimp only | rfl | split | exact Keeps.rfl')

theorem fsWriteOp_keeps (l v : Nat) {z s : State} (hk : Keeps z s) : Keeps z (fsWriteOp l v s) := by
  unfold fsWriteOp
  repeat' with_reducible (first
    | (intro _) | assumption | apply keeps_ite | apply keeps_foldl | apply keeps_foldl_fst
    | apply State.conflict_keeps | apply State.set_keeps | apply fsAtOnce_keeps | apply State.setB_keeps | dsimp only
    | rfl | split | exact Keeps.rfl')

theorem patternSelectOp_keeps (l sel half level : Nat) {z s : State} (hk : Keeps z s) : Keeps z (patternSelectOp l
    sel half level s) := by
  unfold patternSelectOp
  repeat' with_reducible (first
    | (intro _) | assumption | apply keeps_ite | apply keeps_foldl | apply keeps_foldl_fst
    | apply State.conflict_keeps | apply State.set_keeps | dsimp only | rfl | split | exact Keeps.rfl')

theorem txpCopy_keeps (l src dst : Nat) {z s : State} (hk : Keeps z s) : Keeps z (txpCopy l src dst s) := by
  unfold txpCopy
  repeat' with_reducible (first
    | (intro _) | assumption | apply keeps_ite | apply keeps_foldl | apply keeps_foldl_fst | apply State.set_keeps
    | dsimp only | rfl | split | exact Keeps.rfl')

theorem txpCommitOp_keeps (l : Nat) {z s : State} (hk : Keeps z s) : Keeps z (txpCommitOp l s) := by
  unfold txpCommitOp
  repeat' with_reducible (first
    | (intro _) | assumption | apply keeps_ite | apply keeps_foldl | apply keeps_foldl_fst | apply State.putTx_keeps
    | simp only [↓keeps_mk] | rfl | split | exact Keeps.rfl')

theorem txpCommitApplyOp_keeps (l : Nat) {z s : State} (hk : Keeps z s) : Keeps z (txpCommitApplyOp l s) := by
  unfold txpCommitApplyOp
  repeat' with_reducible (first
    | (intro _) | assumption | apply keeps_ite | apply keeps_foldl | apply keeps_foldl_fst | apply txpCopy_keeps
    | apply State.putTx_keeps | apply State.irq_keeps | simp only [↓keeps_mk] | rfl | split | exact Keeps.rfl')

theorem txpSnapOp_keeps (l : Nat) {z s : State} (hk : Keeps z s) : Keeps z (txpSnapOp l s) := by
  unfold txpSnapOp
  repeat' with_reducible (first
    | (intro _) | assumption | apply keeps_ite | apply keeps_foldl | apply keeps_foldl_fst | apply txpCopy_keeps
    | dsimp only | rfl | split | exact Keeps.rfl')

theorem txAdaptStepOp_keeps (l : Nat) (fir pd : List Int) {z s : State} (hk : Keeps z s) : Keeps z (txAdaptStepOp l
    fir pd s) := by
  unfold txAdaptStepOp
  repeat' with_reducible (first
    | (intro _) | assumption | apply keeps_ite | apply keeps_foldl | apply keeps_foldl_fst | apply txpCopy_keeps
    | apply State.setI_keeps | apply txpCommitOp_keeps | dsimp only | rfl | split | exact Keeps.rfl')

theorem ldisWriteOp_keeps (l : Nat) (dis auto : Bool) {z s : State} (hk : Keeps z s) : Keeps z (ldisWriteOp l dis
    auto s) := by
  unfold ldisWriteOp
  repeat' with_reducible (first
    | (intro _) | assumption | apply keeps_ite | apply keeps_foldl | apply keeps_foldl_fst | apply State.setB_keeps
    | dsimp only | rfl | split | exact Keeps.rfl')

theorem ldisTripClearOp_keeps (l : Nat) {z s : State} (hk : Keeps z s) : Keeps z (ldisTripClearOp l s) := by
  unfold ldisTripClearOp
  repeat' with_reducible (first
    | (intro _) | assumption | apply keeps_ite | apply keeps_foldl | apply keeps_foldl_fst
    | apply State.conflict_keeps | apply State.setB_keeps | dsimp only | rfl | split | exact Keeps.rfl')

end Sys2Proof.Machine
end

