-- ==== Sys2Proof/Laws/KeepsHostLane.lean ====
section
/-!
SUPPORT. The operations of Machine/HostLane.lean keep the queue and the canonical forms.
-/

namespace Sys2Proof.Machine

open Sys2Proof

theorem cdrDrop_keeps (h : Nat) {z s : State} (hk : Keeps z s) : Keeps z (cdrDrop h s) := by
  unfold cdrDrop
  repeat' with_reducible (first
    | (intro _) | assumption | apply keeps_ite | apply keeps_foldl | apply keeps_foldl_fst | apply State.change_keeps
    | apply timingRefresh_keeps | apply amLose_keeps | apply State.setB_keeps | dsimp only | rfl | split
    | exact Keeps.rfl')

theorem hostLosSetOp_keeps (h amp : Nat) {z s : State} (hk : Keeps z s) : Keeps z (hostLosSetOp h amp s) := by
  unfold hostLosSetOp
  repeat' with_reducible (first
    | (intro _) | assumption | apply keeps_ite | apply keeps_foldl | apply keeps_foldl_fst | apply amLose_keeps
    | apply cdrDrop_keeps | apply State.change_keeps | dsimp only | rfl | split | exact Keeps.rfl')

theorem hostLosClearOp_keeps (h amp : Nat) {z s : State} (hk : Keeps z s) : Keeps z (hostLosClearOp h amp s) := by
  unfold hostLosClearOp
  repeat' with_reducible (first
    | (intro _) | assumption | apply keeps_ite | apply keeps_foldl | apply keeps_foldl_fst | apply State.change_keeps
    | dsimp only | rfl | split | exact Keeps.rfl')

theorem trackMoved_keeps (h : Nat) (old new : Int) {z s : State} (hk : Keeps z s) : Keeps z (trackMoved h old new
    s) := by
  unfold trackMoved
  repeat' with_reducible (first
    | (intro _) | assumption | apply keeps_ite | apply keeps_foldl | apply keeps_foldl_fst | apply trackLose_keeps
    | dsimp only | rfl | split | exact Keeps.rfl')

theorem cdrLockOp_keeps (h : Nat) (freq : Int) (long : Bool) {z s : State} (hk : Keeps z s) : Keeps z (cdrLockOp h
    freq long s) := by
  unfold cdrLockOp
  repeat' with_reducible (first
    | (intro _) | assumption | apply keeps_ite | apply keeps_foldl | apply keeps_foldl_fst | apply State.setI_keeps
    | apply trackMoved_keeps | apply timingRefresh_keeps | apply State.change_keeps | apply trainStart_keeps
    | dsimp only | rfl | split | exact Keeps.rfl')

theorem cdrLockLossOp_keeps (h : Nat) {z s : State} (hk : Keeps z s) : Keeps z (cdrLockLossOp h s) := by
  unfold cdrLockLossOp
  repeat' with_reducible (first
    | (intro _) | assumption | apply keeps_ite | apply keeps_foldl | apply keeps_foldl_fst | apply cdrDrop_keeps
    | dsimp only | rfl | split | exact Keeps.rfl')

theorem trainAsk_keeps (h : Nat) {z s : State} (hk : Keeps z s) : Keeps z (trainAsk h s) := by
  unfold trainAsk
  repeat' with_reducible (first
    | (intro _) | assumption | apply keeps_ite | apply keeps_foldl | apply keeps_foldl_fst | apply State.putHost_keeps
    | simp only [↓keeps_mk] | rfl | split | exact Keeps.rfl')

theorem hostRxEqDoneOp_keeps (h ctle dfe1 : Nat) (ffe : List Nat) {z s : State} (hk : Keeps z s) : Keeps z
    (hostRxEqDoneOp h ctle dfe1 ffe s) := by
  unfold hostRxEqDoneOp
  repeat' with_reducible (first
    | (intro _) | assumption | apply keeps_ite | apply keeps_foldl | apply keeps_foldl_fst | apply State.putHost_keeps
    | apply trainAsk_keeps | apply State.setB_keeps | simp only [↓keeps_mk] | rfl | split | exact Keeps.rfl')

theorem eqToRegs_keeps (h : Nat) {z s : State} (hk : Keeps z s) : Keeps z (eqToRegs h s) := by
  unfold eqToRegs
  repeat' with_reducible (first
    | (intro _) | assumption | apply keeps_ite | apply keeps_foldl | apply keeps_foldl_fst | apply State.set_keeps
    | dsimp only | rfl | split | exact Keeps.rfl')

theorem eqFromRegs_keeps (h : Nat) {z s : State} (hk : Keeps z s) : Keeps z (eqFromRegs h s) := by
  unfold eqFromRegs
  repeat' with_reducible (first
    | (intro _) | assumption | apply keeps_ite | apply keeps_foldl | apply keeps_foldl_fst | apply State.putHost_keeps
    | simp only [↓keeps_mk] | rfl | split | exact Keeps.rfl')

theorem hsdRxFreezeOp_keeps (h : Nat) (on : Bool) {z s : State} (hk : Keeps z s) : Keeps z (hsdRxFreezeOp h on s)
    := by
  unfold hsdRxFreezeOp
  repeat' with_reducible (first
    | (intro _) | assumption | apply keeps_ite | apply keeps_foldl | apply keeps_foldl_fst | apply State.setB_keeps
    | apply eqToRegs_keeps | apply eqFromRegs_keeps | dsimp only | rfl | split | exact Keeps.rfl')

theorem txTapsPut_keeps (h pre2 pre1 post1 : Nat) {z s : State} (hk : Keeps z s) : Keeps z (txTapsPut h pre2 pre1
    post1 s) := by
  unfold txTapsPut
  repeat' with_reducible (first
    | (intro _) | assumption | apply keeps_ite | apply keeps_foldl | apply keeps_foldl_fst | apply State.set_keeps
    | dsimp only | rfl | split | exact Keeps.rfl')

theorem hsdTxEqWriteOp_keeps (h pre2 pre1 post1 swing : Nat) {z s : State} (hk : Keeps z s) : Keeps z
    (hsdTxEqWriteOp h pre2 pre1 post1 swing s) := by
  unfold hsdTxEqWriteOp
  repeat' with_reducible (first
    | (intro _) | assumption | apply keeps_ite | apply keeps_foldl | apply keeps_foldl_fst
    | apply State.conflict_keeps | apply txTapsPut_keeps | apply State.set_keeps | dsimp only | rfl | split
    | exact Keeps.rfl')

theorem hsdInvertOp_keeps (h : Nat) (rx tx : Bool) {z s : State} (hk : Keeps z s) : Keeps z (hsdInvertOp h rx tx s)
    := by
  unfold hsdInvertOp
  repeat' with_reducible (first
    | (intro _) | assumption | apply keeps_ite | apply keeps_foldl | apply keeps_foldl_fst | apply State.setB_keeps
    | apply amLose_keeps | dsimp only | rfl | split | exact Keeps.rfl')

theorem trainRestartOp_keeps (h : Nat) {z s : State} (hk : Keeps z s) : Keeps z (trainRestartOp h s) := by
  unfold trainRestartOp
  repeat' with_reducible (first
    | (intro _) | assumption | apply keeps_ite | apply keeps_foldl | apply keeps_foldl_fst | apply trainStart_keeps
    | dsimp only | rfl | split | exact Keeps.rfl')

theorem trainAnswer_keeps (h code : Nat) {z s : State} (hk : Keeps z s) : Keeps z (trainAnswer h code s) := by
  unfold trainAnswer
  repeat' with_reducible (first
    | (intro _) | assumption | apply keeps_ite | apply keeps_foldl | apply keeps_foldl_fst | apply State.putHost_keeps
    | simp only [↓keeps_mk] | rfl | split | exact Keeps.rfl')

theorem trainRequestOp_keeps (h : Nat) (q : TrainRequest) {z s : State} (hk : Keeps z s) : Keeps z (trainRequestOp
    h q s) := by
  unfold trainRequestOp
  repeat' with_reducible (first
    | (intro _) | assumption | apply keeps_ite | apply keeps_foldl | apply keeps_foldl_fst | apply trainAnswer_keeps
    | apply txTapsPut_keeps | dsimp only | rfl | split | exact Keeps.rfl')

theorem trainingAnswerOp_keeps (h : Nat) {z s : State} (hk : Keeps z s) : Keeps z (trainingAnswerOp h s) := by
  unfold trainingAnswerOp
  repeat' with_reducible (first
    | (intro _) | assumption | apply keeps_ite | apply keeps_foldl | apply keeps_foldl_fst | apply trainAsk_keeps
    | apply State.putHost_keeps | simp only [↓keeps_mk] | rfl | split | exact Keeps.rfl')

theorem trainFail_keeps (h : Nat) {z s : State} (hk : Keeps z s) : Keeps z (trainFail h s) := by
  unfold trainFail
  repeat' with_reducible (first
    | (intro _) | assumption | apply keeps_ite | apply keeps_foldl | apply keeps_foldl_fst | apply State.set_keeps
    | apply State.irq_keeps | dsimp only | rfl | split | exact Keeps.rfl')

theorem trainResponseTimeoutOp_keeps (h : Nat) {z s : State} (hk : Keeps z s) : Keeps z (trainResponseTimeoutOp h
    s) := by
  unfold trainResponseTimeoutOp
  repeat' with_reducible (first
    | (intro _) | assumption | apply keeps_ite | apply keeps_foldl | apply keeps_foldl_fst | apply State.putHost_keeps
    | apply trainFail_keeps | simp only [↓keeps_mk] | rfl | split | exact Keeps.rfl')

theorem trainTimeoutOp_keeps (h : Nat) {z s : State} (hk : Keeps z s) : Keeps z (trainTimeoutOp h s) := by
  unfold trainTimeoutOp
  repeat' with_reducible (first
    | (intro _) | assumption | apply keeps_ite | apply keeps_foldl | apply keeps_foldl_fst | apply trainFail_keeps
    | dsimp only | rfl | split | exact Keeps.rfl')

theorem trainDoneOp_keeps (h : Nat) {z s : State} (hk : Keeps z s) : Keeps z (trainDoneOp h s) := by
  unfold trainDoneOp
  repeat' with_reducible (first
    | (intro _) | assumption | apply keeps_ite | apply keeps_foldl | apply keeps_foldl_fst | apply State.set_keeps
    | apply State.irq_keeps | dsimp only | rfl | split | exact Keeps.rfl')

theorem amJudge_keeps (h : Nat) (found : Bool) {z s : State} (hk : Keeps z s) : Keeps z (amJudge h found s) := by
  unfold amJudge
  repeat' with_reducible (first
    | (intro _) | assumption | apply keeps_ite | apply keeps_foldl | apply keeps_foldl_fst | apply State.putHost_keeps
    | apply amLose_keeps | apply State.change_keeps | simp only [↓keeps_mk] | rfl | split | exact Keeps.rfl')

theorem rxAmJudge_keeps (l j : Nat) (found : Bool) {z s : State} (hk : Keeps z s) : Keeps z (rxAmJudge l j found s)
    := by
  unfold rxAmJudge
  repeat' with_reducible (first
    | (intro _) | assumption | apply keeps_ite | apply keeps_foldl | apply keeps_foldl_fst | apply State.putHost_keeps
    | apply State.change_keeps | simp only [↓keeps_mk] | rfl | split | exact Keeps.rfl')

theorem portPut_keeps (f : Nat → Fld) (ms : List Nat) (v : Bool) {z s : State} (hk : Keeps z s) : Keeps z (portPut
    f ms v s) := by
  unfold portPut
  repeat' with_reducible (first
    | (intro _) | assumption | apply keeps_ite | apply keeps_foldl | apply keeps_foldl_fst | apply State.setB_keeps
    | dsimp only | rfl | split | exact Keeps.rfl')

theorem skewTooLarge_keeps (l : Nat) {z s : State} (hk : Keeps z s) : Keeps z (skewTooLarge l s) := by
  unfold skewTooLarge
  repeat' with_reducible (first
    | (intro _) | assumption | apply keeps_ite | apply keeps_foldl | apply keeps_foldl_fst | apply State.setB_keeps
    | apply portPut_keeps | apply hostLeave_keeps | apply State.set_keeps | apply State.irq_keeps | dsimp only | rfl
    | split | exact Keeps.rfl')

theorem setHolds_keeps (l : Nat) (arrive : List Nat) {z s : State} (hk : Keeps z s) : Keeps z (setHolds l arrive s)
    := by
  unfold setHolds
  repeat' with_reducible (first
    | (intro _) | assumption | apply keeps_ite | apply keeps_foldl | apply keeps_foldl_fst | apply State.set_keeps
    | apply portPut_keeps | apply State.putHost_keeps | simp only [↓keeps_mk] | rfl | split | exact Keeps.rfl')

theorem portDrop_keeps (ms : List Nat) {z s : State} (hk : Keeps z s) : Keeps z (portDrop ms s) := by
  unfold portDrop
  repeat' with_reducible (first
    | (intro _) | assumption | apply keeps_ite | apply keeps_foldl | apply keeps_foldl_fst | apply amLose_keeps
    | apply portPut_keeps | dsimp only | rfl | split | exact Keeps.rfl')

theorem slipCheck_keeps (l : Nat) (arrive : List Nat) {z s : State} (hk : Keeps z s) : Keeps z (slipCheck l arrive
    s) := by
  unfold slipCheck
  repeat' with_reducible (first
    | (intro _) | assumption | apply keeps_ite | apply keeps_foldl | apply keeps_foldl_fst | apply State.putHost_keeps
    | apply State.satInc_keeps | apply portDrop_keeps | apply State.irq_keeps | simp only [↓keeps_mk] | rfl | split
    | exact Keeps.rfl')

theorem deskewPeriod_keeps (l : Nat) (before : Bool) (arrive : List Nat) {z s : State} (hk : Keeps z s) : Keeps z
    (deskewPeriod l before arrive s) := by
  unfold deskewPeriod
  repeat' with_reducible (first
    | (intro _) | assumption | apply keeps_ite | apply keeps_foldl | apply keeps_foldl_fst | apply skewTooLarge_keeps
    | apply setHolds_keeps | apply slipCheck_keeps | dsimp only | rfl | split | exact Keeps.rfl')

theorem txLatency_keeps (l : Nat) (p : MarkerPeriod) {z s : State} (hk : Keeps z s) : Keeps z (txLatency l p s) := by
  unfold txLatency
  repeat' with_reducible (first
    | (intro _) | assumption | apply keeps_ite | apply keeps_foldl | apply keeps_foldl_fst | apply State.set_keeps
    | dsimp only | rfl | split | exact Keeps.rfl')

theorem rxLatency_keeps (l : Nat) (p : MarkerPeriod) {z s : State} (hk : Keeps z s) : Keeps z (rxLatency l p s) := by
  unfold rxLatency
  repeat' with_reducible (first
    | (intro _) | assumption | apply keeps_ite | apply keeps_foldl | apply keeps_foldl_fst | apply State.set_keeps
    | simp only [↓keeps_mk] | rfl | split | exact Keeps.rfl')

theorem cwJudge_keeps (l rxSkew : Nat) {z s : State} (hk : Keeps z s) : Keeps z (cwJudge l rxSkew s) := by
  unfold cwJudge
  repeat' with_reducible (first
    | (intro _) | assumption | apply keeps_ite | apply keeps_foldl | apply keeps_foldl_fst | apply State.putRx_keeps
    | apply State.change_keeps | simp only [↓keeps_mk] | rfl | split | exact Keeps.rfl')

theorem amPeriodOp_keeps (l : Nat) (p : MarkerPeriod) {z s : State} (hk : Keeps z s) : Keeps z (amPeriodOp l p s)
    := by
  unfold amPeriodOp
  repeat' with_reducible (first
    | (intro _) | assumption | apply keeps_ite | apply keeps_foldl | apply keeps_foldl_fst | apply amJudge_keeps
    | apply rxAmJudge_keeps | apply cwJudge_keeps | apply deskewPeriod_keeps | apply rxLatency_keeps
    | apply txLatency_keeps | dsimp only | rfl | split | exact Keeps.rfl')

theorem portRestart_keeps (ms : List Nat) {z s : State} (hk : Keeps z s) : Keeps z (portRestart ms s) := by
  unfold portRestart
  repeat' with_reducible (first
    | (intro _) | assumption | apply keeps_ite | apply keeps_foldl | apply keeps_foldl_fst | apply portPut_keeps
    | apply portDrop_keeps | apply State.change_keeps | dsimp only | rfl | split | exact Keeps.rfl')

theorem portFollow_keeps (l was : Nat) (old : List Nat) {z s : State} (hk : Keeps z s) : Keeps z (portFollow l was
    old s) := by
  unfold portFollow
  repeat' with_reducible (first
    | (intro _) | assumption | apply keeps_ite | apply keeps_foldl | apply keeps_foldl_fst | apply cfgRefresh_keeps
    | apply portRestart_keeps | dsimp only | rfl | split | exact Keeps.rfl')

theorem portWWriteOp_keeps (l w : Nat) {z s : State} (hk : Keeps z s) : Keeps z (portWWriteOp l w s) := by
  unfold portWWriteOp
  repeat' with_reducible (first
    | (intro _) | assumption | apply keeps_ite | apply keeps_foldl | apply keeps_foldl_fst
    | apply State.conflict_keeps | apply portFollow_keeps | apply State.set_keeps | dsimp only | rfl | split
    | exact Keeps.rfl')

theorem txClockSlewDoneOp_keeps (l : Nat) {z s : State} (hk : Keeps z s) : Keeps z (txClockSlewDoneOp l s) := by
  unfold txClockSlewDoneOp
  repeat' with_reducible (first
    | (intro _) | assumption | apply keeps_ite | apply keeps_foldl | apply keeps_foldl_fst | apply State.setB_keeps
    | dsimp only | rfl | split | exact Keeps.rfl')

theorem realignDoneOp_keeps (l : Nat) {z s : State} (hk : Keeps z s) : Keeps z (realignDoneOp l s) := by
  unfold realignDoneOp
  repeat' with_reducible (first
    | (intro _) | assumption | apply keeps_ite | apply keeps_foldl | apply keeps_foldl_fst | apply State.putRx_keeps
    | simp only [↓keeps_mk] | rfl | split | exact Keeps.rfl')

theorem prbsGenSelectOp_keeps (h g : Nat) {z s : State} (hk : Keeps z s) : Keeps z (prbsGenSelectOp h g s) := by
  unfold prbsGenSelectOp
  repeat' with_reducible (first
    | (intro _) | assumption | apply keeps_ite | apply keeps_foldl | apply keeps_foldl_fst | apply State.set_keeps
    | dsimp only | rfl | split | exact Keeps.rfl')

theorem prbsUnlock_keeps (h : Nat) {z s : State} (hk : Keeps z s) : Keeps z (prbsUnlock h s) := by
  unfold prbsUnlock
  repeat' with_reducible (first
    | (intro _) | assumption | apply keeps_ite | apply keeps_foldl | apply keeps_foldl_fst | apply State.wrapInc_keeps
    | apply State.change_keeps | apply State.draw_keeps | dsimp only | rfl | split | exact Keeps.rfl')

theorem prbsChkSelectOp_keeps (h c : Nat) {z s : State} (hk : Keeps z s) : Keeps z (prbsChkSelectOp h c s) := by
  unfold prbsChkSelectOp
  repeat' with_reducible (first
    | (intro _) | assumption | apply keeps_ite | apply keeps_foldl | apply keeps_foldl_fst
    | apply State.conflict_keeps | apply State.set_keeps | apply prbsUnlock_keeps | apply amLose_keeps | dsimp only
    | rfl | split | exact Keeps.rfl')

theorem prbsLockOp_keeps (h : Nat) {z s : State} (hk : Keeps z s) : Keeps z (prbsLockOp h s) := by
  unfold prbsLockOp
  repeat' with_reducible (first
    | (intro _) | assumption | apply keeps_ite | apply keeps_foldl | apply keeps_foldl_fst | apply State.putHost_keeps
    | apply State.change_keeps | simp only [↓keeps_mk] | rfl | split | exact Keeps.rfl')

theorem prbsLossOp_keeps (h compared errors : Nat) {z s : State} (hk : Keeps z s) : Keeps z (prbsLossOp h compared
    errors s) := by
  unfold prbsLossOp
  repeat' with_reducible (first
    | (intro _) | assumption | apply keeps_ite | apply keeps_foldl | apply keeps_foldl_fst | apply State.wrapInc_keeps
    | apply State.change_keeps | apply State.setB_keeps | dsimp only | rfl | split | exact Keeps.rfl')

theorem prbsClrOp_keeps (h : Nat) {z s : State} (hk : Keeps z s) : Keeps z (prbsClrOp h s) := by
  unfold prbsClrOp
  repeat' with_reducible (first
    | (intro _) | assumption | apply keeps_ite | apply keeps_foldl | apply keeps_foldl_fst | apply State.putHost_keeps
    | apply State.set_keeps | simp only [↓keeps_mk] | rfl | split | exact Keeps.rfl')

end Sys2Proof.Machine
end

