-- ==== Sys2Proof/Laws/KeepsCapture.lean ====
section
/-!
SUPPORT. The operations of Machine/Capture.lean keep the queue and the canonical forms.
-/

namespace Sys2Proof.Machine

open Sys2Proof

theorem capRequest_keeps (c : Nat) (req : Requester) (go : State → State) {z s : State} (hk : Keeps z s) (hgo : ∀
    t, Keeps z t → Keeps z (go t)) : Keeps z (capRequest c req s go) := by
  unfold capRequest
  repeat' with_reducible (first
    | (intro _) | assumption | apply keeps_ite | apply keeps_foldl | apply keeps_foldl_fst
    | apply State.claimRefused_keeps | apply State.conflict_keeps | apply State.set_keeps | apply hgo | dsimp only
    | rfl | split | exact Keeps.rfl')

theorem capArmOp_keeps (c : Nat) (req : Requester) {z s : State} (hk : Keeps z s) : Keeps z (capArmOp c req s) := by
  unfold capArmOp
  repeat' with_reducible (first
    | (intro _) | assumption | apply keeps_ite | apply keeps_foldl | apply keeps_foldl_fst
    | apply State.conflict_keeps | apply capRequest_keeps | apply State.putCap_keeps | apply State.set_keeps
    | simp only [↓keeps_mk] | rfl | split | exact Keeps.rfl')

/-- An address of capture memory lies in the memory of its own sheaf. -/
theorem capAddr {a c : Nat} (hi : inCapture a = true) (hc : capOf a = c) : a = capBase c + capOff a := by
  simp only [inCapture, capOf, capOff, capBase, capSize, Bool.and_eq_true, decide_eq_true_eq] at *
  omega

theorem capPatch_keeps (c first size : Nat) (fill : Option Nat) (data : List Nat) {z s : State} (hk : Keeps z s) :
    Keeps z (capPatch c first size fill data s) := by
  refine ⟨hk.queue, hk.regs, fun x => ?_⟩
  refine wf_filter (s := s) (t := capPatch c first size fill data s)
    (fun e => !(capBase c + first ≤ e.1 && e.1 < capBase c + first + size)) rfl (fun e he hp => .inl ?_) (hk.mem x)
  by_cases hi : inCapture e.1 = true
  · have hpa : (capPatch c first size fill data s).patchAt e.1 = s.patchAt e.1 := by
      unfold State.patchAt capPatch State.putCap State.cap
      by_cases hc : c = capOf e.1
      · have ha := capAddr hi hc.symm
        have hn : ¬ (first ≤ capOff e.1 ∧ capOff e.1 < first + size) := by
          simp only [Bool.not_eq_true', Bool.and_eq_false_iff, decide_eq_false_iff_not] at hp
          omega
        subst hc
        by_cases hl : capOf e.1 < 2
        · simp [hl, List.find?_cons, hn]
        · simp [hl]
      · simp [hc]
    unfold memDefault
    rw [hpa]; rfl
  · unfold memDefault
    rw [if_neg hi, if_neg hi]; rfl

theorem capRegion_keeps (c base size block total : Nat) (bytes : List Nat) {z s : State} (hk : Keeps z s) : Keeps z
    (capRegion c base size block total bytes s) := by
  unfold capRegion
  repeat' with_reducible (first
    | (intro _) | assumption | apply keeps_ite | apply keeps_foldl | apply keeps_foldl_fst | apply capPatch_keeps
    | dsimp only | rfl | split | exact Keeps.rfl')

theorem capRecorded_keeps (c total : Nat) (taken : List (List LineSamples)) {z s : State} (hk : Keeps z s) : Keeps
    z (capRecorded c total taken s) := by
  unfold capRecorded
  repeat' with_reducible (first
    | (intro _) | assumption | apply keeps_ite | apply keeps_foldl | apply keeps_foldl_fst | apply capRegion_keeps
    | dsimp only | rfl | split | exact Keeps.rfl')

theorem capEnded_keeps (c : Nat) {z s : State} (hk : Keeps z s) : Keeps z (capEnded c s) := by
  unfold capEnded
  repeat' with_reducible (first
    | (intro _) | assumption | apply keeps_ite | apply keeps_foldl | apply keeps_foldl_fst | apply State.putCap_keeps
    | simp only [↓keeps_mk] | rfl | split | exact Keeps.rfl')

theorem capAbortOp_keeps (c written : Nat) (taken : List (List LineSamples)) {z s : State} (hk : Keeps z s) : Keeps
    z (capAbortOp c written taken s) := by
  unfold capAbortOp
  repeat' with_reducible (first
    | (intro _) | assumption | apply keeps_ite | apply keeps_foldl | apply keeps_foldl_fst | apply capEnded_keeps
    | apply capRecorded_keeps | apply State.set_keeps | apply State.conflict_keeps | dsimp only | rfl | split
    | exact Keeps.rfl')

theorem capFillOp_keeps (c : Nat) (req : Requester) {z s : State} (hk : Keeps z s) : Keeps z (capFillOp c req s) := by
  unfold capFillOp
  repeat' with_reducible (first
    | (intro _) | assumption | apply keeps_ite | apply keeps_foldl | apply keeps_foldl_fst | apply capRequest_keeps
    | apply State.putCap_keeps | apply State.set_keeps | simp only [↓keeps_mk] | rfl | split | exact Keeps.rfl')

theorem capFillDoneOp_keeps (c : Nat) {z s : State} (hk : Keeps z s) : Keeps z (capFillDoneOp c s) := by
  unfold capFillDoneOp
  refine keeps_ite ?_ hk
  refine State.irq_keeps _ _ (capEnded_keeps _ (capPatch_keeps _ _ _ _ _ (State.set_keeps _ _ ?_)))
  exact ⟨hk.queue, hk.regs, fun x => putCap_drop_wf c _ rfl (hk.mem x)⟩

theorem capTriggerOp_keeps (c written : Nat) {z s : State} (hk : Keeps z s) : Keeps z (capTriggerOp c written s) := by
  unfold capTriggerOp
  repeat' with_reducible (first
    | (intro _) | assumption | apply keeps_ite | apply keeps_foldl | apply keeps_foldl_fst | apply State.putCap_keeps
    | apply State.set_keeps | apply State.setB_keeps | apply State.irq_keeps | simp only [↓keeps_mk] | rfl | split
    | exact Keeps.rfl')

theorem capPosPut_keeps (c k : Nat) (p : Nat × Nat × Bool × Nat) {z s : State} (hk : Keeps z s) : Keeps z
    (capPosPut c k p s) := by
  unfold capPosPut
  repeat' with_reducible (first
    | (intro _) | assumption | apply keeps_ite | apply keeps_foldl | apply keeps_foldl_fst | apply State.set_keeps
    | apply State.setB_keeps | dsimp only | rfl | split | exact Keeps.rfl')

theorem capDoneOp_keeps (c : Nat) (pos : List (Nat × Nat × Bool × Nat)) (taken : List (List LineSamples)) {z s :
    State} (hk : Keeps z s) : Keeps z (capDoneOp c pos taken s) := by
  unfold capDoneOp
  repeat' with_reducible (first
    | (intro _) | assumption | apply keeps_ite | apply keeps_foldl | apply keeps_foldl_fst | apply State.set_keeps
    | apply capPosPut_keeps | apply capEnded_keeps | apply capRecorded_keeps | apply State.irq_keeps | dsimp only
    | rfl | split | exact Keeps.rfl')

theorem capAlarm_keeps (k : Nat) {z s : State} (hk : Keeps z s) : Keeps z (capAlarm k s) := by
  unfold capAlarm
  repeat' with_reducible (first
    | (intro _) | assumption | apply keeps_ite | apply keeps_foldl | apply keeps_foldl_fst | apply State.putCap_keeps
    | simp only [↓keeps_mk] | rfl | split | exact Keeps.rfl')

theorem capCut_keeps (c : Nat) {z s : State} (hk : Keeps z s) : Keeps z (capCut c s) := by
  unfold capCut
  repeat' with_reducible (first
    | (intro _) | assumption | apply keeps_ite | apply keeps_foldl | apply keeps_foldl_fst | apply capRecorded_keeps
    | apply State.draw_keeps | apply capPatch_keeps | dsimp only | rfl | split | exact Keeps.rfl')

theorem capScramble_keeps (c : Nat) {z s : State} (hk : Keeps z s) : Keeps z (capScramble c s) := by
  refine ⟨hk.queue, hk.regs, fun x => ?_⟩
  unfold capScramble
  refine putCap_wf c _ (clear_wf c (s := s) ?_ ?_ ?_ (hk.mem x)) ?_
  all_goals try rfl
  intro e he hi hc
  have ha := capAddr hi hc
  have := (List.mem_filter.mp he).2
  have hb : capOff e.1 < capSize := by unfold capOff capSize; omega
  simp only [Bool.not_eq_true', Bool.and_eq_false_iff, decide_eq_false_iff_not] at this
  omega

theorem capPreempt_keeps {z s : State} (hk : Keeps z s) : Keeps z (capPreempt s) := by
  unfold capPreempt
  repeat' with_reducible (first
    | (intro _) | assumption | apply keeps_ite | apply keeps_foldl | apply keeps_foldl_fst | apply capEnded_keeps
    | apply capScramble_keeps | apply capCut_keeps | apply State.set_keeps | apply State.irq_keeps | dsimp only | rfl
    | split | exact Keeps.rfl')

theorem capPowerLoss_keeps (c : Nat) {z s : State} (hk : Keeps z s) : Keeps z (capPowerLoss c s) := by
  unfold capPowerLoss
  refine State.set_keeps _ _ ⟨hk.queue, hk.regs, fun x => ?_⟩
  refine putCap_wf c _ (clear_wf c (s := s) ?_ ?_ ?_ (hk.mem x)) ?_
  all_goals try rfl
  intro e he hi hc
  have ha := capAddr hi hc
  have := (List.mem_filter.mp he).2
  have hb : capOff e.1 < capSize := by unfold capOff capSize; omega
  simp only [Bool.not_eq_true', Bool.and_eq_false_iff, decide_eq_false_iff_not] at this
  omega

end Sys2Proof.Machine
end

