-- ==== Sys2Proof/Laws/KeepsMemory.lean ====
section
/-!
SUPPORT. The operations of Machine/Memory.lean keep the queue and the canonical forms.
-/

namespace Sys2Proof.Machine

open Sys2Proof

theorem State.putMemWord_keeps (a v : Nat) {z s : State} (hk : Keeps z s) : Keeps z (State.putMemWord s a v) := by
  unfold State.putMemWord
  repeat' with_reducible (first
    | (intro _) | assumption | apply keeps_ite | apply keeps_foldl | apply keeps_foldl_fst | apply State.putByte_keeps
    | dsimp only | rfl | split | exact Keeps.rfl')

theorem State.putWord64_keeps (a v : Nat) {z s : State} (hk : Keeps z s) : Keeps z (State.putWord64 s a v) := by
  unfold State.putWord64
  repeat' with_reducible (first
    | (intro _) | assumption | apply keeps_ite | apply keeps_foldl | apply keeps_foldl_fst | apply State.putByte_keeps
    | dsimp only | rfl | split | exact Keeps.rfl')

theorem State.putClass_keeps (k c : Nat) {z s : State} (hk : Keeps z s) : Keeps z (State.putClass s k c) := by
  unfold State.putClass
  repeat' with_reducible (first
    | (intro _) | assumption | apply keeps_ite | apply keeps_foldl | apply keeps_foldl_fst | simp only [↓keeps_mk]
    | rfl | split | exact Keeps.rfl')

theorem State.putEcc_keeps (a c : Nat) {z s : State} (hk : Keeps z s) : Keeps z (State.putEcc s a c) := by
  unfold State.putEcc
  repeat' with_reducible (first
    | (intro _) | assumption | apply keeps_ite | apply keeps_foldl | apply keeps_foldl_fst
    | apply State.putClass_keeps | dsimp only | rfl | split | exact Keeps.rfl')

theorem eccFresh_keeps (memid n m : Nat) {z s : State} (hk : Keeps z s) : Keeps z (eccFresh memid n m s) := by
  unfold eccFresh
  repeat' with_reducible (first
    | (intro _) | assumption | apply keeps_ite | apply keeps_foldl | apply keeps_foldl_fst | simp only [↓keeps_mk]
    | rfl | split | exact Keeps.rfl')

theorem eccCorrect_keeps (a : Nat) {z s : State} (hk : Keeps z s) : Keeps z (eccCorrect a s) := by
  unfold eccCorrect
  repeat' with_reducible (first
    | (intro _) | assumption | apply keeps_ite | apply keeps_foldl | apply keeps_foldl_fst | apply State.satInc_keeps
    | apply State.putEcc_keeps | apply State.setB_keeps | apply State.irq_keeps | dsimp only | rfl | split
    | exact Keeps.rfl')

theorem nvsNext_keeps {z s : State} (hk : Keeps z s) : Keeps z (nvsNext s) := by
  unfold nvsNext
  repeat' with_reducible (first
    | (intro _) | assumption | apply keeps_ite | apply keeps_foldl | apply keeps_foldl_fst | simp only [↓keeps_mk]
    | rfl | split | exact Keeps.rfl')

theorem nvsGo_keeps {z s : State} (hk : Keeps z s) : Keeps z (nvsGo s) := by
  unfold nvsGo
  repeat' with_reducible (first
    | (intro _) | assumption | apply keeps_ite | apply keeps_foldl | apply keeps_foldl_fst | apply nvsNext_keeps
    | dsimp only | rfl | split | exact Keeps.rfl')

theorem nvsJobPut_keeps (j : NvsJob) {z s : State} (hk : Keeps z s) : Keeps z (nvsJobPut j s) := by
  unfold nvsJobPut
  repeat' with_reducible (first
    | (intro _) | assumption | apply keeps_ite | apply keeps_foldl | apply keeps_foldl_fst | apply nvsGo_keeps
    | simp only [↓keeps_mk] | rfl | split | exact Keeps.rfl')

theorem nvsPut_keeps (writer addr data left : Nat) {z s : State} (hk : Keeps z s) : Keeps z (nvsPut writer addr
    data left s) := by
  unfold nvsPut
  repeat' with_reducible (first
    | (intro _) | assumption | apply keeps_ite | apply keeps_foldl | apply keeps_foldl_fst | apply nvsJobPut_keeps
    | simp only [↓keeps_mk] | rfl | split | exact Keeps.rfl')

theorem nvsClear_keeps (addr left : Nat) {z s : State} (hk : Keeps z s) : Keeps z (nvsClear addr left s) := by
  unfold nvsClear
  repeat' with_reducible (first
    | (intro _) | assumption | apply keeps_ite | apply keeps_foldl | apply keeps_foldl_fst | apply nvsJobPut_keeps
    | simp only [↓keeps_mk] | rfl | split | exact Keeps.rfl')

theorem recordPut_keeps (writer addr left : Nat) (r : GranaryRecord) {z s : State} (hk : Keeps z s) : Keeps z
    (recordPut writer addr left r s) := by
  unfold recordPut
  repeat' with_reducible (first
    | (intro _) | assumption | apply keeps_ite | apply keeps_foldl | apply keeps_foldl_fst | apply nvsJobPut_keeps
    | simp only [↓keeps_mk] | rfl | split | exact Keeps.rfl')

theorem repairsPut_keeps (rs : List Repair) (n left : Nat) {z s : State} (hk : Keeps z s) : Keeps z (repairsPut rs
    n left s) := by
  unfold repairsPut
  repeat' with_reducible (first
    | (intro _) | assumption | apply keeps_ite | apply keeps_foldl | apply keeps_foldl_fst | apply recordPut_keeps
    | simp only [↓keeps_mk] | rfl | split | exact Keeps.rfl')

theorem repairsFull_keeps (rs : List Repair) {z s : State} (hk : Keeps z s) : Keeps z (repairsFull rs s) := by
  unfold repairsFull
  repeat' with_reducible (first
    | (intro _) | assumption | apply keeps_ite | apply keeps_foldl | apply keeps_foldl_fst | apply State.setB_keeps
    | apply State.irq_keeps | simp only [↓keeps_mk] | rfl | split | exact Keeps.rfl')

theorem repairRecord_keeps (r : Repair) {z s : State} (hk : Keeps z s) : Keeps z (repairRecord r s) := by
  unfold repairRecord
  repeat' with_reducible (first
    | (intro _) | assumption | apply keeps_ite | apply keeps_foldl | apply keeps_foldl_fst | apply repairsPut_keeps
    | apply repairsFull_keeps | dsimp only | rfl | split | exact Keeps.rfl')

theorem retireStore_keeps (n : Nat) {z s : State} (hk : Keeps z s) : Keeps z (retireStore n s) := by
  unfold retireStore
  repeat' with_reducible (first
    | (intro _) | assumption | apply keeps_ite | apply keeps_foldl | apply keeps_foldl_fst | apply repairRecord_keeps
    | dsimp only | rfl | split | exact Keeps.rfl')

theorem bootPut_keeps (b : BootRecord) {z s : State} (hk : Keeps z s) : Keeps z (bootPut b s) := by
  unfold bootPut
  repeat' with_reducible (first
    | (intro _) | assumption | apply keeps_ite | apply keeps_foldl | apply keeps_foldl_fst | apply recordPut_keeps
    | simp only [↓keeps_mk] | rfl | split | exact Keeps.rfl')

theorem storePut_keeps {z s : State} (hk : Keeps z s) : Keeps z (storePut s) := by
  unfold storePut
  repeat' with_reducible (first
    | (intro _) | assumption | apply keeps_ite | apply keeps_foldl | apply keeps_foldl_fst | apply recordPut_keeps
    | simp only [↓keeps_mk] | rfl | split | exact Keeps.rfl')

theorem recordDone_keeps (r : GranaryRecord) {z s : State} (hk : Keeps z s) : Keeps z (recordDone r s) := by
  unfold recordDone
  repeat' with_reducible (first
    | (intro _) | assumption | apply keeps_ite | apply keeps_foldl | apply keeps_foldl_fst | apply State.set_keeps
    | apply State.setB_keeps | simp only [↓keeps_mk] | rfl | split | exact Keeps.rfl')

theorem nvsDropFwc_keeps {z s : State} (hk : Keeps z s) : Keeps z (nvsDropFwc s) := by
  unfold nvsDropFwc
  repeat' with_reducible (first
    | (intro _) | assumption | apply keeps_ite | apply keeps_foldl | apply keeps_foldl_fst | simp only [↓keeps_mk]
    | rfl | split | exact Keeps.rfl')

theorem nvsStore_keeps {z s : State} (hk : Keeps z s) : Keeps z (nvsStore s) := by
  unfold nvsStore
  repeat' with_reducible (first
    | (intro _) | assumption | apply keeps_ite | apply keeps_foldl | apply keeps_foldl_fst
    | apply State.putWord64_keeps | apply recordDone_keeps | apply State.putEcc_keeps | apply State.draw_keeps
    | dsimp only | rfl | split | exact Keeps.rfl')

theorem jobRest_keeps (j : NvsJob) {z s : State} (hk : Keeps z s) : Keeps z (jobRest j s) := by
  unfold jobRest
  repeat' with_reducible (first
    | (intro _) | assumption | apply keeps_ite | apply keeps_foldl | apply keeps_foldl_fst | apply nvsNext_keeps
    | simp only [↓keeps_mk] | rfl | split | exact Keeps.rfl')

theorem nvsCmdEnd_keeps (state err : Nat) {z s : State} (hk : Keeps z s) : Keeps z (nvsCmdEnd state err s) := by
  unfold nvsCmdEnd
  repeat' with_reducible (first
    | (intro _) | assumption | apply keeps_ite | apply keeps_foldl | apply keeps_foldl_fst | apply State.set_keeps
    | apply State.irq_keeps | dsimp only | rfl | split | exact Keeps.rfl')

theorem nvsFail_keeps (off : Nat) {z s : State} (hk : Keeps z s) : Keeps z (nvsFail off s) := by
  unfold nvsFail
  repeat' with_reducible (first
    | (intro _) | assumption | apply keeps_ite | apply keeps_foldl | apply keeps_foldl_fst | apply State.satInc_keeps
    | apply State.irq_keeps | apply State.event_keeps | dsimp only | rfl | split | exact Keeps.rfl')

theorem nvsWordDoneOp_keeps (ok : Bool) {z s : State} (hk : Keeps z s) : Keeps z (nvsWordDoneOp ok s) := by
  unfold nvsWordDoneOp
  repeat' with_reducible (first
    | (intro _) | assumption | apply keeps_ite | apply keeps_foldl | apply keeps_foldl_fst | apply State.count_keeps
    | apply nvsFail_keeps | apply jobRest_keeps | apply nvsNext_keeps | apply nvsCmdEnd_keeps | apply nvsStore_keeps
    | simp only [↓keeps_mk] | rfl | split | exact Keeps.rfl')

theorem nvsCommand_keeps (count : Nat) {z s : State} (hk : Keeps z s) : Keeps z (nvsCommand count s) := by
  unfold nvsCommand
  repeat' with_reducible (first
    | (intro _) | assumption | apply keeps_ite | apply keeps_foldl | apply keeps_foldl_fst
    | apply State.conflict_keeps | apply State.set_keeps | apply nvsPut_keeps | dsimp only | rfl | split
    | exact Keeps.rfl')

theorem nvsCmdWriteOp_keeps {z s : State} (hk : Keeps z s) : Keeps z (nvsCmdWriteOp s) := by
  unfold nvsCmdWriteOp
  repeat' with_reducible (first
    | (intro _) | assumption | apply keeps_ite | apply keeps_foldl | apply keeps_foldl_fst | apply nvsCommand_keeps
    | dsimp only | rfl | split | exact Keeps.rfl')

theorem nvsCmdFillOp_keeps (count : Nat) {z s : State} (hk : Keeps z s) : Keeps z (nvsCmdFillOp count s) := by
  unfold nvsCmdFillOp
  repeat' with_reducible (first
    | (intro _) | assumption | apply keeps_ite | apply keeps_foldl | apply keeps_foldl_fst | apply nvsCommand_keeps
    | dsimp only | rfl | split | exact Keeps.rfl')

end Sys2Proof.Machine
end

