-- ==== Sys2Proof/Laws/KeepsLanes.lean ====
section
/-!
SUPPORT. The operations of Machine/Lanes.lean keep the queue and the canonical forms.
-/

namespace Sys2Proof.Machine

open Sys2Proof

theorem laneEnableOp_keeps (l : Nat) {z s : State} (hk : Keeps z s) : Keeps z (laneEnableOp l s) := by
  unfold laneEnableOp
  repeat' with_reducible (first
    | (intro _) | assumption | apply keeps_ite | apply keeps_foldl | apply keeps_foldl_fst | apply State.setB_keeps
    | apply State.putLp_keeps | apply autoRaise_keeps | apply considerStart_keeps | apply sdSf_keeps
    | simp only [↓keeps_mk] | rfl | split | exact Keeps.rfl')

theorem laneDisableOp_keeps (l : Nat) {z s : State} (hk : Keeps z s) : Keeps z (laneDisableOp l s) := by
  unfold laneDisableOp
  repeat' with_reducible (first
    | (intro _) | assumption | apply keeps_ite | apply keeps_foldl | apply keeps_foldl_fst | apply State.setB_keeps
    | apply State.putLp_keeps | apply toOff_keeps | simp only [↓keeps_mk] | rfl | split | exact Keeps.rfl')

theorem laneStartOp_keeps (l : Nat) {z s : State} (hk : Keeps z s) : Keeps z (laneStartOp l s) := by
  unfold laneStartOp
  repeat' with_reducible (first
    | (intro _) | assumption | apply keeps_ite | apply keeps_foldl | apply keeps_foldl_fst | apply startLane_keeps
    | dsimp only | rfl | split | exact Keeps.rfl')

theorem laneStartDoneOp_keeps (l : Nat) {z s : State} (hk : Keeps z s) : Keeps z (laneStartDoneOp l s) := by
  unfold laneStartDoneOp
  repeat' with_reducible (first
    | (intro _) | assumption | apply keeps_ite | apply keeps_foldl | apply keeps_foldl_fst | apply memoriesUse_keeps
    | apply State.setB_keeps | apply State.putLp_keeps | apply State.irq_keeps | simp only [↓keeps_mk] | rfl | split
    | exact Keeps.rfl')

theorem laneStopDoneOp_keeps (l : Nat) {z s : State} (hk : Keeps z s) : Keeps z (laneStopDoneOp l s) := by
  unfold laneStopDoneOp
  repeat' with_reducible (first
    | (intro _) | assumption | apply keeps_ite | apply keeps_foldl | apply keeps_foldl_fst | apply clockCounts_keeps
    | apply considerStart_keeps | apply State.putLp_keeps | apply startLane_keeps | simp only [↓keeps_mk] | rfl
    | split | exact Keeps.rfl')

theorem rateChangeOp_keeps (l : Nat) (half : Bool) {z s : State} (hk : Keeps z s) : Keeps z (rateChangeOp l half s)
    := by
  unfold rateChangeOp
  repeat' with_reducible (first
    | (intro _) | assumption | apply keeps_ite | apply keeps_foldl | apply keeps_foldl_fst | apply cfgRefresh_keeps
    | apply State.setB_keeps | apply State.putTx_keeps | apply enterState_keeps | apply autoRaise_keeps
    | apply toOff_keeps | apply considerStart_keeps | simp only [↓keeps_mk] | rfl | split | exact Keeps.rfl')

theorem modeChangeOp_keeps (l mode : Nat) {z s : State} (hk : Keeps z s) : Keeps z (modeChangeOp l mode s) := by
  unfold modeChangeOp
  repeat' with_reducible (first
    | (intro _) | assumption | apply keeps_ite | apply keeps_foldl | apply keeps_foldl_fst
    | apply State.conflict_keeps | apply State.set_keeps | apply enterState_keeps | dsimp only | rfl | split
    | exact Keeps.rfl')

theorem assistChangeOp_keeps (l : Nat) (on : Bool) {z s : State} (hk : Keeps z s) : Keeps z (assistChangeOp l on s)
    := by
  unfold assistChangeOp
  repeat' with_reducible (first
    | (intro _) | assumption | apply keeps_ite | apply keeps_foldl | apply keeps_foldl_fst | apply State.setB_keeps
    | apply State.putRx_keeps | simp only [↓keeps_mk] | rfl | split | exact Keeps.rfl')

theorem assistRealignOp_keeps (l : Nat) {z s : State} (hk : Keeps z s) : Keeps z (assistRealignOp l s) := by
  unfold assistRealignOp
  repeat' with_reducible (first
    | (intro _) | assumption | apply keeps_ite | apply keeps_foldl | apply keeps_foldl_fst | apply State.putRx_keeps
    | simp only [↓keeps_mk] | rfl | split | exact Keeps.rfl')

theorem dimReqSetOp_keeps (l : Nat) {z s : State} (hk : Keeps z s) : Keeps z (dimReqSetOp l s) := by
  unfold dimReqSetOp
  repeat' with_reducible (first
    | (intro _) | assumption | apply keeps_ite | apply keeps_foldl | apply keeps_foldl_fst | apply State.setB_keeps
    | dsimp only | rfl | split | exact Keeps.rfl')

theorem dimReqClearOp_keeps (l : Nat) {z s : State} (hk : Keeps z s) : Keeps z (dimReqClearOp l s) := by
  unfold dimReqClearOp
  repeat' with_reducible (first
    | (intro _) | assumption | apply keeps_ite | apply keeps_foldl | apply keeps_foldl_fst | apply autoRaise_keeps
    | apply State.setB_keeps | dsimp only | rfl | split | exact Keeps.rfl')

theorem slicePut_keeps (sh n : Nat) (retired : Bool) {z s : State} (hk : Keeps z s) : Keeps z (slicePut sh n
    retired s) := by
  unfold slicePut
  repeat' with_reducible (first
    | (intro _) | assumption | apply keeps_ite | apply keeps_foldl | apply keeps_foldl_fst | apply State.setB_keeps
    | apply State.irq_keeps | apply State.event_keeps | dsimp only | rfl | split | exact Keeps.rfl')

theorem spareRefresh_keeps (sh : Nat) {z s : State} (hk : Keeps z s) : Keeps z (spareRefresh sh s) := by
  unfold spareRefresh
  repeat' with_reducible (first
    | (intro _) | assumption | apply keeps_ite | apply keeps_foldl | apply keeps_foldl_fst | apply State.setB_keeps
    | dsimp only | rfl | split | exact Keeps.rfl')

theorem sliceStates_keeps (l : Nat) {z s : State} (hk : Keeps z s) : Keeps z (sliceStates l s) := by
  unfold sliceStates
  repeat' with_reducible (first
    | (intro _) | assumption | apply keeps_ite | apply keeps_foldl | apply keeps_foldl_fst | apply State.set_keeps
    | apply State.setB_keeps | apply State.putRx_keeps | simp only [↓keeps_mk] | rfl | split | exact Keeps.rfl')

theorem slicePerf_keeps (l : Nat) {z s : State} (hk : Keeps z s) : Keeps z (slicePerf l s) := by
  unfold slicePerf
  repeat' with_reducible (first
    | (intro _) | assumption | apply keeps_ite | apply keeps_foldl | apply keeps_foldl_fst | apply State.set_keeps
    | dsimp only | rfl | split | exact Keeps.rfl')

theorem sliceCounters_keeps (l : Nat) {z s : State} (hk : Keeps z s) : Keeps z (sliceCounters l s) := by
  unfold sliceCounters
  repeat' with_reducible (first
    | (intro _) | assumption | apply keeps_ite | apply keeps_foldl | apply keeps_foldl_fst | apply State.set_keeps
    | dsimp only | rfl | split | exact Keeps.rfl')

theorem sliceReassignOp_keeps (l n : Nat) {z s : State} (hk : Keeps z s) : Keeps z (sliceReassignOp l n s) := by
  unfold sliceReassignOp
  repeat' with_reducible (first
    | (intro _) | assumption | apply keeps_ite | apply keeps_foldl | apply keeps_foldl_fst | apply retireStore_keeps
    | apply slicePut_keeps | apply spareRefresh_keeps | apply State.set_keeps | apply windowClear_keeps
    | apply sliceStates_keeps | apply slicePerf_keeps | apply sliceCounters_keeps | apply txHold_keeps
    | apply enterState_keeps | apply considerStart_keeps | dsimp only | rfl | split | exact Keeps.rfl')

theorem converterFailedOp_keeps (l : Nat) (c : Converter) {z s : State} (hk : Keeps z s) : Keeps z
    (converterFailedOp l c s) := by
  unfold converterFailedOp
  repeat' with_reducible (first
    | (intro _) | assumption | apply keeps_ite | apply keeps_foldl | apply keeps_foldl_fst | apply cdrDrop_keeps
    | apply State.setB_keeps | apply toFault_keeps | apply considerStart_keeps | dsimp only | rfl | split
    | exact Keeps.rfl')

theorem laneCandleOp_keeps (l : Nat) {z s : State} (hk : Keeps z s) : Keeps z (laneCandleOp l s) := by
  unfold laneCandleOp
  repeat' with_reducible (first
    | (intro _) | assumption | apply keeps_ite | apply keeps_foldl | apply keeps_foldl_fst | apply enterState_keeps
    | dsimp only | rfl | split | exact Keeps.rfl')

theorem laneFullOp_keeps (l : Nat) {z s : State} (hk : Keeps z s) : Keeps z (laneFullOp l s) := by
  unfold laneFullOp
  repeat' with_reducible (first
    | (intro _) | assumption | apply keeps_ite | apply keeps_foldl | apply keeps_foldl_fst | apply enterState_keeps
    | dsimp only | rfl | split | exact Keeps.rfl')

theorem pllLockOp_keeps (sh : Nat) (host : Bool) {z s : State} (hk : Keeps z s) : Keeps z (pllLockOp sh host s) := by
  unfold pllLockOp
  repeat' with_reducible (first
    | (intro _) | assumption | apply keeps_ite | apply keeps_foldl | apply keeps_foldl_fst | apply State.setB_keeps
    | dsimp only | rfl | split | exact Keeps.rfl')

theorem pllLose_keeps (sh : Nat) (host : Bool) {z s : State} (hk : Keeps z s) : Keeps z (pllLose sh host s) := by
  unfold pllLose
  repeat' with_reducible (first
    | (intro _) | assumption | apply keeps_ite | apply keeps_foldl | apply keeps_foldl_fst | apply State.setB_keeps
    | apply State.signal_keeps | apply enterState_keeps | dsimp only | rfl | split | exact Keeps.rfl')

theorem pllLossOfLockOp_keeps (sh : Nat) (host : Bool) {z s : State} (hk : Keeps z s) : Keeps z (pllLossOfLockOp sh
    host s) := by
  unfold pllLossOfLockOp
  repeat' with_reducible (first
    | (intro _) | assumption | apply keeps_ite | apply keeps_foldl | apply keeps_foldl_fst | apply pllLose_keeps
    | dsimp only | rfl | split | exact Keeps.rfl')

end Sys2Proof.Machine
end

