-- ==== Sys2Proof/Laws/KeepsFaost.lean ====
section
/-!
SUPPORT. The operations of Machine/Faost.lean keep the queue and the canonical forms.
-/

namespace Sys2Proof.Machine

open Sys2Proof

theorem State.putQueue_keeps (q : Nat) (x : List QEntry) {z s : State} (hk : Keeps z s) : Keeps z (State.putQueue s
    q x) := by
  unfold State.putQueue
  repeat' with_reducible (first
    | (intro _) | assumption | apply keeps_ite | apply keeps_foldl | apply keeps_foldl_fst | simp only [↓keeps_mk]
    | rfl | split | exact Keeps.rfl')

theorem headerReport_keeps (l b1 b2 b3 : Nat) {z s : State} (hk : Keeps z s) : Keeps z (headerReport l b1 b2 b3 s)
    := by
  unfold headerReport
  repeat' with_reducible (first
    | (intro _) | assumption | apply keeps_ite | apply keeps_foldl | apply keeps_foldl_fst | apply State.putLink_keeps
    | apply State.set_keeps | simp only [↓keeps_mk] | rfl | split | exact Keeps.rfl')

theorem roleRefresh_keeps (l : Nat) {z s : State} (hk : Keeps z s) : Keeps z (roleRefresh l s) := by
  unfold roleRefresh
  repeat' with_reducible (first
    | (intro _) | assumption | apply keeps_ite | apply keeps_foldl | apply keeps_foldl_fst | apply State.setB_keeps
    | apply State.irq_keeps | apply State.event_keeps | dsimp only | rfl | split | exact Keeps.rfl')

theorem headerAccept_keeps (l b1 b2 b3 : Nat) {z s : State} (hk : Keeps z s) : Keeps z (headerAccept l b1 b2 b3 s)
    := by
  unfold headerAccept
  repeat' with_reducible (first
    | (intro _) | assumption | apply keeps_ite | apply keeps_foldl | apply keeps_foldl_fst | apply headerReport_keeps
    | apply linkDown_keeps | apply State.setB_keeps | apply roleRefresh_keeps | apply State.irq_keeps | dsimp only
    | rfl | split | exact Keeps.rfl')

theorem headerIn_keeps (l b1 b2 b3 : Nat) {z s : State} (hk : Keeps z s) : Keeps z (headerIn l b1 b2 b3 s) := by
  unfold headerIn
  repeat' with_reducible (first
    | (intro _) | assumption | apply keeps_ite | apply keeps_foldl | apply keeps_foldl_fst | apply State.putLink_keeps
    | apply headerAccept_keeps | simp only [↓keeps_mk] | rfl | split | exact Keeps.rfl')

theorem authCheck_keeps (l : Nat) (cells : List (List Nat)) {z s t : State} (hk : Keeps z s)
    (he : authCheck l cells s = some t) : Keeps z t := by
  unfold authCheck at he
  dsimp only at he
  split at he
  · cases he; exact State.putSession_keeps _ _ hk
  · cases he

theorem State.putReasm_keeps (l : Nat) (time : Bool) (r : Option Reassembly) {z s : State} (hk : Keeps z s) : Keeps
    z (State.putReasm s l time r) := by
  unfold State.putReasm
  repeat' with_reducible (first
    | (intro _) | assumption | apply keeps_ite | apply keeps_foldl | apply keeps_foldl_fst | apply State.putLink_keeps
    | simp only [↓keeps_mk] | rfl | split | exact Keeps.rfl')

theorem reasmDiscard_keeps (l : Nat) (time : Bool) {z s : State} (hk : Keeps z s) : Keeps z (reasmDiscard l time s)
    := by
  unfold reasmDiscard
  repeat' with_reducible (first
    | (intro _) | assumption | apply keeps_ite | apply keeps_foldl | apply keeps_foldl_fst | apply State.satInc_keeps
    | apply State.putReasm_keeps | dsimp only | rfl | split | exact Keeps.rfl')

theorem messageComplete_keeps (l : Nat) (r : Reassembly) {z s : State} (hk : Keeps z s) : Keeps z (messageComplete
    l r s) := by
  unfold messageComplete
  repeat' with_reducible (first
    | (intro _) | assumption | apply keeps_ite | apply keeps_foldl | apply keeps_foldl_fst | apply State.putLink_keeps
    | apply State.satInc_keeps | apply State.irq_keeps | apply State.event_keeps
    | refine authCheck_keeps _ _ ?_ (by assumption) | simp only [↓keeps_mk] | rfl | split | exact Keeps.rfl')

theorem cellAccept_keeps (l : Nat) (b : List Nat) {z s : State} (hk : Keeps z s) : Keeps z (cellAccept l b s) := by
  unfold cellAccept
  repeat' with_reducible (first
    | (intro _) | assumption | apply keeps_ite | apply keeps_foldl | apply keeps_foldl_fst
    | apply messageComplete_keeps | apply State.putReasm_keeps | apply reasmDiscard_keeps | simp only [↓keeps_mk]
    | rfl | split | exact Keeps.rfl')

theorem faostCellOp_keeps (l : Nat) (bytes : List Nat) {z s : State} (hk : Keeps z s) : Keeps z (faostCellOp l
    bytes s) := by
  unfold faostCellOp
  repeat' with_reducible (first
    | (intro _) | assumption | apply keeps_ite | apply keeps_foldl | apply keeps_foldl_fst | apply cellAccept_keeps
    | apply State.count_keeps | apply reasmDiscard_keeps | apply State.satInc_keeps | dsimp only | rfl | split
    | exact Keeps.rfl')

theorem reassemblyTimeoutOp_keeps (l : Nat) (time : Bool) {z s : State} (hk : Keeps z s) : Keeps z
    (reassemblyTimeoutOp l time s) := by
  unfold reassemblyTimeoutOp
  repeat' with_reducible (first
    | (intro _) | assumption | apply keeps_ite | apply keeps_foldl | apply keeps_foldl_fst | apply reasmDiscard_keeps
    | dsimp only | rfl | split | exact Keeps.rfl')

theorem takeMessage_keeps (l : Nat) (ok : Nat → Bool) {z s t : State} {m : FaostMsg} (hk : Keeps z s)
    (he : takeMessage l ok s = some (m, t)) : Keeps z t := by
  unfold takeMessage at he
  dsimp only at he
  split at he
  · cases he; exact State.putLink_keeps _ _ hk
  · cases he

theorem fifoPut_keeps (m : FaostMsg) {z s : State} (hk : Keeps z s) : Keeps z (fifoPut m s) := by
  unfold fifoPut
  repeat' with_reducible (first
    | (intro _) | assumption | apply keeps_ite | apply keeps_foldl | apply keeps_foldl_fst | apply State.setB_keeps
    | apply State.irq_keeps | apply State.satInc_keeps | simp only [↓keeps_mk] | rfl | split | exact Keeps.rfl')

theorem deliverFifo_keeps (l : Nat) (ok : Nat → Bool) {z s : State} (hk : Keeps z s) : Keeps z (deliverFifo l ok s)
    := by
  unfold deliverFifo
  repeat' with_reducible (first
    | (intro _) | assumption | apply keeps_ite | apply keeps_foldl | apply keeps_foldl_fst | apply fifoPut_keeps
    | refine takeMessage_keeps _ _ ?_ (by assumption) | dsimp only | rfl | split | exact Keeps.rfl')

theorem regRdRspOp_keeps (l : Nat) {z s : State} (hk : Keeps z s) : Keeps z (regRdRspOp l s) := by
  unfold regRdRspOp
  repeat' with_reducible (first
    | (intro _) | assumption | apply keeps_ite | apply keeps_foldl | apply keeps_foldl_fst | apply deliverFifo_keeps
    | dsimp only | rfl | split | exact Keeps.rfl')

theorem regWrRspOp_keeps (l : Nat) {z s : State} (hk : Keeps z s) : Keeps z (regWrRspOp l s) := by
  unfold regWrRspOp
  repeat' with_reducible (first
    | (intro _) | assumption | apply keeps_ite | apply keeps_foldl | apply keeps_foldl_fst | apply deliverFifo_keeps
    | dsimp only | rfl | split | exact Keeps.rfl')

theorem appOp_keeps (l : Nat) {z s : State} (hk : Keeps z s) : Keeps z (appOp l s) := by
  unfold appOp
  repeat' with_reducible (first
    | (intro _) | assumption | apply keeps_ite | apply keeps_foldl | apply keeps_foldl_fst | apply deliverFifo_keeps
    | dsimp only | rfl | split | exact Keeps.rfl')

theorem levelReportOp_keeps (l : Nat) {z s : State} (hk : Keeps z s) : Keeps z (levelReportOp l s) := by
  unfold levelReportOp
  repeat' with_reducible (first
    | (intro _) | assumption | apply keeps_ite | apply keeps_foldl | apply keeps_foldl_fst | apply State.putLink_keeps
    | refine takeMessage_keeps _ _ ?_ (by assumption) | simp only [↓keeps_mk] | rfl | split | exact Keeps.rfl')

theorem rxPopOp_keeps {z s : State} (hk : Keeps z s) : Keeps z (rxPopOp s) := by
  unfold rxPopOp
  repeat' with_reducible (first
    | (intro _) | assumption | apply keeps_ite | apply keeps_foldl | apply keeps_foldl_fst | simp only [↓keeps_mk]
    | rfl | split | exact Keeps.rfl')

theorem rxFlushOp_keeps {z s : State} (hk : Keeps z s) : Keeps z (rxFlushOp s) := by
  unfold rxFlushOp
  repeat' with_reducible (first
    | (intro _) | assumption | apply keeps_ite | apply keeps_foldl | apply keeps_foldl_fst | simp only [↓keeps_mk]
    | rfl | split | exact Keeps.rfl')

theorem outPut_keeps (l : Nat) (m : OutMsg) {z s : State} (hk : Keeps z s) : Keeps z (outPut l m s) := by
  unfold outPut
  repeat' with_reducible (first
    | (intro _) | assumption | apply keeps_ite | apply keeps_foldl | apply keeps_foldl_fst | apply State.putLink_keeps
    | simp only [↓keeps_mk] | rfl | split | exact Keeps.rfl')

theorem remoteDeny_keeps (l : Nat) {z s : State} (hk : Keeps z s) : Keeps z (remoteDeny l s) := by
  unfold remoteDeny
  repeat' with_reducible (first
    | (intro _) | assumption | apply keeps_ite | apply keeps_foldl | apply keeps_foldl_fst | apply State.satInc_keeps
    | apply State.irq_keeps | apply State.event_keeps | dsimp only | rfl | split | exact Keeps.rfl')

theorem remoteRequest_keeps (l : Nat) (write : Bool) {z s : State} (hk : Keeps z s) : Keeps z (remoteRequest l
    write s) := by
  unfold remoteRequest
  repeat' with_reducible (first
    | (intro _) | assumption | apply keeps_ite | apply keeps_foldl | apply keeps_foldl_fst | apply remoteDeny_keeps
    | apply outPut_keeps | refine takeMessage_keeps _ _ ?_ (by assumption) | simp only [↓keeps_mk] | rfl | split
    | exact Keeps.rfl')

theorem regRdReqOp_keeps (l : Nat) {z s : State} (hk : Keeps z s) : Keeps z (regRdReqOp l s) := by
  unfold regRdReqOp
  repeat' with_reducible (first
    | (intro _) | assumption | apply keeps_ite | apply keeps_foldl | apply keeps_foldl_fst | apply remoteRequest_keeps
    | dsimp only | rfl | split | exact Keeps.rfl')

theorem regWrReqOp_keeps (l : Nat) {z s : State} (hk : Keeps z s) : Keeps z (regWrReqOp l s) := by
  unfold regWrReqOp
  repeat' with_reducible (first
    | (intro _) | assumption | apply keeps_ite | apply keeps_foldl | apply keeps_foldl_fst | apply remoteRequest_keeps
    | dsimp only | rfl | split | exact Keeps.rfl')

theorem tsPut_keeps (e : TsEntry) {z s : State} (hk : Keeps z s) : Keeps z (tsPut e s) := by
  unfold tsPut
  repeat' with_reducible (first
    | (intro _) | assumption | apply keeps_ite | apply keeps_foldl | apply keeps_foldl_fst | apply State.setB_keeps
    | apply State.irq_keeps | apply State.satInc_keeps | simp only [↓keeps_mk] | rfl | split | exact Keeps.rfl')

theorem tsReport_keeps (e : QEntry) (lane status sfc time : Nat) {z s : State} (hk : Keeps z s) : Keeps z (tsReport
    e lane status sfc time s) := by
  unfold tsReport
  repeat' with_reducible (first
    | (intro _) | assumption | apply keeps_ite | apply keeps_foldl | apply keeps_foldl_fst | apply tsPut_keeps
    | simp only [↓keeps_mk] | rfl | split | exact Keeps.rfl')

theorem msgTxPushOp_keeps (word : Nat) {z s : State} (hk : Keeps z s) : Keeps z (msgTxPushOp word s) := by
  unfold msgTxPushOp
  repeat' with_reducible (first
    | (intro _) | assumption | apply keeps_ite | apply keeps_foldl | apply keeps_foldl_fst | apply State.set_keeps
    | apply State.putQueue_keeps | simp only [↓keeps_mk] | rfl | split | exact Keeps.rfl')

theorem queueFlush_keeps (q : Nat) {z s : State} (hk : Keeps z s) : Keeps z (queueFlush q s) := by
  unfold queueFlush
  repeat' with_reducible (first
    | (intro _) | assumption | apply keeps_ite | apply keeps_foldl | apply keeps_foldl_fst | apply tsReport_keeps
    | apply State.putQueue_keeps | dsimp only | rfl | split | exact Keeps.rfl')

theorem msgQFlushOp_keeps (qs : Nat) {z s : State} (hk : Keeps z s) : Keeps z (msgQFlushOp qs s) := by
  unfold msgQFlushOp
  repeat' with_reducible (first
    | (intro _) | assumption | apply keeps_ite | apply keeps_foldl | apply keeps_foldl_fst | apply queueFlush_keeps
    | dsimp only | rfl | split | exact Keeps.rfl')

theorem msgAlarm_keeps (k : Nat) {z s : State} (hk : Keeps z s) : Keeps z (msgAlarm k s) := by
  unfold msgAlarm
  repeat' with_reducible (first
    | (intro _) | assumption | apply keeps_ite | apply keeps_foldl | apply keeps_foldl_fst
    | apply State.putQueue_keeps | simp only [↓keeps_mk] | rfl | split | exact Keeps.rfl')

theorem dropLate_keeps (l n q : Nat) {z s : State} (hk : Keeps z s) : Keeps z (dropLate l n q s) := by
  induction n generalizing s with
  | zero => exact hk
  | succ n ih =>
    unfold dropLate
    repeat' with_reducible (first
    | apply ih | (intro _) | assumption | apply keeps_ite | apply keeps_foldl | apply keeps_foldl_fst
    | apply tsReport_keeps | apply State.putQueue_keeps | apply State.irq_keeps | apply State.satInc_keeps
    | dsimp only | rfl | split | exact Keeps.rfl')

theorem buildCells_keeps (l type : Nat) (auth late : Bool) (payload : List Nat) {z s : State} (hk : Keeps z s) :
    Keeps z (buildCells l type auth late payload s).2 := by
  unfold buildCells
  repeat' with_reducible (first
    | (intro _) | assumption | apply keeps_ite | apply keeps_foldl | apply keeps_foldl_fst
    | apply State.putSession_keeps | simp only [↓keeps_mk] | rfl | split | exact Keeps.rfl')

theorem buildTime_keeps (l sfc b : Nat) (auth : Bool) {z s : State} (hk : Keeps z s) : Keeps z (buildTime l sfc b
    auth s).2 := by
  unfold buildTime
  repeat' with_reducible (first
    | (intro _) | assumption | apply keeps_ite | apply keeps_foldl | apply keeps_foldl_fst | apply State.putLink_keeps
    | apply buildCells_keeps | simp only [↓keeps_mk] | rfl | split | exact Keeps.rfl')

theorem startEntry_keeps (l sfc b q : Nat) (e : QEntry) (late : Option Nat) {z s : State} (hk : Keeps z s) : Keeps
    z (startEntry l sfc b q e late s).2 := by
  unfold startEntry
  repeat' with_reducible (first
    | (intro _) | assumption | apply keeps_ite | apply keeps_foldl | apply keeps_foldl_fst
    | apply State.putQueue_keeps | apply buildCells_keeps | apply State.satInc_keeps | apply tsReport_keeps
    | apply State.irq_keeps | dsimp only | rfl | split | exact Keeps.rfl')

theorem startQueues_keeps (l c sfc b n : Nat) {z s : State} (hk : Keeps z s) :
    Keeps z (startQueues l c sfc b n s).2 := by
  induction n generalizing s with
  | zero => exact hk
  | succ n ih =>
    unfold startQueues
    repeat' with_reducible (first
    | apply ih | (intro _) | assumption | apply keeps_ite | apply keeps_foldl | apply keeps_foldl_fst
    | apply tsReport_keeps | apply State.putQueue_keeps | apply startEntry_keeps | dsimp only | rfl | split
    | exact Keeps.rfl')

theorem startOutbox_keeps (l : Nat) {z s : State} (hk : Keeps z s) : Keeps z (startOutbox l s).2.2 := by
  unfold startOutbox
  repeat' with_reducible (first
    | (intro _) | assumption | apply keeps_ite | apply keeps_foldl | apply keeps_foldl_fst | apply State.putLink_keeps
    | apply buildCells_keeps | simp only [↓keeps_mk] | rfl | split | exact Keeps.rfl')

theorem remoteSent_keeps {z s : State} (hk : Keeps z s) : Keeps z (remoteSent s) := by
  unfold remoteSent
  repeat' with_reducible (first
    | (intro _) | assumption | apply keeps_ite | apply keeps_foldl | apply keeps_foldl_fst | simp only [↓keeps_mk]
    | rfl | split | exact Keeps.rfl')

theorem emitCell_keeps (l c sfc : Nat) (cell : List Nat) {z s : State} (hk : Keeps z s) : Keeps z (emitCell l c sfc
    cell s) := by
  unfold emitCell
  repeat' with_reducible (first
    | (intro _) | assumption | apply keeps_ite | apply keeps_foldl | apply keeps_foldl_fst | apply State.count_keeps
    | apply State.putLink_keeps | apply State.putTx_keeps | simp only [↓keeps_mk] | rfl | split | exact Keeps.rfl')

theorem sendNext_keeps (l c sfc : Nat) {z s : State} (hk : Keeps z s) : Keeps z (sendNext l c sfc s) := by
  unfold sendNext
  repeat' with_reducible (first
    | (intro _) | assumption | apply keeps_ite | apply keeps_foldl | apply keeps_foldl_fst | apply State.putLink_keeps
    | apply emitCell_keeps | apply remoteSent_keeps | simp only [↓keeps_mk] | rfl | split | exact Keeps.rfl')

theorem beginMessage_keeps (l c sfc : Nat) (cells : List (List Nat)) (remote : Bool) {z s : State} (hk : Keeps z s)
    : Keeps z (beginMessage l c sfc cells remote s) := by
  unfold beginMessage
  repeat' with_reducible (first
    | (intro _) | assumption | apply keeps_ite | apply keeps_foldl | apply keeps_foldl_fst | apply sendNext_keeps
    | apply State.putLink_keeps | simp only [↓keeps_mk] | rfl | split | exact Keeps.rfl')

theorem fillSlot_keeps (l c sfc b : Nat) {z s : State} (hk : Keeps z s) : Keeps z (fillSlot l c sfc b s) := by
  unfold fillSlot
  repeat' with_reducible (first
    | (intro _) | assumption | apply keeps_ite | apply keeps_foldl | apply keeps_foldl_fst | apply emitCell_keeps
    | apply State.putLink_keeps | apply buildTime_keeps | apply sendNext_keeps | apply startOutbox_keeps
    | apply beginMessage_keeps | apply remoteSent_keeps | apply startQueues_keeps | simp only [↓keeps_mk] | rfl
    | split | exact Keeps.rfl')

theorem boundNote_keeps (l b : Nat) {z s : State} (hk : Keeps z s) : Keeps z (boundNote l b s) := by
  unfold boundNote
  repeat' with_reducible (first
    | (intro _) | assumption | apply keeps_ite | apply keeps_foldl | apply keeps_foldl_fst | apply State.putLink_keeps
    | simp only [↓keeps_mk] | rfl | split | exact Keeps.rfl')

theorem faostCellSlotOp_keeps (l c sfc b : Nat) {z s : State} (hk : Keeps z s) : Keeps z (faostCellSlotOp l c sfc b
    s) := by
  unfold faostCellSlotOp
  repeat' with_reducible (first
    | (intro _) | assumption | apply keeps_ite | apply keeps_foldl | apply keeps_foldl_fst | apply boundNote_keeps
    | apply dropLate_keeps | apply fillSlot_keeps | apply State.putLink_keeps | simp only [↓keeps_mk] | rfl | split
    | exact Keeps.rfl')

theorem levelReportSendOp_keeps (l : Nat) (stats : List (Int × Nat)) {z s : State} (hk : Keeps z s) : Keeps z
    (levelReportSendOp l stats s) := by
  unfold levelReportSendOp
  repeat' with_reducible (first
    | (intro _) | assumption | apply keeps_ite | apply keeps_foldl | apply keeps_foldl_fst | apply outPut_keeps
    | simp only [↓keeps_mk] | rfl | split | exact Keeps.rfl')

theorem laneCfgChanged_keeps (l : Nat) {z s : State} (hk : Keeps z s) : Keeps z (laneCfgChanged l s) := by
  unfold laneCfgChanged
  repeat' with_reducible (first
    | (intro _) | assumption | apply keeps_ite | apply keeps_foldl | apply keeps_foldl_fst | apply roleRefresh_keeps
    | apply sessionEnd_keeps | dsimp only | rfl | split | exact Keeps.rfl')

theorem msgLockdown_keeps {z s : State} (hk : Keeps z s) : Keeps z (msgLockdown s) := by
  unfold msgLockdown
  repeat' with_reducible (first
    | (intro _) | assumption | apply keeps_ite | apply keeps_foldl | apply keeps_foldl_fst | apply msgQFlushOp_keeps
    | apply rxFlushOp_keeps | apply sessionEnd_keeps | dsimp only | rfl | split | exact Keeps.rfl')

theorem msgBlockReset_keeps {z s : State} (hk : Keeps z s) : Keeps z (msgBlockReset s) := by
  unfold msgBlockReset
  repeat' with_reducible (first
    | (intro _) | assumption | apply keeps_ite | apply keeps_foldl | apply keeps_foldl_fst | apply sessionEnd_keeps
    | simp only [↓keeps_mk] | rfl | split | exact Keeps.rfl')

end Sys2Proof.Machine
end

