-- ==== Sys2Proof/Laws/KeepsGleaner.lean ====
section
/-!
SUPPORT. The operations of Machine/Gleaner.lean keep the queue and the canonical forms.
-/

namespace Sys2Proof.Machine

open Sys2Proof

theorem calEvent_keeps (inst item kind : Nat) {z s : State} (hk : Keeps z s) : Keeps z (calEvent inst item kind s)
    := by
  unfold calEvent
  repeat' with_reducible (first
    | (intro _) | assumption | apply keeps_ite | apply keeps_foldl | apply keeps_foldl_fst | apply State.event_keeps
    | dsimp only | rfl | split | exact Keeps.rfl')

theorem recordPass_keeps (r : Nat) (cs : List Int) {z s : State} (hk : Keeps z s) : Keeps z (recordPass r cs s) := by
  unfold recordPass
  repeat' with_reducible (first
    | (intro _) | assumption | apply keeps_ite | apply keeps_foldl | apply keeps_foldl_fst | apply State.satInc_keeps
    | apply State.setI_keeps | apply State.set_keeps | apply State.setB_keeps | dsimp only | rfl | split
    | exact Keeps.rfl')

theorem recordFail_keeps (l i : Nat) {z s : State} (hk : Keeps z s) : Keeps z (recordFail l i s) := by
  unfold recordFail
  repeat' with_reducible (first
    | (intro _) | assumption | apply keeps_ite | apply keeps_foldl | apply keeps_foldl_fst | apply State.satInc_keeps
    | apply State.putCal_keeps | apply State.set_keeps | apply calEvent_keeps | apply State.setB_keeps
    | apply State.irq_keeps | simp only [↓keeps_mk] | rfl | split | exact Keeps.rfl')

theorem judgeItem_keeps (l i : Nat) (a b : List Int) {z s : State} (hk : Keeps z s) : Keeps z (judgeItem l i a b
    s).1 := by
  unfold judgeItem
  repeat' with_reducible (first
    | (intro _) | assumption | apply keeps_ite | apply keeps_foldl | apply keeps_foldl_fst | apply recordPass_keeps
    | apply State.putCal_keeps | apply State.set_keeps | apply State.setB_keeps | apply recordFail_keeps
    | simp only [↓keeps_mk] | rfl | split | exact Keeps.rfl')

theorem foregroundJudge_keeps (l : Nat) {z s : State} (hk : Keeps z s) : Keeps z (foregroundJudge l s) := by
  unfold foregroundJudge
  repeat' with_reducible (first
    | (intro _) | assumption | apply keeps_ite | apply keeps_foldl | apply keeps_foldl_fst | apply State.setB_keeps
    | apply State.irq_keeps | dsimp only | rfl | split | exact Keeps.rfl')

theorem endRun_keeps (l : Nat) (a b : List (List Int)) {z s : State} (hk : Keeps z s) : Keeps z (endRun l a b s) := by
  unfold endRun
  repeat' with_reducible (first
    | (intro _) | assumption | apply keeps_ite | apply keeps_foldl | apply keeps_foldl_fst | apply judgeItem_keeps
    | apply foregroundJudge_keeps | apply State.putCal_keeps | apply State.setB_keeps | simp only [↓keeps_mk] | rfl
    | split | exact Keeps.rfl' | (refine keeps_fst (by assumption) ?_))

theorem laneEstimates_keeps (l : Nat) {z s : State} (hk : Keeps z s) : Keeps z (laneEstimates l s).2 := by
  unfold laneEstimates
  repeat' with_reducible (first
    | (intro _) | assumption | apply keeps_ite | apply keeps_foldl | apply keeps_foldl_fst | simp only [↓keeps_mk]
    | rfl | split | exact Keeps.rfl')

theorem adcWindow_keeps (l : Nat) {z s : State} (hk : Keeps z s) : Keeps z (adcWindow l s) := by
  unfold adcWindow
  repeat' with_reducible (first
    | (intro _) | assumption | apply keeps_ite | apply keeps_foldl | apply keeps_foldl_fst | apply calDiscardAdc_keeps
    | apply laneEstimates_keeps | apply State.putCal_keeps | apply endRun_keeps | simp only [↓keeps_mk] | rfl | split
    | exact Keeps.rfl')

theorem calLimit_keeps (l i : Nat) {z s : State} (hk : Keeps z s) : Keeps z (calLimit l i s) := by
  unfold calLimit
  repeat' with_reducible (first
    | (intro _) | assumption | apply keeps_ite | apply keeps_foldl | apply keeps_foldl_fst | apply calEvent_keeps
    | apply State.setB_keeps | apply State.irq_keeps | dsimp only | rfl | split | exact Keeps.rfl')

theorem cellCorrect_keeps (l : Nat) (c : Int) {z s : State} (hk : Keeps z s) : Keeps z (cellCorrect l c s) := by
  unfold cellCorrect
  repeat' with_reducible (first
    | (intro _) | assumption | apply keeps_ite | apply keeps_foldl | apply keeps_foldl_fst | apply State.setI_keeps
    | apply calLimit_keeps | dsimp only | rfl | split | exact Keeps.rfl')

theorem cellRun_keeps (l : Nat) (a b : Int) {z s : State} (hk : Keeps z s) : Keeps z (cellRun l a b s) := by
  unfold cellRun
  repeat' with_reducible (first
    | (intro _) | assumption | apply keeps_ite | apply keeps_foldl | apply keeps_foldl_fst | apply recordPass_keeps
    | apply State.putCal_keeps | apply State.set_keeps | apply cellCorrect_keeps | apply recordFail_keeps
    | simp only [↓keeps_mk] | rfl | split | exact Keeps.rfl')

theorem passCell_keeps (l : Nat) (est : Int) {z s : State} (hk : Keeps z s) : Keeps z (passCell l est s) := by
  unfold passCell
  repeat' with_reducible (first
    | (intro _) | assumption | apply keeps_ite | apply keeps_foldl | apply keeps_foldl_fst | apply State.putCal_keeps
    | apply cellCorrect_keeps | simp only [↓keeps_mk] | rfl | split | exact Keeps.rfl')

theorem passRemove_keeps (ls : List Nat) {z s : State} (hk : Keeps z s) : Keeps z (passRemove ls s) := by
  unfold passRemove
  repeat' with_reducible (first
    | (intro _) | assumption | apply keeps_ite | apply keeps_foldl | apply keeps_foldl_fst | apply State.setB_keeps
    | simp only [↓keeps_mk] | rfl | split | exact Keeps.rfl')

theorem passLeaves_keeps (l : Nat) {z s : State} (hk : Keeps z s) : Keeps z (passLeaves l s) := by
  unfold passLeaves
  repeat' with_reducible (first
    | (intro _) | assumption | apply keeps_ite | apply keeps_foldl | apply keeps_foldl_fst | apply passRemove_keeps
    | dsimp only | rfl | split | exact Keeps.rfl')

theorem dacWindow_keeps (l : Nat) (est : Int) {z s : State} (hk : Keeps z s) : Keeps z (dacWindow l est s) := by
  unfold dacWindow
  repeat' with_reducible (first
    | (intro _) | assumption | apply keeps_ite | apply keeps_foldl | apply keeps_foldl_fst | apply passLeaves_keeps
    | apply passCell_keeps | apply calDiscardDac_keeps | apply State.putCal_keeps | apply cellRun_keeps
    | simp only [↓keeps_mk] | rfl | split | exact Keeps.rfl')

theorem dacCellSwapOp_keeps (l : Nat) {z s : State} (hk : Keeps z s) : Keeps z (dacCellSwapOp l s) := by
  unfold dacCellSwapOp
  repeat' with_reducible (first
    | (intro _) | assumption | apply keeps_ite | apply keeps_foldl | apply keeps_foldl_fst | apply State.putCal_keeps
    | apply State.wrapInc_keeps | simp only [↓keeps_mk] | rfl | split | exact Keeps.rfl')

theorem startSweep_keeps (l : Nat) {z s : State} (hk : Keeps z s) : Keeps z (startSweep l s) := by
  unfold startSweep
  repeat' with_reducible (first
    | (intro _) | assumption | apply keeps_ite | apply keeps_foldl | apply keeps_foldl_fst | apply State.putCal_keeps
    | simp only [↓keeps_mk] | rfl | split | exact Keeps.rfl')

theorem startAnchor_keeps {z s : State} (hk : Keeps z s) : Keeps z (startAnchor s) := by
  unfold startAnchor
  repeat' with_reducible (first
    | (intro _) | assumption | apply keeps_ite | apply keeps_foldl | apply keeps_foldl_fst | apply State.setB_keeps
    | simp only [↓keeps_mk] | rfl | split | exact Keeps.rfl')

theorem anchorFail_keeps {z s : State} (hk : Keeps z s) : Keeps z (anchorFail s) := by
  unfold anchorFail
  repeat' with_reducible (first
    | (intro _) | assumption | apply keeps_ite | apply keeps_foldl | apply keeps_foldl_fst | apply State.satInc_keeps
    | apply calEvent_keeps | apply State.setB_keeps | apply State.irq_keeps | simp only [↓keeps_mk] | rfl | split
    | exact Keeps.rfl')

theorem anchorEnd_keeps (a b : Int × Int) (vref : Int) {z s : State} (hk : Keeps z s) : Keeps z (anchorEnd a b vref
    s) := by
  unfold anchorEnd
  repeat' with_reducible (first
    | (intro _) | assumption | apply keeps_ite | apply keeps_foldl | apply keeps_foldl_fst | apply calEvent_keeps
    | apply State.setB_keeps | apply recordPass_keeps | apply anchorFail_keeps | apply State.irq_keeps
    | simp only [↓keeps_mk] | rfl | split | exact Keeps.rfl')

theorem anchorWindow_keeps (a d vref : Int) {z s : State} (hk : Keeps z s) : Keeps z (anchorWindow a d vref s) := by
  unfold anchorWindow
  repeat' with_reducible (first
    | (intro _) | assumption | apply keeps_ite | apply keeps_foldl | apply keeps_foldl_fst | apply State.satInc_keeps
    | apply anchorEnd_keeps | simp only [↓keeps_mk] | rfl | split | exact Keeps.rfl')

theorem anchorDiscard_keeps {z s : State} (hk : Keeps z s) : Keeps z (anchorDiscard s) := by
  unfold anchorDiscard
  repeat' with_reducible (first
    | (intro _) | assumption | apply keeps_ite | apply keeps_foldl | apply keeps_foldl_fst | apply State.satInc_keeps
    | simp only [↓keeps_mk] | rfl | split | exact Keeps.rfl')

theorem anchorStop_keeps {z s : State} (hk : Keeps z s) : Keeps z (anchorStop s) := by
  unfold anchorStop
  repeat' with_reducible (first
    | (intro _) | assumption | apply keeps_ite | apply keeps_foldl | apply keeps_foldl_fst | apply State.setB_keeps
    | simp only [↓keeps_mk] | rfl | split | exact Keeps.rfl')

theorem passWindow_keeps (l : Nat) (core : List (List Int)) {z s : State} (hk : Keeps z s) : Keeps z (passWindow l
    core s) := by
  unfold passWindow
  repeat' with_reducible (first
    | (intro _) | assumption | apply keeps_ite | apply keeps_foldl | apply keeps_foldl_fst | apply State.setI_keeps
    | apply passLeaves_keeps | dsimp only | rfl | split | exact Keeps.rfl')

theorem calWindowEndOp_keeps (l : Nat) (w : CalWindow) {z s : State} (hk : Keeps z s) : Keeps z (calWindowEndOp l w
    s) := by
  unfold calWindowEndOp
  repeat' with_reducible (first
    | (intro _) | assumption | apply keeps_ite | apply keeps_foldl | apply keeps_foldl_fst | apply adcWindow_keeps
    | apply dacWindow_keeps | apply anchorWindow_keeps | apply passWindow_keeps | dsimp only | rfl | split
    | exact Keeps.rfl')

theorem refAnchorTimeoutOp_keeps {z s : State} (hk : Keeps z s) : Keeps z (refAnchorTimeoutOp s) := by
  unfold refAnchorTimeoutOp
  repeat' with_reducible (first
    | (intro _) | assumption | apply keeps_ite | apply keeps_foldl | apply keeps_foldl_fst | apply State.satInc_keeps
    | apply State.setB_keeps | simp only [↓keeps_mk] | rfl | split | exact Keeps.rfl')

theorem trimStep_keeps (f : Fld) (c : Int) {z s : State} (hk : Keeps z s) : Keeps z (trimStep f c s).1 := by
  unfold trimStep
  repeat' with_reducible (first
    | (intro _) | assumption | apply keeps_ite | apply keeps_foldl | apply keeps_foldl_fst | apply State.setI_keeps
    | dsimp only | rfl | split | exact Keeps.rfl' | (refine keeps_fst (by assumption) ?_))

theorem coreStep_keeps (f : Nat → Fld) (core sub : List Int) {z : State} (i : Nat) {p : State × CoreStep}
    (hk : Keeps z p.1) : Keeps z (coreStep f core sub p i).1 := trimStep_keeps _ _ hk

theorem stepTime_keeps (l i : Nat) (moved : Bool) {z s : State} (hk : Keeps z s) : Keeps z (stepTime l i moved s)
    := by
  unfold stepTime
  repeat' with_reducible (first
    | (intro _) | assumption | apply keeps_ite | apply keeps_foldl | apply keeps_foldl_fst | apply State.set_keeps
    | dsimp only | rfl | split | exact Keeps.rfl')

theorem coreSteps_keeps (l : Nat) (f : Nat → Fld) (items : Nat × Nat) (core sub : List Int) {z s : State} (hk :
    Keeps z s) : Keeps z (coreSteps l f items core sub s).1 := by
  unfold coreSteps
  repeat' with_reducible (first
    | (intro _) | assumption | apply keeps_ite | apply keeps_foldl | apply keeps_foldl_fst | apply coreStep_keeps
    | apply stepTime_keeps | apply calLimit_keeps | dsimp only | rfl | split | exact Keeps.rfl'
    | (refine keeps_fst (by assumption) ?_))

theorem applyLane_keeps (l : Nat) {z s : State} (hk : Keeps z s) : Keeps z (applyLane l s) := by
  unfold applyLane
  repeat' with_reducible (first
    | (intro _) | assumption | apply keeps_ite | apply keeps_foldl | apply keeps_foldl_fst
    | apply calStopApplying_keeps | apply coreSteps_keeps | apply State.putCal_keeps | apply State.setB_keeps
    | simp only [↓keeps_mk] | rfl | split | exact Keeps.rfl')

theorem applyDevice_keeps {z s : State} (hk : Keeps z s) : Keeps z (applyDevice s) := by
  unfold applyDevice
  repeat' with_reducible (first
    | (intro _) | assumption | apply keeps_ite | apply keeps_foldl | apply keeps_foldl_fst | apply trimStep_keeps
    | apply anchorDiscard_keeps | apply State.set_keeps | apply calEvent_keeps | apply State.setB_keeps
    | apply State.irq_keeps | simp only [↓keeps_mk] | rfl | split | exact Keeps.rfl')

theorem saveTrims_keeps {z s : State} (hk : Keeps z s) : Keeps z (saveTrims s) := by
  unfold saveTrims
  repeat' with_reducible (first
    | (intro _) | assumption | apply keeps_ite | apply keeps_foldl | apply keeps_foldl_fst | apply recordPut_keeps
    | simp only [↓keeps_mk] | rfl | split | exact Keeps.rfl')

theorem loadTrims_keeps {z s : State} (hk : Keeps z s) : Keeps z (loadTrims s) := by
  unfold loadTrims
  repeat' with_reducible (first
    | (intro _) | assumption | apply keeps_ite | apply keeps_foldl | apply keeps_foldl_fst | apply State.set_keeps
    | dsimp only | rfl | split | exact Keeps.rfl')

theorem laneBoundary_keeps (l : Nat) {z s : State} (hk : Keeps z s) : Keeps z (laneBoundary l s) := by
  unfold laneBoundary
  repeat' with_reducible (first
    | (intro _) | assumption | apply keeps_ite | apply keeps_foldl | apply keeps_foldl_fst | apply applyLane_keeps
    | apply calRunBegin_keeps | apply State.putCal_keeps | apply calRxBoundary_keeps | simp only [↓keeps_mk] | rfl
    | split | exact Keeps.rfl')

theorem calApplyStepOp_keeps (l : Nat) {z s : State} (hk : Keeps z s) : Keeps z (calApplyStepOp l s) := by
  unfold calApplyStepOp
  repeat' with_reducible (first
    | (intro _) | assumption | apply keeps_ite | apply keeps_foldl | apply keeps_foldl_fst | apply applyDevice_keeps
    | apply laneBoundary_keeps | apply saveTrims_keeps | dsimp only | rfl | split | exact Keeps.rfl')

theorem levelApply_keeps {z s : State} (hk : Keeps z s) : Keeps z (levelApply s) := by
  unfold levelApply
  repeat' with_reducible (first
    | (intro _) | assumption | apply keeps_ite | apply keeps_foldl | apply keeps_foldl_fst | apply requestLevel_keeps
    | dsimp only | rfl | split | exact Keeps.rfl')

theorem calStartupDoneOp_keeps {z s : State} (hk : Keeps z s) : Keeps z (calStartupDoneOp s) := by
  unfold calStartupDoneOp
  repeat' with_reducible (first
    | (intro _) | assumption | apply keeps_ite | apply keeps_foldl | apply keeps_foldl_fst | apply passRemove_keeps
    | apply saveTrims_keeps | apply levelApply_keeps | apply State.setB_keeps | apply State.irq_keeps
    | simp only [↓keeps_mk] | rfl | split | exact Keeps.rfl')

theorem calSaveOp_keeps {z s : State} (hk : Keeps z s) : Keeps z (calSaveOp s) := by
  unfold calSaveOp
  repeat' with_reducible (first
    | (intro _) | assumption | apply keeps_ite | apply keeps_foldl | apply keeps_foldl_fst
    | apply State.conflict_keeps | apply State.setB_keeps | simp only [↓keeps_mk] | rfl | split | exact Keeps.rfl')

theorem calSaveDoneOp_keeps {z s : State} (hk : Keeps z s) : Keeps z (calSaveDoneOp s) := by
  unfold calSaveDoneOp
  repeat' with_reducible (first
    | (intro _) | assumption | apply keeps_ite | apply keeps_foldl | apply keeps_foldl_fst | apply State.setB_keeps
    | apply State.irq_keeps | dsimp only | rfl | split | exact Keeps.rfl')

theorem startBackground_keeps {z s : State} (hk : Keeps z s) : Keeps z (startBackground s) := by
  unfold startBackground
  repeat' with_reducible (first
    | (intro _) | assumption | apply keeps_ite | apply keeps_foldl | apply keeps_foldl_fst | apply startAnchor_keeps
    | apply startSweep_keeps | simp only [↓keeps_mk] | rfl | split | exact Keeps.rfl')

theorem calIntervalExpiryOp_keeps {z s : State} (hk : Keeps z s) : Keeps z (calIntervalExpiryOp s) := by
  unfold calIntervalExpiryOp
  repeat' with_reducible (first
    | (intro _) | assumption | apply keeps_ite | apply keeps_foldl | apply keeps_foldl_fst
    | apply startBackground_keeps | dsimp only | rfl | split | exact Keeps.rfl')

theorem calAlarm_keeps (k : Nat) {z s : State} (hk : Keeps z s) : Keeps z (calAlarm k s) := by
  unfold calAlarm
  repeat' with_reducible (first
    | (intro _) | assumption | apply keeps_ite | apply keeps_foldl | apply keeps_foldl_fst
    | apply startBackground_keeps | apply State.satInc_keeps | dsimp only | rfl | split | exact Keeps.rfl')

theorem calTempTrigger_keeps {z s : State} (hk : Keeps z s) : Keeps z (calTempTrigger s) := by
  unfold calTempTrigger
  repeat' with_reducible (first
    | (intro _) | assumption | apply keeps_ite | apply keeps_foldl | apply keeps_foldl_fst
    | apply startBackground_keeps | dsimp only | rfl | split | exact Keeps.rfl')

theorem calRunOp_keeps (lanes : Nat) {z s : State} (hk : Keeps z s) : Keeps z (calRunOp lanes s) := by
  unfold calRunOp
  repeat' with_reducible (first
    | (intro _) | assumption | apply keeps_ite | apply keeps_foldl | apply keeps_foldl_fst | apply startSweep_keeps
    | dsimp only | rfl | split | exact Keeps.rfl')

theorem calAnchorOp_keeps {z s : State} (hk : Keeps z s) : Keeps z (calAnchorOp s) := by
  unfold calAnchorOp
  repeat' with_reducible (first
    | (intro _) | assumption | apply keeps_ite | apply keeps_foldl | apply keeps_foldl_fst | apply startAnchor_keeps
    | dsimp only | rfl | split | exact Keeps.rfl')

theorem calHalt_keeps {z s : State} (hk : Keeps z s) : Keeps z (calHalt s) := by
  unfold calHalt
  repeat' with_reducible (first
    | (intro _) | assumption | apply keeps_ite | apply keeps_foldl | apply keeps_foldl_fst | apply calRunStop_keeps
    | apply calStopApplying_keeps | apply State.putCal_keeps | apply anchorStop_keeps | simp only [↓keeps_mk] | rfl
    | split | exact Keeps.rfl')

theorem sweepStop_keeps (l : Nat) {z s : State} (hk : Keeps z s) : Keeps z (sweepStop l s) := by
  unfold sweepStop
  repeat' with_reducible (first
    | (intro _) | assumption | apply keeps_ite | apply keeps_foldl | apply keeps_foldl_fst | apply State.putCal_keeps
    | simp only [↓keeps_mk] | rfl | split | exact Keeps.rfl')

theorem calStop_keeps {z s : State} (hk : Keeps z s) : Keeps z (calStop s) := by
  unfold calStop
  repeat' with_reducible (first
    | (intro _) | assumption | apply keeps_ite | apply keeps_foldl | apply keeps_foldl_fst | apply anchorStop_keeps
    | apply sweepStop_keeps | apply calClearFg_keeps | apply calStopApplying_keeps | apply State.putCal_keeps
    | simp only [↓keeps_mk] | rfl | split | exact Keeps.rfl')

theorem laneCfgFollow_keeps (l : Nat) {z s : State} (hk : Keeps z s) : Keeps z (laneCfgFollow l s) := by
  unfold laneCfgFollow
  repeat' with_reducible (first
    | (intro _) | assumption | apply keeps_ite | apply keeps_foldl | apply keeps_foldl_fst | apply calRefresh_keeps
    | apply sweepStop_keeps | dsimp only | rfl | split | exact Keeps.rfl')

theorem calRecSelectOp_keeps (lane item : Nat) {z s : State} (hk : Keeps z s) : Keeps z (calRecSelectOp lane item
    s) := by
  unfold calRecSelectOp
  repeat' with_reducible (first
    | (intro _) | assumption | apply keeps_ite | apply keeps_foldl | apply keeps_foldl_fst | apply State.set_keeps
    | apply State.conflict_keeps | dsimp only | rfl | split | exact Keeps.rfl')

end Sys2Proof.Machine
end

