-- ==== Sys2Proof/Laws/KeepsOptics.lean ====
section
/-!
SUPPORT. The operations of Machine/Optics.lean keep the queue and the canonical forms.
-/

namespace Sys2Proof.Machine

open Sys2Proof

theorem State.putChain_keeps (c : Nat) (x : FilterChain) {z s : State} (hk : Keeps z s) : Keeps z (State.putChain s
    c x) := by
  unfold State.putChain
  repeat' with_reducible (first
    | (intro _) | assumption | apply keeps_ite | apply keeps_foldl | apply keeps_foldl_fst | simp only [↓keeps_mk]
    | rfl | split | exact Keeps.rfl')

theorem State.putDac_keeps (n : Nat) (x : DacChannel) {z s : State} (hk : Keeps z s) : Keeps z (State.putDac s n x)
    := by
  unfold State.putDac
  repeat' with_reducible (first
    | (intro _) | assumption | apply keeps_ite | apply keeps_foldl | apply keeps_foldl_fst | simp only [↓keeps_mk]
    | rfl | split | exact Keeps.rfl')

theorem cdacJump_keeps (n code : Nat) {z s : State} (hk : Keeps z s) : Keeps z (cdacJump n code s) := by
  unfold cdacJump
  repeat' with_reducible (first
    | (intro _) | assumption | apply keeps_ite | apply keeps_foldl | apply keeps_foldl_fst | apply State.putDac_keeps
    | apply State.set_keeps | apply State.setB_keeps | simp only [↓keeps_mk] | rfl | split | exact Keeps.rfl')

theorem cdacRampTo_keeps (n code : Nat) {z s : State} (hk : Keeps z s) : Keeps z (cdacRampTo n code s) := by
  unfold cdacRampTo
  repeat' with_reducible (first
    | (intro _) | assumption | apply keeps_ite | apply keeps_foldl | apply keeps_foldl_fst | apply cdacJump_keeps
    | apply State.putDac_keeps | apply State.setB_keeps | simp only [↓keeps_mk] | rfl | split | exact Keeps.rfl')

theorem cdacEnterFault_keeps (n comp : Nat) {z s : State} (hk : Keeps z s) : Keeps z (cdacEnterFault n comp s) := by
  unfold cdacEnterFault
  repeat' with_reducible (first
    | (intro _) | assumption | apply keeps_ite | apply keeps_foldl | apply keeps_foldl_fst | apply cdacJump_keeps
    | apply State.set_keeps | apply State.irq_keeps | apply State.event_keeps | dsimp only | rfl | split
    | exact Keeps.rfl')

theorem cdacFault_keeps (n cause : Nat) (comp : Option Nat) {z s : State} (hk : Keeps z s) : Keeps z (cdacFault n
    cause comp s) := by
  unfold cdacFault
  repeat' with_reducible (first
    | (intro _) | assumption | apply keeps_ite | apply keeps_foldl | apply keeps_foldl_fst | apply State.setB_keeps
    | apply State.putDac_keeps | apply cdacEnterFault_keeps | simp only [↓keeps_mk] | rfl | split | exact Keeps.rfl')

theorem cdacFaultAll_keeps (cause : Nat) {z s : State} (hk : Keeps z s) : Keeps z (cdacFaultAll cause s) := by
  unfold cdacFaultAll
  repeat' with_reducible (first
    | (intro _) | assumption | apply keeps_ite | apply keeps_foldl | apply keeps_foldl_fst | apply cdacFault_keeps
    | dsimp only | rfl | split | exact Keeps.rfl')

theorem cdacRelease_keeps (n code : Nat) {z s : State} (hk : Keeps z s) : Keeps z (cdacRelease n code s) := by
  unfold cdacRelease
  repeat' with_reducible (first
    | (intro _) | assumption | apply keeps_ite | apply keeps_foldl | apply keeps_foldl_fst | apply State.putDac_keeps
    | apply cdacEnterFault_keeps | apply cdacRampTo_keeps | apply State.set_keeps | simp only [↓keeps_mk] | rfl
    | split | exact Keeps.rfl')

theorem cdacLoadRow_keeps (n : Nat) (row : Nat × Nat × Nat × Nat) {z s : State} (hk : Keeps z s) : Keeps z
    (cdacLoadRow n row s) := by
  unfold cdacLoadRow
  repeat' with_reducible (first
    | (intro _) | assumption | apply keeps_ite | apply keeps_foldl | apply keeps_foldl_fst | apply State.set_keeps
    | apply cdacRelease_keeps | dsimp only | rfl | split | exact Keeps.rfl')

theorem cdacTableLoadOp_keeps (readable : Bool) {z s : State} (hk : Keeps z s) : Keeps z (cdacTableLoadOp readable
    s) := by
  unfold cdacTableLoadOp
  repeat' with_reducible (first
    | (intro _) | assumption | apply keeps_ite | apply keeps_foldl | apply keeps_foldl_fst | apply State.setB_keeps
    | apply cdacLoadRow_keeps | apply State.irq_keeps | dsimp only | rfl | split | exact Keeps.rfl')

theorem cdacRunOp_keeps (n : Nat) {z s : State} (hk : Keeps z s) : Keeps z (cdacRunOp n s) := by
  unfold cdacRunOp
  repeat' with_reducible (first
    | (intro _) | assumption | apply keeps_ite | apply keeps_foldl | apply keeps_foldl_fst | apply cdacRampTo_keeps
    | apply State.set_keeps | apply cdacRelease_keeps | apply State.conflict_keeps | dsimp only | rfl | split
    | exact Keeps.rfl')

theorem cdacHoldOp_keeps (n : Nat) {z s : State} (hk : Keeps z s) : Keeps z (cdacHoldOp n s) := by
  unfold cdacHoldOp
  repeat' with_reducible (first
    | (intro _) | assumption | apply keeps_ite | apply keeps_foldl | apply keeps_foldl_fst | apply State.set_keeps
    | apply State.setB_keeps | apply cdacJump_keeps | apply State.conflict_keeps | dsimp only | rfl | split
    | exact Keeps.rfl')

theorem cdacFaultOp_keeps (n : Nat) {z s : State} (hk : Keeps z s) : Keeps z (cdacFaultOp n s) := by
  unfold cdacFaultOp
  repeat' with_reducible (first
    | (intro _) | assumption | apply keeps_ite | apply keeps_foldl | apply keeps_foldl_fst
    | apply State.conflict_keeps | apply cdacFault_keeps | dsimp only | rfl | split | exact Keeps.rfl')

theorem cdacClearOp_keeps (n : Nat) {z s : State} (hk : Keeps z s) : Keeps z (cdacClearOp n s) := by
  unfold cdacClearOp
  repeat' with_reducible (first
    | (intro _) | assumption | apply keeps_ite | apply keeps_foldl | apply keeps_foldl_fst | apply State.setB_keeps
    | apply State.conflict_keeps | apply State.set_keeps | dsimp only | rfl | split | exact Keeps.rfl')

theorem cdacCodeWriteOp_keeps (n code : Nat) {z s : State} (hk : Keeps z s) : Keeps z (cdacCodeWriteOp n code s) := by
  unfold cdacCodeWriteOp
  repeat' with_reducible (first
    | (intro _) | assumption | apply keeps_ite | apply keeps_foldl | apply keeps_foldl_fst | apply State.set_keeps
    | apply State.putDac_keeps | apply cdacRampTo_keeps | simp only [↓keeps_mk] | rfl | split | exact Keeps.rfl')

theorem cdacArrive_keeps (n : Nat) {z s : State} (hk : Keeps z s) : Keeps z (cdacArrive n s) := by
  unfold cdacArrive
  repeat' with_reducible (first
    | (intro _) | assumption | apply keeps_ite | apply keeps_foldl | apply keeps_foldl_fst | apply cdacJump_keeps
    | apply State.set_keeps | dsimp only | rfl | split | exact Keeps.rfl')

theorem cdacRampStepOp_keeps (n : Nat) {z s : State} (hk : Keeps z s) : Keeps z (cdacRampStepOp n s) := by
  unfold cdacRampStepOp
  repeat' with_reducible (first
    | (intro _) | assumption | apply keeps_ite | apply keeps_foldl | apply keeps_foldl_fst | apply cdacArrive_keeps
    | apply State.putDac_keeps | apply State.set_keeps | simp only [↓keeps_mk] | rfl | split | exact Keeps.rfl')

theorem cdacSpanWriteOp_keeps (n v : Nat) {z s : State} (hk : Keeps z s) : Keeps z (cdacSpanWriteOp n v s) := by
  unfold cdacSpanWriteOp
  repeat' with_reducible (first
    | (intro _) | assumption | apply keeps_ite | apply keeps_foldl | apply keeps_foldl_fst | apply State.set_keeps
    | apply State.conflict_keeps | apply cdacJump_keeps | apply State.putDac_keeps | simp only [↓keeps_mk] | rfl
    | split | exact Keeps.rfl')

theorem cdacSpanHoldEndOp_keeps (n : Nat) {z s : State} (hk : Keeps z s) : Keeps z (cdacSpanHoldEndOp n s) := by
  unfold cdacSpanHoldEndOp
  repeat' with_reducible (first
    | (intro _) | assumption | apply keeps_ite | apply keeps_foldl | apply keeps_foldl_fst | apply cdacRampTo_keeps
    | apply State.set_keeps | dsimp only | rfl | split | exact Keeps.rfl')

theorem cdacFvWriteOp_keeps (n code : Nat) {z s : State} (hk : Keeps z s) : Keeps z (cdacFvWriteOp n code s) := by
  unfold cdacFvWriteOp
  repeat' with_reducible (first
    | (intro _) | assumption | apply keeps_ite | apply keeps_foldl | apply keeps_foldl_fst | apply State.set_keeps
    | apply cdacJump_keeps | dsimp only | rfl | split | exact Keeps.rfl')

theorem cdacClampAll_keeps {z s : State} (hk : Keeps z s) : Keeps z (cdacClampAll s) := by
  unfold cdacClampAll
  repeat' with_reducible (first
    | (intro _) | assumption | apply keeps_ite | apply keeps_foldl | apply keeps_foldl_fst | apply State.set_keeps
    | apply State.setB_keeps | simp only [↓keeps_mk] | rfl | split | exact Keeps.rfl')

theorem chainInput_keeps (c code : Nat) (stamp : Nat) {z s : State} (hk : Keeps z s) : Keeps z (chainInput c code
    stamp s) := by
  unfold chainInput
  repeat' with_reducible (first
    | (intro _) | assumption | apply keeps_ite | apply keeps_foldl | apply keeps_foldl_fst
    | apply State.putChain_keeps | simp only [↓keeps_mk] | rfl | split | exact Keeps.rfl')

theorem chainChange_keeps (c : Nat) {z s : State} (hk : Keeps z s) : Keeps z (chainChange c s) := by
  unfold chainChange
  repeat' with_reducible (first
    | (intro _) | assumption | apply keeps_ite | apply keeps_foldl | apply keeps_foldl_fst
    | apply State.putChain_keeps | apply State.setB_keeps | simp only [↓keeps_mk] | rfl | split | exact Keeps.rfl')

theorem timTempPut_keeps (t : Int) (valid : Bool) {z s : State} (hk : Keeps z s) : Keeps z (timTempPut t valid s)
    := by
  unfold timTempPut
  repeat' with_reducible (first
    | (intro _) | assumption | apply keeps_ite | apply keeps_foldl | apply keeps_foldl_fst | apply State.setI_keeps
    | apply State.setB_keeps | simp only [↓keeps_mk] | rfl | split | exact Keeps.rfl')

theorem timTempTake_keeps (t : Int) {z s : State} (hk : Keeps z s) : Keeps z (timTempTake t s) := by
  unfold timTempTake
  repeat' with_reducible (first
    | (intro _) | assumption | apply keeps_ite | apply keeps_foldl | apply keeps_foldl_fst | apply timTempPut_keeps
    | dsimp only | rfl | split | exact Keeps.rfl')

theorem timTempRefresh_keeps {z s : State} (hk : Keeps z s) : Keeps z (timTempRefresh s) := by
  unfold timTempRefresh
  repeat' with_reducible (first
    | (intro _) | assumption | apply keeps_ite | apply keeps_foldl | apply keeps_foldl_fst | apply timTempPut_keeps
    | dsimp only | rfl | split | exact Keeps.rfl')

theorem chainDeliver_keeps (c : Nat) (o : FilterOut) {z s : State} (hk : Keeps z s) : Keeps z (chainDeliver c o s)
    := by
  unfold chainDeliver
  repeat' with_reducible (first
    | (intro _) | assumption | apply keeps_ite | apply keeps_foldl | apply keeps_foldl_fst | apply State.setB_keeps
    | apply State.setI_keeps | apply State.set_keeps | apply State.putChain_keeps | apply State.irq_keeps
    | apply timTempTake_keeps | simp only [↓keeps_mk] | rfl | split | exact Keeps.rfl')

theorem ldisTrip_keeps (l comp : Nat) {z s : State} (hk : Keeps z s) : Keeps z (ldisTrip l comp s) := by
  unfold ldisTrip
  repeat' with_reducible (first
    | (intro _) | assumption | apply keeps_ite | apply keeps_foldl | apply keeps_foldl_fst | apply State.setB_keeps
    | apply State.irq_keeps | apply State.event_keeps | dsimp only | rfl | split | exact Keeps.rfl')

theorem limitTrip_keeps (c j : Nat) (v : Int) {z s : State} (hk : Keeps z s) : Keeps z (limitTrip c j v s) := by
  unfold limitTrip
  repeat' with_reducible (first
    | (intro _) | assumption | apply keeps_ite | apply keeps_foldl | apply keeps_foldl_fst | apply State.setB_keeps
    | apply State.event_keeps | apply ldisTrip_keeps | apply cdacFault_keeps | apply State.irq_keeps | dsimp only
    | rfl | split | exact Keeps.rfl')

theorem limitCompare_keeps (c j : Nat) (v : Int) {z s : State} (hk : Keeps z s) : Keeps z (limitCompare c j v s) := by
  unfold limitCompare
  repeat' with_reducible (first
    | (intro _) | assumption | apply keeps_ite | apply keeps_foldl | apply keeps_foldl_fst
    | apply State.putChain_keeps | apply State.set_keeps | apply State.setB_keeps | apply limitTrip_keeps
    | simp only [↓keeps_mk] | rfl | split | exact Keeps.rfl')

theorem gridOutput_keeps (c : Nat) {z s : State} (hk : Keeps z s) : Keeps z (gridOutput c s) := by
  unfold gridOutput
  repeat' with_reducible (first
    | (intro _) | assumption | apply keeps_ite | apply keeps_foldl | apply keeps_foldl_fst | apply chainDeliver_keeps
    | apply State.putChain_keeps | simp only [↓keeps_mk] | rfl | split | exact Keeps.rfl')

theorem mfilOutputOp_keeps (c : Nat) {z s : State} (hk : Keeps z s) : Keeps z (mfilOutputOp c s) := by
  unfold mfilOutputOp
  repeat' with_reducible (first
    | (intro _) | assumption | apply keeps_ite | apply keeps_foldl | apply keeps_foldl_fst
    | apply State.putChain_keeps | apply limitCompare_keeps | apply gridOutput_keeps | apply chainDeliver_keeps
    | simp only [↓keeps_mk] | rfl | split | exact Keeps.rfl')

theorem mfilAlarm_keeps (k : Nat) {z s : State} (hk : Keeps z s) : Keeps z (mfilAlarm k s) := by
  unfold mfilAlarm
  repeat' with_reducible (first
    | (intro _) | assumption | apply keeps_ite | apply keeps_foldl | apply keeps_foldl_fst
    | apply State.putChain_keeps | apply State.setB_keeps | simp only [↓keeps_mk] | rfl | split | exact Keeps.rfl')

theorem mfilTrippedClearOp_keeps (c j : Nat) {z s : State} (hk : Keeps z s) : Keeps z (mfilTrippedClearOp c j s) := by
  unfold mfilTrippedClearOp
  repeat' with_reducible (first
    | (intro _) | assumption | apply keeps_ite | apply keeps_foldl | apply keeps_foldl_fst
    | apply State.conflict_keeps | apply State.setB_keeps | dsimp only | rfl | split | exact Keeps.rfl')

theorem limitDisable_keeps (c j : Nat) {z s : State} (hk : Keeps z s) : Keeps z (limitDisable c j s) := by
  unfold limitDisable
  repeat' with_reducible (first
    | (intro _) | assumption | apply keeps_ite | apply keeps_foldl | apply keeps_foldl_fst
    | apply State.putChain_keeps | apply State.set_keeps | apply State.setB_keeps | simp only [↓keeps_mk] | rfl
    | split | exact Keeps.rfl')

theorem madcRawCfgWriteOp_keeps (conv v : Nat) (req : Requester) {z s : State} (hk : Keeps z s) : Keeps z
    (madcRawCfgWriteOp conv v req s) := by
  unfold madcRawCfgWriteOp
  repeat' with_reducible (first
    | (intro _) | assumption | apply keeps_ite | apply keeps_foldl | apply keeps_foldl_fst
    | apply State.conflict_keeps | apply State.claimRefused_keeps | apply State.set_keeps | dsimp only | rfl | split
    | exact Keeps.rfl')

theorem chainWrite_keeps (c v : Nat) {z s : State} (hk : Keeps z s) : Keeps z (chainWrite c v s) := by
  unfold chainWrite
  repeat' with_reducible (first
    | (intro _) | assumption | apply keeps_ite | apply keeps_foldl | apply keeps_foldl_fst | apply State.set_keeps
    | apply State.conflict_keeps | dsimp only | rfl | split | exact Keeps.rfl')

theorem mfilCfgWriteOp_keeps (c v : Nat) (req : Requester) {z s : State} (hk : Keeps z s) : Keeps z (mfilCfgWriteOp
    c v req s) := by
  unfold mfilCfgWriteOp
  repeat' with_reducible (first
    | (intro _) | assumption | apply keeps_ite | apply keeps_foldl | apply keeps_foldl_fst
    | apply State.conflict_keeps | apply State.claimRefused_keeps | apply chainWrite_keeps | apply chainChange_keeps
    | dsimp only | rfl | split | exact Keeps.rfl')

theorem madcPairWriteOp_keeps (pair : Bool) (chain : Nat) {z s : State} (hk : Keeps z s) : Keeps z (madcPairWriteOp
    pair chain s) := by
  unfold madcPairWriteOp
  repeat' with_reducible (first
    | (intro _) | assumption | apply keeps_ite | apply keeps_foldl | apply keeps_foldl_fst | apply State.setB_keeps
    | apply chainChange_keeps | apply State.set_keeps | dsimp only | rfl | split | exact Keeps.rfl')

theorem madcRefWriteOp_keeps (en : Bool) {z s : State} (hk : Keeps z s) : Keeps z (madcRefWriteOp en s) := by
  unfold madcRefWriteOp
  repeat' with_reducible (first
    | (intro _) | assumption | apply keeps_ite | apply keeps_foldl | apply keeps_foldl_fst | apply State.setB_keeps
    | dsimp only | rfl | split | exact Keeps.rfl')

theorem madcRefSettledOp_keeps {z s : State} (hk : Keeps z s) : Keeps z (madcRefSettledOp s) := by
  unfold madcRefSettledOp
  repeat' with_reducible (first
    | (intro _) | assumption | apply keeps_ite | apply keeps_foldl | apply keeps_foldl_fst | apply State.setB_keeps
    | apply State.irq_keeps | dsimp only | rfl | split | exact Keeps.rfl')

theorem rawInput_keeps (conv code : Nat) {z s : State} (hk : Keeps z s) : Keeps z (rawInput conv code s) := by
  unfold rawInput
  repeat' with_reducible (first
    | (intro _) | assumption | apply keeps_ite | apply keeps_foldl | apply keeps_foldl_fst | apply State.set_keeps
    | apply State.setB_keeps | apply State.irq_keeps | dsimp only | rfl | split | exact Keeps.rfl')

theorem anchorTake_keeps {z s : State} (hk : Keeps z s) : Keeps z (anchorTake s) := by
  unfold anchorTake
  repeat' with_reducible (first
    | (intro _) | assumption | apply keeps_ite | apply keeps_foldl | apply keeps_foldl_fst | simp only [↓keeps_mk]
    | rfl | split | exact Keeps.rfl')

theorem madcConversionOp_keeps (conv slot : Nat) (nv : Int) (stamp : Nat) {z s : State} (hk : Keeps z s) : Keeps z
    (madcConversionOp conv slot nv stamp s) := by
  unfold madcConversionOp
  repeat' with_reducible (first
    | (intro _) | assumption | apply keeps_ite | apply keeps_foldl | apply keeps_foldl_fst | apply chainInput_keeps
    | apply rawInput_keeps | apply anchorTake_keeps | dsimp only | rfl | split | exact Keeps.rfl')

end Sys2Proof.Machine
end

