-- ==== Sys2Proof/Laws/KeepsLantern.lean ====
section
/-!
SUPPORT. The operations of Machine/Lantern.lean keep the queue and the canonical forms.
-/

namespace Sys2Proof.Machine

open Sys2Proof

theorem countUp_keeps {z s : State} (hk : Keeps z s) : Keeps z (countUp s) := by
  unfold countUp
  repeat' with_reducible (first
    | (intro _) | assumption | apply keeps_ite | apply keeps_foldl | apply keeps_foldl_fst | simp only [↓keeps_mk]
    | rfl | split | exact Keeps.rfl')

theorem learnWatch_keeps {z s : State} (hk : Keeps z s) : Keeps z (learnWatch s) := by
  unfold learnWatch
  repeat' with_reducible (first
    | (intro _) | assumption | apply keeps_ite | apply keeps_foldl | apply keeps_foldl_fst | simp only [↓keeps_mk]
    | rfl | split | exact Keeps.rfl')

theorem learnBegin_keeps {z s : State} (hk : Keeps z s) : Keeps z (learnBegin s) := by
  unfold learnBegin
  repeat' with_reducible (first
    | (intro _) | assumption | apply keeps_ite | apply keeps_foldl | apply keeps_foldl_fst | simp only [↓keeps_mk]
    | rfl | split | exact Keeps.rfl')

theorem rateNote_keeps {z s : State} (hk : Keeps z s) : Keeps z (rateNote s) := by
  unfold rateNote
  repeat' with_reducible (first
    | (intro _) | assumption | apply keeps_ite | apply keeps_foldl | apply keeps_foldl_fst | simp only [↓keeps_mk]
    | rfl | split | exact Keeps.rfl')

theorem setRate_keeps (y : Int) {z s : State} (hk : Keeps z s) : Keeps z (setRate y s) := by
  unfold setRate
  repeat' with_reducible (first
    | (intro _) | assumption | apply keeps_ite | apply keeps_foldl | apply keeps_foldl_fst | apply rateNote_keeps
    | apply State.setI_keeps | dsimp only | rfl | split | exact Keeps.rfl')

theorem setQual_keeps (q : Nat) {z s : State} (hk : Keeps z s) : Keeps z (setQual q s) := by
  unfold setQual
  repeat' with_reducible (first
    | (intro _) | assumption | apply keeps_ite | apply keeps_foldl | apply keeps_foldl_fst | apply State.set_keeps
    | apply State.setB_keeps | apply learnWatch_keeps | apply rateNote_keeps | apply State.event_keeps
    | apply State.irq_keeps | dsimp only | rfl | split | exact Keeps.rfl')

theorem setActive_keeps (src : Nat) {z s : State} (hk : Keeps z s) : Keeps z (setActive src s) := by
  unfold setActive
  repeat' with_reducible (first
    | (intro _) | assumption | apply keeps_ite | apply keeps_foldl | apply keeps_foldl_fst | apply learnWatch_keeps
    | apply State.set_keeps | dsimp only | rfl | split | exact Keeps.rfl')

theorem State.putAlarm_keeps (k : Nat) (a : AlarmInt) {z s : State} (hk : Keeps z s) : Keeps z (State.putAlarm s k
    a) := by
  unfold State.putAlarm
  repeat' with_reducible (first
    | (intro _) | assumption | apply keeps_ite | apply keeps_foldl | apply keeps_foldl_fst | simp only [↓keeps_mk]
    | rfl | split | exact Keeps.rfl')

theorem gpioAlarm_keeps (k : Nat) {z s : State} (hk : Keeps z s) : Keeps z (gpioAlarm k s) := by
  unfold gpioAlarm
  repeat' with_reducible (first
    | (intro _) | assumption | apply keeps_ite | apply keeps_foldl | apply keeps_foldl_fst | simp only [↓keeps_mk]
    | rfl | split | exact Keeps.rfl')

theorem alarmReaches_keeps (k : Nat) {z s : State} (hk : Keeps z s) : Keeps z (alarmReaches k s) := by
  unfold alarmReaches
  repeat' with_reducible (first
    | (intro _) | assumption | apply keeps_ite | apply keeps_foldl | apply keeps_foldl_fst | apply State.setB_keeps
    | apply State.irq_keeps | apply wakeAlarm_keeps | apply gpioAlarm_keeps | apply mfilAlarm_keeps
    | apply msgAlarm_keeps | apply calAlarm_keeps | apply capAlarm_keeps | apply snapRequest_keeps
    | simp only [↓keeps_mk] | rfl | split | exact Keeps.rfl')

theorem alarmFire_keeps (k : Nat) {z s : State} (hk : Keeps z s) : Keeps z (alarmFire k s) := by
  unfold alarmFire
  repeat' with_reducible (first
    | (intro _) | assumption | apply keeps_ite | apply keeps_foldl | apply keeps_foldl_fst | apply alarmReaches_keeps
    | apply State.putAlarm_keeps | simp only [↓keeps_mk] | rfl | split | exact Keeps.rfl')

theorem alarmLate_keeps (k : Nat) {z s : State} (hk : Keeps z s) : Keeps z (alarmLate k s) := by
  unfold alarmLate
  repeat' with_reducible (first
    | (intro _) | assumption | apply keeps_ite | apply keeps_foldl | apply keeps_foldl_fst | apply alarmFire_keeps
    | apply State.setB_keeps | dsimp only | rfl | split | exact Keeps.rfl')

theorem alarmArm_keeps (k : Nat) {z s : State} (hk : Keeps z s) : Keeps z (alarmArm k s) := by
  unfold alarmArm
  repeat' with_reducible (first
    | (intro _) | assumption | apply keeps_ite | apply keeps_foldl | apply keeps_foldl_fst
    | apply State.putAlarm_keeps | apply alarmLate_keeps | simp only [↓keeps_mk] | rfl | split | exact Keeps.rfl')

theorem alarmFireOp_keeps (k : Nat) {z s : State} (hk : Keeps z s) : Keeps z (alarmFireOp k s) := by
  unfold alarmFireOp
  repeat' with_reducible (first
    | (intro _) | assumption | apply keeps_ite | apply keeps_foldl | apply keeps_foldl_fst | apply alarmFire_keeps
    | dsimp only | rfl | split | exact Keeps.rfl')

theorem alarmSkipped_keeps (k : Nat) {z s : State} (hk : Keeps z s) : Keeps z (alarmSkipped k s) := by
  unfold alarmSkipped
  repeat' with_reducible (first
    | (intro _) | assumption | apply keeps_ite | apply keeps_foldl | apply keeps_foldl_fst | apply alarmLate_keeps
    | apply State.putAlarm_keeps | apply State.satInc_keeps | simp only [↓keeps_mk] | rfl | split | exact Keeps.rfl')

theorem alarmsSkipped_keeps {z s : State} (hk : Keeps z s) : Keeps z (alarmsSkipped s) := by
  unfold alarmsSkipped
  repeat' with_reducible (first
    | (intro _) | assumption | apply keeps_ite | apply keeps_foldl | apply keeps_foldl_fst | apply alarmSkipped_keeps
    | dsimp only | rfl | split | exact Keeps.rfl')

theorem alarmsStepped_keeps (forward : Bool) {z s : State} (hk : Keeps z s) : Keeps z (alarmsStepped forward s) := by
  unfold alarmsStepped
  repeat' with_reducible (first
    | (intro _) | assumption | apply keeps_ite | apply keeps_foldl | apply keeps_foldl_fst | apply State.setB_keeps
    | apply State.putAlarm_keeps | apply alarmsSkipped_keeps | simp only [↓keeps_mk] | rfl | split | exact Keeps.rfl')

theorem alarmCtrlWriteOp_keeps (k v : Nat) (req : Requester) {z s : State} (hk : Keeps z s) : Keeps z
    (alarmCtrlWriteOp k v req s) := by
  unfold alarmCtrlWriteOp
  repeat' with_reducible (first
    | (intro _) | assumption | apply keeps_ite | apply keeps_foldl | apply keeps_foldl_fst
    | apply State.claimRefused_keeps | apply State.set_keeps | apply State.setB_keeps | apply State.putAlarm_keeps
    | apply alarmArm_keeps | simp only [↓keeps_mk] | rfl | split | exact Keeps.rfl')

theorem alarmReleaseOp_keeps (k : Nat) (req : Requester) {z s : State} (hk : Keeps z s) : Keeps z (alarmReleaseOp k
    req s) := by
  unfold alarmReleaseOp
  repeat' with_reducible (first
    | (intro _) | assumption | apply keeps_ite | apply keeps_foldl | apply keeps_foldl_fst | apply State.setB_keeps
    | apply State.conflict_keeps | apply State.claimRefused_keeps | apply State.set_keeps | dsimp only | rfl | split
    | exact Keeps.rfl')

theorem counterStep_keeps (t : Nat) {z s : State} (hk : Keeps z s) : Keeps z (counterStep t s) := by
  unfold counterStep
  repeat' with_reducible (first
    | (intro _) | assumption | apply keeps_ite | apply keeps_foldl | apply keeps_foldl_fst | apply State.event_keeps
    | apply alarmsStepped_keeps | apply State.irq_keeps | simp only [↓keeps_mk] | rfl | split | exact Keeps.rfl')

theorem stepTake_keeps (x : CounterStep) {z s : State} (hk : Keeps z s) : Keeps z (stepTake x s) := by
  unfold stepTake
  repeat' with_reducible (first
    | (intro _) | assumption | apply keeps_ite | apply keeps_foldl | apply keeps_foldl_fst | apply counterStep_keeps
    | dsimp only | rfl | split | exact Keeps.rfl')

theorem requalify_keeps {z s : State} (hk : Keeps z s) : Keeps z (requalify s) := by
  unfold requalify
  repeat' with_reducible (first
    | (intro _) | assumption | apply keeps_ite | apply keeps_foldl | apply keeps_foldl_fst | apply setQual_keeps
    | simp only [↓keeps_mk] | rfl | split | exact Keeps.rfl')

theorem timeSetOp_keeps {z s : State} (hk : Keeps z s) : Keeps z (timeSetOp s) := by
  unfold timeSetOp
  repeat' with_reducible (first
    | (intro _) | assumption | apply keeps_ite | apply keeps_foldl | apply keeps_foldl_fst
    | apply State.conflict_keeps | simp only [↓keeps_mk] | rfl | split | exact Keeps.rfl')

theorem timeStepOp_keeps {z s : State} (hk : Keeps z s) : Keeps z (timeStepOp s) := by
  unfold timeStepOp
  repeat' with_reducible (first
    | (intro _) | assumption | apply keeps_ite | apply keeps_foldl | apply keeps_foldl_fst | simp only [↓keeps_mk]
    | rfl | split | exact Keeps.rfl')

theorem timeClockChangeOp_keeps (period : Nat) {z s : State} (hk : Keeps z s) : Keeps z (timeClockChangeOp period
    s) := by
  unfold timeClockChangeOp
  repeat' with_reducible (first
    | (intro _) | assumption | apply keeps_ite | apply keeps_foldl | apply keeps_foldl_fst | apply State.setB_keeps
    | simp only [↓keeps_mk] | rfl | split | exact Keeps.rfl')

theorem fineReadyOp_keeps {z s : State} (hk : Keeps z s) : Keeps z (fineReadyOp s) := by
  unfold fineReadyOp
  repeat' with_reducible (first
    | (intro _) | assumption | apply keeps_ite | apply keeps_foldl | apply keeps_foldl_fst | apply State.setB_keeps
    | dsimp only | rfl | split | exact Keeps.rfl')

theorem sftsSelectOp_keeps (l : Nat) (rx : Bool) {z s : State} (hk : Keeps z s) : Keeps z (sftsSelectOp l rx s) := by
  unfold sftsSelectOp
  repeat' with_reducible (first
    | (intro _) | assumption | apply keeps_ite | apply keeps_foldl | apply keeps_foldl_fst | apply State.set_keeps
    | apply State.setB_keeps | dsimp only | rfl | split | exact Keeps.rfl')

theorem tempValidTimeoutOp_keeps {z s : State} (hk : Keeps z s) : Keeps z (tempValidTimeoutOp s) := by
  unfold tempValidTimeoutOp
  repeat' with_reducible (first
    | (intro _) | assumption | apply keeps_ite | apply keeps_foldl | apply keeps_foldl_fst | apply learnWatch_keeps
    | apply State.setB_keeps | dsimp only | rfl | split | exact Keeps.rfl')

theorem trefQualifiedOp_keeps {z s : State} (hk : Keeps z s) : Keeps z (trefQualifiedOp s) := by
  unfold trefQualifiedOp
  repeat' with_reducible (first
    | (intro _) | assumption | apply keeps_ite | apply keeps_foldl | apply keeps_foldl_fst | apply State.setB_keeps
    | dsimp only | rfl | split | exact Keeps.rfl')

theorem trefLosOp_keeps {z s : State} (hk : Keeps z s) : Keeps z (trefLosOp s) := by
  unfold trefLosOp
  repeat' with_reducible (first
    | (intro _) | assumption | apply keeps_ite | apply keeps_foldl | apply keeps_foldl_fst | apply learnWatch_keeps
    | apply State.setB_keeps | apply State.irq_keeps | dsimp only | rfl | split | exact Keeps.rfl')

theorem trefFreqWriteOp_keeps (f : Nat) {z s : State} (hk : Keeps z s) : Keeps z (trefFreqWriteOp f s) := by
  unfold trefFreqWriteOp
  repeat' with_reducible (first
    | (intro _) | assumption | apply keeps_ite | apply keeps_foldl | apply keeps_foldl_fst | apply learnWatch_keeps
    | apply State.set_keeps | apply State.setB_keeps | dsimp only | rfl | split | exact Keeps.rfl')

theorem oscLearnUpdateOp_keeps (y t : Int) {z s : State} (hk : Keeps z s) : Keeps z (oscLearnUpdateOp y t s) := by
  unfold oscLearnUpdateOp
  repeat' with_reducible (first
    | (intro _) | assumption | apply keeps_ite | apply keeps_foldl | apply keeps_foldl_fst | apply learnBegin_keeps
    | apply State.setB_keeps | apply nvsPut_keeps | apply State.draw_keeps | dsimp only | rfl | split
    | exact Keeps.rfl')

theorem setEpoch_keeps (e : Nat) (ends : List Nat) (aging : Int) {z s : State} (hk : Keeps z s) : Keeps z (setEpoch
    e ends aging s) := by
  unfold setEpoch
  repeat' with_reducible (first
    | (intro _) | assumption | apply keeps_ite | apply keeps_foldl | apply keeps_foldl_fst | apply recordPut_keeps
    | apply State.set_keeps | apply State.setI_keeps | simp only [↓keeps_mk] | rfl | split | exact Keeps.rfl')

theorem oscEpochAdvanceOp_keeps {z s : State} (hk : Keeps z s) : Keeps z (oscEpochAdvanceOp s) := by
  unfold oscEpochAdvanceOp
  repeat' with_reducible (first
    | (intro _) | assumption | apply keeps_ite | apply keeps_foldl | apply keeps_foldl_fst | apply setEpoch_keeps
    | apply nvsClear_keeps | dsimp only | rfl | split | exact Keeps.rfl')

theorem oscClearOp_keeps {z s : State} (hk : Keeps z s) : Keeps z (oscClearOp s) := by
  unfold oscClearOp
  repeat' with_reducible (first
    | (intro _) | assumption | apply keeps_ite | apply keeps_foldl | apply keeps_foldl_fst | apply setEpoch_keeps
    | apply nvsClear_keeps | dsimp only | rfl | split | exact Keeps.rfl')

theorem holdQuality_keeps {z s : State} (hk : Keeps z s) : Keeps z (holdQuality s) := by
  unfold holdQuality
  repeat' with_reducible (first
    | (intro _) | assumption | apply keeps_ite | apply keeps_foldl | apply keeps_foldl_fst | apply State.set_keeps
    | apply State.irq_keeps | apply setQual_keeps | dsimp only | rfl | split | exact Keeps.rfl')

theorem tableMiss_keeps {z s : State} (hk : Keeps z s) : Keeps z (tableMiss s) := by
  unfold tableMiss
  repeat' with_reducible (first
    | (intro _) | assumption | apply keeps_ite | apply keeps_foldl | apply keeps_foldl_fst | apply State.setB_keeps
    | apply State.irq_keeps | dsimp only | rfl | split | exact Keeps.rfl')

theorem holdRate_keeps {z s : State} (hk : Keeps z s) : Keeps z (holdRate s) := by
  unfold holdRate
  repeat' with_reducible (first
    | (intro _) | assumption | apply keeps_ite | apply keeps_foldl | apply keeps_foldl_fst | apply setRate_keeps
    | apply tableMiss_keeps | dsimp only | rfl | split | exact Keeps.rfl')

theorem holdEnter_keeps {z s : State} (hk : Keeps z s) : Keeps z (holdEnter s) := by
  unfold holdEnter
  repeat' with_reducible (first
    | (intro _) | assumption | apply keeps_ite | apply keeps_foldl | apply keeps_foldl_fst | apply State.draw_keeps
    | apply holdQuality_keeps | apply setActive_keeps | apply holdRate_keeps | apply State.set_keeps
    | simp only [↓keeps_mk] | rfl | split | exact Keeps.rfl')

theorem holdLeave_keeps {z s : State} (hk : Keeps z s) : Keeps z (holdLeave s) := by
  unfold holdLeave
  repeat' with_reducible (first
    | (intro _) | assumption | apply keeps_ite | apply keeps_foldl | apply keeps_foldl_fst | apply State.set_keeps
    | simp only [↓keeps_mk] | rfl | split | exact Keeps.rfl')

theorem holdoverPredictOp_keeps (second : Bool) {z s : State} (hk : Keeps z s) : Keeps z (holdoverPredictOp second
    s) := by
  unfold holdoverPredictOp
  repeat' with_reducible (first
    | (intro _) | assumption | apply keeps_ite | apply keeps_foldl | apply keeps_foldl_fst | apply State.set_keeps
    | apply holdQuality_keeps | apply holdRate_keeps | apply State.draw_keeps | simp only [↓keeps_mk] | rfl | split
    | exact Keeps.rfl')

theorem servoUpdate_keeps (theta : Int) {z s : State} (hk : Keeps z s) : Keeps z (servoUpdate theta s) := by
  unfold servoUpdate
  repeat' with_reducible (first
    | (intro _) | assumption | apply keeps_ite | apply keeps_foldl | apply keeps_foldl_fst | apply State.draw_keeps
    | apply setRate_keeps | simp only [↓keeps_mk] | rfl | split | exact Keeps.rfl')

theorem qualCount_keeps (theta : Int) {z s : State} (hk : Keeps z s) : Keeps z (qualCount theta s) := by
  unfold qualCount
  repeat' with_reducible (first
    | (intro _) | assumption | apply keeps_ite | apply keeps_foldl | apply keeps_foldl_fst | apply setQual_keeps
    | simp only [↓keeps_mk] | rfl | split | exact Keeps.rfl')

theorem sourceBack_keeps {z s : State} (hk : Keeps z s) : Keeps z (sourceBack s) := by
  unfold sourceBack
  repeat' with_reducible (first
    | (intro _) | assumption | apply keeps_ite | apply keeps_foldl | apply keeps_foldl_fst | apply setQual_keeps
    | apply setActive_keeps | apply holdLeave_keeps | simp only [↓keeps_mk] | rfl | split | exact Keeps.rfl')

theorem measure_keeps (theta : Int) (d : Int) (straddles unauth : Bool) {z s : State} (hk : Keeps z s) : Keeps z
    (measure theta d straddles unauth s).1 := by
  unfold measure
  repeat' with_reducible (first
    | (intro _) | assumption | apply keeps_ite | apply keeps_foldl | apply keeps_foldl_fst | apply State.setI_keeps
    | apply State.satInc_keeps | apply sourceBack_keeps | apply qualCount_keeps | apply servoUpdate_keeps
    | simp only [↓keeps_mk] | rfl | split | exact Keeps.rfl' | (refine keeps_fst (by assumption) ?_))

theorem ppsNote_keeps (falling : Bool) (stamp : Nat) {z s : State} (hk : Keeps z s) : Keeps z (ppsNote falling
    stamp s) := by
  unfold ppsNote
  repeat' with_reducible (first
    | (intro _) | assumption | apply keeps_ite | apply keeps_foldl | apply keeps_foldl_fst | simp only [↓keeps_mk]
    | rfl | split | exact Keeps.rfl')

theorem ppsJudge_keeps (old : Option Nat) (stamp : Nat) {z s : State} (hk : Keeps z s) : Keeps z (ppsJudge old
    stamp s) := by
  unfold ppsJudge
  repeat' with_reducible (first
    | (intro _) | assumption | apply keeps_ite | apply keeps_foldl | apply keeps_foldl_fst | apply State.set_keeps
    | apply measure_keeps | apply State.irq_keeps | dsimp only | rfl | split | exact Keeps.rfl')

theorem ppsInEdgeOp_keeps (falling : Bool) (stamp : Nat) {z s : State} (hk : Keeps z s) : Keeps z (ppsInEdgeOp
    falling stamp s) := by
  unfold ppsInEdgeOp
  repeat' with_reducible (first
    | (intro _) | assumption | apply keeps_ite | apply keeps_foldl | apply keeps_foldl_fst | apply ppsNote_keeps
    | apply ppsJudge_keeps | dsimp only | rfl | split | exact Keeps.rfl')

theorem hostOfsWriteOp_keeps (v : Nat) {z s : State} (hk : Keeps z s) : Keeps z (hostOfsWriteOp v s) := by
  unfold hostOfsWriteOp
  repeat' with_reducible (first
    | (intro _) | assumption | apply keeps_ite | apply keeps_foldl | apply keeps_foldl_fst | apply measure_keeps
    | dsimp only | rfl | split | exact Keeps.rfl')

theorem sourceLossOp_keeps {z s : State} (hk : Keeps z s) : Keeps z (sourceLossOp s) := by
  unfold sourceLossOp
  repeat' with_reducible (first
    | (intro _) | assumption | apply keeps_ite | apply keeps_foldl | apply keeps_foldl_fst | apply holdEnter_keeps
    | apply setQual_keeps | apply setActive_keeps | apply setRate_keeps | apply State.irq_keeps
    | simp only [↓keeps_mk] | rfl | split | exact Keeps.rfl')

theorem exchangesDrop_keeps {z s : State} (hk : Keeps z s) : Keeps z (exchangesDrop s) := by
  unfold exchangesDrop
  repeat' with_reducible (first
    | (intro _) | assumption | apply keeps_ite | apply keeps_foldl | apply keeps_foldl_fst | apply State.putLink_keeps
    | simp only [↓keeps_mk] | rfl | split | exact Keeps.rfl')

theorem sourceSelect_keeps (src : Nat) {z s : State} (hk : Keeps z s) : Keeps z (sourceSelect src s) := by
  unfold sourceSelect
  repeat' with_reducible (first
    | (intro _) | assumption | apply keeps_ite | apply keeps_foldl | apply keeps_foldl_fst | apply exchangesDrop_keeps
    | apply holdLeave_keeps | apply holdEnter_keeps | apply setQual_keeps | apply setActive_keeps
    | simp only [↓keeps_mk] | rfl | split | exact Keeps.rfl')

theorem servoSrcWriteOp_keeps (v : Nat) {z s : State} (hk : Keeps z s) : Keeps z (servoSrcWriteOp v s) := by
  unfold servoSrcWriteOp
  repeat' with_reducible (first
    | (intro _) | assumption | apply keeps_ite | apply keeps_foldl | apply keeps_foldl_fst | apply State.set_keeps
    | apply State.conflict_keeps | simp only [↓keeps_mk] | rfl | split | exact Keeps.rfl')

theorem stepsTake_keeps (waiting : List CounterStep) (servo : Option Int) {z s : State} (hk : Keeps z s) : Keeps z
    (stepsTake waiting servo s) := by
  unfold stepsTake
  repeat' with_reducible (first
    | (intro _) | assumption | apply keeps_ite | apply keeps_foldl | apply keeps_foldl_fst | apply stepTake_keeps
    | apply requalify_keeps | dsimp only | rfl | split | exact Keeps.rfl')

theorem tick_keeps {z s : State} (hk : Keeps z s) : Keeps z (tick s) := by
  unfold tick
  repeat' with_reducible (first
    | (intro _) | assumption | apply keeps_ite | apply keeps_foldl | apply keeps_foldl_fst | apply countUp_keeps
    | apply sourceSelect_keeps | apply settle_keeps | apply stepsTake_keeps | simp only [↓keeps_mk] | rfl | split
    | exact Keeps.rfl')

theorem freqWrite_keeps (v : Nat) {z s : State} (hk : Keeps z s) : Keeps z (freqWrite v s) := by
  unfold freqWrite
  repeat' with_reducible (first
    | (intro _) | assumption | apply keeps_ite | apply keeps_foldl | apply keeps_foldl_fst
    | apply State.conflict_keeps | apply State.set_keeps | apply rateNote_keeps | simp only [↓keeps_mk] | rfl | split
    | exact Keeps.rfl')

theorem timeExchange_keeps (l : Nat) (m : FaostMsg) (t2 : Option Nat) {z s : State} (hk : Keeps z s) : Keeps z
    (timeExchange l m t2 s) := by
  unfold timeExchange
  repeat' with_reducible (first
    | (intro _) | assumption | apply keeps_ite | apply keeps_foldl | apply keeps_foldl_fst | apply State.satInc_keeps
    | apply State.count_keeps | apply measure_keeps | simp only [↓keeps_mk] | rfl | split | exact Keeps.rfl')

theorem timeOp_keeps (l : Nat) {z s : State} (hk : Keeps z s) : Keeps z (timeOp l s) := by
  unfold timeOp
  repeat' with_reducible (first
    | (intro _) | assumption | apply keeps_ite | apply keeps_foldl | apply keeps_foldl_fst | apply State.putLink_keeps
    | apply State.set_keeps | apply timeExchange_keeps | refine takeMessage_keeps _ _ ?_ (by assumption)
    | simp only [↓keeps_mk] | rfl | split | exact Keeps.rfl')

theorem ppsClaim_keeps {z s : State} (hk : Keeps z s) : Keeps z (ppsClaim s) := by
  unfold ppsClaim
  repeat' with_reducible (first
    | (intro _) | assumption | apply keeps_ite | apply keeps_foldl | apply keeps_foldl_fst | apply State.setB_keeps
    | apply State.set_keeps | apply alarmArm_keeps | apply State.putAlarm_keeps | apply State.claimRefused_keeps
    | simp only [↓keeps_mk] | rfl | split | exact Keeps.rfl')

theorem ppsRelease_keeps {z s : State} (hk : Keeps z s) : Keeps z (ppsRelease s) := by
  unfold ppsRelease
  repeat' with_reducible (first
    | (intro _) | assumption | apply keeps_ite | apply keeps_foldl | apply keeps_foldl_fst | apply State.setB_keeps
    | apply State.set_keeps | dsimp only | rfl | split | exact Keeps.rfl')

theorem ppsOutEnableOp_keeps {z s : State} (hk : Keeps z s) : Keeps z (ppsOutEnableOp s) := by
  unfold ppsOutEnableOp
  repeat' with_reducible (first
    | (intro _) | assumption | apply keeps_ite | apply keeps_foldl | apply keeps_foldl_fst | apply ppsClaim_keeps
    | dsimp only | rfl | split | exact Keeps.rfl')

theorem ppsOutDisableOp_keeps {z s : State} (hk : Keeps z s) : Keeps z (ppsOutDisableOp s) := by
  unfold ppsOutDisableOp
  repeat' with_reducible (first
    | (intro _) | assumption | apply keeps_ite | apply keeps_foldl | apply keeps_foldl_fst | apply ppsRelease_keeps
    | apply State.setB_keeps | dsimp only | rfl | split | exact Keeps.rfl')

theorem ppsOutOfsWriteOp_keeps (v : Nat) {z s : State} (hk : Keeps z s) : Keeps z (ppsOutOfsWriteOp v s) := by
  unfold ppsOutOfsWriteOp
  repeat' with_reducible (first
    | (intro _) | assumption | apply keeps_ite | apply keeps_foldl | apply keeps_foldl_fst
    | apply State.conflict_keeps | apply State.set_keeps | apply ppsClaim_keeps | dsimp only | rfl | split
    | exact Keeps.rfl')

theorem ppsMove_keeps (k : Nat) {z s : State} (hk : Keeps z s) : Keeps z (ppsMove k s) := by
  unfold ppsMove
  repeat' with_reducible (first
    | (intro _) | assumption | apply keeps_ite | apply keeps_foldl | apply keeps_foldl_fst | apply ppsRelease_keeps
    | apply State.set_keeps | dsimp only | rfl | split | exact Keeps.rfl')

theorem ppsOutAlarmWriteOp_keeps (k : Nat) {z s : State} (hk : Keeps z s) : Keeps z (ppsOutAlarmWriteOp k s) := by
  unfold ppsOutAlarmWriteOp
  repeat' with_reducible (first
    | (intro _) | assumption | apply keeps_ite | apply keeps_foldl | apply keeps_foldl_fst | apply ppsClaim_keeps
    | apply ppsMove_keeps | dsimp only | rfl | split | exact Keeps.rfl')

theorem ppsOutPulseEndOp_keeps {z s : State} (hk : Keeps z s) : Keeps z (ppsOutPulseEndOp s) := by
  unfold ppsOutPulseEndOp
  repeat' with_reducible (first
    | (intro _) | assumption | apply keeps_ite | apply keeps_foldl | apply keeps_foldl_fst | simp only [↓keeps_mk]
    | rfl | split | exact Keeps.rfl')

theorem gpioPulseEndOp_keeps (g : Nat) {z s : State} (hk : Keeps z s) : Keeps z (gpioPulseEndOp g s) := by
  unfold gpioPulseEndOp
  repeat' with_reducible (first
    | (intro _) | assumption | apply keeps_ite | apply keeps_foldl | apply keeps_foldl_fst | simp only [↓keeps_mk]
    | rfl | split | exact Keeps.rfl')

theorem timClear_keeps {z s : State} (hk : Keeps z s) : Keeps z (timClear s) := by
  unfold timClear
  repeat' with_reducible (first
    | (intro _) | assumption | apply keeps_ite | apply keeps_foldl | apply keeps_foldl_fst | simp only [↓keeps_mk]
    | rfl | split | exact Keeps.rfl')

end Sys2Proof.Machine
end

