-- ==== Sys2Proof/Laws/KeepsReceive.lean ====
section
/-!
SUPPORT. The operations of Machine/Receive.lean keep the queue and the canonical forms.
-/

namespace Sys2Proof.Machine

open Sys2Proof

theorem stampRx_keeps (l : Nat) {z s : State} (hk : Keeps z s) : Keeps z (stampRx l s) := by
  unfold stampRx
  repeat' with_reducible (first
    | (intro _) | assumption | apply keeps_ite | apply keeps_foldl | apply keeps_foldl_fst
    | apply State.putStamp_keeps | apply State.draw_keeps | simp only [↓keeps_mk] | rfl | split | exact Keeps.rfl')

theorem burstSeenNow_keeps (l : Nat) {z s : State} (hk : Keeps z s) : Keeps z (burstSeenNow l s) := by
  unfold burstSeenNow
  repeat' with_reducible (first
    | (intro _) | assumption | apply keeps_ite | apply keeps_foldl | apply keeps_foldl_fst | apply State.putRx_keeps
    | apply State.setB_keeps | simp only [↓keeps_mk] | rfl | split | exact Keeps.rfl')

theorem pilotBad_keeps (l : Nat) {z s : State} (hk : Keeps z s) : Keeps z (pilotBad l s) := by
  unfold pilotBad
  repeat' with_reducible (first
    | (intro _) | assumption | apply keeps_ite | apply keeps_foldl | apply keeps_foldl_fst | apply State.satInc_keeps
    | apply State.count_keeps | dsimp only | rfl | split | exact Keeps.rfl')

theorem pilotFieldDim_keeps (l f : Nat) (good : Bool) {z s : State} (hk : Keeps z s) : Keeps z (pilotFieldDim l f
    good s) := by
  unfold pilotFieldDim
  repeat' with_reducible (first
    | (intro _) | assumption | apply keeps_ite | apply keeps_foldl | apply keeps_foldl_fst | apply State.putRx_keeps
    | apply pilotBad_keeps | apply stampRx_keeps | apply State.wrapInc_keeps | apply burstSeenNow_keeps
    | simp only [↓keeps_mk] | rfl | split | exact Keeps.rfl')

theorem calPilots_keeps (l f : Nat) (comp : Bool) (v : PilotField) {z s : State} (hk : Keeps z s) : Keeps z
    (calPilots l f comp v s) := by
  unfold calPilots
  repeat' with_reducible (first
    | (intro _) | assumption | apply keeps_ite | apply keeps_foldl | apply keeps_foldl_fst | apply State.putCal_keeps
    | simp only [↓keeps_mk] | rfl | split | exact Keeps.rfl')

theorem rxPilotFieldOp_keeps (l f : Nat) (v : PilotField) {z s : State} (hk : Keeps z s) : Keeps z (rxPilotFieldOp
    l f v s) := by
  unfold rxPilotFieldOp
  repeat' with_reducible (first
    | (intro _) | assumption | apply keeps_ite | apply keeps_foldl | apply keeps_foldl_fst | apply State.count_keeps
    | apply pilotFieldDim_keeps | apply State.putRx_keeps | apply calPilots_keeps | apply pilotBad_keeps
    | simp only [↓keeps_mk] | rfl | split | exact Keeps.rfl')

theorem pilotLockOp_keeps (l : Nat) {z s : State} (hk : Keeps z s) : Keeps z (pilotLockOp l s) := by
  unfold pilotLockOp
  repeat' with_reducible (first
    | (intro _) | assumption | apply keeps_ite | apply keeps_foldl | apply keeps_foldl_fst | apply passRefresh_keeps
    | apply State.change_keeps | dsimp only | rfl | split | exact Keeps.rfl')

theorem pilotDrop_keeps (l : Nat) {z s : State} (hk : Keeps z s) : Keeps z (pilotDrop l s) := by
  unfold pilotDrop
  repeat' with_reducible (first
    | (intro _) | assumption | apply keeps_ite | apply keeps_foldl | apply keeps_foldl_fst | apply capCause_keeps
    | apply State.change_keeps | apply calDiscardAdc_keeps | apply linkDown_keeps | apply passRefresh_keeps
    | apply State.putRx_keeps | simp only [↓keeps_mk] | rfl | split | exact Keeps.rfl')

theorem pilotLockLossOp_keeps (l : Nat) {z s : State} (hk : Keeps z s) : Keeps z (pilotLockLossOp l s) := by
  unfold pilotLockLossOp
  repeat' with_reducible (first
    | (intro _) | assumption | apply keeps_ite | apply keeps_foldl | apply keeps_foldl_fst | apply enterState_keeps
    | apply pilotDrop_keeps | dsimp only | rfl | split | exact Keeps.rfl')

theorem sfcSearch_keeps (l v : Nat) {z s : State} (hk : Keeps z s) : Keeps z (sfcSearch l v s) := by
  unfold sfcSearch
  repeat' with_reducible (first
    | (intro _) | assumption | apply keeps_ite | apply keeps_foldl | apply keeps_foldl_fst | apply State.putRx_keeps
    | simp only [↓keeps_mk] | rfl | split | exact Keeps.rfl')

theorem sfcCompare_keeps (l v : Nat) {z s : State} (hk : Keeps z s) : Keeps z (sfcCompare l v s) := by
  unfold sfcCompare
  repeat' with_reducible (first
    | (intro _) | assumption | apply keeps_ite | apply keeps_foldl | apply keeps_foldl_fst | apply State.wrapInc_keeps
    | apply State.putRx_keeps | apply State.satInc_keeps | apply State.irq_keeps | simp only [↓keeps_mk] | rfl | split
    | exact Keeps.rfl')

theorem rxSfcReceivedOp_keeps (l v : Nat) {z s : State} (hk : Keeps z s) : Keeps z (rxSfcReceivedOp l v s) := by
  unfold rxSfcReceivedOp
  repeat' with_reducible (first
    | (intro _) | assumption | apply keeps_ite | apply keeps_foldl | apply keeps_foldl_fst | apply calRxBoundary_keeps
    | apply stampRx_keeps | apply sfcCompare_keeps | apply sfcSearch_keeps | dsimp only | rfl | split
    | exact Keeps.rfl')

theorem scrLockOp_keeps (l : Nat) {z s : State} (hk : Keeps z s) : Keeps z (scrLockOp l s) := by
  unfold scrLockOp
  repeat' with_reducible (first
    | (intro _) | assumption | apply keeps_ite | apply keeps_foldl | apply keeps_foldl_fst | apply State.set_keeps
    | apply passRefresh_keeps | apply State.change_keeps | apply State.putRx_keeps | simp only [↓keeps_mk] | rfl
    | split | exact Keeps.rfl')

theorem scrLockLossOp_keeps (l : Nat) {z s : State} (hk : Keeps z s) : Keeps z (scrLockLossOp l s) := by
  unfold scrLockLossOp
  repeat' with_reducible (first
    | (intro _) | assumption | apply keeps_ite | apply keeps_foldl | apply keeps_foldl_fst | apply State.putRx_keeps
    | apply calDiscardAdc_keeps | apply State.change_keeps | apply State.setB_keeps | apply linkDown_keeps
    | apply sdSf_keeps | apply passRefresh_keeps | simp only [↓keeps_mk] | rfl | split | exact Keeps.rfl')

theorem idecResumeOp_keeps (l : Nat) {z s : State} (hk : Keeps z s) : Keeps z (idecResumeOp l s) := by
  unfold idecResumeOp
  repeat' with_reducible (first
    | (intro _) | assumption | apply keeps_ite | apply keeps_foldl | apply keeps_foldl_fst | apply passRefresh_keeps
    | apply windowClear_keeps | apply State.setB_keeps | dsimp only | rfl | split | exact Keeps.rfl')

theorem dimEntryOp_keeps (l : Nat) {z s : State} (hk : Keeps z s) : Keeps z (dimEntryOp l s) := by
  unfold dimEntryOp
  repeat' with_reducible (first
    | (intro _) | assumption | apply keeps_ite | apply keeps_foldl | apply keeps_foldl_fst | apply enterState_keeps
    | apply State.putRx_keeps | simp only [↓keeps_mk] | rfl | split | exact Keeps.rfl')

theorem dimExitOp_keeps (l : Nat) {z s : State} (hk : Keeps z s) : Keeps z (dimExitOp l s) := by
  unfold dimExitOp
  repeat' with_reducible (first
    | (intro _) | assumption | apply keeps_ite | apply keeps_foldl | apply keeps_foldl_fst | apply enterState_keeps
    | dsimp only | rfl | split | exact Keeps.rfl')

theorem powerDetectorReadyOp_keeps (l : Nat) {z s : State} (hk : Keeps z s) : Keeps z (powerDetectorReadyOp l s) := by
  unfold powerDetectorReadyOp
  repeat' with_reducible (first
    | (intro _) | assumption | apply keeps_ite | apply keeps_foldl | apply keeps_foldl_fst | apply State.putRx_keeps
    | simp only [↓keeps_mk] | rfl | split | exact Keeps.rfl')

theorem losSetOp_keeps (l amp : Nat) {z s : State} (hk : Keeps z s) : Keeps z (losSetOp l amp s) := by
  unfold losSetOp
  repeat' with_reducible (first
    | (intro _) | assumption | apply keeps_ite | apply keeps_foldl | apply keeps_foldl_fst | apply State.setB_keeps
    | apply capCause_keeps | apply calDiscardAdc_keeps | apply State.change_keeps | apply enterState_keeps
    | dsimp only | rfl | split | exact Keeps.rfl')

theorem losRawClearOp_keeps (l amp : Nat) {z s : State} (hk : Keeps z s) : Keeps z (losRawClearOp l amp s) := by
  unfold losRawClearOp
  repeat' with_reducible (first
    | (intro _) | assumption | apply keeps_ite | apply keeps_foldl | apply keeps_foldl_fst | apply State.setB_keeps
    | dsimp only | rfl | split | exact Keeps.rfl')

theorem losClearOp_keeps (l : Nat) {z s : State} (hk : Keeps z s) : Keeps z (losClearOp l s) := by
  unfold losClearOp
  repeat' with_reducible (first
    | (intro _) | assumption | apply keeps_ite | apply keeps_foldl | apply keeps_foldl_fst | apply State.change_keeps
    | dsimp only | rfl | split | exact Keeps.rfl')

theorem dimSignalTimeoutOp_keeps (l : Nat) {z s : State} (hk : Keeps z s) : Keeps z (dimSignalTimeoutOp l s) := by
  unfold dimSignalTimeoutOp
  repeat' with_reducible (first
    | (intro _) | assumption | apply keeps_ite | apply keeps_foldl | apply keeps_foldl_fst | apply State.setB_keeps
    | dsimp only | rfl | split | exact Keeps.rfl')

theorem agcStep_keeps (l : Nat) (x : LineSamples) {z s : State} (hk : Keeps z s) : Keeps z (agcStep l x s) := by
  unfold agcStep
  repeat' with_reducible (first
    | (intro _) | assumption | apply keeps_ite | apply keeps_foldl | apply keeps_foldl_fst | apply gainPut_keeps
    | dsimp only | rfl | split | exact Keeps.rfl')

theorem ctleStep_keeps (l code : Nat) {z s : State} (hk : Keeps z s) : Keeps z (ctleStep l code s) := by
  unfold ctleStep
  repeat' with_reducible (first
    | (intro _) | assumption | apply keeps_ite | apply keeps_foldl | apply keeps_foldl_fst | apply gainPut_keeps
    | dsimp only | rfl | split | exact Keeps.rfl')

theorem fineTapsPut_keeps (l : Nat) (vs : List Int) {z s : State} (hk : Keeps z s) : Keeps z (fineTapsPut l vs s)
    := by
  unfold fineTapsPut
  repeat' with_reducible (first
    | (intro _) | assumption | apply keeps_ite | apply keeps_foldl | apply keeps_foldl_fst | apply State.setI_keeps
    | apply State.putRx_keeps | simp only [↓keeps_mk] | rfl | split | exact Keeps.rfl')

theorem lmsStep_keeps (l : Nat) (p : RxShape) (u : RxUpdate) (lv : List Nat) {z s : State} (hk : Keeps z s) : Keeps
    z (lmsStep l p u lv s) := by
  unfold lmsStep
  repeat' with_reducible (first
    | (intro _) | assumption | apply keeps_ite | apply keeps_foldl | apply keeps_foldl_fst | apply fineTapsPut_keeps
    | dsimp only | rfl | split | exact Keeps.rfl')

theorem echoStep_keeps (l : Nat) (vs : List Int) {z s : State} (hk : Keeps z s) : Keeps z (echoStep l vs s) := by
  unfold echoStep
  repeat' with_reducible (first
    | (intro _) | assumption | apply keeps_ite | apply keeps_foldl | apply keeps_foldl_fst | apply State.setI_keeps
    | dsimp only | rfl | split | exact Keeps.rfl')

theorem loopValues_keeps (l : Nat) (p : RxShape) (u : RxUpdate) (lv : List Nat) {z s : State} (hk : Keeps z s) :
    Keeps z (loopValues l p u lv s) := by
  unfold loopValues
  repeat' with_reducible (first
    | (intro _) | assumption | apply keeps_ite | apply keeps_foldl | apply keeps_foldl_fst | apply agcStep_keeps
    | apply ctleStep_keeps | apply lmsStep_keeps | apply echoStep_keeps | dsimp only | rfl | split | exact Keeps.rfl')

theorem loopRuns_keeps (l : Nat) (u : RxUpdate) (before es : List Int) {z s : State} (hk : Keeps z s) : Keeps z
    (loopRuns l u before es s) := by
  unfold loopRuns
  repeat' with_reducible (first
    | (intro _) | assumption | apply keeps_ite | apply keeps_foldl | apply keeps_foldl_fst | apply State.putRx_keeps
    | simp only [↓keeps_mk] | rfl | split | exact Keeps.rfl')

theorem timingPut_keeps (l : Nat) (u : RxUpdate) (es : List Int) {z s : State} (hk : Keeps z s) : Keeps z
    (timingPut l u es s) := by
  unfold timingPut
  repeat' with_reducible (first
    | (intro _) | assumption | apply keeps_ite | apply keeps_foldl | apply keeps_foldl_fst | apply State.putRx_keeps
    | apply State.setI_keeps | simp only [↓keeps_mk] | rfl | split | exact Keeps.rfl')

theorem measureAdd_keeps (l : Nat) (p : RxShape) (x : LineSamples) (lv : List Nat) {z s : State} (hk : Keeps z s) :
    Keeps z (measureAdd l p x lv s) := by
  unfold measureAdd
  repeat' with_reducible (first
    | (intro _) | assumption | apply keeps_ite | apply keeps_foldl | apply keeps_foldl_fst | apply State.putRx_keeps
    | simp only [↓keeps_mk] | rfl | split | exact Keeps.rfl')

theorem histCount_keeps (l : Nat) (code : Int) (level : Nat) {z s : State} (hk : Keeps z s) : Keeps z (histCount l
    code level s) := by
  unfold histCount
  repeat' with_reducible (first
    | (intro _) | assumption | apply keeps_ite | apply keeps_foldl | apply keeps_foldl_fst | apply State.putRx_keeps
    | apply State.satInc_keeps | simp only [↓keeps_mk] | rfl | split | exact Keeps.rfl')

theorem histTake_keeps (l : Nat) (p : RxShape) (x : LineSamples) (lv : List Nat) {z s : State} (hk : Keeps z s) :
    Keeps z (histTake l p x lv s) := by
  unfold histTake
  repeat' with_reducible (first
    | (intro _) | assumption | apply keeps_ite | apply keeps_foldl | apply keeps_foldl_fst | apply histCount_keeps
    | apply State.putRx_keeps | simp only [↓keeps_mk] | rfl | split | exact Keeps.rfl')

theorem rxSuperframeUpdateOp_keeps (l : Nat) (u : RxUpdate) {z s : State} (hk : Keeps z s) : Keeps z
    (rxSuperframeUpdateOp l u s) := by
  unfold rxSuperframeUpdateOp
  repeat' with_reducible (first
    | (intro _) | assumption | apply keeps_ite | apply keeps_foldl | apply keeps_foldl_fst | apply histTake_keeps
    | apply measureAdd_keeps | apply capNote_keeps | apply timingPut_keeps | apply loopRuns_keeps
    | apply loopValues_keeps | apply State.satInc_keeps | apply State.irq_keeps | dsimp only | rfl | split
    | exact Keeps.rfl')

theorem agcDoneOp_keeps (l : Nat) {z s : State} (hk : Keeps z s) : Keeps z (agcDoneOp l s) := by
  unfold agcDoneOp
  repeat' with_reducible (first
    | (intro _) | assumption | apply keeps_ite | apply keeps_foldl | apply keeps_foldl_fst | apply State.setB_keeps
    | dsimp only | rfl | split | exact Keeps.rfl')

theorem trLockAcquiredOp_keeps (l : Nat) {z s : State} (hk : Keeps z s) : Keeps z (trLockAcquiredOp l s) := by
  unfold trLockAcquiredOp
  repeat' with_reducible (first
    | (intro _) | assumption | apply keeps_ite | apply keeps_foldl | apply keeps_foldl_fst | apply hostClockSlew_keeps
    | apply State.change_keeps | dsimp only | rfl | split | exact Keeps.rfl')

theorem trLockLostOp_keeps (l : Nat) {z s : State} (hk : Keeps z s) : Keeps z (trLockLostOp l s) := by
  unfold trLockLostOp
  repeat' with_reducible (first
    | (intro _) | assumption | apply keeps_ite | apply keeps_foldl | apply keeps_foldl_fst
    | apply calStopApplying_keeps | apply calDiscardAdc_keeps | apply hostClockSlew_keeps | apply State.change_keeps
    | dsimp only | rfl | split | exact Keeps.rfl')

theorem hostClockSlewDoneOp_keeps (l : Nat) {z s : State} (hk : Keeps z s) : Keeps z (hostClockSlewDoneOp l s) := by
  unfold hostClockSlewDoneOp
  repeat' with_reducible (first
    | (intro _) | assumption | apply keeps_ite | apply keeps_foldl | apply keeps_foldl_fst | apply State.putHost_keeps
    | apply State.setB_keeps | simp only [↓keeps_mk] | rfl | split | exact Keeps.rfl')

theorem echoSearchOp_keeps (l : Nat) (ps : List (Nat × Nat)) {z s : State} (hk : Keeps z s) : Keeps z (echoSearchOp
    l ps s) := by
  unfold echoSearchOp
  repeat' with_reducible (first
    | (intro _) | assumption | apply keeps_ite | apply keeps_foldl | apply keeps_foldl_fst | apply capNote_keeps
    | apply State.set_keeps | apply State.setB_keeps | dsimp only | rfl | split | exact Keeps.rfl')

theorem freezeCopy_keeps (l new old newAfe oldAfe : Nat) {z s : State} (hk : Keeps z s) : Keeps z (freezeCopy l new
    old newAfe oldAfe s) := by
  unfold freezeCopy
  repeat' with_reducible (first
    | (intro _) | assumption | apply keeps_ite | apply keeps_foldl | apply keeps_foldl_fst | apply State.set_keeps
    | apply State.setI_keeps | dsimp only | rfl | split | exact Keeps.rfl')

theorem adaptPut_keeps (l v : Nat) {z s : State} (hk : Keeps z s) : Keeps z (adaptPut l v s) := by
  unfold adaptPut
  repeat' with_reducible (first
    | (intro _) | assumption | apply keeps_ite | apply keeps_foldl | apply keeps_foldl_fst | apply State.set_keeps
    | dsimp only | rfl | split | exact Keeps.rfl')

theorem freezeSettle_keeps (l : Nat) {z s : State} (hk : Keeps z s) : Keeps z (freezeSettle l s) := by
  unfold freezeSettle
  repeat' with_reducible (first
    | (intro _) | assumption | apply keeps_ite | apply keeps_foldl | apply keeps_foldl_fst | apply capNote_keeps
    | apply freezeApply_keeps | dsimp only | rfl | split | exact Keeps.rfl')

theorem adaptFreezeOp_keeps (l v : Nat) {z s : State} (hk : Keeps z s) : Keeps z (adaptFreezeOp l v s) := by
  unfold adaptFreezeOp
  repeat' with_reducible (first
    | (intro _) | assumption | apply keeps_ite | apply keeps_foldl | apply keeps_foldl_fst | apply freezeCopy_keeps
    | apply adaptPut_keeps | apply State.set_keeps | apply freezeSettle_keeps | dsimp only | rfl | split
    | exact Keeps.rfl')

theorem ffeCopy_keeps (l src dst : Nat) {z s : State} (hk : Keeps z s) : Keeps z (ffeCopy l src dst s) := by
  unfold ffeCopy
  repeat' with_reducible (first
    | (intro _) | assumption | apply keeps_ite | apply keeps_foldl | apply keeps_foldl_fst | apply State.set_keeps
    | apply State.putRx_keeps | simp only [↓keeps_mk] | rfl | split | exact Keeps.rfl')

theorem ffeCommitOp_keeps (l : Nat) {z s : State} (hk : Keeps z s) : Keeps z (ffeCommitOp l s) := by
  unfold ffeCommitOp
  repeat' with_reducible (first
    | (intro _) | assumption | apply keeps_ite | apply keeps_foldl | apply keeps_foldl_fst
    | apply State.conflict_keeps | apply State.putRx_keeps | simp only [↓keeps_mk] | rfl | split | exact Keeps.rfl')

theorem ffeCommitApplyOp_keeps (l : Nat) {z s : State} (hk : Keeps z s) : Keeps z (ffeCommitApplyOp l s) := by
  unfold ffeCommitApplyOp
  repeat' with_reducible (first
    | (intro _) | assumption | apply keeps_ite | apply keeps_foldl | apply keeps_foldl_fst | apply capNote_keeps
    | apply ffeCopy_keeps | apply State.putRx_keeps | simp only [↓keeps_mk] | rfl | split | exact Keeps.rfl')

theorem ffeSnapOp_keeps (l : Nat) {z s : State} (hk : Keeps z s) : Keeps z (ffeSnapOp l s) := by
  unfold ffeSnapOp
  repeat' with_reducible (first
    | (intro _) | assumption | apply keeps_ite | apply keeps_foldl | apply keeps_foldl_fst | apply ffeCopy_keeps
    | dsimp only | rfl | split | exact Keeps.rfl')

theorem warmStartTimeoutOp_keeps (l : Nat) {z s : State} (hk : Keeps z s) : Keeps z (warmStartTimeoutOp l s) := by
  unfold warmStartTimeoutOp
  repeat' with_reducible (first
    | (intro _) | assumption | apply keeps_ite | apply keeps_foldl | apply keeps_foldl_fst | apply capNote_keeps
    | apply reachLoad_keeps | apply State.putRx_keeps | simp only [↓keeps_mk] | rfl | split | exact Keeps.rfl')

theorem ffeConvergedOp_keeps (l : Nat) {z s : State} (hk : Keeps z s) : Keeps z (ffeConvergedOp l s) := by
  unfold ffeConvergedOp
  repeat' with_reducible (first
    | (intro _) | assumption | apply keeps_ite | apply keeps_foldl | apply keeps_foldl_fst | apply State.setB_keeps
    | dsimp only | rfl | split | exact Keeps.rfl')

theorem mlseConvergedOp_keeps (l : Nat) {z s : State} (hk : Keeps z s) : Keeps z (mlseConvergedOp l s) := by
  unfold mlseConvergedOp
  repeat' with_reducible (first
    | (intro _) | assumption | apply keeps_ite | apply keeps_foldl | apply keeps_foldl_fst | apply State.setB_keeps
    | dsimp only | rfl | split | exact Keeps.rfl')

theorem snrOf_keeps (means sigmas : List Int) {z s : State} (hk : Keeps z s) : Keeps z (snrOf means sigmas s).2 := by
  unfold snrOf
  repeat' with_reducible (first
    | (intro _) | assumption | apply keeps_ite | apply keeps_foldl | apply keeps_foldl_fst | apply State.draw_keeps
    | dsimp only | rfl | split | exact Keeps.rfl')

theorem levelsInUse_keeps (l : Nat) (means sigmas : List Int) (h1 h2 : Nat) {z s : State} (hk : Keeps z s) : Keeps
    z (levelsInUse l means sigmas h1 h2 s) := by
  unfold levelsInUse
  repeat' with_reducible (first
    | (intro _) | assumption | apply keeps_ite | apply keeps_foldl | apply keeps_foldl_fst | apply State.setI_keeps
    | apply State.set_keeps | apply State.putRx_keeps | simp only [↓keeps_mk] | rfl | split | exact Keeps.rfl')

theorem snrReport_keeps (l snr : Nat) (ten : Bool) {z s : State} (hk : Keeps z s) : Keeps z (snrReport l snr ten s)
    := by
  unfold snrReport
  repeat' with_reducible (first
    | (intro _) | assumption | apply keeps_ite | apply keeps_foldl | apply keeps_foldl_fst | apply State.putRx_keeps
    | apply State.setB_keeps | apply capCause_keeps | apply State.irq_keeps | apply State.set_keeps
    | simp only [↓keeps_mk] | rfl | split | exact Keeps.rfl')

theorem windowLevels_keeps (ms : List LevelSum) {z s : State} (hk : Keeps z s) : Keeps z (windowLevels ms s).2.2 := by
  unfold windowLevels
  suffices h : ∀ v : List Int × List Int × State, Keeps z v.2.2 → Keeps z (ms.foldl _ v).2.2 from h ([], [], s) hk
  induction ms with
  | nil => exact fun _ h => h
  | cons m ms ih =>
    intro v hv
    refine ih _ ?_
    dsimp only
    split
    · exact hv
    · exact State.draw_keeps (State.draw_keeps hv)

theorem measWindowEndOp_keeps (l : Nat) (h1 h2 : Nat) {z s : State} (hk : Keeps z s) : Keeps z (measWindowEndOp l
    h1 h2 s) := by
  unfold measWindowEndOp
  repeat' with_reducible (first
    | (intro _) | assumption | apply keeps_ite | apply keeps_foldl | apply keeps_foldl_fst | apply windowLevels_keeps
    | apply State.putRx_keeps | apply capNote_keeps | apply levelsInUse_keeps | apply snrOf_keeps
    | apply snrReport_keeps | simp only [↓keeps_mk] | rfl | split | exact Keeps.rfl')

theorem histStartOp_keeps (l : Nat) {z s : State} (hk : Keeps z s) : Keeps z (histStartOp l s) := by
  unfold histStartOp
  repeat' with_reducible (first
    | (intro _) | assumption | apply keeps_ite | apply keeps_foldl | apply keeps_foldl_fst
    | apply State.conflict_keeps | apply State.set_keeps | apply State.putRx_keeps | apply State.setB_keeps
    | simp only [↓keeps_mk] | rfl | split | exact Keeps.rfl')

theorem histDoneOp_keeps (l : Nat) {z s : State} (hk : Keeps z s) : Keeps z (histDoneOp l s) := by
  unfold histDoneOp
  repeat' with_reducible (first
    | (intro _) | assumption | apply keeps_ite | apply keeps_foldl | apply keeps_foldl_fst | apply State.setB_keeps
    | apply State.irq_keeps | dsimp only | rfl | split | exact Keeps.rfl')

end Sys2Proof.Machine
end

