-- ==== Sys2Proof/Laws/KeepsFec.lean ====
section
/-!
SUPPORT. The operations of Machine/Fec.lean keep the queue and the canonical forms.
-/

namespace Sys2Proof.Machine

open Sys2Proof

theorem idecSettings_keeps (l : Nat) {z s : State} (hk : Keeps z s) : Keeps z (idecSettings l s) := by
  unfold idecSettings
  repeat' with_reducible (first
    | (intro _) | assumption | apply keeps_ite | apply keeps_foldl | apply keeps_foldl_fst | apply passRefresh_keeps
    | apply State.putRx_keeps | simp only [↓keeps_mk] | rfl | split | exact Keeps.rfl')

theorem calPairs_keeps (l : Nat) (p : RxShape) (x : LineSamples) {z s : State} (hk : Keeps z s) : Keeps z (calPairs
    l p x s) := by
  unfold calPairs
  repeat' with_reducible (first
    | (intro _) | assumption | apply keeps_ite | apply keeps_foldl | apply keeps_foldl_fst | apply State.putCal_keeps
    | simp only [↓keeps_mk] | rfl | split | exact Keeps.rfl')

theorem countWord_keeps (l : Nat) (d : Decoded) {z s : State} (hk : Keeps z s) : Keeps z (countWord l d s) := by
  unfold countWord
  repeat' with_reducible (first
    | (intro _) | assumption | apply keeps_ite | apply keeps_foldl | apply keeps_foldl_fst | apply State.wrapInc_keeps
    | apply State.putRx_keeps | apply capCause_keeps | apply State.count_keeps | apply State.irq_keeps
    | simp only [↓keeps_mk] | rfl | split | exact Keeps.rfl')

theorem deliver_keeps (l : Nat) (a b : Decoded) {z s : State} (hk : Keeps z s) : Keeps z (deliver l a b s) := by
  unfold deliver
  repeat' with_reducible (first
    | (intro _) | assumption | apply keeps_ite | apply keeps_foldl | apply keeps_foldl_fst | apply countWord_keeps
    | apply State.putRx_keeps | simp only [↓keeps_mk] | rfl | split | exact Keeps.rfl')

theorem secondPass_keeps (l : Nat) (p : RxShape) (x : LineSamples) (sc : List Nat) (paused : Bool) (a b : Decoded)
    (ra rb : List Int) {z s : State} (hk : Keeps z s) : Keeps z (secondPass l p x sc paused a b ra rb s) := by
  unfold secondPass
  repeat' with_reducible (first
    | (intro _) | assumption | apply keeps_ite | apply keeps_foldl | apply keeps_foldl_fst | apply State.putRx_keeps
    | apply deliver_keeps | apply State.wrapInc_keeps | apply State.count_keeps | simp only [↓keeps_mk] | rfl | split
    | exact Keeps.rfl')

theorem framePasses_keeps (l f : Nat) (p : RxShape) (x : LineSamples) (v : List Int) {z s : State} (hk : Keeps z s)
    : Keeps z (framePasses l f p x v s) := by
  unfold framePasses
  repeat' with_reducible (first
    | (intro _) | assumption | apply keeps_ite | apply keeps_foldl | apply keeps_foldl_fst | apply State.putRx_keeps
    | apply secondPass_keeps | apply deliver_keeps | simp only [↓keeps_mk] | rfl | split | exact Keeps.rfl')

theorem idecFrameOp_keeps (l f : Nat) (x : LineSamples) {z s : State} (hk : Keeps z s) : Keeps z (idecFrameOp l f x
    s) := by
  unfold idecFrameOp
  repeat' with_reducible (first
    | (intro _) | assumption | apply keeps_ite | apply keeps_foldl | apply keeps_foldl_fst | apply idecSettings_keeps
    | apply calPairs_keeps | apply State.count_keeps | apply framePasses_keeps | simp only [↓keeps_mk] | rfl | split
    | exact Keeps.rfl')

theorem idecClrOp_keeps (l : Nat) {z s : State} (hk : Keeps z s) : Keeps z (idecClrOp l s) := by
  unfold idecClrOp
  repeat' with_reducible (first
    | (intro _) | assumption | apply keeps_ite | apply keeps_foldl | apply keeps_foldl_fst | apply State.set_keeps
    | apply windowClear_keeps | dsimp only | rfl | split | exact Keeps.rfl')

theorem judgeSd_keeps (l corr w : Nat) {z s : State} (hk : Keeps z s) : Keeps z (judgeSd l corr w s) := by
  unfold judgeSd
  repeat' with_reducible (first
    | (intro _) | assumption | apply keeps_ite | apply keeps_foldl | apply keeps_foldl_fst | apply State.putRx_keeps
    | apply State.change_keeps | simp only [↓keeps_mk] | rfl | split | exact Keeps.rfl')

theorem judgeSf_keeps (l corr uncorr w : Nat) {z s : State} (hk : Keeps z s) : Keeps z (judgeSf l corr uncorr w s)
    := by
  unfold judgeSf
  repeat' with_reducible (first
    | (intro _) | assumption | apply keeps_ite | apply keeps_foldl | apply keeps_foldl_fst | apply State.putRx_keeps
    | apply State.change_keeps | simp only [↓keeps_mk] | rfl | split | exact Keeps.rfl')

theorem idecWindowEndOp_keeps (l : Nat) {z s : State} (hk : Keeps z s) : Keeps z (idecWindowEndOp l s) := by
  unfold idecWindowEndOp
  repeat' with_reducible (first
    | (intro _) | assumption | apply keeps_ite | apply keeps_foldl | apply keeps_foldl_fst | apply State.set_keeps
    | apply State.setB_keeps | apply windowClear_keeps | apply judgeSf_keeps | apply judgeSd_keeps
    | apply State.irq_keeps | dsimp only | rfl | split | exact Keeps.rfl')

theorem countSymbols_keeps (set : Nat) (members word fixed carriers : List Nat) {z s : State} (hk : Keeps z s) :
    Keeps z (countSymbols set members word fixed carriers s) := by
  unfold countSymbols
  repeat' with_reducible (first
    | (intro _) | assumption | apply keeps_ite | apply keeps_foldl | apply keeps_foldl_fst | apply State.wrapInc_keeps
    | dsimp only | rfl | split | exact Keeps.rfl')

theorem countCodeword_keeps (l set : Nat) (word carriers : List Nat) (r : Option (List Nat × Nat)) {z s : State}
    (hk : Keeps z s) : Keeps z (countCodeword l set word carriers r s) := by
  unfold countCodeword
  repeat' with_reducible (first
    | (intro _) | assumption | apply keeps_ite | apply keeps_foldl | apply keeps_foldl_fst | apply State.wrapInc_keeps
    | apply countSymbols_keeps | apply State.satInc_keeps | apply State.count_keeps | apply State.irq_keeps
    | dsimp only | rfl | split | exact Keeps.rfl')

theorem forwardWord_keeps (members : List Nat) (out carriers : List Nat) {z s : State} (hk : Keeps z s) : Keeps z
    (forwardWord members out carriers s) := by
  unfold forwardWord
  repeat' with_reducible (first
    | (intro _) | assumption | apply keeps_ite | apply keeps_foldl | apply keeps_foldl_fst | apply State.set_keeps
    | apply State.putRx_keeps | simp only [↓keeps_mk] | rfl | split | exact Keeps.rfl')

theorem ocCodewordOp_keeps (l set : Nat) (word carriers : List Nat) {z s : State} (hk : Keeps z s) : Keeps z
    (ocCodewordOp l set word carriers s) := by
  unfold ocCodewordOp
  repeat' with_reducible (first
    | (intro _) | assumption | apply keeps_ite | apply keeps_foldl | apply keeps_foldl_fst | apply countCodeword_keeps
    | apply forwardWord_keeps | dsimp only | rfl | split | exact Keeps.rfl')

theorem gbxOcClrOp_keeps (l : Nat) {z s : State} (hk : Keeps z s) : Keeps z (gbxOcClrOp l s) := by
  unfold gbxOcClrOp
  repeat' with_reducible (first
    | (intro _) | assumption | apply keeps_ite | apply keeps_foldl | apply keeps_foldl_fst | apply State.set_keeps
    | dsimp only | rfl | split | exact Keeps.rfl')

end Sys2Proof.Machine
end

