-- ==== Sys2Proof/Laws/KeepsStub.lean ====
section
/-!
SUPPORT. The operations of Machine/Stub.lean keep the queue and the canonical forms.
-/

namespace Sys2Proof.Machine

open Sys2Proof

theorem ringPut_keeps (e : StubEvent) {z s : State} (hk : Keeps z s) : Keeps z (ringPut e s) := by
  unfold ringPut
  repeat' with_reducible (first
    | (intro _) | assumption | apply keeps_ite | apply keeps_foldl | apply keeps_foldl_fst | apply State.set_keeps
    | apply State.setB_keeps | apply State.irq_keeps | simp only [↓keeps_mk] | rfl | split | exact Keeps.rfl')

theorem ringDrop_keeps (e : StubEvent) {z s : State} (hk : Keeps z s) : Keeps z (ringDrop e s) := by
  unfold ringDrop
  repeat' with_reducible (first
    | (intro _) | assumption | apply keeps_ite | apply keeps_foldl | apply keeps_foldl_fst | simp only [↓keeps_mk]
    | rfl | split | exact Keeps.rfl')

theorem drainPut_keeps (e : StubEvent) {z s : State} (hk : Keeps z s) : Keeps z (drainPut e s) := by
  unfold drainPut
  repeat' with_reducible (first
    | (intro _) | assumption | apply keeps_ite | apply keeps_foldl | apply keeps_foldl_fst | apply ringPut_keeps
    | apply ringDrop_keeps | apply State.draw_keeps | simp only [↓keeps_mk] | rfl | split | exact Keeps.rfl')

theorem drainOne_keeps (e : StubEvent) {z s : State} (hk : Keeps z s) : Keeps z (drainOne e s) := by
  unfold drainOne
  repeat' with_reducible (first
    | (intro _) | assumption | apply keeps_ite | apply keeps_foldl | apply keeps_foldl_fst | apply drainPut_keeps
    | simp only [↓keeps_mk] | rfl | split | exact Keeps.rfl')

theorem drainQueue_keeps (n : Nat) {z s : State} (hk : Keeps z s) : Keeps z (drainQueue n s) := by
  induction n generalizing s with
  | zero => exact hk
  | succ n ih =>
    unfold drainQueue
    repeat' with_reducible (first
    | apply ih | (intro _) | assumption | apply keeps_ite | apply keeps_foldl | apply keeps_foldl_fst
    | apply drainOne_keeps | simp only [↓keeps_mk] | rfl | split | exact Keeps.rfl')

theorem stubEventDrainOp_keeps (n : Nat) {z s : State} (hk : Keeps z s) : Keeps z (stubEventDrainOp n s) := by
  unfold stubEventDrainOp
  repeat' with_reducible (first
    | (intro _) | assumption | apply keeps_ite | apply keeps_foldl | apply keeps_foldl_fst | apply drainQueue_keeps
    | dsimp only | rfl | split | exact Keeps.rfl')

theorem evrRdSelectOp_keeps (i : Nat) (ue : Bool) {z s : State} (hk : Keeps z s) : Keeps z (evrRdSelectOp i ue s)
    := by
  unfold evrRdSelectOp
  repeat' with_reducible (first
    | (intro _) | assumption | apply keeps_ite | apply keeps_foldl | apply keeps_foldl_fst | apply State.set_keeps
    | apply State.draw_keeps | apply State.setB_keeps | dsimp only | rfl | split | exact Keeps.rfl')

theorem evrLogOp_keeps (tag : Nat) {z s : State} (hk : Keeps z s) : Keeps z (evrLogOp tag s) := by
  unfold evrLogOp
  repeat' with_reducible (first
    | (intro _) | assumption | apply keeps_ite | apply keeps_foldl | apply keeps_foldl_fst | apply State.event_keeps
    | dsimp only | rfl | split | exact Keeps.rfl')

theorem State.spendPages_keeps {z s : State} (hk : Keeps z s) : Keeps z (State.spendPages s) := by
  unfold State.spendPages
  repeat' with_reducible (first
    | (intro _) | assumption | apply keeps_ite | apply keeps_foldl | apply keeps_foldl_fst | simp only [↓keeps_mk]
    | rfl | split | exact Keeps.rfl')

theorem marchPreempt_keeps {z s : State} (hk : Keeps z s) : Keeps z (marchPreempt s) := by
  unfold marchPreempt
  repeat' with_reducible (first
    | (intro _) | assumption | apply keeps_ite | apply keeps_foldl | apply keeps_foldl_fst | apply capScramble_keeps
    | apply State.set_keeps | apply State.irq_keeps | dsimp only | rfl | split | exact Keeps.rfl')

theorem startCommit_keeps (mask : Nat) {z s : State} (hk : Keeps z s) : Keeps z (startCommit mask s) := by
  unfold startCommit
  repeat' with_reducible (first
    | (intro _) | assumption | apply keeps_ite | apply keeps_foldl | apply keeps_foldl_fst | apply State.draw_keeps
    | apply marchPreempt_keeps | apply capPreempt_keeps | apply capScramble_keeps | apply State.spendPages_keeps
    | apply State.event_keeps | simp only [↓keeps_mk] | rfl | split | exact Keeps.rfl')

theorem triggerWaits_keeps (bit : Nat) {z s : State} (hk : Keeps z s) : Keeps z (triggerWaits bit s) := by
  unfold triggerWaits
  repeat' with_reducible (first
    | (intro _) | assumption | apply keeps_ite | apply keeps_foldl | apply keeps_foldl_fst | apply State.satInc_keeps
    | simp only [↓keeps_mk] | rfl | split | exact Keeps.rfl')

theorem commitTrigger_keeps (bit : Nat) {z s : State} (hk : Keeps z s) : Keeps z (commitTrigger bit s) := by
  unfold commitTrigger
  repeat' with_reducible (first
    | (intro _) | assumption | apply keeps_ite | apply keeps_foldl | apply keeps_foldl_fst | apply State.satInc_keeps
    | apply startCommit_keeps | apply triggerWaits_keeps | apply State.draw_keeps | simp only [↓keeps_mk] | rfl
    | split | exact Keeps.rfl')

theorem evrCommitOp_keeps {z s : State} (hk : Keeps z s) : Keeps z (evrCommitOp s) := by
  unfold evrCommitOp
  repeat' with_reducible (first
    | (intro _) | assumption | apply keeps_ite | apply keeps_foldl | apply keeps_foldl_fst | apply commitTrigger_keeps
    | dsimp only | rfl | split | exact Keeps.rfl')

theorem signSlot_keeps (n signed : Nat) {z s : State} (hk : Keeps z s) : Keeps z (signSlot n signed s) := by
  unfold signSlot
  repeat' with_reducible (first
    | (intro _) | assumption | apply keeps_ite | apply keeps_foldl | apply keeps_foldl_fst
    | apply State.putBytes_keeps | apply State.draw_keeps | simp only [↓keeps_mk] | rfl | split | exact Keeps.rfl')

theorem writeSlot_keeps (c : StubCommit) {z s : State} (hk : Keeps z s) : Keeps z (writeSlot c s) := by
  unfold writeSlot
  repeat' with_reducible (first
    | (intro _) | assumption | apply keeps_ite | apply keeps_foldl | apply keeps_foldl_fst
    | apply State.putBytes_keeps | apply signSlot_keeps | apply State.spendPages_keeps | simp only [↓keeps_mk] | rfl
    | split | exact Keeps.rfl')

theorem commitOpened_keeps {z s : State} (hk : Keeps z s) : Keeps z (commitOpened s) := by
  unfold commitOpened
  repeat' with_reducible (first
    | (intro _) | assumption | apply keeps_ite | apply keeps_foldl | apply keeps_foldl_fst | apply drainQueue_keeps
    | dsimp only | rfl | split | exact Keeps.rfl')

theorem endCommit_keeps (c : StubCommit) {z s : State} (hk : Keeps z s) : Keeps z (endCommit c s) := by
  unfold endCommit
  repeat' with_reducible (first
    | (intro _) | assumption | apply keeps_ite | apply keeps_foldl | apply keeps_foldl_fst | apply State.satInc_keeps
    | apply writeSlot_keeps | apply State.event_keeps | apply nvsGo_keeps | apply startCommit_keeps
    | apply State.irq_keeps | simp only [↓keeps_mk] | rfl | split | exact Keeps.rfl')

theorem finishCommit_keeps {z s : State} (hk : Keeps z s) : Keeps z (finishCommit s) := by
  unfold finishCommit
  repeat' with_reducible (first
    | (intro _) | assumption | apply keeps_ite | apply keeps_foldl | apply keeps_foldl_fst | apply commitOpened_keeps
    | apply endCommit_keeps | dsimp only | rfl | split | exact Keeps.rfl')

theorem stubErase_keeps (n : Nat) {z s : State} (hk : Keeps z s) : Keeps z (stubErase n s) := by
  unfold stubErase
  repeat' with_reducible (first
    | (intro _) | assumption | apply keeps_ite | apply keeps_foldl | apply keeps_foldl_fst
    | apply State.putBytes_keeps | simp only [↓keeps_mk] | rfl | split | exact Keeps.rfl')

theorem signLater_keeps {z s : State} (hk : Keeps z s) : Keeps z (signLater s) := by
  unfold signLater
  repeat' with_reducible (first
    | (intro _) | assumption | apply keeps_ite | apply keeps_foldl | apply keeps_foldl_fst | apply signSlot_keeps
    | dsimp only | rfl | split | exact Keeps.rfl')

theorem pmcSnapOp_keeps {z s : State} (hk : Keeps z s) : Keeps z (pmcSnapOp s) := by
  unfold pmcSnapOp
  repeat' with_reducible (first
    | (intro _) | assumption | apply keeps_ite | apply keeps_foldl | apply keeps_foldl_fst | apply snapRequest_keeps
    | dsimp only | rfl | split | exact Keeps.rfl')

theorem pmcSnapDoneOp_keeps {z s : State} (hk : Keeps z s) : Keeps z (pmcSnapDoneOp s) := by
  unfold pmcSnapDoneOp
  repeat' with_reducible (first
    | (intro _) | assumption | apply keeps_ite | apply keeps_foldl | apply keeps_foldl_fst | apply clockCount_keeps
    | apply State.set_keeps | apply State.irq_keeps | apply State.setB_keeps | apply State.wrapInc_keeps | dsimp only
    | rfl | split | exact Keeps.rfl')

theorem pmcOverflowOp_keeps (i c : Nat) {z s : State} (hk : Keeps z s) : Keeps z (pmcOverflowOp i c s) := by
  unfold pmcOverflowOp
  repeat' with_reducible (first
    | (intro _) | assumption | apply keeps_ite | apply keeps_foldl | apply keeps_foldl_fst | apply carryRaise_keeps
    | apply counterCarry_keeps | dsimp only | rfl | split | exact Keeps.rfl')

end Sys2Proof.Machine
end

