-- ==== Sys2Proof/Laws/KeepsHolds.lean ====
section
/-!
SUPPORT. The operations of Machine/Holds.lean keep the queue and the canonical forms.
-/

namespace Sys2Proof.Machine

open Sys2Proof

theorem faultLanes_keeps (cause : Nat) {z s : State} (hk : Keeps z s) : Keeps z (faultLanes cause s) := by
  unfold faultLanes
  repeat' with_reducible (first
    | (intro _) | assumption | apply keeps_ite | apply keeps_foldl | apply keeps_foldl_fst | apply toFault_keeps
    | dsimp only | rfl | split | exact Keeps.rfl')

theorem thermalActs_keeps {z s : State} (hk : Keeps z s) : Keeps z (thermalActs s) := by
  unfold thermalActs
  repeat' with_reducible (first
    | (intro _) | assumption | apply keeps_ite | apply keeps_foldl | apply keeps_foldl_fst | apply calHalt_keeps
    | apply faultLanes_keeps | apply commitTrigger_keeps | apply cdacFaultAll_keeps | apply State.irq_keeps
    | simp only [↓keeps_mk] | rfl | split | exact Keeps.rfl')

theorem secEvent_keeps (code detail : Nat) {z s : State} (hk : Keeps z s) : Keeps z (secEvent code detail s) := by
  unfold secEvent
  repeat' with_reducible (first
    | (intro _) | assumption | apply keeps_ite | apply keeps_foldl | apply keeps_foldl_fst | apply State.event_keeps
    | dsimp only | rfl | split | exact Keeps.rfl')

theorem ownEnd_keeps (code : Nat) {z s : State} (hk : Keeps z s) : Keeps z (ownEnd code s) := by
  unfold ownEnd
  repeat' with_reducible (first
    | (intro _) | assumption | apply keeps_ite | apply keeps_foldl | apply keeps_foldl_fst | apply secEvent_keeps
    | apply State.setB_keeps | apply State.irq_keeps | simp only [↓keeps_mk] | rfl | split | exact Keeps.rfl')

theorem debugOpen_keeps (scope : Nat) {z s : State} (hk : Keeps z s) : Keeps z (debugOpen scope s) := by
  unfold debugOpen
  repeat' with_reducible (first
    | (intro _) | assumption | apply keeps_ite | apply keeps_foldl | apply keeps_foldl_fst | apply State.setB_keeps
    | simp only [↓keeps_mk] | rfl | split | exact Keeps.rfl')

theorem debugClose_keeps {z s : State} (hk : Keeps z s) : Keeps z (debugClose s) := by
  unfold debugClose
  repeat' with_reducible (first
    | (intro _) | assumption | apply keeps_ite | apply keeps_foldl | apply keeps_foldl_fst | apply State.setB_keeps
    | simp only [↓keeps_mk] | rfl | split | exact Keeps.rfl')

theorem lockdownActs_keeps {z s : State} (hk : Keeps z s) : Keeps z (lockdownActs s) := by
  unfold lockdownActs
  repeat' with_reducible (first
    | (intro _) | assumption | apply keeps_ite | apply keeps_foldl | apply keeps_foldl_fst | apply cdacFaultAll_keeps
    | apply calHalt_keeps | apply faultLanes_keeps | simp only [↓keeps_mk] | rfl | split | exact Keeps.rfl')

theorem lockdown_keeps (cause : Nat) {z s : State} (hk : Keeps z s) : Keeps z (lockdown cause s) := by
  unfold lockdown
  repeat' with_reducible (first
    | (intro _) | assumption | apply keeps_ite | apply keeps_foldl | apply keeps_foldl_fst | apply State.setB_keeps
    | apply debugClose_keeps | apply msgLockdown_keeps | apply ownEnd_keeps | apply secEvent_keeps
    | apply State.irq_keeps | apply lockdownActs_keeps | apply commitTrigger_keeps | apply State.set_keeps
    | simp only [↓keeps_mk] | rfl | split | exact Keeps.rfl')

theorem holdsAct_keeps {z s : State} (hk : Keeps z s) : Keeps z (holdsAct s) := by
  unfold holdsAct
  repeat' with_reducible (first
    | (intro _) | assumption | apply keeps_ite | apply keeps_foldl | apply keeps_foldl_fst | apply thermalActs_keeps
    | apply lockdownActs_keeps | dsimp only | rfl | split | exact Keeps.rfl')

end Sys2Proof.Machine
end

