-- ==== Sys2Proof/Laws/KeepsThermal.lean ====
section
/-!
SUPPORT. The operations of Machine/Thermal.lean keep the queue and the canonical forms.
-/

namespace Sys2Proof.Machine

open Sys2Proof

theorem snapBegin_keeps {z s : State} (hk : Keeps z s) : Keeps z (snapBegin s) := by
  unfold snapBegin
  repeat' with_reducible (first
    | (intro _) | assumption | apply keeps_ite | apply keeps_foldl | apply keeps_foldl_fst | apply State.setB_keeps
    | apply State.set_keeps | dsimp only | rfl | split | exact Keeps.rfl')

theorem pauseEnd_keeps (p : Paused) {z s : State} (hk : Keeps z s) : Keeps z (pauseEnd p s) := by
  unfold pauseEnd
  repeat' with_reducible (first
    | (intro _) | assumption | apply keeps_ite | apply keeps_foldl | apply keeps_foldl_fst | apply State.putCal_keeps
    | apply snapBegin_keeps | apply State.putCap_keeps | simp only [↓keeps_mk] | rfl | split | exact Keeps.rfl')

theorem backgroundPauseEndOp_keeps (p : Paused) {z s : State} (hk : Keeps z s) : Keeps z (backgroundPauseEndOp p s)
    := by
  unfold backgroundPauseEndOp
  repeat' with_reducible (first
    | (intro _) | assumption | apply keeps_ite | apply keeps_foldl | apply keeps_foldl_fst | apply pauseEnd_keeps
    | dsimp only | rfl | split | exact Keeps.rfl')

theorem waitersGo_keeps {z s : State} (hk : Keeps z s) : Keeps z (waitersGo s) := by
  unfold waitersGo
  repeat' with_reducible (first
    | (intro _) | assumption | apply keeps_ite | apply keeps_foldl | apply keeps_foldl_fst | apply snapBegin_keeps
    | apply State.putCap_keeps | simp only [↓keeps_mk] | rfl | split | exact Keeps.rfl')

theorem throttleRefresh_keeps {z s : State} (hk : Keeps z s) : Keeps z (throttleRefresh s) := by
  unfold throttleRefresh
  repeat' with_reducible (first
    | (intro _) | assumption | apply keeps_ite | apply keeps_foldl | apply keeps_foldl_fst | apply State.setB_keeps
    | apply waitersGo_keeps | dsimp only | rfl | split | exact Keeps.rfl')

theorem thermalLatch_keeps (n : Nat) (t : Int) (byShut : Bool) {z s : State} (hk : Keeps z s) : Keeps z
    (thermalLatch n t byShut s) := by
  unfold thermalLatch
  repeat' with_reducible (first
    | (intro _) | assumption | apply keeps_ite | apply keeps_foldl | apply keeps_foldl_fst | apply State.setB_keeps
    | apply State.set_keeps | apply State.event_keeps | apply thermalActs_keeps | simp only [↓keeps_mk] | rfl | split
    | exact Keeps.rfl')

theorem thmBreak_keeps (n cause : Nat) (t : Int) {z s : State} (hk : Keeps z s) : Keeps z (thmBreak n cause t s) := by
  unfold thmBreak
  repeat' with_reducible (first
    | (intro _) | assumption | apply keeps_ite | apply keeps_foldl | apply keeps_foldl_fst | apply State.setB_keeps
    | apply State.irq_keeps | apply State.set_keeps | apply State.event_keeps | dsimp only | rfl | split
    | exact Keeps.rfl')

theorem thmCount_keeps (raws : List Nat) {z s : State} (hk : Keeps z s) : Keeps z (thmCount raws s) := by
  unfold thmCount
  repeat' with_reducible (first
    | (intro _) | assumption | apply keeps_ite | apply keeps_foldl | apply keeps_foldl_fst | simp only [↓keeps_mk]
    | rfl | split | exact Keeps.rfl')

theorem thmJudge_keeps (temps : List Int) {z s : State} (hk : Keeps z s) : Keeps z (thmJudge temps s) := by
  unfold thmJudge
  repeat' with_reducible (first
    | (intro _) | assumption | apply keeps_ite | apply keeps_foldl | apply keeps_foldl_fst | apply thmBreak_keeps
    | simp only [↓keeps_mk] | rfl | split | exact Keeps.rfl')

theorem thmReport_keeps (temps : List Int) (hot : Option (Nat × Int)) {z s : State} (hk : Keeps z s) : Keeps z
    (thmReport temps hot s) := by
  unfold thmReport
  repeat' with_reducible (first
    | (intro _) | assumption | apply keeps_ite | apply keeps_foldl | apply keeps_foldl_fst | apply State.set_keeps
    | apply State.setB_keeps | apply State.draw_keeps | dsimp only | rfl | split | exact Keeps.rfl')

theorem thmForce_keeps (temps : List Int) {z s : State} (hk : Keeps z s) : Keeps z (thmForce temps s) := by
  unfold thmForce
  repeat' with_reducible (first
    | (intro _) | assumption | apply keeps_ite | apply keeps_foldl | apply keeps_foldl_fst | apply State.setB_keeps
    | apply State.irq_keeps | apply State.event_keeps | dsimp only | rfl | split | exact Keeps.rfl')

theorem thmLevel_keeps (f : Fld) (kind n : Nat) (t : Int) (new : Bool) {z s : State} (hk : Keeps z s) : Keeps z
    (thmLevel f kind n t new s) := by
  unfold thmLevel
  repeat' with_reducible (first
    | (intro _) | assumption | apply keeps_ite | apply keeps_foldl | apply keeps_foldl_fst | apply State.setB_keeps
    | apply State.irq_keeps | apply State.event_keeps | dsimp only | rfl | split | exact Keeps.rfl')

theorem thmLevels_keeps (n : Nat) (t : Int) {z s : State} (hk : Keeps z s) : Keeps z (thmLevels n t s) := by
  unfold thmLevels
  repeat' with_reducible (first
    | (intro _) | assumption | apply keeps_ite | apply keeps_foldl | apply keeps_foldl_fst | apply thmLevel_keeps
    | simp only [↓keeps_mk] | rfl | split | exact Keeps.rfl')

theorem thmShutdown_keeps (temps : List Int) (hot : Option (Nat × Int)) {z s : State} (hk : Keeps z s) : Keeps z
    (thmShutdown temps hot s) := by
  unfold thmShutdown
  repeat' with_reducible (first
    | (intro _) | assumption | apply keeps_ite | apply keeps_foldl | apply keeps_foldl_fst | apply thermalLatch_keeps
    | apply State.draw_keeps | simp only [↓keeps_mk] | rfl | split | exact Keeps.rfl')

theorem thmSampleOp_keeps (temps : List Int) (raws : List Nat) {z s : State} (hk : Keeps z s) : Keeps z
    (thmSampleOp temps raws s) := by
  unfold thmSampleOp
  repeat' with_reducible (first
    | (intro _) | assumption | apply keeps_ite | apply keeps_foldl | apply keeps_foldl_fst | apply thmJudge_keeps
    | apply thmCount_keeps | apply thmReport_keeps | apply State.draw_keeps | apply thmForce_keeps
    | apply thmLevels_keeps | apply calTempTrigger_keeps | apply throttleRefresh_keeps | apply thmShutdown_keeps
    | simp only [↓keeps_mk] | rfl | split | exact Keeps.rfl')

end Sys2Proof.Machine
end

