-- ==== Sys2Proof/Laws/KeepsReset.lean ====
section
/-!
SUPPORT. The operations of Machine/Reset.lean keep the queue and the canonical forms.
-/

namespace Sys2Proof.Machine

open Sys2Proof

theorem resetEvent_keeps (cause : Nat) {z s : State} (hk : Keeps z s) : Keeps z (resetEvent cause s) := by
  unfold resetEvent
  repeat' with_reducible (first
    | (intro _) | assumption | apply keeps_ite | apply keeps_foldl | apply keeps_foldl_fst | apply State.event_keeps
    | dsimp only | rfl | split | exact Keeps.rfl')

theorem lanesOff_keeps (ls : List Nat) {z s : State} (hk : Keeps z s) : Keeps z (lanesOff ls s) := by
  unfold lanesOff
  repeat' with_reducible (first
    | (intro _) | assumption | apply keeps_ite | apply keeps_foldl | apply keeps_foldl_fst | apply toOff_keeps
    | dsimp only | rfl | split | exact Keeps.rfl')

theorem expertLost_keeps (b : Blk) (req : Nat) {z s : State} (hk : Keeps z s) : Keeps z (expertLost b req s) := by
  unfold expertLost
  repeat' with_reducible (first
    | (intro _) | assumption | apply keeps_ite | apply keeps_foldl | apply keeps_foldl_fst | apply State.event_keeps
    | dsimp only | rfl | split | exact Keeps.rfl')

theorem expertsLost_keeps {z s : State} (hk : Keeps z s) : Keeps z (expertsLost s) := by
  unfold expertsLost
  repeat' with_reducible (first
    | (intro _) | assumption | apply keeps_ite | apply keeps_foldl | apply keeps_foldl_fst | apply expertLost_keeps
    | apply State.draw_keeps | dsimp only | rfl | split | exact Keeps.rfl')

theorem coldCaps_keeps (lose : Bool) {z s : State} (hk : Keeps z s) : Keeps z (coldCaps lose s) := by
  unfold coldCaps
  repeat' with_reducible (first
    | (intro _) | assumption | apply keeps_ite | apply keeps_foldl | apply keeps_foldl_fst | apply capPowerLoss_keeps
    | apply capCut_keeps | apply State.putCap_keeps | simp only [↓keeps_mk] | rfl | split | exact Keeps.rfl')

theorem coldClear_keeps (lose : Bool) {z s : State} (hk : Keeps z s) : Keeps z (coldClear lose s) := by
  unfold coldClear
  extract_lets fail u v w
  have hu : Keeps z u := expertsLost_keeps (holdsAct_keeps hk)
  have hv : Keeps z v := coldCaps_keeps lose (setQual_keeps 0 (lanesOff_keeps _ (nvsStore_keeps hu)))
  have h : Keeps z w := timClear_keeps (cdacClampAll_keeps hv)
  clear_value w
  have hf : Keeps z { w with fuses := storeTake w } := keeps_fuses _ rfl h
  exact State.setB_keeps _ _ (keeps_regs hf (fun x => natSorted_filter _ x) rfl rfl rfl rfl)

theorem capsLose_keeps {z s : State} (hk : Keeps z s) : Keeps z (capsLose s) := by
  unfold capsLose
  repeat' with_reducible (first
    | (intro _) | assumption | apply keeps_ite | apply keeps_foldl | apply keeps_foldl_fst | apply capPowerLoss_keeps
    | dsimp only | rfl | split | exact Keeps.rfl')

theorem assertCold_keeps (put : ResetSources → ResetSources) (cause : Fld) (bit : Nat) (lose : Bool) {z s : State}
    (hk : Keeps z s) : Keeps z (assertCold put cause bit lose s) := by
  unfold assertCold
  repeat' with_reducible (first
    | (intro _) | assumption | apply keeps_ite | apply keeps_foldl | apply keeps_foldl_fst | apply resetEvent_keeps
    | apply State.setB_keeps | apply coldClear_keeps | apply capsLose_keeps | simp only [↓keeps_mk] | rfl | split
    | exact Keeps.rfl')

theorem resetNAssertOp_keeps {z s : State} (hk : Keeps z s) : Keeps z (resetNAssertOp s) := by
  unfold resetNAssertOp
  repeat' with_reducible (first
    | (intro _) | assumption | apply keeps_ite | apply keeps_foldl | apply keeps_foldl_fst | apply assertCold_keeps
    | simp only [↓keeps_mk] | rfl | split | exact Keeps.rfl')

theorem resetNReleaseOp_keeps {z s : State} (hk : Keeps z s) : Keeps z (resetNReleaseOp s) := by
  unfold resetNReleaseOp
  repeat' with_reducible (first
    | (intro _) | assumption | apply keeps_ite | apply keeps_foldl | apply keeps_foldl_fst | simp only [↓keeps_mk]
    | rfl | split | exact Keeps.rfl')

theorem globalOp_keeps {z s : State} (hk : Keeps z s) : Keeps z (globalOp s) := by
  unfold globalOp
  repeat' with_reducible (first
    | (intro _) | assumption | apply keeps_ite | apply keeps_foldl | apply keeps_foldl_fst | apply assertCold_keeps
    | simp only [↓keeps_mk] | rfl | split | exact Keeps.rfl')

theorem supplyCold_keeps (core : Bool) {z s : State} (hk : Keeps z s) : Keeps z (supplyCold core s) := by
  unfold supplyCold
  repeat' with_reducible (first
    | (intro _) | assumption | apply keeps_ite | apply keeps_foldl | apply keeps_foldl_fst | apply assertCold_keeps
    | simp only [↓keeps_mk] | rfl | split | exact Keeps.rfl')

theorem porWord_keeps {z s : State} (hk : Keeps z s) : Keeps z (porWord s) := by
  unfold porWord
  repeat' with_reducible (first
    | (intro _) | assumption | apply keeps_ite | apply keeps_foldl | apply keeps_foldl_fst | apply State.draw_keeps
    | apply State.putWord64_keeps | apply State.putEcc_keeps | dsimp only | rfl | split | exact Keeps.rfl')

theorem porAssertOp_keeps {z s : State} (hk : Keeps z s) : Keeps z (porAssertOp s) := by
  unfold porAssertOp
  extract_lets u t
  have h : Keeps z u := porWord_keeps hk
  have ht : State.regsOk t = true := by
    unfold t
    split
    · decide
    · rfl
  clear_value u t
  refine ⟨h.queue, fun _ => ht, fun x => ?_⟩
  refine wf_filter (s := u) (fun e => decide (granaryBase ≤ e.1)) rfl (fun e _ hp => .inl ?_) (h.mem x)
  have hi : ¬ (inCapture e.1 = true) := by
    simp only [decide_eq_true_eq] at hp
    simp only [inCapture, granaryBase, Bool.and_eq_true, decide_eq_true_eq] at *
    omega
  unfold memDefault
  rw [if_neg hi, if_neg hi]
  rfl

theorem porReleaseOp_keeps {z s : State} (hk : Keeps z s) : Keeps z (porReleaseOp s) := by
  unfold porReleaseOp
  repeat' with_reducible (first
    | (intro _) | assumption | apply keeps_ite | apply keeps_foldl | apply keeps_foldl_fst | simp only [↓keeps_mk]
    | rfl | split | exact Keeps.rfl')

theorem coastLanes_keeps {z s : State} (hk : Keeps z s) : Keeps z (coastLanes s) := by
  unfold coastLanes
  repeat' with_reducible (first
    | (intro _) | assumption | apply keeps_ite | apply keeps_foldl | apply keeps_foldl_fst | apply enterState_keeps
    | dsimp only | rfl | split | exact Keeps.rfl')

theorem mailboxAborted_keeps {z s : State} (hk : Keeps z s) : Keeps z (mailboxAborted s) := by
  unfold mailboxAborted
  repeat' with_reducible (first
    | (intro _) | assumption | apply keeps_ite | apply keeps_foldl | apply keeps_foldl_fst | apply nvsDropFwc_keeps
    | apply State.set_keeps | apply State.setB_keeps | simp only [↓keeps_mk] | rfl | split | exact Keeps.rfl')

theorem warmClear_keeps {z s : State} (hk : Keeps z s) : Keeps z (warmClear s) := by
  unfold warmClear
  extract_lets u
  have h : Keeps z u := mailboxAborted_keeps (coastLanes_keeps hk)
  clear_value u
  exact keeps_regs h (fun x => natSorted_filter _ x) rfl rfl rfl rfl

theorem assertWarm_keeps (put : ResetSources → ResetSources) (cause : Fld) (bit : Nat) {z s : State} (hk : Keeps z
    s) : Keeps z (assertWarm put cause bit s) := by
  unfold assertWarm
  repeat' with_reducible (first
    | (intro _) | assumption | apply keeps_ite | apply keeps_foldl | apply keeps_foldl_fst | apply State.setB_keeps
    | apply warmClear_keeps | apply resetEvent_keeps | simp only [↓keeps_mk] | rfl | split | exact Keeps.rfl')

theorem warmOp_keeps {z s : State} (hk : Keeps z s) : Keeps z (warmOp s) := by
  unfold warmOp
  repeat' with_reducible (first
    | (intro _) | assumption | apply keeps_ite | apply keeps_foldl | apply keeps_foldl_fst | apply assertWarm_keeps
    | simp only [↓keeps_mk] | rfl | split | exact Keeps.rfl')

theorem wdtExpiryOp_keeps {z s : State} (hk : Keeps z s) : Keeps z (wdtExpiryOp s) := by
  unfold wdtExpiryOp
  repeat' with_reducible (first
    | (intro _) | assumption | apply keeps_ite | apply keeps_foldl | apply keeps_foldl_fst | apply assertWarm_keeps
    | apply commitTrigger_keeps | simp only [↓keeps_mk] | rfl | split | exact Keeps.rfl')

theorem wdtKickOp_keeps (req : Requester) (key : Nat) {z s : State} (hk : Keeps z s) : Keeps z (wdtKickOp req key
    s) := by
  unfold wdtKickOp
  repeat' with_reducible (first
    | (intro _) | assumption | apply keeps_ite | apply keeps_foldl | apply keeps_foldl_fst
    | apply State.conflict_keeps | dsimp only | rfl | split | exact Keeps.rfl')

theorem resetPulseEndOp_keeps (p : Pulse) {z s : State} (hk : Keeps z s) : Keeps z (resetPulseEndOp p s) := by
  unfold resetPulseEndOp
  repeat' with_reducible (first
    | (intro _) | assumption | apply keeps_ite | apply keeps_foldl | apply keeps_foldl_fst | simp only [↓keeps_mk]
    | rfl | split | exact Keeps.rfl')

theorem blockClear_keeps (b : Blk) {z s : State} (hk : Keeps z s) : Keeps z (blockClear b s) := by
  unfold blockClear
  repeat' with_reducible (first
    | (intro _) | assumption | apply keeps_ite | apply keeps_foldl | apply keeps_foldl_fst | apply timClear_keeps
    | apply setQual_keeps | apply msgBlockReset_keeps | apply calStop_keeps | apply waitersGo_keeps
    | apply capCut_keeps | apply State.putCap_keeps | apply madcPairWriteOp_keeps | apply State.set_keeps
    | apply State.putTx_keeps | apply State.putRx_keeps | apply amForget_keeps | apply State.putHost_keeps
    | simp only [↓keeps_mk] | rfl | split | exact Keeps.rfl')

theorem blockReset_keeps (b : Blk) (req : Nat) {z s : State} (hk : Keeps z s) : Keeps z (blockReset b req s) := by
  unfold blockReset
  extract_lets u keep t v
  have h : Keeps z u := blockClear_keeps b (expertLost_keeps b req hk)
  have ht : Keeps z t := keeps_regs h (fun x => natSorted_filter _ x) rfl rfl rfl rfl
  have hv : Keeps z v := keeps_ite (State.setB_keeps _ _ ht) ht
  clear_value u t v
  exact keeps_ite (portFollow_keeps _ _ _ hv) hv

theorem srstBy_keeps (b : Blk) (req : Nat) {z s : State} (hk : Keeps z s) : Keeps z (srstBy b req s) := by
  unfold srstBy
  repeat' with_reducible (first
    | (intro _) | assumption | apply keeps_ite | apply keeps_foldl | apply keeps_foldl_fst
    | apply State.conflict_keeps | apply warmOp_keeps | apply blockReset_keeps | apply State.setB_keeps | dsimp only
    | rfl | split | exact Keeps.rfl')

theorem blockSrstOp_keeps (b : Blk) {z s : State} (hk : Keeps z s) : Keeps z (blockSrstOp b s) := by
  unfold blockSrstOp
  repeat' with_reducible (first
    | (intro _) | assumption | apply keeps_ite | apply keeps_foldl | apply keeps_foldl_fst | apply srstBy_keeps
    | apply State.draw_keeps | dsimp only | rfl | split | exact Keeps.rfl')

theorem blockFollow_keeps (b : Blk) {z s : State} (hk : Keeps z s) : Keeps z (blockFollow b s) := by
  unfold blockFollow
  repeat' with_reducible (first
    | (intro _) | assumption | apply keeps_ite | apply keeps_foldl | apply keeps_foldl_fst | apply State.set_keeps
    | dsimp only | rfl | split | exact Keeps.rfl')

theorem blockResetReleaseOp_keeps (b : Blk) {z s : State} (hk : Keeps z s) : Keeps z (blockResetReleaseOp b s) := by
  unfold blockResetReleaseOp
  repeat' with_reducible (first
    | (intro _) | assumption | apply keeps_ite | apply keeps_foldl | apply keeps_foldl_fst | apply State.setB_keeps
    | apply blockFollow_keeps | dsimp only | rfl | split | exact Keeps.rfl')

theorem capFollow_keeps (sh : Nat) {z s : State} (hk : Keeps z s) : Keeps z (capFollow sh s) := by
  unfold capFollow
  repeat' with_reducible (first
    | (intro _) | assumption | apply keeps_ite | apply keeps_foldl | apply keeps_foldl_fst | apply blockFollow_keeps
    | dsimp only | rfl | split | exact Keeps.rfl')

theorem pllsStop_keeps (sh : Nat) {z s : State} (hk : Keeps z s) : Keeps z (pllsStop sh s) := by
  unfold pllsStop
  repeat' with_reducible (first
    | (intro _) | assumption | apply keeps_ite | apply keeps_foldl | apply keeps_foldl_fst | apply State.setB_keeps
    | dsimp only | rfl | split | exact Keeps.rfl')

theorem passLeave_keeps (sh : Nat) {z s : State} (hk : Keeps z s) : Keeps z (passLeave sh s) := by
  unfold passLeave
  repeat' with_reducible (first
    | (intro _) | assumption | apply keeps_ite | apply keeps_foldl | apply keeps_foldl_fst | apply passRemove_keeps
    | apply State.setB_keeps | simp only [↓keeps_mk] | rfl | split | exact Keeps.rfl')

theorem sheafOp_keeps (sh : Nat) (on : Bool) {z s : State} (hk : Keeps z s) : Keeps z (sheafOp sh on s) := by
  unfold sheafOp
  repeat' with_reducible (first
    | (intro _) | assumption | apply keeps_ite | apply keeps_foldl | apply keeps_foldl_fst | apply resetEvent_keeps
    | apply State.setB_keeps | apply passLeave_keeps | apply lanesOff_keeps | apply pllsStop_keeps
    | apply blockReset_keeps | apply State.draw_keeps | apply capFollow_keeps | apply considerStart_keeps | dsimp only
    | rfl | split | exact Keeps.rfl')

theorem setPhase_keeps (p : Nat) {z s : State} (hk : Keeps z s) : Keeps z (setPhase p s) := by
  unfold setPhase
  repeat' with_reducible (first
    | (intro _) | assumption | apply keeps_ite | apply keeps_foldl | apply keeps_foldl_fst | apply State.set_keeps
    | apply State.event_keeps | dsimp only | rfl | split | exact Keeps.rfl')

theorem strapsTake_keeps (boot clkmode addr : Nat) {z s : State} (hk : Keeps z s) : Keeps z (strapsTake boot
    clkmode addr s) := by
  unfold strapsTake
  repeat' with_reducible (first
    | (intro _) | assumption | apply keeps_ite | apply keeps_foldl | apply keeps_foldl_fst | apply State.set_keeps
    | apply State.setB_keeps | dsimp only | rfl | split | exact Keeps.rfl')

theorem addressKeep_keeps {z s : State} (hk : Keeps z s) : Keeps z (addressKeep s) := by
  unfold addressKeep
  repeat' with_reducible (first
    | (intro _) | assumption | apply keeps_ite | apply keeps_foldl | apply keeps_foldl_fst | apply State.setB_keeps
    | apply State.set_keeps | dsimp only | rfl | split | exact Keeps.rfl')

theorem trngStart_keeps {z s : State} (hk : Keeps z s) : Keeps z (trngStart s) := by
  unfold trngStart
  repeat' with_reducible (first
    | (intro _) | assumption | apply keeps_ite | apply keeps_foldl | apply keeps_foldl_fst | apply State.setB_keeps
    | apply State.draw_keeps | dsimp only | rfl | split | exact Keeps.rfl')

theorem coldReleaseOp_keeps (boot clkmode addr : Nat) {z s : State} (hk : Keeps z s) : Keeps z (coldReleaseOp boot
    clkmode addr s) := by
  unfold coldReleaseOp
  repeat' with_reducible (first
    | (intro _) | assumption | apply keeps_ite | apply keeps_foldl | apply keeps_foldl_fst | apply State.setB_keeps
    | apply addressKeep_keeps | apply strapsTake_keeps | apply powerEvent_keeps | apply State.set_keeps
    | apply debugOpen_keeps | apply setPhase_keeps | apply trngStart_keeps | apply faultLanes_keeps
    | simp only [↓keeps_mk] | rfl | split | exact Keeps.rfl')

end Sys2Proof.Machine
end

