-- ==== Sys2Proof/Laws/KeepsPower.lean ====
section
/-!
SUPPORT. The operations of Machine/Power.lean keep the queue and the canonical forms.
-/

namespace Sys2Proof.Machine

open Sys2Proof

theorem startPendingLevel_keeps {z s : State} (hk : Keeps z s) : Keeps z (startPendingLevel s) := by
  unfold startPendingLevel
  repeat' with_reducible (first
    | (intro _) | assumption | apply keeps_ite | apply keeps_foldl | apply keeps_foldl_fst | apply requestLevel_keeps
    | simp only [↓keeps_mk] | rfl | split | exact Keeps.rfl')

theorem startPending_keeps {z s : State} (hk : Keeps z s) : Keeps z (startPending s) := by
  unfold startPending
  repeat' with_reducible (first
    | (intro _) | assumption | apply keeps_ite | apply keeps_foldl | apply keeps_foldl_fst | apply State.setB_keeps
    | apply requestState_keeps | apply wakeLatch_keeps | apply startPendingLevel_keeps | apply State.set_keeps
    | simp only [↓keeps_mk] | rfl | split | exact Keeps.rfl')

theorem changeOver_keeps {z s : State} (hk : Keeps z s) : Keeps z (changeOver s) := by
  unfold changeOver
  repeat' with_reducible (first
    | (intro _) | assumption | apply keeps_ite | apply keeps_foldl | apply keeps_foldl_fst | apply startPending_keeps
    | apply holdsAct_keeps | dsimp only | rfl | split | exact Keeps.rfl')

theorem lanesConsider_keeps {z s : State} (hk : Keeps z s) : Keeps z (lanesConsider s) := by
  unfold lanesConsider
  repeat' with_reducible (first
    | (intro _) | assumption | apply keeps_ite | apply keeps_foldl | apply keeps_foldl_fst | apply considerStart_keeps
    | dsimp only | rfl | split | exact Keeps.rfl')

theorem enterTimekeep_keeps (cause : Nat) {z s : State} (hk : Keeps z s) : Keeps z (enterTimekeep cause s) := by
  unfold enterTimekeep
  repeat' with_reducible (first
    | (intro _) | assumption | apply keeps_ite | apply keeps_foldl | apply keeps_foldl_fst | apply capsLose_keeps
    | apply coldClear_keeps | apply resetEvent_keeps | apply State.setB_keeps | apply State.set_keeps
    | simp only [↓keeps_mk] | rfl | split | exact Keeps.rfl')

theorem leaveTimekeep_keeps (w : Nat) {z s : State} (hk : Keeps z s) : Keeps z (leaveTimekeep w s) := by
  unfold leaveTimekeep
  repeat' with_reducible (first
    | (intro _) | assumption | apply keeps_ite | apply keeps_foldl | apply keeps_foldl_fst | apply wakeLatch_keeps
    | apply State.setB_keeps | simp only [↓keeps_mk] | rfl | split | exact Keeps.rfl')

theorem edgeWake_keeps (k : Nat) (late lower : Bool) {z s : State} (hk : Keeps z s) : Keeps z (edgeWake k late
    lower s) := by
  unfold edgeWake
  repeat' with_reducible (first
    | (intro _) | assumption | apply keeps_ite | apply keeps_foldl | apply keeps_foldl_fst | apply leaveTimekeep_keeps
    | apply State.setB_keeps | apply wakeActive_keeps | dsimp only | rfl | split | exact Keeps.rfl')

theorem wakePinOp_keeps (late : Bool) {z s : State} (hk : Keeps z s) : Keeps z (wakePinOp late s) := by
  unfold wakePinOp
  repeat' with_reducible (first
    | (intro _) | assumption | apply keeps_ite | apply keeps_foldl | apply keeps_foldl_fst | apply edgeWake_keeps
    | dsimp only | rfl | split | exact Keeps.rfl')

theorem wickMatchOp_keeps (addr : Nat) (late : Bool) {z s : State} (hk : Keeps z s) : Keeps z (wickMatchOp addr
    late s) := by
  unfold wickMatchOp
  repeat' with_reducible (first
    | (intro _) | assumption | apply keeps_ite | apply keeps_foldl | apply keeps_foldl_fst | apply edgeWake_keeps
    | simp only [↓keeps_mk] | rfl | split | exact Keeps.rfl')

theorem railGoodOp_keeps (r : Rail) {z s : State} (hk : Keeps z s) : Keeps z (railGoodOp r s) := by
  unfold railGoodOp
  repeat' with_reducible (first
    | (intro _) | assumption | apply keeps_ite | apply keeps_foldl | apply keeps_foldl_fst | apply State.setB_keeps
    | dsimp only | rfl | split | exact Keeps.rfl')

theorem vbakLowOp_keeps {z s : State} (hk : Keeps z s) : Keeps z (vbakLowOp s) := by
  unfold vbakLowOp
  repeat' with_reducible (first
    | (intro _) | assumption | apply keeps_ite | apply keeps_foldl | apply keeps_foldl_fst | apply State.setB_keeps
    | apply State.irq_keeps | dsimp only | rfl | split | exact Keeps.rfl')

theorem vioBack_keeps {z s : State} (hk : Keeps z s) : Keeps z (vioBack s) := by
  unfold vioBack
  repeat' with_reducible (first
    | (intro _) | assumption | apply keeps_ite | apply keeps_foldl | apply keeps_foldl_fst | apply State.setB_keeps
    | apply leaveTimekeep_keeps | dsimp only | rfl | split | exact Keeps.rfl')

theorem switchOverEnd_keeps {z s : State} (hk : Keeps z s) : Keeps z (switchOverEnd s) := by
  unfold switchOverEnd
  repeat' with_reducible (first
    | (intro _) | assumption | apply keeps_ite | apply keeps_foldl | apply keeps_foldl_fst | apply enterTimekeep_keeps
    | apply vioBack_keeps | dsimp only | rfl | split | exact Keeps.rfl')

theorem changeStop_keeps {z s : State} (hk : Keeps z s) : Keeps z (changeStop s) := by
  unfold changeStop
  repeat' with_reducible (first
    | (intro _) | assumption | apply keeps_ite | apply keeps_foldl | apply keeps_foldl_fst | apply State.setB_keeps
    | apply State.set_keeps | simp only [↓keeps_mk] | rfl | split | exact Keeps.rfl')

theorem vioLossOp_keeps {z s : State} (hk : Keeps z s) : Keeps z (vioLossOp s) := by
  unfold vioLossOp
  repeat' with_reducible (first
    | (intro _) | assumption | apply keeps_ite | apply keeps_foldl | apply keeps_foldl_fst | apply State.setB_keeps
    | apply vioBack_keeps | apply changeStop_keeps | apply lanesOff_keeps | apply powerEvent_keeps
    | apply commitTrigger_keeps | apply switchOverEnd_keeps | apply supplyCold_keeps | apply State.satInc_keeps
    | simp only [↓keeps_mk] | rfl | split | exact Keeps.rfl')

theorem vioReturnOp_keeps {z s : State} (hk : Keeps z s) : Keeps z (vioReturnOp s) := by
  unfold vioReturnOp
  repeat' with_reducible (first
    | (intro _) | assumption | apply keeps_ite | apply keeps_foldl | apply keeps_foldl_fst | apply vioBack_keeps
    | simp only [↓keeps_mk] | rfl | split | exact Keeps.rfl')

theorem railLostOp_keeps (r : Rail) {z s : State} (hk : Keeps z s) : Keeps z (railLostOp r s) := by
  unfold railLostOp
  repeat' with_reducible (first
    | (intro _) | assumption | apply keeps_ite | apply keeps_foldl | apply keeps_foldl_fst | apply vioLossOp_keeps
    | apply vbakLowOp_keeps | apply supplyCold_keeps | apply State.setB_keeps | dsimp only | rfl | split
    | exact Keeps.rfl')

theorem railUvOp_keeps (r : Rail) {z s : State} (hk : Keeps z s) : Keeps z (railUvOp r s) := by
  unfold railUvOp
  repeat' with_reducible (first
    | (intro _) | assumption | apply keeps_ite | apply keeps_foldl | apply keeps_foldl_fst | apply State.setB_keeps
    | apply State.irq_keeps | apply State.event_keeps | dsimp only | rfl | split | exact Keeps.rfl')

theorem stubCommitDoneOp_keeps {z s : State} (hk : Keeps z s) : Keeps z (stubCommitDoneOp s) := by
  unfold stubCommitDoneOp
  repeat' with_reducible (first
    | (intro _) | assumption | apply keeps_ite | apply keeps_foldl | apply keeps_foldl_fst | apply switchOverEnd_keeps
    | apply finishCommit_keeps | dsimp only | rfl | split | exact Keeps.rfl')

theorem refuse_keeps (i cause : Nat) {z s : State} (hk : Keeps z s) : Keeps z (refuse i cause s) := by
  unfold refuse
  repeat' with_reducible (first
    | (intro _) | assumption | apply keeps_ite | apply keeps_foldl | apply keeps_foldl_fst | apply State.set_keeps
    | apply powerEvent_keeps | apply State.irq_keeps | apply State.setB_keeps | apply changeOver_keeps
    | simp only [↓keeps_mk] | rfl | split | exact Keeps.rfl')

theorem proceed_keeps {z s : State} (hk : Keeps z s) : Keeps z (proceed s) := by
  unfold proceed
  repeat' with_reducible (first
    | (intro _) | assumption | apply keeps_ite | apply keeps_foldl | apply keeps_foldl_fst | apply levelMove_keeps
    | simp only [↓keeps_mk] | rfl | split | exact Keeps.rfl')

theorem handshakeAnswerOp_keeps (i : Nat) {z s : State} (hk : Keeps z s) : Keeps z (handshakeAnswerOp i s) := by
  unfold handshakeAnswerOp
  repeat' with_reducible (first
    | (intro _) | assumption | apply keeps_ite | apply keeps_foldl | apply keeps_foldl_fst | apply proceed_keeps
    | apply refuse_keeps | simp only [↓keeps_mk] | rfl | split | exact Keeps.rfl')

theorem handshakeDeferExpiryOp_keeps (i : Nat) {z s : State} (hk : Keeps z s) : Keeps z (handshakeDeferExpiryOp i
    s) := by
  unfold handshakeDeferExpiryOp
  repeat' with_reducible (first
    | (intro _) | assumption | apply keeps_ite | apply keeps_foldl | apply keeps_foldl_fst | simp only [↓keeps_mk]
    | rfl | split | exact Keeps.rfl')

theorem handshakeTimeoutOp_keeps (i : Nat) {z s : State} (hk : Keeps z s) : Keeps z (handshakeTimeoutOp i s) := by
  unfold handshakeTimeoutOp
  repeat' with_reducible (first
    | (intro _) | assumption | apply keeps_ite | apply keeps_foldl | apply keeps_foldl_fst | apply refuse_keeps
    | dsimp only | rfl | split | exact Keeps.rfl')

theorem pwrStateReqOp_keeps (t : Nat) {z s : State} (hk : Keeps z s) : Keeps z (pwrStateReqOp t s) := by
  unfold pwrStateReqOp
  repeat' with_reducible (first
    | (intro _) | assumption | apply keeps_ite | apply keeps_foldl | apply keeps_foldl_fst | apply State.set_keeps
    | apply wakeActive_keeps | apply requestState_keeps | dsimp only | rfl | split | exact Keeps.rfl')

theorem timSleep_keeps {z s : State} (hk : Keeps z s) : Keeps z (timSleep s) := by
  unfold timSleep
  repeat' with_reducible (first
    | (intro _) | assumption | apply keeps_ite | apply keeps_foldl | apply keeps_foldl_fst | apply setActive_keeps
    | apply holdLeave_keeps | apply State.setB_keeps | simp only [↓keeps_mk] | rfl | split | exact Keeps.rfl')

theorem timWake_keeps {z s : State} (hk : Keeps z s) : Keeps z (timWake s) := by
  unfold timWake
  repeat' with_reducible (first
    | (intro _) | assumption | apply keeps_ite | apply keeps_foldl | apply keeps_foldl_fst | apply setQual_keeps
    | apply setActive_keeps | dsimp only | rfl | split | exact Keeps.rfl')

theorem enterRetain_keeps {z s : State} (hk : Keeps z s) : Keeps z (enterRetain s) := by
  unfold enterRetain
  repeat' with_reducible (first
    | (intro _) | assumption | apply keeps_ite | apply keeps_foldl | apply keeps_foldl_fst | apply timSleep_keeps
    | apply capsLose_keeps | apply pllsStop_keeps | dsimp only | rfl | split | exact Keeps.rfl')

theorem stateDone_keeps {z s : State} (hk : Keeps z s) : Keeps z (stateDone s) := by
  unfold stateDone
  repeat' with_reducible (first
    | (intro _) | assumption | apply keeps_ite | apply keeps_foldl | apply keeps_foldl_fst | apply clockCounts_keeps
    | apply powerEvent_keeps | apply State.set_keeps | apply State.setB_keeps | apply State.irq_keeps
    | simp only [↓keeps_mk] | rfl | split | exact Keeps.rfl')

theorem wokenRejoin_keeps {z s : State} (hk : Keeps z s) : Keeps z (wokenRejoin s) := by
  unfold wokenRejoin
  repeat' with_reducible (first
    | (intro _) | assumption | apply keeps_ite | apply keeps_foldl | apply keeps_foldl_fst | simp only [↓keeps_mk]
    | rfl | split | exact Keeps.rfl')

theorem powerStateEntryDoneOp_keeps {z s : State} (hk : Keeps z s) : Keeps z (powerStateEntryDoneOp s) := by
  unfold powerStateEntryDoneOp
  repeat' with_reducible (first
    | (intro _) | assumption | apply keeps_ite | apply keeps_foldl | apply keeps_foldl_fst | apply enterTimekeep_keeps
    | apply powerEvent_keeps | apply leaveTimekeep_keeps | apply enterRetain_keeps | apply changeOver_keeps
    | apply lanesConsider_keeps | apply wokenRejoin_keeps | apply stateDone_keeps | dsimp only | rfl | split
    | exact Keeps.rfl')

theorem domainsBack_keeps (old : Nat) {z s : State} (hk : Keeps z s) : Keeps z (domainsBack old s) := by
  unfold domainsBack
  repeat' with_reducible (first
    | (intro _) | assumption | apply keeps_ite | apply keeps_foldl | apply keeps_foldl_fst | apply State.setB_keeps
    | apply capFollow_keeps | apply timWake_keeps | apply alarmsSkipped_keeps | dsimp only | rfl | split
    | exact Keeps.rfl')

theorem levelApplyCfg_keeps {z s : State} (hk : Keeps z s) : Keeps z (levelApplyCfg s) := by
  unfold levelApplyCfg
  repeat' with_reducible (first
    | (intro _) | assumption | apply keeps_ite | apply keeps_foldl | apply keeps_foldl_fst | apply requestLevel_keeps
    | dsimp only | rfl | split | exact Keeps.rfl')

theorem powerStateExitDoneOp_keeps {z s : State} (hk : Keeps z s) : Keeps z (powerStateExitDoneOp s) := by
  unfold powerStateExitDoneOp
  repeat' with_reducible (first
    | (intro _) | assumption | apply keeps_ite | apply keeps_foldl | apply keeps_foldl_fst | apply domainsBack_keeps
    | apply stateDone_keeps | apply lanesConsider_keeps | apply changeOver_keeps | apply levelApplyCfg_keeps
    | apply State.irq_keeps | simp only [↓keeps_mk] | rfl | split | exact Keeps.rfl')

theorem plCfgWriteOp_keeps (v : Nat) {z s : State} (hk : Keeps z s) : Keeps z (plCfgWriteOp v s) := by
  unfold plCfgWriteOp
  repeat' with_reducible (first
    | (intro _) | assumption | apply keeps_ite | apply keeps_foldl | apply keeps_foldl_fst | apply State.set_keeps
    | apply levelApplyCfg_keeps | dsimp only | rfl | split | exact Keeps.rfl')

theorem plAutoLowerOp_keeps {z s : State} (hk : Keeps z s) : Keeps z (plAutoLowerOp s) := by
  unfold plAutoLowerOp
  repeat' with_reducible (first
    | (intro _) | assumption | apply keeps_ite | apply keeps_foldl | apply keeps_foldl_fst | apply requestLevel_keeps
    | dsimp only | rfl | split | exact Keeps.rfl')

theorem avsFail_keeps {z s : State} (hk : Keeps z s) : Keeps z (avsFail s) := by
  unfold avsFail
  repeat' with_reducible (first
    | (intro _) | assumption | apply keeps_ite | apply keeps_foldl | apply keeps_foldl_fst | apply State.setB_keeps
    | apply changeOver_keeps | apply requestLevel_keeps | apply State.irq_keeps | apply State.set_keeps
    | simp only [↓keeps_mk] | rfl | split | exact Keeps.rfl')

theorem avsFrameDoneOp_keeps (ok : Bool) {z s : State} (hk : Keeps z s) : Keeps z (avsFrameDoneOp ok s) := by
  unfold avsFrameDoneOp
  repeat' with_reducible (first
    | (intro _) | assumption | apply keeps_ite | apply keeps_foldl | apply keeps_foldl_fst | apply avsFail_keeps
    | simp only [↓keeps_mk] | rfl | split | exact Keeps.rfl')

theorem avsSettleExpiryOp_keeps {z s : State} (hk : Keeps z s) : Keeps z (avsSettleExpiryOp s) := by
  unfold avsSettleExpiryOp
  repeat' with_reducible (first
    | (intro _) | assumption | apply keeps_ite | apply keeps_foldl | apply keeps_foldl_fst | apply levelSteps_keeps
    | simp only [↓keeps_mk] | rfl | split | exact Keeps.rfl')

theorem burstsOver_keeps {z s : State} (hk : Keeps z s) : Keeps z (burstsOver s) := by
  unfold burstsOver
  repeat' with_reducible (first
    | (intro _) | assumption | apply keeps_ite | apply keeps_foldl | apply keeps_foldl_fst | apply State.putRx_keeps
    | simp only [↓keeps_mk] | rfl | split | exact Keeps.rfl')

theorem plChangeDoneOp_keeps {z s : State} (hk : Keeps z s) : Keeps z (plChangeDoneOp s) := by
  unfold plChangeDoneOp
  repeat' with_reducible (first
    | (intro _) | assumption | apply keeps_ite | apply keeps_foldl | apply keeps_foldl_fst | apply powerEvent_keeps
    | apply State.set_keeps | apply changeOver_keeps | apply burstsOver_keeps | apply lanesConsider_keeps
    | apply State.setB_keeps | apply State.irq_keeps | simp only [↓keeps_mk] | rfl | split | exact Keeps.rfl')

theorem domainWakeDoneOp_keeps (d : Domain) {z s : State} (hk : Keeps z s) : Keeps z (domainWakeDoneOp d s) := by
  unfold domainWakeDoneOp
  repeat' with_reducible (first
    | (intro _) | assumption | apply keeps_ite | apply keeps_foldl | apply keeps_foldl_fst | apply State.count_keeps
    | simp only [↓keeps_mk] | rfl | split | exact Keeps.rfl')

theorem wakeHoldExpiryOp_keeps (d : Domain) {z s : State} (hk : Keeps z s) : Keeps z (wakeHoldExpiryOp d s) := by
  unfold wakeHoldExpiryOp
  repeat' with_reducible (first
    | (intro _) | assumption | apply keeps_ite | apply keeps_foldl | apply keeps_foldl_fst | apply clockCounts_keeps
    | simp only [↓keeps_mk] | rfl | split | exact Keeps.rfl')

theorem refclkLossOp_keeps {z s : State} (hk : Keeps z s) : Keeps z (refclkLossOp s) := by
  unfold refclkLossOp
  repeat' with_reducible (first
    | (intro _) | assumption | apply keeps_ite | apply keeps_foldl | apply keeps_foldl_fst | apply State.setB_keeps
    | apply State.irq_keeps | apply pllLose_keeps | dsimp only | rfl | split | exact Keeps.rfl')

theorem refclkRestoredOp_keeps {z s : State} (hk : Keeps z s) : Keeps z (refclkRestoredOp s) := by
  unfold refclkRestoredOp
  repeat' with_reducible (first
    | (intro _) | assumption | apply keeps_ite | apply keeps_foldl | apply keeps_foldl_fst | apply State.setB_keeps
    | apply State.irq_keeps | dsimp only | rfl | split | exact Keeps.rfl')

end Sys2Proof.Machine
end

