-- ==== Sys2Proof/Laws/KeepsSelfTest.lean ====
section
/-!
SUPPORT. The operations of Machine/SelfTest.lean keep the queue and the canonical forms.
-/

namespace Sys2Proof.Machine

open Sys2Proof

theorem eccFail_keeps (memid word : Nat) (addrFault : Bool) {z s : State} (hk : Keeps z s) : Keeps z (eccFail memid
    word addrFault s) := by
  unfold eccFail
  repeat' with_reducible (first
    | (intro _) | assumption | apply keeps_ite | apply keeps_foldl | apply keeps_foldl_fst | apply State.satInc_keeps
    | apply State.setB_keeps | apply State.irq_keeps | apply commitTrigger_keeps | apply State.set_keeps
    | apply State.event_keeps | dsimp only | rfl | split | exact Keeps.rfl')

theorem eccFailAt_keeps (a : Nat) {z s : State} (hk : Keeps z s) : Keeps z (eccFailAt a s) := by
  unfold eccFailAt
  repeat' with_reducible (first
    | (intro _) | assumption | apply keeps_ite | apply keeps_foldl | apply keeps_foldl_fst | apply eccFail_keeps
    | dsimp only | rfl | split | exact Keeps.rfl')

theorem memCheck_keeps (a : Nat) {z s : State} (hk : Keeps z s) : Keeps z (memCheck a s).1 := by
  unfold memCheck
  repeat' with_reducible (first
    | (intro _) | assumption | apply keeps_ite | apply keeps_foldl | apply keeps_foldl_fst | apply eccFailAt_keeps
    | apply State.draw_keeps | apply eccCorrect_keeps | dsimp only | rfl | split | exact Keeps.rfl'
    | (refine keeps_fst (by assumption) ?_))

theorem injectTake_keeps (a : Nat) {z s : State} (hk : Keeps z s) : Keeps z (injectTake a s) := by
  unfold injectTake
  repeat' with_reducible (first
    | (intro _) | assumption | apply keeps_ite | apply keeps_foldl | apply keeps_foldl_fst | apply State.putEcc_keeps
    | apply State.set_keeps | dsimp only | rfl | split | exact Keeps.rfl')

theorem wordSettle_keeps (a : Nat) {z s : State} (hk : Keeps z s) : Keeps z (wordSettle a s) := by
  unfold wordSettle
  repeat' with_reducible (first
    | (intro _) | assumption | apply keeps_ite | apply keeps_foldl | apply keeps_foldl_fst | apply State.putByte_keeps
    | dsimp only | rfl | split | exact Keeps.rfl')

theorem memMerge_keeps (a : Nat) (f : Nat → Nat) {z s : State} (hk : Keeps z s) : Keeps z (memMerge a f s).1 := by
  unfold memMerge
  repeat' with_reducible (first
    | (intro _) | assumption | apply keeps_ite | apply keeps_foldl | apply keeps_foldl_fst | apply memCheck_keeps
    | apply injectTake_keeps | apply wordSettle_keeps | apply State.putMemWord_keeps | dsimp only | rfl | split
    | exact Keeps.rfl')

theorem memPair_keeps (a lo hi : Nat) {z s : State} (hk : Keeps z s) : Keeps z (memPair a lo hi s) := by
  unfold memPair
  repeat' with_reducible (first
    | (intro _) | assumption | apply keeps_ite | apply keeps_foldl | apply keeps_foldl_fst | apply injectTake_keeps
    | apply State.putMemWord_keeps | dsimp only | rfl | split | exact Keeps.rfl')

theorem scratchAlias_keeps (x : Nat) (f : Nat → Nat) {z s : State} (hk : Keeps z s) : Keeps z (scratchAlias x f s)
    := by
  unfold scratchAlias
  repeat' with_reducible (first
    | (intro _) | assumption | apply keeps_ite | apply keeps_foldl | apply keeps_foldl_fst | apply memMerge_keeps
    | dsimp only | rfl | split | exact Keeps.rfl')

theorem scratchBitSetOp_keeps (x v : Nat) {z s : State} (hk : Keeps z s) : Keeps z (scratchBitSetOp x v s) := by
  unfold scratchBitSetOp
  repeat' with_reducible (first
    | (intro _) | assumption | apply keeps_ite | apply keeps_foldl | apply keeps_foldl_fst | apply scratchAlias_keeps
    | dsimp only | rfl | split | exact Keeps.rfl')

theorem scratchBitClearOp_keeps (x v : Nat) {z s : State} (hk : Keeps z s) : Keeps z (scratchBitClearOp x v s) := by
  unfold scratchBitClearOp
  repeat' with_reducible (first
    | (intro _) | assumption | apply keeps_ite | apply keeps_foldl | apply keeps_foldl_fst | apply scratchAlias_keeps
    | dsimp only | rfl | split | exact Keeps.rfl')

theorem eccInjectOp_keeps (word mode : Nat) {z s : State} (hk : Keeps z s) : Keeps z (eccInjectOp word mode s) := by
  unfold eccInjectOp
  repeat' with_reducible (first
    | (intro _) | assumption | apply keeps_ite | apply keeps_foldl | apply keeps_foldl_fst | apply State.set_keeps
    | dsimp only | rfl | split | exact Keeps.rfl')

theorem scrubReadOp_keeps (memid word cls : Nat) {z s : State} (hk : Keeps z s) : Keeps z (scrubReadOp memid word
    cls s) := by
  unfold scrubReadOp
  repeat' with_reducible (first
    | (intro _) | assumption | apply keeps_ite | apply keeps_foldl | apply keeps_foldl_fst
    | apply State.putClass_keeps | apply eccFail_keeps | apply State.satInc_keeps | apply State.setB_keeps
    | apply State.irq_keeps | dsimp only | rfl | split | exact Keeps.rfl')

theorem mgmtOnly_keeps (run : Bool) (err : Nat) {z s : State} (hk : Keeps z s) : Keeps z (mgmtOnly run err s) := by
  unfold mgmtOnly
  repeat' with_reducible (first
    | (intro _) | assumption | apply keeps_ite | apply keeps_foldl | apply keeps_foldl_fst | apply State.setB_keeps
    | apply blockFollow_keeps | apply setPhase_keeps | apply State.set_keeps | apply State.irq_keeps | dsimp only
    | rfl | split | exact Keeps.rfl')

theorem enterMgmtOnly_keeps (err : Nat) {z s : State} (hk : Keeps z s) : Keeps z (enterMgmtOnly err s) := by
  unfold enterMgmtOnly
  repeat' with_reducible (first
    | (intro _) | assumption | apply keeps_ite | apply keeps_foldl | apply keeps_foldl_fst | apply mgmtOnly_keeps
    | dsimp only | rfl | split | exact Keeps.rfl')

theorem retireSlice_keeps (sh n : Nat) {z s : State} (hk : Keeps z s) : Keeps z (retireSlice sh n s) := by
  unfold retireSlice
  repeat' with_reducible (first
    | (intro _) | assumption | apply keeps_ite | apply keeps_foldl | apply keeps_foldl_fst | apply retireStore_keeps
    | apply spareRefresh_keeps | apply slicePut_keeps | apply sliceReassignOp_keeps | apply toFault_keeps
    | apply State.set_keeps | dsimp only | rfl | split | exact Keeps.rfl')

theorem memFailed_keeps (memid word : Nat) {z s : State} (hk : Keeps z s) : Keeps z (memFailed memid word s) := by
  unfold memFailed
  repeat' with_reducible (first
    | (intro _) | assumption | apply keeps_ite | apply keeps_foldl | apply keeps_foldl_fst | apply State.setB_keeps
    | apply enterMgmtOnly_keeps | apply retireSlice_keeps | apply State.event_keeps | simp only [↓keeps_mk] | rfl
    | split | exact Keeps.rfl')

theorem rowRepair_keeps (memid : Nat) (rows : List Nat) (row : Nat) {z s : State} (hk : Keeps z s) : Keeps z
    (rowRepair memid rows row s) := by
  unfold rowRepair
  repeat' with_reducible (first
    | (intro _) | assumption | apply keeps_ite | apply keeps_foldl | apply keeps_foldl_fst | apply repairRecord_keeps
    | apply memFailed_keeps | apply State.satInc_keeps | simp only [↓keeps_mk] | rfl | split | exact Keeps.rfl')

theorem rowsRepair_keeps (memid : Nat) (words : List (Nat × List Nat)) {z s : State} (hk : Keeps z s) : Keeps z
    (rowsRepair memid words s) := by
  unfold rowsRepair
  repeat' with_reducible (first
    | (intro _) | assumption | apply keeps_ite | apply keeps_foldl | apply keeps_foldl_fst | apply rowRepair_keeps
    | dsimp only | rfl | split | exact Keeps.rfl')

theorem marchStartOp_keeps (memid : Nat) (preserve : Bool) (req : Requester) {z s : State} (hk : Keeps z s) : Keeps
    z (marchStartOp memid preserve req s) := by
  unfold marchStartOp
  repeat' with_reducible (first
    | (intro _) | assumption | apply keeps_ite | apply keeps_foldl | apply keeps_foldl_fst | apply State.set_keeps
    | apply State.conflict_keeps | apply State.setB_keeps | simp only [↓keeps_mk] | rfl | split | exact Keeps.rfl')

theorem marchAbortOp_keeps {z s : State} (hk : Keeps z s) : Keeps z (marchAbortOp s) := by
  unfold marchAbortOp
  repeat' with_reducible (first
    | (intro _) | assumption | apply keeps_ite | apply keeps_foldl | apply keeps_foldl_fst | simp only [↓keeps_mk]
    | rfl | split | exact Keeps.rfl')

theorem State.putCap_drop_keeps {z s : State} (c : Nat) (x : CapInt) (hx : x.patches = []) (h : Keeps z s) :
    Keeps z (s.putCap c x) := ⟨h.queue, h.regs, fun y => putCap_drop_wf c x hx (h.mem y)⟩

theorem marchContents_keeps (memid : Nat) (keep stop : Bool) {z s : State} (hk : Keeps z s) :
    Keeps z (marchContents memid keep stop s) := by
  unfold marchContents
  repeat' with_reducible (first
    | (refine State.putCap_drop_keeps _ _ rfl ?_) | (intro _) | assumption | apply keeps_ite | apply keeps_foldl
    | apply keeps_foldl_fst | apply eccFresh_keeps | apply State.draw_keeps | apply State.putBytes_keeps
    | apply State.clearBytes_keeps | apply capScramble_keeps | apply capPatch_keeps | apply State.putCap_keeps
    | apply State.set_keeps | apply memoriesUse_keeps | apply memoriesClear_keeps | simp only [↓keeps_mk] | rfl
    | split | exact Keeps.rfl')

theorem marchDoneOp_keeps (words : List (Nat × List Nat)) {z s : State} (hk : Keeps z s) : Keeps z (marchDoneOp
    words s) := by
  unfold marchDoneOp
  repeat' with_reducible (first
    | (intro _) | assumption | apply keeps_ite | apply keeps_foldl | apply keeps_foldl_fst | apply marchContents_keeps
    | apply rowsRepair_keeps | apply State.set_keeps | apply State.irq_keeps | dsimp only | rfl | split
    | exact Keeps.rfl')

theorem tstCfgWriteOp_keeps (boot once : Bool) {z s : State} (hk : Keeps z s) : Keeps z (tstCfgWriteOp boot once s)
    := by
  unfold tstCfgWriteOp
  repeat' with_reducible (first
    | (intro _) | assumption | apply keeps_ite | apply keeps_foldl | apply keeps_foldl_fst | apply State.setB_keeps
    | apply bootPut_keeps | simp only [↓keeps_mk] | rfl | split | exact Keeps.rfl')

end Sys2Proof.Machine
end

