-- ==== Sys2Proof/Laws/KeepsSecurity.lean ====
section
/-!
SUPPORT. The operations of Machine/Security.lean keep the queue and the canonical forms.
-/

namespace Sys2Proof.Machine

open Sys2Proof

theorem bufPut_keeps (w : Nat) (bs : List Nat) {z s : State} (hk : Keeps z s) : Keeps z (bufPut w bs s) := by
  unfold bufPut
  repeat' with_reducible (first
    | (intro _) | assumption | apply keeps_ite | apply keeps_foldl | apply keeps_foldl_fst | apply State.set_keeps
    | dsimp only | rfl | split | exact Keeps.rfl')

theorem secStart_keeps (op : Nat) (owner : Bool) {z s : State} (hk : Keeps z s) : Keeps z (secStart op owner s) := by
  unfold secStart
  repeat' with_reducible (first
    | (intro _) | assumption | apply keeps_ite | apply keeps_foldl | apply keeps_foldl_fst
    | apply State.conflict_keeps | apply State.set_keeps | simp only [↓keeps_mk] | rfl | split | exact Keeps.rfl')

theorem secEnd_keeps (result : Nat) {z s : State} (hk : Keeps z s) : Keeps z (secEnd result s) := by
  unfold secEnd
  repeat' with_reducible (first
    | (intro _) | assumption | apply keeps_ite | apply keeps_foldl | apply keeps_foldl_fst | apply State.set_keeps
    | apply State.irq_keeps | simp only [↓keeps_mk] | rfl | split | exact Keeps.rfl')

theorem nonceRun_keeps {z s : State} (hk : Keeps z s) : Keeps z (nonceRun s) := by
  unfold nonceRun
  repeat' with_reducible (first
    | (intro _) | assumption | apply keeps_ite | apply keeps_foldl | apply keeps_foldl_fst | apply secEnd_keeps
    | apply bufPut_keeps | apply State.draw_keeps | simp only [↓keeps_mk] | rfl | split | exact Keeps.rfl')

theorem ownBeginRun_keeps {z s : State} (hk : Keeps z s) : Keeps z (ownBeginRun s) := by
  unfold ownBeginRun
  repeat' with_reducible (first
    | (intro _) | assumption | apply keeps_ite | apply keeps_foldl | apply keeps_foldl_fst | apply secEnd_keeps
    | apply State.draw_keeps | apply bufPut_keeps | simp only [↓keeps_mk] | rfl | split | exact Keeps.rfl')

theorem ownUp_keeps (n priv : Nat) {z s : State} (hk : Keeps z s) : Keeps z (ownUp n priv s) := by
  unfold ownUp
  repeat' with_reducible (first
    | (intro _) | assumption | apply keeps_ite | apply keeps_foldl | apply keeps_foldl_fst | apply ownEnd_keeps
    | apply secEvent_keeps | apply State.setB_keeps | apply State.set_keeps | apply State.irq_keeps
    | simp only [↓keeps_mk] | rfl | split | exact Keeps.rfl')

theorem ownFail_keeps {z s : State} (hk : Keeps z s) : Keeps z (ownFail s) := by
  unfold ownFail
  repeat' with_reducible (first
    | (intro _) | assumption | apply keeps_ite | apply keeps_foldl | apply keeps_foldl_fst | apply secEvent_keeps
    | apply State.satInc_keeps | simp only [↓keeps_mk] | rfl | split | exact Keeps.rfl')

theorem ownFinishRun_keeps {z s : State} (hk : Keeps z s) : Keeps z (ownFinishRun s) := by
  unfold ownFinishRun
  repeat' with_reducible (first
    | (intro _) | assumption | apply keeps_ite | apply keeps_foldl | apply keeps_foldl_fst | apply secEnd_keeps
    | apply ownUp_keeps | apply ownFail_keeps | simp only [↓keeps_mk] | rfl | split | exact Keeps.rfl')

theorem ownEndRun_keeps {z s : State} (hk : Keeps z s) : Keeps z (ownEndRun s) := by
  unfold ownEndRun
  repeat' with_reducible (first
    | (intro _) | assumption | apply keeps_ite | apply keeps_foldl | apply keeps_foldl_fst | apply secEnd_keeps
    | apply ownEnd_keeps | dsimp only | rfl | split | exact Keeps.rfl')

theorem ownerProgram_keeps (take : Bool) {z s : State} (hl : s.fuses.life ≠ 4) (hk : Keeps z s) :
    Keeps z (ownerProgram take s) := by
  unfold ownerProgram
  extract_lets slot old src f g t
  have ht : Keeps z t := by
    refine secEvent_keeps _ _ (storePut_keeps (keeps_fuses g ?_ hk))
    have hf : g.life = 2 := by
      unfold g
      clear_value old
      cases take <;> cases old <;> rfl
    simp [hf, hl]
  clear_value t
  refine commitTrigger_keeps _ ?_
  split
  · exact secEvent_keeps _ _ ht
  · exact ownEnd_keeps _ ht

theorem ownershipRun_keeps (take : Bool) {z s : State} (hk : Keeps z s) : Keeps z (ownershipRun take s) := by
  unfold ownershipRun
  refine keeps_ite (secEnd_keeps _ hk) ?_
  by_cases hl : (s.fuses.life != if take then 1 else 2) = true
  · rw [if_pos hl]; exact secEnd_keeps _ hk
  · rw [if_neg hl]
    have hn : s.fuses.life ≠ 4 := by
      intro h4
      cases take <;> simp [h4] at hl
    split
    · exact secEnd_keeps _ hk
    · extract_lets src t msg
      have ht : Keeps z t := by
        unfold t
        simp only [↓keeps_mk]
        exact hk
      have htl : t.fuses.life ≠ 4 := hn
      clear_value t
      exact keeps_ite (secEnd_keeps _ ht) (keeps_ite (secEnd_keeps _ ht)
        (secEnd_keeps _ (ownerProgram_keeps take htl ht)))

theorem peersEnd_keeps {z s : State} (hk : Keeps z s) : Keeps z (peersEnd s) := by
  unfold peersEnd
  repeat' with_reducible (first
    | (intro _) | assumption | apply keeps_ite | apply keeps_foldl | apply keeps_foldl_fst | apply sessionEnd_keeps
    | dsimp only | rfl | split | exact Keeps.rfl')

theorem debugUnlocked_keeps {z s : State} (hk : Keeps z s) : Keeps z (debugUnlocked s) := by
  unfold debugUnlocked
  repeat' with_reducible (first
    | (intro _) | assumption | apply keeps_ite | apply keeps_foldl | apply keeps_foldl_fst | apply commitTrigger_keeps
    | apply secEvent_keeps | apply peersEnd_keeps | apply ownEnd_keeps | apply debugOpen_keeps | dsimp only | rfl
    | split | exact Keeps.rfl')

theorem rmaDone_keeps {z s : State} (hl : s.fuses.life ≠ 4) (hk : Keeps z s) : Keeps z (rmaDone s) := by
  unfold rmaDone
  refine commitTrigger_keeps _ (secEvent_keeps _ _ (peersEnd_keeps (ownEnd_keeps _ (debugOpen_keeps _ ?_))))
  refine keeps_congr (State.draw_keeps (State.draw_keeps hk)) rfl rfl rfl rfl ?_
  simp [State.draw, hl]

theorem tokenRun_keeps (kind : Nat) (accept : State → State) {z s : State} (hk : Keeps z s)
    (ha : ∀ t, t.fuses = s.fuses → Keeps z t → Keeps z (accept t)) : Keeps z (tokenRun kind accept s) := by
  unfold tokenRun
  split
  · exact secEnd_keeps _ hk
  · extract_lets src t
    have ht : Keeps z t := by
      unfold t
      simp only [↓keeps_mk]
      exact hk
    have hf : t.fuses = s.fuses := rfl
    clear_value t
    exact keeps_ite (secEnd_keeps _ (ha t hf ht)) (secEnd_keeps _ (secEvent_keeps _ _ ht))

theorem debugUnlockRun_keeps {z s : State} (hk : Keeps z s) : Keeps z (debugUnlockRun s) := by
  unfold debugUnlockRun
  exact keeps_ite (secEnd_keeps _ hk) (tokenRun_keeps _ _ hk fun t _ ht => debugUnlocked_keeps ht)

theorem rmaRun_keeps {z s : State} (hk : Keeps z s) : Keeps z (rmaRun s) := by
  unfold rmaRun
  refine keeps_ite (secEnd_keeps _ hk) ?_
  split
  · exact secEnd_keeps _ hk
  · next hl =>
    refine tokenRun_keeps _ _ hk fun t hf ht => rmaDone_keeps (fun h4 => ?_) ht
    rw [hf] at h4
    simp [h4] at hl

/-- What remains listed after the erasure reads as before, whatever the lifecycle state. -/
theorem granaryErase_keeps (f : Fuses) {z s : State} (hk : Keeps z s) :
    Keeps z (granaryErase { s with fuses := f }) := by
  refine ⟨hk.queue, hk.regs, fun x => ?_⟩
  refine wf_filter (s := s) (fun e => decide (e.1 < granaryBase) || inRepairs e.1) rfl (fun e _ hp => .inl ?_)
    (hk.mem x)
  have hq : (granaryErase { s with fuses := f }).patchAt e.1 = s.patchAt e.1 := rfl
  unfold memDefault
  rw [hq]
  by_cases hr : inRepairs e.1 = true
  · simp [hr]
  · have hb : e.1 < granaryBase := by simpa [hr] using hp
    have hn : ¬ (granaryBase ≤ e.1) := by omega
    simp [hn]

theorem decommissioned_keeps {z s : State} (hk : Keeps z s) : Keeps z (decommissioned s) := by
  unfold decommissioned
  extract_lets u src v
  have hu : Keeps z u := peersEnd_keeps (ownEnd_keeps _ (debugClose_keeps hk))
  have hv : Keeps z v := granaryErase_keeps _ hu
  clear_value v
  exact mgmtOnly_keeps _ _ (commitTrigger_keeps _ (secEvent_keeps _ _ (State.draw_keeps hv)))

theorem decommissionRun_keeps {z s : State} (hk : Keeps z s) : Keeps z (decommissionRun s) := by
  unfold decommissionRun
  repeat' with_reducible (first
    | (intro _) | assumption | apply keeps_ite | apply keeps_foldl | apply keeps_foldl_fst | apply secEnd_keeps
    | apply decommissioned_keeps | dsimp only | rfl | split | exact Keeps.rfl')

theorem nonceOp_keeps (owner : Bool) {z s : State} (hk : Keeps z s) : Keeps z (nonceOp owner s) := by
  unfold nonceOp
  repeat' with_reducible (first
    | (intro _) | assumption | apply keeps_ite | apply keeps_foldl | apply keeps_foldl_fst | apply secStart_keeps
    | dsimp only | rfl | split | exact Keeps.rfl')

theorem ownBeginOp_keeps (owner : Bool) {z s : State} (hk : Keeps z s) : Keeps z (ownBeginOp owner s) := by
  unfold ownBeginOp
  repeat' with_reducible (first
    | (intro _) | assumption | apply keeps_ite | apply keeps_foldl | apply keeps_foldl_fst | apply secStart_keeps
    | dsimp only | rfl | split | exact Keeps.rfl')

theorem ownFinishOp_keeps (owner : Bool) {z s : State} (hk : Keeps z s) : Keeps z (ownFinishOp owner s) := by
  unfold ownFinishOp
  repeat' with_reducible (first
    | (intro _) | assumption | apply keeps_ite | apply keeps_foldl | apply keeps_foldl_fst | apply secStart_keeps
    | dsimp only | rfl | split | exact Keeps.rfl')

theorem ownEndOp_keeps (owner : Bool) {z s : State} (hk : Keeps z s) : Keeps z (ownEndOp owner s) := by
  unfold ownEndOp
  repeat' with_reducible (first
    | (intro _) | assumption | apply keeps_ite | apply keeps_foldl | apply keeps_foldl_fst | apply secStart_keeps
    | dsimp only | rfl | split | exact Keeps.rfl')

theorem takeOwnershipOp_keeps (owner : Bool) {z s : State} (hk : Keeps z s) : Keeps z (takeOwnershipOp owner s) := by
  unfold takeOwnershipOp
  repeat' with_reducible (first
    | (intro _) | assumption | apply keeps_ite | apply keeps_foldl | apply keeps_foldl_fst | apply secStart_keeps
    | dsimp only | rfl | split | exact Keeps.rfl')

theorem transferOp_keeps (owner : Bool) {z s : State} (hk : Keeps z s) : Keeps z (transferOp owner s) := by
  unfold transferOp
  repeat' with_reducible (first
    | (intro _) | assumption | apply keeps_ite | apply keeps_foldl | apply keeps_foldl_fst | apply secStart_keeps
    | dsimp only | rfl | split | exact Keeps.rfl')

theorem debugUnlockOp_keeps (owner : Bool) {z s : State} (hk : Keeps z s) : Keeps z (debugUnlockOp owner s) := by
  unfold debugUnlockOp
  repeat' with_reducible (first
    | (intro _) | assumption | apply keeps_ite | apply keeps_foldl | apply keeps_foldl_fst | apply secStart_keeps
    | dsimp only | rfl | split | exact Keeps.rfl')

theorem rmaOp_keeps (owner : Bool) {z s : State} (hk : Keeps z s) : Keeps z (rmaOp owner s) := by
  unfold rmaOp
  repeat' with_reducible (first
    | (intro _) | assumption | apply keeps_ite | apply keeps_foldl | apply keeps_foldl_fst | apply secStart_keeps
    | dsimp only | rfl | split | exact Keeps.rfl')

theorem decommissionOp_keeps (owner : Bool) {z s : State} (hk : Keeps z s) : Keeps z (decommissionOp owner s) := by
  unfold decommissionOp
  repeat' with_reducible (first
    | (intro _) | assumption | apply keeps_ite | apply keeps_foldl | apply keeps_foldl_fst | apply secStart_keeps
    | dsimp only | rfl | split | exact Keeps.rfl')

theorem lockdownOp_keeps (owner : Bool) {z s : State} (hk : Keeps z s) : Keeps z (lockdownOp owner s) := by
  unfold lockdownOp
  repeat' with_reducible (first
    | (intro _) | assumption | apply keeps_ite | apply keeps_foldl | apply keeps_foldl_fst
    | apply State.conflict_keeps | apply secEnd_keeps | apply lockdown_keeps | dsimp only | rfl | split
    | exact Keeps.rfl')

theorem secCmdDoneOp_keeps {z s : State} (hk : Keeps z s) : Keeps z (secCmdDoneOp s) := by
  unfold secCmdDoneOp
  repeat' with_reducible (first
    | (intro _) | assumption | apply keeps_ite | apply keeps_foldl | apply keeps_foldl_fst | apply secEnd_keeps
    | apply nonceRun_keeps | apply ownBeginRun_keeps | apply ownFinishRun_keeps | apply ownEndRun_keeps
    | apply ownershipRun_keeps | apply debugUnlockRun_keeps | apply rmaRun_keeps | apply decommissionRun_keeps
    | dsimp only | rfl | split | exact Keeps.rfl')

theorem ownIdleTimeoutOp_keeps {z s : State} (hk : Keeps z s) : Keeps z (ownIdleTimeoutOp s) := by
  unfold ownIdleTimeoutOp
  repeat' with_reducible (first
    | (intro _) | assumption | apply keeps_ite | apply keeps_foldl | apply keeps_foldl_fst | apply ownEnd_keeps
    | dsimp only | rfl | split | exact Keeps.rfl')

theorem ownBackoffExpiryOp_keeps {z s : State} (hk : Keeps z s) : Keeps z (ownBackoffExpiryOp s) := by
  unfold ownBackoffExpiryOp
  repeat' with_reducible (first
    | (intro _) | assumption | apply keeps_ite | apply keeps_foldl | apply keeps_foldl_fst | simp only [↓keeps_mk]
    | rfl | split | exact Keeps.rfl')

theorem trngFailOp_keeps {z s : State} (hk : Keeps z s) : Keeps z (trngFailOp s) := by
  unfold trngFailOp
  repeat' with_reducible (first
    | (intro _) | assumption | apply keeps_ite | apply keeps_foldl | apply keeps_foldl_fst | apply secEvent_keeps
    | apply State.setB_keeps | apply State.irq_keeps | dsimp only | rfl | split | exact Keeps.rfl')

theorem tamperOp_keeps (cause : Nat) {z s : State} (hk : Keeps z s) : Keeps z (tamperOp cause s) := by
  unfold tamperOp
  repeat' with_reducible (first
    | (intro _) | assumption | apply keeps_ite | apply keeps_foldl | apply keeps_foldl_fst | apply secEvent_keeps
    | apply State.irq_keeps | apply lockdown_keeps | dsimp only | rfl | split | exact Keeps.rfl')

theorem peerSend_keeps (l type : Nat) (payload : List Nat) {z s : State} (hk : Keeps z s) : Keeps z (peerSend l
    type payload s) := by
  unfold peerSend
  repeat' with_reducible (first
    | (intro _) | assumption | apply keeps_ite | apply keeps_foldl | apply keeps_foldl_fst | apply outPut_keeps
    | simp only [↓keeps_mk] | rfl | split | exact Keeps.rfl')

theorem peerFail_keeps (k code : Nat) {z s : State} (hk : Keeps z s) : Keeps z (peerFail k code s) := by
  unfold peerFail
  repeat' with_reducible (first
    | (intro _) | assumption | apply keeps_ite | apply keeps_foldl | apply keeps_foldl_fst | apply State.set_keeps
    | apply State.satInc_keeps | apply State.irq_keeps | apply State.putSession_keeps | apply State.event_keeps
    | simp only [↓keeps_mk] | rfl | split | exact Keeps.rfl')

theorem peerAlert_keeps (k code : Nat) {z s : State} (hk : Keeps z s) : Keeps z (peerAlert k code s) := by
  unfold peerAlert
  repeat' with_reducible (first
    | (intro _) | assumption | apply keeps_ite | apply keeps_foldl | apply keeps_foldl_fst | apply peerFail_keeps
    | apply peerSend_keeps | dsimp only | rfl | split | exact Keeps.rfl')

theorem helloSend_keeps (k type step : Nat) {z s : State} (hk : Keeps z s) : Keeps z (helloSend k type step s) := by
  unfold helloSend
  repeat' with_reducible (first
    | (intro _) | assumption | apply keeps_ite | apply keeps_foldl | apply keeps_foldl_fst | apply peerSend_keeps
    | apply State.draw_keeps | apply State.putSession_keeps | simp only [↓keeps_mk] | rfl | split | exact Keeps.rfl')

theorem peerStart_keeps (k : Nat) {z s : State} (hk : Keeps z s) : Keeps z (peerStart k s) := by
  unfold peerStart
  repeat' with_reducible (first
    | (intro _) | assumption | apply keeps_ite | apply keeps_foldl | apply keeps_foldl_fst
    | apply State.putSession_keeps | apply peerAlert_keeps | apply helloSend_keeps | apply State.set_keeps
    | dsimp only | rfl | split | exact Keeps.rfl')

theorem autoStart_keeps (k : Nat) {z s : State} (hk : Keeps z s) : Keeps z (autoStart k s) := by
  unfold autoStart
  repeat' with_reducible (first
    | (intro _) | assumption | apply keeps_ite | apply keeps_foldl | apply keeps_foldl_fst | apply peerStart_keeps
    | dsimp only | rfl | split | exact Keeps.rfl')

theorem faostHeaderOp_keeps (l b1 b2 b3 : Nat) {z s : State} (hk : Keeps z s) : Keeps z (faostHeaderOp l b1 b2 b3
    s) := by
  unfold faostHeaderOp
  repeat' with_reducible (first
    | (intro _) | assumption | apply keeps_ite | apply keeps_foldl | apply keeps_foldl_fst | apply headerIn_keeps
    | apply autoStart_keeps | dsimp only | rfl | split | exact Keeps.rfl')

theorem helloTake_keeps (k step : Nat) (p : List Nat) {z s : State} (hk : Keeps z s) : Keeps z (helloTake k step p
    s) := by
  unfold helloTake
  repeat' with_reducible (first
    | (intro _) | assumption | apply keeps_ite | apply keeps_foldl | apply keeps_foldl_fst
    | apply State.putSession_keeps | simp only [↓keeps_mk] | rfl | split | exact Keeps.rfl')

theorem helloOp_keeps (l : Nat) {z s : State} (hk : Keeps z s) : Keeps z (helloOp l s) := by
  unfold helloOp
  repeat' with_reducible (first
    | (intro _) | assumption | apply keeps_ite | apply keeps_foldl | apply keeps_foldl_fst | apply sessionEnd_keeps
    | apply peerAlert_keeps | apply helloTake_keeps | apply State.set_keeps
    | refine takeMessage_keeps _ _ ?_ (by assumption) | dsimp only | rfl | split | exact Keeps.rfl')

theorem helloReplyOp_keeps (l : Nat) {z s : State} (hk : Keeps z s) : Keeps z (helloReplyOp l s) := by
  unfold helloReplyOp
  repeat' with_reducible (first
    | (intro _) | assumption | apply keeps_ite | apply keeps_foldl | apply keeps_foldl_fst | apply helloTake_keeps
    | apply peerAlert_keeps | refine takeMessage_keeps _ _ ?_ (by assumption) | dsimp only | rfl | split
    | exact Keeps.rfl')

theorem finishSend_keeps (k : Nat) (manager : Bool) {z s : State} (hk : Keeps z s) : Keeps z (finishSend k manager
    s) := by
  unfold finishSend
  repeat' with_reducible (first
    | (intro _) | assumption | apply keeps_ite | apply keeps_foldl | apply keeps_foldl_fst | apply peerSend_keeps
    | apply State.draw_keeps | dsimp only | rfl | split | exact Keeps.rfl')

theorem chainDone_keeps (k : Nat) {z s : State} (hk : Keeps z s) : Keeps z (chainDone k s) := by
  unfold chainDone
  repeat' with_reducible (first
    | (intro _) | assumption | apply keeps_ite | apply keeps_foldl | apply keeps_foldl_fst | apply peerAlert_keeps
    | apply State.putSession_keeps | apply helloSend_keeps | apply finishSend_keeps | simp only [↓keeps_mk] | rfl
    | split | exact Keeps.rfl')

theorem certOp_keeps (l : Nat) {z s : State} (hk : Keeps z s) : Keeps z (certOp l s) := by
  unfold certOp
  repeat' with_reducible (first
    | (intro _) | assumption | apply keeps_ite | apply keeps_foldl | apply keeps_foldl_fst | apply peerAlert_keeps
    | apply State.putSession_keeps | apply chainDone_keeps | refine takeMessage_keeps _ _ ?_ (by assumption)
    | simp only [↓keeps_mk] | rfl | split | exact Keeps.rfl')

theorem peerUp_keeps (k : Nat) (manager : Bool) {z s : State} (hk : Keeps z s) : Keeps z (peerUp k manager s) := by
  unfold peerUp
  repeat' with_reducible (first
    | (intro _) | assumption | apply keeps_ite | apply keeps_foldl | apply keeps_foldl_fst
    | apply State.putSession_keeps | apply State.set_keeps | apply State.irq_keeps | apply State.event_keeps
    | simp only [↓keeps_mk] | rfl | split | exact Keeps.rfl')

theorem finishOp_keeps (l : Nat) {z s : State} (hk : Keeps z s) : Keeps z (finishOp l s) := by
  unfold finishOp
  repeat' with_reducible (first
    | (intro _) | assumption | apply keeps_ite | apply keeps_foldl | apply keeps_foldl_fst | apply peerAlert_keeps
    | apply peerUp_keeps | apply finishSend_keeps | refine takeMessage_keeps _ _ ?_ (by assumption) | dsimp only | rfl
    | split | exact Keeps.rfl')

theorem alertOp_keeps (l : Nat) {z s : State} (hk : Keeps z s) : Keeps z (alertOp l s) := by
  unfold alertOp
  repeat' with_reducible (first
    | (intro _) | assumption | apply keeps_ite | apply keeps_foldl | apply keeps_foldl_fst | apply peerFail_keeps
    | apply State.set_keeps | apply autoStart_keeps | apply sessionEnd_keeps
    | refine takeMessage_keeps _ _ ?_ (by assumption) | dsimp only | rfl | split | exact Keeps.rfl')

theorem closeOp_keeps (l : Nat) {z s : State} (hk : Keeps z s) : Keeps z (closeOp l s) := by
  unfold closeOp
  repeat' with_reducible (first
    | (intro _) | assumption | apply keeps_ite | apply keeps_foldl | apply keeps_foldl_fst | apply autoStart_keeps
    | apply sessionEnd_keeps | refine takeMessage_keeps _ _ ?_ (by assumption) | dsimp only | rfl | split
    | exact Keeps.rfl')

theorem peerHandshakeTimeoutOp_keeps (l : Nat) {z s : State} (hk : Keeps z s) : Keeps z (peerHandshakeTimeoutOp l
    s) := by
  unfold peerHandshakeTimeoutOp
  repeat' with_reducible (first
    | (intro _) | assumption | apply keeps_ite | apply keeps_foldl | apply keeps_foldl_fst | apply peerAlert_keeps
    | dsimp only | rfl | split | exact Keeps.rfl')

theorem peerHandshakeRetryOp_keeps (l : Nat) {z s : State} (hk : Keeps z s) : Keeps z (peerHandshakeRetryOp l s) := by
  unfold peerHandshakeRetryOp
  repeat' with_reducible (first
    | (intro _) | assumption | apply keeps_ite | apply keeps_foldl | apply keeps_foldl_fst | apply autoStart_keeps
    | apply State.putSession_keeps | simp only [↓keeps_mk] | rfl | split | exact Keeps.rfl')

end Sys2Proof.Machine
end

