-- ==== Sys2Proof/Laws/KeepsControl.lean ====
section
/-!
SUPPORT. The operations of Machine/Control.lean keep the queue and the canonical forms.
-/

namespace Sys2Proof.Machine

open Sys2Proof

theorem blockEnableOp_keeps (b : Blk) {z s : State} (hk : Keeps z s) : Keeps z (blockEnableOp b s) := by
  unfold blockEnableOp
  repeat' with_reducible (first
    | (intro _) | assumption | apply keeps_ite | apply keeps_foldl | apply keeps_foldl_fst | apply State.setB_keeps
    | apply State.set_keeps | dsimp only | rfl | split | exact Keeps.rfl')

theorem blockDisableOp_keeps (b : Blk) {z s : State} (hk : Keeps z s) : Keeps z (blockDisableOp b s) := by
  unfold blockDisableOp
  repeat' with_reducible (first
    | (intro _) | assumption | apply keeps_ite | apply keeps_foldl | apply keeps_foldl_fst | apply State.setB_keeps
    | apply State.set_keeps | apply calStop_keeps | dsimp only | rfl | split | exact Keeps.rfl')

theorem blockStartDoneOp_keeps (b : Blk) {z s : State} (hk : Keeps z s) : Keeps z (blockStartDoneOp b s) := by
  unfold blockStartDoneOp
  repeat' with_reducible (first
    | (intro _) | assumption | apply keeps_ite | apply keeps_foldl | apply keeps_foldl_fst | apply State.set_keeps
    | apply alarmsSkipped_keeps | apply calResume_keeps | dsimp only | rfl | split | exact Keeps.rfl')

theorem blockStopDoneOp_keeps (b : Blk) {z s : State} (hk : Keeps z s) : Keeps z (blockStopDoneOp b s) := by
  unfold blockStopDoneOp
  repeat' with_reducible (first
    | (intro _) | assumption | apply keeps_ite | apply keeps_foldl | apply keeps_foldl_fst | apply State.setB_keeps
    | apply State.set_keeps | dsimp only | rfl | split | exact Keeps.rfl')

theorem expertPut_keeps (b : Blk) (v req : Nat) {z s : State} (hk : Keeps z s) : Keeps z (expertPut b v req s) := by
  unfold expertPut
  repeat' with_reducible (first
    | (intro _) | assumption | apply keeps_ite | apply keeps_foldl | apply keeps_foldl_fst | apply State.set_keeps
    | apply calRefresh_keeps | apply State.event_keeps | dsimp only | rfl | split | exact Keeps.rfl')

theorem expertArmOp_keeps (b : Blk) (req : Requester) {z s : State} (hk : Keeps z s) : Keeps z (expertArmOp b req
    s) := by
  unfold expertArmOp
  repeat' with_reducible (first
    | (intro _) | assumption | apply keeps_ite | apply keeps_foldl | apply keeps_foldl_fst
    | apply State.conflict_keeps | apply expertPut_keeps | apply State.set_keeps | dsimp only | rfl | split
    | exact Keeps.rfl')

theorem expertUnlockOp_keeps (b : Blk) (req : Requester) {z s : State} (hk : Keeps z s) : Keeps z (expertUnlockOp b
    req s) := by
  unfold expertUnlockOp
  repeat' with_reducible (first
    | (intro _) | assumption | apply keeps_ite | apply keeps_foldl | apply keeps_foldl_fst | apply expertPut_keeps
    | apply State.conflict_keeps | dsimp only | rfl | split | exact Keeps.rfl')

theorem expertRelockOp_keeps (b : Blk) (req : Requester) {z s : State} (hk : Keeps z s) : Keeps z (expertRelockOp b
    req s) := by
  unfold expertRelockOp
  repeat' with_reducible (first
    | (intro _) | assumption | apply keeps_ite | apply keeps_foldl | apply keeps_foldl_fst | apply expertPut_keeps
    | dsimp only | rfl | split | exact Keeps.rfl')

theorem expertArmTimeoutOp_keeps (b : Blk) {z s : State} (hk : Keeps z s) : Keeps z (expertArmTimeoutOp b s) := by
  unfold expertArmTimeoutOp
  repeat' with_reducible (first
    | (intro _) | assumption | apply keeps_ite | apply keeps_foldl | apply keeps_foldl_fst | apply expertPut_keeps
    | dsimp only | rfl | split | exact Keeps.rfl')

theorem expertKey_keeps (b : Blk) (req : Requester) (key : Nat) {z s : State} (hk : Keeps z s) : Keeps z (expertKey
    b req key s) := by
  unfold expertKey
  repeat' with_reducible (first
    | (intro _) | assumption | apply keeps_ite | apply keeps_foldl | apply keeps_foldl_fst | apply expertArmOp_keeps
    | apply expertUnlockOp_keeps | apply expertRelockOp_keeps | apply State.conflict_keeps | apply expertPut_keeps
    | dsimp only | rfl | split | exact Keeps.rfl')

theorem irqForceOp_keeps (b : Blk) (v : Nat) {z s : State} (hk : Keeps z s) : Keeps z (irqForceOp b v s) := by
  unfold irqForceOp
  repeat' with_reducible (first
    | (intro _) | assumption | apply keeps_ite | apply keeps_foldl | apply keeps_foldl_fst | apply State.irq_keeps
    | dsimp only | rfl | split | exact Keeps.rfl')

theorem irqClear_keeps (b : Blk) (v : Nat) {z s : State} (hk : Keeps z s) : Keeps z (irqClear b v s) := by
  unfold irqClear
  repeat' with_reducible (first
    | (intro _) | assumption | apply keeps_ite | apply keeps_foldl | apply keeps_foldl_fst | apply State.setB_keeps
    | dsimp only | rfl | split | exact Keeps.rfl')

theorem irqRouteWriteOp_keeps (int alarm fwc : Bool) {z s : State} (hk : Keeps z s) : Keeps z (irqRouteWriteOp int
    alarm fwc s) := by
  unfold irqRouteWriteOp
  repeat' with_reducible (first
    | (intro _) | assumption | apply keeps_ite | apply keeps_foldl | apply keeps_foldl_fst
    | apply State.conflict_keeps | apply State.set_keeps | apply State.irq_keeps | dsimp only | rfl | split
    | exact Keeps.rfl')

theorem gpioFree_keeps (g : Nat) {z s : State} (hk : Keeps z s) : Keeps z (gpioFree g s) := by
  unfold gpioFree
  repeat' with_reducible (first
    | (intro _) | assumption | apply keeps_ite | apply keeps_foldl | apply keeps_foldl_fst | apply State.set_keeps
    | apply State.setB_keeps | dsimp only | rfl | split | exact Keeps.rfl')

theorem gpioPut_keeps (g v : Nat) {z s : State} (hk : Keeps z s) : Keeps z (gpioPut g v s) := by
  unfold gpioPut
  repeat' with_reducible (first
    | (intro _) | assumption | apply keeps_ite | apply keeps_foldl | apply keeps_foldl_fst
    | apply State.conflict_keeps | apply State.set_keeps | dsimp only | rfl | split | exact Keeps.rfl')

theorem gpioCfgWriteOp_keeps (req : Requester) (g v : Nat) {z s : State} (hk : Keeps z s) : Keeps z (gpioCfgWriteOp
    req g v s) := by
  unfold gpioCfgWriteOp
  repeat' with_reducible (first
    | (intro _) | assumption | apply keeps_ite | apply keeps_foldl | apply keeps_foldl_fst
    | apply State.conflict_keeps | apply State.claimRefused_keeps | apply gpioFree_keeps | apply gpioPut_keeps
    | apply State.set_keeps | dsimp only | rfl | split | exact Keeps.rfl')

theorem gpioEdgeOp_keeps (g : Nat) (level : Bool) {z s : State} (hk : Keeps z s) : Keeps z (gpioEdgeOp g level s)
    := by
  unfold gpioEdgeOp
  repeat' with_reducible (first
    | (intro _) | assumption | apply keeps_ite | apply keeps_foldl | apply keeps_foldl_fst | apply State.setB_keeps
    | apply State.irq_keeps | dsimp only | rfl | split | exact Keeps.rfl')

theorem claimReleaseOp_keeps (c : Claim) (req : Requester) {z s : State} (hk : Keeps z s) : Keeps z (claimReleaseOp
    c req s) := by
  unfold claimReleaseOp
  repeat' with_reducible (first
    | (intro _) | assumption | apply keeps_ite | apply keeps_foldl | apply keeps_foldl_fst | apply State.set_keeps
    | apply State.conflict_keeps | apply alarmReleaseOp_keeps | apply gpioFree_keeps | dsimp only | rfl | split
    | exact Keeps.rfl')

theorem claimForceOp_keeps (index res : Nat) {z s : State} (hk : Keeps z s) : Keeps z (claimForceOp index res s) := by
  unfold claimForceOp
  repeat' with_reducible (first
    | (intro _) | assumption | apply keeps_ite | apply keeps_foldl | apply keeps_foldl_fst | apply State.set_keeps
    | apply State.conflict_keeps | dsimp only | rfl | split | exact Keeps.rfl')

theorem mbxEnd_keeps (n result : Nat) (response : List Nat) {z s : State} (hk : Keeps z s) : Keeps z (mbxEnd n
    result response s) := by
  unfold mbxEnd
  repeat' with_reducible (first
    | (intro _) | assumption | apply keeps_ite | apply keeps_foldl | apply keeps_foldl_fst | apply State.set_keeps
    | apply State.irq_keeps | simp only [↓keeps_mk] | rfl | split | exact Keeps.rfl')

theorem mbxSubmitOp_keeps (slot opcode len : Nat) (owner : Bool) {z s : State} (hk : Keeps z s) : Keeps z
    (mbxSubmitOp slot opcode len owner s) := by
  unfold mbxSubmitOp
  repeat' with_reducible (first
    | (intro _) | assumption | apply keeps_ite | apply keeps_foldl | apply keeps_foldl_fst | apply State.set_keeps
    | apply State.setB_keeps | apply mbxEnd_keeps | simp only [↓keeps_mk] | rfl | split | exact Keeps.rfl')

theorem mbxAckOp_keeps (slots : Nat) {z s : State} (hk : Keeps z s) : Keeps z (mbxAckOp slots s) := by
  unfold mbxAckOp
  repeat' with_reducible (first
    | (intro _) | assumption | apply keeps_ite | apply keeps_foldl | apply keeps_foldl_fst | apply State.set_keeps
    | apply State.conflict_keeps | dsimp only | rfl | split | exact Keeps.rfl')

theorem mbxAbortOp_keeps (slots : Nat) {z s : State} (hk : Keeps z s) : Keeps z (mbxAbortOp slots s) := by
  unfold mbxAbortOp
  repeat' with_reducible (first
    | (intro _) | assumption | apply keeps_ite | apply keeps_foldl | apply keeps_foldl_fst | apply mbxEnd_keeps
    | simp only [↓keeps_mk] | rfl | split | exact Keeps.rfl')

end Sys2Proof.Machine
end

