-- ==== Sys2Proof/Laws/KeepsImages.lean ====
section
/-!
SUPPORT. The operations of Machine/Images.lean keep the queue and the canonical forms.
-/

namespace Sys2Proof.Machine

open Sys2Proof

theorem loadSlices_keeps (sh : Nat) {z s : State} (hk : Keeps z s) : Keeps z (loadSlices s sh) := by
  unfold loadSlices
  repeat' with_reducible (first
    | (intro _) | assumption | apply keeps_ite | apply keeps_foldl | apply keeps_foldl_fst | apply State.setB_keeps
    | apply slicePut_keeps | apply spareRefresh_keeps | apply State.set_keeps | dsimp only | rfl | split
    | exact Keeps.rfl')

theorem enterMarch_keeps {z s : State} (hk : Keeps z s) : Keeps z (enterMarch s) := by
  unfold enterMarch
  repeat' with_reducible (first
    | (intro _) | assumption | apply keeps_ite | apply keeps_foldl | apply keeps_foldl_fst | apply blockFollow_keeps
    | apply State.set_keeps | apply loadSlices_keeps | apply setPhase_keeps | apply State.setB_keeps | dsimp only
    | rfl | split | exact Keeps.rfl')

theorem checkersTest_keeps (checkers : List (Nat × List Nat)) {z s : State} (hk : Keeps z s) : Keeps z
    (checkersTest checkers s) := by
  unfold checkersTest
  repeat' with_reducible (first
    | (intro _) | assumption | apply keeps_ite | apply keeps_foldl | apply keeps_foldl_fst | apply memFailed_keeps
    | dsimp only | rfl | split | exact Keeps.rfl')

theorem marchBegin_keeps (checkers : List (Nat × List Nat)) {z s : State} (hk : Keeps z s) : Keeps z (marchBegin
    checkers s) := by
  unfold marchBegin
  repeat' with_reducible (first
    | (intro _) | assumption | apply keeps_ite | apply keeps_foldl | apply keeps_foldl_fst | apply checkersTest_keeps
    | apply enterMarch_keeps | dsimp only | rfl | split | exact Keeps.rfl')

theorem bootVerified_keeps (checkers : List (Nat × List Nat)) {z s : State} (hk : Keeps z s) : Keeps z
    (bootVerified checkers s) := by
  unfold bootVerified
  repeat' with_reducible (first
    | (intro _) | assumption | apply keeps_ite | apply keeps_foldl | apply keeps_foldl_fst | apply setPhase_keeps
    | apply State.setB_keeps | apply marchBegin_keeps | dsimp only | rfl | split | exact Keeps.rfl')

theorem firmwareRejected_keeps (bank : Nat) {z s : State} (hk : Keeps z s) : Keeps z (firmwareRejected bank s) := by
  unfold firmwareRejected
  repeat' with_reducible (first
    | (intro _) | assumption | apply keeps_ite | apply keeps_foldl | apply keeps_foldl_fst | apply commitTrigger_keeps
    | apply secEvent_keeps | dsimp only | rfl | split | exact Keeps.rfl')

theorem imageRejected_keeps {z s : State} (hk : Keeps z s) : Keeps z (imageRejected s) := by
  unfold imageRejected
  repeat' with_reducible (first
    | (intro _) | assumption | apply keeps_ite | apply keeps_foldl | apply keeps_foldl_fst
    | apply firmwareRejected_keeps | apply State.draw_keeps | dsimp only | rfl | split | exact Keeps.rfl')

theorem bootGoOp_keeps {z s : State} (hk : Keeps z s) : Keeps z (bootGoOp s) := by
  unfold bootGoOp
  repeat' with_reducible (first
    | (intro _) | assumption | apply keeps_ite | apply keeps_foldl | apply keeps_foldl_fst | apply bootVerified_keeps
    | apply State.setB_keeps | apply imageRejected_keeps | apply State.set_keeps | simp only [↓keeps_mk] | rfl | split
    | exact Keeps.rfl')

end Sys2Proof.Machine
end

