-- ==== Sys2Proof/Laws/KeepsAccess.lean ====
section
/-!
SUPPORT. The operations of Machine/Access.lean keep the queue and the canonical forms.
-/

namespace Sys2Proof.Machine

open Sys2Proof

theorem wakeBegin_keeps (d : Domain) {z s : State} (hk : Keeps z s) : Keeps z (wakeBegin d s) := by
  unfold wakeBegin
  repeat' with_reducible (first
    | (intro _) | assumption | apply keeps_ite | apply keeps_foldl | apply keeps_foldl_fst | simp only [↓keeps_mk]
    | rfl | split | exact Keeps.rfl')

theorem errorNote_keeps (req : Requester) (a : Nat) (st : Status) {z s : State} (hk : Keeps z s) : Keeps z
    (errorNote req a st s) := by
  unfold errorNote
  repeat' with_reducible (first
    | (intro _) | assumption | apply keeps_ite | apply keeps_foldl | apply keeps_foldl_fst | apply State.count_keeps
    | apply State.set_keeps | dsimp only | rfl | split | exact Keeps.rfl')

theorem shadowPut_keeps (a n k : Nat) (req : Requester) (v : Nat) {z s : State} (hk : Keeps z s) : Keeps z
    (shadowPut a n k req v s) := by
  unfold shadowPut
  repeat' with_reducible (first
    | (intro _) | assumption | apply keeps_ite | apply keeps_foldl | apply keeps_foldl_fst | simp only [↓keeps_mk]
    | rfl | split | exact Keeps.rfl')

theorem tsEntryRead_keeps (req : Requester) {z s : State} (hk : Keeps z s) : Keeps z (tsEntryRead req s) := by
  unfold tsEntryRead
  repeat' with_reducible (first
    | (intro _) | assumption | apply keeps_ite | apply keeps_foldl | apply keeps_foldl_fst | apply shadowPut_keeps
    | simp only [↓keeps_mk] | rfl | split | exact Keeps.rfl')

theorem readClear_keeps (b : Blk) (off : Nat) {z s : State} (hk : Keeps z s) : Keeps z (readClear b off s) := by
  unfold readClear
  repeat' with_reducible (first
    | (intro _) | assumption | apply keeps_ite | apply keeps_foldl | apply keeps_foldl_fst | apply State.set_keeps
    | simp only [↓keeps_mk] | rfl | split | exact Keeps.rfl')

theorem clockRead_keeps (b : Blk) (off : Nat) {z s : State} (hk : Keeps z s) : Keeps z (clockRead b off s) := by
  unfold clockRead
  repeat' with_reducible (first
    | (intro _) | assumption | apply keeps_ite | apply keeps_foldl | apply keeps_foldl_fst | apply clockCount_keeps
    | dsimp only | rfl | split | exact Keeps.rfl')

theorem regRead_keeps (req : Requester) (b : Blk) (off : Nat) {z s : State} (hk : Keeps z s) : Keeps z (regRead req
    b off s).1 := by
  unfold regRead
  repeat' with_reducible (first
    | (intro _) | assumption | apply keeps_ite | apply keeps_foldl | apply keeps_foldl_fst | apply clockRead_keeps
    | apply tsEntryRead_keeps | apply shadowPut_keeps | apply readClear_keeps | dsimp only | rfl | split
    | exact Keeps.rfl' | (refine keeps_fst (by assumption) ?_))

theorem granaryCheck_keeps (a : Nat) {z s : State} (hk : Keeps z s) : Keeps z (granaryCheck a s).1 := by
  unfold granaryCheck
  repeat' with_reducible (first
    | (intro _) | assumption | apply keeps_ite | apply keeps_foldl | apply keeps_foldl_fst | apply State.satInc_keeps
    | apply State.putEcc_keeps | apply State.irq_keeps | dsimp only | rfl | split | exact Keeps.rfl'
    | (refine keeps_fst (by assumption) ?_))

theorem bufferCheck_keeps (b : Blk) (off : Nat) {z s : State} (hk : Keeps z s) : Keeps z (bufferCheck b off s).1 := by
  unfold bufferCheck
  repeat' with_reducible (first
    | (intro _) | assumption | apply keeps_ite | apply keeps_foldl | apply keeps_foldl_fst | apply State.satInc_keeps
    | apply eccFail_keeps | apply State.setB_keeps | apply State.irq_keeps | apply State.putClass_keeps | dsimp only
    | rfl | split | exact Keeps.rfl' | (refine keeps_fst (by assumption) ?_))

theorem busErrorNote_keeps (req : Requester) {z s : State} (hk : Keeps z s) : Keeps z (busErrorNote req s) := by
  unfold busErrorNote
  repeat' with_reducible (first
    | (intro _) | assumption | apply keeps_ite | apply keeps_foldl | apply keeps_foldl_fst | simp only [↓keeps_mk]
    | rfl | split | exact Keeps.rfl')

theorem targetRead_keeps (req : Requester) (t : Target) {z s : State} (hk : Keeps z s) : Keeps z (targetRead req t
    s).1 := by
  unfold targetRead
  repeat' with_reducible (first
    | (intro _) | assumption | apply keeps_ite | apply keeps_foldl | apply keeps_foldl_fst | apply bufferCheck_keeps
    | apply regRead_keeps | apply memCheck_keeps | apply granaryCheck_keeps | apply shadowPut_keeps | dsimp only | rfl
    | split | exact Keeps.rfl' | (refine keeps_fst (by assumption) ?_))

theorem accessCount_keeps (t : Target) {z s : State} (hk : Keeps z s) : Keeps z (accessCount t s) := by
  unfold accessCount
  repeat' with_reducible (first
    | (intro _) | assumption | apply keeps_ite | apply keeps_foldl | apply keeps_foldl_fst | apply State.count_keeps
    | dsimp only | rfl | split | exact Keeps.rfl')

theorem wordRead_keeps (req : Requester) (a : Nat) {z s : State} (hk : Keeps z s) : Keeps z (wordRead req a s).1 := by
  unfold wordRead
  repeat' with_reducible (first
    | (intro _) | assumption | apply keeps_ite | apply keeps_foldl | apply keeps_foldl_fst | apply errorNote_keeps
    | apply targetRead_keeps | apply accessCount_keeps | apply State.draw_keeps | apply busErrorNote_keeps
    | apply wakeBegin_keeps | dsimp only | rfl | split | exact Keeps.rfl' | (refine keeps_fst (by assumption) ?_))

theorem fieldWrite_keeps (req : Requester) (owner : Bool) (b : Blk) (v : Nat) (a : Nat) (h : FRow × Nat × Nat ×
    Nat) {z s : State} (hk : Keeps z s) : Keeps z (fieldWrite req owner b v a h s) := by
  unfold fieldWrite
  repeat' with_reducible (first
    | (intro _) | assumption | apply keeps_ite | apply keeps_foldl | apply keeps_foldl_fst
    | apply State.conflict_keeps | apply State.set_keeps | simp only [↓keeps_mk] | rfl | split | exact Keeps.rfl')

theorem fieldsWrite_keeps (req : Requester) (owner : Bool) (b : Blk) (off v : Nat) (keep : Nat → Bool) {z s :
    State} (hk : Keeps z s) : Keeps z (fieldsWrite req owner b off v keep s) := by
  unfold fieldsWrite
  repeat' with_reducible (first
    | (intro _) | assumption | apply keeps_ite | apply keeps_foldl | apply keeps_foldl_fst | apply fieldWrite_keeps
    | dsimp only | rfl | split | exact Keeps.rfl')

theorem ctrlWrite_keeps (req : Requester) (b : Blk) (v : Nat) {z s : State} (hk : Keeps z s) : Keeps z (ctrlWrite
    req b v s) := by
  unfold ctrlWrite
  repeat' with_reducible (first
    | (intro _) | assumption | apply keeps_ite | apply keeps_foldl | apply keeps_foldl_fst | apply srstBy_keeps
    | apply blockEnableOp_keeps | apply blockDisableOp_keeps | apply State.set_keeps | apply expertKey_keeps
    | dsimp only | rfl | split | exact Keeps.rfl')

theorem claimWrite_keeps (req : Requester) (b : Blk) (v : Nat) {z s : State} (hk : Keeps z s) : Keeps z (claimWrite
    req b v s) := by
  unfold claimWrite
  repeat' with_reducible (first
    | (intro _) | assumption | apply keeps_ite | apply keeps_foldl | apply keeps_foldl_fst
    | apply claimReleaseOp_keeps | apply State.conflict_keeps | dsimp only | rfl | split | exact Keeps.rfl')

theorem headerWrite_keeps (req : Requester) (b : Blk) (off v : Nat) {z s : State} (hk : Keeps z s) : Keeps z
    (headerWrite req b off v s) := by
  unfold headerWrite
  repeat' with_reducible (first
    | (intro _) | assumption | apply keeps_ite | apply keeps_foldl | apply keeps_foldl_fst | apply ctrlWrite_keeps
    | apply State.set_keeps | apply irqClear_keeps | apply irqForceOp_keeps | apply claimWrite_keeps
    | apply fieldsWrite_keeps | dsimp only | rfl | split | exact Keeps.rfl')

theorem laneCfgWrite_keeps (l v : Nat) {z s : State} (hk : Keeps z s) : Keeps z (laneCfgWrite l v s) := by
  unfold laneCfgWrite
  repeat' with_reducible (first
    | (intro _) | assumption | apply keeps_ite | apply keeps_foldl | apply keeps_foldl_fst | apply laneDisableOp_keeps
    | apply modeChangeOp_keeps | apply State.conflict_keeps | apply State.set_keeps | apply rateChangeOp_keeps
    | apply assistChangeOp_keeps | apply dimReqSetOp_keeps | apply dimReqClearOp_keeps | apply laneEnableOp_keeps
    | dsimp only | rfl | split | exact Keeps.rfl')

theorem capCtrlWrite_keeps (req : Requester) (c v : Nat) {z s : State} (hk : Keeps z s) : Keeps z (capCtrlWrite req
    c v s) := by
  unfold capCtrlWrite
  repeat' with_reducible (first
    | (intro _) | assumption | apply keeps_ite | apply keeps_foldl | apply keeps_foldl_fst | apply capAbortOp_keeps
    | apply State.draw_keeps | apply capArmOp_keeps | apply capFillOp_keeps | dsimp only | rfl | split
    | exact Keeps.rfl')

theorem timCtrlWrite_keeps (v : Nat) {z s : State} (hk : Keeps z s) : Keeps z (timCtrlWrite v s) := by
  unfold timCtrlWrite
  repeat' with_reducible (first
    | (intro _) | assumption | apply keeps_ite | apply keeps_foldl | apply keeps_foldl_fst | apply oscClearOp_keeps
    | apply timeSetOp_keeps | apply State.conflict_keeps | apply timeStepOp_keeps | dsimp only | rfl | split
    | exact Keeps.rfl')

theorem ppsOutWrite_keeps (req : Requester) (v : Nat) {z s : State} (hk : Keeps z s) : Keeps z (ppsOutWrite req v
    s) := by
  unfold ppsOutWrite
  repeat' with_reducible (first
    | (intro _) | assumption | apply keeps_ite | apply keeps_foldl | apply keeps_foldl_fst | apply fieldsWrite_keeps
    | apply ppsOutDisableOp_keeps | apply ppsMove_keeps | apply ppsOutEnableOp_keeps | dsimp only | rfl | split
    | exact Keeps.rfl')

theorem alarmWrite_keeps (req : Requester) (k word v : Nat) {z s : State} (hk : Keeps z s) : Keeps z (alarmWrite
    req k word v s) := by
  unfold alarmWrite
  repeat' with_reducible (first
    | (intro _) | assumption | apply keeps_ite | apply keeps_foldl | apply keeps_foldl_fst
    | apply alarmReleaseOp_keeps | apply alarmCtrlWriteOp_keeps | apply State.claimRefused_keeps
    | apply State.conflict_keeps | apply fieldsWrite_keeps | dsimp only | rfl | split | exact Keeps.rfl')

theorem timWrite_keeps (req : Requester) (owner : Bool) (off v : Nat) {z s : State} (hk : Keeps z s) : Keeps z
    (timWrite req owner off v s) := by
  unfold timWrite
  repeat' with_reducible (first
    | (intro _) | assumption | apply keeps_ite | apply keeps_foldl | apply keeps_foldl_fst | apply fieldsWrite_keeps
    | apply trefFreqWriteOp_keeps | apply timCtrlWrite_keeps | apply servoSrcWriteOp_keeps
    | apply hostOfsWriteOp_keeps | apply freqWrite_keeps | apply ppsOutWrite_keeps | apply ppsOutOfsWriteOp_keeps
    | apply sftsSelectOp_keeps | apply timTempRefresh_keeps | apply alarmWrite_keeps | simp only [↓keeps_mk] | rfl
    | split | exact Keeps.rfl')

theorem autoStartAll_keeps {z s : State} (hk : Keeps z s) : Keeps z (autoStartAll s) := by
  unfold autoStartAll
  repeat' with_reducible (first
    | (intro _) | assumption | apply keeps_ite | apply keeps_foldl | apply keeps_foldl_fst | apply autoStart_keeps
    | dsimp only | rfl | split | exact Keeps.rfl')

theorem msgWrite_keeps (req : Requester) (owner : Bool) (off v : Nat) {z s : State} (hk : Keeps z s) : Keeps z
    (msgWrite req owner off v s) := by
  unfold msgWrite
  repeat' with_reducible (first
    | (intro _) | assumption | apply keeps_ite | apply keeps_foldl | apply keeps_foldl_fst | apply fieldsWrite_keeps
    | apply autoStartAll_keeps | apply laneCfgChanged_keeps | apply msgTxPushOp_keeps | apply msgQFlushOp_keeps
    | apply rxPopOp_keeps | apply rxFlushOp_keeps | apply State.putLink_keeps | simp only [↓keeps_mk] | rfl | split
    | exact Keeps.rfl')

theorem cdacWrite_keeps (req : Requester) (owner : Bool) (off v : Nat) {z s : State} (hk : Keeps z s) : Keeps z
    (cdacWrite req owner off v s) := by
  unfold cdacWrite
  repeat' with_reducible (first
    | (intro _) | assumption | apply keeps_ite | apply keeps_foldl | apply keeps_foldl_fst
    | apply cdacCodeWriteOp_keeps | apply cdacSpanWriteOp_keeps | apply cdacRunOp_keeps | apply cdacHoldOp_keeps
    | apply cdacFaultOp_keeps | apply cdacClearOp_keeps | apply State.conflict_keeps | apply cdacFvWriteOp_keeps
    | apply fieldsWrite_keeps | dsimp only | rfl | split | exact Keeps.rfl')

theorem mfilWrite_keeps (req : Requester) (off v : Nat) {z s : State} (hk : Keeps z s) : Keeps z (mfilWrite req off
    v s) := by
  unfold mfilWrite
  repeat' with_reducible (first
    | (intro _) | assumption | apply keeps_ite | apply keeps_foldl | apply keeps_foldl_fst | apply fieldsWrite_keeps
    | apply mfilCfgWriteOp_keeps | apply chainChange_keeps | apply limitDisable_keeps | apply mfilTrippedClearOp_keeps
    | dsimp only | rfl | split | exact Keeps.rfl')

theorem madcWrite_keeps (req : Requester) (off v : Nat) {z s : State} (hk : Keeps z s) : Keeps z (madcWrite req off
    v s) := by
  unfold madcWrite
  repeat' with_reducible (first
    | (intro _) | assumption | apply keeps_ite | apply keeps_foldl | apply keeps_foldl_fst
    | apply madcRefWriteOp_keeps | apply madcPairWriteOp_keeps | apply madcRawCfgWriteOp_keeps
    | apply fieldsWrite_keeps | dsimp only | rfl | split | exact Keeps.rfl')

theorem calWrite_keeps (req : Requester) (off v : Nat) {z s : State} (hk : Keeps z s) : Keeps z (calWrite req off v
    s) := by
  unfold calWrite
  repeat' with_reducible (first
    | (intro _) | assumption | apply keeps_ite | apply keeps_foldl | apply keeps_foldl_fst | apply fieldsWrite_keeps
    | apply anchorStop_keeps | apply calDiscardDac_keeps | apply anchorDiscard_keeps | apply calRunOp_keeps
    | apply calAnchorOp_keeps | apply calSaveOp_keeps | apply laneCfgFollow_keeps | apply calRecSelectOp_keeps
    | dsimp only | rfl | split | exact Keeps.rfl')

theorem hsdWrite_keeps (req : Requester) (h off v : Nat) {z s : State} (hk : Keeps z s) : Keeps z (hsdWrite req h
    off v s) := by
  unfold hsdWrite
  repeat' with_reducible (first
    | (intro _) | assumption | apply keeps_ite | apply keeps_foldl | apply keeps_foldl_fst | apply fieldsWrite_keeps
    | apply amLose_keeps | apply hsdInvertOp_keeps | apply hsdTxEqWriteOp_keeps | apply trainRestartOp_keeps
    | apply prbsChkSelectOp_keeps | apply prbsGenSelectOp_keeps | apply prbsClrOp_keeps | apply hsdRxFreezeOp_keeps
    | apply eqFromRegs_keeps | dsimp only | rfl | split | exact Keeps.rfl')

theorem receiveWrite_keeps (req : Requester) (b : Blk) (off v : Nat) {z s : State} (hk : Keeps z s) : Keeps z
    (receiveWrite req b off v s) := by
  unfold receiveWrite
  repeat' with_reducible (first
    | (intro _) | assumption | apply keeps_ite | apply keeps_foldl | apply keeps_foldl_fst | apply fieldsWrite_keeps
    | apply adaptFreezeOp_keeps | apply calDiscardAdc_keeps | apply histStartOp_keeps | apply ffeCommitOp_keeps
    | apply ffeSnapOp_keeps | apply freezeSettle_keeps | apply idecClrOp_keeps | dsimp only | rfl | split
    | exact Keeps.rfl')

theorem transmitWrite_keeps (req : Requester) (b : Blk) (off v : Nat) {z s : State} (hk : Keeps z s) : Keeps z
    (transmitWrite req b off v s) := by
  unfold transmitWrite
  repeat' with_reducible (first
    | (intro _) | assumption | apply keeps_ite | apply keeps_foldl | apply keeps_foldl_fst | apply fieldsWrite_keeps
    | apply cfgRefresh_keeps | apply portWWriteOp_keeps | apply gbxOcClrOp_keeps | apply patternSelectOp_keeps
    | apply txpCommitOp_keeps | apply txpSnapOp_keeps | apply fsWriteOp_keeps | apply squelchOnOp_keeps
    | apply squelchOffOp_keeps | apply ldisWriteOp_keeps | apply ldisTripClearOp_keeps | dsimp only | rfl | split
    | exact Keeps.rfl')

theorem capWrite_keeps (req : Requester) (c off v : Nat) {z s : State} (hk : Keeps z s) : Keeps z (capWrite req c
    off v s) := by
  unfold capWrite
  repeat' with_reducible (first
    | (intro _) | assumption | apply keeps_ite | apply keeps_foldl | apply keeps_foldl_fst | apply capCtrlWrite_keeps
    | apply State.claimRefused_keeps | apply fieldsWrite_keeps | dsimp only | rfl | split | exact Keeps.rfl')

theorem evselWrite_keeps (c v : Nat) {z s : State} (hk : Keeps z s) : Keeps z (evselWrite c v s) := by
  unfold evselWrite
  repeat' with_reducible (first
    | (intro _) | assumption | apply keeps_ite | apply keeps_foldl | apply keeps_foldl_fst | apply clockCount_keeps
    | apply State.set_keeps | apply State.conflict_keeps | apply State.setB_keeps | dsimp only | rfl | split
    | exact Keeps.rfl')

theorem pmcWrite_keeps (req : Requester) (owner : Bool) (off v : Nat) {z s : State} (hk : Keeps z s) : Keeps z
    (pmcWrite req owner off v s) := by
  unfold pmcWrite
  repeat' with_reducible (first
    | (intro _) | assumption | apply keeps_ite | apply keeps_foldl | apply keeps_foldl_fst | apply clockCounts_keeps
    | apply State.set_keeps | apply pmcSnapOp_keeps | apply State.conflict_keeps | apply evselWrite_keeps
    | apply fieldsWrite_keeps | dsimp only | rfl | split | exact Keeps.rfl')

theorem evrWrite_keeps (req : Requester) (off v : Nat) {z s : State} (hk : Keeps z s) : Keeps z (evrWrite req off v
    s) := by
  unfold evrWrite
  repeat' with_reducible (first
    | (intro _) | assumption | apply keeps_ite | apply keeps_foldl | apply keeps_foldl_fst | apply evrCommitOp_keeps
    | apply evrRdSelectOp_keeps | apply evrLogOp_keeps | apply fieldsWrite_keeps | dsimp only | rfl | split
    | exact Keeps.rfl')

theorem secCmdWrite_keeps (op : Nat) (owner : Bool) {z s : State} (hk : Keeps z s) : Keeps z (secCmdWrite op owner
    s) := by
  unfold secCmdWrite
  repeat' with_reducible (first
    | (intro _) | assumption | apply keeps_ite | apply keeps_foldl | apply keeps_foldl_fst | apply lockdownOp_keeps
    | apply secStart_keeps | apply State.conflict_keeps | dsimp only | rfl | split | exact Keeps.rfl')

theorem thmLevelWrite_keeps (req : Requester) (v : Nat) {z s : State} (hk : Keeps z s) : Keeps z (thmLevelWrite req
    v s) := by
  unfold thmLevelWrite
  repeat' with_reducible (first
    | (intro _) | assumption | apply keeps_ite | apply keeps_foldl | apply keeps_foldl_fst | apply fieldsWrite_keeps
    | apply State.conflict_keeps | apply State.set_keeps | dsimp only | rfl | split | exact Keeps.rfl')

theorem deviceWrite_keeps (req : Requester) (owner : Bool) (b : Blk) (off v : Nat) {z s : State} (hk : Keeps z s) :
    Keeps z (deviceWrite req owner b off v s) := by
  unfold deviceWrite
  repeat' with_reducible (first
    | (intro _) | assumption | apply keeps_ite | apply keeps_foldl | apply keeps_foldl_fst | apply fieldsWrite_keeps
    | apply claimForceOp_keeps | apply gpioCfgWriteOp_keeps | apply irqRouteWriteOp_keeps | apply mbxSubmitOp_keeps
    | apply mbxAbortOp_keeps | apply mbxAckOp_keeps | apply pwrStateReqOp_keeps | apply plCfgWriteOp_keeps
    | apply sheafOp_keeps | apply warmOp_keeps | apply globalOp_keeps | apply wdtKickOp_keeps | apply bootGoOp_keeps
    | apply marchAbortOp_keeps | apply marchStartOp_keeps | apply nvsCmdWriteOp_keeps | apply nvsCmdFillOp_keeps
    | apply tstCfgWriteOp_keeps | apply thmLevelWrite_keeps | apply throttleRefresh_keeps | apply secCmdWrite_keeps
    | apply autoStartAll_keeps | apply State.irq_keeps | dsimp only | rfl | split | exact Keeps.rfl')

theorem regWrite_keeps (req : Requester) (owner : Bool) (b : Blk) (off v : Nat) {z s : State} (hk : Keeps z s) :
    Keeps z (regWrite req owner b off v s) := by
  unfold regWrite
  repeat' with_reducible (first
    | (intro _) | assumption | apply keeps_ite | apply keeps_foldl | apply keeps_foldl_fst | apply headerWrite_keeps
    | apply laneCfgWrite_keeps | apply fieldsWrite_keeps | apply capWrite_keeps | apply receiveWrite_keeps
    | apply transmitWrite_keeps | apply hsdWrite_keeps | apply timWrite_keeps | apply msgWrite_keeps
    | apply calWrite_keeps | apply madcWrite_keeps | apply mfilWrite_keeps | apply cdacWrite_keeps
    | apply pmcWrite_keeps | apply evrWrite_keeps | apply deviceWrite_keeps | dsimp only | rfl | split
    | exact Keeps.rfl')

theorem targetWrite_keeps (req : Requester) (owner : Bool) (t : Target) (v : Nat) {z s : State} (hk : Keeps z s) :
    Keeps z (targetWrite req owner t v s).1 := by
  unfold targetWrite
  repeat' with_reducible (first
    | (intro _) | assumption | apply keeps_ite | apply keeps_foldl | apply keeps_foldl_fst | apply bufferCheck_keeps
    | apply regWrite_keeps | apply memMerge_keeps | dsimp only | rfl | split | exact Keeps.rfl'
    | (refine keeps_fst (by assumption) ?_))

theorem wordWrite_keeps (req : Requester) (owner : Bool) (a v : Nat) {z s : State} (hk : Keeps z s) : Keeps z
    (wordWrite req owner a v s).1 := by
  unfold wordWrite
  repeat' with_reducible (first
    | (intro _) | assumption | apply keeps_ite | apply keeps_foldl | apply keeps_foldl_fst | apply errorNote_keeps
    | apply targetWrite_keeps | apply accessCount_keeps | apply State.draw_keeps | apply busErrorNote_keeps
    | apply wakeBegin_keeps | dsimp only | rfl | split | exact Keeps.rfl' | (refine keeps_fst (by assumption) ?_))

theorem writeWords_keeps (req : Requester) (owner : Bool) {z : State} : (a : Nat) → (ws : List Nat) → (s : State) →
    Keeps z s → Keeps z (writeWords req owner a ws s).1
  | _, [], _, hk => hk
  | a, [v], _, hk => wordWrite_keeps req owner a v hk
  | a, lo :: hi :: rest, s, hk => by
    have i8 := fun t => writeWords_keeps req owner (z := z) (a + 8) rest t
    have i4 := fun t => writeWords_keeps req owner (z := z) (a + 4) (hi :: rest) t
    unfold writeWords
    repeat' with_reducible (first
    | apply i8 | apply i4 | (intro _) | assumption | apply keeps_ite | apply keeps_foldl | apply keeps_foldl_fst
    | apply memPair_keeps | apply wordWrite_keeps | dsimp only | rfl | split | exact Keeps.rfl'
    | (refine keeps_fst (by assumption) ?_))

theorem readRun_keeps (req : Requester) (a n : Nat) {z s : State} (hk : Keeps z s) :
    Keeps z (readRun req a n s).1 := by
  induction n generalizing s a with
  | zero => exact hk
  | succ n ih =>
    have hw := wordRead_keeps req a hk
    unfold readRun
    split
    · next h => rw [h] at hw; exact ih _ hw
    · next h => rw [h] at hw; exact hw

theorem readWords_keeps (req : Requester) (a n : Nat) {z s : State} (hk : Keeps z s) :
    Keeps z (readWords req a n s).1 := by
  unfold readWords
  repeat' with_reducible (first
    | apply apply readRun_keeps | (intro _) | assumption | apply keeps_ite | apply keeps_foldl | apply keeps_foldl_fst
    | apply readRun_keeps | apply wordRead_keeps | simp only [↓keeps_mk] | rfl | split | exact Keeps.rfl')

theorem wakeFor_keeps (a : Nat) {z s : State} (hk : Keeps z s) : Keeps z (wakeFor a s) := by
  unfold wakeFor
  repeat' with_reducible (first
    | (intro _) | assumption | apply keeps_ite | apply keeps_foldl | apply keeps_foldl_fst | apply wakeBegin_keeps
    | dsimp only | rfl | split | exact Keeps.rfl')

theorem registerWriteOp_keeps (req : Requester) (owner : Bool) (a v : Nat) {z s : State} (hk : Keeps z s) : Keeps z
    (registerWriteOp req owner a v s) := by
  unfold registerWriteOp
  repeat' with_reducible (first
    | (intro _) | assumption | apply keeps_ite | apply keeps_foldl | apply keeps_foldl_fst | apply wordWrite_keeps
    | dsimp only | rfl | split | exact Keeps.rfl')

theorem readClearOp_keeps (req : Requester) (a : Nat) {z s : State} (hk : Keeps z s) : Keeps z (readClearOp req a
    s) := by
  unfold readClearOp
  repeat' with_reducible (first
    | (intro _) | assumption | apply keeps_ite | apply keeps_foldl | apply keeps_foldl_fst | apply wordRead_keeps
    | dsimp only | rfl | split | exact Keeps.rfl')

theorem wideLowWordReadOp_keeps (req : Requester) (a : Nat) {z s : State} (hk : Keeps z s) : Keeps z
    (wideLowWordReadOp req a s) := by
  unfold wideLowWordReadOp
  repeat' with_reducible (first
    | (intro _) | assumption | apply keeps_ite | apply keeps_foldl | apply keeps_foldl_fst | apply wordRead_keeps
    | dsimp only | rfl | split | exact Keeps.rfl')

theorem wideHighWordWriteOp_keeps (req : Requester) (owner : Bool) (a v : Nat) {z s : State} (hk : Keeps z s) :
    Keeps z (wideHighWordWriteOp req owner a v s) := by
  unfold wideHighWordWriteOp
  repeat' with_reducible (first
    | (intro _) | assumption | apply keeps_ite | apply keeps_foldl | apply keeps_foldl_fst | apply wordWrite_keeps
    | dsimp only | rfl | split | exact Keeps.rfl')

theorem msgTsPopOp_keeps (req : Requester) {z s : State} (hk : Keeps z s) : Keeps z (msgTsPopOp req s) := by
  unfold msgTsPopOp
  repeat' with_reducible (first
    | (intro _) | assumption | apply keeps_ite | apply keeps_foldl | apply keeps_foldl_fst | apply wordRead_keeps
    | dsimp only | rfl | split | exact Keeps.rfl')

end Sys2Proof.Machine
end

