-- ==== Sys2Proof/Laws/KeepsManagement.lean ====
section
/-!
SUPPORT. The operations of Machine/Management.lean keep the queue and the canonical forms.
-/

namespace Sys2Proof.Machine

open Sys2Proof

theorem State.putPort_keeps (p : PortId) (x : Port) {z s : State} (hk : Keeps z s) : Keeps z (State.putPort s p x)
    := by
  unfold State.putPort
  repeat' with_reducible (first
    | (intro _) | assumption | apply keeps_ite | apply keeps_foldl | apply keeps_foldl_fst | simp only [↓keeps_mk]
    | rfl | split | exact Keeps.rfl')

theorem answerCount_keeps (st : Status) {z s : State} (hk : Keeps z s) : Keeps z (answerCount st s) := by
  unfold answerCount
  repeat' with_reducible (first
    | (intro _) | assumption | apply keeps_ite | apply keeps_foldl | apply keeps_foldl_fst | apply State.count_keeps
    | dsimp only | rfl | split | exact Keeps.rfl')

theorem answer_keeps (p : PortId) (st : Status) (data : List Nat) {z s : State} (hk : Keeps z s) : Keeps z (answer
    p st data s) := by
  unfold answer
  repeat' with_reducible (first
    | (intro _) | assumption | apply keeps_ite | apply keeps_foldl | apply keeps_foldl_fst | apply answerCount_keeps
    | apply State.putPort_keeps | simp only [↓keeps_mk] | rfl | split | exact Keeps.rfl')

theorem transact_keeps (p : PortId) (go : State → State) {z s : State} (hk : Keeps z s) (hgo : ∀ t, Keeps z t →
    Keeps z (go t)) : Keeps z (transact p go s) := by
  unfold transact
  repeat' with_reducible (first
    | (intro _) | assumption | apply keeps_ite | apply keeps_foldl | apply keeps_foldl_fst | apply State.putPort_keeps
    | apply hgo | simp only [↓keeps_mk] | rfl | split | exact Keeps.rfl')

theorem wakeWords_keeps (req : Requester) (owner write : Bool) (a n : Nat) {z s : State} (hk : Keeps z s) :
    Keeps z (wakeWords req owner write a n s) := by
  induction n generalizing s a with
  | zero => exact hk
  | succ n ih =>
    unfold wakeWords
    repeat' with_reducible (first
    | apply ih | (intro _) | assumption | apply keeps_ite | apply keeps_foldl | apply keeps_foldl_fst
    | apply wakeBegin_keeps | dsimp only | rfl | split | exact Keeps.rfl')

theorem writePost_keeps (p : PortId) (owner macOk : Bool) (a : Nat) (data : List Nat) {z s : State} (hk : Keeps z
    s) : Keeps z (writePost p owner macOk a data s) := by
  unfold writePost
  repeat' with_reducible (first
    | (intro _) | assumption | apply keeps_ite | apply keeps_foldl | apply keeps_foldl_fst | apply wakeWords_keeps
    | apply State.putPort_keeps | apply answer_keeps | apply State.count_keeps | apply errorNote_keeps
    | simp only [↓keeps_mk] | rfl | split | exact Keeps.rfl')

theorem writeOp_keeps (p : PortId) (a : Nat) (data : List Nat) (check : Nat) {z s : State} (hk : Keeps z s) : Keeps
    z (writeOp p a data check s) := by
  unfold writeOp
  repeat' with_reducible (first
    | (intro _) | assumption | apply keeps_ite | apply keeps_foldl | apply keeps_foldl_fst | apply transact_keeps
    | apply answer_keeps | apply writePost_keeps | dsimp only | rfl | split | exact Keeps.rfl')

theorem macFail_keeps {z s : State} (hk : Keeps z s) : Keeps z (macFail s) := by
  unfold macFail
  repeat' with_reducible (first
    | (intro _) | assumption | apply keeps_ite | apply keeps_foldl | apply keeps_foldl_fst | apply State.satInc_keeps
    | apply State.irq_keeps | apply State.event_keeps | dsimp only | rfl | split | exact Keeps.rfl')

theorem writeOwnerOp_keeps (p : PortId) (a : Nat) (data : List Nat) (mac : Nat) {z s : State} (hk : Keeps z s) :
    Keeps z (writeOwnerOp p a data mac s) := by
  unfold writeOwnerOp
  repeat' with_reducible (first
    | (intro _) | assumption | apply keeps_ite | apply keeps_foldl | apply keeps_foldl_fst | apply transact_keeps
    | apply macFail_keeps | apply writePost_keeps | apply State.wrapInc_keeps | dsimp only | rfl | split
    | exact Keeps.rfl')

theorem postFail_keeps (p : PortId) (st : Status) (a : Nat) {z s : State} (hk : Keeps z s) : Keeps z (postFail p st
    a s) := by
  unfold postFail
  repeat' with_reducible (first
    | (intro _) | assumption | apply keeps_ite | apply keeps_foldl | apply keeps_foldl_fst | apply State.set_keeps
    | apply State.setB_keeps | apply State.satInc_keeps | apply State.putPort_keeps | apply State.irq_keeps
    | simp only [↓keeps_mk] | rfl | split | exact Keeps.rfl')

theorem popWrite_keeps (p : PortId) {z s : State} (hk : Keeps z s) : Keeps z (popWrite p s) := by
  unfold popWrite
  repeat' with_reducible (first
    | (intro _) | assumption | apply keeps_ite | apply keeps_foldl | apply keeps_foldl_fst | apply State.putPort_keeps
    | simp only [↓keeps_mk] | rfl | split | exact Keeps.rfl')

theorem postedWriteExecuteOp_keeps (p : PortId) {z s : State} (hk : Keeps z s) : Keeps z (postedWriteExecuteOp p s)
    := by
  unfold postedWriteExecuteOp
  repeat' with_reducible (first
    | (intro _) | assumption | apply keeps_ite | apply keeps_foldl | apply keeps_foldl_fst | apply wakeWords_keeps
    | apply writeWords_keeps | apply popWrite_keeps | apply postFail_keeps | dsimp only | rfl | split
    | exact Keeps.rfl' | (refine keeps_fst (by assumption) ?_))

theorem readNow_keeps (p : PortId) (a n : Nat) {z s : State} (hk : Keeps z s) : Keeps z (readNow p a n s).1 := by
  unfold readNow
  repeat' with_reducible (first
    | (intro _) | assumption | apply keeps_ite | apply keeps_foldl | apply keeps_foldl_fst | apply errorNote_keeps
    | apply wakeWords_keeps | apply readWords_keeps | dsimp only | rfl | split | exact Keeps.rfl')

theorem readOp_keeps (p : PortId) (a len check : Nat) {z s : State} (hk : Keeps z s) : Keeps z (readOp p a len
    check s) := by
  unfold readOp
  repeat' with_reducible (first
    | (intro _) | assumption | apply keeps_ite | apply keeps_foldl | apply keeps_foldl_fst | apply transact_keeps
    | apply answer_keeps | apply readNow_keeps | apply State.putPort_keeps | simp only [↓keeps_mk] | rfl | split
    | exact Keeps.rfl')

theorem readPostOp_keeps (p : PortId) (a len check : Nat) {z s : State} (hk : Keeps z s) : Keeps z (readPostOp p a
    len check s) := by
  unfold readPostOp
  repeat' with_reducible (first
    | (intro _) | assumption | apply keeps_ite | apply keeps_foldl | apply keeps_foldl_fst | apply transact_keeps
    | apply answer_keeps | apply errorNote_keeps | apply wakeWords_keeps | apply State.putPort_keeps
    | simp only [↓keeps_mk] | rfl | split | exact Keeps.rfl')

theorem postedReadPerformOp_keeps (p : PortId) (tag : Nat) {z s : State} (hk : Keeps z s) : Keeps z
    (postedReadPerformOp p tag s) := by
  unfold postedReadPerformOp
  repeat' with_reducible (first
    | (intro _) | assumption | apply keeps_ite | apply keeps_foldl | apply keeps_foldl_fst | apply State.count_keeps
    | apply wakeWords_keeps | apply readWords_keeps | apply answer_keeps | apply State.putPort_keeps
    | simp only [↓keeps_mk] | rfl | split | exact Keeps.rfl')

theorem fetchNow_keeps (p : PortId) (tag n : Nat) {z s : State} (hk : Keeps z s) : Keeps z (fetchNow p tag n s).1
    := by
  unfold fetchNow
  repeat' with_reducible (first
    | (intro _) | assumption | apply keeps_ite | apply keeps_foldl | apply keeps_foldl_fst | apply State.count_keeps
    | apply State.putPort_keeps | simp only [↓keeps_mk] | rfl | split | exact Keeps.rfl'
    | (refine keeps_fst (by assumption) ?_))

theorem fetchOp_keeps (p : PortId) (tag len check : Nat) {z s : State} (hk : Keeps z s) : Keeps z (fetchOp p tag
    len check s) := by
  unfold fetchOp
  repeat' with_reducible (first
    | (intro _) | assumption | apply keeps_ite | apply keeps_foldl | apply keeps_foldl_fst | apply transact_keeps
    | apply answer_keeps | apply fetchNow_keeps | apply State.putPort_keeps | simp only [↓keeps_mk] | rfl | split
    | exact Keeps.rfl')

theorem syncNow_keeps (p : PortId) {z s : State} (hk : Keeps z s) : Keeps z (syncNow p s).1 := by
  unfold syncNow
  repeat' with_reducible (first
    | (intro _) | assumption | apply keeps_ite | apply keeps_foldl | apply keeps_foldl_fst | apply State.putPort_keeps
    | simp only [↓keeps_mk] | rfl | split | exact Keeps.rfl' | (refine keeps_fst (by assumption) ?_))

theorem syncOp_keeps (p : PortId) (check : Nat) {z s : State} (hk : Keeps z s) : Keeps z (syncOp p check s) := by
  unfold syncOp
  repeat' with_reducible (first
    | (intro _) | assumption | apply keeps_ite | apply keeps_foldl | apply keeps_foldl_fst | apply transact_keeps
    | apply answer_keeps | apply syncNow_keeps | apply State.putPort_keeps | simp only [↓keeps_mk] | rfl | split
    | exact Keeps.rfl')

theorem unknownOpcodeOp_keeps (p : PortId) (frame : List Nat) {z s : State} (hk : Keeps z s) : Keeps z
    (unknownOpcodeOp p frame s) := by
  unfold unknownOpcodeOp
  repeat' with_reducible (first
    | (intro _) | assumption | apply keeps_ite | apply keeps_foldl | apply keeps_foldl_fst | apply transact_keeps
    | apply answer_keeps | dsimp only | rfl | split | exact Keeps.rfl')

theorem i3cRespond_keeps (st : Status) (data : List Nat) {z s : State} (hk : Keeps z s) : Keeps z (i3cRespond st
    data s) := by
  unfold i3cRespond
  repeat' with_reducible (first
    | (intro _) | assumption | apply keeps_ite | apply keeps_foldl | apply keeps_foldl_fst | apply answerCount_keeps
    | simp only [↓keeps_mk] | rfl | split | exact Keeps.rfl')

theorem i3cPrivateReadOp_keeps {z s : State} (hk : Keeps z s) : Keeps z (i3cPrivateReadOp s) := by
  unfold i3cPrivateReadOp
  repeat' with_reducible (first
    | (intro _) | assumption | apply keeps_ite | apply keeps_foldl | apply keeps_foldl_fst | apply readNow_keeps
    | apply i3cRespond_keeps | apply fetchNow_keeps | apply syncNow_keeps | simp only [↓keeps_mk] | rfl | split
    | exact Keeps.rfl')

theorem addressPut_keeps (a : Nat) {z s : State} (hk : Keeps z s) : Keeps z (addressPut a s) := by
  unfold addressPut
  repeat' with_reducible (first
    | (intro _) | assumption | apply keeps_ite | apply keeps_foldl | apply keeps_foldl_fst | apply State.setB_keeps
    | apply State.set_keeps | dsimp only | rfl | split | exact Keeps.rfl')

theorem entdaaOp_keeps (a : Nat) {z s : State} (hk : Keeps z s) : Keeps z (entdaaOp a s) := by
  unfold entdaaOp
  repeat' with_reducible (first
    | (intro _) | assumption | apply keeps_ite | apply keeps_foldl | apply keeps_foldl_fst | apply addressPut_keeps
    | dsimp only | rfl | split | exact Keeps.rfl')

theorem setdasaOp_keeps (static a : Nat) {z s : State} (hk : Keeps z s) : Keeps z (setdasaOp static a s) := by
  unfold setdasaOp
  repeat' with_reducible (first
    | (intro _) | assumption | apply keeps_ite | apply keeps_foldl | apply keeps_foldl_fst | apply addressPut_keeps
    | dsimp only | rfl | split | exact Keeps.rfl')

theorem setnewdaOp_keeps (old a : Nat) {z s : State} (hk : Keeps z s) : Keeps z (setnewdaOp old a s) := by
  unfold setnewdaOp
  repeat' with_reducible (first
    | (intro _) | assumption | apply keeps_ite | apply keeps_foldl | apply keeps_foldl_fst | apply addressPut_keeps
    | dsimp only | rfl | split | exact Keeps.rfl')

theorem rstdaaOp_keeps {z s : State} (hk : Keeps z s) : Keeps z (rstdaaOp s) := by
  unfold rstdaaOp
  repeat' with_reducible (first
    | (intro _) | assumption | apply keeps_ite | apply keeps_foldl | apply keeps_foldl_fst | apply addressPut_keeps
    | dsimp only | rfl | split | exact Keeps.rfl')

theorem cccAnswer_keeps (bs : List Nat) {z s : State} (hk : Keeps z s) : Keeps z (cccAnswer bs s) := by
  unfold cccAnswer
  repeat' with_reducible (first
    | (intro _) | assumption | apply keeps_ite | apply keeps_foldl | apply keeps_foldl_fst | apply answer_keeps
    | simp only [↓keeps_mk] | rfl | split | exact Keeps.rfl')

theorem getpidOp_keeps {z s : State} (hk : Keeps z s) : Keeps z (getpidOp s) := by
  unfold getpidOp
  repeat' with_reducible (first
    | (intro _) | assumption | apply keeps_ite | apply keeps_foldl | apply keeps_foldl_fst | apply cccAnswer_keeps
    | dsimp only | rfl | split | exact Keeps.rfl')

theorem getbcrOp_keeps {z s : State} (hk : Keeps z s) : Keeps z (getbcrOp s) := by
  unfold getbcrOp
  repeat' with_reducible (first
    | (intro _) | assumption | apply keeps_ite | apply keeps_foldl | apply keeps_foldl_fst | apply cccAnswer_keeps
    | dsimp only | rfl | split | exact Keeps.rfl')

theorem getdcrOp_keeps {z s : State} (hk : Keeps z s) : Keeps z (getdcrOp s) := by
  unfold getdcrOp
  repeat' with_reducible (first
    | (intro _) | assumption | apply keeps_ite | apply keeps_foldl | apply keeps_foldl_fst | apply cccAnswer_keeps
    | dsimp only | rfl | split | exact Keeps.rfl')

theorem getstatusOp_keeps {z s : State} (hk : Keeps z s) : Keeps z (getstatusOp s) := by
  unfold getstatusOp
  repeat' with_reducible (first
    | (intro _) | assumption | apply keeps_ite | apply keeps_foldl | apply keeps_foldl_fst | apply cccAnswer_keeps
    | apply State.draw_keeps | dsimp only | rfl | split | exact Keeps.rfl')

theorem enecOp_keeps (events : Nat) {z s : State} (hk : Keeps z s) : Keeps z (enecOp events s) := by
  unfold enecOp
  repeat' with_reducible (first
    | (intro _) | assumption | apply keeps_ite | apply keeps_foldl | apply keeps_foldl_fst | simp only [↓keeps_mk]
    | rfl | split | exact Keeps.rfl')

theorem disecOp_keeps (events : Nat) {z s : State} (hk : Keeps z s) : Keeps z (disecOp events s) := by
  unfold disecOp
  repeat' with_reducible (first
    | (intro _) | assumption | apply keeps_ite | apply keeps_foldl | apply keeps_foldl_fst | simp only [↓keeps_mk]
    | rfl | split | exact Keeps.rfl')

theorem setmwlOp_keeps (n : Nat) {z s : State} (hk : Keeps z s) : Keeps z (setmwlOp n s) := by
  unfold setmwlOp
  repeat' with_reducible (first
    | (intro _) | assumption | apply keeps_ite | apply keeps_foldl | apply keeps_foldl_fst | simp only [↓keeps_mk]
    | rfl | split | exact Keeps.rfl')

theorem getmwlOp_keeps {z s : State} (hk : Keeps z s) : Keeps z (getmwlOp s) := by
  unfold getmwlOp
  repeat' with_reducible (first
    | (intro _) | assumption | apply keeps_ite | apply keeps_foldl | apply keeps_foldl_fst | apply cccAnswer_keeps
    | dsimp only | rfl | split | exact Keeps.rfl')

theorem setmrlOp_keeps (n : Nat) {z s : State} (hk : Keeps z s) : Keeps z (setmrlOp n s) := by
  unfold setmrlOp
  repeat' with_reducible (first
    | (intro _) | assumption | apply keeps_ite | apply keeps_foldl | apply keeps_foldl_fst | simp only [↓keeps_mk]
    | rfl | split | exact Keeps.rfl')

theorem getmrlOp_keeps {z s : State} (hk : Keeps z s) : Keeps z (getmrlOp s) := by
  unfold getmrlOp
  repeat' with_reducible (first
    | (intro _) | assumption | apply keeps_ite | apply keeps_foldl | apply keeps_foldl_fst | apply cccAnswer_keeps
    | dsimp only | rfl | split | exact Keeps.rfl')

theorem remotePerform_keeps (r : RemoteReq) {z s : State} (hk : Keeps z s) : Keeps z (remotePerform r s).1 := by
  unfold remotePerform
  repeat' with_reducible (first
    | (intro _) | assumption | apply keeps_ite | apply keeps_foldl | apply keeps_foldl_fst | apply writeWords_keeps
    | apply readWords_keeps | apply State.count_keeps | dsimp only | rfl | split | exact Keeps.rfl')

theorem remoteAccessExecuteOp_keeps {z s : State} (hk : Keeps z s) : Keeps z (remoteAccessExecuteOp s) := by
  unfold remoteAccessExecuteOp
  repeat' with_reducible (first
    | (intro _) | assumption | apply keeps_ite | apply keeps_foldl | apply keeps_foldl_fst | apply State.count_keeps
    | apply wakeWords_keeps | apply remotePerform_keeps | apply outPut_keeps | simp only [↓keeps_mk] | rfl | split
    | exact Keeps.rfl')

end Sys2Proof.Machine
end

