-- ==== Sys2Proof/Laws/KeepsSpdm.lean ====
section
/-!
SUPPORT. The operations of Machine/Spdm.lean keep the queue and the canonical forms.
-/

namespace Sys2Proof.Machine

open Sys2Proof

theorem State.putSpdm_keeps (x : SpdmInt) {z s : State} (hk : Keeps z s) : Keeps z (State.putSpdm s x) := by
  unfold State.putSpdm
  repeat' with_reducible (first
    | (intro _) | assumption | apply keeps_ite | apply keeps_foldl | apply keeps_foldl_fst | simp only [↓keeps_mk]
    | rfl | split | exact Keeps.rfl')

theorem spdmServe_keeps (request : List Nat) {z s : State} (hk : Keeps z s) : Keeps z (spdmServe request s).1 := by
  unfold spdmServe
  repeat' with_reducible (first
    | (intro _) | assumption | apply keeps_ite | apply keeps_foldl | apply keeps_foldl_fst | apply State.putSpdm_keeps
    | apply storePut_keeps | apply State.draw_keeps | simp only [↓keeps_mk, ↓keeps_mk_fuses] | rfl | split
    | exact Keeps.rfl')

theorem spdmAnswer_keeps (request : List Nat) (owner : Bool) {z s : State} (hk : Keeps z s) : Keeps z (spdmAnswer
    request owner s).1 := by
  unfold spdmAnswer
  repeat' with_reducible (first
    | (intro _) | assumption | apply keeps_ite | apply keeps_foldl | apply keeps_foldl_fst | apply spdmServe_keeps
    | dsimp only | rfl | split | exact Keeps.rfl' | (refine keeps_fst (by assumption) ?_))

end Sys2Proof.Machine
end

