-- ==== Sys2Proof/Laws/KeepsFirmware.lean ====
section
/-!
SUPPORT. The operations of Machine/Firmware.lean keep the queue and the canonical forms.
-/

namespace Sys2Proof.Machine

open Sys2Proof

theorem mbxStart_keeps (n op need : Nat) (run : State → State) {z s : State} (hk : Keeps z s) (hrun : ∀ t, Keeps z
    t → Keeps z (run t)) : Keeps z (mbxStart n op need run s) := by
  unfold mbxStart
  repeat' with_reducible (first
    | (intro _) | assumption | apply keeps_ite | apply keeps_foldl | apply keeps_foldl_fst | apply mbxEnd_keeps
    | apply hrun | dsimp only | rfl | split | exact Keeps.rfl')

theorem mbxRun_keeps (n : Nat) {z s : State} (hk : Keeps z s) : Keeps z (mbxRun n s) := by
  unfold mbxRun
  repeat' with_reducible (first
    | (intro _) | assumption | apply keeps_ite | apply keeps_foldl | apply keeps_foldl_fst | apply State.set_keeps
    | simp only [↓keeps_mk] | rfl | split | exact Keeps.rfl')

theorem fwInfoOp_keeps (n : Nat) {z s : State} (hk : Keeps z s) : Keeps z (fwInfoOp n s) := by
  unfold fwInfoOp
  repeat' with_reducible (first
    | (intro _) | assumption | apply keeps_ite | apply keeps_foldl | apply keeps_foldl_fst | apply mbxStart_keeps
    | apply mbxEnd_keeps | dsimp only | rfl | split | exact Keeps.rfl')

theorem fwSelectOp_keeps (n : Nat) {z s : State} (hk : Keeps z s) : Keeps z (fwSelectOp n s) := by
  unfold fwSelectOp
  repeat' with_reducible (first
    | (intro _) | assumption | apply keeps_ite | apply keeps_foldl | apply keeps_foldl_fst | apply mbxStart_keeps
    | apply mbxEnd_keeps | apply bootPut_keeps | simp only [↓keeps_mk] | rfl | split | exact Keeps.rfl')

theorem stubEraseOp_keeps (n : Nat) {z s : State} (hk : Keeps z s) : Keeps z (stubEraseOp n s) := by
  unfold stubEraseOp
  repeat' with_reducible (first
    | (intro _) | assumption | apply keeps_ite | apply keeps_foldl | apply keeps_foldl_fst | apply mbxStart_keeps
    | apply mbxEnd_keeps | apply stubErase_keeps | dsimp only | rfl | split | exact Keeps.rfl')

theorem linkBringupOp_keeps (n : Nat) {z s : State} (hk : Keeps z s) : Keeps z (linkBringupOp n s) := by
  unfold linkBringupOp
  repeat' with_reducible (first
    | (intro _) | assumption | apply keeps_ite | apply keeps_foldl | apply keeps_foldl_fst | apply mbxStart_keeps
    | apply mbxRun_keeps | apply laneEnableOp_keeps | dsimp only | rfl | split | exact Keeps.rfl')

theorem linkRestartOp_keeps (n : Nat) {z s : State} (hk : Keeps z s) : Keeps z (linkRestartOp n s) := by
  unfold linkRestartOp
  repeat' with_reducible (first
    | (intro _) | assumption | apply keeps_ite | apply keeps_foldl | apply keeps_foldl_fst | apply mbxStart_keeps
    | apply mbxEnd_keeps | apply enterState_keeps | dsimp only | rfl | split | exact Keeps.rfl')

theorem passBegin_keeps (ls : List Nat) {z s : State} (hk : Keeps z s) : Keeps z (passBegin ls s) := by
  unfold passBegin
  repeat' with_reducible (first
    | (intro _) | assumption | apply keeps_ite | apply keeps_foldl | apply keeps_foldl_fst | apply State.putCal_keeps
    | simp only [↓keeps_mk] | rfl | split | exact Keeps.rfl')

theorem calStartupOp_keeps (n : Nat) {z s : State} (hk : Keeps z s) : Keeps z (calStartupOp n s) := by
  unfold calStartupOp
  repeat' with_reducible (first
    | (intro _) | assumption | apply keeps_ite | apply keeps_foldl | apply keeps_foldl_fst | apply mbxStart_keeps
    | apply mbxEnd_keeps | apply mbxRun_keeps | apply passBegin_keeps | simp only [↓keeps_mk] | rfl | split
    | exact Keeps.rfl')

theorem calStartupEnd_keeps (n : Nat) {z s : State} (hk : Keeps z s) : Keeps z (calStartupEnd n s) := by
  unfold calStartupEnd
  repeat' with_reducible (first
    | (intro _) | assumption | apply keeps_ite | apply keeps_foldl | apply keeps_foldl_fst | apply passRemove_keeps
    | apply mbxEnd_keeps | dsimp only | rfl | split | exact Keeps.rfl')

theorem fwcWrites_keeps (ws : List (Nat × Nat)) {z s : State} (hk : Keeps z s) : Keeps z (fwcWrites ws s) := by
  induction ws generalizing s with
  | nil => exact hk
  | cons w ws ih =>
    unfold fwcWrites
    repeat' with_reducible (first
    | apply ih | (intro _) | assumption | apply keeps_ite | apply keeps_foldl | apply keeps_foldl_fst
    | apply wordWrite_keeps | dsimp only | rfl | split | exact Keeps.rfl' | (refine keeps_fst (by assumption) ?_))

theorem captureOp_keeps (n : Nat) {z s : State} (hk : Keeps z s) : Keeps z (captureOp n s) := by
  unfold captureOp
  repeat' with_reducible (first
    | (intro _) | assumption | apply keeps_ite | apply keeps_foldl | apply keeps_foldl_fst | apply mbxStart_keeps
    | apply mbxEnd_keeps | apply fwcWrites_keeps | apply mbxRun_keeps | dsimp only | rfl | split | exact Keeps.rfl')

theorem captureRelease_keeps (c : Nat) {z s : State} (hk : Keeps z s) : Keeps z (captureRelease c s) := by
  unfold captureRelease
  repeat' with_reducible (first
    | (intro _) | assumption | apply keeps_ite | apply keeps_foldl | apply keeps_foldl_fst | apply State.set_keeps
    | dsimp only | rfl | split | exact Keeps.rfl')

theorem captureEnd_keeps (n result : Nat) (report : Bool) {z s : State} (hk : Keeps z s) : Keeps z (captureEnd n
    result report s) := by
  unfold captureEnd
  repeat' with_reducible (first
    | (intro _) | assumption | apply keeps_ite | apply keeps_foldl | apply keeps_foldl_fst | apply capAbortOp_keeps
    | apply State.draw_keeps | apply mbxEnd_keeps | apply captureRelease_keeps | dsimp only | rfl | split
    | exact Keeps.rfl')

theorem spdmOp_keeps (n : Nat) {z s : State} (hk : Keeps z s) : Keeps z (spdmOp n s) := by
  unfold spdmOp
  repeat' with_reducible (first
    | (intro _) | assumption | apply keeps_ite | apply keeps_foldl | apply keeps_foldl_fst | apply mbxStart_keeps
    | apply mbxEnd_keeps | apply spdmAnswer_keeps | dsimp only | rfl | split | exact Keeps.rfl')

theorem recordApply_keeps (r : Nat × Nat × Nat) {z s : State} (hk : Keeps z s) : Keeps z (recordApply r s).1 := by
  unfold recordApply
  repeat' with_reducible (first
    | (intro _) | assumption | apply keeps_ite | apply keeps_foldl | apply keeps_foldl_fst | apply wordWrite_keeps
    | apply wordRead_keeps | dsimp only | rfl | split | exact Keeps.rfl' | (refine keeps_fst (by assumption) ?_))

theorem recordsApply_keeps (i : Nat) (rs : List (Nat × Nat × Nat)) {z s : State} (hk : Keeps z s) :
    Keeps z (recordsApply i rs s).1 := by
  induction rs generalizing s i with
  | nil => exact hk
  | cons r rs ih =>
    unfold recordsApply
    repeat' with_reducible (first
    | apply ih | (intro _) | assumption | apply keeps_ite | apply keeps_foldl | apply keeps_foldl_fst
    | apply recordApply_keeps | dsimp only | rfl | split | exact Keeps.rfl' | (refine keeps_fst (by assumption) ?_))

theorem profileApplyOp_keeps (n : Nat) {z s : State} (hk : Keeps z s) : Keeps z (profileApplyOp n s) := by
  unfold profileApplyOp
  repeat' with_reducible (first
    | (intro _) | assumption | apply keeps_ite | apply keeps_foldl | apply keeps_foldl_fst | apply mbxStart_keeps
    | apply mbxEnd_keeps | apply secEvent_keeps | apply recordsApply_keeps | apply mbxRun_keeps | dsimp only | rfl
    | split | exact Keeps.rfl')

theorem storeBytes_keeps (a : Nat) (bs : List Nat) {z s : State} (hk : Keeps z s) : Keeps z (storeBytes a bs s) := by
  unfold storeBytes
  repeat' with_reducible (first
    | (intro _) | assumption | apply keeps_ite | apply keeps_foldl | apply keeps_foldl_fst | apply nvsPut_keeps
    | dsimp only | rfl | split | exact Keeps.rfl')

theorem storeOp_keeps (n op : Nat) {z s : State} (hk : Keeps z s) : Keeps z (storeOp n op s) := by
  unfold storeOp
  repeat' with_reducible (first
    | (intro _) | assumption | apply keeps_ite | apply keeps_foldl | apply keeps_foldl_fst | apply mbxStart_keeps
    | apply mbxEnd_keeps | apply storeBytes_keeps | apply mbxRun_keeps | simp only [↓keeps_mk] | rfl | split
    | exact Keeps.rfl')

theorem profileStoreOp_keeps (n : Nat) {z s : State} (hk : Keeps z s) : Keeps z (profileStoreOp n s) := by
  unfold profileStoreOp
  repeat' with_reducible (first
    | (intro _) | assumption | apply keeps_ite | apply keeps_foldl | apply keeps_foldl_fst | apply storeOp_keeps
    | dsimp only | rfl | split | exact Keeps.rfl')

theorem granaryWriteOp_keeps (n : Nat) {z s : State} (hk : Keeps z s) : Keeps z (granaryWriteOp n s) := by
  unfold granaryWriteOp
  repeat' with_reducible (first
    | (intro _) | assumption | apply keeps_ite | apply keeps_foldl | apply keeps_foldl_fst | apply storeOp_keeps
    | dsimp only | rfl | split | exact Keeps.rfl')

theorem fwStoreOp_keeps (n : Nat) {z s : State} (hk : Keeps z s) : Keeps z (fwStoreOp n s) := by
  unfold fwStoreOp
  repeat' with_reducible (first
    | (intro _) | assumption | apply keeps_ite | apply keeps_foldl | apply keeps_foldl_fst | apply storeOp_keeps
    | dsimp only | rfl | split | exact Keeps.rfl')

theorem imageDiscard_keeps (base : Nat) {z s : State} (hk : Keeps z s) : Keeps z (imageDiscard base s) := by
  unfold imageDiscard
  repeat' with_reducible (first
    | (intro _) | assumption | apply keeps_ite | apply keeps_foldl | apply keeps_foldl_fst
    | apply State.putBytes_keeps | dsimp only | rfl | split | exact Keeps.rfl')

theorem savedUnknown_keeps {z s : State} (hk : Keeps z s) : Keeps z (savedUnknown s) := by
  unfold savedUnknown
  repeat' with_reducible (first
    | (intro _) | assumption | apply keeps_ite | apply keeps_foldl | apply keeps_foldl_fst | simp only [↓keeps_mk]
    | rfl | split | exact Keeps.rfl')

theorem storeEnd_keeps (n op : Nat) {z s : State} (hk : Keeps z s) : Keeps z (storeEnd n op s) := by
  unfold storeEnd
  repeat' with_reducible (first
    | (intro _) | assumption | apply keeps_ite | apply keeps_foldl | apply keeps_foldl_fst | apply savedUnknown_keeps
    | apply mbxEnd_keeps | apply imageDiscard_keeps | apply secEvent_keeps | apply firmwareRejected_keeps | dsimp only
    | rfl | split | exact Keeps.rfl')

theorem storeAbort_keeps (n op : Nat) {z s : State} (hk : Keeps z s) : Keeps z (storeAbort n op s) := by
  unfold storeAbort
  repeat' with_reducible (first
    | (intro _) | assumption | apply keeps_ite | apply keeps_foldl | apply keeps_foldl_fst | apply nvsDropFwc_keeps
    | apply mbxEnd_keeps | apply savedUnknown_keeps | apply imageDiscard_keeps | dsimp only | rfl | split
    | exact Keeps.rfl')

theorem commandAbort_keeps (n op : Nat) {z s : State} (hk : Keeps z s) : Keeps z (commandAbort n op s) := by
  unfold commandAbort
  repeat' with_reducible (first
    | (intro _) | assumption | apply keeps_ite | apply keeps_foldl | apply keeps_foldl_fst | apply mbxEnd_keeps
    | apply passRemove_keeps | apply captureEnd_keeps | apply storeAbort_keeps | dsimp only | rfl | split
    | exact Keeps.rfl')

theorem commandEnd_keeps (n op : Nat) (timeout : Bool) {z s : State} (hk : Keeps z s) : Keeps z (commandEnd n op
    timeout s) := by
  unfold commandEnd
  repeat' with_reducible (first
    | (intro _) | assumption | apply keeps_ite | apply keeps_foldl | apply keeps_foldl_fst | apply mbxEnd_keeps
    | apply calStartupEnd_keeps | apply captureEnd_keeps | apply storeEnd_keeps | dsimp only | rfl | split
    | exact Keeps.rfl')

theorem mbxCommandDoneOp_keeps (n : Nat) (timeout : Bool) {z s : State} (hk : Keeps z s) : Keeps z
    (mbxCommandDoneOp n timeout s) := by
  unfold mbxCommandDoneOp
  repeat' with_reducible (first
    | (intro _) | assumption | apply keeps_ite | apply keeps_foldl | apply keeps_foldl_fst | apply commandAbort_keeps
    | apply commandEnd_keeps | dsimp only | rfl | split | exact Keeps.rfl')

theorem svnRaise_keeps (kind svn : Nat) {z s : State} (hk : Keeps z s) : Keeps z (svnRaise kind svn s) := by
  unfold svnRaise
  repeat' with_reducible (first
    | (intro _) | assumption | apply keeps_ite | apply keeps_foldl | apply keeps_foldl_fst | apply secEvent_keeps
    | apply storePut_keeps | simp only [↓keeps_mk, ↓keeps_mk_fuses] | rfl | split | exact Keeps.rfl')

theorem bankPick_keeps {z s : State} (hk : Keeps z s) : Keeps z (bankPick s).1 := by
  unfold bankPick
  repeat' with_reducible (first
    | (intro _) | assumption | apply keeps_ite | apply keeps_foldl | apply keeps_foldl_fst | apply State.set_keeps
    | apply firmwareRejected_keeps | apply State.setB_keeps | simp only [↓keeps_mk] | rfl | split | exact Keeps.rfl')

theorem bankBoot_keeps (checkers : List (Nat × List Nat)) {z s : State} (hk : Keeps z s) : Keeps z (bankBoot
    checkers s) := by
  unfold bankBoot
  repeat' with_reducible (first
    | (intro _) | assumption | apply keeps_ite | apply keeps_foldl | apply keeps_foldl_fst | apply bankPick_keeps
    | apply bootVerified_keeps | apply enterMgmtOnly_keeps | dsimp only | rfl | split | exact Keeps.rfl')

theorem romAgain_keeps {z s : State} (hk : Keeps z s) : Keeps z (romAgain s).1 := by
  unfold romAgain
  repeat' with_reducible (first
    | (intro _) | assumption | apply keeps_ite | apply keeps_foldl | apply keeps_foldl_fst | apply bankPick_keeps
    | dsimp only | rfl | split | exact Keeps.rfl' | (refine keeps_fst (by assumption) ?_))

theorem flashBoot_keeps (flash : List Nat) (checkers : List (Nat × List Nat)) {z s : State} (hk : Keeps z s) :
    Keeps z (flashBoot flash checkers s) := by
  unfold flashBoot
  repeat' with_reducible (first
    | (intro _) | assumption | apply keeps_ite | apply keeps_foldl | apply keeps_foldl_fst | apply bootVerified_keeps
    | apply enterMgmtOnly_keeps | apply imageRejected_keeps | simp only [↓keeps_mk] | rfl | split | exact Keeps.rfl')

theorem marchMemories_keeps (r : StartupResult) (tested : Nat → Bool) {z s : State} (hk : Keeps z s) : Keeps z
    (marchMemories r tested s) := by
  unfold marchMemories
  repeat' with_reducible (first
    | (intro _) | assumption | apply keeps_ite | apply keeps_foldl | apply keeps_foldl_fst | apply rowsRepair_keeps
    | dsimp only | rfl | split | exact Keeps.rfl')

theorem scratchClear_keeps {z s : State} (hk : Keeps z s) : Keeps z (scratchClear s) := by
  unfold scratchClear
  repeat' with_reducible (first
    | (intro _) | assumption | apply keeps_ite | apply keeps_foldl | apply keeps_foldl_fst
    | apply State.clearBytes_keeps | simp only [↓keeps_mk] | rfl | split | exact Keeps.rfl')

theorem downloadWait_keeps (r : StartupResult) {z s : State} (hk : Keeps z s) : Keeps z (downloadWait r s) := by
  unfold downloadWait
  repeat' with_reducible (first
    | (intro _) | assumption | apply keeps_ite | apply keeps_foldl | apply keeps_foldl_fst | apply checkersTest_keeps
    | apply setPhase_keeps | apply scratchClear_keeps | apply marchMemories_keeps | apply State.setB_keeps
    | dsimp only | rfl | split | exact Keeps.rfl')

theorem calAreaLook_keeps {z s : State} (hk : Keeps z s) : Keeps z (calAreaLook s) := by
  unfold calAreaLook
  repeat' with_reducible (first
    | (intro _) | assumption | apply keeps_ite | apply keeps_foldl | apply keeps_foldl_fst | apply savedUnknown_keeps
    | apply State.draw_keeps | simp only [↓keeps_mk] | rfl | split | exact Keeps.rfl')

theorem bootRecordEnd_keeps {z s : State} (hk : Keeps z s) : Keeps z (bootRecordEnd s) := by
  unfold bootRecordEnd
  repeat' with_reducible (first
    | (intro _) | assumption | apply keeps_ite | apply keeps_foldl | apply keeps_foldl_fst | apply calAreaLook_keeps
    | apply State.setB_keeps | apply blockFollow_keeps | apply enterMgmtOnly_keeps | apply setPhase_keeps
    | simp only [↓keeps_mk] | rfl | split | exact Keeps.rfl')

theorem secureBootEnd_keeps (r : StartupResult) {z s : State} (hk : Keeps z s) : Keeps z (secureBootEnd r s) := by
  unfold secureBootEnd
  repeat' with_reducible (first
    | (intro _) | assumption | apply keeps_ite | apply keeps_foldl | apply keeps_foldl_fst | apply lockdown_keeps
    | apply bankBoot_keeps | apply flashBoot_keeps | apply downloadWait_keeps | dsimp only | rfl | split
    | exact Keeps.rfl')

theorem retirementsPut_keeps (slices : List Nat) {z s : State} (hk : Keeps z s) : Keeps z (retirementsPut slices s)
    := by
  unfold retirementsPut
  repeat' with_reducible (first
    | (intro _) | assumption | apply keeps_ite | apply keeps_foldl | apply keeps_foldl_fst | apply repairsFull_keeps
    | apply repairsPut_keeps | dsimp only | rfl | split | exact Keeps.rfl')

theorem lbistEnd_keeps (r : StartupResult) {z s : State} (hk : Keeps z s) : Keeps z (lbistEnd r s) := by
  unfold lbistEnd
  repeat' with_reducible (first
    | (intro _) | assumption | apply keeps_ite | apply keeps_foldl | apply keeps_foldl_fst | apply State.setB_keeps
    | apply State.set_keeps | apply retirementsPut_keeps | apply bootPut_keeps | apply State.irq_keeps
    | apply enterMgmtOnly_keeps | apply marchBegin_keeps | simp only [↓keeps_mk] | rfl | split | exact Keeps.rfl')

theorem slicesClear_keeps {z s : State} (hk : Keeps z s) : Keeps z (slicesClear s) := by
  unfold slicesClear
  repeat' with_reducible (first
    | (intro _) | assumption | apply keeps_ite | apply keeps_foldl | apply keeps_foldl_fst | apply eccFresh_keeps
    | apply memoriesClear_keeps | dsimp only | rfl | split | exact Keeps.rfl')

theorem centralClear_keeps {z s : State} (hk : Keeps z s) : Keeps z (centralClear s) := by
  unfold centralClear
  repeat' with_reducible (first
    | (intro _) | assumption | apply keeps_ite | apply keeps_foldl | apply keeps_foldl_fst | apply eccFresh_keeps
    | dsimp only | rfl | split | exact Keeps.rfl')

theorem marchEnd_keeps (r : StartupResult) {z s : State} (hk : Keeps z s) : Keeps z (marchEnd r s) := by
  unfold marchEnd
  repeat' with_reducible (first
    | (intro _) | assumption | apply keeps_ite | apply keeps_foldl | apply keeps_foldl_fst | apply marchMemories_keeps
    | apply slicesClear_keeps | apply centralClear_keeps | apply scratchClear_keeps | apply capFollow_keeps
    | apply setPhase_keeps | apply loadTrims_keeps | dsimp only | rfl | split | exact Keeps.rfl')

theorem bootProfile_keeps {z s : State} (hk : Keeps z s) : Keeps z (bootProfile s) := by
  unfold bootProfile
  repeat' with_reducible (first
    | (intro _) | assumption | apply keeps_ite | apply keeps_foldl | apply keeps_foldl_fst | apply svnRaise_keeps
    | apply recordsApply_keeps | apply secEvent_keeps | simp only [↓keeps_mk] | rfl | split | exact Keeps.rfl')

theorem startPassAnchor_keeps {z s : State} (hk : Keeps z s) : Keeps z (startPassAnchor s) := by
  unfold startPassAnchor
  repeat' with_reducible (first
    | (intro _) | assumption | apply keeps_ite | apply keeps_foldl | apply keeps_foldl_fst | apply State.setB_keeps
    | simp only [↓keeps_mk] | rfl | split | exact Keeps.rfl')

theorem enterCalibration_keeps {z s : State} (hk : Keeps z s) : Keeps z (enterCalibration s) := by
  unfold enterCalibration
  repeat' with_reducible (first
    | (intro _) | assumption | apply keeps_ite | apply keeps_foldl | apply keeps_foldl_fst
    | apply madcRefWriteOp_keeps | apply setPhase_keeps | apply State.setB_keeps | apply bootProfile_keeps
    | apply startPassAnchor_keeps | apply passBegin_keeps | simp only [↓keeps_mk] | rfl | split | exact Keeps.rfl')

theorem firmwareStarts_keeps {z s : State} (hk : Keeps z s) : Keeps z (firmwareStarts s) := by
  unfold firmwareStarts
  repeat' with_reducible (first
    | (intro _) | assumption | apply keeps_ite | apply keeps_foldl | apply keeps_foldl_fst | apply State.setB_keeps
    | simp only [↓keeps_mk, ↓keeps_mk_fuses] | rfl | split | exact Keeps.rfl')

theorem firmwareFirst_keeps {z s : State} (hk : Keeps z s) : Keeps z (firmwareFirst s) := by
  unfold firmwareFirst
  repeat' with_reducible (first
    | (intro _) | assumption | apply keeps_ite | apply keeps_foldl | apply keeps_foldl_fst
    | apply firmwareStarts_keeps | apply enterMgmtOnly_keeps | apply enterCalibration_keeps | dsimp only | rfl | split
    | exact Keeps.rfl')

theorem fwStartEnd_keeps {z s : State} (hk : Keeps z s) : Keeps z (fwStartEnd s) := by
  unfold fwStartEnd
  repeat' with_reducible (first
    | (intro _) | assumption | apply keeps_ite | apply keeps_foldl | apply keeps_foldl_fst | apply romAgain_keeps
    | apply firmwareFirst_keeps | apply enterMgmtOnly_keeps | apply State.irq_keeps | simp only [↓keeps_mk] | rfl
    | split | exact Keeps.rfl')

theorem calibrationEnd_keeps {z s : State} (hk : Keeps z s) : Keeps z (calibrationEnd s) := by
  unfold calibrationEnd
  repeat' with_reducible (first
    | (intro _) | assumption | apply keeps_ite | apply keeps_foldl | apply keeps_foldl_fst | apply enterMgmtOnly_keeps
    | apply signLater_keeps | apply svnRaise_keeps | apply lanesConsider_keeps | apply levelApply_keeps
    | apply setPhase_keeps | apply State.irq_keeps | dsimp only | rfl | split | exact Keeps.rfl')

theorem startupPhaseDoneOp_keeps (r : StartupResult) {z s : State} (hk : Keeps z s) : Keeps z (startupPhaseDoneOp r
    s) := by
  unfold startupPhaseDoneOp
  repeat' with_reducible (first
    | (intro _) | assumption | apply keeps_ite | apply keeps_foldl | apply keeps_foldl_fst | apply bootRecordEnd_keeps
    | apply secureBootEnd_keeps | apply lbistEnd_keeps | apply marchEnd_keeps | apply fwStartEnd_keeps
    | apply calibrationEnd_keeps | dsimp only | rfl | split | exact Keeps.rfl')

theorem coastReturn_keeps {z s : State} (hk : Keeps z s) : Keeps z (coastReturn s) := by
  unfold coastReturn
  repeat' with_reducible (first
    | (intro _) | assumption | apply keeps_ite | apply keeps_foldl | apply keeps_foldl_fst | apply enterState_keeps
    | dsimp only | rfl | split | exact Keeps.rfl')

theorem firmwareRunningOp_keeps {z s : State} (hk : Keeps z s) : Keeps z (firmwareRunningOp s) := by
  unfold firmwareRunningOp
  repeat' with_reducible (first
    | (intro _) | assumption | apply keeps_ite | apply keeps_foldl | apply keeps_foldl_fst | apply romAgain_keeps
    | apply coastReturn_keeps | apply firmwareStarts_keeps | apply bootProfile_keeps | apply enterMgmtOnly_keeps
    | apply State.irq_keeps | dsimp only | rfl | split | exact Keeps.rfl')

end Sys2Proof.Machine
end

