-- ==== Sys2Proof/Laws/Lanes.lean ====
section
/-!
SUPPORT. What leaves every line lane in its state and with its configuration, and what a lane's change of state does.
-/

namespace Sys2Proof.Machine

open Sys2Proof

/-- The fields that a lane's view shows: configuration, state, cause of FAULT and slice. -/
def LaneKey (k : Nat) : Prop :=
  0x01000000 ≤ k / 256 ∧ k / 256 < 0x01200000 ∧
    ((0x40 ≤ k / 256 % 0x100000 ∧ k / 256 % 0x100000 < 0x50) ∨ (k / 256 % 0x100000 = 0x50 ∧ k / 4 % 64 < 16) ∨
      k / 256 % 0x100000 = 0x54 ∨ (k / 256 % 0x100000 = 0x60 ∧ k / 4 % 64 < 16))

/-- Every field of a lane's view holds what it held. -/
structure SameLanes (s t : State) : Prop where
  get : ∀ f : Fld, LaneKey f.key → t.get f = s.get f

theorem SameLanes.rfl' {s : State} : SameLanes s s := ⟨fun _ _ => rfl⟩

theorem SameLanes.trans {s t u : State} (h : SameLanes s t) (k : SameLanes t u) : SameLanes s u :=
  ⟨fun f hf => (k.get f hf).trans (h.get f hf)⟩

theorem SameLanes.regs {z s t : State} (h : SameLanes z s) (hr : t.regs = s.regs) : SameLanes z t := ⟨fun f hf => by
  have : t.get f = s.get f := by unfold State.get; rw [hr]
  rw [this]
  exact h.get f hf⟩

theorem lanes_set {z s : State} {f : Fld} {v : Nat} (hf : ¬ LaneKey f.key) (h : SameLanes z s) :
    SameLanes z (s.set f v) := ⟨fun g hg => by
  rw [State.get_set_ne _ _ fun he => hf (by rw [he]; exact hg)]
  exact h.get g hg⟩

theorem lanes_setB {z s : State} {f : Fld} {v : Bool} (hf : ¬ LaneKey f.key) (h : SameLanes z s) :
    SameLanes z (s.setB f v) := lanes_set hf h

theorem lanes_satInc {z s : State} {f : Fld} {v : Nat} (hf : ¬ LaneKey f.key) (h : SameLanes z s) :
    SameLanes z (s.satInc f v) := lanes_set hf h

theorem LaneKey.not_counter {f : Fld} (h : LaneKey f.key) : ¬ f.counter := by
  simp only [LaneKey, Fld.counter] at h ⊢
  omega

theorem lanes_count {z s : State} {b : Blk} {e k : Nat} (h : SameLanes z s) : SameLanes z (s.count b e k) :=
  ⟨fun g hg => by rw [State.count_get _ _ _ _ _ hg.not_counter]; exact h.get g hg⟩

theorem lanes_irq {z s : State} {b : Blk} {n : Nat} (hn : n < 64) (h : SameLanes z s) : SameLanes z (s.irq b n) :=
  ⟨fun g hg => by
    have hb := base_aligned b
    rw [State.irq_get_ne _ _ _ hg.not_counter fun he => ?_]
    · exact h.get g hg
    · rw [← he] at hg
      revert hg
      simp only [LaneKey, R.IRQ_RAW_RAW, fld, Kind.code]
      omega⟩

theorem lanes_event {z s : State} {b : Blk} {i c d : Nat} (h : SameLanes z s) : SameLanes z (s.event b i c d) := h.regs rfl

theorem lanes_signal {z s : State} {b : Blk} {n : Nat} {new : Bool} (hn : n < 64) (h : SameLanes z s) :
    SameLanes z (s.signal b n new) := lanes_event (lanes_irq hn h)

theorem lanes_ite {c : Prop} [Decidable c] {z a b : State} (ha : SameLanes z a) (hb : SameLanes z b) :
    SameLanes z (if c then a else b) := by
  split
  · exact ha
  · exact hb

theorem lanes_change {z s : State} {f : Fld} {new : Bool} {b : Blk} {n : Nat} (hf : ¬ LaneKey f.key) (hn : n < 64)
    (h : SameLanes z s) : SameLanes z (s.change f new b n) :=
  lanes_ite h (lanes_signal hn (lanes_setB hf h))

theorem lanes_foldl {α : Type} {z : State} {g : State → α → State} {l : List α} {s : State}
    (hg : ∀ a ∈ l, ∀ t, SameLanes z t → SameLanes z (g t a)) (h : SameLanes z s) : SameLanes z (l.foldl g s) := by
  induction l generalizing s with
  | nil => exact h
  | cons a l ih =>
    exact ih (fun b hb => hg b (List.mem_cons_of_mem _ hb)) (hg a (List.mem_cons_self ..) s h)

theorem lanes_range {z : State} {g : State → Nat → State} {n : Nat} {s : State}
    (hg : ∀ i, i < n → ∀ t, SameLanes z t → SameLanes z (g t i)) (h : SameLanes z s) :
    SameLanes z ((List.range n).foldl g s) := lanes_foldl (fun i hi => hg i (List.mem_range.mp hi)) h

/-- A change of anything but the register file. -/
theorem lanes_mk {z e : State} {mem : List Host.Cell} {caps : Vector CapInt 2} {fuses : Fuses} {pending : List Instr} {shadow : NatMap} {staged : NatMap} {time : Nat} {freeCount : Nat} {spi : Port} {i3c
    : Port} {target : I3cTarget} {woken : List WokenDomain} {raised : List StubEvent} {evQueue : List StubEvent}
    {evDropped : Nat} {evLost : Nat} {resets : ResetSources} {txs : Vector TxLane 8} {rxs : Vector RxLane 8}
    {powers : Vector LanePower 8} {hosts : Vector HostLaneInt 16} {cals : Vector CalLane 8} {calDev : CalDev} {msg
    : MsgInt} {links : Vector MsgLink 8} {sessions : Vector PeerSession 8} {pwr : PowerInt} {stamps : Vector Stamps
    8} {tim : TimInt} {chains : Vector FilterChain 8} {dacs : Vector DacChannel 48} {store : MemInt} {gpioPulse :
    Nat} {elapsed : Nat} {stub : StubInt} {thm : ThmInt} {sec : SecInt} {mbx : MbxInt} {boot : BootInt}:
    SameLanes z (State.mk e.regs shadow staged mem time freeCount spi i3c target woken raised
    evQueue evDropped evLost resets txs rxs powers hosts caps cals calDev msg links sessions pwr stamps tim
    chains dacs store gpioPulse elapsed stub thm fuses sec mbx boot pending) ↔ SameLanes z e :=
  ⟨fun h => h.regs rfl, fun h => h.regs rfl⟩

/-- The lanes of a port are lanes of the device. -/
theorem portMembers_lt {s : State} {l m : Nat} (hl : l < 8) (h : m ∈ s.portMembers l) : m < 8 := by
  unfold State.portMembers at h
  split at h
  · simp only [List.mem_singleton] at h
    omega
  · next hb =>
    simp only [List.mem_filter, List.mem_map, List.mem_range] at h
    obtain ⟨⟨k, hk, rfl⟩, -⟩ := h
    have hs : portSupported (s.rate l) (s.oneToOne l) (s.portW l) = true := by
      cases hp : portSupported (s.rate l) (s.oneToOne l) (s.portW l) <;> simp_all [State.portBad]
    have hw : s.portW l ≤ 4 := by
      unfold portSupported at hs
      split at hs
      · simp at hs; omega
      · split at hs <;> simp at hs <;> omega
    unfold State.leadLane
    unfold portLanes at hk ⊢
    generalize s.portW l = w at hw hk ⊢
    have hw5 : w = 0 ∨ w = 1 ∨ w = 2 ∨ w = 3 ∨ w = 4 := by omega
    rcases hw5 with h | h | h | h | h <;> subst h <;> simp only [Nat.reduceSub, Nat.reducePow] at hk ⊢ <;> omega

theorem lanes_putTx {z s : State} {l : Nat} {x} (h : SameLanes z s) : SameLanes z (s.putTx l x) := h.regs rfl
theorem lanes_putRx {z s : State} {l : Nat} {x} (h : SameLanes z s) : SameLanes z (s.putRx l x) := h.regs rfl
theorem lanes_putHost {z s : State} {l : Nat} {x} (h : SameLanes z s) : SameLanes z (s.putHost l x) := h.regs rfl
theorem lanes_putCap {z s : State} {l : Nat} {x} (h : SameLanes z s) : SameLanes z (s.putCap l x) := h.regs rfl
theorem lanes_putCal {z s : State} {l : Nat} {x} (h : SameLanes z s) : SameLanes z (s.putCal l x) := h.regs rfl
theorem lanes_putSession {z s : State} {l : Nat} {x} (h : SameLanes z s) : SameLanes z (s.putSession l x) := h.regs rfl
theorem lanes_putLink {z s : State} {l : Nat} {x} (h : SameLanes z s) : SameLanes z (s.putLink l x) := h.regs rfl
theorem lanes_putStamp {z s : State} {l : Nat} {x} (h : SameLanes z s) : SameLanes z (s.putStamp l x) := h.regs rfl

theorem lanes_avsSend {t : Nat}{z s : State} (hk : SameLanes z s) : SameLanes z (avsSend t s) := by
  unfold avsSend
  repeat' with_reducible first
    | assumption
    | exact SameLanes.rfl'
    | apply lanes_ite
    | (refine lanes_range (fun i hi t ht => ?_) ?_)
    | (refine lanes_foldl (fun i hi t ht => ?_) ?_)
    | omega
    | (simp only [LaneKey, laneFld, R.PWR_AVS_CFG_RAIL, R.IRQ_RAW_RAW, fld, hid, Kind.code, Blk.base, dev, BK.type]; omega)
    | exact portMembers_lt (by assumption) (by assumption)
    | (simp only [List.mem_cons, List.not_mem_nil, or_false] at *; omega)
    | simp only [↓lanes_mk]
    | split
    | dsimp only

theorem lanes_levelSteps {t : Nat}{z s : State} (hk : SameLanes z s) : SameLanes z (levelSteps t s) := by
  unfold levelSteps
  repeat' with_reducible first
    | assumption
    | exact SameLanes.rfl'
    | apply lanes_ite
    | (refine lanes_range (fun i hi t ht => ?_) ?_)
    | (refine lanes_foldl (fun i hi t ht => ?_) ?_)
    | omega
    | (simp only [LaneKey, laneFld, R.IRQ_RAW_RAW, fld, hid, Kind.code, Blk.base, dev, BK.type]; omega)
    | exact portMembers_lt (by assumption) (by assumption)
    | (simp only [List.mem_cons, List.not_mem_nil, or_false] at *; omega)
    | simp only [↓lanes_mk]
    | split
    | dsimp only

theorem lanes_levelMove {t : Nat}{z s : State} (hk : SameLanes z s) : SameLanes z (levelMove t s) := by
  unfold levelMove
  repeat' with_reducible first
    | assumption
    | exact SameLanes.rfl'
    | apply lanes_ite
    | (refine lanes_range (fun i hi t ht => ?_) ?_)
    | (refine lanes_foldl (fun i hi t ht => ?_) ?_)
    | apply lanes_setB
    | apply lanes_set
    | apply lanes_avsSend
    | apply lanes_levelSteps
    | omega
    | (simp only [LaneKey, laneFld, R.PWR_PL_STAT_LEVEL, R.PWR_PL_STAT_BUSY, R.PWR_PL_STAT_TARGET, R.IRQ_RAW_RAW, fld, hid, Kind.code, Blk.base, dev, BK.type]; omega)
    | exact portMembers_lt (by assumption) (by assumption)
    | (simp only [List.mem_cons, List.not_mem_nil, or_false] at *; omega)
    | simp only [↓lanes_mk]
    | split
    | dsimp only

theorem lanes_startLevel {t : Nat}{z s : State} (hk : SameLanes z s) : SameLanes z (startLevel t s) := by
  unfold startLevel
  repeat' with_reducible first
    | assumption
    | exact SameLanes.rfl'
    | apply lanes_ite
    | (refine lanes_range (fun i hi t ht => ?_) ?_)
    | (refine lanes_foldl (fun i hi t ht => ?_) ?_)
    | apply lanes_levelMove
    | apply lanes_setB
    | apply lanes_set
    | omega
    | (simp only [LaneKey, laneFld, R.PWR_PL_STAT_LEVEL, R.PWR_PL_STAT_BUSY, R.PWR_PL_STAT_TARGET, R.IRQ_RAW_RAW, fld, hid, Kind.code, Blk.base, dev, BK.type]; omega)
    | exact portMembers_lt (by assumption) (by assumption)
    | (simp only [List.mem_cons, List.not_mem_nil, or_false] at *; omega)
    | simp only [↓lanes_mk]
    | split
    | dsimp only

theorem lanes_requestLevel {t : Nat}{z s : State} (hk : SameLanes z s) : SameLanes z (requestLevel t s) := by
  unfold requestLevel
  repeat' with_reducible first
    | assumption
    | exact SameLanes.rfl'
    | apply lanes_ite
    | (refine lanes_range (fun i hi t ht => ?_) ?_)
    | (refine lanes_foldl (fun i hi t ht => ?_) ?_)
    | apply lanes_startLevel
    | omega
    | (simp only [LaneKey, laneFld, R.PWR_PL_STAT_TARGET, R.IRQ_RAW_RAW, fld, hid, Kind.code, Blk.base, dev, BK.type]; omega)
    | exact portMembers_lt (by assumption) (by assumption)
    | (simp only [List.mem_cons, List.not_mem_nil, or_false] at *; omega)
    | simp only [↓lanes_mk]
    | split
    | dsimp only

theorem lanes_autoRaise {z s : State} (hk : SameLanes z s) : SameLanes z (autoRaise s) := by
  unfold autoRaise
  repeat' with_reducible first
    | assumption
    | exact SameLanes.rfl'
    | apply lanes_ite
    | (refine lanes_range (fun i hi t ht => ?_) ?_)
    | (refine lanes_foldl (fun i hi t ht => ?_) ?_)
    | apply lanes_requestLevel
    | omega
    | (simp only [LaneKey, laneFld, R.PWR_PL_CFG_AUTO, R.PWR_PL_STAT_TARGET, R.IRQ_RAW_RAW, fld, hid, Kind.code, Blk.base, dev, BK.type]; omega)
    | exact portMembers_lt (by assumption) (by assumption)
    | (simp only [List.mem_cons, List.not_mem_nil, or_false] at *; omega)
    | simp only [↓lanes_mk]
    | split
    | dsimp only

theorem lanes_conflict {b : Blk} {z s : State} (hk : SameLanes z s) : SameLanes z (State.conflict s b) := by
  refine lanes_setB ?_ hk
  have := base_aligned b
  simp only [LaneKey, R.BLK_STAT_CONFLICT, fld, Kind.code]
  omega

theorem lanes_putLp {l : Nat} {p : LanePower}{z s : State} (hk : SameLanes z s) : SameLanes z (State.putLp s l p)
    := by
  unfold State.putLp
  repeat' with_reducible first
    | assumption
    | exact SameLanes.rfl'
    | apply lanes_ite
    | (refine lanes_range (fun i hi t ht => ?_) ?_)
    | (refine lanes_foldl (fun i hi t ht => ?_) ?_)
    | apply lanes_setB
    | omega
    | (simp only [LaneKey, laneFld, R.SHF_LANE_STATE_BUSY, R.IRQ_RAW_RAW, fld, hid, Kind.code, Blk.base, dev, BK.type]; omega)
    | exact portMembers_lt (by assumption) (by assumption)
    | (simp only [List.mem_cons, List.not_mem_nil, or_false] at *; omega)
    | simp only [↓lanes_mk]
    | split
    | dsimp only

theorem lanes_calClearFg {l : Nat}{z s : State} (hl : l < 8) (hk : SameLanes z s) : SameLanes z (calClearFg l s) := by
  unfold calClearFg
  repeat' with_reducible first
    | assumption
    | exact SameLanes.rfl'
    | apply lanes_ite
    | (refine lanes_range (fun i hi t ht => ?_) ?_)
    | (refine lanes_foldl (fun i hi t ht => ?_) ?_)
    | apply lanes_setB
    | omega
    | (simp only [LaneKey, laneFld, R.CAL_LANE_STAT_FG_CONV, R.CAL_LANE_STAT_FG_DONE, R.IRQ_RAW_RAW, fld, hid, Kind.code, Blk.base, dev, BK.type]; omega)
    | exact portMembers_lt (by assumption) (by assumption)
    | (simp only [List.mem_cons, List.not_mem_nil, or_false] at *; omega)
    | simp only [↓lanes_mk]
    | split
    | dsimp only

theorem lanes_txStop {l : Nat}{z s : State} (hl : l < 8) (hk : SameLanes z s) : SameLanes z (txStop l s) := by
  unfold txStop
  repeat' with_reducible first
    | assumption
    | exact SameLanes.rfl'
    | apply lanes_ite
    | (refine lanes_range (fun i hi t ht => ?_) ?_)
    | (refine lanes_foldl (fun i hi t ht => ?_) ?_)
    | apply lanes_setB
    | apply lanes_irq
    | apply lanes_putTx
    | omega
    | (simp only [LaneKey, laneFld, R.LTX_STAT_READY, R.LTX_STAT_SWING, R.LTX_STAT_FS_RAMP, R.TXP_STAT_FILL, R.TXP_STAT_PATTERN, R.SHF_LANE_STATE_TX_DIM, R.LFR_STAT_TX_MARK, R.LTX_CFG_FS, R.LTX_CFG_POL_INV, R.LTX_CFG_SQUELCH, R.IRQ_RAW_RAW, fld, hid, Kind.code, Blk.base, dev, BK.type]; omega)
    | exact portMembers_lt (by assumption) (by assumption)
    | (simp only [List.mem_cons, List.not_mem_nil, or_false] at *; omega)
    | simp only [↓lanes_mk]
    | split
    | dsimp only

theorem lanes_calStopApplying {l : Nat}{z s : State} (hl : l < 8) (hk : SameLanes z s) : SameLanes z
    (calStopApplying l s) := by
  unfold calStopApplying
  repeat' with_reducible first
    | assumption
    | exact SameLanes.rfl'
    | apply lanes_ite
    | (refine lanes_range (fun i hi t ht => ?_) ?_)
    | (refine lanes_foldl (fun i hi t ht => ?_) ?_)
    | apply lanes_putCal
    | apply lanes_setB
    | omega
    | (simp only [LaneKey, laneFld, R.CAL_LANE_STAT_APPLYING, R.IRQ_RAW_RAW, fld, hid, Kind.code, Blk.base, dev, BK.type]; omega)
    | exact portMembers_lt (by assumption) (by assumption)
    | (simp only [List.mem_cons, List.not_mem_nil, or_false] at *; omega)
    | simp only [↓lanes_mk]
    | split
    | dsimp only

theorem lanes_calDiscardDac {l : Nat}{z s : State} (hl : l < 8) (hk : SameLanes z s) : SameLanes z (calDiscardDac l
    s) := by
  unfold calDiscardDac
  repeat' with_reducible first
    | assumption
    | exact SameLanes.rfl'
    | apply lanes_ite
    | (refine lanes_range (fun i hi t ht => ?_) ?_)
    | (refine lanes_foldl (fun i hi t ht => ?_) ?_)
    | apply lanes_satInc
    | apply lanes_putCal
    | omega
    | (simp only [LaneKey, laneFld, R.CAL_REC_X_DISCARD, R.IRQ_RAW_RAW, fld, hid, Kind.code, Blk.base, dev, BK.type]; omega)
    | exact portMembers_lt (by assumption) (by assumption)
    | (simp only [List.mem_cons, List.not_mem_nil, or_false] at *; omega)
    | simp only [↓lanes_mk]
    | split
    | dsimp only

theorem lanes_calDiscardAdc {l : Nat}{z s : State} (hl : l < 8) (hk : SameLanes z s) : SameLanes z (calDiscardAdc l
    s) := by
  unfold calDiscardAdc
  repeat' with_reducible first
    | assumption
    | exact SameLanes.rfl'
    | apply lanes_ite
    | (refine lanes_range (fun i hi t ht => ?_) ?_)
    | (refine lanes_foldl (fun i hi t ht => ?_) ?_)
    | apply lanes_satInc
    | apply lanes_putCal
    | apply lanes_setB
    | omega
    | (simp only [LaneKey, laneFld, R.CAL_REC_X_DISCARD, R.CAL_LANE_STAT_MEASURING, R.IRQ_RAW_RAW, fld, hid, Kind.code, Blk.base, dev, BK.type]; omega)
    | exact portMembers_lt (by assumption) (by assumption)
    | (simp only [List.mem_cons, List.not_mem_nil, or_false] at *; omega)
    | simp only [↓lanes_mk]
    | split
    | dsimp only

theorem lanes_calLeave {l : Nat}{z s : State} (hl : l < 8) (hk : SameLanes z s) : SameLanes z (calLeave l s) := by
  unfold calLeave
  repeat' with_reducible first
    | assumption
    | exact SameLanes.rfl'
    | apply lanes_ite
    | (refine lanes_range (fun i hi t ht => ?_) ?_)
    | (refine lanes_foldl (fun i hi t ht => ?_) ?_)
    | apply lanes_calStopApplying
    | apply lanes_calDiscardDac
    | apply lanes_calDiscardAdc
    | apply lanes_putCal
    | omega
    | (simp only [LaneKey, laneFld, R.IRQ_RAW_RAW, fld, hid, Kind.code, Blk.base, dev, BK.type]; omega)
    | exact portMembers_lt (by assumption) (by assumption)
    | (simp only [List.mem_cons, List.not_mem_nil, or_false] at *; omega)
    | simp only [↓lanes_mk]
    | split
    | dsimp only

theorem lanes_capCause {l cause : Nat}{z s : State} (hk : SameLanes z s) : SameLanes z (capCause l cause s) := by
  unfold capCause
  repeat' with_reducible first
    | assumption
    | exact SameLanes.rfl'
    | apply lanes_ite
    | (refine lanes_range (fun i hi t ht => ?_) ?_)
    | (refine lanes_foldl (fun i hi t ht => ?_) ?_)
    | apply lanes_putCap
    | omega
    | (simp only [LaneKey, laneFld, R.CAP_STAT_STATE, R.CAP_CFG_TRIG, R.IRQ_RAW_RAW, fld, hid, Kind.code, Blk.base, dev, BK.type]; omega)
    | exact portMembers_lt (by assumption) (by assumption)
    | (simp only [List.mem_cons, List.not_mem_nil, or_false] at *; omega)
    | simp only [↓lanes_mk]
    | split
    | dsimp only

theorem lanes_hostClockSlew {l : Nat}{z s : State} (hk : SameLanes z s) : SameLanes z (hostClockSlew l s) := by
  unfold hostClockSlew
  repeat' with_reducible first
    | assumption
    | exact SameLanes.rfl'
    | apply lanes_ite
    | (refine lanes_range (fun i hi t ht => ?_) ?_)
    | (refine lanes_foldl (fun i hi t ht => ?_) ?_)
    | apply lanes_putHost
    | omega
    | (simp only [LaneKey, laneFld, R.IRQ_RAW_RAW, fld, hid, Kind.code, Blk.base, dev, BK.type]; omega)
    | exact portMembers_lt (by assumption) (by assumption)
    | (simp only [List.mem_cons, List.not_mem_nil, or_false] at *; omega)
    | simp only [↓lanes_mk]
    | split
    | dsimp only

theorem lanes_cwDrop {l : Nat}{z s : State} (hk : SameLanes z s) : SameLanes z (cwDrop l s) := by
  unfold cwDrop
  repeat' with_reducible first
    | assumption
    | exact SameLanes.rfl'
    | apply lanes_ite
    | (refine lanes_range (fun i hi t ht => ?_) ?_)
    | (refine lanes_foldl (fun i hi t ht => ?_) ?_)
    | apply lanes_change
    | omega
    | (simp only [LaneKey, laneFld, R.GBX_OC_STAT_CW_LOCK, R.IRQ_RAW_RAW, fld, hid, Kind.code, Blk.base, dev, BK.type]; omega)
    | exact portMembers_lt (by assumption) (by assumption)
    | (simp only [List.mem_cons, List.not_mem_nil, or_false] at *; omega)
    | simp only [↓lanes_mk]
    | split
    | dsimp only

theorem lanes_sessionEnd {l : Nat}{z s : State} (hl : l < 8) (hk : SameLanes z s) : SameLanes z (sessionEnd l s) := by
  unfold sessionEnd
  repeat' with_reducible first
    | assumption
    | exact SameLanes.rfl'
    | apply lanes_ite
    | (refine lanes_range (fun i hi t ht => ?_) ?_)
    | (refine lanes_foldl (fun i hi t ht => ?_) ?_)
    | apply lanes_putSession
    | apply lanes_set
    | apply lanes_irq
    | apply lanes_event
    | omega
    | (simp only [LaneKey, laneFld, R.MSG_LANE_STAT_SESSION, R.IRQ_RAW_RAW, fld, hid, Kind.code, Blk.base, dev, BK.type]; omega)
    | exact portMembers_lt (by assumption) (by assumption)
    | (simp only [List.mem_cons, List.not_mem_nil, or_false] at *; omega)
    | simp only [↓lanes_mk]
    | split
    | dsimp only

theorem lanes_dropReassembly {l : Nat}{z s : State} (hl : l < 8) (hk : SameLanes z s) : SameLanes z (dropReassembly
    l s) := by
  unfold dropReassembly
  repeat' with_reducible first
    | assumption
    | exact SameLanes.rfl'
    | apply lanes_ite
    | (refine lanes_range (fun i hi t ht => ?_) ?_)
    | (refine lanes_foldl (fun i hi t ht => ?_) ?_)
    | apply lanes_satInc
    | apply lanes_putLink
    | omega
    | (simp only [LaneKey, laneFld, R.MSG_ERR_DISCARD, R.IRQ_RAW_RAW, fld, hid, Kind.code, Blk.base, dev, BK.type]; omega)
    | exact portMembers_lt (by assumption) (by assumption)
    | (simp only [List.mem_cons, List.not_mem_nil, or_false] at *; omega)
    | simp only [↓lanes_mk]
    | split
    | dsimp only

theorem lanes_linkDown {l : Nat}{z s : State} (hl : l < 8) (hk : SameLanes z s) : SameLanes z (linkDown l s) := by
  unfold linkDown
  repeat' with_reducible first
    | assumption
    | exact SameLanes.rfl'
    | apply lanes_ite
    | (refine lanes_range (fun i hi t ht => ?_) ?_)
    | (refine lanes_foldl (fun i hi t ht => ?_) ?_)
    | apply lanes_putLink
    | apply lanes_setB
    | apply lanes_sessionEnd
    | apply lanes_dropReassembly
    | apply lanes_irq
    | omega
    | (simp only [LaneKey, laneFld, R.MSG_LANE_STAT_LINK_UP, R.MSG_LANE_STAT_ROLE_CONFLICT, R.IRQ_RAW_RAW, fld, hid, Kind.code, Blk.base, dev, BK.type]; omega)
    | exact portMembers_lt (by assumption) (by assumption)
    | (simp only [List.mem_cons, List.not_mem_nil, or_false] at *; omega)
    | simp only [↓lanes_mk]
    | split
    | dsimp only

theorem lanes_sdSf {l : Nat} {quiet : Bool}{z s : State} (hl : l < 8) (hk : SameLanes z s) : SameLanes z (sdSf l
    quiet s) := by
  unfold sdSf
  repeat' with_reducible first
    | assumption
    | exact SameLanes.rfl'
    | apply lanes_ite
    | (refine lanes_range (fun i hi t ht => ?_) ?_)
    | (refine lanes_foldl (fun i hi t ht => ?_) ?_)
    | apply lanes_setB
    | apply lanes_change
    | omega
    | (simp only [LaneKey, laneFld, R.IDEC_STAT_SD, R.IDEC_STAT_SF, R.IDEC_STAT_STOPPED, R.IRQ_RAW_RAW, fld, hid, Kind.code, Blk.base, dev, BK.type]; omega)
    | exact portMembers_lt (by assumption) (by assumption)
    | (simp only [List.mem_cons, List.not_mem_nil, or_false] at *; omega)
    | simp only [↓lanes_mk]
    | split
    | dsimp only

theorem lanes_windowClear {l : Nat}{z s : State} (hk : SameLanes z s) : SameLanes z (windowClear l s) := by
  unfold windowClear
  repeat' with_reducible first
    | assumption
    | exact SameLanes.rfl'
    | apply lanes_ite
    | (refine lanes_range (fun i hi t ht => ?_) ?_)
    | (refine lanes_foldl (fun i hi t ht => ?_) ?_)
    | apply lanes_putRx
    | omega
    | (simp only [LaneKey, laneFld, R.IRQ_RAW_RAW, fld, hid, Kind.code, Blk.base, dev, BK.type]; omega)
    | exact portMembers_lt (by assumption) (by assumption)
    | (simp only [List.mem_cons, List.not_mem_nil, or_false] at *; omega)
    | simp only [↓lanes_mk]
    | split
    | dsimp only

theorem lanes_passRefresh {l : Nat}{z s : State} (hl : l < 8) (hk : SameLanes z s) : SameLanes z (passRefresh l s)
    := by
  unfold passRefresh
  repeat' with_reducible first
    | assumption
    | exact SameLanes.rfl'
    | apply lanes_ite
    | (refine lanes_range (fun i hi t ht => ?_) ?_)
    | (refine lanes_foldl (fun i hi t ht => ?_) ?_)
    | apply lanes_windowClear
    | apply lanes_set
    | apply lanes_setB
    | omega
    | (simp only [LaneKey, laneFld, R.IDEC_STAT_PASS, R.REQ_STAT_MLSE_ACTIVE, R.REQ_STAT_PASS2_ACTIVE, R.IRQ_RAW_RAW, fld, hid, Kind.code, Blk.base, dev, BK.type]; omega)
    | exact portMembers_lt (by assumption) (by assumption)
    | (simp only [List.mem_cons, List.not_mem_nil, or_false] at *; omega)
    | simp only [↓lanes_mk]
    | split
    | dsimp only

theorem lanes_amForget {h : Nat}{z s : State} (hk : SameLanes z s) : SameLanes z (amForget h s) := by
  unfold amForget
  repeat' with_reducible first
    | assumption
    | exact SameLanes.rfl'
    | apply lanes_ite
    | (refine lanes_range (fun i hi t ht => ?_) ?_)
    | (refine lanes_foldl (fun i hi t ht => ?_) ?_)
    | apply lanes_putHost
    | omega
    | (simp only [LaneKey, laneFld, R.IRQ_RAW_RAW, fld, hid, Kind.code, Blk.base, dev, BK.type]; omega)
    | exact portMembers_lt (by assumption) (by assumption)
    | (simp only [List.mem_cons, List.not_mem_nil, or_false] at *; omega)
    | simp only [↓lanes_mk]
    | split
    | dsimp only

theorem lanes_goDark {l : Nat}{z s : State} (hl : l < 8) (hk : SameLanes z s) : SameLanes z (goDark l s) := by
  unfold goDark
  repeat' with_reducible first
    | assumption
    | exact SameLanes.rfl'
    | apply lanes_ite
    | (refine lanes_range (fun i hi t ht => ?_) ?_)
    | (refine lanes_foldl (fun i hi t ht => ?_) ?_)
    | apply lanes_txStop
    | apply lanes_calLeave
    | apply lanes_capCause
    | apply lanes_setB
    | apply lanes_hostClockSlew
    | apply lanes_amForget
    | apply lanes_cwDrop
    | apply lanes_putRx
    | apply lanes_linkDown
    | apply lanes_sdSf
    | apply lanes_passRefresh
    | omega
    | (simp only [LaneKey, laneFld, R.LRX_STAT_LOS, R.LRX_STAT_LOS_RAW, R.LRX_STAT_ADC_READY, R.REQ_STAT_TR_LOCK, R.REQ_STAT_FROZEN, R.REQ_SNR_VALID, R.LFR_STAT_PILOT_LOCK, R.LFR_STAT_SCR_LOCK, R.LFR_STAT_RX_DIM, R.GBX_HOST_STAT_RX_AM_LOCK, R.IDEC_STAT_STOPPED, R.SHF_LANE_STATE_COAST_CANDLE, R.IRQ_RAW_RAW, fld, hid, Kind.code, Blk.base, dev, BK.type]; omega)
    | exact portMembers_lt (by assumption) (by assumption)
    | (simp only [List.mem_cons, List.not_mem_nil, or_false] at *; omega)
    | simp only [↓lanes_mk]
    | split
    | dsimp only

theorem lanes_dimPut {l : Nat} {d : DimPhase}{z s : State} (hl : l < 8) (hk : SameLanes z s) : SameLanes z (dimPut
    l d s) := by
  unfold dimPut
  repeat' with_reducible first
    | assumption
    | exact SameLanes.rfl'
    | apply lanes_ite
    | (refine lanes_range (fun i hi t ht => ?_) ?_)
    | (refine lanes_foldl (fun i hi t ht => ?_) ?_)
    | apply lanes_calDiscardDac
    | apply lanes_putTx
    | apply lanes_setB
    | omega
    | (simp only [LaneKey, laneFld, R.SHF_LANE_STATE_TX_DIM, R.LFR_STAT_TX_MARK, R.IRQ_RAW_RAW, fld, hid, Kind.code, Blk.base, dev, BK.type]; omega)
    | exact portMembers_lt (by assumption) (by assumption)
    | (simp only [List.mem_cons, List.not_mem_nil, or_false] at *; omega)
    | simp only [↓lanes_mk]
    | split
    | dsimp only

theorem lanes_clearLocks {l : Nat}{z s : State} (hl : l < 8) (hk : SameLanes z s) : SameLanes z (clearLocks l s) := by
  unfold clearLocks
  repeat' with_reducible first
    | assumption
    | exact SameLanes.rfl'
    | apply lanes_ite
    | (refine lanes_range (fun i hi t ht => ?_) ?_)
    | (refine lanes_foldl (fun i hi t ht => ?_) ?_)
    | apply lanes_change
    | apply lanes_hostClockSlew
    | apply lanes_setB
    | apply lanes_capCause
    | omega
    | (simp only [LaneKey, laneFld, R.REQ_STAT_TR_LOCK, R.REQ_STAT_FFE_CONV, R.REQ_STAT_MLSE_CONV, R.LRX_STAT_AGC_DONE, R.LFR_STAT_PILOT_LOCK, R.LFR_STAT_SCR_LOCK, R.IRQ_RAW_RAW, fld, hid, Kind.code, Blk.base, dev, BK.type]; omega)
    | exact portMembers_lt (by assumption) (by assumption)
    | (simp only [List.mem_cons, List.not_mem_nil, or_false] at *; omega)
    | simp only [↓lanes_mk]
    | split
    | dsimp only

theorem lanes_leaveRxDim {l : Nat}{z s : State} (hl : l < 8) (hk : SameLanes z s) : SameLanes z (leaveRxDim l s) := by
  unfold leaveRxDim
  repeat' with_reducible first
    | assumption
    | exact SameLanes.rfl'
    | apply lanes_ite
    | (refine lanes_range (fun i hi t ht => ?_) ?_)
    | (refine lanes_foldl (fun i hi t ht => ?_) ?_)
    | apply lanes_setB
    | apply lanes_irq
    | apply lanes_capCause
    | apply lanes_change
    | omega
    | (simp only [LaneKey, laneFld, R.LFR_STAT_RX_DIM, R.LRX_STAT_LOS_RAW, R.LRX_STAT_LOS, R.IRQ_RAW_RAW, fld, hid, Kind.code, Blk.base, dev, BK.type]; omega)
    | exact portMembers_lt (by assumption) (by assumption)
    | (simp only [List.mem_cons, List.not_mem_nil, or_false] at *; omega)
    | simp only [↓lanes_mk]
    | split
    | dsimp only

theorem lanes_gainPut {l : Nat} {f : Fld} {v : Nat} {z s : State} (hl : l < 8) (hf : ¬ LaneKey f.key)
    (hk : SameLanes z s) : SameLanes z (gainPut l f v s) :=
  lanes_ite hk (lanes_calDiscardAdc hl (lanes_set hf hk))

theorem lanes_forceValues {l : Nat}{z s : State} (hl : l < 8) (hk : SameLanes z s) : SameLanes z (forceValues l s)
    := by
  unfold forceValues
  repeat' with_reducible first
    | assumption
    | exact SameLanes.rfl'
    | apply lanes_ite
    | (refine lanes_range (fun i hi t ht => ?_) ?_)
    | (refine lanes_foldl (fun i hi t ht => ?_) ?_)
    | apply lanes_set
    | apply lanes_putRx
    | apply lanes_gainPut
    | omega
    | (simp only [LaneKey, laneFld, R.REQ_LVL_MEAN_MEAN, R.REQ_LVL_FORCE_MEAN, R.REQ_LVL_SIGMA_SIGMA, R.REQ_LVL_FORCE_SIGMA, R.REQ_SLICER_THR_T, R.LRX_GAIN_CTLE, R.LRX_AFE_CTRL_CTLE_FORCE, R.LRX_GAIN_VGA, R.LRX_AFE_CTRL_VGA_FORCE, R.IRQ_RAW_RAW, fld, hid, Kind.code, Blk.base, dev, BK.type]; omega)
    | exact portMembers_lt (by assumption) (by assumption)
    | (simp only [List.mem_cons, List.not_mem_nil, or_false] at *; omega)
    | simp only [↓lanes_mk]
    | split
    | dsimp only

theorem lanes_freezeApply {l : Nat}{z s : State} (hl : l < 8) (hk : SameLanes z s) : SameLanes z (freezeApply l s)
    := by
  unfold freezeApply
  repeat' with_reducible first
    | assumption
    | exact SameLanes.rfl'
    | apply lanes_ite
    | (refine lanes_range (fun i hi t ht => ?_) ?_)
    | (refine lanes_foldl (fun i hi t ht => ?_) ?_)
    | apply lanes_forceValues
    | apply lanes_putRx
    | omega
    | (simp only [LaneKey, laneFld, R.LRX_AFE_CTRL_AGC_TGT, R.IRQ_RAW_RAW, fld, hid, Kind.code, Blk.base, dev, BK.type]; omega)
    | exact portMembers_lt (by assumption) (by assumption)
    | (simp only [List.mem_cons, List.not_mem_nil, or_false] at *; omega)
    | simp only [↓lanes_mk]
    | split
    | dsimp only

theorem lanes_echoReset {l : Nat}{z s : State} (hl : l < 8) (hk : SameLanes z s) : SameLanes z (echoReset l s) := by
  unfold echoReset
  repeat' with_reducible first
    | assumption
    | exact SameLanes.rfl'
    | apply lanes_ite
    | (refine lanes_range (fun i hi t ht => ?_) ?_)
    | (refine lanes_foldl (fun i hi t ht => ?_) ?_)
    | apply lanes_set
    | apply lanes_setB
    | omega
    | (simp only [LaneKey, laneFld, R.REQ_FFE_SET_ECHO_DELAY, R.REQ_FFE_SET_ECHO_EN, R.REQ_FFE_SET_ECHO_WEIGHT, R.IRQ_RAW_RAW, fld, hid, Kind.code, Blk.base, dev, BK.type]; omega)
    | exact portMembers_lt (by assumption) (by assumption)
    | (simp only [List.mem_cons, List.not_mem_nil, or_false] at *; omega)
    | simp only [↓lanes_mk]
    | split
    | dsimp only

theorem lanes_reachLoad {l : Nat}{z s : State} (hl : l < 8) (hk : SameLanes z s) : SameLanes z (reachLoad l s) := by
  unfold reachLoad
  repeat' with_reducible first
    | assumption
    | exact SameLanes.rfl'
    | apply lanes_ite
    | (refine lanes_range (fun i hi t ht => ?_) ?_)
    | (refine lanes_foldl (fun i hi t ht => ?_) ?_)
    | apply lanes_gainPut
    | apply lanes_set
    | apply lanes_echoReset
    | apply lanes_putRx
    | apply lanes_freezeApply
    | omega
    | (simp only [LaneKey, laneFld, R.LRX_GAIN_VGA, R.LRX_GAIN_CTLE, R.REQ_FFE_SET_MAIN, R.REQ_FFE_SET_TAP_COEF, R.REQ_TR_FREQ_FREQ, R.REQ_LVL_MEAN_MEAN, R.REQ_LVL_SIGMA_SIGMA, R.REQ_MLSE_TGT_H1, R.REQ_MLSE_TGT_H2, R.IRQ_RAW_RAW, fld, hid, Kind.code, Blk.base, dev, BK.type]; omega)
    | exact portMembers_lt (by assumption) (by assumption)
    | (simp only [List.mem_cons, List.not_mem_nil, or_false] at *; omega)
    | simp only [↓lanes_mk]
    | split
    | dsimp only

theorem lanes_cfgRefresh {z s : State} (hk : SameLanes z s) : SameLanes z (cfgRefresh s) := by
  unfold cfgRefresh
  repeat' with_reducible first
    | assumption
    | exact SameLanes.rfl'
    | apply lanes_ite
    | (refine lanes_range (fun i hi t ht => ?_) ?_)
    | (refine lanes_foldl (fun i hi t ht => ?_) ?_)
    | apply lanes_irq
    | apply lanes_setB
    | apply lanes_change
    | omega
    | (simp only [LaneKey, laneFld, R.GBX_HOST_STAT_CFG_ERR, R.GBX_OC_STAT_CW_LOCK, R.GBX_HOST_STAT_DESKEWED, R.IRQ_RAW_RAW, fld, hid, Kind.code, Blk.base, dev, BK.type]; omega)
    | exact portMembers_lt (by assumption) (by assumption)
    | (simp only [List.mem_cons, List.not_mem_nil, or_false] at *; omega)
    | simp only [↓lanes_mk]
    | split
    | dsimp only

theorem lanes_hostLeave {h : Nat}{z s : State} (hh : h < 16) (hk : SameLanes z s) : SameLanes z (hostLeave h s) := by
  unfold hostLeave
  repeat' with_reducible first
    | assumption
    | exact SameLanes.rfl'
    | apply lanes_ite
    | (refine lanes_range (fun i hi t ht => ?_) ?_)
    | (refine lanes_foldl (fun i hi t ht => ?_) ?_)
    | apply lanes_putHost
    | apply lanes_setB
    | omega
    | (simp only [LaneKey, laneFld, R.TXP_STAT_FILL, R.IRQ_RAW_RAW, fld, hid, Kind.code, Blk.base, dev, BK.type]; omega)
    | exact portMembers_lt (by assumption) (by assumption)
    | (simp only [List.mem_cons, List.not_mem_nil, or_false] at *; omega)
    | simp only [↓lanes_mk]
    | split
    | dsimp only

theorem lanes_amLose {h : Nat}{z s : State} (hh : h < 16) (hk : SameLanes z s) : SameLanes z (amLose h s) := by
  unfold amLose
  repeat' with_reducible first
    | assumption
    | exact SameLanes.rfl'
    | apply lanes_ite
    | (refine lanes_range (fun i hi t ht => ?_) ?_)
    | (refine lanes_foldl (fun i hi t ht => ?_) ?_)
    | apply lanes_change
    | apply lanes_hostLeave
    | apply lanes_putHost
    | omega
    | (simp only [LaneKey, laneFld, R.GBX_HOST_STAT_AM_LOCK, R.IRQ_RAW_RAW, fld, hid, Kind.code, Blk.base, dev, BK.type]; omega)
    | exact portMembers_lt (by assumption) (by assumption)
    | (simp only [List.mem_cons, List.not_mem_nil, or_false] at *; omega)
    | simp only [↓lanes_mk]
    | split
    | dsimp only

theorem lanes_trackLose {l : Nat}{z s : State} (hl : l < 8) (hk : SameLanes z s) : SameLanes z (trackLose l s) := by
  unfold trackLose
  repeat' with_reducible first
    | assumption
    | exact SameLanes.rfl'
    | apply lanes_ite
    | (refine lanes_range (fun i hi t ht => ?_) ?_)
    | (refine lanes_foldl (fun i hi t ht => ?_) ?_)
    | apply lanes_hostLeave
    | apply lanes_setB
    | omega
    | (simp only [LaneKey, laneFld, R.GBX_HOST_STAT_TX_TRACK, R.IRQ_RAW_RAW, fld, hid, Kind.code, Blk.base, dev, BK.type]; omega)
    | exact portMembers_lt (by assumption) (by assumption)
    | (simp only [List.mem_cons, List.not_mem_nil, or_false] at *; omega)
    | simp only [↓lanes_mk]
    | split
    | dsimp only

theorem lanes_timingRefresh {l : Nat}{z s : State} (hl : l < 8) (hk : SameLanes z s) : SameLanes z (timingRefresh l
    s) := by
  unfold timingRefresh
  repeat' with_reducible first
    | assumption
    | exact SameLanes.rfl'
    | apply lanes_ite
    | (refine lanes_range (fun i hi t ht => ?_) ?_)
    | (refine lanes_foldl (fun i hi t ht => ?_) ?_)
    | apply lanes_set
    | apply lanes_trackLose
    | omega
    | (simp only [LaneKey, laneFld, R.GBX_HOST_STAT_TIMING_LANE, R.IRQ_RAW_RAW, fld, hid, Kind.code, Blk.base, dev, BK.type]; omega)
    | exact portMembers_lt (by assumption) (by assumption)
    | (simp only [List.mem_cons, List.not_mem_nil, or_false] at *; omega)
    | simp only [↓lanes_mk]
    | split
    | dsimp only

theorem lanes_swapTake {l : Nat} {was : Bool}{z s : State} (hl : l < 8) (hk : SameLanes z s) : SameLanes z
    (swapTake l was s) := by
  unfold swapTake
  repeat' with_reducible first
    | assumption
    | exact SameLanes.rfl'
    | apply lanes_ite
    | (refine lanes_range (fun i hi t ht => ?_) ?_)
    | (refine lanes_foldl (fun i hi t ht => ?_) ?_)
    | apply lanes_set
    | apply lanes_change
    | apply lanes_amLose
    | omega
    | (simp only [LaneKey, laneFld, R.GBX_HOST_STAT_AM_LOCK, R.GBX_SKEW_HOLD, R.IRQ_RAW_RAW, fld, hid, Kind.code, Blk.base, dev, BK.type]; omega)
    | exact portMembers_lt (by assumption) (by assumption)
    | (simp only [List.mem_cons, List.not_mem_nil, or_false] at *; omega)
    | simp only [↓lanes_mk]
    | split
    | dsimp only

theorem lanes_goAcquire {l : Nat} {warm fresh : Bool}{z s : State} (hl : l < 8) (hk : SameLanes z s) : SameLanes z
    (goAcquire l warm fresh s) := by
  unfold goAcquire
  repeat' with_reducible first
    | assumption
    | exact SameLanes.rfl'
    | apply lanes_ite
    | (refine lanes_range (fun i hi t ht => ?_) ?_)
    | (refine lanes_foldl (fun i hi t ht => ?_) ?_)
    | apply lanes_clearLocks
    | apply lanes_leaveRxDim
    | apply lanes_calClearFg
    | apply lanes_calLeave
    | apply lanes_setB
    | apply lanes_putRx
    | apply lanes_swapTake
    | apply lanes_putTx
    | apply lanes_reachLoad
    | apply lanes_freezeApply
    | apply lanes_linkDown
    | apply lanes_sdSf
    | apply lanes_passRefresh
    | apply lanes_cfgRefresh
    | apply lanes_timingRefresh
    | omega
    | (simp only [LaneKey, laneFld, R.IDEC_STAT_STOPPED, R.REQ_SNR_VALID, R.REQ_STAT_FROZEN, R.SHF_LANE_STATE_COAST_CANDLE, R.REQ_CFG_REACH, R.LFR_CFG_RX_PRECODE, R.GBX_HOST_CFG_MUX, R.GBX_HOST_CFG_TX_SWAP, R.GBX_HOST_CFG_RX_SWAP, R.LFR_CFG_TX_PRECODE, R.IRQ_RAW_RAW, fld, hid, Kind.code, Blk.base, dev, BK.type]; omega)
    | exact portMembers_lt (by assumption) (by assumption)
    | (simp only [List.mem_cons, List.not_mem_nil, or_false] at *; omega)
    | simp only [↓lanes_mk]
    | split
    | dsimp only

theorem lanes_calEnter {l : Nat}{z s : State} (hk : SameLanes z s) : SameLanes z (calEnter l s) := by
  unfold calEnter
  repeat' with_reducible first
    | assumption
    | exact SameLanes.rfl'
    | apply lanes_ite
    | (refine lanes_range (fun i hi t ht => ?_) ?_)
    | (refine lanes_foldl (fun i hi t ht => ?_) ?_)
    | apply lanes_putCal
    | omega
    | (simp only [LaneKey, laneFld, R.IRQ_RAW_RAW, fld, hid, Kind.code, Blk.base, dev, BK.type]; omega)
    | exact portMembers_lt (by assumption) (by assumption)
    | (simp only [List.mem_cons, List.not_mem_nil, or_false] at *; omega)
    | simp only [↓lanes_mk]
    | split
    | dsimp only

theorem lanes_goActive {l old new : Nat}{z s : State} (hl : l < 8) (hk : SameLanes z s) : SameLanes z (goActive l
    old new s) := by
  unfold goActive
  repeat' with_reducible first
    | assumption
    | exact SameLanes.rfl'
    | apply lanes_ite
    | (refine lanes_range (fun i hi t ht => ?_) ?_)
    | (refine lanes_foldl (fun i hi t ht => ?_) ?_)
    | apply lanes_calLeave
    | apply lanes_setB
    | apply lanes_irq
    | apply lanes_leaveRxDim
    | apply lanes_change
    | apply lanes_putRx
    | apply lanes_freezeApply
    | apply lanes_calEnter
    | apply lanes_passRefresh
    | omega
    | (simp only [LaneKey, laneFld, R.SHF_LANE_STATE_COAST_CANDLE, R.REQ_STAT_FROZEN, R.LFR_STAT_RX_DIM, R.REQ_SNR_VALID, R.LRX_STAT_LOS, R.IRQ_RAW_RAW, fld, hid, Kind.code, Blk.base, dev, BK.type]; omega)
    | exact portMembers_lt (by assumption) (by assumption)
    | (simp only [List.mem_cons, List.not_mem_nil, or_false] at *; omega)
    | simp only [↓lanes_mk]
    | split
    | dsimp only

theorem lanes_beginStop {l : Nat}{z s : State} (hk : SameLanes z s) : SameLanes z (beginStop l s) := by
  unfold beginStop
  repeat' with_reducible first
    | assumption
    | exact SameLanes.rfl'
    | apply lanes_ite
    | (refine lanes_range (fun i hi t ht => ?_) ?_)
    | (refine lanes_foldl (fun i hi t ht => ?_) ?_)
    | apply lanes_putLp
    | omega
    | (simp only [LaneKey, laneFld, R.IRQ_RAW_RAW, fld, hid, Kind.code, Blk.base, dev, BK.type]; omega)
    | exact portMembers_lt (by assumption) (by assumption)
    | (simp only [List.mem_cons, List.not_mem_nil, or_false] at *; omega)
    | simp only [↓lanes_mk]
    | split
    | dsimp only

theorem lanes_trainStart {h : Nat}{z s : State} (hh : h < 16) (hk : SameLanes z s) : SameLanes z (trainStart h s)
    := by
  unfold trainStart
  repeat' with_reducible first
    | assumption
    | exact SameLanes.rfl'
    | apply lanes_ite
    | (refine lanes_range (fun i hi t ht => ?_) ?_)
    | (refine lanes_foldl (fun i hi t ht => ?_) ?_)
    | apply lanes_amLose
    | apply lanes_putHost
    | apply lanes_set
    | omega
    | (simp only [LaneKey, laneFld, R.HSD_TRAIN_EN, R.HSD_TRAIN_STATE, R.HSD_PRBS_CFG_GEN, R.IRQ_RAW_RAW, fld, hid, Kind.code, Blk.base, dev, BK.type]; omega)
    | exact portMembers_lt (by assumption) (by assumption)
    | (simp only [List.mem_cons, List.not_mem_nil, or_false] at *; omega)
    | simp only [↓lanes_mk]
    | split
    | dsimp only

theorem lanes_cdrDrop {h : Nat}{z s : State} (hh : h < 16) (hk : SameLanes z s) : SameLanes z (cdrDrop h s) := by
  unfold cdrDrop
  repeat' with_reducible first
    | assumption
    | exact SameLanes.rfl'
    | apply lanes_ite
    | (refine lanes_range (fun i hi t ht => ?_) ?_)
    | (refine lanes_foldl (fun i hi t ht => ?_) ?_)
    | apply lanes_change
    | apply lanes_setB
    | apply lanes_timingRefresh
    | apply lanes_amLose
    | omega
    | (simp only [LaneKey, laneFld, R.HSD_STAT_CDR_LOCK, R.HSD_STAT_RX_EQ_DONE, R.IRQ_RAW_RAW, fld, hid, Kind.code, Blk.base, dev, BK.type]; omega)
    | exact portMembers_lt (by assumption) (by assumption)
    | (simp only [List.mem_cons, List.not_mem_nil, or_false] at *; omega)
    | simp only [↓lanes_mk]
    | split
    | dsimp only

theorem lanes_slicePut {sh n : Nat} {retired : Bool}{z s : State} (hn : n < 16) (hk : SameLanes z s) : SameLanes z
    (slicePut sh n retired s) := by
  unfold slicePut
  repeat' with_reducible first
    | assumption
    | exact SameLanes.rfl'
    | apply lanes_ite
    | (refine lanes_range (fun i hi t ht => ?_) ?_)
    | (refine lanes_foldl (fun i hi t ht => ?_) ?_)
    | apply lanes_setB
    | apply lanes_irq
    | apply lanes_event
    | omega
    | (simp only [LaneKey, laneFld, R.SHF_SLICE_MAP_RETIRED, R.IRQ_RAW_RAW, fld, hid, Kind.code, Blk.base, dev, BK.type]; omega)
    | exact portMembers_lt (by assumption) (by assumption)
    | (simp only [List.mem_cons, List.not_mem_nil, or_false] at *; omega)
    | simp only [↓lanes_mk]
    | split
    | dsimp only

theorem lanes_spareRefresh {sh : Nat}{z s : State} (hk : SameLanes z s) : SameLanes z (spareRefresh sh s) := by
  unfold spareRefresh
  repeat' with_reducible first
    | assumption
    | exact SameLanes.rfl'
    | apply lanes_ite
    | (refine lanes_range (fun i hi t ht => ?_) ?_)
    | (refine lanes_foldl (fun i hi t ht => ?_) ?_)
    | apply lanes_setB
    | omega
    | (simp only [LaneKey, laneFld, R.SHF_SLICE_MAP_SPARE_USED, R.SHF_SLICE_MAP_LANE_SLICE, R.IRQ_RAW_RAW, fld, hid, Kind.code, Blk.base, dev, BK.type]; omega)
    | exact portMembers_lt (by assumption) (by assumption)
    | (simp only [List.mem_cons, List.not_mem_nil, or_false] at *; omega)
    | simp only [↓lanes_mk]
    | split
    | dsimp only

theorem lanes_sliceCounters {l : Nat} {z s : State} (hl : l < 8) (hk : SameLanes z s) :
    SameLanes z (sliceCounters l s) := by
  unfold sliceCounters
  refine lanes_foldl (fun j hj t ht => ?_) (lanes_foldl (fun f hf t ht => lanes_set ?_ ht) hk)
  · refine lanes_range (fun n hn u hu => lanes_set ?_ hu) (lanes_foldl (fun f hf u hu => lanes_set ?_ hu) ht)
    · simp only [LaneKey, R.GBX_OC_HIST_COUNT, fld, Kind.code]; omega
    · simp only [List.mem_cons, List.not_mem_nil, or_false] at hf
      rcases hf with rfl | rfl | rfl | rfl | rfl <;>
        simp only [LaneKey, R.GBX_OC_CW_COUNT, R.GBX_OC_CORR_CW_COUNT, R.GBX_OC_UNCORR_CW_COUNT, R.GBX_OC_SYM_COUNT,
          R.GBX_OC_LANE_SYM_COUNT, fld, Kind.code] <;> omega
  · simp only [List.mem_cons, List.not_mem_nil, or_false] at hf
    rcases hf with rfl | rfl | rfl | rfl | rfl | rfl | rfl | rfl | rfl | rfl | rfl | rfl | rfl <;>
      simp only [LaneKey, R.LFR_PILOT_BAD_COUNT, R.LFR_SFC_MISS_COUNT, R.IDEC_CW_COUNT, R.IDEC_CORR_BITS_COUNT,
        R.IDEC_UNCORR_COUNT, R.IDEC_P2_RUN_COUNT, R.IDEC_P2_SKIP_COUNT, R.IDEC_P2_RESCUE_COUNT, R.IDEC_WIN_CORR_COUNT,
        R.IDEC_WIN_UNCORR_COUNT, R.IDEC_WIN_STAT_VALID, R.GBX_SLIP_CNT_COUNT, R.TXP_SAT_CNT_COUNT, fld, Kind.code] <;>
      omega

theorem lanes_capNote {l : Nat}{z s : State} (hk : SameLanes z s) : SameLanes z (capNote l s) := by
  unfold capNote
  repeat' with_reducible first
    | assumption
    | exact SameLanes.rfl'
    | apply lanes_ite
    | (refine lanes_range (fun i hi t ht => ?_) ?_)
    | (refine lanes_foldl (fun i hi t ht => ?_) ?_)
    | apply lanes_putCap
    | apply lanes_set
    | omega
    | (simp only [LaneKey, laneFld, R.CAP_STAT_STATE, R.IRQ_RAW_RAW, fld, hid, Kind.code, Blk.base, dev, BK.type]; omega)
    | exact portMembers_lt (by assumption) (by assumption)
    | (simp only [List.mem_cons, List.not_mem_nil, or_false] at *; omega)
    | simp only [↓lanes_mk]
    | split
    | dsimp only

theorem lanes_fsAtOnce {l : Nat}{z s : State} (hl : l < 8) (hk : SameLanes z s) : SameLanes z (fsAtOnce l s) := by
  unfold fsAtOnce
  repeat' with_reducible first
    | assumption
    | exact SameLanes.rfl'
    | apply lanes_ite
    | (refine lanes_range (fun i hi t ht => ?_) ?_)
    | (refine lanes_foldl (fun i hi t ht => ?_) ?_)
    | apply lanes_putTx
    | apply lanes_setB
    | omega
    | (simp only [LaneKey, laneFld, R.LTX_CFG_FS, R.LTX_STAT_FS_RAMP, R.IRQ_RAW_RAW, fld, hid, Kind.code, Blk.base, dev, BK.type]; omega)
    | exact portMembers_lt (by assumption) (by assumption)
    | (simp only [List.mem_cons, List.not_mem_nil, or_false] at *; omega)
    | simp only [↓lanes_mk]
    | split
    | dsimp only

theorem lanes_shapeFrame {l : Nat} {symbols : List (Option Nat)}{z s : State} (hl : l < 8) (hk : SameLanes z s) :
    SameLanes z (shapeFrame l symbols s) := by
  unfold shapeFrame
  repeat' with_reducible first
    | assumption
    | exact SameLanes.rfl'
    | apply lanes_ite
    | (refine lanes_range (fun i hi t ht => ?_) ?_)
    | (refine lanes_foldl (fun i hi t ht => ?_) ?_)
    | apply lanes_putTx
    | apply lanes_satInc
    | apply lanes_irq
    | omega
    | (simp only [LaneKey, laneFld, R.TXP_SAT_CNT_COUNT, R.IRQ_RAW_RAW, fld, hid, Kind.code, Blk.base, dev, BK.type]; omega)
    | exact portMembers_lt (by assumption) (by assumption)
    | (simp only [List.mem_cons, List.not_mem_nil, or_false] at *; omega)
    | simp only [↓lanes_mk]
    | split
    | dsimp only

theorem lanes_flushLine {l : Nat}{z s : State} (hl : l < 8) (hk : SameLanes z s) : SameLanes z (flushLine l s) := by
  unfold flushLine
  repeat' with_reducible first
    | assumption
    | exact SameLanes.rfl'
    | apply lanes_ite
    | (refine lanes_range (fun i hi t ht => ?_) ?_)
    | (refine lanes_foldl (fun i hi t ht => ?_) ?_)
    | apply lanes_shapeFrame
    | apply lanes_putTx
    | omega
    | (simp only [LaneKey, laneFld, R.IRQ_RAW_RAW, fld, hid, Kind.code, Blk.base, dev, BK.type]; omega)
    | exact portMembers_lt (by assumption) (by assumption)
    | (simp only [List.mem_cons, List.not_mem_nil, or_false] at *; omega)
    | simp only [↓lanes_mk]
    | split
    | dsimp only

theorem lanes_txHold {l : Nat} {h : TxHold}{z s : State} (hl : l < 8) (hk : SameLanes z s) : SameLanes z (txHold l
    h s) := by
  unfold txHold
  repeat' with_reducible first
    | assumption
    | exact SameLanes.rfl'
    | apply lanes_ite
    | (refine lanes_range (fun i hi t ht => ?_) ?_)
    | (refine lanes_foldl (fun i hi t ht => ?_) ?_)
    | apply lanes_calDiscardDac
    | apply lanes_flushLine
    | apply lanes_dimPut
    | apply lanes_putTx
    | apply lanes_fsAtOnce
    | apply lanes_setB
    | omega
    | (simp only [LaneKey, laneFld, R.LTX_STAT_SWING, R.TXP_STAT_FILL, R.IRQ_RAW_RAW, fld, hid, Kind.code, Blk.base, dev, BK.type]; omega)
    | exact portMembers_lt (by assumption) (by assumption)
    | (simp only [List.mem_cons, List.not_mem_nil, or_false] at *; omega)
    | simp only [↓lanes_mk]
    | split
    | dsimp only

theorem lanes_pilotDrop {l : Nat}{z s : State} (hl : l < 8) (hk : SameLanes z s) : SameLanes z (pilotDrop l s) := by
  unfold pilotDrop
  repeat' with_reducible first
    | assumption
    | exact SameLanes.rfl'
    | apply lanes_ite
    | (refine lanes_range (fun i hi t ht => ?_) ?_)
    | (refine lanes_foldl (fun i hi t ht => ?_) ?_)
    | apply lanes_capCause
    | apply lanes_change
    | apply lanes_calDiscardAdc
    | apply lanes_linkDown
    | apply lanes_passRefresh
    | apply lanes_putRx
    | omega
    | (simp only [LaneKey, laneFld, R.LFR_STAT_PILOT_LOCK, R.LFR_STAT_SCR_LOCK, R.IRQ_RAW_RAW, fld, hid, Kind.code, Blk.base, dev, BK.type]; omega)
    | exact portMembers_lt (by assumption) (by assumption)
    | (simp only [List.mem_cons, List.not_mem_nil, or_false] at *; omega)
    | simp only [↓lanes_mk]
    | split
    | dsimp only


end Sys2Proof.Machine
end

