-- ==== Sys2Proof/Laws/LaneViews.lean ====
section
/-!
SUPPORT. What the operations that change a lane's state leave in the views of the lanes.
-/

namespace Sys2Proof.Machine

open Sys2Proof

theorem SameLanes.view {s t : State} (h : SameLanes s t) {l : Nat} (hl : l < 8) : t.laneView l = s.laneView l := by
  unfold State.laneView State.laneCode State.laneEn State.getB State.rate State.mode State.slice
  rw [h.get, h.get, h.get, h.get, h.get, h.get]
  all_goals
    simp only [LaneKey, laneFld, R.SHF_LANE_STATE_STATE, R.SHF_LANE_FAULT_CAUSE, R.SHF_LANE_CFG_EN, R.SHF_LANE_CFG_RATE,
      R.SHF_LANE_CFG_MODE, R.SHF_SLICE_MAP_LANE_SLICE, fld, Kind.code]
    omega

/-- A field of lane l's view in lane m's view. -/
theorem view_set {s : State} {f : Nat → Nat → Fld} {l m v : Nat}
    (hf : f ∈ [R.SHF_LANE_STATE_STATE, R.SHF_LANE_FAULT_CAUSE, R.SHF_LANE_CFG_EN, R.SHF_LANE_CFG_RATE,
      R.SHF_LANE_CFG_MODE, R.SHF_SLICE_MAP_LANE_SLICE]) (h : m ≠ l) :
    (s.set (laneFld f l) v).laneView m = s.laneView m := by
  unfold State.laneView State.laneCode State.laneEn State.getB State.rate State.mode State.slice
  simp only [List.mem_cons, List.not_mem_nil, or_false] at hf
  rcases hf with rfl | rfl | rfl | rfl | rfl | rfl <;>
    (rw [State.get_set_ne, State.get_set_ne, State.get_set_ne, State.get_set_ne, State.get_set_ne, State.get_set_ne]) <;>
    simp only [laneFld, R.SHF_LANE_STATE_STATE, R.SHF_LANE_FAULT_CAUSE, R.SHF_LANE_CFG_EN, R.SHF_LANE_CFG_RATE,
      R.SHF_LANE_CFG_MODE, R.SHF_SLICE_MAP_LANE_SLICE, fld, Kind.code] <;> omega

theorem view_code {s : State} {l v : Nat} (hv : v < 16) :
    (s.set (laneFld R.SHF_LANE_STATE_STATE l) v).laneView l = { s.laneView l with code := v } := by
  unfold State.laneView State.laneCode State.laneEn State.getB State.rate State.mode State.slice
  have h : (s.set (laneFld R.SHF_LANE_STATE_STATE l) v).get (R.SHF_LANE_STATE_STATE (l / 4) (l % 4)) = v := by
    rw [show R.SHF_LANE_STATE_STATE (l / 4) (l % 4) = laneFld R.SHF_LANE_STATE_STATE l from rfl, State.get_set_same]
    exact Nat.mod_eq_of_lt hv
  rw [h, State.get_set_ne, State.get_set_ne, State.get_set_ne, State.get_set_ne, State.get_set_ne] <;>
    simp only [laneFld, R.SHF_LANE_STATE_STATE, R.SHF_LANE_FAULT_CAUSE, R.SHF_LANE_CFG_EN, R.SHF_LANE_CFG_RATE,
      R.SHF_LANE_CFG_MODE, R.SHF_SLICE_MAP_LANE_SLICE, fld, Kind.code] <;> omega

theorem view_cause {s : State} {l v : Nat} (hv : v < 16) :
    (s.set (laneFld R.SHF_LANE_FAULT_CAUSE l) v).laneView l = { s.laneView l with cause := v } := by
  unfold State.laneView State.laneCode State.laneEn State.getB State.rate State.mode State.slice
  have h : (s.set (laneFld R.SHF_LANE_FAULT_CAUSE l) v).get (laneFld R.SHF_LANE_FAULT_CAUSE l) = v := by
    rw [State.get_set_same]
    exact Nat.mod_eq_of_lt hv
  rw [h, State.get_set_ne, State.get_set_ne, State.get_set_ne, State.get_set_ne, State.get_set_ne] <;>
    simp only [laneFld, R.SHF_LANE_STATE_STATE, R.SHF_LANE_FAULT_CAUSE, R.SHF_LANE_CFG_EN, R.SHF_LANE_CFG_RATE,
      R.SHF_LANE_CFG_MODE, R.SHF_SLICE_MAP_LANE_SLICE, fld, Kind.code] <;> omega

/-- The view of lane m after lane l is seen otherwise. -/
theorem OnlyLane.same {s t u : State} {l : Nat} {v : LaneView} (hl : l < 8) (h : OnlyLane s t l v) (k : SameLanes t u) :
    OnlyLane s u l v :=
  ⟨(k.view hl).trans h.1, fun m hm hn => (k.view hm).trans (h.2 m hm hn)⟩

theorem OnlyLane.after {s t u : State} {l : Nat} {v : LaneView} (k : SameLanes s t) (h : OnlyLane t u l v) :
    OnlyLane s u l v :=
  ⟨h.1, fun m hm hn => (h.2 m hm hn).trans (k.view hm)⟩

theorem OnlyLane.trans {s t u : State} {l : Nat} {v w : LaneView} (h : OnlyLane s t l v) (k : OnlyLane t u l w) :
    OnlyLane s u l w :=
  ⟨k.1, fun m hm hn => (k.2 m hm hn).trans (h.2 m hm hn)⟩

theorem SameLanes.only {s t : State} {l : Nat} (hl : l < 8) (h : SameLanes s t) : OnlyLane s t l (s.laneView l) :=
  ⟨h.view hl, fun _ hm _ => h.view hm⟩

theorem setLaneCode_view {s : State} {l new cause : Nat} (hl : l < 8) (hn : new < 16) :
    OnlyLane s (setLaneCode l new cause s) l { s.laneView l with code := new } := by
  have h : OnlyLane s (s.set (laneFld R.SHF_LANE_STATE_STATE l) new) l { s.laneView l with code := new } :=
    ⟨view_code hn, fun m _ hm => view_set (by simp) hm⟩
  unfold setLaneCode
  dsimp only
  split
  · exact h
  · exact h.same hl (lanes_event (lanes_irq (by omega) SameLanes.rfl'))

/-- An entry to a state shows in that lane's code and cause alone (R29, R31). -/
theorem enterState_view {s : State} {l new cause : Nat} {fresh : Bool} (hl : l < 8) (hn : new < 16) (hc : cause < 16) :
    OnlyLane s (enterState l new cause fresh s) l
      { s.laneView l with code := new, cause := if new = 6 then cause else 0 } := by
  unfold enterState
  extract_lets old a b c d
  have ha : OnlyLane s a l { s.laneView l with code := new } := setLaneCode_view hl hn
  have hb : OnlyLane s b l { s.laneView l with code := new, cause := if new = 6 then cause else 0 } := by
    refine ⟨?_, fun m hm hne => (view_set (by simp) hne).trans (ha.2 m hm hne)⟩
    have hv : (if new = 6 then cause else 0) < 16 := by split <;> omega
    show (a.set (laneFld R.SHF_LANE_FAULT_CAUSE l) _).laneView l = _
    rw [view_cause hv, ha.1]
  have hc : SameLanes b c := lanes_ite (lanes_freezeApply hl SameLanes.rfl') SameLanes.rfl'
  have hd : SameLanes b d := by
    refine lanes_ite (lanes_putStamp (lanes_set ?_ hc)) hc
    simp only [LaneKey, R.LFR_TX_SFC_COUNT, fld, Kind.code]
    omega
  clear_value a b c d
  refine hb.same hl (lanes_capNote (lanes_autoRaise ?_))
  refine lanes_ite (lanes_calClearFg hl (lanes_goDark hl hd)) (lanes_ite ?_ (lanes_ite ?_ ?_))
  · exact lanes_goDark hl (lanes_irq (by omega) hd)
  · exact lanes_goAcquire hl hd
  · exact lanes_goActive hl hd

theorem lanes_plWait {z s : State} {l : Nat} {v : Bool} (h : SameLanes z s) :
    SameLanes z (s.setB (laneFld R.SHF_LANE_STATE_PL_WAIT l) v) := by
  refine lanes_setB ?_ h
  simp only [LaneKey, laneFld, R.SHF_LANE_STATE_PL_WAIT, fld, Kind.code]
  omega

/-- A lane that is not in OFF passes into OFF (R27, R32). -/
theorem toOff_view {s : State} {l : Nat} (hl : l < 8) (h0 : s.laneCode l ≠ 0) :
    OnlyLane s (toOff l s) l { s.laneView l with code := 0, cause := 0 } := by
  unfold toOff
  rw [if_neg h0]
  have h := enterState_view (s := s) (new := 0) (cause := 0) (fresh := false) hl (by omega) (by omega)
  exact h.same hl (lanes_beginStop SameLanes.rfl')

/-- A lane passes into FAULT with a cause, unless a cause that precedes it holds it there (R29). -/
theorem toFault_view {s : State} {l cause : Nat} (hl : l < 8) (hc : cause < 16)
    (h : ¬ (s.laneCode l = 6 ∧ s.get (laneFld R.SHF_LANE_FAULT_CAUSE l) ≤ cause)) :
    OnlyLane s (toFault l cause s) l { s.laneView l with code := 6, cause := cause } := by
  unfold toFault
  rw [if_neg (by simpa using h)]
  exact (enterState_view hl (by omega) hc).same hl (lanes_plWait SameLanes.rfl')

theorem lanes_putMsg {z s : State} (c : CalDev) (h : SameLanes z s) : SameLanes z { s with calDev := c } := h.regs rfl

/-- A lane leaves OFF for ACQUIRE (R27). -/
theorem startLane_view {s : State} {l : Nat} (hl : l < 8) :
    OnlyLane s (startLane l s) l { s.laneView l with code := 1, cause := 0 } := by
  unfold startLane
  extract_lets a b p c d q r k f
  have ha : SameLanes s a := lanes_plWait SameLanes.rfl'
  have hb : OnlyLane s b l { s.laneView l with code := 1, cause := 0 } := by
    have h1 : OnlyLane a b l { a.laneView l with code := 1, cause := 0 } := enterState_view hl (by omega) (by omega)
    rw [ha.view hl] at h1
    exact h1.after ha
  clear_value b
  have hc : SameLanes b c := lanes_putLp SameLanes.rfl'
  have hr : SameLanes b r := lanes_putRx (hc.regs rfl)
  have hf : SameLanes b f := lanes_ite (lanes_putMsg _ hr) hr
  exact hb.same hl (lanes_trainStart (by omega) (lanes_trainStart (by omega) hf))


theorem holdCause_lt (s : State) : holdCause s < 16 := by
  unfold holdCause
  split <;> decide

/-- A lane in OFF looks at its causes of FAULT (R29). -/
theorem considerStart_view {s : State} {l : Nat} (hl : l < 8) :
    OnlyLane s (considerStart l s) l ((s.laneView l).considered s l) := by
  have h6 : s.laneCode l = 0 → ∀ c, ¬ (s.laneCode l = 6 ∧ s.get (laneFld R.SHF_LANE_FAULT_CAUSE l) ≤ c) := by
    intro h c
    omega
  have hv : (s.laneView l).code = s.laneCode l := rfl
  unfold considerStart LaneView.considered
  rw [hv]
  by_cases h0 : s.laneCode l = 0
  · by_cases ho : s.heldOff l = true
    · have a1 : (s.laneCode l != 0 || s.heldOff l) = true := by simp [ho]
      have a2 : (decide (s.laneCode l ≠ 0) || s.heldOff l) = true := by simp [ho]
      rw [if_pos a1, if_pos a2]
      exact SameLanes.rfl'.only hl
    · have a1 : ¬ (s.laneCode l != 0 || s.heldOff l) = true := by simp [h0, ho]
      have a2 : ¬ (decide (s.laneCode l ≠ 0) || s.heldOff l) = true := by simp [h0, ho]
      rw [if_neg a1, if_neg a2]
      by_cases c1 : s.held = true
      · rw [if_pos c1, if_pos c1]
        exact toFault_view hl (holdCause_lt s) (h6 h0 _)
      · rw [if_neg c1, if_neg c1]
        have e1 : (s.laneView l).en = s.laneEn l := rfl
        have e2 : (s.laneView l).slice = s.slice l := rfl
        rw [e1, e2]
        by_cases c2 : (!s.laneEn l) = true
        · rw [if_pos c2, if_pos c2]
          exact SameLanes.rfl'.only hl
        · rw [if_neg c2, if_neg c2]
          by_cases c3 : s.slice l = 7
          · rw [if_pos c3, if_pos c3]
            exact toFault_view hl (by omega) (h6 h0 _)
          · rw [if_neg c3, if_neg c3]
            by_cases c4 : s.converterFailed l = true
            · rw [if_pos c4, if_pos c4]
              exact toFault_view hl (by omega) (h6 h0 _)
            · rw [if_neg c4, if_neg c4]
              exact (lanes_plWait SameLanes.rfl').only hl
  · have a1 : (s.laneCode l != 0 || s.heldOff l) = true := by simp [h0]
    have a2 : (decide (s.laneCode l ≠ 0) || s.heldOff l) = true := by simp [h0]
    rw [if_pos a1, if_pos a2]
    exact SameLanes.rfl'.only hl

/-- What a lane's causes of FAULT rest on beside its view. -/
def SameHolds (s t : State) : Prop :=
  (∀ l, l < 8 → t.heldOff l = s.heldOff l) ∧ t.held = s.held ∧ holdCause t = holdCause s ∧
    ∀ l, l < 8 → t.converterFailed l = s.converterFailed l

theorem considered_congr {s t : State} (h : SameHolds s t) (v : LaneView) {l : Nat} (hl : l < 8) :
    v.considered t l = v.considered s l := by
  unfold LaneView.considered
  rw [h.1 l hl, h.2.1, h.2.2.1, h.2.2.2 l hl]

theorem SameHolds.rfl' {s : State} : SameHolds s s := ⟨fun _ _ => rfl, rfl, rfl, fun _ _ => rfl⟩

theorem SameHolds.trans {s t u : State} (h : SameHolds s t) (k : SameHolds t u) : SameHolds s u :=
  ⟨fun l hl => (k.1 l hl).trans (h.1 l hl), k.2.1.trans h.2.1, k.2.2.1.trans h.2.2.1,
   fun l hl => (k.2.2.2 l hl).trans (h.2.2.2 l hl)⟩

/-- A field outside the resets, the rails, the holds and the marks of a failed converter. -/
def FreeOfHolds (k : Nat) : Prop :=
  k / 256 ≠ 0x30040 ∧ k ≠ R.PWR_RAIL_STAT_ON_VBAK.key ∧ k ≠ R.RST_STAT_HOLD_THERMAL.key ∧
    k ≠ R.RST_STAT_HOLD_LOCKDOWN.key ∧ k / 256 < 2 ^ 36

theorem SameHolds.set {s t : State} (f : Fld) (v : Nat) (hf : FreeOfHolds f.key) (h : SameHolds s t) :
    SameHolds s (t.set f v) := by
  obtain ⟨h1, h2, h3, h4, h5⟩ := hf
  refine h.trans ⟨fun l hl => ?_, ?_, ?_, fun l hl => ?_⟩
  · unfold State.heldOff State.sheafReset State.getB
    rw [State.get_set_ne _ _ h2, State.get_set_ne]
    · rfl
    · intro he
      refine h1 ?_
      rw [he]
      simp only [R.RST_CTRL_SHEAF, fld, Kind.code]
      omega
  · unfold State.held State.getB
    rw [State.get_set_ne _ _ h3, State.get_set_ne _ _ h4]
    rfl
  · unfold holdCause State.getB
    rw [State.get_set_ne _ _ h3]
  · unfold State.converterFailed State.failed State.getB
    rw [State.get_set_ne, State.get_set_ne]
    all_goals
      intro he
      rw [he] at h5
      simp only [R.BLK_FAILED_FLAG, fld, hid, Kind.code] at h5
      omega

theorem SameHolds.regs {s t u : State} (h : SameHolds s t) (hr : u.regs = t.regs) (hs : u.resets = t.resets)
    (hp : u.pwr = t.pwr) : SameHolds s u := by
  have hg : ∀ f, u.get f = t.get f := fun f => by unfold State.get; rw [hr]
  refine h.trans ⟨fun l _ => ?_, ?_, ?_, fun l _ => ?_⟩
  · unfold State.heldOff State.sheafReset State.getB State.coldAsserted
    rw [hg, hg, hs]
  · unfold State.held State.getB
    rw [hg, hg, hp]
  · unfold holdCause State.getB
    rw [hg]
  · unfold State.converterFailed State.failed State.getB
    rw [hg, hg]

end Sys2Proof.Machine
end

