-- ==== Sys2Proof/Tests/Slice0.lean ====
section
/-!
SUPPORT. The model's own tests: the spec's worked examples, one small step of each family of commands, and for each
statement with hypotheses a state and operands that meet them.
-/

namespace Sys2Proof.Tests

open Sys2Proof Sys2Proof.Machine

set_option Elab.async false

/-! ### Building small states -/

/-- The state after reset with COLD released, no event waiting and fields set. -/
def put (fs : List (Fld × Nat)) : State :=
  fs.foldl (fun s f => s.set f.1 f.2)
    { State.reset with
      resets := { State.reset.resets with supply := false, waiting := false }
      evQueue := [] }

/-- In service at the highest level (R402, R372), with fields set. -/
def serve (fs : List (Fld × Nat)) : State :=
  put ([(R.RST_STAT_PHASE, 8), (R.PWR_PL_STAT_LEVEL, 3), (R.SHF_PLL_STAT_LINE_LOCK 0, 1), (R.SHF_PLL_STAT_HOST_LOCK 0, 1)] ++ fs)

/-- In service with line lane 0 enabled and in a state (R26), with fields set. -/
def lane0 (code : Nat) (fs : List (Fld × Nat)) : State :=
  serve ([(R.SHF_LANE_CFG_EN 0 0, 1), (R.SHF_LANE_STATE_STATE 0 0, code), (R.SHF_LANE_CFG_MODE 0 0, 2)] ++ fs)

/-- Whether a command runs to a next state of which `p` holds. -/
def runs (c : Instr) (s : State) (p : State → Bool) : Bool :=
  match exec c s with
  | .next t => p t
  | _ => false

/-- Whether a command ends in the fault of a block that the device has not. -/
def noTarget (c : Instr) (s : State) : Bool :=
  match exec c s with
  | .fault .noSuchTarget => true
  | _ => false

/-- The word that SPI reads at an address. -/
def word (a : Nat) (s : State) : Nat := (wordRead .spi a s).2.2

/-- Whether a field reads a value after SPI has written a word in the state. -/
def writes (a v : Word) (s : State) (fs : List (Fld × Nat)) : Bool :=
  runs (.registerWrite .spi false a v) s fun t => fs.all fun f => t.get f.1 == f.2

/-! ### Ill-formed commands -/

theorem test_wf_block : Instr.wf (.blockEnable ⟨.cap, 2⟩) = false := by decide +kernel
theorem test_wf_domain : Instr.wf (.domainWakeDone (.lane 8)) = false := by decide +kernel
theorem test_wf_sheaf_domain : Instr.wf (.wakeHoldExpiry (.sheaf 2)) = false := by decide +kernel
theorem test_wf_empty_write : Instr.wf (.write .spi 0 [] 0) = false := by decide +kernel
theorem test_wf_long_write : Instr.wf (.write .i3c 0 (List.replicate 65 0) 0) = false := by decide +kernel
theorem test_wf_owner_write : Instr.wf (.writeOwner .spi 0 [] 0) = false := by decide +kernel
theorem test_wf_pilots : Instr.wf (.rxPilotField 0 0 ⟨[], [], 0⟩) = false := by decide +kernel
theorem test_wf_update : Instr.wf (.rxSuperframeUpdate 0 ⟨⟨[], 0, 0⟩, 0, 0, 0, [], []⟩) = false := by decide +kernel
theorem test_wf_pass : Instr.wf (.calWindowEnd 0 (.pass [])) = false := by decide +kernel
theorem test_wf_codeword : Instr.wf (.ocCodeword 0 0 (List.replicate 544 1024) (List.replicate 544 0)) = false := by
  decide +kernel
theorem test_wf_carriers : Instr.wf (.ocCodeword 0 0 (List.replicate 544 0) (List.replicate 544 16)) = false := by
  decide +kernel
theorem test_wf_frame : Instr.wf (.idecFrame 0 0 ⟨[0], 0, 0⟩) = false := by decide +kernel
theorem test_wf_host_bits : Instr.wf (.txFrame 0 [] (List.replicate 2721 true)) = false := by decide +kernel
theorem test_wf_fir : Instr.wf (.txAdaptStep 0 (List.replicate 8 0) []) = false := by decide +kernel
theorem test_wf_host_ffe : Instr.wf (.hostRxEqDone 0 0 0 []) = false := by decide +kernel
theorem test_wf_positions : Instr.wf (.capDone 0 (List.replicate 5 (0, 0, false, 0)) []) = false := by decide +kernel
theorem test_wf_cell : Instr.wf (.faostCell 0 (List.replicate 35 0)) = false := by decide +kernel
theorem test_wf_cell_byte : Instr.wf (.faostCell 0 (List.replicate 36 256)) = false := by decide +kernel
theorem test_wf_report : Instr.wf (.levelReportSend 0 []) = false := by decide +kernel
theorem test_wf_period : Instr.wf (.timeClockChange 0) = false := by decide +kernel
theorem test_wf_sensors : Instr.wf (.thmSample [] []) = false := by decide +kernel
theorem test_wf_march : Instr.wf (.marchDone [(0, [2 ^ 100])]) = false := by decide +kernel
theorem test_wf_opcode : Instr.wf (.unknownOpcode .spi [0x02, 0, 0]) = false ∧ Instr.wf (.unknownOpcode .spi [0xFF, 0]) = false := by
  decide +kernel
theorem test_wf_startup : Instr.wf (.startupPhaseDone ⟨[], false, 0, [10], [], [], 0⟩) = false ∧
    Instr.wf (.startupPhaseDone ⟨[], false, 0, [], [], [], 2⟩) = false := by decide +kernel
theorem test_wf_ok : Instr.wf (.blockEnable ⟨.cap, 1⟩) = true ∧ Instr.wf (.write .spi 0 [1] 0) = true := by
  decide +kernel

/-! ### Addresses and register layout: the spec's examples -/

/-- The example of 00_scope.md, Names and numbering. -/
theorem test_block_bases : (⟨.hsd, 12⟩ : Blk).base = 0x030C0000 ∧ (⟨.req, 5⟩ : Blk).base = 0x02510000 ∧
    (⟨.shf, 1⟩ : Blk).base = 0x01100000 := by decide
/-- The example of 01_architecture.md: slice 1 of sheaf 1 has failed, and the spare takes line lane 5. -/
theorem test_slice_map : word 0x01100060 (serve [(R.SHF_SLICE_MAP_LANE_SLICE 1 1, 4), (R.SHF_SLICE_MAP_RETIRED 1 1, 1),
    (R.SHF_SLICE_MAP_SPARE_USED 1, 1)]) = 0x01023240 := by decide +kernel
/-- The same example: lane 6 in FAULT without a slice. -/
theorem test_no_slice : runs (.laneEnable 6) (serve [(R.SHF_SLICE_MAP_LANE_SLICE 1 2, 7)]) (fun t =>
    t.laneCode 6 == 6 && word 0x01100054 t / 256 % 16 == 3) = true := by decide +kernel
/-- The example of 03_line_receive.md: CAP_CFG of CAP[1]. -/
theorem test_cap_cfg : writes 0x01110040 0x8000020C (serve []) [(R.CAP_CFG_LANE_MASK 1 2, 1), (R.CAP_CFG_LANE_MASK 1 1, 0),
    (R.CAP_CFG_TRIG 1, 2), (R.CAP_CFG_PRE 1, 0x80)] = true := by decide +kernel
/-- The example of 10_optics_control_io.md: the configuration of chain 2. -/
theorem test_mfil_cfg : writes 0x000B0180 0x07003005 (serve []) [(R.MFIL_CFG_MA_LEN 2, 7), (R.MFIL_CFG_INPUT 2, 3),
    (R.MFIL_CFG_DIV 2, 1), (R.MFIL_CFG_EN 2, 1)] = true := by decide +kernel
/-- The same example: comparator 0 of chain 2. -/
theorem test_mfil_lim : writes 0x000B01A0 0x10000105 (serve []) [(R.MFIL_LIM_CFG_HYST 2 0, 0x100),
    (R.MFIL_LIM_CFG_LDIS 2 0, 1), (R.MFIL_LIM_CFG_CNT 2 0, 1), (R.MFIL_LIM_CFG_EN 2 0, 1)] = true := by decide +kernel
/-- The example of 13_reset_and_startup.md: RST_CAUSE after a power-up with RESET_N held, and its clearing. -/
theorem test_rst_cause : word 0x00030044 (serve [(R.RST_CAUSE_POR, 1), (R.RST_CAUSE_COLD_SUPPLY, 1), (R.RST_CAUSE_PIN, 1)])
    = 0xB ∧ writes 0x00030044 0xB (serve [(R.RST_CAUSE_POR, 1), (R.RST_CAUSE_PIN, 1)])
      [(R.RST_CAUSE_POR, 0), (R.RST_CAUSE_PIN, 0)] = true := by decide +kernel
/-- The example of 12_power_and_supplies.md: PWR_PL_CFG raises the floor to PL3. -/
theorem test_pl_cfg : runs (.plCfgWrite 0x00000313) (serve []) (fun t => t.get R.PWR_PL_CFG_REQ == 3 &&
    t.getB R.PWR_PL_CFG_AUTO && t.get R.PWR_PL_CFG_MIN == 3) = true := by decide +kernel
/-- The example of 08_lantern_time.md: 1,700,000,000 s and 123,456,789 156/256 ns in the reported layout. -/
theorem test_reported_time : reportedTime (1700000000 * secondUnits + 123456789 * 65536 + 156 * 256) false
    = 0x5BCD159C + 0x54FC4007 * 2 ^ 32 + 0x19 * 2 ^ 64 := by decide
/-- The example of 08_lantern_time.md: the bin of 47.31 °C and where its entry of epoch 5 lies. -/
theorem test_osc_bin : oscBin (4731 * 2 ^ 24 / 100) = some 2182 ∧ oscAddr 5 2182 - oscAddr 0 0 = 0x2C430 := by decide
/-- An address that is not a multiple of 4 is refused (R4). -/
theorem test_misaligned : (wordRead .spi 0x01100062 (serve [])).2.1 = .errAddr := by decide +kernel

/-! ### The line frame: the encoded example of 02_keporus_line_frame.md -/

/-- Frame 0 with SFC 0x2D and no data, after a symbol at level 2: positions 0 to 16. -/
def exampleFrame (precoded : Bool) : List Nat :=
  (frameLevels ⟨0, false, 0x2D, List.replicate 2720 0, true, precoded⟩ (some 2) (scramblerSeed 0x2D)).1

theorem test_frame_start : (exampleFrame false).take 17 = [0, 3, 0, 3, 3, 0, 0, 3, 0, 0, 3, 2, 1, 0, 3, 2, 1] := by
  decide +kernel
theorem test_frame_block1 : ((exampleFrame false).drop 42).take 25
    = [2, 1, 0, 3, 0, 0, 0, 0, 0, 0, 0, 0, 0, 0, 0, 0, 0, 0, 0, 0, 0, 1, 1, 3, 2] := by decide +kernel
theorem test_frame_precoded : ((exampleFrame true).drop 9).take 10 = [0, 3, 3, 2, 2, 1, 1, 0, 2, 0] ∧
    ((exampleFrame true).drop 43).take 4 = [1, 3, 0, 3] ∧ ((exampleFrame true).drop 63).take 4 = [1, 0, 3, 3] := by
  decide +kernel
/-- Data bit 67 raises position 47 from level 0 to level 3. -/
theorem test_frame_bit67 : (frameLevels ⟨0, false, 0x2D, (List.replicate 2720 0).set 67 1, true, false⟩ (some 2)
    (scramblerSeed 0x2D)).1.getD 47 9 = 3 := by decide +kernel
/-- The example of 05_line_transmit.md: 108.75 less 2.5 rounds to 106. -/
theorem test_dac_code : dacCode ⟨[0, -16, 216, -32, 0, 0, 0], 2, 40, (List.replicate 64 0).set 15 (-10)⟩
    [none, none, none, none, none, some 0, some 3, some 3, none, none, none, none, none] = some 106 := by decide +kernel

/-! ### Receive and error correction -/

/-- The example of 03_line_receive.md: 21.81 dB. -/
theorem test_snr : snrTenths (20480 * 256 / 16 * 16) (135 * 256 / 16 * 16) = some 218 := by decide +kernel
theorem test_snr_sums : (snrSums [-1536, -512, 512, 1536] [96, 80, 80, 112]).1 * 135
    = (snrSums [-1536, -512, 512, 1536] [96, 80, 80, 112]).2 * 20480 := by decide +kernel
/-- The same example, measured: means −96, −32, 32 and 96, sigmas 6, 5, 5 and 7 codes. -/
theorem test_meas_window : runs (.measWindowEnd 0 0 0) (let s := lane0 3 [(R.LRX_STAT_ADC_READY 0, 1)]
    s.putRx 0 { s.rx 0 with measured := 64, levels := [⟨1, -96, (6 * 16384) ^ 2⟩, ⟨1, -32, (5 * 16384) ^ 2⟩,
      ⟨1, 32, (5 * 16384) ^ 2⟩, ⟨1, 96, (7 * 16384) ^ 2⟩] }) (fun t => word 0x02010048 t == 0x000100DA) = true := by
  decide +kernel
/-- The cores of samples 0, 1, 95, 96 and 97 (R78). -/
theorem test_cores : [0, 1, 95, 96, 97].map coreOf = [0, 48, 95, 0, 48] ∧ subOf 97 = 1 := by decide
/-- The decision about a pilot lies at the midpoint of levels 0 and 3 (R44). -/
theorem test_pilot_decision : pilotDecision [-1536, -512, 512, 1536] 1 = 1 ∧ pilotDecision [-1536, -512, 512, 1536] 0 = 0 ∧
    pilotDecision [-1504, -512, 512, 1568] 2 = 0 := by decide
/-- A transition stuff symbol differs from the symbol before it by at least two levels (R94). -/
theorem test_stuff_branch : branchAllowed .stuff 3 1 = true ∧ branchAllowed .stuff 2 1 = false := by decide
/-- λ is the difference of the metrics in steps of 0.5, saturated at ±15.5 (R95). -/
theorem test_soft_value : softValue (some (3 * 2 ^ 24)) (some 0) = 6 ∧ softValue (some 0) (some (2 ^ 30)) = -31 := by
  decide
/-- The example of 04_fec_chain.md: the thresholds at the reset values. -/
theorem test_thresholds : threshold 1 3 14 = 11978933 ∧ threshold 4 3 14 = 47915729 := by decide +kernel
theorem test_sd_reset : threshold (State.reset.get (R.IDEC_SD_CFG_SET_M 0)) (State.reset.get (R.IDEC_SD_CFG_SET_E 0))
    (State.reset.get (R.IDEC_SD_CFG_WIN 0)) = 11978933 ∧
    threshold (State.reset.get (R.IDEC_SD_CFG_CLR_M 0)) (State.reset.get (R.IDEC_SD_CFG_CLR_E 0))
    (State.reset.get (R.IDEC_SD_CFG_WIN 0)) = 5989467 := by decide +kernel

/-! ### Lanes -/

/-- An enabled lane in OFF leaves it for ACQUIRE, with its Stub event (R27, R31). -/
theorem test_lane_start : runs (.laneStart 0) (lane0 0 []) (fun t => t.laneCode 0 == 1 && t.evQueue.length == 1) = false ∧
    runs (.laneStart 0) (lane0 0 [(R.BLK_STAT_STATE ⟨.shf, 0⟩, 2)]) (fun t => t.laneCode 0 == 1 && t.laneCode 1 == 0)
      = true := by decide +kernel
theorem test_lane_disable : runs (.laneDisable 0) (lane0 3 []) (fun t => t.laneCode 0 == 0 && !t.laneEn 0) = true := by
  decide +kernel
/-- A FAULT of a hold stays whatever EN (R29). -/
theorem test_fault_held : runs (.laneDisable 0) (lane0 6 [(R.SHF_LANE_FAULT_CAUSE 0 0, 1)]) (fun t => t.laneCode 0 == 6)
    = true := by decide +kernel
theorem test_fault_left : runs (.laneDisable 0) (lane0 6 [(R.SHF_LANE_FAULT_CAUSE 0 0, 4)]) (fun t => t.laneCode 0 == 0)
    = true := by decide +kernel
/-- RATE = 230 GBd needs PL3: at PL2 the lane waits in OFF (R22, R25). -/
theorem test_rate_waits : runs (.rateChange 0 false) (lane0 3 [(R.PWR_PL_STAT_LEVEL, 2), (R.SHF_LANE_CFG_RATE 0 0, 1)])
    (fun t => t.laneCode 0 == 0 && t.getB (R.SHF_LANE_STATE_PL_WAIT 0 0)) = true := by decide +kernel
theorem test_mode_reserved : runs (.modeChange 0 3) (lane0 3 []) (fun t => t.laneCode 0 == 3 && t.mode 0 == 2 &&
    t.getB (R.BLK_STAT_CONFLICT ⟨.shf, 0⟩)) = true := by decide +kernel
theorem test_converter : runs (.converterFailed 0 .ltx) (lane0 3 []) (fun t => t.laneCode 0 == 6 &&
    t.get (R.SHF_LANE_FAULT_CAUSE 0 0) == 4) = true := by decide +kernel
/-- A failed HSD takes only its own host lane (R14). -/
theorem test_converter_host : runs (.converterFailed 0 (.hsd true)) (lane0 3 []) (fun t => t.laneCode 0 == 3 &&
    t.failed ⟨.hsd, 1⟩ && !t.failed ⟨.hsd, 0⟩) = true := by decide +kernel
theorem test_pll_loss : runs (.pllLossOfLock 0 false) (lane0 3 []) (fun t => t.laneCode 0 == 1 &&
    t.getB (R.SHF_PLL_STAT_LINE_LOL 0) && !t.getB (R.SHF_PLL_STAT_LINE_LOCK 0)) = true := by decide +kernel

/-! ### Receive -/

/-- The frame-0 pilots 1011 0010 are good as they stand, and with two symbols inverted at the reset tolerance (R44). -/
theorem test_pilot_good : (pilotJudge 0 0 0x4D).1 = true ∧ (pilotJudge 0 0 0x4C).1 = false ∧
    (pilotJudge 2 0 0x4E).1 = true := by decide +kernel
theorem test_scr_lock : runs (.rxSfcReceived 0 0x2E) (lane0 1 [(R.LRX_STAT_ADC_READY 0, 1), (R.LFR_STAT_PILOT_LOCK 0, 1)])
    (fun t => !t.getB (R.LFR_STAT_SCR_LOCK 0)) = true := by decide +kernel
/-- LOS falls below LOS_THR and the lane acquires (R81). -/
theorem test_los : runs (.losSet 0 0) (let s := lane0 3 [(R.LRX_STAT_LOS_RAW 0, 0), (R.LRX_STAT_LOS 0, 0)]
    s.putRx 0 { s.rx 0 with detector := true }) (fun t => t.laneCode 0 == 1 && t.getB (R.LRX_STAT_LOS 0)) = true := by
  decide +kernel
theorem test_ffe_commit_coast : runs (.ffeCommit 0) (lane0 4 []) (fun t => t.getB (R.BLK_STAT_CONFLICT ⟨.req, 0⟩))
    = true := by decide +kernel
theorem test_cap_fill : runs (.capFill 0 .spi) (serve []) (fun t => t.get (R.CAP_STAT_STATE 0) == 6) = true := by
  decide +kernel
theorem test_cap_fill_done : runs (.capFillDone 0) (serve [(R.CAP_STAT_STATE 0, 6), (R.CAP_FILL_PAT_PAT 0, 7)]) (fun t =>
    t.get (R.CAP_STAT_STATE 0) == 0 && t.getB (R.IRQ_RAW_RAW ⟨.cap, 0⟩ 3)) = true := by decide +kernel

/-! ### Error correction -/

theorem test_idec_clr : runs (.idecClr 0) (lane0 3 [(R.IDEC_WIN_CORR_COUNT 0, 5)]) (fun t =>
    t.get (R.IDEC_WIN_CORR_COUNT 0) == 0) = true := by decide +kernel
theorem test_gbx_clr : runs (.gbxOcClr 0) (serve []) (fun t => t.pending.isEmpty) = true := by decide +kernel
/-- A codeword of zeros is a codeword of KIC-1428 (R56, R57). -/
theorem test_kic_zero : kicEncode (List.replicate 1360 0) = List.replicate 1428 0 := by decide +kernel

/-! ### Transmit and host interface -/

theorem test_squelch : runs (.squelchOn 0) (lane0 3 [(R.LTX_STAT_SWING 0, 1)]) (fun t => !t.getB (R.LTX_STAT_SWING 0) &&
    t.getB (R.LTX_CFG_SQUELCH 0)) = true := by decide +kernel
theorem test_fs_limit : runs (.fsWrite 0 25) (lane0 3 []) (fun t => t.getB (R.BLK_STAT_CONFLICT ⟨.ltx, 0⟩)) = true := by
  decide +kernel
theorem test_ldis : (serve []).ldisPin 0 = true ∧ runs (.ldisWrite 0 false false) (serve []) (fun t => !t.ldisPin 0) = true ∧
    State.reset.ldisPin 0 = true := by decide +kernel
theorem test_hsd_tx_eq : runs (.hsdTxEqWrite 3 0x20 0x20 0x20 1) (serve []) (fun t => t.getB (R.BLK_STAT_CONFLICT ⟨.hsd, 3⟩))
    = true := by decide +kernel
theorem test_port_w : runs (.portWWrite 2 5) (serve []) (fun t => t.getB (R.BLK_STAT_CONFLICT ⟨.gbx, 2⟩) && t.portW 2 == 1)
    = true := by decide +kernel
theorem test_prbs_chk : runs (.prbsChkSelect 3 3) (serve []) (fun t => t.getB (R.BLK_STAT_CONFLICT ⟨.hsd, 3⟩)) = true := by
  decide +kernel

/-! ### Gleaner -/

theorem test_rec_select : runs (.calRecSelect 3 0) (serve [(R.CAL_REC_RUNS 18, 2), (R.CAL_REC_L_STEP 18, 1),
    (R.CAL_REC_L_VALID 18, 1)]) (fun t => word 0x000900A4 t == 2 && word 0x000900B4 t == 0x00010001) = true := by
  decide +kernel
theorem test_rec_refused : runs (.calRecSelect 8 0) (serve []) (fun t => t.getB (R.BLK_STAT_CONFLICT ⟨.cal, 0⟩)) = true := by
  decide +kernel
theorem test_ref_anchor : runs .refAnchorTimeout (let s := serve [(R.CAL_STAT_ANCHOR_BUSY, 1)]
    { s with calDev := { s.calDev with anchor := 1 } }) (fun t => !t.getB R.CAL_STAT_ANCHOR_BUSY &&
      t.get (R.CAL_REC_X_DISCARD 48) == 1) = true := by decide +kernel

/-! ### Time -/

theorem test_step_idle : (match step (serve []) with
    | .next t => decide (0 < t.elapsed) && t.pending.isEmpty
    | _ => false) = true := by decide +kernel
/-- A STEP of 1,000 ns waits for the next tick (R240). -/
theorem test_step_waits : runs .timeStep (serve [(R.TIM_STEP_STEP, 1000 * 65536)]) (fun t => t.time == (serve []).time &&
    match step t with
    | .next u => decide ((serve []).time + 1000 * 2 ^ 48 ≤ u.time) && u.tim.waiting.isEmpty
    | _ => false) = true := by decide +kernel
theorem test_alarm_owner : runs (.alarmRelease 3 .spi) (serve [(R.TIM_ALM_CTRL_OWNER 3, 2), (R.TIM_ALM_CTRL_EN 3, 1)])
    (fun t => t.getB (R.TIM_ALM_CTRL_EN 3) && t.getB (R.BLK_STAT_CONFLICT ⟨.tim, 0⟩)) = true := by decide +kernel
theorem test_fine_ready : runs .fineReady (serve [(R.BLK_STAT_STATE ⟨.tim, 0⟩, 2)]) (fun t => t.getB R.TIM_STAT_FINE_READY) = true := by decide +kernel

/-! ### Faost -/

theorem test_crc16 : crc16 [0x31, 0x32, 0x33, 0x34, 0x35, 0x36, 0x37, 0x38, 0x39] = 0x29B1 := by decide +kernel
theorem test_rx_pop_empty : runs .rxPop (serve []) (fun t => t.get R.MSG_RX_STAT_COUNT == 0) = true := by decide +kernel

/-! ### Optics control -/

theorem test_cdac_fault : runs (.cdacFault 32) (serve [(R.CDAC_STAT_LOADED, 1), (R.CDAC_FV_CODE 32, 77),
    (R.CDAC_CH_STAT_STATE 32, 2)]) (fun t => t.get (R.CDAC_CH_STAT_STATE 32) == 4 &&
      t.getB (R.CDAC_CH_STAT_CAUSE_SOFT 32)) = true := by decide +kernel
theorem test_madc_ref : runs (.madcRefWrite true) (serve []) (fun t => !t.getB R.MADC_REF_SETTLED) = true := by
  decide +kernel

/-! ### Management access -/

/-- The CRC of a request: over the opcode, the address, LEN and the data, the most significant byte first (R340). -/
def spiCheck (a : Word) (data : List Word) : BitVec 16 :=
  BitVec.ofNat 16 (crc16 (requestBytes 2 a.toNat (data.length - 1) (data.map (·.toNat))))
/-- A transaction with a wrong CRC is answered so and does nothing (R340). -/
theorem test_crc : runs (.write .spi 0x01000040 [1] (spiCheck 0x01000040 [0])) (serve []) (fun t => !t.laneEn 0 && t.spi.queue.isEmpty)
    = true := by decide +kernel
theorem test_write_queued : runs (.write .spi 0x01110040 [0x8000020C] (spiCheck 0x01110040 [0x8000020C])) (serve []) (fun t => t.spi.queue.length == 1 &&
    t.get (R.CAP_CFG_PRE 1) == 0) = true := by decide +kernel
theorem test_expert : runs (.expertUnlock ⟨.req, 5⟩ .spi) (serve []) (fun t => !t.expert ⟨.req, 5⟩) = true := by
  decide +kernel
theorem test_no_block : noTarget (.expertArm ⟨.req, 8⟩ .spi) (serve []) = true := by decide +kernel
theorem test_dynamic_address : runs (.entdaa 0x2A) (serve []) (fun t => t.get R.MGT_PORT_STAT_DA == 0x2A &&
    t.getB R.MGT_PORT_STAT_DA_VALID) = true := by decide +kernel
theorem test_rstdaa : runs .rstdaa (serve [(R.MGT_PORT_STAT_DA_VALID, 1)]) (fun t => !t.getB R.MGT_PORT_STAT_DA_VALID)
    = true := by decide +kernel
theorem test_irq_force : runs (.irqForce ⟨.shf, 0⟩ 0x40) (serve []) (fun t => t.getB (R.IRQ_RAW_RAW ⟨.shf, 0⟩ 6) &&
    !t.getB (R.IRQ_RAW_RAW ⟨.shf, 0⟩ 5)) = true := by decide +kernel
theorem test_mbx_stopped : runs (.mbxSubmit 2 0x01 0 false) (serve []) (fun t => t.get (R.FWC_MBX_SLOT_STATE 2) == 0) = true := by
  decide +kernel
theorem test_gpio_refused : runs (.gpioCfgWrite .spi 4 0x1) (serve [(R.PIN_GPIO_CFG_OWNER 4, 2)]) (fun t =>
    t.get (R.PIN_GPIO_CFG_FUNC 4) == 0) = true := by decide +kernel

/-! ### Power, resets and start-up -/

theorem test_rail_uv : runs (.railUv .core) (serve []) (fun t => t.getB (R.PWR_RAIL_STAT_UV 0)) = true := by decide +kernel
theorem test_main_rail_lost : runs (.railLost .ana) (serve [(R.PWR_RAIL_STAT_OK 1, 1)]) (fun t => t.coldAsserted) = true := by
  decide +kernel
theorem test_reset_pin : runs .resetNAssert (serve []) (fun t => t.resets.pin && t.coldAsserted && t.getB R.RST_CAUSE_PIN)
    = true := by decide +kernel
theorem test_cold_lanes : runs .resetNAssert (lane0 3 []) (fun t => t.laneCode 0 == 0) = true := by decide +kernel
theorem test_sheaf_reset : runs (.sheaf 0 true) (lane0 3 []) (fun t => t.sheafReset 0 && t.laneCode 0 == 0 &&
    !t.sheafReset 1) = true := by decide +kernel
theorem test_warm : runs .warm (serve []) (fun t => t.resets.warm && t.inReset ⟨.fwc, 0⟩ && !t.coldAsserted) = true := by
  decide +kernel
theorem test_warm_end : runs (.resetPulseEnd .warm) { serve [] with resets := { (serve []).resets with warm := true } }
    (fun t => !t.resets.warm) = true := by decide +kernel

/-! ### Memory and self-test -/

/-- The example of 14_memory_and_selftest.md: the host sets bit 3, and firmware clears bit 0. -/
theorem test_bit_alias : runs (.scratchBitSet 0x100 8) ((serve []).putByte 0x08000100 1) (fun t =>
    t.memWord 0x08000100 == 9) = true ∧
    runs (.scratchBitClear 0x100 1) ((serve []).putByte 0x08000100 9) (fun t => t.memWord 0x08000100 == 8) = true := by
  decide +kernel
/-- The aliases answer a misaligned address as any access does, without effect (R4). -/
theorem test_bit_alias_misaligned : runs (.scratchBitSet 0x102 8) ((serve []).putByte 0x08000100 1) (fun t =>
    t.memWord 0x08000100 == 1) = true := by decide +kernel
theorem test_idec_throttled : word 0x02020044 (lane0 3 []) = 0 ∧
    word 0x02020044 (lane0 3 [(R.THM_STAT_THROTTLING, 1), (R.THM_THROTTLE_P2_PAUSE, 3)]) = 16 := by decide +kernel
theorem test_march_refused : runs (.marchStart 0xFF true .spi) (serve []) (fun t => t.getB (R.BLK_STAT_CONFLICT ⟨.mem, 0⟩))
    = true := by decide +kernel

/-! ### Thermal, counters and the Stub -/

/-- The example of 15_thermal_counters_stub.md: the third sample at 100.25 °C throttles, the second does not. -/
theorem test_throttle : (thmLevels 2 0x644 { serve [(R.THM_CFG_COMPAT, 1)] with
      thm := { State.reset.thm with throttleUp := 2 } }).getB R.THM_STAT_THROTTLE = true ∧
    (thmLevels 2 0x644 { serve [(R.THM_CFG_COMPAT, 1)] with
      thm := { State.reset.thm with throttleUp := 1 } }).getB R.THM_STAT_THROTTLE = false := by decide +kernel
/-- A sensor below −60 °C or above 170 °C is broken at once (R435). -/
theorem test_sensor_range : (List.range 4).map (thmOwnCause [-961, -960, 2720, 2721] (serve [])) = [1, 0, 0, 1] := by
  decide +kernel
theorem test_counter : (serve [(R.PMC_EVSEL_EN ⟨.req, 5⟩ 3, 1), (R.PMC_EVSEL_EVENT ⟨.req, 5⟩ 3, 0x21)]).count ⟨.req, 5⟩ 0x21 7
    |>.get (R.PMC_CNT_COUNT ⟨.req, 5⟩ 3) |> (· = 7) := by decide +kernel
theorem test_evr_log : runs (.evrLog 5) (serve [(R.EVR_LOG_DATA_DATA, 0x1234)]) (fun t =>
    (t.evQueue.map (·.data)).contains 0x1234 && t.evQueue.length == 1) = true := by decide +kernel

/-! ### Security -/

theorem test_sec_busy : runs (.nonce false) (serve [(R.SEC_CMD_STAT_STATE, 1)]) (fun t => t.getB (R.BLK_STAT_CONFLICT ⟨.sec, 0⟩))
    = true := by decide +kernel
theorem test_tamper : runs (.tamper 1) (serve []) (fun t => t.getB R.SEC_STAT_LOCKDOWN && t.get R.SEC_STAT_LD_CAUSE != 0)
    = true := by decide +kernel
theorem test_idle_session : runs .ownIdleTimeout (serve [(R.SEC_STAT_OWN_SESSION, 1)]) (fun t => !t.getB R.SEC_STAT_OWN_SESSION)
    = true := by decide +kernel
theorem test_refclk_loss : runs .refclkLoss (lane0 3 [(R.CLK_STAT_REF_OK, 1)]) (fun t => t.laneCode 0 == 1 &&
    !t.getB R.CLK_STAT_REF_OK) = true := by decide +kernel

/-! ### What the statements suppose is met somewhere -/

theorem witness_IdleTick : State.reset.pending = [] ∧ State.reset.tim.waiting = [] ∧ State.reset.tim.servoStep = none ∧
    State.reset.tim.srcOld = none ∧ State.reset.resets.por = false := ⟨rfl, rfl, rfl, rfl, rfl⟩
/-- A state with a register, a byte of memory and a command waiting. -/
def small : State :=
  { (serve [(R.EVR_LOG_DATA_DATA, 7)]).putByte 0x08000100 9 with pending := [.fineReady, .calSave] }
theorem witness_InvariantKept : small.Inv ∧ ∃ t, step small = .next t := by
  refine ⟨⟨?_, ?_, ?_⟩, _, rfl⟩ <;> decide +kernel
theorem witness_QueueKept : ∃ t, exec (.evrLog 3) small = .next t := ⟨_, rfl⟩
theorem witness_FieldWrites : (R.PWR_PL_CFG_MIN).key ≠ (R.PWR_PL_CFG_REQ).key ∧ small.regsOk = true := by decide +kernel
theorem witness_MemoryBytes : (0x08000104 : Nat) ≠ 0x08000100 ∧ Memory.wf small = true ∧ small.mem ≠ [] := by
  decide +kernel
theorem witness_EventQueue : small.evDropped = 0 ∧ small.evQueue.length ≤ 16 := by decide +kernel
/-- The queue's last free entry is taken and the next event dropped. -/
theorem witness_EventQueue_full :
    let e := small.now
    let x : StubEvent := { block := 0, inst := 0, code := 1, data := 0, time := e, power := 0, timeValid := false, lost := 0 }
    let t := settle { small with evQueue := List.replicate 15 x, raised := [x, x] }
    t.evQueue.length = 16 ∧ t.evDropped = 1 ∧
      (settle { small with evQueue := List.replicate 16 x, raised := [x] }).evDropped = 1 := by decide +kernel
theorem witness_MisalignedAccess : 0x01100062 % 4 ≠ 0 := by decide
theorem witness_ResetMasksSources : State.reset.inReset ⟨.shf, 0⟩ = true ∧ (serve []).inReset ⟨.shf, 0⟩ = false := by
  decide +kernel
theorem witness_ResetMasksSources_field : ¬ (R.IRQ_RAW_RAW ⟨.shf, 0⟩ 6).counter := by unfold Fld.counter; decide
/-- The last counter passes its end, and one below it does not. -/
theorem witness_CounterCarry : let b : Blk := ⟨.req, 5⟩
    let s := put [(R.PMC_CNT_COUNT b 7, 2 ^ 48 - 2), (R.PMC_PRELOAD_P b 7, 16)]
    (counterAdd s b 7 1).1.get (R.PMC_CNT_COUNT b 7) = 2 ^ 48 - 1 ∧
      (counterAdd s b 7 2).1.get (R.PMC_CNT_COUNT b 7) = 2 ^ 48 - 16 := by decide +kernel
theorem witness_GrayCode : ∃ i : FrameInput, i.scramble = true ∧ i.precoded = false :=
  ⟨⟨0, false, 0x2D, List.replicate 2720 0, true, false⟩, rfl, rfl⟩
/-- The pilot sequence at both ends of its recurrence and at its last bit. -/
theorem witness_PilotSequence : let p := fun n => (pilotBits (n / 8)).getD (n % 8) 0
    p 11 = (p 2 + p 0) % 2 ∧ p 2046 = (p 2037 + p 2035) % 2 ∧ p 2047 = 0 := by decide +kernel
/-- The scrambler at the ends of its four stretches. -/
theorem witness_ScramblerSequence : let b := fun n => scramblerSkip n (scramblerSeed 0x2D) % 2
    b 7 = 0 ∧ b 8 = 0 ∧ b 15 = 1 ∧ b 16 = 1 ∧ b 57 = 1 ∧ b 58 = (b 19 + b 0) % 2 ∧ b 66 = 1 := by decide +kernel
/-- Coded symbols 32 and 33 stand on both sides of the stuff symbol at position 46. -/
theorem witness_SymbolPositions : let x := placeBlocks 32 none ((List.range 1440).map (· + 10))
    x[45]? = some (10 + 12 + 32) ∧ x[47]? = some (10 + 12 + 33) ∧ x[1471]? = some (10 + 12 + 1427) := by decide +kernel
theorem witness_DegradeThreshold : 1 * windowBits 14 ≤ 11978933 * 10 ^ 3 ∧ ¬ 1 * windowBits 14 ≤ 11978932 * 10 ^ 3 := by
  decide +kernel
/-- A field at the next phase lengthens the run of good fields, across the end of the superframe too. -/
theorem witness_PilotRule : 0 = (255 + 1) % 256 ∧ (pilotRuns 0 true { (serve []).rx 0 with phase := 255, goodRun := 3 }).goodRun
    = 4 ∧ (pilotRuns 2 true { (serve []).rx 0 with phase := 255, goodRun := 3 }).goodRun = 1 := by decide +kernel
/-- The lane that starts, and one whose FFE has not converged. -/
theorem witness_LaneStates : (lane0 0 [(R.BLK_STAT_STATE ⟨.shf, 0⟩, 2)]).canStart 0 = true ∧ (lane0 3 []).canStart 0 = false := by
  decide +kernel

/-- State `s` with receiver 0 changed. -/
def onRx (s : State) (f : RxLane → RxLane) : State := s.putRx 0 (f (s.rx 0))

/-- TIM_SET at the last nanosecond of a second and beyond it; ticks with steps waiting, and with the servo's step alone. -/
theorem witness_StepsAtTick : bits ((serve [(R.TIM_SET_TIME, 999999999 * 2 ^ 16)]).get R.TIM_SET_TIME) 16 30 < 1000000000 ∧
    1000000000 ≤ bits ((serve [(R.TIM_SET_TIME, 1000000000 * 2 ^ 16)]).get R.TIM_SET_TIME) 16 30 ∧
    (serve []).pending = [] ∧ (serve []).resets.por = false ∧
    (let s := serve []
     let w : State := { s with tim := { s.tim with waiting := [.load (5 * 2 ^ 32), .add (-1)], servoStep := some 9 } }
     let v : State := { s with tim := { s.tim with servoStep := some 9 } }
     (match step w, step v with
      | .next t, .next u => t.tim.waiting.isEmpty && t.tim.servoStep.isNone && decide (t.time < 5 * 2 ^ 32 + 2 ^ 32)
          && decide (v.time < u.time)
      | _, _ => false) = true) := by decide +kernel

/-- LANE_CANDLE with every condition met, and with the level too low; LANE_FULL in a mode with and without the MLSE. -/
theorem witness_LaneStates_candle :
    let s := lane0 1 [(R.LFR_STAT_PILOT_LOCK 0, 1), (R.LFR_STAT_SCR_LOCK 0, 1), (R.REQ_STAT_FFE_CONV 0, 1),
      (R.REQ_STAT_TR_LOCK 0, 1), (R.FWC_STAT_RUNNING, 1)]
    let g (s : State) : Bool := decide (s.laneCode 0 = 1) && s.decoderRuns 0 && s.getB (R.REQ_STAT_FFE_CONV 0)
      && s.getB (R.REQ_STAT_TR_LOCK 0) && s.fwcRunning && s.levelOk 0
    g s = true ∧ g (s.set R.PWR_PL_STAT_LEVEL 2) = false := by decide +kernel
theorem witness_LaneStates_full :
    let s := lane0 2 [(R.REQ_STAT_FFE_CONV 0, 1), (R.CAL_LANE_STAT_FG_DONE 0, 1)]
    let g (s : State) : Bool := decide (s.laneCode 0 = 2) && s.getB (R.REQ_STAT_FFE_CONV 0)
      && (decide (s.mode 0 = 0) || s.getB (R.REQ_STAT_MLSE_CONV 0)) && s.foregroundDone 0
    g s = false ∧ g (s.set (R.SHF_LANE_CFG_MODE 0 0) 0) = true ∧ g (s.setB (R.REQ_STAT_MLSE_CONV 0) true) = true := by
  decide +kernel
/-- Four complemented fields enter DIM and three do not; DIM ends once the burst is seen. -/
theorem witness_LaneStates_dim :
    let g (s : State) : Bool := s.laneCode 0 == 3 && 4 ≤ (s.rx 0).complemented
    let e (s : State) : Bool := s.laneCode 0 == 5 && (s.rx 0).burstSeen
    g (onRx (lane0 3 []) ({ · with complemented := 4 })) = true ∧
    g (onRx (lane0 3 []) ({ · with complemented := 3 })) = false ∧
    e (onRx (lane0 5 []) ({ · with burstSeen := true })) = true ∧ e (lane0 5 []) = false := by decide +kernel
/-- Four bad fields in a row lose the pilots and three do not, in CANDLE and in DIM, but not in ACQUIRE. -/
theorem witness_LaneStates_pilots :
    let g (s : State) : Prop := s.getB (R.LFR_STAT_PILOT_LOCK 0) = true ∧ 4 ≤ (s.rx 0).badRun ∧ 2 ≤ s.laneCode 0 ∧
      s.laneCode 0 ≤ 5
    let at_ (code n : Nat) : State := onRx (lane0 code [(R.LFR_STAT_PILOT_LOCK 0, 1)]) ({ · with badRun := n })
    g (at_ 2 4) ∧ g (at_ 5 4) ∧ ¬ g (at_ 2 3) ∧ ¬ g (at_ 1 4) := by decide +kernel
/-- An amplitude just below the LOS threshold, and one at it; a PLL that is locked, with a lane of its sheaf up. -/
theorem witness_LaneStates_los :
    let s := onRx (lane0 3 [(R.LRX_STAT_LOS_RAW 0, 0), (R.SHF_LANE_CFG_EN 0 1, 1), (R.SHF_LANE_STATE_STATE 0 1, 2)])
      ({ · with detector := true })
    s.laneUp 0 = true ∧ (s.rx 0).detector = true ∧ s.getB (R.LRX_STAT_LOS_RAW 0) = false ∧
    s.getB (R.LFR_STAT_RX_DIM 0) = false ∧ 49 < 5 * s.get (R.LRX_CFG_LOS_THR 0) ∧ ¬ 50 < 5 * s.get (R.LRX_CFG_LOS_THR 0) ∧
    decodes (s.laneCode 0) = true ∧ s.getB (pllLockFld 0 true) = true ∧ s.laneUp 1 = true ∧ s.laneUp 2 = false := by
  decide +kernel
/-- A lane that is enabled and up, one that is up no longer, and one whose converter has failed; a free slice. -/
theorem witness_LaneControls : (lane0 3 []).laneUp 0 = true ∧ (lane0 6 [(R.SHF_LANE_FAULT_CAUSE 0 0, 2)]).laneUp 0 = false ∧
    (serve []).sliceFree 0 4 = true ∧ (serve []).sliceFree 0 0 = false ∧
    levelOfRate 0 ≤ (lane0 3 []).level ∧ ¬ levelOfRate 0 ≤ (lane0 3 [(R.PWR_PL_STAT_LEVEL, 2)]).level := by decide +kernel
theorem witness_LaneRecords : (onRx (serve []) ({ · with assistPending := true })).rx 0 |>.assistPending |> (· = true) :=
  rfl
theorem witness_LaneRecords_pll : (serve []).pllsRun 0 = true ∧ (serve [(R.RST_STAT_PHASE, 5)]).pllsRun 0 = true ∧
    (serve [(R.RST_STAT_PHASE, 4)]).pllsRun 0 = false ∧ (serve [(R.RST_STAT_PHASE, 9)]).pllsRun 0 = false := by
  decide +kernel

/-- The two levels at which LOS_RAW clears, in service and in DIM. -/
theorem witness_SignalAndConvergence_los :
    let s := onRx (lane0 3 [(R.LRX_STAT_LOS_RAW 0, 1)]) ({ · with detector := true })
    let g (s : State) (amp : Nat) : Bool := s.laneUp 0 && (s.rx 0).detector && s.getB (R.LRX_STAT_LOS_RAW 0)
      && (if s.getB (R.LFR_STAT_RX_DIM 0) = true then decide (5 * s.get (R.LRX_CFG_LOS_THR 0) < amp)
          else decide (25 * s.get (R.LRX_CFG_LOS_THR 0) < 4 * amp))
    let d := s.setB (R.LFR_STAT_RX_DIM 0) true
    g s 62 = false ∧ g s 63 = true ∧ g d 50 = false ∧ g d 51 = true ∧ d.getB (R.LFR_STAT_RX_DIM 0) = true ∧
    (let u := s.setB (R.LRX_STAT_LOS_RAW 0) false
     (u.laneUp 0 && (u.rx 0).detector && !u.getB (R.LRX_STAT_LOS_RAW 0)) = true) := by decide +kernel
theorem witness_SignalAndConvergence_runs :
    let a (n : Nat) : State := onRx (lane0 1 [(R.LRX_STAT_ADC_READY 0, 1)])
      ({ · with agcRun := n, ffeRun := n, mlseRun := n, snrTen := true })
    let g (s : State) : List Bool := [s.sampling 0 && decide (16 ≤ (s.rx 0).agcRun),
      loopsRun (s.laneCode 0) && decide (16 ≤ (s.rx 0).ffeRun) && (s.rx 0).snrTen,
      loopsRun (s.laneCode 0) && decide (64 ≤ (s.rx 0).mlseRun)]
    g (a 15) = [false, false, false] ∧ g (a 16) = [true, true, false] ∧ g (a 63) = [true, true, false] ∧
    g (a 64) = [true, true, true] := by decide +kernel

/-- Frames of each number of passes, with and without the pause, of a lane that samples. -/
theorem witness_FecChain :
    let s := lane0 3 [(R.LRX_STAT_ADC_READY 0, 1), (R.LFR_STAT_PILOT_LOCK 0, 1), (R.LFR_STAT_SCR_LOCK 0, 1)]
    let pass (s : State) : Nat := (idecSettings 0 s).get (R.IDEC_STAT_PASS 0)
    s.sampling 0 = true ∧ (LineSamples.size ⟨List.replicate 2606 0, 0, 0⟩) = 1472 ∧ s.get (R.IDEC_CW_COUNT 0) < 2 ^ 48 ∧
    [pass (s.set (R.LFR_STAT_SCR_LOCK 0) 0), pass (s.setB (R.IDEC_FORCE_HARD 0) true),
      pass (s.setB (R.IDEC_FORCE_P2_OFF 0) true), pass s] = [0, 1, 2, 3] ∧
    (let u := onRx s ({ · with pauseLeft := 1 })
     pass u = 3 ∧ 0 < ((idecSettings 0 u).rx 0).pauseLeft) ∧
    ((idecSettings 0 (s.setB (R.IDEC_CFG_P2_POLICY 0) true)).rx 0).failedOnly = true ∧
    (serve []).sampling 0 = false := by decide +kernel

/-- PATTERN_SELECT at its last code and beyond; a trip whose comparator is beyond its limit, and one whose is not. -/
theorem witness_TransmitSettings : ¬ 5 < (5 : BitVec 3).toNat ∧ 5 < (6 : BitVec 3).toNat ∧
    (serve [(R.MFIL_LIM_CFG_ACTIVE 2 1, 1), (R.MFIL_LIM_CFG_LDIS 2 1, 0x80)]).tripActive 7 = true ∧
    (serve [(R.MFIL_LIM_CFG_ACTIVE 2 1, 1), (R.MFIL_LIM_CFG_LDIS 2 1, 0x80)]).tripActive 6 = false := by decide +kernel

/-- The amplitude at which a host lane's LOS clears, and the conditions of each end of a training. -/
theorem witness_HostStatus :
    let s := lane0 3 [(R.HSD_CFG_EN 0, 1), (R.HSD_TRAIN_STATE 0, 1), (R.HSD_STAT_RX_EQ_DONE 0, 1), (R.HSD_TRAIN_TIMEOUT 0, 2),
      (R.GBX_HOST_STAT_TIMING_LANE 0, 1), (R.HSD_PRBS_CFG_CHK 0, 1)]
    (s.hostActive 0 && decide (80 < 81)) = true ∧ (s.hostActive 0 && decide (80 < 80)) = false ∧
    (decide (s.get (R.HSD_TRAIN_STATE 0) = 1) && s.getB (R.HSD_STAT_RX_EQ_DONE 0)) = true ∧
    (decide (s.get (R.HSD_TRAIN_STATE 0) = 1) && s.get (R.HSD_TRAIN_TIMEOUT 0) != 3) = true ∧
    ((s.set (R.HSD_TRAIN_TIMEOUT 0) 3).get (R.HSD_TRAIN_TIMEOUT 0) != 3) = false ∧
    (s.get (R.GBX_HOST_STAT_TIMING_LANE 0) != 0) = true ∧
    (s.get (R.HSD_PRBS_CFG_CHK 0) != 0 && !s.getB (R.HSD_PRBS_STAT_LOCK 0)) = true ∧
    (s.setB (R.HSD_PRBS_STAT_LOCK 0) true).getB (R.HSD_PRBS_STAT_LOCK 0) = true ∧
    (let w (n : Nat) : State := s.putHost 0 { s.host 0 with asked := some (1, true), repeats := n }
     ((w 2).host 0).asked ≠ none ∧ ((w 2).host 0).repeats < 3 ∧ ¬ ((w 3).host 0).repeats < 3) ∧
    (s.host 0).asked = none ∧ tapsOk 16 16 16 = true ∧ tapsOk 16 16 17 = false := by decide +kernel

theorem witness_TimeStatus :
    let s := serve [(R.BLK_STAT_STATE (dev .tim), 2), (R.TIM_CFG_TREF_FREQ, 1), (R.TIM_STAT_TREF_OK, 1),
      (R.TIM_ALM_CTRL_OWNER 31, 1)]
    s.timOn = true ∧ (s.set R.PWR_STATE_STATE 1).timOn = true ∧ (s.set R.PWR_STATE_STATE 2).timOn = false ∧
    (s.get R.TIM_CFG_TREF_FREQ != 0) = true ∧ (s.get R.TIM_CFG_TREF_FREQ != 1) = false ∧ s.getB R.TIM_STAT_TREF_OK = true ∧
    s.get (R.TIM_ALM_CTRL_OWNER 31) = Requester.code .spi ∧ s.get (R.TIM_ALM_CTRL_OWNER 31) ≠ Requester.code .i3c := by
  decide +kernel
theorem witness_BusSettings : (serve []).portUp = true ∧ (serve [(R.RST_STAT_PHASE, 1)]).portUp = false ∧
    (serve [(R.RST_STAT_PHASE, 2)]).portUp = true ∧ State.reset.portUp = false := by decide +kernel
/-- VDD_DAC is the last rail with an under-voltage bit; a level handshake in which a block defers; the three cases of
REFCLK. -/
theorem witness_SupplyStatus :
    let s := serve [(R.PWR_RAIL_STAT_OK 5, 1), (R.CLK_STAT_REF_OK, 0), (R.CLK_STAT_BACKUP, 1)]
    (s.power == 0 && !s.coldAsserted && decide (Rail.index .dac < 4)) = true ∧ ¬ Rail.index .vio < 4 ∧
    (s.set R.PWR_STATE_STATE 1).power ≠ 0 ∧ s.getB (R.PWR_RAIL_STAT_OK 5) = true ∧
    (let h : State := { s with pwr := { s.pwr with stateStage := 1, deferring := [4] } }
     (h.handshake && h.pwr.deferring.contains 4) = true ∧ (h.handshake && h.pwr.deferring.contains 5) = false) ∧
    (s.getB R.CLK_STAT_REF_OK || s.coldAsserted) = false ∧ s.getB R.CLK_STAT_BACKUP = true ∧
    (s.setB R.CLK_STAT_BACKUP false).getB R.CLK_STAT_BACKUP = false ∧
    ((s.setB R.CLK_STAT_REF_OK true).getB R.CLK_STAT_REF_OK || s.coldAsserted) = true := by decide +kernel
theorem witness_DeviceMarks :
    let s := serve [(R.MADC_REF_EN, 1), (R.MADC_REF_SETTLED, 0), (R.MEM_MARCH_STAT_STATE, 1), (R.MFIL_LIM_CFG_ACTIVE 7 1, 1)]
    (s.getB R.MADC_REF_EN && !s.getB R.MADC_REF_SETTLED) = true ∧ (serve [(R.MADC_REF_EN, 0)]).getB R.MADC_REF_EN = false ∧
    s.getB (R.MFIL_LIM_CFG_ACTIVE 7 1) = true ∧ s.getB (R.MFIL_LIM_CFG_ACTIVE 7 0) = false ∧
    decide (s.get R.MEM_MARCH_STAT_STATE = 1) = true ∧ decide ((serve []).get R.MEM_MARCH_STAT_STATE = 1) = false ∧
    (s.getB R.SEC_STAT_TRNG_FAIL || s.inReset ⟨.sec, 0⟩) = false ∧
    (State.reset.getB R.SEC_STAT_TRNG_FAIL || State.reset.inReset ⟨.sec, 0⟩) = true := by decide +kernel

/-! The accesses -/

/-- In service with the domains of LFR, IDEC and TIM awake. -/
def awake (fs : List (Fld × Nat)) : State :=
  { serve fs with woken := [⟨.lane 0, true⟩, ⟨.sheaf 0, true⟩, ⟨.time, true⟩] }
theorem witness_AccessCommands_reach : (serve []).reaches .spi = true ∧ State.reset.reaches .spi = false ∧
    (serve []).reaches .tim = false ∧ (serve []).reaches .fwc = false := by decide +kernel
/-- A word for each answer: refused by its class, locked, isolated, waiting, and allowed. -/
theorem witness_AccessCommands_status :
    targetOf 0x02000404 = some (.reg ⟨.lrx, 0⟩ 0x404) ∧
    (awake []).classRefuses .spi false true (.reg (dev .nvs) 0x050) = true ∧ ownerWord (dev .nvs) 0x050 = true ∧
    (awake []).accessStatus .spi false true (.reg (dev .nvs) 0x050) = .errAccess ∧
    (awake []).classRefuses .spi false true (.reg ⟨.req, 0⟩ 0x408) = false ∧ expertWord ⟨.req, 0⟩ 0x408 = true ∧
    (awake []).expert ⟨.req, 0⟩ = false ∧ (awake []).accessStatus .spi false true (.reg ⟨.req, 0⟩ 0x408) = .errLocked ∧
    (let s := awake [(R.BLK_STAT_IN_RESET ⟨.lfr, 0⟩, 1)]
     s.inReset ⟨.lfr, 0⟩ = true ∧ (Target.reg ⟨.lfr, 0⟩ 0x044).header = false ∧
       s.accessStatus .spi false true (.reg ⟨.lfr, 0⟩ 0x044) = .errIsolated) ∧
    (serve []).accessStatus .spi false true (.reg ⟨.lfr, 0⟩ 0x044) = .wait ∧
    (serve []).accessStatus .spi false false (.reg ⟨.lfr, 0⟩ 0x050) = .wait := by decide +kernel
/-- The words that the clauses on access codes name are allowed; a low word is staged before its high word. -/
theorem witness_AccessCommands_words :
    let s : State := { awake [] with staged := [(wideKey ((dev .tim).base + 0x064) .spi 0, 5)] }
    s.accessStatus .spi false true (.reg ⟨.lfr, 0⟩ 0x044) = .ok ∧ s.accessStatus .spi false true (.reg ⟨.idec, 0⟩ 0x04C) = .ok ∧
    s.accessStatus .spi false true (.reg (dev .pwr) 0x068) = .ok ∧ s.accessStatus .spi false false (.reg ⟨.lfr, 0⟩ 0x050) = .ok ∧
    s.accessStatus .spi false false (.reg ⟨.idec, 0⟩ 0x060) = .ok ∧ s.accessStatus .spi false false (.reg ⟨.idec, 0⟩ 0x064) = .ok ∧
    s.accessStatus .spi false true (.reg (dev .tim) 0x064) = .ok ∧ s.accessStatus .spi false true (.reg (dev .tim) 0x068) = .ok ∧
    natGet s.staged (wideKey ((dev .tim).base + 0x068 - 4) .spi 0) = some 5 ∧
    s.accessStatus .spi false false (.reg (dev .msg) 0x104) = .ok ∧ s.msg.ts = [] := by decide +kernel
/-- A write with its CRC and one without, into a queue with one free place and into a full one; seven tags and eight. -/
theorem witness_AccessCommands_ports :
    let s := awake []
    let w : PostedWrite := ⟨false, 0x0202004C, [0x55]⟩
    let q (n : Nat) : State := { s with spi := { s.spi with queue := List.replicate n w } }
    let t (n : Nat) : State := { s with spi := { s.spi with tags := List.replicate n ⟨1, 0x02050050, 1, 0, none⟩ } }
    crcBad .spi (requestBytes 2 0x0202004C 0 [0x55]) (spiCheck 0x0202004C [0x55]).toNat = false ∧
    crcBad .spi (requestBytes 2 0x0202004C 0 [0x55]) (spiCheck 0x0202004C [0x54]).toNat = true ∧
    writeAccept .spi false true 0x0202004C 1 (q 31) = .ok ∧ writeAccept .spi false true 0x0202004C 1 (q 32) = .retry ∧
    writeAccept .spi false true 0x0202004E 1 s = .errAddr ∧
    ((q 1).port .spi).queue = [w] ∧ (⟨.idec, 0⟩ : Blk).base + 0x04C = 0x0202004C ∧
    (q 1).accessStatus .spi false true (.reg ⟨.idec, 0⟩ 0x04C) = .ok ∧
    ((t 7).port .spi).tags.length < 8 ∧ 8 ≤ ((t 8).port .spi).tags.length ∧ wordsMapped 0x02050050 1 = true ∧
    wordsMapped 0x30000000 1 = false ∧ s.macOk 0x0202004C [0x55] 0 = false := by decide +kernel
/-- Posted reads that can and cannot be performed, and answers that wait. -/
theorem witness_AccessCommands_tags :
    let s := awake []
    let find (ts : List SplitRead) : Option SplitRead := ts.find? (fun r => r.tag == 1 && r.answer.isNone && r.ahead == 0)
    find [⟨1, 0x02050050, 1, 0, none⟩] = some ⟨1, 0x02050050, 1, 0, none⟩ ∧ find [⟨1, 0x02050050, 1, 1, none⟩] = none ∧
    (⟨.lfr, 0⟩ : Blk).base + 0x050 = 0x02050050 ∧ s.portUp = true ∧ s.i3c.waiting = none ∧
    (let i : State := { s with i3c := { s.i3c with waiting := some (.fixed ⟨.ok, []⟩) } }
     i.i3c.waiting = some (.fixed ⟨.ok, []⟩)) ∧
    s.remoteNext = none ∧
    (let m : State := { awake [(R.BLK_STAT_STATE (dev .msg), 2), (R.MSG_REMOTE_POLICY_CLASSES, 15)] with msg := { s.msg with
       remote := [⟨0, 1, 0x02050050, 0, false, [], false⟩] } }
     m.blkOn (dev .msg) = true ∧ m.remoteNext = some ⟨0, 1, 0x02050050, 0, false, [], false⟩ ∧
       m.accessStatus .remote false false (.reg ⟨.lfr, 0⟩ 0x050) = .ok) := by decide +kernel

/-! Resets and start-up -/

theorem witness_Resets_cold : State.reset.coldAsserted = true ∧ (serve []).coldAsserted = false ∧
    (serve []).store.slot = none ∧ (serve [(R.RST_STAT_PHASE, 5)]).phase < 6 ∧ 6 ≤ (serve [(R.RST_STAT_PHASE, 6)]).phase ∧
    (serve []).sheafReset 0 = false ∧ (serve [(R.RST_CTRL_SHEAF 0, 1)]).sheafReset 0 = true := by decide +kernel
/-- A block whose SRST is refused, one whose is not, and one whose BLOCK reset ends. -/
theorem witness_Resets_block : allBlocks.contains ⟨.req, 0⟩ = true ∧ (lane0 3 []).srstRefused ⟨.req, 0⟩ = true ∧
    (lane0 0 []).srstRefused ⟨.req, 0⟩ = false ∧ (serve []).getB (R.BLK_STAT_IN_RESET ⟨.req, 0⟩) = false ∧
    (let s := serve [(R.BLK_STAT_IN_RESET ⟨.req, 0⟩, 1)]
     s.getB (R.BLK_STAT_IN_RESET ⟨.req, 0⟩) = true ∧
       (s.setB (R.BLK_STAT_IN_RESET ⟨.req, 0⟩) false).inReset ⟨.req, 0⟩ = false) := by decide +kernel
theorem witness_Resets_release :
    let s : State := { put ((List.range 5).map fun r => (R.PWR_RAIL_STAT_OK r, 1)) with
      resets := { (put []).resets with por := false, waiting := true } }
    s.mayRelease = true ∧ s.held = false ∧ (s.setB (R.PWR_RAIL_STAT_OK 4) false).mayRelease = false ∧
    (serve []).getB R.RST_WDT_CFG_RUNNING = false ∧ (serve [(R.RST_WDT_CFG_RUNNING, 1)]).getB R.RST_WDT_CFG_RUNNING = true := by
  decide +kernel
/-- A start-up in each of its phases; WARM asserted; a hold. -/
theorem witness_StartUp :
    let p (n : Nat) (fs : List (Fld × Nat)) : State := put ((R.RST_STAT_PHASE, n) :: fs)
    let r : StartupResult := ⟨[], false, 0, [], [], [], 0⟩
    [1, 2, 4, 5, 6, 7].all (fun n => (p n []).phase == n && !(p n []).coldAsserted && !(p n []).held) = true ∧
    (p 1 [(R.RST_STAT_STRAP_ERR, 1)]).getB R.RST_STAT_STRAP_ERR = true ∧ (p 1 []).getB R.RST_STAT_STRAP_ERR = false ∧
    (p 2 [(R.RST_STRAP_BOOT, 3)]).get R.RST_STRAP_BOOT = 3 ∧ r.checkers = [] ∧ r.words = [] ∧ r.fault ≠ 1 ∧ r.fault ≠ 4 ∧
    (p 2 []).store.kept.boot.bank = (0 : Fin 2).val ∧ (p 2 []).boot.bank = (0 : Fin 2).val ∧
    (p 6 []).warmAsserted = false ∧ (p 6 []).boot.warmed = false ∧
    (p 6 [(R.RST_STAT_HOLD_THERMAL, 1)]).held = true ∧ (let e : State := { p 6 [] with mem := (List.range 8).flatMap fun n => (List.range 4).map fun i => (profileBase n + i, 0) }
     e.held = false ∧ ∀ n, n < 8 → (e.imageAt (profileBase n)).magic = false) ∧
    (p 7 []).getB R.CAL_STAT_STARTUP_DONE = false ∧ (p 7 [(R.CAL_STAT_STARTUP_DONE, 1)]).getB R.CAL_STAT_STARTUP_DONE = true ∧
    (p 3 [(R.RST_BOOT_STAT_WINDOW, 1)]).getB R.RST_BOOT_STAT_WINDOW = true ∧ (p 8 []).mayRestart = true ∧
    (p 6 []).mayRestart = false := by
  decide +kernel

/-! Security -/

/-- No command in progress, and one; a lockdown; each cause of tamper with its enable and without. -/
theorem witness_SecurityCommands :
    let b := serve [(R.SEC_CMD_STAT_STATE, 1)]
    b.get R.SEC_CMD_STAT_STATE = 1 ∧ (serve []).get R.SEC_CMD_STAT_STATE ≠ 1 ∧ b.getB R.SEC_STAT_LOCKDOWN = false ∧
    (serve [(R.SEC_STAT_LOCKDOWN, 1)]).getB R.SEC_STAT_LOCKDOWN = true ∧
    (serve [(R.SEC_OWN_CFG_IDLE, 1), (R.SEC_STAT_OWN_SESSION, 1)]).get R.SEC_OWN_CFG_IDLE ≠ 0 ∧
    (serve [(R.SEC_OWN_CFG_IDLE, 0)]).get R.SEC_OWN_CFG_IDLE = 0 ∧ (serve []).inReset (dev .sec) = false ∧
    (serve [(R.SEC_TAMPER_CFG_GLITCH_V, 0)]).getB R.SEC_TAMPER_CFG_GLITCH_V = false ∧
    (serve [(R.SEC_TAMPER_CFG_GLITCH_CLK, 1)]).getB R.SEC_TAMPER_CFG_GLITCH_CLK = true := by decide +kernel
/-- Each command that ends where its result is decided by the lifecycle, the nonce, the owner or the buffer. -/
theorem witness_SecurityCommands_ends :
    let s := serve [(R.SEC_CMD_STAT_STATE, 1)]
    let at_ (life op : Nat) (owner : Bool) (nonce : Option Nat) (owners : List Nat) : State :=
      { s with fuses := { s.fuses with life := life, owners := owners },
               sec := { s.sec with op := op, owner := owner, nonce := nonce, begun := some (3, 4), fails := 3 } }
    (at_ 1 2 false none []).fuses.life ≠ 2 ∧ (at_ 2 2 false none [9]).sec.backoff = false ∧
    s.getB R.SEC_STAT_TRNG_FAIL = false ∧ (at_ 2 3 false none [9]).sec.begun = some (3, 4) ∧
    (at_ 2 3 false none [9]).ownerKey = some 9 ∧ (at_ 2 3 false none []).ownerKey = none ∧
    4 ≤ (at_ 2 3 false none [9]).sec.fails + 1 ∧ (at_ 2 4 true none [9]).sec.owner = true ∧
    (at_ 1 5 false (some 7) []).sec.nonce = some 7 ∧ ¬ 4 ≤ (at_ 1 5 false (some 7) [1, 2, 3]).fuses.owners.length ∧
    4 ≤ (at_ 2 6 true (some 7) [1, 2, 3, 4]).fuses.owners.length ∧ (at_ 2 6 true (some 7) [9]).fuses.ownerSlot = some 0 ∧
    tokenGood 3 7 (at_ 1 7 false (some 7) []) = false ∧
    bufBytes s 0 4 ≠ [0x44, 0x45, 0x43, 0x4D] ∧
    bufBytes (serve [(R.SEC_BUF_DATA 0, 0x4445434D)]) 0 4 = [0x44, 0x45, 0x43, 0x4D] := by decide +kernel

end Sys2Proof.Tests
end

section
/-!
PROOF. Rules for commands whose operation is known: the views of the line lanes that it leaves, and its effect on the
register file.
-/

namespace Sys2Proof.Machine

open Sys2Proof

/-! ### Accepting the events of a command, and the view that an operation leaves -/

/-- Accepting a command's events leaves every lane's view as it is (R450). -/
theorem lanes_settle (s : State) : SameLanes s (settle s) := SameLanes.rfl'.regs rfl

/-- A command whose operation is known shows what the operation shows. -/
theorem laneSeen_of_done {c : Instr} {s u : State} {l : Nat} {v : LaneView} (hl : l < 8) (hx : exec c s = done u)
    (h : OnlyLane s u l v) : LaneSeen c s l v := ⟨settle u, hx, h.same hl (lanes_settle u)⟩

/-- The same of an operation that does nothing where its condition fails. -/
theorem laneTo_of_done {c : Instr} {s u : State} {l : Nat} {v : LaneView} {g : Bool} (hl : l < 8)
    (hx : exec c s = done (if g = true then u else s)) (h : OnlyLane s u l v) : LaneTo g c s l v := by
  unfold LaneTo
  split
  next hg => exact laneSeen_of_done hl (by rw [hx, if_pos hg]) h
  next hg => exact After.nil.effect (by rw [hx, if_neg hg]) rfl

/-- A lane known by its view passes into a state other than FAULT. -/
theorem OnlyLane.enter {s t : State} {l : Nat} {v : LaneView} (h : OnlyLane s t l v) (hl : l < 8) {new : Nat}
    (hn : new < 6) (fresh : Bool) : OnlyLane s (enterState l new 0 fresh t) l { v with code := new, cause := 0 } := by
  have he := enterState_view (s := t) (cause := 0) (fresh := fresh) hl (show new < 16 by omega) (by omega)
  rw [h.1, if_neg (by omega)] at he
  exact h.trans he

/-- After operations that no lane's view shows, a lane passes into a state other than FAULT. -/
theorem SameLanes.enter {s t : State} {l : Nat} (h : SameLanes s t) (hl : l < 8) {new : Nat} (hn : new < 6)
    (fresh : Bool) : OnlyLane s (enterState l new 0 fresh t) l (s.laneIn l new) := (h.only hl).enter hl hn fresh

theorem laneCode_of_view {s t : State} {l : Nat} (h : t.laneView l = s.laneView l) : t.laneCode l = s.laneCode l :=
  congrArg LaneView.code h

theorem laneUp_of_view {s t : State} {l : Nat} (h : t.laneView l = s.laneView l) : t.laneUp l = s.laneUp l := by
  unfold State.laneUp
  rw [laneCode_of_view h]

/-! ### Guarded operations and wrapping counters -/

/-- A command that runs an operation where its condition holds, and else nothing, has the operation's effect there. -/
theorem effectIf_of_done {c : Instr} {s v u : State} {w : List (Fld × Nat)} {g : Bool}
    (hx : exec c s = done (if g = true then v else s)) (h : g = true → After s v w) (hc : v.core = u.core) :
    EffectIf g c s w u :=
  effectIf_of (fun hg => by rw [hx, if_pos hg]) (fun hg => by rw [hx, if_neg hg]) h hc

/-- A counter field that wraps reads its old value moved on, in its width (R3). -/
theorem After.wrapInc {s v : State} {w : List (Fld × Nat)} {f : Fld} {k : Nat} (hp : Plain f)
    (hd : ∀ p ∈ w, p.1.key ≠ f.key) (h : After s v w) :
    After s (v.wrapInc f k) ((f, (s.get f + k) % 2 ^ f.w) :: w) := by
  have hset : v.wrapInc f k = v.set f ((s.get f + k) % 2 ^ f.w) := by
    unfold State.wrapInc State.set
    rw [h.rest f hp.1 hd, Nat.mod_mod]
  rw [hset]
  exact h.set (Nat.mod_lt _ (Nat.two_pow_pos _)) hp hd

/-- The records of host lanes stand beside the register file. -/
theorem After.putHost {s v : State} {w : List (Fld × Nat)} (l : Nat) (x : HostLaneInt) (h : After s v w) :
    After s (v.putHost l x) w := After.congr (v := v) (u := v.putHost l x) rfl rfl h

theorem After.putRx {s v : State} {w : List (Fld × Nat)} (l : Nat) (x : RxLane) (h : After s v w) :
    After s (v.putRx l x) w := After.congr (v := v) (u := v.putRx l x) rfl rfl h

end Sys2Proof.Machine
end

section
/-!
PROOF. The state and configuration of the line lanes after the commands that take a lane from one state to another.
-/

namespace Sys2Proof.Machine

open Sys2Proof

/-! ### The commands of one lane -/

/-- DIM_EXIT goes on into ACQUIRE where LOS shows in FULL (R69, R83, R84). -/
theorem dimExit_view {s : State} {l : Nat} (hl : l < 8) :
    OnlyLane s (if (enterState l 3 0 false s).getB (R.LRX_STAT_LOS l) then
        enterState l 1 0 false (enterState l 3 0 false s) else enterState l 3 0 false s) l
      (s.laneIn l (if (enterState l 3 0 false s).getB (R.LRX_STAT_LOS l) then 1 else 3)) := by
  have hfull : OnlyLane s (enterState l 3 0 false s) l (s.laneIn l 3) := SameLanes.rfl'.enter hl (by omega) false
  split
  · exact hfull.enter hl (by omega) false
  · exact hfull

/-- PILOT_LOCK_LOSS ends an active lane alone (R27, R45). -/
theorem pilotLockLossOp_view {s : State} {l : Nat} (hl : l < 8) :
    OnlyLane s (pilotLockLossOp l s) l
      (if s.getB (R.LFR_STAT_PILOT_LOCK l) ∧ 4 ≤ (s.rx l).badRun ∧ 2 ≤ s.laneCode l ∧ s.laneCode l ≤ 5 then s.laneIn l 1
       else s.laneView l) := by
  unfold pilotLockLossOp
  by_cases hlost : s.getB (R.LFR_STAT_PILOT_LOCK l) = true ∧ 4 ≤ (s.rx l).badRun
  · rw [if_pos (by simpa using hlost)]
    by_cases hactive : 2 ≤ s.laneCode l ∧ s.laneCode l ≤ 5
    · rw [if_pos (by simpa using hactive), if_pos ⟨hlost.1, hlost.2, hactive⟩]
      exact SameLanes.rfl'.enter hl (by omega) false
    · rw [if_neg (by simpa using hactive), if_neg fun h => hactive h.2.2]
      exact (lanes_pilotDrop hl SameLanes.rfl').only hl
  · rw [if_neg (by simpa using hlost), if_neg fun h => hlost ⟨h.1, h.2.1⟩]
    exact SameLanes.rfl'.only hl

/-- What a loss of signal sets before the lane reacts to it: LOS_RAW, LOS with its source, the triggered capture, and the
discarded windows of the Gleaner (R81, R84, R111, R216). -/
def losShown (l : Nat) (s : State) : State :=
  let t := s.setB (R.LRX_STAT_LOS_RAW l) true
  calDiscardAdc l ((if t.getB (R.LRX_STAT_LOS l) then t else capCause l 1 t).change (R.LRX_STAT_LOS l) true ⟨.lrx, l⟩ 0)

theorem lanes_losShown {s : State} {l : Nat} (hl : l < 8) : SameLanes s (losShown l s) := by
  have hraw : SameLanes s (s.setB (R.LRX_STAT_LOS_RAW l) true) := by
    refine lanes_setB ?_ SameLanes.rfl'
    simp only [LaneKey, R.LRX_STAT_LOS_RAW, fld, Kind.code]
    omega
  refine lanes_calDiscardAdc hl (lanes_change ?_ (by omega) (lanes_ite hraw (lanes_capCause hraw)))
  simp only [LaneKey, R.LRX_STAT_LOS, fld, Kind.code]
  omega

/-- LOS_SET takes a lane that decodes into ACQUIRE (R27, R81, R84). -/
theorem losSetOp_view {s : State} {l amp : Nat} (hl : l < 8) :
    OnlyLane s (losSetOp l amp s) l
      (if s.laneUp l ∧ (s.rx l).detector ∧ ¬ s.getB (R.LRX_STAT_LOS_RAW l) ∧ ¬ s.getB (R.LFR_STAT_RX_DIM l)
          ∧ amp < 5 * s.get (R.LRX_CFG_LOS_THR l) ∧ decodes (s.laneCode l) then s.laneIn l 1
       else s.laneView l) := by
  have hop : losSetOp l amp s =
      if s.laneUp l && (s.rx l).detector && !s.getB (R.LRX_STAT_LOS_RAW l) && !s.getB (R.LFR_STAT_RX_DIM l)
          && amp < 5 * s.get (R.LRX_CFG_LOS_THR l) then
        if decodes ((losShown l s).laneCode l) then enterState l 1 0 false (losShown l s) else losShown l s
      else s := rfl
  have hsame := lanes_losShown (s := s) hl
  rw [hop, laneCode_of_view (hsame.view hl)]
  by_cases hlos : s.laneUp l ∧ (s.rx l).detector ∧ ¬ s.getB (R.LRX_STAT_LOS_RAW l) ∧ ¬ s.getB (R.LFR_STAT_RX_DIM l)
      ∧ amp < 5 * s.get (R.LRX_CFG_LOS_THR l)
  · obtain ⟨hup, hdet, hraw, hdim, hamp⟩ := hlos
    rw [if_pos (by simp [hup, hdet, hraw, hdim, hamp])]
    by_cases hdec : decodes (s.laneCode l) = true
    · rw [if_pos hdec, if_pos ⟨hup, hdet, hraw, hdim, hamp, hdec⟩]
      exact hsame.enter hl (by omega) false
    · rw [if_neg hdec, if_neg (by simp [hdec])]
      exact hsame.only hl
  · rw [if_neg (by simpa [and_assoc] using hlos),
      if_neg fun ⟨hup, hdet, hraw, hdim, hamp, _⟩ => hlos ⟨hup, hdet, hraw, hdim, hamp⟩]
    exact SameLanes.rfl'.only hl

/-! ### A sheaf that loses a PLL -/

/-- A running lane acquires afresh; another stays (R27, R507). -/
def acquireIfUp (l : Nat) (s : State) : State := if s.laneUp l then enterState l 1 0 false s else s

theorem acquireIfUp_view {s : State} {l : Nat} (hl : l < 8) :
    OnlyLane s (acquireIfUp l s) l (if s.laneUp l then s.laneIn l 1 else s.laneView l) := by
  unfold acquireIfUp
  split
  · exact SameLanes.rfl'.enter hl (by omega) false
  · exact SameLanes.rfl'.only hl

/-- The first `n` lanes of a sheaf acquire where they run, and no other lane changes. -/
theorem acquireIfUp_views {s : State} {sh n : Nat} (hs : sh < 2) (hn : n ≤ 4) {m : Nat} (hm : m < 8) :
    ((List.range n).foldl (fun s k => acquireIfUp (4 * sh + k) s) s).laneView m =
      if (4 * sh ≤ m ∧ m < 4 * sh + n) ∧ s.laneUp m then s.laneIn m 1 else s.laneView m := by
  induction n generalizing m with
  | zero => rw [if_neg (by omega)]; rfl
  | succ n ih =>
    have hfirst {k : Nat} (hk : k < 8) := ih (by omega) hk
    rw [List.range_succ, List.foldl_append]
    generalize (List.range n).foldl (fun s k => acquireIfUp (4 * sh + k) s) s = t at hfirst ⊢
    have hold : t.laneView (4 * sh + n) = s.laneView (4 * sh + n) := by
      rw [hfirst (by omega), if_neg (by omega)]
    obtain ⟨hnew, hrest⟩ := acquireIfUp_view (s := t) (l := 4 * sh + n) (by omega)
    show (acquireIfUp (4 * sh + n) t).laneView m = _
    by_cases hmn : m = 4 * sh + n
    · subst hmn
      have hin : 4 * sh ≤ 4 * sh + n ∧ 4 * sh + n < 4 * sh + (n + 1) := by omega
      rw [hnew, laneUp_of_view hold, State.laneIn, hold]
      simp only [hin, and_self, true_and]
      rfl
    · have hiff : (4 * sh ≤ m ∧ m < 4 * sh + (n + 1)) ↔ (4 * sh ≤ m ∧ m < 4 * sh + n) := by omega
      rw [hrest m hm hmn, hfirst hm]
      simp only [hiff]

/-- What a PLL's loss of lock shows before the lanes react to it: the lock bit, LOL and PLL_LOL (R34, R507). -/
def pllLolShown (sh : Nat) (host : Bool) (s : State) : State :=
  ((s.setB (pllLockFld sh host) false).setB
    (if host then R.SHF_PLL_STAT_HOST_LOL sh else R.SHF_PLL_STAT_LINE_LOL sh) true).signal ⟨.shf, sh⟩ 4 false

theorem lanes_pllLolShown {s : State} {sh : Nat} {host : Bool} : SameLanes s (pllLolShown sh host s) := by
  refine lanes_signal (by omega) (lanes_setB ?_ (lanes_setB ?_ SameLanes.rfl')) <;>
    cases host <;>
    simp only [LaneKey, pllLockFld, R.SHF_PLL_STAT_HOST_LOCK, R.SHF_PLL_STAT_LINE_LOCK, R.SHF_PLL_STAT_HOST_LOL,
      R.SHF_PLL_STAT_LINE_LOL, fld, Kind.code, if_true, Bool.false_eq_true, if_false] <;> omega

/-- A PLL's loss of lock takes every running lane of its sheaf into ACQUIRE (R27, R507). -/
theorem pllLossOfLockOp_views {s : State} {sh : Nat} {host : Bool} (hs : sh < 2) {m : Nat} (hm : m < 8) :
    (pllLossOfLockOp sh host s).laneView m =
      if s.getB (pllLockFld sh host) ∧ m / 4 = sh ∧ s.laneUp m then s.laneIn m 1 else s.laneView m := by
  have hop : pllLossOfLockOp sh host s = if s.getB (pllLockFld sh host) then
      (List.range 4).foldl (fun s k => acquireIfUp (4 * sh + k) s) (pllLolShown sh host s) else s := rfl
  have hview : (pllLolShown sh host s).laneView m = s.laneView m := lanes_pllLolShown.view hm
  have hiff : (4 * sh ≤ m ∧ m < 4 * sh + 4) ↔ m / 4 = sh := by omega
  rw [hop]
  by_cases hlock : s.getB (pllLockFld sh host) = true
  · rw [if_pos hlock, acquireIfUp_views hs (by omega) hm, laneUp_of_view hview, State.laneIn, hview]
    simp only [hiff, hlock, true_and]
    rfl
  · rw [if_neg hlock, if_neg fun h => hlock h.1]

/-- Settles O26: each command's operation is an entry of its own lane, which that lane's state and cause alone show; a
sheaf's loss of lock is one such entry for each of its running lanes. -/
theorem laneStates : Obligations.LaneStates := by
  unfold Obligations.LaneStates
  intro s l
  have hl : l.val < 8 := l.isLt
  have hsame : SameLanes s s := SameLanes.rfl'
  refine ⟨laneTo_of_done hl rfl (startLane_view hl),
    laneTo_of_done hl rfl (hsame.enter hl (by omega) false),
    laneTo_of_done hl rfl (hsame.enter hl (by omega) false),
    laneTo_of_done hl rfl ((lanes_putRx hsame).enter hl (by omega) false),
    laneTo_of_done hl rfl (dimExit_view hl),
    laneSeen_of_done hl rfl (pilotLockLossOp_view hl),
    fun amp => laneSeen_of_done hl rfl (losSetOp_view hl), fun sh host => ?_⟩
  refine ⟨_, rfl, fun m hm => ?_⟩
  rw [(lanes_settle _).view hm]
  exact pllLossOfLockOp_views sh.isLt hm

end Sys2Proof.Machine
end

section
/-!
PROOF. A change of RATE below ACTIVE: O27 names the level alone, where the model also asks for the power state.
-/

namespace Sys2Proof.Machine

open Sys2Proof

/-- In service with COLD released, but in DOZE and still at PL3, with line lane 0 enabled and in ACQUIRE at 230 GBd. R367
leaves every lane in OFF or FAULT below ACTIVE; O27 speaks of every state and so of this one too. -/
def dozingLane : State :=
  let released := { State.reset with resets := { State.reset.resets with supply := false, waiting := false } }
  ((((released.set R.RST_STAT_PHASE 8).set (laneFld R.SHF_LANE_CFG_EN 0) 1).set (laneFld R.SHF_LANE_STATE_STATE 0) 1).set
    R.PWR_PL_STAT_LEVEL 3).set R.PWR_STATE_STATE 1

/-- In DOZE no level is enough, so the lane that changes to 115 GBd goes to OFF (R25, R152). -/
theorem dozingLane_rateChange : (settle (rateChangeOp 0 true dozingLane)).laneCode 0 = 0 := by decide +kernel

/-- The level, PL3, is one that 115 GBd is content with (R25). -/
theorem dozingLane_level : levelOfRate (b2n true) ≤ dozingLane.level := by decide +kernel

/-- Refutes O27: RATE_CHANGE takes an enabled running lane into ACQUIRE only where the device is in ACTIVE too
(`State.levelOk`, R25, R367); O27 claims it for a sufficient level in every power state. In DOZE at PL3 the lane of
`dozingLane` goes to OFF. -/
theorem not_laneControls : ¬ Obligations.LaneControls := by
  unfold Obligations.LaneControls
  intro h
  obtain ⟨-, -, -, hrate, -, -⟩ := h dozingLane 0
  obtain ⟨t, hrun, hview, -⟩ := hrate true
  have ht : settle (rateChangeOp 0 true dozingLane) = t := Host.Outcome.next.inj hrun
  have hacquire : t.laneCode 0 = 1 := by
    have hcode : t.laneCode 0 = _ := congrArg LaneView.code hview
    rw [hcode, if_neg (by decide +kernel), if_neg (by decide +kernel), if_pos (by decide +kernel),
      if_pos dozingLane_level]
    rfl
  rw [← ht, dozingLane_rateChange] at hacquire
  exact absurd hacquire (by decide)

end Sys2Proof.Machine
end

section
/-!
PROOF. Host lanes: what each command of their status, training and test patterns leaves in the register file.
-/

namespace Sys2Proof.Machine

open Sys2Proof

/-! ### The fields of a host lane -/

/-- A field at bit `lo` of offset `o` in the block of host lane `h` (R204, R334). -/
@[reducible] def hsdFld (h o lo w rst : Nat) : Fld := fld (0x03000000 + h * 0x00010000 + o) lo w rst .block

/-- No counted event changes a field of a host lane, and no reset rests on it but IN_RESET itself. -/
theorem plain_hsdFld {h o lo w rst : Nat} (hh : h < 16) (ho : o < 65536) (hlo : lo < 64) (hr : o * 64 + lo ≠ 775) :
    Plain (hsdFld h o lo w rst) := by
  refine ⟨?_, ?_, ?_⟩
  · simp only [Fld.counter, Kind.code]; omega
  · simp only [Kind.code]; omega
  · simp only [Kind.code]; omega

/-- Fields of a host lane at other places are other fields. -/
theorem hsdFld_key_ne {h o lo w rst o' lo' w' rst' : Nat} (hne : o * 64 + lo ≠ o' * 64 + lo') :
    (hsdFld h o lo w rst).key ≠ (hsdFld h o' lo' w' rst').key := by
  simp only [Kind.code]
  omega

theorem plain_hsdIrq {h n : Nat} (hh : h < 16) (hn : n < 32) : Plain (R.IRQ_RAW_RAW ⟨.hsd, h⟩ n) :=
  plain_hsdFld hh (by omega) (by omega) (by omega)

section
variable {s v : State} {w : List (Fld × Nat)} {h : Nat}

/-- A host lane's field is written. -/
theorem After.setHsd {o lo wd rst x : Nat} (ha : After s v w) (hh : h < 16)
    (ho : o < 65536 ∧ lo < 64 ∧ o * 64 + lo ≠ 775) (hx : x < 2 ^ wd)
    (hd : ∀ p ∈ w, p.1.key ≠ (hsdFld h o lo wd rst).key) :
    After s (v.set (hsdFld h o lo wd rst) x) ((hsdFld h o lo wd rst, x) :: w) :=
  ha.set hx (plain_hsdFld hh ho.1 ho.2.1 ho.2.2) hd

/-- A host lane raises a source of its own. -/
theorem After.irqHsd {n : Nat} (ha : After s v w) (hh : h < 16) (hn : n < 32)
    (hd : ∀ p ∈ w, p.1.key ≠ (hsdFld h 0x10 (0 + 1 * n) 1 0).key) :
    After s (v.irq (hsd h) n) (s.irqAfter ⟨.hsd, h⟩ n :: w) :=
  ha.irq ⟨by show h < 32; omega, hn⟩ (plain_hsdIrq hh hn) hd

/-- A status bit of a host lane takes a value, with its source. -/
theorem After.changeHsd {o lo rst n : Nat} {new : Bool} (ha : After s v w) (hh : h < 16) (hn : n < 32)
    (ho : o < 65536 ∧ lo < 64 ∧ o * 64 + lo ≠ 775) (hne : o * 64 + lo ≠ 0x10 * 64 + (0 + 1 * n))
    (hd : ∀ p ∈ w, p.1.key ≠ (hsdFld h o lo 1 rst).key ∧ p.1.key ≠ (hsdFld h 0x10 (0 + 1 * n) 1 0).key) :
    After s (v.change (hsdFld h o lo 1 rst) new (hsd h) n) (s.changeAfter (hsdFld h o lo 1 rst) new ⟨.hsd, h⟩ n ++ w) :=
  ha.change rfl ⟨by show h < 32; omega, hn⟩ (plain_hsdFld hh ho.1 ho.2.1 ho.2.2) (plain_hsdIrq hh hn)
    (hsdFld_key_ne hne) hd

end

/-- A status bit that takes another value shows it, with its source raised. -/
theorem State.changeAfter_of_ne {s : State} {f : Fld} {new : Bool} {b : Blk} {n : Nat} (h : s.getB f = !new) :
    s.changeAfter f new b n = [s.irqAfter b n, (f, b2n new)] := by
  unfold State.changeAfter
  rw [h, if_neg (by cases new <;> decide)]

/-! ### Loss of signal, training and test patterns -/

section
variable (s : State) (h : HostLane)

theorem hostLosClear_effect (amp : Nat) : EffectIf (s.hostActive h && decide (80 < amp)) (.hostLosClear h amp) s
    (s.changeAfter (R.HSD_STAT_LOS h) false ⟨.hsd, h⟩ 0) s := by
  refine effectIf_of_done (v := s.change (R.HSD_STAT_LOS h) false (hsd h) 0) rfl (fun _ => ?_) (State.change_core ..)
  have ha : After s (s.change (R.HSD_STAT_LOS h) false (hsd h) 0)
      (s.changeAfter (R.HSD_STAT_LOS h) false ⟨.hsd, h⟩ 0 ++ []) :=
    After.nil.changeHsd h.isLt (by omega) (by omega) (by omega) (List.forall_mem_nil _)
  rwa [List.append_nil] at ha

theorem trainDone_effect :
    EffectIf (decide (s.get (R.HSD_TRAIN_STATE h) = 1) && s.getB (R.HSD_STAT_RX_EQ_DONE h)) (.trainDone h) s
      [s.irqAfter ⟨.hsd, h⟩ 2, (R.HSD_TRAIN_STATE h, 2)] s := by
  refine effectIf_of_done (v := (s.set (R.HSD_TRAIN_STATE h) 2).irq (hsd h) 2) rfl (fun _ => ?_) (State.irq_core ..)
  exact (After.nil.setHsd h.isLt (by omega) (by decide) (List.forall_mem_nil _)).irqHsd h.isLt (by omega)
    (List.forall_mem_singleton.mpr (hsdFld_key_ne (by omega)))

/-- A training that fails shows FAILED and TRAIN_FAIL (R187, R206). -/
theorem trainFail_after : After s (trainFail h s) [s.irqAfter ⟨.hsd, h⟩ 3, (R.HSD_TRAIN_STATE h, 3)] :=
  (After.nil.setHsd h.isLt (by omega) (by decide) (List.forall_mem_nil _)).irqHsd h.isLt (by omega)
    (List.forall_mem_singleton.mpr (hsdFld_key_ne (by omega)))

theorem trainFail_core : (trainFail h s).core = s.core := State.irq_core ..

theorem trainTimeout_effect :
    EffectIf (decide (s.get (R.HSD_TRAIN_STATE h) = 1) && s.get (R.HSD_TRAIN_TIMEOUT h) != 3) (.trainTimeout h) s
      [s.irqAfter ⟨.hsd, h⟩ 3, (R.HSD_TRAIN_STATE h, 3)] s :=
  effectIf_of_done (v := trainFail h s) rfl (fun _ => trainFail_after s h) (trainFail_core s h)

theorem trainResponseTimeout_effect :
    if s.get (R.HSD_TRAIN_STATE h) ≠ 1 ∨ (s.host h).asked = none then Effect (.trainResponseTimeout h) s [] s
    else if (s.host h).repeats < 3 then
      Effect (.trainResponseTimeout h) s [] (s.putHost h { s.host h with repeats := (s.host h).repeats + 1 })
    else Effect (.trainResponseTimeout h) s [s.irqAfter ⟨.hsd, h⟩ 3, (R.HSD_TRAIN_STATE h, 3)] s := by
  have hx : exec (.trainResponseTimeout h) s = done (trainResponseTimeoutOp h s) := rfl
  unfold trainResponseTimeoutOp at hx
  split
  next hidle =>
    rw [if_neg (by rcases hidle with h1 | h1 <;> simp [h1])] at hx
    exact After.nil.effect hx rfl
  next hwaits =>
    obtain ⟨hruns, hasked⟩ := not_or.mp hwaits
    have hasks : (s.host h).asked.isSome = true := Option.isSome_iff_ne_none.mpr hasked
    rw [if_pos (Bool.and_eq_true_iff.mpr ⟨decide_eq_true (Decidable.not_not.mp hruns), hasks⟩)] at hx
    split
    next hrepeat =>
      rw [if_pos hrepeat] at hx
      exact (After.nil.putHost _ _).effect hx rfl
    next hspent =>
      rw [if_neg hspent] at hx
      exact (trainFail_after s h).effect hx (trainFail_core s h)

/-- A training request changes a record of the host lane alone (R186, R187). -/
theorem trainAsk_regs (t : State) : (trainAsk h t).regs = t.regs ∧ (trainAsk h t).resets = t.resets := by
  unfold trainAsk
  dsimp only
  split <;> exact ⟨rfl, rfl⟩

theorem trainingAnswer_effect : Effect (.trainingAnswer h) s []
    (trainAsk h (s.putHost h { s.host h with asked := none, repeats := 0 })) := by
  obtain ⟨hregs, hresets⟩ := trainAsk_regs h (s.putHost h { s.host h with asked := none, repeats := 0 })
  exact (After.congr hregs hresets (After.nil.putHost _ _)).effect rfl rfl

theorem txClockSlewDone_effect (l : Lane) : EffectIf (s.get (R.GBX_HOST_STAT_TIMING_LANE l) != 0) (.txClockSlewDone l) s
    [(R.GBX_HOST_STAT_TX_TRACK l, 1)] s := by
  have hplain : Plain (R.GBX_HOST_STAT_TX_TRACK l) := by
    have hl := l.isLt
    simp only [Plain, Fld.counter, R.GBX_HOST_STAT_TX_TRACK, fld, Kind.code]
    omega
  exact effectIf_of_done (v := s.setB (R.GBX_HOST_STAT_TX_TRACK l) true) rfl
    (fun _ => After.nil.set (show 1 < 2 ^ 1 by decide) hplain (List.forall_mem_nil _)) rfl

theorem realignDone_effect (l : Lane) :
    Effect (.realignDone l) s [] (s.putRx l { s.rx l with realign := false }) :=
  (After.nil.putRx l { s.rx l with realign := false }).effect rfl rfl

theorem prbsLock_effect :
    EffectIf (s.get (R.HSD_PRBS_CFG_CHK h) != 0 && !s.getB (R.HSD_PRBS_STAT_LOCK h)) (.prbsLock h) s
      [s.irqAfter ⟨.hsd, h⟩ 4, (R.HSD_PRBS_STAT_LOCK h, 1)] (s.putHost h { s.host h with prbsAt := s.elapsed }) := by
  let u := s.putHost h { s.host h with prbsAt := s.elapsed }
  refine effectIf_of_done (v := u.change (R.HSD_PRBS_STAT_LOCK h) true (hsd h) 4) rfl (fun hg => ?_)
    (State.change_core ..)
  have ha : After s (u.change (R.HSD_PRBS_STAT_LOCK h) true (hsd h) 4)
      (s.changeAfter (R.HSD_PRBS_STAT_LOCK h) true ⟨.hsd, h⟩ 4 ++ []) :=
    (After.nil.putHost _ _).changeHsd h.isLt (by omega) (by omega) (by omega) (List.forall_mem_nil _)
  rwa [State.changeAfter_of_ne (by simpa using (Bool.and_eq_true_iff.mp hg).2), List.append_nil] at ha

theorem prbsLoss_effect (compared errors : Nat) :
    EffectIf (s.getB (R.HSD_PRBS_STAT_LOCK h)) (.prbsLoss h compared errors) s
    [(R.HSD_PRBS_STAT_LOST h, 1), s.irqAfter ⟨.hsd, h⟩ 4, (R.HSD_PRBS_STAT_LOCK h, 0),
     (R.HSD_PRBS_ERR_COUNT h, (s.get (R.HSD_PRBS_ERR_COUNT h) + errors) % 2 ^ (R.HSD_PRBS_ERR_COUNT h).w),
     (R.HSD_PRBS_BITS_COUNT h, (s.get (R.HSD_PRBS_BITS_COUNT h) + compared) % 2 ^ (R.HSD_PRBS_BITS_COUNT h).w)] s := by
  let u := (s.wrapInc (R.HSD_PRBS_BITS_COUNT h) compared).wrapInc (R.HSD_PRBS_ERR_COUNT h) errors
  refine effectIf_of_done (v := (u.change (R.HSD_PRBS_STAT_LOCK h) false (hsd h) 4).setB (R.HSD_PRBS_STAT_LOST h) true)
    rfl (fun hg => ?_) (State.change_core ..)
  have hbits := After.wrapInc (k := compared) (f := R.HSD_PRBS_BITS_COUNT h)
    (plain_hsdFld h.isLt (by omega) (by omega) (by omega)) (List.forall_mem_nil _) (After.nil (s := s))
  have hcounts := After.wrapInc (k := errors) (f := R.HSD_PRBS_ERR_COUNT h)
    (plain_hsdFld h.isLt (by omega) (by omega) (by omega))
    (List.forall_mem_singleton.mpr (hsdFld_key_ne (by omega))) hbits
  have hlock : After s (u.change (R.HSD_PRBS_STAT_LOCK h) false (hsd h) 4)
      (s.changeAfter (R.HSD_PRBS_STAT_LOCK h) false ⟨.hsd, h⟩ 4 ++ _) :=
    hcounts.changeHsd h.isLt (by omega) (by omega) (by omega)
      (List.forall_mem_cons.mpr ⟨⟨hsdFld_key_ne (by omega), hsdFld_key_ne (by omega)⟩,
        List.forall_mem_singleton.mpr ⟨hsdFld_key_ne (by omega), hsdFld_key_ne (by omega)⟩⟩)
  have hlost : After s _ ((R.HSD_PRBS_STAT_LOST h, 1) :: _) :=
    hlock.setHsd h.isLt (by omega) (by decide) (forall_changeAfter (hsdFld_key_ne (by omega)) (hsdFld_key_ne (by omega))
      (List.forall_mem_cons.mpr ⟨hsdFld_key_ne (by omega), List.forall_mem_singleton.mpr (hsdFld_key_ne (by omega))⟩))
  rw [State.changeAfter_of_ne (by simpa using hg)] at hlost
  exact hlost

theorem prbsClr_effect : Effect (.prbsClr h) s [(R.HSD_PRBS_BITS_COUNT h, 0), (R.HSD_PRBS_ERR_COUNT h, 0)]
    (s.putHost h { s.host h with prbsAt := s.elapsed }) := by
  have ha : After s (prbsClrOp h s) [(R.HSD_PRBS_BITS_COUNT h, 0), (R.HSD_PRBS_ERR_COUNT h, 0)] :=
    (((After.nil (s := s)).putHost _ _).setHsd h.isLt (by omega) (by decide) (List.forall_mem_nil _)).setHsd h.isLt
      (by omega) (by decide) (List.forall_mem_singleton.mpr (hsdFld_key_ne (by omega)))
  exact ha.effect rfl rfl

theorem hsdTxEqWrite_effect (pre2 pre1 post1 : BitVec 6) (swing : BitVec 4) :
    Effect (.hsdTxEqWrite h pre2 pre1 post1 swing) s
    (if (decide (s.get (R.HSD_TRAIN_STATE h) = 1) || !tapsOk pre2.toNat pre1.toNat post1.toNat) = true then
       [(R.BLK_STAT_CONFLICT ⟨.hsd, h⟩, 1)]
     else [(R.HSD_TX_EQ_SWING h, swing.toNat), (R.HSD_TX_EQ_POST1 h, post1.toNat), (R.HSD_TX_EQ_PRE1 h, pre1.toNat),
       (R.HSD_TX_EQ_PRE2 h, pre2.toNat)]) s := by
  have hx : exec (.hsdTxEqWrite h pre2 pre1 post1 swing) s =
      done (hsdTxEqWriteOp h pre2.toNat pre1.toNat post1.toNat swing.toNat s) := rfl
  unfold hsdTxEqWriteOp at hx
  split
  next hrefused =>
    rw [if_pos hrefused] at hx
    have ha : After s (s.conflict (hsd h)) [(R.BLK_STAT_CONFLICT ⟨.hsd, h⟩, 1)] :=
      After.nil.setHsd h.isLt (by omega) (by decide) (List.forall_mem_nil _)
    exact ha.effect hx rfl
  next htaken =>
    rw [if_neg htaken] at hx
    have hpre2 : After s (s.set (R.HSD_TX_EQ_PRE2 h) pre2.toNat) [(R.HSD_TX_EQ_PRE2 h, pre2.toNat)] :=
      After.nil.setHsd h.isLt (by omega) pre2.isLt (List.forall_mem_nil _)
    have hpre1 : After s _ ((R.HSD_TX_EQ_PRE1 h, pre1.toNat) :: _) :=
      hpre2.setHsd h.isLt (by omega) pre1.isLt (List.forall_mem_singleton.mpr (hsdFld_key_ne (by omega)))
    have hpost1 : After s _ ((R.HSD_TX_EQ_POST1 h, post1.toNat) :: _) :=
      hpre1.setHsd h.isLt (by omega) post1.isLt
        (List.forall_mem_cons.mpr ⟨hsdFld_key_ne (by omega), List.forall_mem_singleton.mpr (hsdFld_key_ne (by omega))⟩)
    have hswing : After s _ ((R.HSD_TX_EQ_SWING h, swing.toNat) :: _) :=
      hpost1.setHsd h.isLt (by omega) swing.isLt
        (List.forall_mem_cons.mpr ⟨hsdFld_key_ne (by omega), List.forall_mem_cons.mpr ⟨hsdFld_key_ne (by omega),
          List.forall_mem_singleton.mpr (hsdFld_key_ne (by omega))⟩⟩)
    exact hswing.effect hx rfl

end

/-- Settles O36: each command's operation is a chain of writes, change sources and host-lane records. -/
theorem hostStatus : Obligations.HostStatus := by
  unfold Obligations.HostStatus
  intro s h
  exact ⟨hostLosClear_effect s h, trainDone_effect s h, trainTimeout_effect s h, trainResponseTimeout_effect s h,
    trainingAnswer_effect s h, txClockSlewDone_effect s,
    realignDone_effect s,
    prbsLock_effect s h, prbsLoss_effect s h, prbsClr_effect s h, hsdTxEqWrite_effect s h⟩

end Sys2Proof.Machine
end

section
/-!
PROOF. A lane's start and stop records, its settings, the sheaf PLLs, and the receive direction.
-/

namespace Sys2Proof.Machine

open Sys2Proof

section
variable (s : State) (l : Lane)

/-- ASSIST_REALIGN changes the lane's receive record alone (R23). -/
theorem assistRealign_effect : EffectIf (s.rx l).assistPending (.assistRealign l) s [] (s.putRx l { s.rx l with
    assist := s.getB (laneFld R.SHF_LANE_CFG_ASSIST l), assistPending := false, realign := true }) :=
  effectIf_of_done rfl (fun _ => After.nil.putRx _ _) rfl

theorem dimReqSet_effect : Effect (.dimReqSet l) s [(laneFld R.SHF_LANE_CFG_DIM_REQ l, 1)] s := by
  have hplain : Plain (laneFld R.SHF_LANE_CFG_DIM_REQ l) := by
    have hl := l.isLt
    simp only [Plain, Fld.counter, laneFld, R.SHF_LANE_CFG_DIM_REQ, fld, Kind.code]
    omega
  exact (After.nil.set (show 1 < 2 ^ 1 by decide) hplain (List.forall_mem_nil _)).effect rfl rfl

theorem pllLock_effect (sh : Sheaf) (host : Bool) :
    EffectIf (s.pllsRun sh) (.pllLock sh host) s [(pllLockFld sh host, 1)] s := by
  have hplain : Plain (pllLockFld sh host) := by
    have hsh := sh.isLt
    cases host <;>
      simp only [Plain, Fld.counter, pllLockFld, R.SHF_PLL_STAT_HOST_LOCK, R.SHF_PLL_STAT_LINE_LOCK, fld, Kind.code,
        if_true, Bool.false_eq_true, if_false] <;>
      omega
  have hone : 1 < 2 ^ (pllLockFld sh host).w := by cases host <;> exact Nat.one_lt_two
  exact effectIf_of_done (v := s.setB (pllLockFld sh host) true) rfl
    (fun _ => After.nil.set hone hplain (List.forall_mem_nil _)) rfl

end

/-- Settles O28: the next states are those of the operations as they are defined, and of ASSIST_REALIGN, DIM_REQ_SET and
PLL_LOCK, which change one record or one field, the rest of the state is kept. -/
theorem laneRecords : Obligations.LaneRecords := by
  unfold Obligations.LaneRecords
  intro s l
  have hstart : Runs (.laneStartDone l) s (laneStartDoneOp l s) := rfl
  have hstop : Runs (.laneStopDone l) s (laneStopDoneOp l s) := rfl
  have hassist (on : Bool) : Runs (.assistChange l on) s (assistChangeOp l on s) := rfl
  have hclear : Runs (.dimReqClear l) s (dimReqClearOp l s) := rfl
  exact ⟨hstart, hstop, hassist, assistRealign_effect s l, dimReqSet_effect s l, hclear, pllLock_effect s⟩

/-- Settles O29: the next states are those of the operations as they are defined. -/
theorem receiveFields : Obligations.ReceiveFields := by
  unfold Obligations.ReceiveFields
  intro s l
  have hpilots (frame : Fin 256) (field : PilotField) :
    Runs (.rxPilotField l frame field) s (rxPilotFieldOp l frame field s) := rfl
  have hcounts (v : Byte) : Runs (.rxSfcReceived l v) s (rxSfcReceivedOp l v.toNat s) := rfl
  have hlock : Runs (.pilotLock l) s (pilotLockOp l s) := rfl
  have hloss : Runs (.pilotLockLoss l) s (pilotLockLossOp l s) := rfl
  have hscr : Runs (.scrLock l) s (scrLockOp l s) := rfl
  have hscrLoss : Runs (.scrLockLoss l) s (scrLockLossOp l s) := rfl
  have hresume : Runs (.idecResume l) s (idecResumeOp l s) := rfl
  have htr : Runs (.trLockAcquired l) s (trLockAcquiredOp l s) := rfl
  have htrLost : Runs (.trLockLost l) s (trLockLostOp l s) := rfl
  have hslew : Runs (.hostClockSlewDone l) s (hostClockSlewDoneOp l s) := rfl
  have hlos (amp : Nat) : Runs (.losSet l amp) s (losSetOp l amp s) := rfl
  exact ⟨hpilots, hcounts, hlock, hloss, hscr, hscrLoss, hresume, htr, htrLost, hslew, hlos⟩

end Sys2Proof.Machine
end

section
/-!
PROOF. Shift registers: the bits that a register gives step by step, and with them the pilot sequence and the scrambler
sequence of a superframe.
-/

namespace Sys2Proof.Machine

open Sys2Proof

/-! ### The bits of a natural -/

theorem bitAt_lt_two (v i : Nat) : bitAt v i < 2 := Nat.mod_lt _ Nat.two_pos

@[simp] theorem bitAt_zero (v : Nat) : bitAt v 0 = v % 2 := by rw [bitAt, Nat.pow_zero, Nat.div_one]

theorem bitAt_succ (v i : Nat) : bitAt v (i + 1) = bitAt (v / 2) i := by
  rw [bitAt, Nat.pow_succ', ← Nat.div_div_eq_div_mul, bitAt]

theorem ofBits_cons (b : Nat) (bs : List Nat) : ofBits (b :: bs) = b % 2 + 2 * ofBits bs := rfl

theorem ofBits_lt (bs : List Nat) : ofBits bs < 2 ^ bs.length := by
  induction bs with
  | nil => decide
  | cons b bs ih =>
    rw [ofBits_cons, List.length_cons, Nat.pow_succ]
    omega

/-- The bits of the natural that a list of bits spells are the list's, the first one least significant. -/
theorem bitAt_ofBits (bs : List Nat) (i : Nat) : bitAt (ofBits bs) i = bs.getD i 0 % 2 := by
  induction bs generalizing i with
  | nil => rw [ofBits, List.foldr_nil, bitAt, Nat.zero_div, List.getD_nil]
  | cons b bs ih =>
    cases i with
    | zero => rw [bitAt_zero, ofBits_cons, Nat.add_mul_mod_self_left, Nat.mod_mod, List.getD_cons_zero]
    | succ i =>
      rw [bitAt_succ, ofBits_cons, show (b % 2 + 2 * ofBits bs) / 2 = ofBits bs by omega, ih, List.getD_cons_succ]

/-! ### One step of a register of `len + 1` bits -/

section
variable {len tap w : Nat}

theorem lfsrStep_lt (hw : w < 2 ^ (len + 1)) : lfsrStep (len + 1) tap w < 2 ^ (len + 1) := by
  rw [Nat.pow_succ] at hw ⊢
  rw [lfsrStep, Nat.add_sub_cancel]
  rcases Nat.mod_two_eq_zero_or_one (w / 2 ^ tap + w) with hbit | hbit <;> rw [hbit] <;> omega

/-- Below its newest bit the register moves down by one place. -/
theorem bitAt_lfsrStep_of_lt {i : Nat} (hi : i < len) : bitAt (lfsrStep (len + 1) tap w) i = bitAt w (i + 1) := by
  obtain ⟨k, rfl⟩ := Nat.exists_eq_add_of_lt hi
  have hpow : 2 ^ (i + k + 1) = 2 ^ i * (2 * 2 ^ k) := by rw [Nat.add_assoc, Nat.pow_add, Nat.pow_succ']
  rw [bitAt_succ, lfsrStep, Nat.add_sub_cancel, bitAt, bitAt, hpow, Nat.mul_assoc,
    Nat.add_mul_div_left _ _ (Nat.two_pow_pos i), Nat.mul_assoc, Nat.add_mul_mod_self_left]

/-- The newest bit is the oldest XOR the tapped one. -/
theorem bitAt_lfsrStep_top (hw : w < 2 ^ (len + 1)) :
    bitAt (lfsrStep (len + 1) tap w) len = (bitAt w tap + bitAt w 0) % 2 := by
  have hlow : w / 2 < 2 ^ len := by rw [Nat.pow_succ] at hw; omega
  rw [lfsrStep, Nat.add_sub_cancel, bitAt, Nat.add_mul_div_left _ _ (Nat.two_pow_pos len), Nat.div_eq_of_lt hlow,
    Nat.zero_add, Nat.mod_mod, bitAt_zero, bitAt, ← Nat.add_mod]

/-! ### The bits that a register gives -/

/-- A shift register after `n` steps. -/
def lfsrSteps (len tap : Nat) : Nat → Nat → Nat
  | 0, w => w
  | n + 1, w => lfsrSteps len tap n (lfsrStep len tap w)

/-- The bit that a register gives after `n` steps: its oldest. -/
def lfsrBit (len tap w n : Nat) : Nat := lfsrSteps len tap n w % 2

theorem lfsrSteps_add (n k w : Nat) : lfsrSteps len tap (n + k) w = lfsrSteps len tap k (lfsrSteps len tap n w) := by
  induction n generalizing w with
  | zero => rw [Nat.zero_add, lfsrSteps]
  | succ n ih => rw [Nat.succ_add_eq_add_succ, Nat.add_succ, lfsrSteps, ih, lfsrSteps]

theorem lfsrSteps_lt (hw : w < 2 ^ (len + 1)) (n : Nat) : lfsrSteps (len + 1) tap n w < 2 ^ (len + 1) := by
  induction n generalizing w with
  | zero => exact hw
  | succ n ih => exact ih (lfsrStep_lt hw)

/-- As long as a bit stays in the register, each step moves it one place down. -/
theorem bitAt_lfsrSteps {n i : Nat} (h : n + i ≤ len) :
    bitAt (lfsrSteps (len + 1) tap n w) i = bitAt w (n + i) := by
  induction n generalizing w with
  | zero => rw [Nat.zero_add]; rfl
  | succ n ih =>
    rw [lfsrSteps, ih (by omega), bitAt_lfsrStep_of_lt (by omega), Nat.add_right_comm]

/-- The first bits that a register gives are those that it holds. -/
theorem lfsrBit_of_le {n : Nat} (h : n ≤ len) : lfsrBit (len + 1) tap w n = bitAt w n := by
  rw [lfsrBit, ← bitAt_zero, bitAt_lfsrSteps h, Nat.add_zero]

theorem lfsrBit_add (n k : Nat) : lfsrBit len tap w (n + k) = lfsrBit len tap (lfsrSteps len tap n w) k := by
  rw [lfsrBit, lfsrSteps_add, lfsrBit]

/-- The linear recurrence of a register: each bit from the first one that it does not hold at the start is the bit
`len + 1` before it XOR the tapped one. -/
theorem lfsrBit_recurrence (hw : w < 2 ^ (len + 1)) (htap : tap ≤ len) (n : Nat) :
    lfsrBit (len + 1) tap w (n + (len + 1)) = (lfsrBit (len + 1) tap w (n + tap) + lfsrBit (len + 1) tap w n) % 2 := by
  have hv : lfsrSteps (len + 1) tap n w < 2 ^ (len + 1) := lfsrSteps_lt hw n
  calc lfsrBit (len + 1) tap w (n + (len + 1))
      = bitAt (lfsrStep (len + 1) tap (lfsrSteps (len + 1) tap n w)) len := by
        rw [lfsrBit_add, Nat.add_comm len 1, lfsrBit_add, Nat.add_comm 1 len, lfsrBit_of_le (Nat.le_refl len)]
        rfl
    _ = (bitAt (lfsrSteps (len + 1) tap n w) tap + bitAt (lfsrSteps (len + 1) tap n w) 0) % 2 :=
        bitAt_lfsrStep_top hv
    _ = _ := by rw [lfsrBit_add, lfsrBit_of_le htap, bitAt_zero, lfsrBit]

end

/-- A run of a register gives its bits in order and leaves it that many steps on. -/
theorem lfsrRun_eq (len tap n w : Nat) :
    lfsrRun len tap n w = ((List.range n).map (lfsrBit len tap w), lfsrSteps len tap n w) := by
  induction n generalizing w with
  | zero => rfl
  | succ n ih =>
    rw [lfsrRun, ih, List.range_succ_eq_map, List.map_cons, List.map_map]
    rfl

theorem pilotSkip_eq (n w : Nat) : pilotSkip n w = lfsrSteps 11 2 n w := by
  induction n generalizing w with
  | zero => rfl
  | succ n ih => rw [pilotSkip, ih, lfsrSteps]

theorem scramblerSkip_eq (n w : Nat) : scramblerSkip n w = lfsrSteps 58 19 n w := by
  induction n generalizing w with
  | zero => rfl
  | succ n ih => rw [scramblerSkip, ih, lfsrSteps]

/-! ### The pilot sequence (R41 to R43) -/

/-- A frame's pilot bits are eight bits of the pilot register in a row, but for the last one of a superframe. -/
theorem pilotBits_eq (f : Nat) : pilotBits f =
    if f = 255 then (List.range 7).map (fun i => lfsrBit 11 2 pilotSeed (8 * f + i)) ++ [0]
    else (List.range 8).map (fun i => lfsrBit 11 2 pilotSeed (8 * f + i)) := by
  rw [pilotBits, lfsrRun_eq, pilotSkip_eq, ← funext (lfsrBit_add (8 * f))]
  rfl

theorem pilotBits_length (f : Nat) : (pilotBits f).length = 8 := by
  rw [pilotBits_eq]
  split
  · rw [List.length_append, List.length_map, List.length_range]
    rfl
  · rw [List.length_map, List.length_range]

theorem pilotLevels_length (f : Nat) (complement : Bool) : (pilotLevels f complement).length = 8 := by
  rw [pilotLevels, List.length_map, pilotBits_length]

theorem map_range_getElem? (g : Nat → Nat) {n i : Nat} (h : i < n) : ((List.range n).map g)[i]? = some (g i) := by
  rw [List.getElem?_map, List.getElem?_range h, Option.map_some]

/-- The pilot bits of a superframe are the bits of the pilot register and a last 0. -/
theorem pilotBits_getD (n : Nat) :
    (pilotBits (n / 8)).getD (n % 8) 0 = if n = 2047 then 0 else lfsrBit 11 2 pilotSeed n := by
  have hbit : n % 8 < 8 := Nat.mod_lt _ (by omega)
  rw [pilotBits_eq, List.getD_eq_getElem?_getD]
  by_cases hlast : n / 8 = 255
  · rw [if_pos hlast]
    by_cases hend : n % 8 = 7
    · rw [if_pos (by omega), hend]
      rfl
    · rw [if_neg (by omega), List.getElem?_append_left (by rw [List.length_map, List.length_range]; omega),
        map_range_getElem? _ (by omega), Option.getD_some, Nat.div_add_mod]
  · rw [if_neg hlast, if_neg (by omega), map_range_getElem? _ hbit, Option.getD_some, Nat.div_add_mod]

theorem pilotSeed_lt : pilotSeed < 2 ^ (10 + 1) := ofBits_lt _

/-- Settles O21: the pilot bits are those of the pilot register, whose recurrence they meet. -/
theorem pilotSequence : Obligations.PilotSequence := by
  unfold Obligations.PilotSequence
  refine ⟨by decide +kernel, fun n h11 h2046 => ?_, pilotBits_getD 2047, fun f => ⟨rfl, ?_⟩⟩
  · obtain ⟨k, rfl⟩ := Nat.exists_eq_add_of_le' h11
    simp only [pilotBits_getD]
    rw [if_neg (by omega), if_neg (by omega), if_neg (by omega), Nat.add_sub_cancel, show k + 11 - 9 = k + 2 by omega]
    exact lfsrBit_recurrence pilotSeed_lt (by omega) k
  · rw [pilotLevels, pilotLevels, List.map_map]
    rfl

/-! ### The scrambler sequence (R48, R49) -/

theorem scramblerBit_eq (n w : Nat) : scramblerSkip n w % 2 = lfsrBit 58 19 w n := by rw [scramblerSkip_eq, lfsrBit]

theorem scramblerFrame_eq (w : Nat) : scramblerFrame w =
    ((List.range 2864).map (lfsrBit 58 19 w), scramblerSkip 2864 w) := by
  rw [scramblerFrame, lfsrRun_eq, scramblerSkip_eq]

/-- The 58 bits that the scrambler holds at the start of a superframe, oldest first (R48). -/
def scramblerSeedBits (sfc : Nat) : List Nat :=
  List.replicate 8 0 ++ (List.range 8).map (fun i => bitAt sfc (7 - i)) ++ List.replicate 42 1

theorem scramblerSeed_lt (sfc : Nat) : scramblerSeed sfc < 2 ^ (57 + 1) := ofBits_lt (scramblerSeedBits sfc)

/-- The seed is 8 zeros, the count from its top bit on, and ones (R48). -/
theorem scramblerSeedBits_getD {sfc n : Nat} (hn : n < 58) : (scramblerSeedBits sfc).getD n 0 =
    if n < 8 then 0 else if n < 16 then bitAt sfc (15 - n) else 1 := by
  simp only [scramblerSeedBits, List.getD_eq_getElem?_getD, List.getElem?_append, List.length_append,
    List.length_replicate, List.length_map, List.length_range]
  split
  next =>
    split
    next h8 => rw [List.getElem?_replicate_of_lt h8]; rfl
    next h8 =>
      rw [map_range_getElem? _ (by omega)]
      exact congrArg (bitAt sfc) (by omega)
  next h16 =>
    rw [if_neg (by omega), List.getElem?_replicate_of_lt (by omega)]
    rfl

/-- The first 58 scrambler bits of a superframe (R48). -/
theorem scramblerBit_first {sfc n : Nat} (hn : n < 58) : scramblerSkip n (scramblerSeed sfc) % 2 =
    if n < 8 then 0 else if n < 16 then bitAt sfc (15 - n) else 1 := by
  rw [scramblerBit_eq, lfsrBit_of_le (show n ≤ 57 by omega)]
  refine (bitAt_ofBits (scramblerSeedBits sfc) n).trans ?_
  rw [scramblerSeedBits_getD hn]
  split
  · rfl
  · split
    · exact Nat.mod_mod _ _
    · rfl

/-- Settles O22: the register's first 58 bits are its seed's, and from then on it follows its recurrence. -/
theorem scramblerSequence : Obligations.ScramblerSequence := by
  unfold Obligations.ScramblerSequence
  refine ⟨fun sfc => ⟨fun i hi => ?_, fun i hi => ?_, fun i h16 h58 => ?_, fun n hn => ?_⟩, fun w => ?_⟩
  · exact (scramblerBit_first (by omega)).trans (if_pos hi)
  · refine (scramblerBit_first (by omega)).trans ?_
    rw [if_neg (by omega), if_pos (by omega), Nat.add_comm 8 i, Nat.sub_add_eq, Nat.sub_right_comm]
  · exact (scramblerBit_first h58).trans (by rw [if_neg (by omega), if_neg (by omega)])
  · obtain ⟨k, rfl⟩ := Nat.exists_eq_add_of_le' hn
    simp only [scramblerBit_eq, Nat.add_sub_cancel]
    rw [show k + 58 - 39 = k + 19 by omega]
    exact lfsrBit_recurrence (scramblerSeed_lt sfc) (by omega) k
  · simp only [scramblerFrame_eq, scramblerBit_eq, and_self]

/-! ### The pilot rule (R44, R45) -/

theorem pilotMisses_le (f : Nat) (complement : Bool) (d : Nat) : pilotMisses f complement d ≤ 8 :=
  List.length_filter_le _ (List.range 8)

theorem pilotJudge_good_iff (tol f d : Nat) : (pilotJudge tol f d).1 = true ↔
    pilotMisses f false d ≤ tol ∨ (248 ≤ f ∧ pilotMisses f true d ≤ tol) := by
  simp only [pilotJudge, Bool.or_eq_true, Bool.and_eq_true, decide_eq_true_eq]

theorem pilotRuns_goodRun (f : Nat) (r : RxLane) : (pilotRuns f true r).goodRun =
    if f == (r.phase + 1) % 256 && r.goodRun != 0 then r.goodRun + 1 else 1 := rfl

/-- A good field that follows the last one lengthens the run of good ones, from 0 to 1 too. -/
theorem pilotRuns_goodRun_of_next {f : Nat} {r : RxLane} (hnext : f = (r.phase + 1) % 256) :
    (pilotRuns f true r).goodRun = r.goodRun + 1 := by
  rw [pilotRuns_goodRun, ← hnext, beq_self_eq_true, Bool.true_and]
  by_cases hzero : r.goodRun = 0
  · rw [hzero]
    rfl
  · rw [if_pos (bne_iff_ne.mpr hzero)]

theorem pilotRuns_goodRun_of_gap {f : Nat} {r : RxLane} (hgap : f ≠ (r.phase + 1) % 256) :
    (pilotRuns f true r).goodRun = 1 := by
  rw [pilotRuns_goodRun, beq_false_of_ne hgap, Bool.false_and, if_neg Bool.false_ne_true]

/-- Settles O30: the judgement is its definition, and a run grows by cases on whether the field follows the last one. -/
theorem pilotRuns_rule : Obligations.PilotRuns := by
  unfold Obligations.PilotRuns
  exact ⟨pilotJudge_good_iff, fun f d c => pilotMisses_le f c d, fun f r => ⟨⟨rfl, rfl⟩, rfl,
    pilotRuns_goodRun_of_next, pilotRuns_goodRun_of_gap, fun _ => rfl⟩⟩

end Sys2Proof.Machine
end

section
/-!
PROOF. The code of a frame: codewords and their half-parities, the coded stream, the Gray map, precoding, the layout in
blocks, and the way back from levels to bits.
-/

namespace Sys2Proof.Machine

open Sys2Proof

/-! ### Codewords (R55 to R59) -/

/-- A bit stream as the model holds one: naturals that are 0 or 1. -/
def IsBits (bs : List Nat) : Prop := ∀ b ∈ bs, b < 2

theorem isBits_nil : IsBits [] := List.forall_mem_nil _

theorem isBits_cons {b : Nat} {bs : List Nat} : IsBits (b :: bs) ↔ b < 2 ∧ IsBits bs := List.forall_mem_cons

theorem IsBits.pair {a b : Nat} {rest : List Nat} (h : IsBits (a :: b :: rest)) : a < 2 ∧ b < 2 ∧ IsBits rest := by
  rwa [isBits_cons, isBits_cons] at h

theorem IsBits.append {a b : List Nat} (ha : IsBits a) (hb : IsBits b) : IsBits (a ++ b) :=
  List.forall_mem_append.mpr ⟨ha, hb⟩

/-- A list of even length without its first pair. -/
theorem length_of_pair_cons {a b k : Nat} {rest : List Nat} (h : (a :: b :: rest).length = 2 * (k + 1)) :
    rest.length = 2 * k := by
  rw [List.length_cons, List.length_cons] at h
  omega

theorem halfParities_cons_cons (a b : Nat) (bs : List Nat) : halfParities (a :: b :: bs) =
    ((a + (halfParities bs).1) % 2, (b + (halfParities bs).2) % 2) := rfl

theorem halfParities_lt (bs : List Nat) : (halfParities bs).1 < 2 ∧ (halfParities bs).2 < 2 := by
  induction bs with
  | nil => decide
  | cons b bs ih => exact ⟨Nat.mod_lt _ Nat.two_pos, ih.1⟩

/-- The half-parities of a list of even length are the sums modulo 2 of its bits at even and at odd places. -/
theorem halfParities_eq_sums {k : Nat} {bs : List Nat} (h : bs.length = 2 * k) : halfParities bs =
    (((List.range k).map fun i => bs.getD (2 * i) 0).sum % 2,
      ((List.range k).map fun i => bs.getD (2 * i + 1) 0).sum % 2) := by
  induction k generalizing bs with
  | zero => rw [List.length_eq_zero_iff.mp h]; rfl
  | succ k ih =>
    match bs, h with
    | a :: b :: rest, h =>
      rw [halfParities_cons_cons, ih (length_of_pair_cons h), List.range_succ_eq_map]
      simp only [List.map_cons, List.map_map, List.sum_cons, Function.comp_def, Nat.mul_succ, Nat.mul_zero,
        List.getD_cons_zero, List.getD_cons_succ, Nat.add_mod_mod]

/-- The half-parities of a list of even length are added to those of what follows it. -/
theorem halfParities_append {k : Nat} {as bs : List Nat} (h : as.length = 2 * k) : halfParities (as ++ bs) =
    (((halfParities as).1 + (halfParities bs).1) % 2, ((halfParities as).2 + (halfParities bs).2) % 2) := by
  induction k generalizing as with
  | zero =>
    obtain ⟨heven, hodd⟩ := halfParities_lt bs
    rw [List.length_eq_zero_iff.mp h]
    simp only [List.nil_append, halfParities, Nat.zero_add, Nat.mod_eq_of_lt heven, Nat.mod_eq_of_lt hodd]
  | succ k ih =>
    match as, h with
    | a :: b :: rest, h =>
      rw [List.cons_append, List.cons_append, halfParities_cons_cons, halfParities_cons_cons,
        ih (length_of_pair_cons h)]
      simp only [Nat.mod_add_mod, Nat.add_mod_mod, Nat.add_assoc]

theorem kicParity_length (u : List Nat) : (kicParity u).length = 66 := by
  rw [kicParity, List.length_map, List.length_range]

theorem kicEncode_length (u : List Nat) : (kicEncode u).length = u.length + 68 := by
  rw [kicEncode, List.length_append, List.length_append, kicParity_length]
  rfl

/-- The half-parity bits of a codeword make both half-parities 0 (R57). -/
theorem halfParities_kicEncode {u : List Nat} {k : Nat} (h : u.length = 2 * k) :
    halfParities (kicEncode u) = (0, 0) := by
  have hlen : (u ++ kicParity u).length = 2 * (k + 33) := by rw [List.length_append, kicParity_length]; omega
  obtain ⟨heven, hodd⟩ := halfParities_lt (u ++ kicParity u)
  rw [kicEncode, halfParities_append hlen]
  simp only [halfParities, Nat.add_zero, Nat.mod_eq_of_lt heven, Nat.mod_eq_of_lt hodd, ← Nat.two_mul,
    Nat.mul_mod_right]

theorem kicEncode_isBits {u : List Nat} (hu : IsBits u) : IsBits (kicEncode u) := by
  obtain ⟨heven, hodd⟩ := halfParities_lt (u ++ kicParity u)
  have hparity : IsBits (kicParity u) := by
    intro b hb
    obtain ⟨i, -, rfl⟩ := List.mem_map.mp hb
    exact bitAt_lt_two _ _
  exact (hu.append hparity).append (isBits_cons.mpr ⟨heven, isBits_cons.mpr ⟨hodd, isBits_nil⟩⟩)

/-- Settles O16: both half-parities of a codeword are 0, and they are the sums modulo 2. -/
theorem halfParity : Obligations.HalfParity := by
  unfold Obligations.HalfParity
  intro u w
  have hdata : (List.ofFn u).length = 2 * 680 := List.length_ofFn
  have hlen : w.length = 2 * 714 := by rw [kicEncode_length, hdata]
  have hzero : halfParities w = (0, 0) := halfParities_kicEncode hdata
  rw [halfParities_eq_sums hlen] at hzero
  obtain ⟨heven, hodd⟩ := Prod.mk.inj hzero
  exact ⟨hlen, heven, hodd⟩

/-! ### The coded stream (R58, R59) -/

theorem interleave_cons (odd : Bool) (a b : Nat) (as bs : List Nat) : interleave odd (a :: as) (b :: bs) =
    (if odd then b else a) :: (if odd then a else b) :: interleave (!odd) as bs := by
  cases odd <;> rfl

/-- Symbol m of the coded stream carries bit m of both codewords, the two changing places with each symbol. -/
theorem interleave_getElem? {odd : Bool} {as bs : List Nat} (h : as.length = bs.length) (m : Nat) :
    (interleave odd as bs)[2 * m]? = (if (m + b2n odd) % 2 = 0 then as else bs)[m]? ∧
      (interleave odd as bs)[2 * m + 1]? = (if (m + b2n odd) % 2 = 0 then bs else as)[m]? := by
  induction as generalizing odd bs m with
  | nil =>
    rw [List.length_eq_zero_iff.mp h.symm]
    cases odd <;> exact ⟨by rw [ite_self]; rfl, by rw [ite_self]; rfl⟩
  | cons a as ih =>
    match bs, h with
    | b :: bs, h =>
      rw [interleave_cons]
      cases m with
      | zero => cases odd <;> exact ⟨rfl, rfl⟩
      | succ m =>
        have hparity : (m + b2n !odd) % 2 = (m + 1 + b2n odd) % 2 := by
          cases odd
          · rfl
          · exact (Nat.add_mod_right m 2).symm
        rw [← hparity]
        have hrest := ih (odd := !odd) (Nat.succ.inj h) m
        by_cases hplace : (m + b2n !odd) % 2 = 0
        · rw [if_pos hplace, if_pos hplace] at hrest ⊢
          exact hrest
        · rw [if_neg hplace, if_neg hplace] at hrest ⊢
          exact hrest

/-- Settles O17: the first symbol carries A and then B, and each symbol changes their places. -/
theorem interleaving : Obligations.Interleaving := by
  unfold Obligations.Interleaving
  intro a b m x
  have hbit (c : Fin 1428 → Nat) : (List.ofFn c)[m.val]? = some (c m) := by rw [List.getElem?_ofFn, dif_pos m.isLt]
  obtain ⟨hmsb, hlsb⟩ := interleave_getElem? (odd := false) (as := List.ofFn a) (bs := List.ofFn b)
    (by rw [List.length_ofFn, List.length_ofFn]) m
  rw [show m.val + b2n false = m.val from rfl] at hmsb hlsb
  split
  next heven => exact ⟨by rw [hmsb, if_pos heven, hbit], by rw [hlsb, if_pos heven, hbit]⟩
  next hodd => exact ⟨by rw [hmsb, if_neg hodd, hbit], by rw [hlsb, if_neg hodd, hbit]⟩

theorem interleave_length {odd : Bool} {as bs : List Nat} (h : as.length = bs.length) :
    (interleave odd as bs).length = 2 * as.length := by
  induction as generalizing odd bs with
  | nil => cases odd <;> rfl
  | cons a as ih =>
    match bs, h with
    | b :: bs, h =>
      rw [interleave_cons, List.length_cons, List.length_cons, ih (Nat.succ.inj h), List.length_cons, Nat.mul_succ]

theorem interleave_isBits {odd : Bool} {as bs : List Nat} (ha : IsBits as) (hb : IsBits bs) :
    IsBits (interleave odd as bs) := by
  induction as generalizing odd bs with
  | nil => cases odd <;> exact isBits_nil
  | cons a as ih =>
    cases bs with
    | nil => cases odd <;> exact isBits_nil
    | cons b bs =>
      obtain ⟨ha0, has⟩ := isBits_cons.mp ha
      obtain ⟨hb0, hbs⟩ := isBits_cons.mp hb
      rw [interleave_cons]
      refine isBits_cons.mpr ⟨?_, isBits_cons.mpr ⟨?_, ih has hbs⟩⟩ <;> split <;> assumption

/-- The data bits of a frame are divided evenly between the two codewords (R58). -/
theorem splitAB_length {k : Nat} {d : List Nat} (h : d.length = 2 * k) :
    (splitAB d).1.length = k ∧ (splitAB d).2.length = k := by
  induction k generalizing d with
  | zero => rw [List.length_eq_zero_iff.mp h]; exact ⟨rfl, rfl⟩
  | succ k ih =>
    match d, h with
    | a :: b :: rest, h =>
      obtain ⟨hA, hB⟩ := ih (length_of_pair_cons h)
      exact ⟨congrArg (· + 1) hA, congrArg (· + 1) hB⟩

theorem splitAB_isBits : ∀ {d : List Nat}, IsBits d → IsBits (splitAB d).1 ∧ IsBits (splitAB d).2
  | [], h => ⟨h, h⟩
  | [_], h => ⟨h, isBits_nil⟩
  | a :: b :: rest, h => by
    obtain ⟨ha, hb, hrest⟩ := h.pair
    obtain ⟨hA, hB⟩ := splitAB_isBits hrest
    exact ⟨isBits_cons.mpr ⟨ha, hA⟩, isBits_cons.mpr ⟨hb, hB⟩⟩

theorem codedStream_length {d : List Nat} (h : d.length = 2720) : (codedStream d).length = 2856 := by
  obtain ⟨hA, hB⟩ := splitAB_length (k := 1360) h
  rw [codedStream, interleave_length (by rw [kicEncode_length, kicEncode_length, hA, hB]), kicEncode_length, hA]

theorem codedStream_isBits {d : List Nat} (h : IsBits d) : IsBits (codedStream d) :=
  interleave_isBits (kicEncode_isBits (splitAB_isBits h).1) (kicEncode_isBits (splitAB_isBits h).2)

theorem b2n_lt_two (b : Bool) : b2n b < 2 := by cases b <;> decide

/-! ### The bits of a frame (R49) -/

/-- The bits of a frame before scrambling: the overhead byte from its top bit on, and the coded stream. -/
def unscrambledBits (i : FrameInput) : List Nat :=
  (List.range 8).map (fun k => bitAt i.overhead (7 - k)) ++ codedStream i.data

theorem unscrambledBits_length {i : FrameInput} (h : i.data.length = 2720) : (unscrambledBits i).length = 2864 := by
  rw [unscrambledBits, List.length_append, List.length_map, List.length_range, codedStream_length h]

theorem unscrambledBits_isBits {i : FrameInput} (h : IsBits i.data) : IsBits (unscrambledBits i) := by
  refine IsBits.append (fun b hb => ?_) (codedStream_isBits h)
  obtain ⟨k, -, rfl⟩ := List.mem_map.mp hb
  exact bitAt_lt_two _ _

theorem frameBits_eq (i : FrameInput) (w : Nat) : (frameBits i w).1 =
    if i.scramble then List.zipWith (fun a b => (a + b) % 2) (unscrambledBits i) (scramblerFrame w).1
    else unscrambledBits i := rfl

theorem frameBits_length {i : FrameInput} (h : i.data.length = 2720) (w : Nat) : (frameBits i w).1.length = 2864 := by
  rw [frameBits_eq, scramblerFrame_eq]
  split
  · rw [List.length_zipWith, unscrambledBits_length h, List.length_map, List.length_range, Nat.min_self]
  · exact unscrambledBits_length h

theorem frameBits_isBits {i : FrameInput} (h : IsBits i.data) (w : Nat) : IsBits (frameBits i w).1 := by
  rw [frameBits_eq]
  split
  · intro b hb
    rw [← List.map_uncurry_zip_eq_zipWith] at hb
    obtain ⟨x, -, rfl⟩ := List.mem_map.mp hb
    exact Nat.mod_lt _ Nat.two_pos
  · exact unscrambledBits_isBits h

/-! ### Levels (R60, R62) -/

theorem grayLevel_lt (m l : Nat) : grayLevel m l < 4 := by
  unfold grayLevel
  split <;> split <;> omega

theorem grayBits_grayLevel {m l : Nat} (hm : m < 2) (hl : l < 2) : grayBits (grayLevel m l) = [m, l] := by
  obtain rfl | rfl : m = 0 ∨ m = 1 := by omega
  all_goals obtain rfl | rfl : l = 0 ∨ l = 1 := by omega
  all_goals rfl

theorem grayMap_lt : ∀ bs : List Nat, ∀ x ∈ grayMap bs, x < 4
  | [] => List.forall_mem_nil _
  | [_] => List.forall_mem_nil _
  | m :: l :: rest => List.forall_mem_cons.mpr ⟨grayLevel_lt m l, grayMap_lt rest⟩

theorem grayMap_length {k : Nat} {bs : List Nat} (h : bs.length = 2 * k) : (grayMap bs).length = k := by
  induction k generalizing bs with
  | zero => rw [List.length_eq_zero_iff.mp h]; rfl
  | succ k ih =>
    match bs, h with
    | m :: l :: rest, h => exact congrArg (· + 1) (ih (length_of_pair_cons h))

/-- The Gray map can be read back. -/
theorem flatMap_grayBits_grayMap {k : Nat} {bs : List Nat} (h : bs.length = 2 * k) (hbits : IsBits bs) :
    (grayMap bs).flatMap grayBits = bs := by
  induction k generalizing bs with
  | zero => rw [List.length_eq_zero_iff.mp h]; rfl
  | succ k ih =>
    match bs, h with
    | m :: l :: rest, h =>
      obtain ⟨hm, hl, hrest⟩ := hbits.pair
      rw [grayMap, List.flatMap_cons, grayBits_grayLevel hm hl, ih (length_of_pair_cons h) hrest]
      rfl

theorem precode_length (y : Nat) (xs : List Nat) : (precode y xs).length = xs.length := by
  induction xs generalizing y with
  | nil => rfl
  | cons x xs ih => exact congrArg (· + 1) (ih _)

/-- The receiver recovers every sequence of levels, whatever level both begin from. -/
theorem unprecode_precode {xs : List Nat} (h : ∀ x ∈ xs, x < 4) (y : Nat) : unprecode y (precode y xs) = xs := by
  induction xs generalizing y with
  | nil => rfl
  | cons x xs ih =>
    obtain ⟨hx, hxs⟩ := List.forall_mem_cons.mp h
    rw [precode, unprecode, ih hxs, show ((x + 4 - y % 4) % 4 + y) % 4 = x by omega]

/-- The levels that a frame sends for its overhead and coded bits, precoded where precoding is enabled (R62). -/
def sentLevels (i : FrameInput) (w : Nat) : List Nat :=
  if i.precoded then precode 0 (grayMap (frameBits i w).1) else grayMap (frameBits i w).1

theorem frameLevels_eq (i : FrameInput) (prev : Option Nat) (w : Nat) : (frameLevels i prev w).1 =
    placeBlocks 32 prev (pilotLevels i.frame i.complement ++ sentLevels i w) := rfl

theorem sentLevels_length {i : FrameInput} (h : i.data.length = 2720) (w : Nat) : (sentLevels i w).length = 1432 := by
  have hmap : (grayMap (frameBits i w).1).length = 1432 := grayMap_length (frameBits_length h w)
  unfold sentLevels
  split
  · rw [precode_length, hmap]
  · exact hmap

/-- The receiver, set as the transmitter is, undoes the precoding of a frame. -/
theorem unprecode_sentLevels (i : FrameInput) (w : Nat) :
    (if i.precoded then unprecode 0 (sentLevels i w) else sentLevels i w) = grayMap (frameBits i w).1 := by
  unfold sentLevels
  split
  · exact unprecode_precode (grayMap_lt _) 0
  · rfl

/-- Settles O18: what the transmitter and the receiver do is their definition, and the one undoes the other. -/
theorem precoding : Obligations.Precoding := by
  unfold Obligations.Precoding
  refine ⟨frameLevels_eq, fun y x xs => ⟨_, ?_, rfl⟩, fun levels => rfl, fun y x xs => rfl, fun x => ?_⟩
  · omega
  · exact unprecode_precode (List.forall_mem_map.mpr fun a _ => a.isLt) 0

/-- Settles O19: the levels are their definition, and a frame's bits are the scrambled ones where it is scrambled. -/
theorem grayCode : Obligations.GrayCode := by
  unfold Obligations.GrayCode
  refine ⟨rfl, rfl, rfl, rfl, fun m l rest => rfl, fun i prev w hscramble hplain => ?_⟩
  rw [frameLevels_eq, sentLevels, hplain, if_neg Bool.false_ne_true, frameBits_eq, hscramble, if_pos rfl]
  rfl

/-! ### The layout of a frame in blocks (R35, R36, R38) -/

theorem placeBlocks_succ (n : Nat) (prev : Option Nat) (body : List Nat) : placeBlocks (n + 1) prev body =
    stuffLevel prev :: (body.take 45 ++ placeBlocks n (body.take 45).getLast? (body.drop 45)) := rfl

/-- Symbol j of block b, which is full, stands after the block's stuff symbol. -/
theorem placeBlocks_getElem? {n b j : Nat} {prev : Option Nat} {body : List Nat} (hb : b < n) (hj : j < 45)
    (hfull : 45 * b + 45 ≤ body.length) : (placeBlocks n prev body)[46 * b + 1 + j]? = body[45 * b + j]? := by
  induction n generalizing b prev body with
  | zero => exact absurd hb (Nat.not_lt_zero b)
  | succ n ih =>
    have htake : (body.take 45).length = 45 := List.length_take_of_le (by omega)
    rw [placeBlocks_succ]
    cases b with
    | zero =>
      rw [show 46 * 0 + 1 + j = j + 1 by omega, List.getElem?_cons_succ, List.getElem?_append_left (by omega),
        List.getElem?_take_of_lt hj, Nat.mul_zero, Nat.zero_add]
    | succ b =>
      have hrest := ih (b := b) (prev := (body.take 45).getLast?) (body := body.drop 45) (by omega)
        (by rw [List.length_drop]; omega)
      rw [show 46 * (b + 1) + 1 + j = (45 + (46 * b + 1 + j)) + 1 by omega, List.getElem?_cons_succ,
        List.getElem?_append_right (by omega), htake, Nat.add_sub_cancel_left, hrest, List.getElem?_drop]
      congr 1
      omega

/-- Settles O15: coded-stream symbol m is symbol 12 + m of the frame's 1,440 symbols besides stuff. -/
theorem symbolPositions : Obligations.SymbolPositions := by
  unfold Obligations.SymbolPositions
  intro prev pilots overhead coded m
  have hm := m.isLt
  have hhead : (List.ofFn pilots ++ List.ofFn overhead).length = 12 := by
    rw [List.length_append, List.length_ofFn, List.length_ofFn]
  have hlen : (List.ofFn pilots ++ List.ofFn overhead ++ List.ofFn coded).length = 1440 := by
    rw [List.length_append, hhead, List.length_ofFn]
  have hcoded : (List.ofFn pilots ++ List.ofFn overhead ++ List.ofFn coded)[12 + m.val]? = some (coded m) := by
    rw [List.getElem?_append_right (by omega), hhead, Nat.add_sub_cancel_left, List.getElem?_ofFn, dif_pos hm]
  split
  next hfirst =>
    rw [show 13 + m.val = 46 * 0 + 1 + (12 + m.val) by omega, placeBlocks_getElem? (by omega) (by omega) (by omega),
      Nat.mul_zero, Nat.zero_add]
    exact hcoded
  next hlater =>
    rw [placeBlocks_getElem? (by omega) (by omega) (by omega),
      show 45 * (1 + (m.val - 33) / 45) + (m.val - 33) % 45 = 12 + m.val by omega]
    exact hcoded

/-- Without its stuff symbols a frame is the body that was laid out. -/
theorem unstuff_placeBlocks {n : Nat} {body : List Nat} (h : body.length = 45 * n) (prev : Option Nat) :
    unstuff n (placeBlocks n prev body) = body := by
  induction n generalizing prev body with
  | zero => rw [List.length_eq_zero_iff.mp h]; rfl
  | succ n ih =>
    have htake : (body.take 45).length = 45 := List.length_take_of_le (by omega)
    rw [placeBlocks_succ, unstuff, List.drop_succ_cons, List.drop_zero, List.take_left' htake, List.drop_succ_cons,
      List.drop_left' htake, ih (by rw [List.length_drop]; omega), List.take_append_drop]

/-! ### From levels back to bits -/

/-- A frame of 2,720 data bits is read back from its levels, whatever its layout starts after. -/
theorem lineBits_frameLevels {i : FrameInput} (hlen : i.data.length = 2720) (hbits : IsBits i.data) (prev : Option Nat)
    (w : Nat) : lineBits i.precoded (frameLevels i prev w).1 = (frameBits i w).1 := by
  have hbody : (pilotLevels i.frame i.complement ++ sentLevels i w).length = 45 * 32 := by
    rw [List.length_append, pilotLevels_length, sentLevels_length hlen]
  rw [frameLevels_eq, lineBits, unstuff_placeBlocks hbody, List.drop_left' (pilotLevels_length _ _)]
  calc (if i.precoded then unprecode 0 (sentLevels i w) else sentLevels i w).flatMap grayBits
      = (grayMap (frameBits i w).1).flatMap grayBits := by rw [unprecode_sentLevels]
    _ = (frameBits i w).1 :=
      flatMap_grayBits_grayMap (k := 1432) (frameBits_length hlen w) (frameBits_isBits hbits w)

/-- Settles O23: any 2,720 data bits, under any settings of the frame, are read back from its levels. -/
theorem frameRoundTrip : Obligations.FrameRoundTrip := by
  unfold Obligations.FrameRoundTrip
  intro f complement scramble precoded overhead d prev w i
  have hdata : i.data = List.ofFn fun k => b2n (d k) := by dsimp only [i]
  have hlen : i.data.length = 2720 := by rw [hdata, List.length_ofFn]
  have hbits : IsBits i.data := by
    intro b hb
    obtain ⟨k, rfl⟩ := List.mem_ofFn.mp (hdata ▸ hb)
    exact b2n_lt_two (d k)
  exact lineBits_frameLevels hlen hbits prev w

end Sys2Proof.Machine
end

section
/-!
PROOF. The transmit direction: frames, superframe boundaries, squelch, full scale and the shadow set.
-/

namespace Sys2Proof.Machine

open Sys2Proof

/-- Settles O35: the next states are those of the operations as they are defined. -/
theorem transmitCommands : Obligations.TransmitCommands := by
  unfold Obligations.TransmitCommands
  intro s
  have hframe (l : Lane) (a b : List Bool) : Runs (.txFrame l a b) s (txFrameOp l a b s) := rfl
  have hboundary (l : Lane) : Runs (.txSuperframeBoundary l) s (txSuperframeBoundaryOp l s) := rfl
  have hrate (l : Lane) : Runs (.txRateResume l) s (txRateResumeOp l s) := rfl
  have hslice (l : Lane) : Runs (.txSliceResume l) s (txSliceResumeOp l s) := rfl
  have hburst (l : Lane) : Runs (.trainingBurstStart l) s (trainingBurstStartOp l s) := rfl
  have hsquelch (l : Lane) : Runs (.squelchOn l) s (squelchOnOp l s) := rfl
  have hscale (l : Lane) (fs : BitVec 5) : Runs (.fsWrite l fs) s (fsWriteOp l fs.toNat s) := rfl
  have hcommit (l : Lane) : Runs (.txpCommitApply l) s (txpCommitApplyOp l s) := rfl
  have hsnap (l : Lane) : Runs (.txpSnap l) s (txpSnapOp l s) := rfl
  have hadapt (l : Lane) (fir pd : List Int) : Runs (.txAdaptStep l fir pd) s (txAdaptStepOp l fir pd s) := rfl
  exact ⟨hframe, hboundary, hrate, hslice, hburst, hsquelch, hscale, hcommit, hsnap, hadapt⟩

end Sys2Proof.Machine
end

section
/-!
PROOF. The receive direction: loss of signal, the AGC and convergence bits, and the loops.
-/

namespace Sys2Proof.Machine

open Sys2Proof

/-! ### Commands whose operation is known -/

/-- A command runs to any state that its operation equals. -/
theorem Runs.of_eq {c : Instr} {s u v : State} (hx : exec c s = done u) (h : u = v) : Runs c s v := h ▸ hx

/-- From the line lanes' blocks on, a register field at another place than IN_RESET is plain: no counted event changes
it and no reset rests on it (R334). -/
theorem plain_regionFld {a lo w rst : Nat} (ha : 0x02000000 ≤ a ∧ a < 2 ^ 36) (hlo : lo < 64)
    (hr : a % 65536 * 64 + lo ≠ 775) : Plain (fld a lo w rst .block) := by
  refine ⟨?_, ?_, ?_⟩
  · simp only [Fld.counter, Kind.code]; omega
  · simp only [Kind.code]; omega
  · simp only [Kind.code]; omega

/-- A command that gives one plain status bit a value where its condition holds changes that bit alone. -/
theorem effectIf_setB {c : Instr} {s : State} {f : Fld} {v g : Bool} (hw : f.w = 1) (hf : Plain f)
    (hx : exec c s = done (if g = true then s.setB f v else s)) : EffectIf g c s [(f, b2n v)] s := by
  have hv : b2n v < 2 ^ f.w := by rw [hw]; exact b2n_lt_two v
  exact effectIf_of_done hx (fun _ => After.nil.set hv hf (List.forall_mem_nil _)) rfl

/-! ### Loss of signal, the AGC and convergence (R76, R81, R83, R103) -/

section
variable (s : State) (l : Lane)

theorem plain_losRaw : Plain (R.LRX_STAT_LOS_RAW l) := plain_regionFld (by omega) (by omega) (by omega)

theorem powerDetectorReady_effect :
    EffectIf (s.laneUp l) (.powerDetectorReady l) s [] (s.putRx l { s.rx l with detector := true }) :=
  effectIf_of_done rfl (fun _ => After.nil.putRx _ _) rfl

theorem losRawClear_effect (amp : Nat) : EffectIf (s.laneUp l && (s.rx l).detector && s.getB (R.LRX_STAT_LOS_RAW l)
      && (if s.getB (R.LFR_STAT_RX_DIM l) = true then decide (5 * s.get (R.LRX_CFG_LOS_THR l) < amp)
          else decide (25 * s.get (R.LRX_CFG_LOS_THR l) < 4 * amp))) (.losRawClear l amp) s
    [(R.LRX_STAT_LOS_RAW l, 0)] s :=
  effectIf_setB (v := false) rfl (plain_losRaw l) rfl

/-- LOS_CLEAR takes LOS to 0, with its source where LOS showed (R81). -/
theorem losClear_effect : EffectIf (s.laneUp l && (s.rx l).detector && !s.getB (R.LRX_STAT_LOS_RAW l)) (.losClear l) s
    (s.changeAfter (R.LRX_STAT_LOS l) false ⟨.lrx, l⟩ 1) s := by
  have hl := l.isLt
  have hlos : Plain (R.LRX_STAT_LOS l) := plain_regionFld (by omega) (by omega) (by omega)
  have hirq : Plain (R.IRQ_RAW_RAW ⟨.lrx, l⟩ 1) := plain_regionFld (by simp only [Blk.base]; omega) (by omega)
    (by simp only [Blk.base]; omega)
  have hkey : (R.LRX_STAT_LOS l).key ≠ (R.IRQ_RAW_RAW ⟨.lrx, l⟩ 1).key := by
    simp only [R.LRX_STAT_LOS, R.IRQ_RAW_RAW, Blk.base, Kind.code]
    omega
  refine effectIf_of_done (v := s.change (R.LRX_STAT_LOS l) false ⟨.lrx, l⟩ 1) rfl (fun _ => ?_) (State.change_core ..)
  have ha : After s (s.change (R.LRX_STAT_LOS l) false ⟨.lrx, l⟩ 1)
      (s.changeAfter (R.LRX_STAT_LOS l) false ⟨.lrx, l⟩ 1 ++ []) :=
    After.nil.change rfl ⟨by show l.val < 32; omega, by omega⟩ hlos hirq hkey (List.forall_mem_nil _)
  rwa [List.append_nil] at ha

theorem dimSignalTimeout_effect :
    EffectIf (s.getB (R.LFR_STAT_RX_DIM l)) (.dimSignalTimeout l) s [(R.LRX_STAT_LOS_RAW l, 1)] s :=
  effectIf_setB (v := true) rfl (plain_losRaw l) rfl

theorem agcDone_effect : EffectIf (s.sampling l && decide (16 ≤ (s.rx l).agcRun)) (.agcDone l) s
    [(R.LRX_STAT_AGC_DONE l, 1)] s :=
  effectIf_setB (v := true) rfl (plain_regionFld (by omega) (by omega) (by omega)) rfl

theorem ffeConverged_effect : EffectIf (loopsRun (s.laneCode l) && decide (16 ≤ (s.rx l).ffeRun) && (s.rx l).snrTen)
    (.ffeConverged l) s [(R.REQ_STAT_FFE_CONV l, 1)] s :=
  effectIf_setB (v := true) rfl (plain_regionFld (by omega) (by omega) (by omega)) rfl

theorem mlseConverged_effect : EffectIf (loopsRun (s.laneCode l) && decide (64 ≤ (s.rx l).mlseRun)) (.mlseConverged l) s
    [(R.REQ_STAT_MLSE_CONV l, 1)] s :=
  effectIf_setB (v := true) rfl (plain_regionFld (by omega) (by omega) (by omega)) rfl

end

/-- Settles O31: each command sets or clears one bit, or starts the detector in the lane's record; LOS goes with its
source. -/
theorem signalAndConvergence : Obligations.SignalAndConvergence := by
  unfold Obligations.SignalAndConvergence
  intro s l
  exact ⟨powerDetectorReady_effect s l, losRawClear_effect s l, losClear_effect s l, dimSignalTimeout_effect s l,
    agcDone_effect s l, ffeConverged_effect s l, mlseConverged_effect s l⟩

/-! ### The loops, freezes and shadows (R76 to R108) -/

/-- Settles O32: the next states are those of the operations as they are defined; O32 states the conditions of
ECHO_SEARCH, FFE_COMMIT, FFE_COMMIT_APPLY and WARM_START_TIMEOUT as propositions. -/
theorem receiveLoops : Obligations.ReceiveLoops := by
  unfold Obligations.ReceiveLoops
  intro s l
  have hupdate (u : RxUpdate) : Runs (.rxSuperframeUpdate l u) s (rxSuperframeUpdateOp l u s) := rfl
  have hfreeze (v : BitVec 7) : Runs (.adaptFreeze l v) s (adaptFreezeOp l v.toNat s) := rfl
  have hsnap : Runs (.ffeSnap l) s (ffeSnapOp l s) := rfl
  have hwindow (h1 h2 : BitVec 12) : Runs (.measWindowEnd l h1 h2) s (measWindowEndOp l h1.toNat h2.toNat s) := rfl
  have hstart : Runs (.histStart l) s (histStartOp l s) := rfl
  have hdone : Runs (.histDone l) s (histDoneOp l s) := rfl
  have hcoast : (s.laneCode l == 4) = true ↔ s.laneCode l = 4 := beq_iff_eq
  refine ⟨hupdate, fun ps => ?echo, hfreeze, ?commit, ?apply, hsnap, ?warm, hwindow, hstart, hdone⟩
  case echo =>
    have hidle : (!s.fwcRunning || s.expert ⟨.req, l⟩) = true ↔ s.fwcRunning = false ∨ s.expert ⟨.req, l⟩ = true := by
      rw [Bool.or_eq_true, Bool.not_eq_true']
    have hplaces : (s.laneCode l == 2 || s.laneCode l == 3) = true ↔ s.laneCode l = 2 ∨ s.laneCode l = 3 := by
      rw [Bool.or_eq_true, beq_iff_eq, beq_iff_eq]
    exact Runs.of_eq rfl (ite_congr (propext hidle) (fun _ => rfl) fun _ => ite_congr rfl
      (fun _ => ite_congr (propext hplaces) (fun _ => rfl) fun _ => rfl)
      (fun _ => ite_congr (propext hcoast) (fun _ => rfl) fun _ => rfl))
  case commit => exact Runs.of_eq rfl (ite_congr (propext hcoast) (fun _ => rfl) fun _ => rfl)
  case apply =>
    have hpending : ((s.rx l).commit && s.laneCode l != 4) = true ↔ (s.rx l).commit = true ∧ s.laneCode l ≠ 4 := by
      rw [Bool.and_eq_true, bne_iff_ne]
    exact Runs.of_eq rfl (ite_congr (propext hpending) (fun _ => rfl) fun _ => rfl)
  case warm =>
    have hlate : (s.laneCode l == 1 && (s.rx l).warm && s.fwcRunning) = true ↔
        s.laneCode l = 1 ∧ (s.rx l).warm = true ∧ s.fwcRunning = true := by
      rw [Bool.and_eq_true, Bool.and_eq_true, beq_iff_eq, and_assoc]
    exact Runs.of_eq rfl (ite_congr (propext hlate) (fun _ => rfl) fun _ => rfl)

end Sys2Proof.Machine
end

section
/-!
PROOF. The capture engines (R110 to R114).
-/

namespace Sys2Proof.Machine

open Sys2Proof

/-- Settles O38: the next states are those of the operations as they are defined. -/
theorem captureEngine : Obligations.CaptureEngine := by
  unfold Obligations.CaptureEngine
  intro s
  have harm (sh : Sheaf) (req : Requester) : Runs (.capArm sh req) s (capArmOp sh req s) := rfl
  have habort (sh : Sheaf) (written : Nat) (taken : List (List LineSamples)) :
    Runs (.capAbort sh written taken) s (capAbortOp sh written taken s) := rfl
  have hfill (sh : Sheaf) (req : Requester) : Runs (.capFill sh req) s (capFillOp sh req s) := rfl
  have hfilled (sh : Sheaf) : Runs (.capFillDone sh) s (capFillDoneOp sh s) := rfl
  have htrigger (sh : Sheaf) (written : Nat) : Runs (.capTrigger sh written) s (capTriggerOp sh written s) := rfl
  have hdone (sh : Sheaf) (pos : List (Nat × Nat × Bool × Nat)) (taken : List (List LineSamples)) :
    Runs (.capDone sh pos taken) s (capDoneOp sh pos taken s) := rfl
  exact ⟨harm, habort, hfill, hfilled, htrigger, hdone⟩

end Sys2Proof.Machine
end

section
/-!
PROOF. The mailbox and the commands that firmware serves (R355).
-/

namespace Sys2Proof.Machine

open Sys2Proof

/-- Settles O59: the next states are those of the operations as they are defined. -/
theorem mailboxCommands : Obligations.MailboxCommands := by
  unfold Obligations.MailboxCommands
  intro s
  have hsubmit (n : Fin 4) (opcode : Byte) (len : BitVec 9) (owner : Bool) :
    Runs (.mbxSubmit n opcode len owner) s (mbxSubmitOp n opcode.toNat len.toNat owner s) := rfl
  have hack (slots : BitVec 4) : Runs (.mbxAck slots) s (mbxAckOp slots.toNat s) := rfl
  have habort (slots : BitVec 4) : Runs (.mbxAbort slots) s (mbxAbortOp slots.toNat s) := rfl
  have hend (n : Fin 4) (timeout : Bool) : Runs (.mbxCommandDone n timeout) s (mbxCommandDoneOp n timeout s) := rfl
  have hinfo (n : Fin 4) : Runs (.fwInfo n) s (fwInfoOp n s) := rfl
  have hbringup (n : Fin 4) : Runs (.linkBringup n) s (linkBringupOp n s) := rfl
  have hrestart (n : Fin 4) : Runs (.linkRestart n) s (linkRestartOp n s) := rfl
  have hcal (n : Fin 4) : Runs (.calStartup n) s (calStartupOp n s) := rfl
  have hcapture (n : Fin 4) : Runs (.capture n) s (captureOp n s) := rfl
  have hspdm (n : Fin 4) : Runs (.spdm n) s (spdmOp n s) := rfl
  have hprofile (n : Fin 4) : Runs (.profileApply n) s (profileApplyOp n s) := rfl
  have hprofileStore (n : Fin 4) : Runs (.profileStore n) s (profileStoreOp n s) := rfl
  have hgranary (n : Fin 4) : Runs (.granaryWrite n) s (granaryWriteOp n s) := rfl
  have hfwStore (n : Fin 4) : Runs (.fwStore n) s (fwStoreOp n s) := rfl
  have hselect (n : Fin 4) : Runs (.fwSelect n) s (fwSelectOp n s) := rfl
  have herase (n : Fin 4) : Runs (.stubErase n) s (stubEraseOp n s) := rfl
  exact ⟨hsubmit, hack, habort, hend, hinfo, hbringup, hrestart, hcal, hcapture, hspdm, hprofile, hprofileStore,
    hgranary, hfwStore, hselect, herase⟩

end Sys2Proof.Machine
end

section
/-!
PROOF. The counts that the degrade thresholds stand for (R142).
-/

namespace Sys2Proof.Machine

open Sys2Proof

/-- A count reaches the threshold just where, times 10^E, it reaches M times the window's coded bits (R142). -/
theorem threshold_le_iff {M E W T : Nat} : threshold M E W ≤ T ↔ M * windowBits W ≤ T * 10 ^ E := by
  have hpos : 0 < 10 ^ E := Nat.pow_pos (by decide)
  unfold threshold
  rw [Nat.div_le_iff_le_mul_add_pred hpos, Nat.mul_comm T]
  omega

/-- Settles O25: the threshold is the quotient rounded up, which is at most a count just where the count reaches it. -/
theorem degradeThreshold : Obligations.DegradeThreshold := by
  unfold Obligations.DegradeThreshold
  intro M E W
  exact ⟨rfl, threshold_le_iff.mp (Nat.le_refl _), fun T hT => threshold_le_iff.mpr hT⟩

end Sys2Proof.Machine
end

section
/-!
PROOF. The inner decoder: what a frame leaves in the counters of IDEC and in the lane's record, and what the other
commands of the FEC chain do (R121 to R147).
-/

namespace Sys2Proof.Machine

open Sys2Proof

/-! ### The counters of the inner decoder (R140) -/

/-- The counters of IDEC by number: codewords, corrected bits, uncorrectable codewords, second passes, second passes lost
to a pause, and rescued codewords (R140, R146). -/
@[reducible] def idecCounter (l : Nat) (i : Fin 6) : Fld :=
  fld ((0x02020000 + l * 0x00100000) + (0x60 + 8 * i.val)) 0 48 0 .block

theorem forall_idecCounter {l : Nat} {P : Fld → Prop} : (∀ f ∈ [R.IDEC_CW_COUNT l, R.IDEC_CORR_BITS_COUNT l,
    R.IDEC_UNCORR_COUNT l, R.IDEC_P2_RUN_COUNT l, R.IDEC_P2_SKIP_COUNT l, R.IDEC_P2_RESCUE_COUNT l], P f) ↔
    ∀ i, P (idecCounter l i) := by
  show (∀ f ∈ List.ofFn (idecCounter l), P f) ↔ _
  constructor
  · exact fun h i => h _ (List.mem_ofFn.mpr ⟨i, rfl⟩)
  · intro h f hf
    obtain ⟨i, rfl⟩ := List.mem_ofFn.mp hf
    exact h i

theorem idecCounter_key_inj {l : Nat} {i j : Fin 6} (h : (idecCounter l i).key = (idecCounter l j).key) : i = j := by
  simp only [Kind.code] at h
  omega

theorem plain_idecCounter {l : Nat} (hl : l < 8) (i : Fin 6) : Plain (idecCounter l i) :=
  plain_regionFld (by omega) (by omega) (by omega)

/-- The values of the counters. -/
def idecCounts (l : Nat) (s : State) : Fin 6 → Nat := fun i => s.get (idecCounter l i)

/-- Numbers of which that of counter `i` has moved on by `k`. -/
def bump (n : Fin 6 → Nat) (i : Fin 6) (k : Nat) : Fin 6 → Nat := fun j => if i = j then n j + k else n j

theorem bump_zero (n : Fin 6 → Nat) (i : Fin 6) : bump n i 0 = n := by
  funext j
  unfold bump
  split <;> rfl

/-- Each counter of IDEC holds its number of `n`, in its width (R3, R140). -/
def Counted (l : Nat) (v : State) (n : Fin 6 → Nat) : Prop := ∀ i, v.get (idecCounter l i) = n i % 2 ^ 48

section
variable {s v u : State} {l : Nat} {n : Fin 6 → Nat}

theorem Counted.self (h : ∀ i, s.get (idecCounter l i) < 2 ^ 48) : Counted l s (idecCounts l s) :=
  fun i => (Nat.mod_eq_of_lt (h i)).symm

/-- Updates of other fields move no counter. -/
theorem Counted.after {w : List (Fld × Nat)} (hl : l < 8) (ha : After v u w)
    (hw : ∀ i, ∀ p ∈ w, p.1.key ≠ (idecCounter l i).key) (h : Counted l v n) : Counted l u n :=
  fun i => (ha.rest _ (plain_idecCounter hl i).1 (hw i)).trans (h i)

/-- Updates of no field but performance counters move no counter of IDEC. -/
theorem Counted.beside (hl : l < 8) (ha : After v u []) (h : Counted l v n) : Counted l u n :=
  h.after hl ha fun _ => List.forall_mem_nil _

/-- A counter moves on alone. -/
theorem Counted.wrapInc (i : Fin 6) (k : Nat) (h : Counted l v n) :
    Counted l (v.wrapInc (idecCounter l i) k) (bump n i k) := by
  intro j
  unfold bump State.wrapInc
  by_cases hij : i = j
  · subst hij
    rw [State.get_set_same, h i, if_pos rfl, Nat.mod_add_mod]
  · rw [State.get_set_ne _ _ fun hk => hij (idecCounter_key_inj hk), h j, if_neg hij]

/-- A counter moves on and the event is counted, which moves no counter of IDEC (R445). -/
theorem Counted.wrapInc_count (hl : l < 8) (i : Fin 6) (k : Nat) {b : Blk} {e m : Nat} (h : Counted l v n) :
    Counted l ((v.wrapInc (idecCounter l i) k).count b e m) (bump n i k) :=
  (h.wrapInc i k).beside hl After.nil.count

end

/-! ### The count of a delivered codeword (R128, R140) -/

/-- The places that a codeword's decoding has corrected (R128). -/
def Decoded.corrected (d : Decoded) : Nat := (d.word.map (corrections d.h)).getD 0

/-- What the counters hold after a delivered codeword, from what they held. -/
def Decoded.counts (d : Decoded) (n : Fin 6 → Nat) : Fin 6 → Nat :=
  bump (bump (bump (bump n 0 1) 5 (b2n d.rescued)) 1 d.corrected) 2 (b2n d.word.isNone)

/-- A trigger cause is recorded beside the registers and the receive records (R111). -/
theorem capCause_frame (l cause : Nat) (s : State) : (capCause l cause s).regs = s.regs ∧
    (capCause l cause s).resets = s.resets ∧ (capCause l cause s).rxs = s.rxs := by
  unfold capCause
  dsimp only
  split <;> exact ⟨rfl, rfl, rfl⟩

theorem After.capCause {s v : State} {w : List (Fld × Nat)} (l cause : Nat) (h : After s v w) :
    After s (capCause l cause v) w :=
  have ⟨hregs, hresets, _⟩ := capCause_frame l cause v
  After.congr hregs hresets h

theorem State.rx_congr {s t : State} (h : t.rxs = s.rxs) (l : Nat) : t.rx l = s.rx l := by
  unfold State.rx
  rw [h]

theorem State.putRx_rx_same {s : State} {l : Nat} (hl : l < 8) (r : RxLane) : (s.putRx l r).rx l = r := by
  rw [State.putRx_rx, if_pos ⟨rfl, hl⟩]

/-- UNCORR's source stands at other places than the counters of IDEC (R146). -/
theorem uncorr_after {s : State} {l : Nat} (hl : l < 8) :
    After s (s.irq ⟨.idec, l⟩ 2) [s.irqAfter ⟨.idec, l⟩ 2] :=
  After.nil.irq ⟨by show l < 32; omega, by omega⟩ (plain_regionFld (by simp only [Blk.base]; omega) (by omega)
    (by simp only [Blk.base]; omega)) (List.forall_mem_nil _)

theorem uncorr_key_ne {s : State} (l : Nat) (i : Fin 6) :
    ∀ p ∈ [s.irqAfter ⟨.idec, l⟩ 2], p.1.key ≠ (idecCounter l i).key := by
  refine List.forall_mem_singleton.mpr ?_
  simp only [State.irqAfter, R.IRQ_RAW_RAW, Blk.base, Kind.code]
  omega

/-- A codeword is counted, and a rescue where the second pass alone has decoded it (R128, R140). -/
def countRescue (l : Nat) (rescued : Bool) (s : State) : State :=
  let t := (s.wrapInc (R.IDEC_CW_COUNT l) 1).count ⟨.idec, l⟩ 0x40 1
  if rescued then (t.wrapInc (R.IDEC_P2_RESCUE_COUNT l) 1).count ⟨.idec, l⟩ 0x45 1 else t

/-- The places that the decoding has corrected are counted. -/
theorem countWord_some (l : Nat) (w h last : List Nat) (rescued : Bool) (s : State) :
    countWord l ⟨some w, h, last, rescued⟩ s =
      let t := ((countRescue l rescued s).wrapInc (R.IDEC_CORR_BITS_COUNT l) (corrections h w)).count ⟨.idec, l⟩ 0x41
        (corrections h w)
      t.putRx l { t.rx l with winCorr := (t.rx l).winCorr + corrections h w } := rfl

/-- An uncorrectable codeword is counted, and it is a source and a cause of a capture. -/
theorem countWord_none (l : Nat) (h last : List Nat) (rescued : Bool) (s : State) :
    countWord l ⟨none, h, last, rescued⟩ s =
      let t := (countRescue l rescued s).wrapInc (R.IDEC_UNCORR_COUNT l) 1
      capCause l 5 (((t.putRx l { t.rx l with winUncorr := (t.rx l).winUncorr + 1 }).count ⟨.idec, l⟩ 0x42 1).irq
        ⟨.idec, l⟩ 2) := rfl

section
variable {s v : State} {l : Nat}

/-- Counters, whether they wrap or count an event, stand beside the lane's record. -/
theorem wrapInc_rx (s : State) (f : Fld) (k l : Nat) : (s.wrapInc f k).rx l = s.rx l := rfl

theorem count_rx (s : State) (b : Blk) (e k l : Nat) : (s.count b e k).rx l = s.rx l :=
  State.rx_congr (State.count_rxs ..) l

theorem countRescue_rx (l : Nat) (rescued : Bool) (s : State) : (countRescue l rescued s).rx l = s.rx l := by
  unfold countRescue
  split <;> simp only [count_rx, wrapInc_rx]

theorem Counted.countRescue {n : Fin 6 → Nat} (hl : l < 8) (rescued : Bool) (h : Counted l v n) :
    Counted l (countRescue l rescued v) (bump (bump n 0 1) 5 (b2n rescued)) := by
  have hword := h.wrapInc_count hl 0 1 (b := ⟨.idec, l⟩) (e := 0x40) (m := 1)
  cases rescued with
  | true => exact hword.wrapInc_count hl 5 1
  | false =>
    rw [show b2n false = 0 from rfl, bump_zero]
    exact hword

theorem Counted.countWord {n : Fin 6 → Nat} (hl : l < 8) (d : Decoded) (h : Counted l v n) :
    Counted l (countWord l d v) (d.counts n) := by
  obtain ⟨word, first, last, rescued⟩ := d
  have hrescue := h.countRescue hl rescued
  unfold Decoded.counts
  cases word with
  | some w =>
    rw [countWord_some, show b2n (some w).isNone = 0 from rfl, bump_zero]
    exact (hrescue.wrapInc_count hl 1 (corrections first w)).beside hl (After.nil.putRx _ _)
  | none =>
    rw [countWord_none, show Decoded.corrected ⟨none, first, last, rescued⟩ = 0 from rfl, bump_zero]
    exact (((hrescue.wrapInc 2 1).beside hl (After.nil.putRx _ _).count).after hl (uncorr_after hl)
      (uncorr_key_ne l)).beside hl (After.nil.capCause l 5)

/-- Of the lane's record a counted codeword changes the window in progress alone (R141). -/
theorem countWord_rx (hl : l < 8) (d : Decoded) (s : State) : (countWord l d s).rx l =
    { s.rx l with winCorr := (s.rx l).winCorr + d.corrected,
                  winUncorr := (s.rx l).winUncorr + b2n d.word.isNone } := by
  obtain ⟨word, first, last, rescued⟩ := d
  cases word with
  | some w =>
    rw [countWord_some, State.putRx_rx_same hl, count_rx, wrapInc_rx, countRescue_rx]
    rfl
  | none =>
    rw [countWord_none, State.rx_congr (capCause_frame l 5 _).2.2, State.rx_congr (State.irq_rxs ..), count_rx,
      State.putRx_rx_same hl, wrapInc_rx, countRescue_rx]
    rfl

/-! ### The delivery of a frame (R123, R140) -/

theorem Counted.deliver {n : Fin 6 → Nat} (hl : l < 8) (a b : Decoded) (h : Counted l v n) :
    Counted l (deliver l a b v) (b.counts (a.counts n)) :=
  ((h.countWord hl a).countWord hl b).beside hl (After.nil.putRx _ _)

/-- A delivery leaves of the lane's record all but the window, the data and the mark of lost patterns. -/
theorem deliver_rx (hl : l < 8) (a b : Decoded) (s : State) : (deliver l a b s).rx l =
    { s.rx l with winCorr := (s.rx l).winCorr + a.corrected + b.corrected,
                  winUncorr := (s.rx l).winUncorr + b2n a.word.isNone + b2n b.word.isNone,
                  data := joinAB a.data b.data, lpi := false } := by
  unfold deliver
  rw [State.putRx_rx_same hl, countWord_rx hl, countWord_rx hl]

/-- Codewords `a` and `b` are delivered, after `run` second passes and `skip` lost ones: the counters have moved on by
them, and the data is theirs (R123, R128, R133, R134, R140). -/
def Delivered (l : Nat) (s : State) (a b : Decoded) (run skip : Nat) (t : State) : Prop :=
  t.get (R.IDEC_CW_COUNT l) = (s.get (R.IDEC_CW_COUNT l) + 2) % 2 ^ 48 ∧
  t.get (R.IDEC_CORR_BITS_COUNT l) = (s.get (R.IDEC_CORR_BITS_COUNT l) + a.corrected + b.corrected) % 2 ^ 48 ∧
  t.get (R.IDEC_UNCORR_COUNT l) =
    (s.get (R.IDEC_UNCORR_COUNT l) + b2n a.word.isNone + b2n b.word.isNone) % 2 ^ 48 ∧
  t.get (R.IDEC_P2_RESCUE_COUNT l) = (s.get (R.IDEC_P2_RESCUE_COUNT l) + b2n a.rescued + b2n b.rescued) % 2 ^ 48 ∧
  t.get (R.IDEC_P2_RUN_COUNT l) = (s.get (R.IDEC_P2_RUN_COUNT l) + run) % 2 ^ 48 ∧
  t.get (R.IDEC_P2_SKIP_COUNT l) = (s.get (R.IDEC_P2_SKIP_COUNT l) + skip) % 2 ^ 48 ∧
  (t.rx l).data = joinAB a.data b.data

/-- A delivery after counters that have moved on by second passes, run or lost, alone. -/
theorem Counted.delivered {run skip : Nat} (hl : l < 8) (a b : Decoded)
    (h : Counted l v (bump (bump (idecCounts l s) 3 run) 4 skip)) :
    Delivered l s a b run skip (Machine.deliver l a b v) := by
  have hc := h.deliver hl a b
  exact ⟨hc 0, hc 1, hc 2, hc 5, hc 3, hc 4, by rw [deliver_rx hl]⟩

/-- A delivery after counters that have not moved. -/
theorem Counted.delivered_once (hl : l < 8) (a b : Decoded) (h : Counted l v (idecCounts l s)) :
    Delivered l s a b 0 0 (Machine.deliver l a b v) :=
  Counted.delivered hl a b (by rw [bump_zero, bump_zero]; exact h)

end

/-! ### The settings of a frame (R129, R133, R146) -/

/-- A field that holds a value holds it beside what else is known. -/
theorem After.held {s v : State} {w : List (Fld × Nat)} {f : Fld} {x : Nat} (hx : v.get f = x) (hp : Plain f)
    (h : After s v w) : After s v ((f, x) :: w) :=
  ⟨List.forall_mem_cons.mpr ⟨hx, h.vals⟩, fun g hg hn => h.rest g hg (List.forall_mem_cons.mp hn).2,
    List.forall_mem_cons.mpr ⟨hp, h.plain⟩, h.resets⟩

/-- A lane has at most the passes of PASS's two bits (R129, R146). -/
theorem State.passes_lt (s : State) (l : Nat) : s.passes l < 4 := by
  have hof (code mode : Nat) (coastCandle p2Off hard : Bool) : passesOf code coastCandle mode p2Off hard < 4 := by
    unfold passesOf
    split
    · omega
    · split
      · omega
      · split <;> omega
  unfold State.passes
  split
  · exact hof ..
  · omega

/-- What updates leave, seen from before an update beside the registers. -/
theorem After.beside {s v u : State} {w : List (Fld × Nat)} (h : After s v []) (ha : After v u w) : After s u w :=
  ⟨ha.vals, fun f hf hn => (ha.rest f hf hn).trans (h.rest f hf (List.forall_mem_nil _)), ha.plain,
    ha.resets.trans h.resets⟩

section
variable {l : Nat}

/-- PASS, MLSE_ACTIVE and PASS2_ACTIVE alone follow the lane (R93, R96, R146). -/
theorem passRefresh_after (hl : l < 8) (s : State) : ∃ mlse, After s (passRefresh l s)
    [(R.REQ_STAT_PASS2_ACTIVE l, b2n (s.passes l == 3)), (R.REQ_STAT_MLSE_ACTIVE l, b2n mlse),
     (R.IDEC_STAT_PASS l, s.passes l)] := by
  have hplain : Plain (R.IDEC_STAT_PASS l) := plain_regionFld (by omega) (by omega) (by omega)
  have hpass : After s (if s.get (R.IDEC_STAT_PASS l) == s.passes l then s
      else windowClear l (s.set (R.IDEC_STAT_PASS l) (s.passes l))) [(R.IDEC_STAT_PASS l, s.passes l)] := by
    split
    next hsame => exact After.nil.held (eq_of_beq hsame) hplain
    next => exact (After.nil.set (s.passes_lt l) hplain (List.forall_mem_nil _)).putRx _ _
  refine ⟨_, (hpass.set (b2n_lt_two _) (plain_regionFld (by omega) (by omega) (by omega))
    (List.forall_mem_singleton.mpr ?_)).set (b2n_lt_two _) (plain_regionFld (by omega) (by omega) (by omega))
    (List.forall_mem_cons.mpr ⟨?_, List.forall_mem_singleton.mpr ?_⟩)⟩ <;>
  · simp only [R.IDEC_STAT_PASS, R.REQ_STAT_MLSE_ACTIVE, R.REQ_STAT_PASS2_ACTIVE, Kind.code]
    omega

/-- A change of the passes restarts the window and leaves the data of the last frame (R141). -/
theorem passRefresh_data (hl : l < 8) (s : State) : ((passRefresh l s).rx l).data = (s.rx l).data := by
  have hwindow : ((if s.get (R.IDEC_STAT_PASS l) == s.passes l then s
      else windowClear l (s.set (R.IDEC_STAT_PASS l) (s.passes l))).rx l).data = (s.rx l).data := by
    split
    · rfl
    · rw [windowClear, State.putRx_rx_same hl]
      rfl
  exact hwindow

/-- The stuff pairs go to the Gleaner's record of the lane alone (R209). -/
theorem calPairs_frame (l : Nat) (p : RxShape) (x : LineSamples) (s : State) : (calPairs l p x s).regs = s.regs ∧
    (calPairs l p x s).resets = s.resets ∧ (calPairs l p x s).rxs = s.rxs := by
  unfold calPairs
  dsimp only
  split <;> exact ⟨rfl, rfl, rfl⟩

/-- The state in which a frame is decoded: the Gleaner has its stuff pairs, and the settings stand (R129, R209). -/
def frameStart (l : Nat) (p : RxShape) (x : LineSamples) (s : State) : State := idecSettings l (calPairs l p x s)

theorem frameStart_after (hl : l < 8) (p : RxShape) (x : LineSamples) (s : State) : ∃ a b c,
    After s (frameStart l p x s)
      [(R.REQ_STAT_PASS2_ACTIVE l, a), (R.REQ_STAT_MLSE_ACTIVE l, b), (R.IDEC_STAT_PASS l, c)] := by
  obtain ⟨hregs, hresets, -⟩ := calPairs_frame l p x s
  have hsettings (r : RxLane) := (After.congr hregs hresets (After.nil (s := s))).putRx l r
  have hrefresh (r : RxLane) := passRefresh_after hl ((calPairs l p x s).putRx l r)
  obtain ⟨mlse, hstat⟩ := hrefresh _
  exact ⟨_, _, _, (hsettings _).beside hstat⟩

theorem frameStart_data (hl : l < 8) (p : RxShape) (x : LineSamples) (s : State) :
    ((frameStart l p x s).rx l).data = (s.rx l).data := by
  rw [frameStart, idecSettings, passRefresh_data hl, State.putRx_rx_same hl,
    State.rx_congr (calPairs_frame l p x s).2.2]

end

/-! ### The passes of a frame (R122 to R134) -/

/-- What the first pass of a codeword gives: by its hard decisions where one hard pass is in effect, else by the
soft pass over the `p1` least reliable places (R124, R125, R129). -/
def firstPass (pass p1 : Nat) (r : List Int) : Decoded where
  word := if pass = 1 then hardPass (hardBits r) else softPass p1 r
  h := hardBits r
  last := hardBits r
  rescued := false

theorem decodeOnce_eq (pass p1 : Nat) (r : List Int) :
    decodeOnce (if pass = 1 then none else some p1) r = firstPass pass p1 r := by
  unfold decodeOnce firstPass
  by_cases hpass : pass = 1
  · rw [if_pos hpass, if_pos hpass]
  · rw [if_neg hpass, if_neg hpass]

/-- What a second pass makes of a codeword: it stands as the first pass decoded it unless the second one decodes it, and
its last hard decisions are the second's (R127). -/
def rescue (p2 : Nat) (d : Decoded) (r : List Int) : Decoded :=
  { d with word := (softPass p2 r).orElse fun _ => d.word, last := hardBits r,
           rescued := d.word.isNone && (softPass p2 r).isSome }

theorem decodeTwice_eq {d : Decoded} (hd : d.rescued = false) (p2 : Nat) (r : List Int) :
    decodeTwice p2 d r = rescue p2 d r := by
  obtain ⟨word, h, last, rescued⟩ := d
  subst hd
  unfold decodeTwice rescue
  cases softPass p2 r with
  | some w => exact congrArg (Decoded.mk _ _ _) (Bool.and_true _).symm
  | none => exact congrArg (Decoded.mk _ _ _) (Bool.and_false _).symm

/-- What a frame decoded by at least one pass leaves, from the lane's record `r` at its start, the passes in effect, and
the scrambler bits `sc`: one pass delivers where PASS is not 3 or the policy does not want the second one; a pause takes
the second pass; else the second pass runs and the pause begins anew (R126, R127, R133, R134). -/
def FrameDone (l : Nat) (s : State) (p : RxShape) (x : LineSamples) (r : RxLane) (pass : Nat) (sc : List Nat)
    (t : State) : Prop :=
  let q := deinterleave false (descramble sc (firstValues p x))
  let a := firstPass pass r.p1 q.1
  let b := firstPass pass r.p1 q.2
  let q2 := deinterleave false (descramble sc (secondValues p x (framePriors r sc q.1 q.2)))
  if pass ≠ 3 ∨ (!r.failedOnly || a.word.isNone || b.word.isNone) = false then Delivered l s a b 0 0 t
  else if 0 < r.pauseLeft then Delivered l s a b 0 1 t ∧ (t.rx l).winThrottled = true
  else Delivered l s (rescue r.p2 a q2.1) (rescue r.p2 b q2.2) 1 0 t ∧ (t.rx l).pauseLeft = s.p2Pause

/-- Accepting a command's events leaves the registers and the lane's record as they are (R450). -/
theorem FrameDone.settle {l : Nat} {s t : State} {p : RxShape} {x : LineSamples} {r : RxLane} {pass : Nat} {sc : List Nat}
    (h : FrameDone l s p x r pass sc t) : FrameDone l s p x r pass sc (settle t) := h

/-- The pause that a second pass begins is THM's, which updates of other fields leave (R134, R442). -/
theorem After.p2Pause {s v : State} {w : List (Fld × Nat)} (h : After s v w)
    (hw : ∀ p ∈ w, p.1.key ≠ R.THM_STAT_THROTTLING.key ∧ p.1.key ≠ R.THM_THROTTLE_P2_PAUSE.key) :
    v.p2Pause = s.p2Pause := by
  have hthrottling := h.rest R.THM_STAT_THROTTLING (by simp only [Fld.counter]; decide) fun p hp => (hw p hp).1
  have hpause := h.rest R.THM_THROTTLE_P2_PAUSE (by simp only [Fld.counter]; decide) fun p hp => (hw p hp).2
  have hreset := h.inReset (dev .thm) (by decide) (by simp only [Fld.counter]; decide)
  unfold State.p2Pause State.throttling State.getB
  rw [hthrottling, hpause, hreset]

section
variable {s v : State} {l : Nat} {p : RxShape} {x : LineSamples}

/-- A frame loses its second pass to a pause (R134, R140). -/
def passLost (l : Nat) (s : State) : State :=
  let t := (s.wrapInc (R.IDEC_P2_SKIP_COUNT l) 1).count ⟨.idec, l⟩ 0x44 1
  t.putRx l { t.rx l with winThrottled := true }

/-- A second pass runs, and the pause begins anew (R134, R140). -/
def passRun (l : Nat) (s : State) : State :=
  let t := ((s.wrapInc (R.IDEC_P2_RUN_COUNT l) 1).count ⟨.idec, l⟩ 0x43 1).count ⟨.req, l⟩ 0x41 1
  t.putRx l { t.rx l with pauseLeft := t.p2Pause }

theorem passLost_delivered (hl : l < 8) (a b : Decoded) (hc : Counted l v (idecCounts l s)) :
    Delivered l s a b 0 1 (deliver l a b (passLost l v)) ∧ ((deliver l a b (passLost l v)).rx l).winThrottled = true := by
  have hskip : Counted l (passLost l v) (bump (idecCounts l s) 4 1) :=
    (hc.wrapInc_count hl 4 1).beside hl (After.nil.putRx _ _)
  refine ⟨Counted.delivered hl a b ?_, ?_⟩
  · rw [bump_zero]
    exact hskip
  · rw [deliver_rx hl, passLost, State.putRx_rx_same hl]

theorem passRun_rx (hl : l < 8) (v : State) : (passRun l v).rx l = { v.rx l with pauseLeft := v.p2Pause } := by
  have hrun : After v (((v.wrapInc (R.IDEC_P2_RUN_COUNT l) 1).count ⟨.idec, l⟩ 0x43 1).count ⟨.req, l⟩ 0x41 1) _ :=
    (After.nil.wrapInc (plain_idecCounter hl 3) (List.forall_mem_nil _)).count.count
  have hpause := hrun.p2Pause (List.forall_mem_singleton.mpr (by
    simp only [R.THM_STAT_THROTTLING, R.THM_THROTTLE_P2_PAUSE, Kind.code]
    omega))
  unfold passRun
  dsimp only
  rw [State.putRx_rx_same hl, hpause, count_rx, count_rx, wrapInc_rx]

theorem passRun_delivered (hl : l < 8) (a b : Decoded) (hc : Counted l v (idecCounts l s)) :
    Delivered l s a b 1 0 (deliver l a b (passRun l v)) ∧
      ((deliver l a b (passRun l v)).rx l).pauseLeft = v.p2Pause := by
  have hrun : Counted l (passRun l v) (bump (idecCounts l s) 3 1) :=
    ((hc.wrapInc_count hl 3 1).beside hl After.nil.count).beside hl (After.nil.putRx _ _)
  refine ⟨Counted.delivered hl a b ?_, ?_⟩
  · rw [bump_zero]
    exact hrun
  · rw [deliver_rx hl, passRun_rx hl]

/-- The second pass, on the values that the priors of the first give, where the policy wants it and no pause takes it
(R126, R127, R133, R134). -/
theorem secondPass_eq (hl : l < 8) (sc : List Nat) (paused : Bool) {a b : Decoded} (ra rb : List Int)
    (ha : a.rescued = false) (hb : b.rescued = false) (v : State) :
    let e := framePriors (v.rx l) sc ra rb
    let u := v.putRx l { v.rx l with priors := e }
    let q2 := deinterleave false (descramble sc (secondValues p x e))
    secondPass l p x sc paused a b ra rb v =
      if (!(v.rx l).failedOnly || a.word.isNone || b.word.isNone) = false then deliver l a b u
      else if paused = true then deliver l a b (passLost l u)
      else deliver l (rescue (v.rx l).p2 a q2.1) (rescue (v.rx l).p2 b q2.2) (passRun l u) := by
  intro e u q2
  have hu : u.rx l = { v.rx l with priors := e } := State.putRx_rx_same hl _
  have hdef : secondPass l p x sc paused a b ra rb v =
      if !(!(u.rx l).failedOnly || a.word.isNone || b.word.isNone) then deliver l a b u
      else if paused then deliver l a b (passLost l u)
      else deliver l (decodeTwice ((passRun l u).rx l).p2 a q2.1) (decodeTwice ((passRun l u).rx l).p2 b q2.2)
        (passRun l u) := rfl
  rw [hdef, passRun_rx hl, hu, decodeTwice_eq ha, decodeTwice_eq hb]
  exact ite_congr (by rw [Bool.not_eq_true']) (fun _ => rfl) fun _ => rfl

/-- A second pass is judged by the lane's record `r` at the frame's start, of which by then the pause has run down. -/
theorem secondPass_done (hl : l < 8) (sc : List Nat) (paused : Bool) {a b : Decoded} (ra rb : List Int) {r : RxLane}
    {left : Nat} (hr : v.rx l = { r with pauseLeft := left }) (ha : a.rescued = false) (hb : b.rescued = false)
    (hc : Counted l v (idecCounts l s)) (hpause : v.p2Pause = s.p2Pause) :
    let q2 := deinterleave false (descramble sc (secondValues p x (framePriors r sc ra rb)))
    let t := secondPass l p x sc paused a b ra rb v
    if (!r.failedOnly || a.word.isNone || b.word.isNone) = false then Delivered l s a b 0 0 t
    else if paused = true then Delivered l s a b 0 1 t ∧ (t.rx l).winThrottled = true
    else Delivered l s (rescue r.p2 a q2.1) (rescue r.p2 b q2.2) 1 0 t ∧ (t.rx l).pauseLeft = s.p2Pause := by
  intro q2 t
  have hcu (r : RxLane) : Counted l (v.putRx l r) (idecCounts l s) := hc.beside hl (After.nil.putRx l r)
  have ht : t = secondPass l p x sc paused a b ra rb v := rfl
  rw [secondPass_eq hl _ _ _ _ ha hb, hr] at ht
  split
  next hunwanted =>
    rw [ht, if_pos hunwanted]
    exact Counted.delivered_once hl a b (hcu _)
  next hwanted =>
    rw [if_neg hwanted] at ht
    split
    next hpaused =>
      rw [ht, if_pos hpaused]
      exact passLost_delivered hl a b (hcu _)
    next hruns =>
      rw [ht, if_neg hruns, ← hpause]
      exact passRun_delivered hl _ _ (hcu _)

/-- A frame's passes leave what `FrameDone` says (R122 to R134). -/
theorem framePasses_done (hl : l < 8) (f : Nat) (hc : Counted l v (idecCounts l s)) (hpause : v.p2Pause = s.p2Pause) :
    FrameDone l s p x (v.rx l) (v.get (R.IDEC_STAT_PASS l)) (rxScrambler v l f)
      (framePasses l f p x (firstValues p x) v) := by
  unfold framePasses FrameDone
  dsimp only
  rw [decodeOnce_eq, decodeOnce_eq]
  generalize hu : v.putRx l _ = u
  have hrx : u.rx l = { v.rx l with pauseLeft := (v.rx l).pauseLeft - 1 } := hu ▸ State.putRx_rx_same hl _
  have hcu : Counted l u (idecCounts l s) := hu ▸ hc.beside hl (After.nil.putRx l _)
  have hpu : u.p2Pause = s.p2Pause := hu ▸ hpause
  by_cases hpass : v.get (R.IDEC_STAT_PASS l) = 3
  case neg =>
    rw [if_neg hpass, if_pos (Or.inl hpass)]
    exact Counted.delivered_once hl _ _ hcu
  case pos =>
    generalize deinterleave false (descramble (rxScrambler v l f) (firstValues p x)) = q
    simp only [hpass, if_true, ne_eq, not_true_eq_false, false_or]
    simpa only [decide_eq_true_eq] using secondPass_done (p := p) (x := x) hl (rxScrambler v l f)
      (decide (0 < (v.rx l).pauseLeft)) (a := firstPass 3 (v.rx l).p1 q.1) (b := firstPass 3 (v.rx l).p1 q.2) q.1 q.2
      hrx rfl rfl hcu hpu

end

/-! ### IDEC_FRAME (R121) -/

/-- The scrambler bits that IDEC removes hang on two fields of LFR (R73, R122). -/
theorem rxScrambler_after {s v : State} {l : Nat} (hl : l < 8) (h : After s v []) (f : Nat) :
    rxScrambler v l f = rxScrambler s l f := by
  have hbypass := h.rest (R.LFR_TEST_SCR_BYPASS_RX l)
    (plain_regionFld (by omega) (by omega) (by omega)).1 (List.forall_mem_nil _)
  have hcount := h.rest (R.LFR_RX_SFC_COUNT l)
    (plain_regionFld (by omega) (by omega) (by omega)).1 (List.forall_mem_nil _)
  unfold rxScrambler State.getB
  rw [hbypass, hcount]

/-- The status that a frame's start sets stands at other places than the counters of IDEC and the throttling of THM. -/
theorem frameStart_key_ne {l a b c : Nat} : ∀ p ∈ [(R.REQ_STAT_PASS2_ACTIVE l, a), (R.REQ_STAT_MLSE_ACTIVE l, b),
    (R.IDEC_STAT_PASS l, c)], (∀ i, p.1.key ≠ (idecCounter l i).key) ∧
      p.1.key ≠ R.THM_STAT_THROTTLING.key ∧ p.1.key ≠ R.THM_THROTTLE_P2_PAUSE.key := by
  refine List.forall_mem_cons.mpr ⟨⟨fun i => ?_, ?_⟩, List.forall_mem_cons.mpr ⟨⟨fun i => ?_, ?_⟩,
    List.forall_mem_singleton.mpr ⟨fun i => ?_, ?_⟩⟩⟩ <;>
  · simp only [R.REQ_STAT_PASS2_ACTIVE, R.REQ_STAT_MLSE_ACTIVE, R.IDEC_STAT_PASS, R.THM_STAT_THROTTLING,
      R.THM_THROTTLE_P2_PAUSE, Kind.code]
    omega

theorem frameStart_counted {s : State} {l : Nat} (hl : l < 8) (p : RxShape) (x : LineSamples)
    (hc : ∀ i, s.get (idecCounter l i) < 2 ^ 48) : Counted l (frameStart l p x s) (idecCounts l s) := by
  obtain ⟨pass2, mlse, pass, hstart⟩ := frameStart_after hl p x s
  exact (Counted.self hc).after hl hstart fun i f hf => (frameStart_key_ne f hf).1 i

theorem frameStart_p2Pause {l : Nat} (hl : l < 8) (p : RxShape) (x : LineSamples) (s : State) :
    (frameStart l p x s).p2Pause = s.p2Pause := by
  obtain ⟨pass2, mlse, pass, hstart⟩ := frameStart_after hl p x s
  exact hstart.p2Pause fun f hf => (frameStart_key_ne f hf).2

/-- Events counted before the passes change nothing of what they leave. -/
theorem framePasses_done_of_after {s u v : State} {l : Nat} (hl : l < 8) (f : Nat) {p : RxShape} {x : LineSamples}
    (huv : After u v []) (hrx : v.rxs = u.rxs) (hc : Counted l u (idecCounts l s)) (hpause : u.p2Pause = s.p2Pause) :
    FrameDone l s p x (u.rx l) (u.get (R.IDEC_STAT_PASS l)) (rxScrambler u l f)
      (framePasses l f p x (firstValues p x) v) := by
  have hpass : Plain (R.IDEC_STAT_PASS l) := plain_regionFld (by omega) (by omega) (by omega)
  rw [← State.rx_congr hrx, ← huv.rest _ hpass.1 (List.forall_mem_nil _), ← rxScrambler_after hl huv]
  exact framePasses_done hl f (hc.beside hl huv) ((huv.p2Pause (List.forall_mem_nil _)).trans hpause)

section
variable (s : State) (l : Lane) (f : Fin 256) (x : LineSamples)

theorem idecFrame_idle (h : s.sampling l = false ∨ x.size ≠ 1472) : Effect (.idecFrame l f x) s [] s := by
  have hx : exec (.idecFrame l f x) s = done (idecFrameOp l f x s) := rfl
  have hidle : (!s.sampling l || x.size != 1472) = true := by
    rw [Bool.or_eq_true, Bool.not_eq_true', bne_iff_ne]
    exact h
  unfold idecFrameOp at hx
  rw [if_pos hidle] at hx
  exact After.nil.effect hx rfl

/-- A frame of a lane that has samples (R121 to R134). -/
theorem idecFrame_ends (hs : s.sampling l = true) (hx : x.size = 1472)
    (hc : ∀ i, s.get (idecCounter l i) < 2 ^ 48) :
    let y := { x with place := 1472 * f.val }
    let u := frameStart l (s.rxShape l) y s
    Ends (.idecFrame l f x) s fun t =>
      if u.get (R.IDEC_STAT_PASS l) = 0 then
        t.get (R.IDEC_CW_COUNT l) = s.get (R.IDEC_CW_COUNT l) ∧ (t.rx l).data = (s.rx l).data
      else FrameDone l s (s.rxShape l) y (u.rx l) (u.get (R.IDEC_STAT_PASS l)) (rxScrambler u l f) t := by
  intro y u
  have hl := l.isLt
  have hrun : exec (.idecFrame l f x) s = done (idecFrameOp l f x s) := rfl
  have hop : idecFrameOp l f x s = if !s.sampling l || x.size != 1472 then s
      else if u.get (R.IDEC_STAT_PASS l) = 0 then u
      else framePasses l f (s.rxShape l) y (firstValues (s.rxShape l) y)
        (if (s.rxShape l).mlse then u.count ⟨.req, l⟩ 0x40 1 else u) := rfl
  rw [hop, if_neg (by rw [hs, hx]; decide)] at hrun
  refine ⟨_, hrun, ?_⟩
  dsimp only
  have hcu : Counted l u (idecCounts l s) := frameStart_counted hl _ y hc
  have hpu : u.p2Pause = s.p2Pause := frameStart_p2Pause hl _ y s
  have hdata : (u.rx l).data = (s.rx l).data := frameStart_data hl _ y s
  clear_value u y
  by_cases hpass : u.get (R.IDEC_STAT_PASS l) = 0
  case pos =>
    rw [if_pos hpass, if_pos hpass]
    exact ⟨(hcu 0).trans (Nat.mod_eq_of_lt (hc 0)), hdata⟩
  case neg =>
    rw [if_neg hpass, if_neg hpass]
    refine FrameDone.settle ?_
    split
    · exact framePasses_done_of_after hl f After.nil.count (State.count_rxs ..) hcu hpu
    · exact framePasses_done_of_after hl f After.nil rfl hcu hpu

end

/-! ### IDEC_CLR (R140, R146) -/

/-- A field among those that are set to 0 reads 0, where none of the others has its place. -/
theorem get_foldl_set_zero {g : Fld} (fs : List Fld) (hkey : ∀ f ∈ fs, f.key = g.key → f = g) {s : State}
    (h : g ∈ fs ∨ s.get g = 0) : (fs.foldl (fun s f => s.set f 0) s).get g = 0 := by
  induction fs generalizing s with
  | nil => exact h.resolve_left List.not_mem_nil
  | cons f fs ih =>
    obtain ⟨hf, hfs⟩ := List.forall_mem_cons.mp hkey
    refine ih hfs ?_
    by_cases hfg : f.key = g.key
    · rw [hf hfg, State.get_set_same, Nat.zero_mod]
      exact Or.inr rfl
    · rw [State.get_set_ne _ _ hfg]
      exact h.imp_left fun hm => (List.mem_cons.mp hm).resolve_left fun he => hfg (he ▸ rfl)

theorem windowClear_get (l : Nat) (s : State) (g : Fld) : (windowClear l s).get g = s.get g := rfl

/-- Every counter of IDEC reads 0 after IDEC_CLR. -/
theorem idecClr_ends (s : State) (l : Lane) :
    Ends (.idecClr l) s fun t => ∀ i, t.get (idecCounter l i) = 0 := by
  have hx : exec (.idecClr l) s = done (windowClear l ((List.ofFn (idecCounter l) ++ [R.IDEC_WIN_CORR_COUNT l,
    R.IDEC_WIN_UNCORR_COUNT l, R.IDEC_WIN_STAT_VALID l]).foldl (fun s f => s.set f 0) s)) := rfl
  refine ⟨_, hx, fun i => ?_⟩
  rw [settle_get, windowClear_get]
  refine get_foldl_set_zero _ ?_ (Or.inl (List.mem_append_left _ (List.mem_ofFn.mpr ⟨i, rfl⟩)))
  refine List.forall_mem_append.mpr ⟨?_, ?_⟩
  · intro f hf hkey
    obtain ⟨j, rfl⟩ := List.mem_ofFn.mp hf
    exact congrArg _ (idecCounter_key_inj hkey)
  refine List.forall_mem_cons.mpr ⟨?_, List.forall_mem_cons.mpr ⟨?_, List.forall_mem_singleton.mpr ?_⟩⟩ <;>
  · simp only [R.IDEC_WIN_CORR_COUNT, R.IDEC_WIN_UNCORR_COUNT, R.IDEC_WIN_STAT_VALID, Kind.code]
    omega

/-- Settles O33: the next states are those of the operations as they are defined; a frame's passes count each codeword
once, and IDEC_CLR sets each counter. -/
theorem fecChain : Obligations.FecChain := by
  unfold Obligations.FecChain
  intro s
  have hframe (l : Lane) (f : Fin 256) (x : LineSamples) : Runs (.idecFrame l f x) s (idecFrameOp l f x s) := rfl
  have hclr (l : Lane) : Runs (.idecClr l) s (idecClrOp l s) := rfl
  have hwindow (l : Lane) : Runs (.idecWindowEnd l) s (idecWindowEndOp l s) := rfl
  have hword (l : Lane) (set : Fin 2) (word carriers : List Nat) :
    Runs (.ocCodeword l set word carriers) s (ocCodewordOp l set word carriers s) := rfl
  have hocClr (l : Lane) : Runs (.gbxOcClr l) s (gbxOcClrOp l s) := rfl
  refine ⟨hframe, hclr, hwindow, hword, hocClr, fun l f x => ⟨idecFrame_idle s l f x, fun hs hx hc =>
    idecFrame_ends s l f x hs hx (forall_idecCounter.mp hc)⟩, fun l => ?_⟩
  obtain ⟨t, ht, hzero⟩ := idecClr_ends s l
  exact ⟨t, ht, forall_idecCounter.mpr hzero⟩

end Sys2Proof.Machine
end

section
/-!
PROOF. The transmitter's settings with their frames, the LDIS pins and the nominal amplitudes (R154, R157, R162 to R172).
-/

namespace Sys2Proof.Machine

open Sys2Proof

/-! ### The fields of the transmitter's blocks -/

/-- A field of COLD reach is no IN_RESET bit: from the line lanes' blocks on it is plain (R334). -/
theorem plain_coldFld {a lo w rst : Nat} (ha : 0x02000000 ≤ a ∧ a < 2 ^ 36) (hlo : lo < 64) :
    Plain (fld a lo w rst .cold) := by
  refine ⟨?_, ?_, ?_⟩
  · simp only [Fld.counter, Kind.code]; omega
  · simp only [Kind.code]; omega
  · simp only [Kind.code]; omega

/-- Fields of one reach at other places are other fields. -/
theorem fld_key_ne {a lo w rst a' lo' w' rst' : Nat} {k : Kind} (h : a * 64 + lo ≠ a' * 64 + lo') :
    (fld a lo w rst k).key ≠ (fld a' lo' w' rst' k).key := by
  show (a * 64 + lo) * 4 + k.code ≠ (a' * 64 + lo') * 4 + k.code
  omega

/-- The refusal bit of a block from the line lanes' blocks on is plain (R334, R335). -/
theorem plain_conflict {b : Blk} (hb : 0x02000000 ≤ b.base ∧ b.base < 2 ^ 32) : Plain (R.BLK_STAT_CONFLICT b) :=
  plain_regionFld (by omega) (by omega) (by have := base_aligned b; omega)

section
variable {s v u : State} {w : List (Fld × Nat)}

/-- The records of transmitters stand beside the register file. -/
theorem After.putTx (l : Nat) (x : TxLane) (h : After s v w) : After s (v.putTx l x) w :=
  After.congr (v := v) (u := v.putTx l x) rfl rfl h

/-- One field of two is written, as a condition says. -/
theorem After.iteOne {c : Prop} [Decidable c] {p q : Fld × Nat} (hp : After s v [p]) (hq : After s u [q]) :
    After s (if c then v else u) [if c then p else q] := by
  split
  · exact hp
  · exact hq

/-- A refused access sets CONFLICT alone (R335). -/
theorem After.conflict {b : Blk} (hb : 0x02000000 ≤ b.base ∧ b.base < 2 ^ 32) :
    After s (s.conflict b) [(R.BLK_STAT_CONFLICT b, 1)] :=
  After.nil.set (show 1 < 2 ^ 1 by decide) (plain_conflict hb) (List.forall_mem_nil _)

end

/-- An operation that does one of two things leaves the part beside registers and events as both leave it. -/
theorem ite_core {c : Prop} [Decidable c] {a b s : State} (ha : a.core = s.core) (hb : b.core = s.core) :
    (if c then a else b).core = s.core := by
  split
  · exact ha
  · exact hb

/-! ### Settings of the transmitter (R157, R162, R166, R169, R172) -/

section
variable (s : State) (l : Lane)

theorem txpBase_bounds : 0x02000000 ≤ (Blk.mk .txp l.val).base ∧ (Blk.mk .txp l.val).base < 2 ^ 32 := by
  simp only [Blk.base]
  omega

theorem ltxBase_bounds : 0x02000000 ≤ (Blk.mk .ltx l.val).base ∧ (Blk.mk .ltx l.val).base < 2 ^ 32 := by
  simp only [Blk.base]
  omega

theorem squelchOff_effect : Effect (.squelchOff l) s [(R.LTX_CFG_SQUELCH l, 0)] s := by
  have ha : After s (squelchOffOp l s) [(R.LTX_CFG_SQUELCH l, 0)] :=
    After.nil.set (show 0 < 2 ^ 1 by decide) (plain_regionFld (by omega) (by omega) (by omega)) (List.forall_mem_nil _)
  exact ha.effect rfl rfl

theorem txpCommit_effect : Effect (.txpCommit l) s [] (s.putTx l { s.tx l with commit := true }) :=
  (After.nil.putTx l { s.tx l with commit := true }).effect rfl rfl

/-- What PATTERN_SELECT does with SEL: a reserved code is refused, another one stored (R166). -/
theorem patternSel_after (sel : BitVec 3) :
    After s (if 5 < sel.toNat then s.conflict ⟨.txp, l⟩ else s.set (R.TXP_PAT_SEL l) sel.toNat)
      [if 5 < sel.toNat then (R.BLK_STAT_CONFLICT ⟨.txp, l⟩, 1) else (R.TXP_PAT_SEL l, sel.toNat)] :=
  After.iteOne (After.conflict (txpBase_bounds l))
    (After.nil.set sel.isLt (plain_regionFld (by omega) (by omega) (by omega)) (List.forall_mem_nil _))

/-- Neither SEL nor CONFLICT lies where another field of TXP_PAT does. -/
theorem patternSel_key_ne (sel : BitVec 3) {lo w rst : Nat} (hlo : 0 < lo ∧ lo < 64) :
    (if 5 < sel.toNat then (R.BLK_STAT_CONFLICT ⟨.txp, l⟩, 1) else (R.TXP_PAT_SEL l, sel.toNat)).1.key ≠
      (fld ((0x02040000 + l * 0x00100000) + 0x44) lo w rst .block).key := by
  split
  · exact fld_key_ne (by simp only [Blk.base]; omega)
  · exact fld_key_ne (by omega)

theorem patternSelect_effect (sel : BitVec 3) (half : BitVec 6) (level : BitVec 2) :
    Effect (.patternSelect l sel half level) s
      [(R.TXP_PAT_LEVEL l, level.toNat), (R.TXP_PAT_HALF l, half.toNat),
       if 5 < sel.toNat then (R.BLK_STAT_CONFLICT ⟨.txp, l⟩, 1) else (R.TXP_PAT_SEL l, sel.toNat)] s := by
  have hhalf : After s _ ((R.TXP_PAT_HALF l, half.toNat) :: _) :=
    (patternSel_after s l sel).set half.isLt (plain_regionFld (by omega) (by omega) (by omega))
      (List.forall_mem_singleton.mpr (patternSel_key_ne l sel (by omega)))
  have hlevel : After s (patternSelectOp l sel.toNat half.toNat level.toNat s)
      ((R.TXP_PAT_LEVEL l, level.toNat) :: _) :=
    hhalf.set level.isLt (plain_regionFld (by omega) (by omega) (by omega)) (List.forall_mem_cons.mpr
      ⟨fld_key_ne (by omega), List.forall_mem_singleton.mpr (patternSel_key_ne l sel (by omega))⟩)
  exact hlevel.effect rfl (ite_core (c := 5 < sel.toNat) (a := s.conflict ⟨.txp, l⟩) rfl rfl)

theorem ldisWrite_effect (dis auto : Bool) :
    Effect (.ldisWrite l dis auto) s [(R.LTX_LDIS_AUTO l, b2n auto), (R.LTX_LDIS_DIS l, b2n dis)] s := by
  have hdis : After s _ [(R.LTX_LDIS_DIS l, b2n dis)] :=
    After.nil.set (b2n_lt_two dis) (plain_coldFld (by omega) (by omega)) (List.forall_mem_nil _)
  have hauto : After s (ldisWriteOp l dis auto s) ((R.LTX_LDIS_AUTO l, b2n auto) :: _) :=
    hdis.set (b2n_lt_two auto) (plain_coldFld (by omega) (by omega))
      (List.forall_mem_singleton.mpr (fld_key_ne (by omega)))
  exact hauto.effect rfl rfl

theorem ldisTripClear_effect : Effect (.ldisTripClear l) s
    [if s.tripActive l = true then (R.BLK_STAT_CONFLICT ⟨.ltx, l⟩, 1) else (R.LTX_LDIS_TRIP l, 0)] s := by
  have ha : After s (ldisTripClearOp l s)
      [if s.tripActive l = true then (R.BLK_STAT_CONFLICT ⟨.ltx, l⟩, 1) else (R.LTX_LDIS_TRIP l, 0)] :=
    After.iteOne (After.conflict (ltxBase_bounds l))
      (After.nil.set (show 0 < 2 ^ 1 by decide) (plain_coldFld (by omega) (by omega)) (List.forall_mem_nil _))
  exact ha.effect rfl (ite_core rfl rfl)

end

/-- Settles O34: each command's operation is a chain of field writes, of which a condition may refuse one, or a mark in
the transmitter's record. -/
theorem transmitSettings : Obligations.TransmitSettings := by
  unfold Obligations.TransmitSettings
  intro s l
  exact ⟨squelchOff_effect s l, txpCommit_effect s l, patternSelect_effect s l, ldisWrite_effect s l,
    ldisTripClear_effect s l⟩

/-! ### The LDIS pins (R169, R361, R399) -/

/-- Settles O14: the pin is the disjunction of its causes, those that leave it undriven before those of R169. -/
theorem lineDisable : Obligations.LineDisable := by
  unfold Obligations.LineDisable
  intro s l
  simp only [State.ldisPin, Bool.or_eq_true, Bool.and_eq_true, beq_iff_eq, or_assoc]

/-! ### The nominal amplitudes (R154) -/

/-- After reset the step in use is 40 (R154). -/
theorem shapeOf_reset_step (l : Lane) : (shapeOf State.reset l).step = 40 := rfl

/-- Settles O20: the amplitude and the step are their definitions, TXP has one row at TXP_LEVEL, and the register file
after reset reads the step's reset value. -/
theorem nominalAmplitude : Obligations.NominalAmplitude := by
  unfold Obligations.NominalAmplitude
  refine ⟨fun step L => rfl, fun s l => rfl, by decide, fun l => ⟨shapeOf_reset_step l, ?_⟩⟩
  rw [shapeOf_reset_step]
  rfl

end Sys2Proof.Machine
end

section
/-!
PROOF. The host interface: receivers and equalisers, test patterns, training requests, marker periods and port widths
(R181 to R203).
-/

namespace Sys2Proof.Machine

open Sys2Proof

/-- Settles O37: the next states are those of the operations as they are defined. -/
theorem hostCommands : Obligations.HostCommands := by
  unfold Obligations.HostCommands
  intro s
  have hlos (h : HostLane) (amp : Nat) : Runs (.hostLosSet h amp) s (hostLosSetOp h amp s) := rfl
  have hlock (h : HostLane) (freq : Int) (long : Bool) :
    Runs (.cdrLock h freq long) s (cdrLockOp h freq long s) := rfl
  have hlost (h : HostLane) : Runs (.cdrLockLoss h) s (cdrLockLossOp h s) := rfl
  have hadapted (h : HostLane) (ctle dfe1 : Nat) (ffe : List Nat) :
    Runs (.hostRxEqDone h ctle dfe1 ffe) s (hostRxEqDoneOp h ctle dfe1 ffe s) := rfl
  have hfreeze (h : HostLane) (on : Bool) : Runs (.hsdRxFreeze h on) s (hsdRxFreezeOp h on s) := rfl
  have hinvert (h : HostLane) (rx tx : Bool) : Runs (.hsdInvert h rx tx) s (hsdInvertOp h rx tx s) := rfl
  have hgenerator (h : HostLane) (g : BitVec 2) : Runs (.prbsGenSelect h g) s (prbsGenSelectOp h g.toNat s) := rfl
  have hchecker (h : HostLane) (c : BitVec 2) : Runs (.prbsChkSelect h c) s (prbsChkSelectOp h c.toNat s) := rfl
  have hrestart (h : HostLane) : Runs (.trainRestart h) s (trainRestartOp h s) := rfl
  have hrequest (h : HostLane) (q : TrainRequest) : Runs (.trainRequest h q) s (trainRequestOp h q s) := rfl
  have hperiod (l : Lane) (p : MarkerPeriod) : Runs (.amPeriod l p) s (amPeriodOp l p s) := rfl
  have hwidth (l : Lane) (w : BitVec 3) : Runs (.portWWrite l w) s (portWWriteOp l w.toNat s) := rfl
  exact ⟨hlos, hlock, hlost, hadapted, hfreeze, hinvert, hgenerator, hchecker, hrestart, hrequest, hperiod, hwidth⟩

end Sys2Proof.Machine
end

section
/-!
PROOF. The Gleaner's windows, application steps, start-up pass and commands (R211 to R233).
-/

namespace Sys2Proof.Machine

open Sys2Proof

/-- Settles O39: the next states are those of the operations as they are defined. -/
theorem calibration : Obligations.Calibration := by
  unfold Obligations.Calibration
  intro s
  have hwindow (lane : Fin 9) (w : CalWindow) : Runs (.calWindowEnd lane w) s (calWindowEndOp lane w s) := rfl
  have hstep (lane : Fin 9) : Runs (.calApplyStep lane) s (calApplyStepOp lane s) := rfl
  have hswap (l : Lane) : Runs (.dacCellSwap l) s (dacCellSwapOp l s) := rfl
  have hstartup : Runs .calStartupDone s (calStartupDoneOp s) := rfl
  have hsave : Runs .calSave s (calSaveOp s) := rfl
  have hsaved : Runs .calSaveDone s (calSaveDoneOp s) := rfl
  have htimeout : Runs .refAnchorTimeout s (refAnchorTimeoutOp s) := rfl
  have hinterval : Runs .calIntervalExpiry s (calIntervalExpiryOp s) := rfl
  have hrun (lanes : Byte) : Runs (.calRun lanes) s (calRunOp lanes.toNat s) := rfl
  have hanchor : Runs .calAnchor s (calAnchorOp s) := rfl
  have hselect (lane : BitVec 4) (item : BitVec 3) :
    Runs (.calRecSelect lane item) s (calRecSelectOp lane.toNat item.toNat s) := rfl
  exact ⟨hwindow, hstep, hswap, hstartup, hsave, hsaved, htimeout, hinterval, hrun, hanchor, hselect⟩

end Sys2Proof.Machine
end

section
/-!
PROOF. Starting, stopping and expert management of a block, claims, interrupt routes and pins (R336 to R356).
-/

namespace Sys2Proof.Machine

open Sys2Proof

/-- Command `c` on block `b` runs to `u` where the device has the block, and is a fault elsewhere (log entry 181). -/
def RunsOnBlock (b : Blk) (c : Instr) (s u : State) : Prop :=
  if allBlocks.contains b = true then Runs c s u else exec c s = .fault .noSuchTarget

/-- A command guarded by the device's blocks runs its operation on a block that the device has. -/
theorem runsOnBlock_of_exec {b : Blk} {c : Instr} {s u : State}
    (hx : exec c s = if allBlocks.contains b then done u else .fault .noSuchTarget) : RunsOnBlock b c s u := by
  unfold RunsOnBlock
  split
  next hb => exact hx.trans (if_pos hb)
  next hb => exact hx.trans (if_neg hb)

/-- Settles O58: the next states are those of the operations as they are defined, and the commands on a block run on
those blocks alone that the device has. -/
theorem blockAndClaimControl : Obligations.BlockAndClaimControl := by
  unfold Obligations.BlockAndClaimControl
  intro s
  have henable (b : Blk) : RunsOnBlock b (.blockEnable b) s (blockEnableOp b s) := runsOnBlock_of_exec rfl
  have hdisable (b : Blk) : RunsOnBlock b (.blockDisable b) s (blockDisableOp b s) := runsOnBlock_of_exec rfl
  have hstarted (b : Blk) : RunsOnBlock b (.blockStartDone b) s (blockStartDoneOp b s) := runsOnBlock_of_exec rfl
  have hstopped (b : Blk) : RunsOnBlock b (.blockStopDone b) s (blockStopDoneOp b s) := runsOnBlock_of_exec rfl
  have harm (b : Blk) (req : Requester) : RunsOnBlock b (.expertArm b req) s (expertArmOp b req s) :=
    runsOnBlock_of_exec rfl
  have hunlock (b : Blk) (req : Requester) : RunsOnBlock b (.expertUnlock b req) s (expertUnlockOp b req s) :=
    runsOnBlock_of_exec rfl
  have hrelock (b : Blk) (req : Requester) : RunsOnBlock b (.expertRelock b req) s (expertRelockOp b req s) :=
    runsOnBlock_of_exec rfl
  have hlate (b : Blk) : RunsOnBlock b (.expertArmTimeout b) s (expertArmTimeoutOp b s) := runsOnBlock_of_exec rfl
  have hforce (b : Blk) (v : Word) : RunsOnBlock b (.irqForce b v) s (irqForceOp b v.toNat s) :=
    runsOnBlock_of_exec rfl
  have hrelease (c : Claim) (req : Requester) : Runs (.claimRelease c req) s (claimReleaseOp c req s) := rfl
  have hclaim (index : Byte) (res : BitVec 5) :
    Runs (.claimForce index res) s (claimForceOp index.toNat res.toNat s) := rfl
  have hroute (int alarm fwc : Bool) : Runs (.irqRouteWrite int alarm fwc) s (irqRouteWriteOp int alarm fwc s) := rfl
  have hgpio (req : Requester) (g : Fin 8) (v : Word) :
    Runs (.gpioCfgWrite req g v) s (gpioCfgWriteOp req g v.toNat s) := rfl
  have hedge (g : Fin 8) (level : Bool) : Runs (.gpioEdge g level) s (gpioEdgeOp g level s) := rfl
  exact ⟨henable, hdisable, hstarted, hstopped, harm, hunlock, hrelock, hlate, hforce, hrelease, hclaim, hroute, hgpio,
    hedge⟩

end Sys2Proof.Machine
end

section
/-!
PROOF. The commands of Lantern: the counter and its clock, stamps, the servo's sources, PPS_OUT, the oscillator table,
holdover and the alarms (R235 to R269, R288 to R290).
-/

namespace Sys2Proof.Machine

open Sys2Proof

/-- Settles O41: the next states are those of the operations as they are defined. -/
theorem timeBase : Obligations.TimeBase := by
  unfold Obligations.TimeBase
  intro s
  have hclock (period : Nat) : Runs (.timeClockChange period) s (timeClockChangeOp period s) := rfl
  have hset : Runs .timeSet s (timeSetOp s) := rfl
  have hstep : Runs .timeStep s (timeStepOp s) := rfl
  have hstamp (l : Lane) (rx : Bool) : Runs (.sftsSelect l rx) s (sftsSelectOp l rx s) := rfl
  have hpps (falling : Bool) (stamp : Nat) : Runs (.ppsInEdge falling stamp) s (ppsInEdgeOp falling stamp s) := rfl
  have hhost (v : Word) : Runs (.hostOfsWrite v) s (hostOfsWriteOp v.toNat s) := rfl
  have hloss : Runs .sourceLoss s (sourceLossOp s) := rfl
  have hsource (v : Word) : Runs (.servoSrcWrite v) s (servoSrcWriteOp v.toNat s) := rfl
  have htime (l : Lane) : Runs (.time l) s (timeOp l s) := rfl
  exact ⟨hclock, hset, hstep, hstamp, hpps, hhost, hloss, hsource, htime⟩

/-- Settles O42: the next states are those of the operations as they are defined. -/
theorem timeOutputs : Obligations.TimeOutputs := by
  unfold Obligations.TimeOutputs
  intro s
  have henable : Runs .ppsOutEnable s (ppsOutEnableOp s) := rfl
  have hdisable : Runs .ppsOutDisable s (ppsOutDisableOp s) := rfl
  have hoffset (v : BitVec 30) : Runs (.ppsOutOfsWrite v) s (ppsOutOfsWriteOp v.toNat s) := rfl
  have hmove (k : Fin 32) : Runs (.ppsOutAlarmWrite k) s (ppsOutAlarmWriteOp k s) := rfl
  have hlearn (y t : Int) : Runs (.oscLearnUpdate y t) s (oscLearnUpdateOp y t s) := rfl
  have hepoch : Runs .oscEpochAdvance s (oscEpochAdvanceOp s) := rfl
  have hclear : Runs .oscClear s (oscClearOp s) := rfl
  have hpredict (second : Bool) : Runs (.holdoverPredict second) s (holdoverPredictOp second s) := rfl
  have harm (k : Fin 32) (v : Word) (req : Requester) :
    Runs (.alarmCtrlWrite k v req) s (alarmCtrlWriteOp k v.toNat req s) := rfl
  have hfire (k : Fin 32) : Runs (.alarmFire k) s (alarmFireOp k s) := rfl
  exact ⟨henable, hdisable, hoffset, hmove, hlearn, hepoch, hclear, hpredict, harm, hfire⟩

end Sys2Proof.Machine
end

section
/-!
PROOF. Ends of reset sources and the watchdog's kick, and status bits and ends of pulses of the time base, each with its
frame (R254 to R256, R264, R356, R389 to R395).
-/

namespace Sys2Proof.Machine

open Sys2Proof

/-! ### The fields of the device's blocks -/

/-- A field of a block other than PMC is plain, unless it is an IN_RESET bit or lies where SHEAF resets are commanded
(R334, R335, R396). -/
theorem plain_devFld {a lo w rst : Nat} {k : Kind} (ha : a < 2 ^ 36 ∧ a / 65536 ≠ 0x11 ∧ a ≠ 0x30040) (hlo : lo < 64)
    (hr : a % 65536 * 64 + lo ≠ 775) : Plain (fld a lo w rst k) := by
  have hk : k.code < 4 := by cases k <;> decide
  refine ⟨?_, ?_, ?_⟩
  · simp only [Fld.counter]; omega
  · show ((a * 64 + lo) * 4 + k.code) % 16777216 ≠ 3100
    omega
  · show ((a * 64 + lo) * 4 + k.code) / 256 ≠ 0x30040
    omega

/-- Fields at other places are other fields, whatever resets reach them. -/
theorem fld_key_ne_of_place {a lo w rst a' lo' w' rst' : Nat} {k k' : Kind} (h : a * 64 + lo ≠ a' * 64 + lo') :
    (fld a lo w rst k).key ≠ (fld a' lo' w' rst' k').key := by
  have hk : k.code < 4 := by cases k <;> decide
  have hk' : k'.code < 4 := by cases k' <;> decide
  show (a * 64 + lo) * 4 + k.code ≠ (a' * 64 + lo') * 4 + k'.code
  omega

/-- One field is written. -/
theorem After.one {s : State} {f : Fld} {x : Nat} (hx : x < 2 ^ f.w) (hp : Plain f) : After s (s.set f x) [(f, x)] :=
  After.nil.set hx hp (List.forall_mem_nil _)

/-! ### Reset sources and the watchdog (R389, R392, R395) -/

/-- A command that leaves the register file as it was has no effect but beside it. -/
theorem effect_of_regs {c : Instr} {s u : State} (hx : exec c s = done u) (hr : u.regs = s.regs) : Effect c s [] u := by
  refine ⟨settle u, hx, List.forall_mem_nil _, fun f _ _ => ?_, settle_core u⟩
  show u.get f = s.get f
  unfold State.get
  rw [hr]

/-- A watchdog kick by FWC with the key changes no register; any other sets CONFLICT in RST (R395). -/
theorem wdtKick_effect (s : State) (req : Requester) (key : Word) : Effect (.wdtKick req key) s
    (if req = .fwc ∧ key = 0x4F4B then [] else [(R.BLK_STAT_CONFLICT ⟨.rst, 0⟩, 1)]) s := by
  have hx : exec (.wdtKick req key) s = done (wdtKickOp req key.toNat s) := rfl
  have hkey : (req = .fwc && key.toNat = 0x4F4B) = true ↔ req = .fwc ∧ key = 0x4F4B := by
    rw [Bool.and_eq_true, decide_eq_true_eq, decide_eq_true_eq, ← BitVec.toNat_inj]
    rfl
  simp only [wdtKickOp, hkey] at hx
  have hconflict : After s (s.conflict rstBlk) [(R.BLK_STAT_CONFLICT ⟨.rst, 0⟩, 1)] :=
    After.one (by decide) (plain_devFld (by decide) (by omega) (by decide))
  exact (After.nil.ite hconflict).effect hx (ite_core rfl rfl)

/-- Settles O52: the ends of sources change the reset sources alone, and a kick is refused in RST or does nothing. -/
theorem resetEnds : Obligations.ResetEnds := by
  unfold Obligations.ResetEnds
  intro s
  exact ⟨effect_of_regs rfl rfl, effect_of_regs rfl rfl, fun p => effect_of_regs rfl rfl, wdtKick_effect s⟩

/-! ### The learning interval (R259) -/

/-- Where a condition of learning fails, the interval is broken (R259). -/
theorem learnWatch_of_not {s : State} (h : s.learnHolds = false) :
    learnWatch s = { s with tim := { s.tim with learnBroken := true } } := by
  unfold learnWatch
  rw [h]
  rfl

/-- Without TREF_OK no learning goes on (R259). -/
theorem learnHolds_of_tref {s : State} (h : s.get R.TIM_STAT_TREF_OK = 0) : s.learnHolds = false := by
  have hb : s.getB R.TIM_STAT_TREF_OK = false := by rw [State.getB, h]; rfl
  simp only [State.learnHolds, hb, Bool.and_false, Bool.false_and]

/-- Without a valid temperature no learning goes on (R256, R259). -/
theorem learnHolds_of_temp {s : State} (h : s.get R.TIM_STAT_TEMP_VALID = 0) : s.learnHolds = false := by
  have hb : s.getB R.TIM_STAT_TEMP_VALID = false := by rw [State.getB, h]; rfl
  simp only [State.learnHolds, hb, Bool.and_false, Bool.false_and]

/-- Whether or not the interval is broken stands beside the register file. -/
theorem After.learnWatch {s v : State} {w : List (Fld × Nat)} (h : After s v w) : After s (learnWatch v) w := by
  unfold Machine.learnWatch
  split
  · exact h
  · exact After.congr (v := v) rfl rfl h

/-- A broken interval is all that differs beside registers and events. -/
theorem learnWatch_core {s v : State} (h : v.learnHolds = false) (hc : v.core = s.core) :
    (learnWatch v).core = State.core { s with tim := { s.tim with learnBroken := true } } :=
  calc (learnWatch v).core
    _ = { v.core with tim := { v.core.tim with learnBroken := true } } := by rw [learnWatch_of_not h]; rfl
    _ = { s.core with tim := { s.core.tim with learnBroken := true } } := by rw [hc]

/-! ### Status bits and pulses of the time base (R254 to R256, R264, R356) -/

section
variable (s : State)

/-- The status bits of TIM stand at other places than IN_RESET. -/
theorem plain_timStat {lo w rst : Nat} {k : Kind} (hlo : lo < 64) : Plain (fld (0x70000 + 0x44) lo w rst k) :=
  plain_devFld (by omega) hlo (by omega)

theorem fineReady_effect : EffectIf s.timOn .fineReady s [(R.TIM_STAT_FINE_READY, 1)] s :=
  effectIf_setB (v := true) rfl (plain_timStat (by omega)) rfl

theorem trefQualified_effect :
    EffectIf (s.get R.TIM_CFG_TREF_FREQ != 0) .trefQualified s [(R.TIM_STAT_TREF_OK, 1)] s :=
  effectIf_setB (v := true) rfl (plain_timStat (by omega)) rfl

/-- A loss of TREF is shown in TREF_OK and TREF_LOS with its source, and breaks the learning interval (R254, R259). -/
theorem trefLos_effect : EffectIf (s.getB R.TIM_STAT_TREF_OK) .trefLos s
    [s.irqAfter ⟨.tim, 0⟩ 3, (R.TIM_STAT_TREF_LOS, 1), (R.TIM_STAT_TREF_OK, 0)]
    { s with tim := { s.tim with learnBroken := true } } := by
  let v := ((s.setB R.TIM_STAT_TREF_OK false).setB R.TIM_STAT_TREF_LOS true).irq timBlk 3
  have hok : After s _ [(R.TIM_STAT_TREF_OK, 0)] := After.one (by decide) (plain_timStat (by omega))
  have hlos : After s _ ((R.TIM_STAT_TREF_LOS, 1) :: _) :=
    hok.set (by decide) (plain_timStat (by omega)) (List.forall_mem_singleton.mpr (by decide))
  have hv : After s v (s.irqAfter ⟨.tim, 0⟩ 3 :: _) :=
    hlos.irq (b := ⟨.tim, 0⟩) (by decide) (plain_devFld (by decide) (by omega) (by decide))
      (List.forall_mem_cons.mpr ⟨by decide, List.forall_mem_singleton.mpr (by decide)⟩)
  have hbroken : v.learnHolds = false := learnHolds_of_tref (hv.vals (R.TIM_STAT_TREF_OK, 0) (by simp))
  exact effectIf_of_done (v := learnWatch v) rfl (fun _ => hv.learnWatch)
    (learnWatch_core hbroken (State.irq_core ..))

/-- Another frequency of TREF has it qualified afresh, and breaks the learning interval (R254, R259). -/
theorem trefFreqWrite_effect (f : BitVec 2) : EffectIf (s.get R.TIM_CFG_TREF_FREQ != f.toNat) (.trefFreqWrite f) s
    [(R.TIM_STAT_TREF_OK, 0), (R.TIM_CFG_TREF_FREQ, f.toNat)] { s with tim := { s.tim with learnBroken := true } } := by
  let v := (s.set R.TIM_CFG_TREF_FREQ f.toNat).setB R.TIM_STAT_TREF_OK false
  have hfreq : After s _ [(R.TIM_CFG_TREF_FREQ, f.toNat)] :=
    After.one f.isLt (plain_devFld (by omega) (by omega) (by omega))
  have hv : After s v ((R.TIM_STAT_TREF_OK, 0) :: _) :=
    hfreq.set (by decide) (plain_timStat (by omega))
      (List.forall_mem_singleton.mpr (fld_key_ne_of_place (by omega)))
  have hbroken : v.learnHolds = false := learnHolds_of_tref (hv.vals (R.TIM_STAT_TREF_OK, 0) (by simp))
  have hx : exec (.trefFreqWrite f) s =
      done (if (s.get R.TIM_CFG_TREF_FREQ != f.toNat) = true then learnWatch v else s) := by
    have hop : exec (.trefFreqWrite f) s = done (if s.get R.TIM_CFG_TREF_FREQ = f.toNat then s else learnWatch v) := rfl
    simp only [hop, bne_iff_ne, ne_eq, ite_not]
  exact effectIf_of_done hx (fun _ => hv.learnWatch) (learnWatch_core hbroken rfl)

/-- The owner of an alarm frees it; another requester is refused, on a free alarm too (R264, R350). -/
theorem alarmRelease_effect (k : Fin 32) (req : Requester) :
    if s.get (R.TIM_ALM_CTRL_OWNER k) = Requester.code req then
      Effect (.alarmRelease k req) s [(R.TIM_ALM_CTRL_OWNER k, 0), (R.TIM_ALM_CTRL_EN k, 0)] s
    else Effect (.alarmRelease k req) s [(R.BLK_STAT_CONFLICT ⟨.tim, 0⟩, 1)] s := by
  have hx : exec (.alarmRelease k req) s = done (alarmReleaseOp k req s) := rfl
  unfold alarmReleaseOp at hx
  have hrefused : After s (s.conflict timBlk) [(R.BLK_STAT_CONFLICT ⟨.tim, 0⟩, 1)] :=
    After.one (by decide) (plain_devFld (by decide) (by omega) (by decide))
  have hk := k.isLt
  split
  next howner =>
    rw [if_pos howner] at hx
    have hen : After s _ [(R.TIM_ALM_CTRL_EN k, 0)] :=
      After.one (Nat.two_pow_pos _) (plain_devFld (by omega) (by omega) (by omega))
    have hfree : After s _ ((R.TIM_ALM_CTRL_OWNER k, 0) :: _) :=
      hen.set (Nat.two_pow_pos _) (plain_devFld (by omega) (by omega) (by omega))
        (List.forall_mem_singleton.mpr (fld_key_ne_of_place (by omega)))
    exact hfree.effect hx rfl
  next hother =>
    rw [if_neg hother] at hx
    by_cases hunowned : s.get (R.TIM_ALM_CTRL_OWNER k) = 0
    · exact hrefused.effect (hx.trans (congrArg done (if_pos hunowned))) rfl
    · exact hrefused.event.effect (hx.trans (congrArg done (if_neg hunowned))) rfl

theorem ppsOutPulseEnd_effect : Effect .ppsOutPulseEnd s [] { s with tim := { s.tim with pulse := false } } :=
  effect_of_regs rfl rfl

/-- A temperature that is out of date breaks the learning interval (R256, R259). -/
theorem tempValidTimeout_effect : Effect .tempValidTimeout s [(R.TIM_TEMP_VALID, 0), (R.TIM_STAT_TEMP_VALID, 0)]
    { s with tim := { s.tim with learnBroken := true } } := by
  let v := (s.setB R.TIM_STAT_TEMP_VALID false).setB R.TIM_TEMP_VALID false
  have hstat : After s _ [(R.TIM_STAT_TEMP_VALID, 0)] := After.one (by decide) (plain_timStat (by omega))
  have hv : After s v ((R.TIM_TEMP_VALID, 0) :: _) :=
    hstat.set (by decide) (plain_devFld (by omega) (by omega) (by omega)) (List.forall_mem_singleton.mpr (by decide))
  have hbroken : v.learnHolds = false := learnHolds_of_temp (hv.vals (R.TIM_STAT_TEMP_VALID, 0) (by simp))
  exact hv.learnWatch.effect rfl (learnWatch_core hbroken rfl)

theorem gpioPulseEnd_effect (g : Fin 8) :
    Effect (.gpioPulseEnd g) s [] { s with gpioPulse := clearBits s.gpioPulse (2 ^ g.val) } :=
  effect_of_regs rfl rfl

end

/-- Settles O40: each command's operation is a chain of writes, of which those that take TREF_OK or a valid temperature
away break the learning interval. -/
theorem timeStatus : Obligations.TimeStatus := by
  unfold Obligations.TimeStatus
  intro s
  exact ⟨fineReady_effect s, trefQualified_effect s, trefLos_effect s, trefFreqWrite_effect s, alarmRelease_effect s,
    ppsOutPulseEnd_effect s, tempValidTimeout_effect s, gpioPulseEnd_effect s⟩

end Sys2Proof.Machine
end

section
/-!
PROOF. The counter at a tick: what waits for it, and what the effects of a new source and of a step leave as it was
(R236, R237, R240).
-/

namespace Sys2Proof.Machine

open Sys2Proof

/-! ### The counter and what waits for its next tick -/

/-- The counter, the time elapsed, and what waits for the next tick. -/
structure Counter where
  time : Nat
  elapsed : Nat
  waiting : List CounterStep
  servoStep : Option Int
  srcOld : Option Nat

/-- The counter of a state. -/
def State.counter (s : State) : Counter where
  time := s.time
  elapsed := s.elapsed
  waiting := s.tim.waiting
  servoStep := s.tim.servoStep
  srcOld := s.tim.srcOld

/-- Operations that each leave the counter leave it one after another. -/
theorem counter_foldl {α : Type} {g : State → α → State} (hg : ∀ s a, (g s a).counter = s.counter) (l : List α)
    (s : State) : (l.foldl g s).counter = s.counter :=
  List.foldlRecOn (motive := fun t => t.counter = s.counter) l g rfl fun t ht a _ => (hg t a).trans ht

theorem counter_ite {c : Prop} [Decidable c] {z : Counter} {a b : State} (ha : a.counter = z) (hb : b.counter = z) :
    (if c then a else b).counter = z := by
  split
  · exact ha
  · exact hb

section
variable (s : State)

/-! ### Interrupt sources and snapshots (R352, R447) -/

theorem counter_irq (b : Blk) (n : Nat) : (s.irq b n).counter = s.counter := by
  rw [State.irq_eq]
  rfl

theorem counter_of_regsOnly {s t : State} (h : RegsOnly s t) : t.counter = s.counter := by
  rw [h.1]
  rfl

theorem counter_snapRequest : (snapRequest s false).counter = s.counter :=
  have hask : (snapAsk s false).1.counter = s.counter := counter_of_regsOnly (snapAsk_regsOnly s s (.rfl' s))
  counter_ite ((counter_irq _ _ _).trans hask) hask

/-! ### Levels and power states (R371, R374, R378) -/

theorem counter_levelMove (t : Nat) : (levelMove t s).counter = s.counter := by
  unfold levelMove
  split
  · rfl
  · dsimp only
    split <;> rfl

theorem counter_startState (t : Nat) : (startState t s).counter = s.counter :=
  counter_ite rfl (counter_ite (counter_levelMove _ _) rfl)

theorem counter_requestState (t : Nat) : (requestState t s).counter = s.counter :=
  counter_ite rfl (counter_ite rfl (counter_startState s t))

/-- A cause of an exit is latched or not (R374). -/
theorem counter_latch (c : Prop) [Decidable c] (f : Fld) : (if c then s.setB f true else s).counter = s.counter :=
  counter_ite rfl rfl

theorem counter_wakeLatch (w : Nat) : (wakeLatch w s).counter = s.counter :=
  (counter_latch _ _ _).trans <| (counter_latch _ _ _).trans <| (counter_latch _ _ _).trans <|
    (counter_latch _ _ _).trans (counter_latch _ _ _)

theorem counter_wakeActive (k : Nat) : (wakeActive k s).counter = s.counter :=
  counter_ite rfl (counter_ite (counter_requestState _ _) ((counter_startState _ _).trans (counter_wakeLatch s _)))

/-! ### What the firing of an alarm reaches (R263, R267) -/

theorem counter_wakeAlarm (k : Nat) : (wakeAlarm k s).counter = s.counter := counter_ite (counter_wakeActive s _) rfl

theorem counter_gpioAlarm (k : Nat) : (gpioAlarm k s).counter = s.counter := by
  unfold gpioAlarm
  refine counter_foldl (fun t g => ?_) _ s
  split <;> rfl

theorem counter_capAlarm (k : Nat) : (capAlarm k s).counter = s.counter := by
  unfold capAlarm
  refine counter_foldl (fun t c => ?_) _ s
  split <;> rfl

theorem counter_mfilAlarm (k : Nat) : (mfilAlarm k s).counter = s.counter := by
  unfold mfilAlarm
  refine counter_foldl (fun t c => ?_) _ s
  split
  · exact counter_ite rfl rfl
  · rfl

theorem counter_msgAlarm (k : Nat) : (msgAlarm k s).counter = s.counter := by
  unfold msgAlarm
  refine counter_foldl (fun t q => counter_ite ?_ rfl) _ s
  cases t.queue q with
  | nil => rfl
  | cons e es => exact counter_ite rfl rfl

theorem counter_startSweep (l : Nat) : (startSweep l s).counter = s.counter := by
  unfold startSweep
  exact counter_ite rfl rfl

theorem counter_startAnchor : (startAnchor s).counter = s.counter := by
  unfold startAnchor
  exact counter_ite rfl rfl

theorem counter_startBackground : (startBackground s).counter = s.counter := by
  unfold startBackground
  rw [counter_startAnchor, counter_foldl fun t l => counter_startSweep t l]
  rfl

theorem counter_calAlarm (k : Nat) : (calAlarm k s).counter = s.counter := by
  unfold calAlarm
  refine counter_ite ?_ rfl
  rw [counter_startBackground]
  exact counter_ite rfl rfl

/-! ### Alarms (R263 to R267) -/

theorem counter_putAlarm (k : Nat) (a : AlarmInt) : (s.putAlarm k a).counter = s.counter := rfl

theorem counter_alarmReaches (k : Nat) : (alarmReaches k s).counter = s.counter := by
  unfold alarmReaches
  generalize hfired : s.setB (R.TIM_ALM_FIRED_FIRED k) true = fired
  have hirq : (if fired.getB (R.TIM_ALM_IRQ_EN_EN k) then fired.irq timBlk 7 else fired).counter = s.counter := by
    rw [← hfired]
    exact counter_ite (counter_irq _ _ _) rfl
  dsimp only
  generalize (if fired.getB (R.TIM_ALM_IRQ_EN_EN k) then fired.irq timBlk 7 else fired) = raised at hirq ⊢
  have hblocks : (wakeAlarm k (gpioAlarm k (mfilAlarm k (msgAlarm k (calAlarm k (capAlarm k raised)))))).counter =
      s.counter := by
    rw [counter_wakeAlarm, counter_gpioAlarm, counter_mfilAlarm, counter_msgAlarm, counter_calAlarm, counter_capAlarm,
      hirq]
  generalize wakeAlarm k (gpioAlarm k (mfilAlarm k (msgAlarm k (calAlarm k (capAlarm k raised))))) = reached
    at hblocks ⊢
  have hsnap (c : Prop) [Decidable c] : (if c then snapRequest reached false else reached).counter = s.counter :=
    counter_ite ((counter_snapRequest reached).trans hblocks) hblocks
  exact counter_ite (hsnap _) (hsnap _)

theorem counter_alarmFire (k : Nat) : (alarmFire k s).counter = s.counter := by
  unfold alarmFire
  rw [counter_alarmReaches, counter_putAlarm]

theorem counter_alarmLate (k : Nat) : (alarmLate k s).counter = s.counter := by
  unfold alarmLate
  rw [counter_alarmFire]
  rfl

theorem counter_alarmSkipped (k : Nat) : (alarmSkipped k s).counter = s.counter := by
  unfold alarmSkipped
  exact counter_ite rfl (counter_ite (counter_ite rfl (counter_alarmLate s k)) rfl)

theorem counter_alarmsSkipped : (alarmsSkipped s).counter = s.counter :=
  counter_foldl (fun t k => counter_alarmSkipped t k) _ s

theorem counter_alarmsStepped (forward : Bool) : (alarmsStepped forward s).counter = s.counter := by
  unfold alarmsStepped
  dsimp only
  generalize hmarked : (List.range 32).foldl (fun s k => _) s = marked
  have hm : marked.counter = s.counter := by
    rw [← hmarked]
    refine counter_foldl (fun t k => ?_) _ s
    exact counter_ite (counter_ite rfl rfl) rfl
  exact counter_ite ((counter_alarmsSkipped marked).trans hm) hm

/-! ### Quality, rate and holdover (R239, R250 to R252, R260, R261) -/

theorem counter_learnWatch : (learnWatch s).counter = s.counter := by
  unfold learnWatch
  exact counter_ite rfl rfl

theorem counter_rateNote : (rateNote s).counter = s.counter := rfl

theorem counter_setRate (y : Int) : (setRate y s).counter = s.counter := by
  unfold setRate
  rw [counter_rateNote]
  rfl

theorem counter_setQual (q : Nat) : (setQual q s).counter = s.counter := by
  unfold setQual
  refine counter_ite rfl ?_
  have hirq : ((s.set R.TIM_STAT_QUAL q).irq timBlk 0).counter = s.counter := counter_irq _ _ _
  rw [counter_learnWatch, counter_rateNote]
  exact counter_ite hirq hirq

theorem counter_setActive (src : Nat) : (setActive src s).counter = s.counter := by
  unfold setActive
  rw [counter_learnWatch]
  rfl

theorem counter_holdQuality : (holdQuality s).counter = s.counter := by
  unfold holdQuality
  rw [counter_setQual]
  exact counter_ite (counter_irq _ _ _) rfl

theorem counter_tableMiss : (tableMiss s).counter = s.counter := by
  unfold tableMiss
  exact counter_ite rfl (counter_irq _ _ _)

theorem counter_holdRate : (holdRate s).counter = s.counter := by
  unfold holdRate
  refine counter_ite rfl (counter_ite (counter_setRate s _) ?_)
  dsimp only
  split
  · exact counter_setRate s _
  · rw [counter_setRate, counter_tableMiss]

theorem counter_holdEnter : (holdEnter s).counter = s.counter := by
  unfold holdEnter
  rw [counter_holdQuality, counter_setActive, counter_holdRate]
  rfl

/-! ### A new source (R246, R251, R253) -/

theorem counter_exchangesDrop : (exchangesDrop s).counter = s.counter := by
  unfold exchangesDrop
  refine counter_foldl (fun t l => ?_) _ s
  rfl

theorem counter_sourceSelect (src : Nat) : (sourceSelect src s).counter = s.counter := by
  unfold sourceSelect
  generalize hdropped : exchangesDrop _ = dropped
  have hd : dropped.counter = s.counter := by
    rw [← hdropped, counter_exchangesDrop]
    rfl
  refine counter_ite ((counter_holdEnter _).trans hd) ?_
  rw [counter_setQual, counter_setActive, hd]

theorem counter_requalify : (requalify s).counter = s.counter := by
  unfold requalify
  exact counter_ite (counter_setQual _ 1) rfl

/-! ### Steps (R240) -/

/-- The counter after a step of it. -/
def Counter.step (c : Counter) (x : CounterStep) : Counter := { c with time := x.after c.time }

/-- A step moves the counter's time alone (R240). -/
theorem counter_stepTake (x : CounterStep) : (stepTake x s).counter = s.counter.step x := by
  unfold stepTake counterStep
  rw [counter_alarmsStepped, counter_irq]
  rfl

/-- Steps move the counter one after another. -/
theorem counter_stepTakes (xs : List CounterStep) :
    (xs.foldl (fun s x => stepTake x s) s).counter = xs.foldl Counter.step s.counter :=
  (List.foldl_hom State.counter fun t x => (counter_stepTake t x).symm).symm

/-- The steps that take effect at a tick: those of TIM_CTRL, or else the servo's, which they replace (R240, R250). -/
def dueSteps (waiting : List CounterStep) (servo : Option Int) : List CounterStep :=
  if waiting = [] then servo.toList.map CounterStep.add else waiting

/-- The steps that are due take effect, in order (R240, R250). -/
theorem counter_stepsTake (waiting : List CounterStep) (servo : Option Int) :
    (stepsTake waiting servo s).counter = (dueSteps waiting servo).foldl Counter.step s.counter := by
  cases waiting with
  | nil =>
    cases servo with
    | none => rfl
    | some d => exact counter_stepTake s (.add d)
  | cons x xs => exact (counter_requalify _).trans (counter_stepTakes s (x :: xs))

/-- Steps leave everything but the time. -/
theorem Counter.foldl_step (c : Counter) (xs : List CounterStep) :
    xs.foldl Counter.step c = { c with time := xs.foldl (fun t x => x.after t) c.time } := by
  induction xs generalizing c with
  | nil => rfl
  | cons x xs ih => exact ih (c.step x)

/-! ### The tick (R237, R240, R253) -/

/-- The state at a tick whose counter has counted it and for which nothing waits any more. -/
def ticked : State := { countUp s with tim := { s.tim with waiting := [], servoStep := none, srcOld := none } }

/-- A tick counts, and then the new source and the steps that wait take effect (R237, R240, R253). -/
theorem counter_tick (h : s.resets.por = false) :
    (tick s).counter = (dueSteps s.tim.waiting s.tim.servoStep).foldl Counter.step (ticked s).counter := by
  have htick : tick s = if s.tim.waiting.isEmpty && s.tim.servoStep.isNone && s.tim.srcOld.isNone then ticked s
      else settle (stepsTake s.tim.waiting s.tim.servoStep
        (if s.tim.srcOld.isSome then sourceSelect (s.get R.TIM_SERVO_CFG_SRC) (ticked s) else ticked s)) := by
    unfold tick
    rw [h]
    rfl
  rw [htick]
  split
  next hidle =>
    simp only [Bool.and_eq_true, List.isEmpty_iff, Option.isNone_iff_eq_none] at hidle
    obtain ⟨⟨hwaiting, hservo⟩, -⟩ := hidle
    rw [hwaiting, hservo]
    rfl
  next =>
    refine (counter_stepsTake _ _ _).trans ?_
    rw [counter_ite (counter_sourceSelect (ticked s) _) rfl]

end

/-- With an empty queue a step is a tick (R237). -/
theorem step_of_pending_nil {s : State} (h : s.pending = []) : step s = .next (tick s) := by
  unfold step
  rw [h]

/-- With nothing waiting a tick counts and does no more (R237). -/
theorem tick_of_nothing_waits {s : State} (hpor : s.resets.por = false) (hw : s.tim.waiting = [])
    (hs : s.tim.servoStep = none) (hsrc : s.tim.srcOld = none) : tick s = countUp s := by
  have htim : { s.tim with waiting := [], servoStep := none, srcOld := none } = s.tim := by rw [← hw, ← hs, ← hsrc]
  unfold tick
  simp only [hpor, htim, hw, hs, hsrc, Bool.false_eq_true, if_false, List.isEmpty_nil, Option.isNone_none,
    Bool.and_self, if_true]
  rfl

/-- Settles O2: a tick with nothing waiting counts, and under POR it does nothing. -/
theorem idleTick : Obligations.IdleTick := by
  unfold Obligations.IdleTick
  intro s hempty hw hs hsrc
  rw [step_of_pending_nil hempty]
  cases hpor : s.resets.por with
  | true =>
    have hstays : tick s = s := by
      unfold tick
      rw [if_pos hpor]
    rw [hstays, if_pos rfl]
  | false =>
    rw [tick_of_nothing_waits hpor hw hs hsrc, if_neg Bool.false_ne_true]
    rfl

/-! ### SET and STEP (R240) -/

/-- TIME_SET waits for the next tick, unless its NSEC is out of range (R240). -/
theorem timeSet_effect (s : State) : let v := s.get R.TIM_SET_TIME
    if 1000000000 ≤ bits v 16 30 then Effect .timeSet s [(R.BLK_STAT_CONFLICT (dev .tim), 1)] s
    else Effect .timeSet s [] { s with tim := { s.tim with
      waiting := s.tim.waiting ++ [.load (ofFullTime v * 2 ^ 32)] } } := by
  have hx : exec .timeSet s = done (timeSetOp s) := rfl
  unfold timeSetOp at hx
  intro v
  split
  next hrange =>
    have hconflict : After s (s.conflict timBlk) [(R.BLK_STAT_CONFLICT (dev .tim), 1)] :=
      After.one (by decide) (plain_devFld (by decide) (by omega) (by decide))
    exact hconflict.effect (hx.trans (congrArg done (if_pos hrange))) rfl
  next hrange => exact effect_of_regs (hx.trans (congrArg done (if_neg hrange))) rfl

/-- A time in the full layout: seconds, nanoseconds and their fraction (R236). -/
theorem ofFullTime_eq (v : Nat) :
    ofFullTime v = bits v 46 48 * 1000000000 * 2 ^ 16 + bits v 16 30 * 2 ^ 16 + bits v 0 16 := by
  rw [ofFullTime, secondUnits, Nat.mul_assoc (bits v 46 48)]

/-- The counter's modulus in 2^-48 ns is 2^48 seconds (R236). -/
theorem counterModulus_eq : timeModulus * 2 ^ 32 = 2 ^ 48 * 1000000000 * 2 ^ 48 := by decide

/-- Settles O3: SET and STEP wait in Lantern's record; at the tick the counter's time is moved by the steps that are due
alone, as no effect of a new source or of a step moves it. -/
theorem stepsAtTick : Obligations.StepsAtTick := by
  unfold Obligations.StepsAtTick
  intro modulus
  have hmodulus : modulus = timeModulus * 2 ^ 32 := counterModulus_eq.symm
  clear_value modulus
  subst hmodulus
  refine ⟨fun s => ?set, fun s => effect_of_regs rfl rfl, fun s hempty hpor => ?tick⟩
  case set =>
    intro v
    rw [← ofFullTime_eq v]
    exact timeSet_effect s
  case tick =>
    have hc : (tick s).counter = _ := (counter_tick s hpor).trans (Counter.foldl_step _ _)
    refine ⟨tick s, step_of_pending_nil hempty, congrArg Counter.waiting hc, congrArg Counter.servoStep hc,
      congrArg Counter.srcOld hc, congrArg Counter.elapsed hc, (congrArg Counter.time hc).trans ?_⟩
    refine congrFun (congrFun (congrArg List.foldl (funext fun time => funext fun x => ?_)) _) _
    cases x with
    | load t => rfl
    | add d => rfl

end Sys2Proof.Machine
end

section
/-!
PROOF. The Faost link: the check value of the cell CRC, and the commands of cells, messages and queues (R274 to R299).
-/

namespace Sys2Proof.Machine

open Sys2Proof

/-- Settles O24: the check value comes of shifting the nine bytes through the register, and no bytes leave its initial
value. -/
theorem cellCheck : Obligations.CellCheck := by
  unfold Obligations.CellCheck
  have hdigits : crc16 [0x31, 0x32, 0x33, 0x34, 0x35, 0x36, 0x37, 0x38, 0x39] = 0x29B1 := by decide +kernel
  have hempty : crc16 [] = 0xFFFF := rfl
  exact ⟨hdigits, hempty⟩

/-- Settles O43: the next states are those of the operations as they are defined, and RX_POP and RX_FLUSH change the
receive FIFO alone, which stands beside the register file. -/
theorem faostMessages : Obligations.FaostMessages := by
  unfold Obligations.FaostMessages
  intro s
  have hcell (l : Lane) (bytes : List Nat) : Runs (.faostCell l bytes) s (faostCellOp l bytes s) := rfl
  have htimeout (l : Lane) (time : Bool) : Runs (.reassemblyTimeout l time) s (reassemblyTimeoutOp l time s) := rfl
  have hreport (l : Lane) : Runs (.levelReport l) s (levelReportOp l s) := rfl
  have hreadReq (l : Lane) : Runs (.regRdReq l) s (remoteRequest l false s) := rfl
  have hwriteReq (l : Lane) : Runs (.regWrReq l) s (remoteRequest l true s) := rfl
  have hreadRsp (l : Lane) : Runs (.regRdRsp l) s (deliverFifo l (· == 4) s) := rfl
  have hwriteRsp (l : Lane) : Runs (.regWrRsp l) s (deliverFifo l (· == 6) s) := rfl
  have happ (l : Lane) : Runs (.app l) s (deliverFifo l (fun t => 0x40 ≤ t && t ≤ 0x7F) s) := rfl
  have hpush (word : Word) : Runs (.msgTxPush word) s (msgTxPushOp word.toNat s) := rfl
  have hslot (l : Lane) (cell : Fin 7) (sfc : Word) (boundary : Nat) :
    Runs (.faostCellSlot l cell sfc boundary) s (faostCellSlotOp l cell sfc.toNat boundary s) := rfl
  have hflush (qs : Byte) : Runs (.msgQFlush qs) s (msgQFlushOp qs.toNat s) := rfl
  have hsend (l : Lane) (stats : List (Int × Nat)) :
    Runs (.levelReportSend l stats) s (levelReportSendOp l stats s) := rfl
  have hpop : Effect .rxPop s [] (rxPopOp s) := effect_of_regs rfl rfl
  have hrxFlush : Effect .rxFlush s [] (rxFlushOp s) := effect_of_regs rfl rfl
  exact ⟨hcell, htimeout, hreport, hreadReq, hwriteReq, hreadRsp, hwriteRsp, happ, hpush, hslot, hflush, hsend, hpop,
    hrxFlush⟩

end Sys2Proof.Machine
end

section
/-!
PROOF. Peer handshakes and sessions (R272, R291, R476 to R480).
-/

namespace Sys2Proof.Machine

open Sys2Proof

/-- Settles O56: the next states are those of the operations as they are defined. -/
theorem peerSessions : Obligations.PeerSessions := by
  unfold Obligations.PeerSessions
  intro s
  have hheader (l : Lane) (b1 b2 b3 : Byte) :
    Runs (.faostHeader l b1 b2 b3) s (faostHeaderOp l b1.toNat b2.toNat b3.toNat s) := rfl
  have hhello (l : Lane) : Runs (.hello l) s (helloOp l s) := rfl
  have hreply (l : Lane) : Runs (.helloReply l) s (helloReplyOp l s) := rfl
  have hcert (l : Lane) : Runs (.cert l) s (certOp l s) := rfl
  have hfinish (l : Lane) : Runs (.finish l) s (finishOp l s) := rfl
  have halert (l : Lane) : Runs (.alert l) s (alertOp l s) := rfl
  have hclose (l : Lane) : Runs (.close l) s (closeOp l s) := rfl
  have htimeout (l : Lane) : Runs (.peerHandshakeTimeout l) s (peerHandshakeTimeoutOp l s) := rfl
  have hretry (l : Lane) : Runs (.peerHandshakeRetry l) s (peerHandshakeRetryOp l s) := rfl
  exact ⟨hheader, hhello, hreply, hcert, hfinish, halert, hclose, htimeout, hretry⟩

end Sys2Proof.Machine
end

section
/-!
PROOF. Status marks of measurement, self-test and security, each with its frame (R305, R317, R422, R432, R465, R472).
-/

namespace Sys2Proof.Machine

open Sys2Proof

/-! ### Writes to Granary stand beside the register file (R427) -/

section
variable (s : State)

theorem nvsNext_set (f : Fld) (x : Nat) : nvsNext (s.set f x) = (nvsNext s).set f x := by
  have hnext : (s.set f x).stub = s.stub ∧ (s.set f x).store = s.store := ⟨rfl, rfl⟩
  unfold nvsNext
  rw [hnext.1, hnext.2]
  split <;> rfl

theorem nvsGo_set (f : Fld) (x : Nat) : nvsGo (s.set f x) = (nvsGo s).set f x := by
  unfold nvsGo
  rw [nvsNext_set]
  exact (apply_ite (State.set · f x) _ _ _).symm

/-- Whether a field is written before or after the boot record is the same (R427, R432). -/
theorem bootPut_set (b : BootRecord) (f : Fld) (x : Nat) : bootPut b (s.set f x) = (bootPut b s).set f x :=
  have hgo (t : MemInt) : nvsGo { s.set f x with store := t } = (nvsGo { s with store := t }).set f x :=
    nvsGo_set { s with store := t } f x
  hgo _

theorem nvsNext_regs : (nvsNext s).regs = s.regs ∧ (nvsNext s).resets = s.resets := by
  unfold nvsNext
  split <;> exact ⟨rfl, rfl⟩

theorem nvsGo_regs : (nvsGo s).regs = s.regs ∧ (nvsGo s).resets = s.resets := by
  unfold nvsGo
  split
  · exact ⟨rfl, rfl⟩
  · exact nvsNext_regs s

/-- The boot record stands beside the register file. -/
theorem After.bootPut {s v : State} {w : List (Fld × Nat)} (b : BootRecord) (h : After s v w) :
    After s (bootPut b v) w :=
  have ⟨hregs, hresets⟩ := nvsGo_regs _
  After.congr (v := v) (u := Machine.bootPut b v) hregs hresets h

/-! ### Measurement, self-test and security -/

/-- EN = 0 clears SETTLED with it (R305). -/
theorem madcRefWrite_effect (en : Bool) : Effect (.madcRefWrite en) s
    (if en = true then [(R.MADC_REF_EN, 1)] else [(R.MADC_REF_SETTLED, 0), (R.MADC_REF_EN, 0)]) s := by
  have hplain : Plain R.MADC_REF_EN := plain_devFld (by decide) (by decide) (by decide)
  cases en with
  | true =>
    have hen : After s (madcRefWriteOp true s) [(R.MADC_REF_EN, 1)] := After.one (by decide) hplain
    exact hen.effect rfl rfl
  | false =>
    have hen : After s _ [(R.MADC_REF_EN, 0)] := After.one (by decide) hplain
    have hsettled : After s (madcRefWriteOp false s) ((R.MADC_REF_SETTLED, 0) :: _) :=
      hen.set (by decide) (plain_devFld (by decide) (by decide) (by decide))
        (List.forall_mem_singleton.mpr (by decide))
    exact hsettled.effect rfl rfl

theorem madcRefSettled_effect : EffectIf (s.getB R.MADC_REF_EN && !s.getB R.MADC_REF_SETTLED) .madcRefSettled s
    [s.irqAfter ⟨.madc, 0⟩ 0, (R.MADC_REF_SETTLED, 1)] s := by
  have hsettled : After s _ [(R.MADC_REF_SETTLED, 1)] :=
    After.one (by decide) (plain_devFld (by decide) (by decide) (by decide))
  have hirq : After s ((s.setB R.MADC_REF_SETTLED true).irq (dev .madc) 0) (s.irqAfter ⟨.madc, 0⟩ 0 :: _) :=
    hsettled.irq (b := ⟨.madc, 0⟩) (by decide) (plain_devFld (by decide) (by decide) (by decide))
      (List.forall_mem_singleton.mpr (by decide))
  exact effectIf_of_done rfl (fun _ => hirq) (State.irq_core ..)

/-- TRIPPED is cleared, but while the limit is exceeded the write is refused (R317). -/
theorem mfilTrippedClear_effect (c : Fin 8) (j : Fin 2) : Effect (.mfilTrippedClear c j) s
    [if s.getB (R.MFIL_LIM_CFG_ACTIVE c j) = true then (R.BLK_STAT_CONFLICT ⟨.mfil, 0⟩, 1)
     else (R.MFIL_LIM_CFG_TRIPPED c j, 0)] s := by
  have hrefused : After s (s.conflict (dev .mfil)) [(R.BLK_STAT_CONFLICT ⟨.mfil, 0⟩, 1)] :=
    After.one (by decide) (plain_devFld (by decide) (by decide) (by decide))
  have hcleared : After s (s.setB (R.MFIL_LIM_CFG_TRIPPED c j) false) [(R.MFIL_LIM_CFG_TRIPPED c j, 0)] :=
    After.one (Nat.two_pow_pos _) (plain_devFld (by omega) (by omega) (by omega))
  exact (After.iteOne hrefused hcleared).effect rfl (ite_core rfl rfl)

theorem marchAbort_effect : EffectIf (decide (s.get R.MEM_MARCH_STAT_STATE = 1)) .marchAbort s []
    { s with store := { s.store with marchStop := true } } := by
  refine effectIf_of_done (v := { s with store := { s.store with marchStop := true } }) ?_
    (fun _ => After.congr (v := s) rfl rfl After.nil) rfl
  simp only [decide_eq_true_eq]
  rfl

theorem eccInject_effect (word : BitVec 17) (mode : BitVec 2) : Effect (.eccInject word mode) s
    [(R.MEM_INJ_CTRL_MODE, mode.toNat), (R.MEM_INJ_ADDR_WORD, word.toNat)] s := by
  have hword : After s _ [(R.MEM_INJ_ADDR_WORD, word.toNat)] :=
    After.one word.isLt (plain_devFld (by decide) (by decide) (by decide))
  have hmode : After s (eccInjectOp word.toNat mode.toNat s) ((R.MEM_INJ_CTRL_MODE, mode.toNat) :: _) :=
    hword.set mode.isLt (plain_devFld (by decide) (by decide) (by decide))
      (List.forall_mem_singleton.mpr (fld_key_ne_of_place (by decide)))
  exact hmode.effect rfl rfl

/-- The flags are shown in TST_CFG, and the boot record that carries them past COLD is written (R432). -/
theorem tstCfgWrite_effect (boot once : Bool) : Effect (.tstCfgWrite boot once) s
    [(R.TST_CFG_ONCE, b2n once), (R.TST_CFG_LBIST_BOOT, b2n boot)]
    (bootPut { s.store.boot with lbist := boot, once := once } s) := by
  let u := bootPut { s.store.boot with lbist := boot, once := once } s
  have hx : exec (.tstCfgWrite boot once) s = done ((u.setB R.TST_CFG_LBIST_BOOT boot).setB R.TST_CFG_ONCE once) :=
    congrArg done ((bootPut_set _ _ _ _).trans (congrArg (State.setB · R.TST_CFG_ONCE once) (bootPut_set s _ _ _)))
  have hboot : After s _ [(R.TST_CFG_LBIST_BOOT, b2n boot)] :=
    (After.nil.bootPut { s.store.boot with lbist := boot, once := once }).set (b2n_lt_two boot)
      (plain_devFld (by decide) (by decide) (by decide)) (List.forall_mem_nil _)
  have honce : After s _ ((R.TST_CFG_ONCE, b2n once) :: _) :=
    hboot.set (b2n_lt_two once) (plain_devFld (by decide) (by decide) (by decide))
      (List.forall_mem_singleton.mpr (fld_key_ne_of_place (by decide)))
  exact honce.effect hx rfl

/-- A failure of the TRNG is shown once, with its source; the Stub event stands beside the register file (R465). -/
theorem trngFail_effect :
    if (s.getB R.SEC_STAT_TRNG_FAIL || s.inReset ⟨.sec, 0⟩) = true then Effect .trngFail s [] s
    else Effect .trngFail s [s.irqAfter ⟨.sec, 0⟩ 6, (R.SEC_STAT_TRNG_FAIL, 1)] s := by
  have hx : exec .trngFail s = done (trngFailOp s) := rfl
  have hfail : After s _ [(R.SEC_STAT_TRNG_FAIL, 1)] :=
    After.one (by decide) (plain_devFld (by decide) (by decide) (by decide))
  have hirq : After s ((s.setB R.SEC_STAT_TRNG_FAIL true).irq secBlk 6) (s.irqAfter ⟨.sec, 0⟩ 6 :: _) :=
    hfail.irq (b := ⟨.sec, 0⟩) (by decide) (plain_devFld (by decide) (by decide) (by decide))
      (List.forall_mem_singleton.mpr (by decide))
  split
  next hshown => exact effect_of_regs (hx.trans (congrArg done (if_pos hshown))) rfl
  next hnew => exact hirq.event.effect (hx.trans (congrArg done (if_neg hnew))) (State.irq_core ..)

end

/-- Settles O53: each command's operation is a chain of field writes and sources, each of which a condition may refuse,
or a mark beside the register file. -/
theorem deviceMarks : Obligations.DeviceMarks := by
  unfold Obligations.DeviceMarks
  intro s
  have hbackoff : Effect .ownBackoffExpiry s [] (ownBackoffExpiryOp s) := effect_of_regs rfl rfl
  exact ⟨madcRefWrite_effect s, madcRefSettled_effect s, mfilTrippedClear_effect s, marchAbort_effect s,
    eccInject_effect s, tstCfgWrite_effect s, hbackoff, trngFail_effect s⟩

end Sys2Proof.Machine
end

section
/-!
PROOF. Conversions and measurement chains, and the control DACs (R301 to R328).
-/

namespace Sys2Proof.Machine

open Sys2Proof

/-- Settles O44: the next states are those of the operations as they are defined; O44 compares the converter as one of
two, where the model compares its number. -/
theorem measurement : Obligations.Measurement := by
  unfold Obligations.Measurement
  intro s
  have hconversion (conv : Fin 2) (slot : Fin 16) (nv : Int) (stamp : Nat) :
    Runs (.madcConversion conv slot nv stamp) s (madcConversionOp conv slot nv stamp s) := rfl
  have hfirst (conv : Fin 2) : decide (conv.val = 0) = decide (conv = 0) :=
    decide_eq_decide.mpr Fin.val_eq_zero_iff
  have hraw (conv : Fin 2) (v : Word) (req : Requester) :
    Runs (.madcRawCfgWrite conv v req) s (madcRawCfgWriteOp conv v.toNat req s) := rfl
  have hpair (pair : Bool) (chain : Fin 8) : Runs (.madcPairWrite pair chain) s (madcPairWriteOp pair chain s) := rfl
  have hchain (c : Fin 8) (v : Word) (req : Requester) :
    Runs (.mfilCfgWrite c v req) s (mfilCfgWriteOp c v.toNat req s) := rfl
  have houtput (c : Fin 8) : Runs (.mfilOutput c) s (mfilOutputOp c s) := rfl
  simp only [madcConversionOp, hfirst] at hconversion
  exact ⟨hconversion, hraw, hpair, hchain, houtput⟩

/-- Settles O45: the next states are those of the operations as they are defined. -/
theorem controlOutputs : Obligations.ControlOutputs := by
  unfold Obligations.ControlOutputs
  intro s
  have hload (readable : Bool) : Runs (.cdacTableLoad readable) s (cdacTableLoadOp readable s) := rfl
  have hrun (n : Fin 48) : Runs (.cdacRun n) s (cdacRunOp n s) := rfl
  have hhold (n : Fin 48) : Runs (.cdacHold n) s (cdacHoldOp n s) := rfl
  have hfault (n : Fin 48) : Runs (.cdacFault n) s (cdacFaultOp n s) := rfl
  have hclear (n : Fin 48) : Runs (.cdacClear n) s (cdacClearOp n s) := rfl
  have hcode (n : Fin 48) (code : BitVec 16) : Runs (.cdacCodeWrite n code) s (cdacCodeWriteOp n code.toNat s) := rfl
  have hstep (n : Fin 48) : Runs (.cdacRampStep n) s (cdacRampStepOp n s) := rfl
  have hspan (n : Fin 48) (v : Word) : Runs (.cdacSpanWrite n v) s (cdacSpanWriteOp n v.toNat s) := rfl
  have hspanEnd (n : Fin 48) : Runs (.cdacSpanHoldEnd n) s (cdacSpanHoldEndOp n s) := rfl
  have hfv (n : Fin 48) (code : BitVec 16) : Runs (.cdacFvWrite n code) s (cdacFvWriteOp n code.toNat s) := rfl
  exact ⟨hload, hrun, hhold, hfault, hclear, hcode, hstep, hspan, hspanEnd, hfv⟩

end Sys2Proof.Machine
end

section
/-!
PROOF. A step runs the command at the front of the queue, no word spells one, and no command changes the queue.
-/

namespace Sys2Proof.Machine

open Sys2Proof

/-- Settles O1: the definition of a step, at a queue that is not empty. -/
theorem stepTakesFront : Obligations.StepTakesFront := by
  unfold Obligations.StepTakesFront
  intro c rest s
  rfl

/-- Settles O4: the table gives its rows no bits, so that nothing is spelled and nothing queued. -/
theorem noWords : Obligations.NoWords := by
  unfold Obligations.NoWords
  intro nbits w
  have hnone : decodeTableWord nbits w = none := rfl
  refine ⟨hnone, fun s => ?_⟩
  unfold State.withFetchWord
  rw [hnone]

/-- Where a command runs to a next state, that state keeps the queue and the canonical forms of `s`. -/
def KeepsNext (s : State) (o : Host.Outcome State Fault Refusal) : Prop := ∀ t, o = .next t → Keeps s t

/-- The end of a command, at which its events are accepted, keeps what its operation kept (R450). -/
theorem keepsNext_done {s u : State} (h : Keeps s u) : KeepsNext s (done u) := by
  intro t ht
  cases ht
  exact settle_keeps h

/-- A command on a block that the device has not is a fault, which has no next state (log entry 181). -/
theorem keepsNext_guarded {s u : State} {b : Blk} (h : Keeps s u) :
    KeepsNext s (if allBlocks.contains b then done u else .fault .noSuchTarget) := by
  split
  · exact keepsNext_done h
  · exact fun t ht => nomatch ht

/-- Every command keeps the queue and the canonical forms, as its operation does. -/
theorem exec_keepsNext (c : Instr) (s : State) : KeepsNext s (exec c s) :=
  have h : Keeps s s := Keeps.rfl'
  match c with
  | .registerWrite _ _ _ _ => keepsNext_done (registerWriteOp_keeps _ _ _ _ h)
  | .readClear _ _ => keepsNext_done (readClearOp_keeps _ _ h)
  | .wideLowWordRead _ _ => keepsNext_done (wideLowWordReadOp_keeps _ _ h)
  | .wideHighWordWrite _ _ _ _ => keepsNext_done (wideHighWordWriteOp_keeps _ _ _ _ h)
  | .laneEnable _ => keepsNext_done (laneEnableOp_keeps _ h)
  | .laneDisable _ => keepsNext_done (laneDisableOp_keeps _ h)
  | .laneStart _ => keepsNext_done (laneStartOp_keeps _ h)
  | .laneStartDone _ => keepsNext_done (laneStartDoneOp_keeps _ h)
  | .laneStopDone _ => keepsNext_done (laneStopDoneOp_keeps _ h)
  | .rateChange _ _ => keepsNext_done (rateChangeOp_keeps _ _ h)
  | .modeChange _ _ => keepsNext_done (modeChangeOp_keeps _ _ h)
  | .assistChange _ _ => keepsNext_done (assistChangeOp_keeps _ _ h)
  | .assistRealign _ => keepsNext_done (assistRealignOp_keeps _ h)
  | .dimReqSet _ => keepsNext_done (dimReqSetOp_keeps _ h)
  | .dimReqClear _ => keepsNext_done (dimReqClearOp_keeps _ h)
  | .sliceReassign _ _ => keepsNext_done (sliceReassignOp_keeps _ _ h)
  | .converterFailed _ _ => keepsNext_done (converterFailedOp_keeps _ _ h)
  | .laneCandle _ => keepsNext_done (laneCandleOp_keeps _ h)
  | .laneFull _ => keepsNext_done (laneFullOp_keeps _ h)
  | .pllLock _ _ => keepsNext_done (pllLockOp_keeps _ _ h)
  | .pllLossOfLock _ _ => keepsNext_done (pllLossOfLockOp_keeps _ _ h)
  | .txFrame _ _ _ => keepsNext_done (txFrameOp_keeps _ _ _ h)
  | .txSuperframeBoundary _ => keepsNext_done (txSuperframeBoundaryOp_keeps _ h)
  | .trainingBurstStart _ => keepsNext_done (trainingBurstStartOp_keeps _ h)
  | .rxPilotField _ _ _ => keepsNext_done (rxPilotFieldOp_keeps _ _ _ h)
  | .pilotLock _ => keepsNext_done (pilotLockOp_keeps _ h)
  | .pilotLockLoss _ => keepsNext_done (pilotLockLossOp_keeps _ h)
  | .rxSfcReceived _ _ => keepsNext_done (rxSfcReceivedOp_keeps _ _ h)
  | .scrLock _ => keepsNext_done (scrLockOp_keeps _ h)
  | .scrLockLoss _ => keepsNext_done (scrLockLossOp_keeps _ h)
  | .idecResume _ => keepsNext_done (idecResumeOp_keeps _ h)
  | .dimEntry _ => keepsNext_done (dimEntryOp_keeps _ h)
  | .dimExit _ => keepsNext_done (dimExitOp_keeps _ h)
  | .losSet _ _ => keepsNext_done (losSetOp_keeps _ _ h)
  | .losRawClear _ _ => keepsNext_done (losRawClearOp_keeps _ _ h)
  | .losClear _ => keepsNext_done (losClearOp_keeps _ h)
  | .dimSignalTimeout _ => keepsNext_done (dimSignalTimeoutOp_keeps _ h)
  | .rxSuperframeUpdate _ _ => keepsNext_done (rxSuperframeUpdateOp_keeps _ _ h)
  | .agcDone _ => keepsNext_done (agcDoneOp_keeps _ h)
  | .trLockAcquired _ => keepsNext_done (trLockAcquiredOp_keeps _ h)
  | .trLockLost _ => keepsNext_done (trLockLostOp_keeps _ h)
  | .hostClockSlewDone _ => keepsNext_done (hostClockSlewDoneOp_keeps _ h)
  | .echoSearch _ _ => keepsNext_done (echoSearchOp_keeps _ _ h)
  | .adaptFreeze _ _ => keepsNext_done (adaptFreezeOp_keeps _ _ h)
  | .ffeCommit _ => keepsNext_done (ffeCommitOp_keeps _ h)
  | .ffeCommitApply _ => keepsNext_done (ffeCommitApplyOp_keeps _ h)
  | .ffeSnap _ => keepsNext_done (ffeSnapOp_keeps _ h)
  | .warmStartTimeout _ => keepsNext_done (warmStartTimeoutOp_keeps _ h)
  | .ffeConverged _ => keepsNext_done (ffeConvergedOp_keeps _ h)
  | .mlseConverged _ => keepsNext_done (mlseConvergedOp_keeps _ h)
  | .measWindowEnd _ _ _ => keepsNext_done (measWindowEndOp_keeps _ _ _ h)
  | .histStart _ => keepsNext_done (histStartOp_keeps _ h)
  | .histDone _ => keepsNext_done (histDoneOp_keeps _ h)
  | .capArm _ _ => keepsNext_done (capArmOp_keeps _ _ h)
  | .capAbort _ _ _ => keepsNext_done (capAbortOp_keeps _ _ _ h)
  | .capFill _ _ => keepsNext_done (capFillOp_keeps _ _ h)
  | .capFillDone _ => keepsNext_done (capFillDoneOp_keeps _ h)
  | .capTrigger _ _ => keepsNext_done (capTriggerOp_keeps _ _ h)
  | .capDone _ _ _ => keepsNext_done (capDoneOp_keeps _ _ _ h)
  | .idecFrame _ _ _ => keepsNext_done (idecFrameOp_keeps _ _ _ h)
  | .idecClr _ => keepsNext_done (idecClrOp_keeps _ h)
  | .idecWindowEnd _ => keepsNext_done (idecWindowEndOp_keeps _ h)
  | .ocCodeword _ _ _ _ => keepsNext_done (ocCodewordOp_keeps _ _ _ _ h)
  | .gbxOcClr _ => keepsNext_done (gbxOcClrOp_keeps _ h)
  | .squelchOn _ => keepsNext_done (squelchOnOp_keeps _ h)
  | .squelchOff _ => keepsNext_done (squelchOffOp_keeps _ h)
  | .txpCommit _ => keepsNext_done (txpCommitOp_keeps _ h)
  | .txpCommitApply _ => keepsNext_done (txpCommitApplyOp_keeps _ h)
  | .txpSnap _ => keepsNext_done (txpSnapOp_keeps _ h)
  | .txAdaptStep _ _ _ => keepsNext_done (txAdaptStepOp_keeps _ _ _ h)
  | .fsWrite _ _ => keepsNext_done (fsWriteOp_keeps _ _ h)
  | .patternSelect _ _ _ _ => keepsNext_done (patternSelectOp_keeps _ _ _ _ h)
  | .ldisWrite _ _ _ => keepsNext_done (ldisWriteOp_keeps _ _ _ h)
  | .ldisTripClear _ => keepsNext_done (ldisTripClearOp_keeps _ h)
  | .txRateResume _ => keepsNext_done (txRateResumeOp_keeps _ h)
  | .txSliceResume _ => keepsNext_done (txSliceResumeOp_keeps _ h)
  | .hostLosSet _ _ => keepsNext_done (hostLosSetOp_keeps _ _ h)
  | .hostLosClear _ _ => keepsNext_done (hostLosClearOp_keeps _ _ h)
  | .cdrLock _ _ _ => keepsNext_done (cdrLockOp_keeps _ _ _ h)
  | .cdrLockLoss _ => keepsNext_done (cdrLockLossOp_keeps _ h)
  | .hostRxEqDone _ _ _ _ => keepsNext_done (hostRxEqDoneOp_keeps _ _ _ _ h)
  | .hsdRxFreeze _ _ => keepsNext_done (hsdRxFreezeOp_keeps _ _ h)
  | .hsdTxEqWrite _ _ _ _ _ => keepsNext_done (hsdTxEqWriteOp_keeps _ _ _ _ _ h)
  | .hsdInvert _ _ _ => keepsNext_done (hsdInvertOp_keeps _ _ _ h)
  | .trainRestart _ => keepsNext_done (trainRestartOp_keeps _ h)
  | .trainRequest _ _ => keepsNext_done (trainRequestOp_keeps _ _ h)
  | .trainResponseTimeout _ => keepsNext_done (trainResponseTimeoutOp_keeps _ h)
  | .trainTimeout _ => keepsNext_done (trainTimeoutOp_keeps _ h)
  | .trainDone _ => keepsNext_done (trainDoneOp_keeps _ h)
  | .amPeriod _ _ => keepsNext_done (amPeriodOp_keeps _ _ h)
  | .portWWrite _ _ => keepsNext_done (portWWriteOp_keeps _ _ h)
  | .txClockSlewDone _ => keepsNext_done (txClockSlewDoneOp_keeps _ h)
  | .prbsGenSelect _ _ => keepsNext_done (prbsGenSelectOp_keeps _ _ h)
  | .prbsChkSelect _ _ => keepsNext_done (prbsChkSelectOp_keeps _ _ h)
  | .prbsLock _ => keepsNext_done (prbsLockOp_keeps _ h)
  | .prbsLoss _ _ _ => keepsNext_done (prbsLossOp_keeps _ _ _ h)
  | .prbsClr _ => keepsNext_done (prbsClrOp_keeps _ h)
  | .calWindowEnd _ _ => keepsNext_done (calWindowEndOp_keeps _ _ h)
  | .calApplyStep _ => keepsNext_done (calApplyStepOp_keeps _ h)
  | .dacCellSwap _ => keepsNext_done (dacCellSwapOp_keeps _ h)
  | .calStartupDone => keepsNext_done (calStartupDoneOp_keeps h)
  | .calSave => keepsNext_done (calSaveOp_keeps h)
  | .calSaveDone => keepsNext_done (calSaveDoneOp_keeps h)
  | .refAnchorTimeout => keepsNext_done (refAnchorTimeoutOp_keeps h)
  | .calIntervalExpiry => keepsNext_done (calIntervalExpiryOp_keeps h)
  | .calRun _ => keepsNext_done (calRunOp_keeps _ h)
  | .calAnchor => keepsNext_done (calAnchorOp_keeps h)
  | .calRecSelect _ _ => keepsNext_done (calRecSelectOp_keeps _ _ h)
  | .timeClockChange _ => keepsNext_done (timeClockChangeOp_keeps _ h)
  | .fineReady => keepsNext_done (fineReadyOp_keeps h)
  | .timeSet => keepsNext_done (timeSetOp_keeps h)
  | .timeStep => keepsNext_done (timeStepOp_keeps h)
  | .sftsSelect _ _ => keepsNext_done (sftsSelectOp_keeps _ _ h)
  | .ppsInEdge _ _ => keepsNext_done (ppsInEdgeOp_keeps _ _ h)
  | .hostOfsWrite _ => keepsNext_done (hostOfsWriteOp_keeps _ h)
  | .sourceLoss => keepsNext_done (sourceLossOp_keeps h)
  | .servoSrcWrite _ => keepsNext_done (servoSrcWriteOp_keeps _ h)
  | .trefQualified => keepsNext_done (trefQualifiedOp_keeps h)
  | .trefLos => keepsNext_done (trefLosOp_keeps h)
  | .trefFreqWrite _ => keepsNext_done (trefFreqWriteOp_keeps _ h)
  | .ppsOutEnable => keepsNext_done (ppsOutEnableOp_keeps h)
  | .ppsOutDisable => keepsNext_done (ppsOutDisableOp_keeps h)
  | .ppsOutOfsWrite _ => keepsNext_done (ppsOutOfsWriteOp_keeps _ h)
  | .ppsOutAlarmWrite _ => keepsNext_done (ppsOutAlarmWriteOp_keeps _ h)
  | .ppsOutPulseEnd => keepsNext_done (ppsOutPulseEndOp_keeps h)
  | .oscLearnUpdate _ _ => keepsNext_done (oscLearnUpdateOp_keeps _ _ h)
  | .oscEpochAdvance => keepsNext_done (oscEpochAdvanceOp_keeps h)
  | .oscClear => keepsNext_done (oscClearOp_keeps h)
  | .holdoverPredict _ => keepsNext_done (holdoverPredictOp_keeps _ h)
  | .alarmCtrlWrite _ _ _ => keepsNext_done (alarmCtrlWriteOp_keeps _ _ _ h)
  | .alarmRelease _ _ => keepsNext_done (alarmReleaseOp_keeps _ _ h)
  | .alarmFire _ => keepsNext_done (alarmFireOp_keeps _ h)
  | .faostHeader _ _ _ _ => keepsNext_done (faostHeaderOp_keeps _ _ _ _ h)
  | .faostCell _ _ => keepsNext_done (faostCellOp_keeps _ _ h)
  | .reassemblyTimeout _ _ => keepsNext_done (reassemblyTimeoutOp_keeps _ _ h)
  | .time _ => keepsNext_done (timeOp_keeps _ h)
  | .levelReport _ => keepsNext_done (levelReportOp_keeps _ h)
  | .regRdReq _ => keepsNext_done (regRdReqOp_keeps _ h)
  | .regWrReq _ => keepsNext_done (regWrReqOp_keeps _ h)
  | .regRdRsp _ => keepsNext_done (regRdRspOp_keeps _ h)
  | .regWrRsp _ => keepsNext_done (regWrRspOp_keeps _ h)
  | .app _ => keepsNext_done (appOp_keeps _ h)
  | .hello _ => keepsNext_done (helloOp_keeps _ h)
  | .helloReply _ => keepsNext_done (helloReplyOp_keeps _ h)
  | .cert _ => keepsNext_done (certOp_keeps _ h)
  | .finish _ => keepsNext_done (finishOp_keeps _ h)
  | .alert _ => keepsNext_done (alertOp_keeps _ h)
  | .close _ => keepsNext_done (closeOp_keeps _ h)
  | .msgTxPush _ => keepsNext_done (msgTxPushOp_keeps _ h)
  | .faostCellSlot _ _ _ _ => keepsNext_done (faostCellSlotOp_keeps _ _ _ _ h)
  | .msgQFlush _ => keepsNext_done (msgQFlushOp_keeps _ h)
  | .msgTsPop _ => keepsNext_done (msgTsPopOp_keeps _ h)
  | .rxPop => keepsNext_done (rxPopOp_keeps h)
  | .rxFlush => keepsNext_done (rxFlushOp_keeps h)
  | .remoteAccessExecute => keepsNext_done (remoteAccessExecuteOp_keeps h)
  | .levelReportSend _ _ => keepsNext_done (levelReportSendOp_keeps _ _ h)
  | .madcConversion _ _ _ _ => keepsNext_done (madcConversionOp_keeps _ _ _ _ h)
  | .madcRawCfgWrite _ _ _ => keepsNext_done (madcRawCfgWriteOp_keeps _ _ _ h)
  | .madcPairWrite _ _ => keepsNext_done (madcPairWriteOp_keeps _ _ h)
  | .madcRefWrite _ => keepsNext_done (madcRefWriteOp_keeps _ h)
  | .madcRefSettled => keepsNext_done (madcRefSettledOp_keeps h)
  | .mfilCfgWrite _ _ _ => keepsNext_done (mfilCfgWriteOp_keeps _ _ _ h)
  | .mfilOutput _ => keepsNext_done (mfilOutputOp_keeps _ h)
  | .mfilTrippedClear _ _ => keepsNext_done (mfilTrippedClearOp_keeps _ _ h)
  | .cdacTableLoad _ => keepsNext_done (cdacTableLoadOp_keeps _ h)
  | .cdacRun _ => keepsNext_done (cdacRunOp_keeps _ h)
  | .cdacHold _ => keepsNext_done (cdacHoldOp_keeps _ h)
  | .cdacFault _ => keepsNext_done (cdacFaultOp_keeps _ h)
  | .cdacClear _ => keepsNext_done (cdacClearOp_keeps _ h)
  | .cdacCodeWrite _ _ => keepsNext_done (cdacCodeWriteOp_keeps _ _ h)
  | .cdacRampStep _ => keepsNext_done (cdacRampStepOp_keeps _ h)
  | .cdacSpanWrite _ _ => keepsNext_done (cdacSpanWriteOp_keeps _ _ h)
  | .cdacSpanHoldEnd _ => keepsNext_done (cdacSpanHoldEndOp_keeps _ h)
  | .cdacFvWrite _ _ => keepsNext_done (cdacFvWriteOp_keeps _ _ h)
  | .write _ _ _ _ => keepsNext_done (writeOp_keeps _ _ _ _ h)
  | .read _ _ _ _ => keepsNext_done (readOp_keeps _ _ _ _ h)
  | .readPost _ _ _ _ => keepsNext_done (readPostOp_keeps _ _ _ _ h)
  | .fetch _ _ _ _ => keepsNext_done (fetchOp_keeps _ _ _ _ h)
  | .sync _ _ => keepsNext_done (syncOp_keeps _ _ h)
  | .writeOwner _ _ _ _ => keepsNext_done (writeOwnerOp_keeps _ _ _ _ h)
  | .unknownOpcode _ _ => keepsNext_done (unknownOpcodeOp_keeps _ _ h)
  | .postedWriteExecute _ => keepsNext_done (postedWriteExecuteOp_keeps _ h)
  | .postedReadPerform _ _ => keepsNext_done (postedReadPerformOp_keeps _ _ h)
  | .i3cPrivateRead => keepsNext_done (i3cPrivateReadOp_keeps h)
  | .entdaa _ => keepsNext_done (entdaaOp_keeps _ h)
  | .setdasa _ _ => keepsNext_done (setdasaOp_keeps _ _ h)
  | .setnewda _ _ => keepsNext_done (setnewdaOp_keeps _ _ h)
  | .rstdaa => keepsNext_done (rstdaaOp_keeps h)
  | .getpid => keepsNext_done (getpidOp_keeps h)
  | .getbcr => keepsNext_done (getbcrOp_keeps h)
  | .getdcr => keepsNext_done (getdcrOp_keeps h)
  | .getstatus => keepsNext_done (getstatusOp_keeps h)
  | .enec _ => keepsNext_done (enecOp_keeps _ h)
  | .disec _ => keepsNext_done (disecOp_keeps _ h)
  | .setmwl _ => keepsNext_done (setmwlOp_keeps _ h)
  | .getmwl => keepsNext_done (getmwlOp_keeps h)
  | .setmrl _ => keepsNext_done (setmrlOp_keeps _ h)
  | .getmrl => keepsNext_done (getmrlOp_keeps h)
  | .domainWakeDone _ => keepsNext_done (domainWakeDoneOp_keeps _ h)
  | .wakeHoldExpiry _ => keepsNext_done (wakeHoldExpiryOp_keeps _ h)
  | .wickMatch _ _ => keepsNext_done (wickMatchOp_keeps _ _ h)
  | .expertArm _ _ => keepsNext_guarded (expertArmOp_keeps _ _ h)
  | .expertUnlock _ _ => keepsNext_guarded (expertUnlockOp_keeps _ _ h)
  | .expertRelock _ _ => keepsNext_guarded (expertRelockOp_keeps _ _ h)
  | .expertArmTimeout _ => keepsNext_guarded (expertArmTimeoutOp_keeps _ h)
  | .blockEnable _ => keepsNext_guarded (blockEnableOp_keeps _ h)
  | .blockDisable _ => keepsNext_guarded (blockDisableOp_keeps _ h)
  | .blockStartDone _ => keepsNext_guarded (blockStartDoneOp_keeps _ h)
  | .blockStopDone _ => keepsNext_guarded (blockStopDoneOp_keeps _ h)
  | .blockSrst _ => keepsNext_guarded (blockSrstOp_keeps _ h)
  | .blockResetRelease _ => keepsNext_guarded (blockResetReleaseOp_keeps _ h)
  | .claimRelease _ _ => keepsNext_done (claimReleaseOp_keeps _ _ h)
  | .claimForce _ _ => keepsNext_done (claimForceOp_keeps _ _ h)
  | .irqForce _ _ => keepsNext_guarded (irqForceOp_keeps _ _ h)
  | .irqRouteWrite _ _ _ => keepsNext_done (irqRouteWriteOp_keeps _ _ _ h)
  | .mbxSubmit _ _ _ _ => keepsNext_done (mbxSubmitOp_keeps _ _ _ _ h)
  | .mbxAck _ => keepsNext_done (mbxAckOp_keeps _ h)
  | .mbxAbort _ => keepsNext_done (mbxAbortOp_keeps _ h)
  | .fwInfo _ => keepsNext_done (fwInfoOp_keeps _ h)
  | .linkBringup _ => keepsNext_done (linkBringupOp_keeps _ h)
  | .linkRestart _ => keepsNext_done (linkRestartOp_keeps _ h)
  | .calStartup _ => keepsNext_done (calStartupOp_keeps _ h)
  | .capture _ => keepsNext_done (captureOp_keeps _ h)
  | .spdm _ => keepsNext_done (spdmOp_keeps _ h)
  | .profileApply _ => keepsNext_done (profileApplyOp_keeps _ h)
  | .profileStore _ => keepsNext_done (profileStoreOp_keeps _ h)
  | .granaryWrite _ => keepsNext_done (granaryWriteOp_keeps _ h)
  | .fwStore _ => keepsNext_done (fwStoreOp_keeps _ h)
  | .fwSelect _ => keepsNext_done (fwSelectOp_keeps _ h)
  | .stubErase _ => keepsNext_done (stubEraseOp_keeps _ h)
  | .gpioCfgWrite _ _ _ => keepsNext_done (gpioCfgWriteOp_keeps _ _ _ h)
  | .gpioEdge _ _ => keepsNext_done (gpioEdgeOp_keeps _ _ h)
  | .railGood _ => keepsNext_done (railGoodOp_keeps _ h)
  | .railLost _ => keepsNext_done (railLostOp_keeps _ h)
  | .railUv _ => keepsNext_done (railUvOp_keeps _ h)
  | .vioLoss => keepsNext_done (vioLossOp_keeps h)
  | .vioReturn => keepsNext_done (vioReturnOp_keeps h)
  | .vbakLow => keepsNext_done (vbakLowOp_keeps h)
  | .pwrStateReq _ => keepsNext_done (pwrStateReqOp_keeps _ h)
  | .handshakeAnswer _ => keepsNext_done (handshakeAnswerOp_keeps _ h)
  | .handshakeDeferExpiry _ => keepsNext_done (handshakeDeferExpiryOp_keeps _ h)
  | .handshakeTimeout _ => keepsNext_done (handshakeTimeoutOp_keeps _ h)
  | .powerStateEntryDone => keepsNext_done (powerStateEntryDoneOp_keeps h)
  | .powerStateExitDone => keepsNext_done (powerStateExitDoneOp_keeps h)
  | .wakePin _ => keepsNext_done (wakePinOp_keeps _ h)
  | .plCfgWrite _ => keepsNext_done (plCfgWriteOp_keeps _ h)
  | .plAutoLower => keepsNext_done (plAutoLowerOp_keeps h)
  | .avsFrameDone _ => keepsNext_done (avsFrameDoneOp_keeps _ h)
  | .avsSettleExpiry => keepsNext_done (avsSettleExpiryOp_keeps h)
  | .plChangeDone => keepsNext_done (plChangeDoneOp_keeps h)
  | .porAssert => keepsNext_done (porAssertOp_keeps h)
  | .porRelease => keepsNext_done (porReleaseOp_keeps h)
  | .resetNAssert => keepsNext_done (resetNAssertOp_keeps h)
  | .resetNRelease => keepsNext_done (resetNReleaseOp_keeps h)
  | .global => keepsNext_done (globalOp_keeps h)
  | .warm => keepsNext_done (warmOp_keeps h)
  | .resetPulseEnd _ => keepsNext_done (resetPulseEndOp_keeps _ h)
  | .sheaf _ _ => keepsNext_done (sheafOp_keeps _ _ h)
  | .coldRelease _ _ _ => keepsNext_done (coldReleaseOp_keeps _ _ _ h)
  | .wdtKick _ _ => keepsNext_done (wdtKickOp_keeps _ _ h)
  | .wdtExpiry => keepsNext_done (wdtExpiryOp_keeps h)
  | .firmwareRunning => keepsNext_done (firmwareRunningOp_keeps h)
  | .startupPhaseDone _ => keepsNext_done (startupPhaseDoneOp_keeps _ h)
  | .bootGo => keepsNext_done (bootGoOp_keeps h)
  | .scrubRead _ _ _ => keepsNext_done (scrubReadOp_keeps _ _ _ h)
  | .scratchBitSet _ _ => keepsNext_done (scratchBitSetOp_keeps _ _ h)
  | .scratchBitClear _ _ => keepsNext_done (scratchBitClearOp_keeps _ _ h)
  | .marchStart _ _ _ => keepsNext_done (marchStartOp_keeps _ _ _ h)
  | .marchAbort => keepsNext_done (marchAbortOp_keeps h)
  | .marchDone _ => keepsNext_done (marchDoneOp_keeps _ h)
  | .nvsWordDone _ => keepsNext_done (nvsWordDoneOp_keeps _ h)
  | .nvsCmdWrite => keepsNext_done (nvsCmdWriteOp_keeps h)
  | .nvsCmdFill _ => keepsNext_done (nvsCmdFillOp_keeps _ h)
  | .eccInject _ _ => keepsNext_done (eccInjectOp_keeps _ _ h)
  | .tstCfgWrite _ _ => keepsNext_done (tstCfgWriteOp_keeps _ _ h)
  | .thmSample _ _ => keepsNext_done (thmSampleOp_keeps _ _ h)
  | .pmcSnap => keepsNext_done (pmcSnapOp_keeps h)
  | .pmcSnapDone => keepsNext_done (pmcSnapDoneOp_keeps h)
  | .pmcOverflow _ _ => keepsNext_done (pmcOverflowOp_keeps _ _ h)
  | .evrLog _ => keepsNext_done (evrLogOp_keeps _ h)
  | .stubEventDrain _ => keepsNext_done (stubEventDrainOp_keeps _ h)
  | .evrRdSelect _ _ => keepsNext_done (evrRdSelectOp_keeps _ _ h)
  | .evrCommit => keepsNext_done (evrCommitOp_keeps h)
  | .stubCommitDone => keepsNext_done (stubCommitDoneOp_keeps h)
  | .nonce _ => keepsNext_done (nonceOp_keeps _ h)
  | .ownBegin _ => keepsNext_done (ownBeginOp_keeps _ h)
  | .ownFinish _ => keepsNext_done (ownFinishOp_keeps _ h)
  | .ownEnd _ => keepsNext_done (ownEndOp_keeps _ h)
  | .takeOwnership _ => keepsNext_done (takeOwnershipOp_keeps _ h)
  | .transfer _ => keepsNext_done (transferOp_keeps _ h)
  | .debugUnlock _ => keepsNext_done (debugUnlockOp_keeps _ h)
  | .rma _ => keepsNext_done (rmaOp_keeps _ h)
  | .decommission _ => keepsNext_done (decommissionOp_keeps _ h)
  | .lockdown _ => keepsNext_done (lockdownOp_keeps _ h)
  | .secCmdDone => keepsNext_done (secCmdDoneOp_keeps h)
  | .ownIdleTimeout => keepsNext_done (ownIdleTimeoutOp_keeps h)
  | .ownBackoffExpiry => keepsNext_done (ownBackoffExpiryOp_keeps h)
  | .trngFail => keepsNext_done (trngFailOp_keeps h)
  | .tamper _ => keepsNext_done (tamperOp_keeps _ h)
  | .peerHandshakeTimeout _ => keepsNext_done (peerHandshakeTimeoutOp_keeps _ h)
  | .peerHandshakeRetry _ => keepsNext_done (peerHandshakeRetryOp_keeps _ h)
  | .refclkLoss => keepsNext_done (refclkLossOp_keeps h)
  | .refclkRestored => keepsNext_done (refclkRestoredOp_keeps h)
  | .powerDetectorReady _ => keepsNext_done (powerDetectorReadyOp_keeps _ h)
  | .tempValidTimeout => keepsNext_done (tempValidTimeoutOp_keeps h)
  | .mbxCommandDone _ _ => keepsNext_done (mbxCommandDoneOp_keeps _ _ h)
  | .trainingAnswer _ => keepsNext_done (trainingAnswerOp_keeps _ h)
  | .realignDone _ => keepsNext_done (realignDoneOp_keeps _ h)
  | .backgroundPauseEnd _ => keepsNext_done (backgroundPauseEndOp_keeps _ h)
  | .gpioPulseEnd _ => keepsNext_done (gpioPulseEndOp_keeps _ h)

/-- Settles O7: every command's operation keeps the queue, and so does the end of a command. -/
theorem queueKept : Obligations.QueueKept := by
  unfold Obligations.QueueKept
  intro c s t ht
  exact (exec_keepsNext c s t ht).queue

end Sys2Proof.Machine
end

section
/-!
PROOF. Interrupt sources of blocks in reset, counters that pass their end, and the Stub's input queue (R352, R396,
R445 to R450).
-/

namespace Sys2Proof.Machine

open Sys2Proof

/-- Settles O12: a source of a block in reset does nothing; elsewhere the counting that follows leaves every bit but
PMC's as the source has set it. -/
theorem resetMasksSources : Obligations.ResetMasksSources := by
  unfold Obligations.ResetMasksSources
  intro s b n
  split
  next hreset => exact if_pos hreset
  next hruns => exact ⟨if_neg hruns, State.irq_get_raw s b n (Bool.eq_false_of_not_eq_true hruns)⟩

/-! ### A counter's carry (R446) -/

/-- What a snapshot that a carry asks for can write: the snapshot's status and time, and the request that waits (R447). -/
theorem snapAsk_get {s : State} {g : Fld}
    (hg : ∀ f ∈ [R.PMC_SNAP_STAT_OVERLAP, R.PMC_INT_WAITING, R.PMC_SNAP_STAT_DELAYED, R.PMC_SNAP_STAT_BUSY,
      R.PMC_SNAP_TIME_TIME], f.key ≠ g.key) : (snapAsk s false).1.get g = s.get g := by
  simp only [List.forall_mem_cons, List.not_mem_nil, false_implies, implies_true, and_true] at hg
  obtain ⟨hoverlap, hwaiting, hdelayed, hbusy, htime⟩ := hg
  unfold snapAsk
  rw [if_neg Bool.false_ne_true]
  split
  · exact State.get_set_ne _ _ hoverlap
  · split
    · exact (State.get_set_ne _ _ hdelayed).trans (State.get_set_ne _ _ hwaiting)
    · exact (State.get_set_ne _ _ htime).trans ((State.get_set_ne _ _ hdelayed).trans (State.get_set_ne _ _ hbusy))

/-- A field of a block's counters is none of the snapshot's, whatever the block (R334, R445). -/
theorem snapAsk_get_counter {s : State} {b : Blk} {c o lo w rst : Nat} {k : Kind} (hc : c < 8) (ho : o < 0x20)
    (hlo : lo < 64) : (snapAsk s false).1.get (fld (hid b.base (0x100000 + o) + 0x20 * c) lo w rst k) =
      s.get (fld (hid b.base (0x100000 + o) + 0x20 * c) lo w rst k) := by
  have hbase := base_aligned b
  refine snapAsk_get ?_
  simp only [List.forall_mem_cons, List.not_mem_nil, false_implies, implies_true, and_true]
  refine ⟨?_, ?_, ?_, ?_, ?_⟩ <;> exact fld_key_ne_of_place (w' := w) (rst' := rst) (by simp only [hid]; omega)

/-- Whether or not a carry asks for a snapshot, the counter and its OVF bit hold what the carry has left (R446). -/
theorem counterCarry_get_counter {s : State} {b : Blk} {c sum o lo w rst : Nat} {k : Kind} (hc : c < 8) (ho : o < 0x20)
    (hlo : lo < 64) : (counterCarry s b c sum).1.get (fld (hid b.base (0x100000 + o) + 0x20 * c) lo w rst k) =
      (carryPut s b c sum).get (fld (hid b.base (0x100000 + o) + 0x20 * c) lo w rst k) := by
  unfold counterCarry
  dsimp only
  split
  · exact snapAsk_get_counter hc ho hlo
  · rfl

/-- The counter after a carry reloads from its preload (R446). -/
theorem carryPut_count (s : State) (b : Blk) (c sum : Nat) : (carryPut s b c sum).get (R.PMC_CNT_COUNT b c) =
    (if s.get (R.PMC_PRELOAD_P b c) = 0 then sum else 2 ^ 48 - s.get (R.PMC_PRELOAD_P b c) + (sum - 2 ^ 48)) % 2 ^ 48 := by
  have hother : (R.PMC_EVSEL_OVF b c).key ≠ (R.PMC_CNT_COUNT b c).key :=
    fld_key_ne_of_place (by simp only [hid]; omega)
  exact (State.get_set_ne _ _ hother).trans (State.get_set_same ..)

/-- Settles O13: an addition writes the counter, and one that carries writes it from the preload and sets OVF, which the
snapshot that it may ask for leaves as they are. -/
theorem counterCarry_rule : Obligations.CounterCarry := by
  unfold Obligations.CounterCarry
  intro s b c k hc old p t
  have ht : t = (if 2 ^ 48 ≤ old + k then counterCarry s b c (old + k)
    else (s.set (R.PMC_CNT_COUNT b c) (old + k), [])).1 := rfl
  split
  next hbelow =>
    rw [ht, if_neg (Nat.not_le.mpr hbelow), State.get_set_same]
    exact Nat.mod_eq_of_lt hbelow
  next hpast =>
    rw [ht, if_pos (Nat.not_lt.mp hpast)]
    constructor
    · have hcount : (counterCarry s b c (old + k)).1.get (R.PMC_CNT_COUNT b c) = _ :=
        (counterCarry_get_counter (o := 8) hc (by omega) (by omega)).trans (carryPut_count s b c (old + k))
      rw [hcount]
      split <;> omega
    · have hovf : (counterCarry s b c (old + k)).1.get (R.PMC_EVSEL_OVF b c) = _ :=
        (counterCarry_get_counter (o := 0) hc (by omega) (by omega)).trans (State.get_set_same ..)
      rw [State.getB, hovf]
      rfl

/-! ### The order of a command's events (R450) -/

theorem eventBefore_iff (a b : StubEvent) : eventBefore a b = true ↔
    a.block < b.block ∨ a.block = b.block ∧ (a.inst < b.inst ∨ a.inst = b.inst ∧ a.code < b.code) := by
  simp only [eventBefore, bne_iff_ne, ne_eq, ite_not]
  split
  next hblock =>
    split
    next hinst => simp [hblock, hinst]
    next hinst => simp [hblock, hinst]
  next hblock => simp [hblock]

/-- Event `b` does not precede event `a`: the order in which events stand in a cycle. -/
def EventLe (a b : StubEvent) : Prop := eventBefore b a = false

theorem eventLe_iff (a b : StubEvent) : EventLe a b ↔
    ¬ (b.block < a.block ∨ b.block = a.block ∧ (b.inst < a.inst ∨ b.inst = a.inst ∧ b.code < a.code)) := by
  rw [EventLe, ← eventBefore_iff, Bool.not_eq_true]

theorem EventLe.trans {a b c : StubEvent} (hab : EventLe a b) (hbc : EventLe b c) : EventLe a c := by
  rw [eventLe_iff] at *
  omega

theorem EventLe.of_before {a b : StubEvent} (h : eventBefore a b = true) : EventLe a b := by
  rw [eventBefore_iff] at h
  rw [eventLe_iff]
  omega

theorem eventInsert_perm (e : StubEvent) (es : List StubEvent) : (eventInsert e es).Perm (e :: es) := by
  induction es with
  | nil => exact .refl _
  | cons x xs ih =>
    unfold eventInsert
    split
    · exact .refl _
    · exact (ih.cons x).trans (.swap e x xs)

/-- An event put in its place leaves the others in order. -/
theorem eventInsert_pairwise (e : StubEvent) {es : List StubEvent} (h : es.Pairwise EventLe) :
    (eventInsert e es).Pairwise EventLe := by
  induction es with
  | nil => exact List.pairwise_singleton ..
  | cons x xs ih =>
    obtain ⟨hx, hxs⟩ := List.pairwise_cons.mp h
    unfold eventInsert
    split
    next hbefore =>
      have hex : EventLe e x := .of_before hbefore
      exact List.pairwise_cons.mpr ⟨List.forall_mem_cons.mpr ⟨hex, fun y hy => hex.trans (hx y hy)⟩, h⟩
    next hafter =>
      have hxe : EventLe x e := Bool.eq_false_of_not_eq_true hafter
      refine List.pairwise_cons.mpr ⟨fun y hy => ?_, ih hxs⟩
      exact List.forall_mem_cons.mpr ⟨hxe, hx⟩ y ((eventInsert_perm e xs).mem_iff.mp hy)

/-- Sorting by insertion permutes the events raised and puts them in order. -/
theorem eventSort_sorts (es : List StubEvent) : (eventSort es).Perm es ∧ (eventSort es).Pairwise EventLe := by
  suffices h : ∀ acc : List StubEvent, acc.Pairwise EventLe →
      (es.foldl (fun acc e => eventInsert e acc) acc).Perm (acc ++ es) ∧
        (es.foldl (fun acc e => eventInsert e acc) acc).Pairwise EventLe from h [] .nil
  induction es with
  | nil => exact fun acc hacc => ⟨by simp, hacc⟩
  | cons e es ih =>
    intro acc hacc
    obtain ⟨hperm, hsorted⟩ := ih _ (eventInsert_pairwise e hacc)
    refine ⟨hperm.trans ?_, hsorted⟩
    exact ((eventInsert_perm e acc).append_right es).trans List.perm_middle.symm

/-! ### The Stub's input queue (R449, R450) -/

/-- What the queue takes of a command's events: as many as it has room for (R450). -/
def State.taken (s : State) : List StubEvent := (eventSort s.raised).take (16 - s.evQueue.length)

theorem settle_evDropped (s : State) : (settle s).evDropped =
    (if s.taken = [] then s.evDropped else 0) + (s.raised.length - (16 - s.evQueue.length)) := by
  rw [← (eventSort_sorts s.raised).1.length_eq, State.taken]
  unfold settle
  dsimp only
  split <;> simp [*]

theorem settle_evQueue_of_nil {s : State} (h : s.taken = []) : (settle s).evQueue = s.evQueue := by
  unfold State.taken at h
  unfold settle
  dsimp only
  rw [h, List.append_nil]

theorem settle_evQueue_of_cons {s : State} {e : StubEvent} {rest : List StubEvent} (h : s.taken = e :: rest) :
    (settle s).evQueue = s.evQueue ++ { e with lost := s.evDropped } :: rest := by
  unfold State.taken at h
  unfold settle
  dsimp only
  rw [h]

/-- The queue grows by what it takes (R450). -/
theorem settle_evQueue_length (s : State) : (settle s).evQueue.length = s.evQueue.length + s.taken.length := by
  cases h : s.taken with
  | nil => rw [settle_evQueue_of_nil h]; rfl
  | cons e rest => rw [settle_evQueue_of_cons h, List.length_append]; rfl

/-- Settles O10: insertion sorts the events, and the queue takes its room of them, the first with the count of those that
were dropped before it. -/
theorem eventQueue : Obligations.EventQueue := by
  unfold Obligations.EventQueue
  refine ⟨eventSort_sorts, fun s => ⟨fun (h : s.taken = []) => ?none, fun e rest (h : s.taken = e :: rest) => ?some⟩,
    fun s hroom => ⟨?_, rfl⟩⟩
  case none => exact ⟨settle_evQueue_of_nil h, by rw [settle_evDropped, if_pos h]⟩
  case some =>
    have hsome : s.taken ≠ [] := by rw [h]; exact List.cons_ne_nil _ _
    exact ⟨settle_evQueue_of_cons h, by rw [settle_evDropped, if_neg hsome, Nat.zero_add]⟩
  · have htaken : s.taken.length ≤ 16 - s.evQueue.length := List.length_take_le ..
    rw [settle_evQueue_length]
    omega

end Sys2Proof.Machine
end

section
/-!
PROOF. The common command codes of the I3C port (R346).
-/

namespace Sys2Proof.Machine

open Sys2Proof

/-- Settles O47: the next states are those of the operations as they are defined. -/
theorem busAddressing : Obligations.BusAddressing := by
  unfold Obligations.BusAddressing
  intro s
  have hentdaa (addr : BitVec 7) : Runs (.entdaa addr) s (entdaaOp addr.toNat s) := rfl
  have hsetdasa (static addr : BitVec 7) :
    Runs (.setdasa static addr) s (setdasaOp static.toNat addr.toNat s) := rfl
  have hsetnewda (old addr : BitVec 7) : Runs (.setnewda old addr) s (setnewdaOp old.toNat addr.toNat s) := rfl
  have hrstdaa : Runs .rstdaa s (rstdaaOp s) := rfl
  have hgetpid : Runs .getpid s (getpidOp s) := rfl
  have hgetbcr : Runs .getbcr s (getbcrOp s) := rfl
  have hgetdcr : Runs .getdcr s (getdcrOp s) := rfl
  have hgetstatus : Runs .getstatus s (getstatusOp s) := rfl
  have hgetmwl : Runs .getmwl s (getmwlOp s) := rfl
  have hgetmrl : Runs .getmrl s (getmrlOp s) := rfl
  exact ⟨hentdaa, hsetdasa, hsetnewda, hrstdaa, hgetpid, hgetbcr, hgetdcr, hgetstatus, hgetmwl, hgetmrl⟩

/-- A command that where its condition holds changes nothing that a register's value rests on, and nothing at all
elsewhere. -/
theorem effectIf_of_regs {c : Instr} {s u : State} {g : Bool} (hx : exec c s = done (if g = true then u else s))
    (hr : u.regs = s.regs) (hs : u.resets = s.resets) : EffectIf g c s [] u :=
  effectIf_of_done hx (fun _ => After.congr hr hs After.nil) rfl

/-- Settles O48: each code changes one field of the target's record, which stands beside the register file, and a port
that is down takes none. -/
theorem busSettings : Obligations.BusSettings := by
  unfold Obligations.BusSettings
  intro s
  exact ⟨fun _ => effectIf_of_regs rfl rfl rfl, fun _ => effectIf_of_regs rfl rfl rfl,
    fun _ => effectIf_of_regs rfl rfl rfl, fun _ => effectIf_of_regs rfl rfl rfl⟩

end Sys2Proof.Machine
end

section
/-!
PROOF. Supplies, power states, wakes, performance levels and the reference clock (R347 to R381, R445, R494).
-/

namespace Sys2Proof.Machine

open Sys2Proof

/-- Settles O50: the next states are those of the operations as they are defined. -/
theorem powerCommands : Obligations.PowerCommands := by
  unfold Obligations.PowerCommands
  intro s
  have hrail (r : Rail) : Runs (.railLost r) s (railLostOp r s) := rfl
  have hloss : Runs .vioLoss s (vioLossOp s) := rfl
  have hreturn : Runs .vioReturn s (vioReturnOp s) := rfl
  have hrequest (t : BitVec 2) : Runs (.pwrStateReq t) s (pwrStateReqOp t.toNat s) := rfl
  have hanswer (i : Byte) : Runs (.handshakeAnswer i) s (handshakeAnswerOp i.toNat s) := rfl
  have htimeout (i : Byte) : Runs (.handshakeTimeout i) s (handshakeTimeoutOp i.toNat s) := rfl
  have hentry : Runs .powerStateEntryDone s (powerStateEntryDoneOp s) := rfl
  have hexit : Runs .powerStateExitDone s (powerStateExitDoneOp s) := rfl
  have hpin (late : Bool) : Runs (.wakePin late) s (wakePinOp late s) := rfl
  have hwick (addr : BitVec 7) (late : Bool) : Runs (.wickMatch addr late) s (wickMatchOp addr.toNat late s) := rfl
  have hdomain (d : Domain) : Runs (.domainWakeDone d) s (domainWakeDoneOp d s) := rfl
  have hcommit : Runs .stubCommitDone s (stubCommitDoneOp s) := rfl
  have hlevel (v : Word) : Runs (.plCfgWrite v) s (plCfgWriteOp v.toNat s) := rfl
  have hlower : Runs .plAutoLower s (plAutoLowerOp s) := rfl
  have hframe (ok : Bool) : Runs (.avsFrameDone ok) s (avsFrameDoneOp ok s) := rfl
  have hsettle : Runs .avsSettleExpiry s (avsSettleExpiryOp s) := rfl
  have hchange : Runs .plChangeDone s (plChangeDoneOp s) := rfl
  have hclock : Runs .refclkLoss s (refclkLossOp s) := rfl
  exact ⟨hrail, hloss, hreturn, hrequest, hanswer, htimeout, hentry, hexit, hpin, hwick, hdomain, hcommit, hlevel, hlower,
    hframe, hsettle, hchange, hclock⟩

/-- In RETAIN with COLD released, the time domain woken by an access (R347), and counter 7 of CAL counting clock cycles
(R445). It is the last counter of the domain, so that no other is read after it has taken its free value. -/
def cyclesCounted : State :=
  let released := { State.reset with resets := { State.reset.resets with supply := false, waiting := false } }
  let retained := (released.set R.RST_STAT_PHASE 8).set R.PWR_STATE_STATE 2
  let counting := (retained.set (R.PMC_EVSEL_EVENT (dev .cal) 7) 1).set (R.PMC_EVSEL_EN (dev .cal) 7) 1
  { counting with woken := [⟨.time, true⟩] }

/-- How far the counter got while the domain ran is a free value, which is drawn (R445). -/
theorem cyclesCounted_wakeHoldExpiry : (settle (wakeHoldExpiryOp .time cyclesCounted)).freeCount = 1 := by decide +kernel

/-- Refutes O49: WAKE_HOLD_EXPIRY leaves more behind than the woken domain's end. A counter of the domain that counts
clock cycles has counted on by a number that the model does not know (R445, log entry 240), so that the command draws a
free value, which O49's frame holds unchanged: from `cyclesCounted` one is drawn. -/
theorem not_supplyStatus : ¬ Obligations.SupplyStatus := by
  unfold Obligations.SupplyStatus
  intro h
  obtain ⟨-, -, -, hexpiry, -⟩ := h cyclesCounted
  obtain ⟨t, hrun, -, -, hcore⟩ := hexpiry .time
  have ht : settle (wakeHoldExpiryOp .time cyclesCounted) = t := Host.Outcome.next.inj hrun
  have hcount : t.freeCount = 0 := congrArg State.freeCount hcore
  rw [← ht, cyclesCounted_wakeHoldExpiry] at hcount
  exact absurd hcount (by decide)

end Sys2Proof.Machine
end

section
/-!
PROOF. Scrubbing, marches, bit writes and Granary writes, and temperature samples, snapshots and the Stub (R412 to
R451).
-/

namespace Sys2Proof.Machine

open Sys2Proof

/-- Settles O54: the next states are those of the operations as they are defined. -/
theorem memoryTests : Obligations.MemoryTests := by
  unfold Obligations.MemoryTests
  intro s
  have hscrub (memid : Byte) (word : Nat) (cls : Fin 4) :
    Runs (.scrubRead memid word cls) s (scrubReadOp memid.toNat word cls.val s) := rfl
  have hset (x : BitVec 20) (v : Word) : Runs (.scratchBitSet x v) s (scratchBitSetOp x.toNat v.toNat s) := rfl
  have hclear (x : BitVec 20) (v : Word) : Runs (.scratchBitClear x v) s (scratchBitClearOp x.toNat v.toNat s) := rfl
  have hstart (memid : Byte) (preserve : Bool) (req : Requester) :
    Runs (.marchStart memid preserve req) s (marchStartOp memid.toNat preserve req s) := rfl
  have hmarched (words : List (Nat × List Nat)) : Runs (.marchDone words) s (marchDoneOp words s) := rfl
  have hword (ok : Bool) : Runs (.nvsWordDone ok) s (nvsWordDoneOp ok s) := rfl
  have hwrite : Runs .nvsCmdWrite s (nvsCmdWriteOp s) := rfl
  have hfill (count : BitVec 16) : Runs (.nvsCmdFill count) s (nvsCmdFillOp count.toNat s) := rfl
  exact ⟨hscrub, hset, hclear, hstart, hmarched, hword, hwrite, hfill⟩

/-- Settles O55: the next states are those of the operations as they are defined. -/
theorem thermalAndEvents : Obligations.ThermalAndEvents := by
  unfold Obligations.ThermalAndEvents
  intro s
  have hsample (temps : List Int) (raws : List Nat) : Runs (.thmSample temps raws) s (thmSampleOp temps raws s) := rfl
  have hpause (p : Paused) : Runs (.backgroundPauseEnd p) s (backgroundPauseEndOp p s) := rfl
  have hsnap : Runs .pmcSnap s (pmcSnapOp s) := rfl
  have hsnapped : Runs .pmcSnapDone s (pmcSnapDoneOp s) := rfl
  have hoverflow (i : Byte) (c : Fin 8) : Runs (.pmcOverflow i c) s (pmcOverflowOp i.toNat c s) := rfl
  have hlog (tag : Byte) : Runs (.evrLog tag) s (evrLogOp tag.toNat s) := rfl
  have hdrain (n : Nat) : Runs (.stubEventDrain n) s (stubEventDrainOp n s) := rfl
  have hselect (i : BitVec 14) (ue : Bool) : Runs (.evrRdSelect i ue) s (evrRdSelectOp i.toNat ue s) := rfl
  have hcommit : Runs .evrCommit s (evrCommitOp s) := rfl
  exact ⟨hsample, hpause, hsnap, hsnapped, hoverflow, hlog, hdrain, hselect, hcommit⟩

end Sys2Proof.Machine
end

section
/-!
PROOF. What the sequences of start-up and of SEC go by, and what leaves it unchanged.
-/

namespace Sys2Proof.Machine

open Sys2Proof

/-! ### The fields and records that the sequences of start-up and of SEC go by -/

/-- The fields that tell where start-up, the download window, the tests and SEC stand. -/
def controlFields : List Fld :=
  [R.RST_STAT_PHASE, R.RST_STAT_BANK_FALLBACK, R.RST_STAT_STRAP_ERR, R.RST_STRAP_BOOT, R.RST_WDT_CFG_RUNNING,
   R.RST_BOOT_STAT_ERROR, R.RST_BOOT_STAT_WINDOW, R.FWC_STAT_RUNNING, R.FWC_STAT_BANK, R.TST_CFG_LBIST_BOOT,
   R.TST_LBIST_STAT_RAN, R.TST_LBIST_STAT_CENTRAL_FAIL, R.CAL_STAT_STARTUP_DONE, R.SEC_STAT_LOCKDOWN,
   R.SEC_STAT_LD_CAUSE, R.SEC_STAT_OWN_SESSION, R.SEC_LIFE_DEBUG, R.MGT_OWNER_CTR_COUNT]

/-- What the sequences of start-up and of SEC go by: those fields, SEC's record and the fuses. -/
structure Control where
  fields : List Nat
  sec : SecInt
  fuses : Fuses

/-- That part of a state. -/
def State.control (s : State) : Control where
  fields := controlFields.map s.get
  sec := s.sec
  fuses := s.fuses

/-- A field is none of the control fields. -/
def Outside (f : Fld) : Prop := f.key ∉ controlFields.map Fld.key

/-- The control fields lie at a few offsets of MGT, FWC, RST, CAL, SEC and TST. -/
theorem outside_of {f : Fld} {a lo w rst : Nat} {k : Kind} (hf : f = fld a lo w rst k)
    (h : lo < 64 ∧ (a % 0x10000 < 0x40 ∨ 0x64 ≤ a ∧ a < 0x10040 ∨ 0x10044 ≤ a ∧ a < 0x30048 ∨
      0x30060 ≤ a ∧ a < 0x9004C ∨ 0x90050 ≤ a ∧ a < 0xD0040 ∨ 0xD0048 ≤ a ∧ a < 0x100040 ∨ 0x100048 ≤ a)) :
    Outside f := by
  intro hk
  obtain ⟨g, hg, hk⟩ := List.mem_map.mp hk
  have hc : ∀ g ∈ controlFields, g.key / 256 ∈
    [0x30048, 0x3004C, 0x30050, 0x3005C, 0x10040, 0x100040, 0x100044, 0x9004C, 0xD0040, 0xD0044, 0x60] := by decide
  have hg := hc g hg
  have hcode : k.code < 4 := by cases k <;> decide
  have hplace : g.key / 256 = a := by
    rw [hk, hf]
    dsimp only
    omega
  simp only [hplace, List.mem_cons, List.not_mem_nil, or_false] at hg
  omega

theorem outside_hid {f : Fld} {b o x lo w rst : Nat} {k : Kind} (hf : f = fld (hid b o + x) lo w rst k)
    (hlo : lo < 64) : Outside f := by
  refine outside_of hf ⟨hlo, ?_⟩
  unfold hid
  omega

theorem outside_of_key {f : Fld} (h : f.key ∉ controlFields.map Fld.key) : Outside f := h

theorem outside_base {f : Fld} {b : Blk} {o lo w rst : Nat} {k : Kind} (hf : f = fld (b.base + o) lo w rst k)
    (h : lo < 64 ∧ o < 0x40) : Outside f := by
  have := base_aligned b
  exact outside_of hf (by omega)

theorem outside_failed {b : Blk} : Outside (R.BLK_FAILED_FLAG b) := by
  refine outside_of rfl ⟨by decide, ?_⟩
  unfold hid
  omega

theorem State.get_of_control {s t : State} (h : t.control = s.control) {f : Fld} (hf : f ∈ controlFields) :
    t.get f = s.get f :=
  List.map_inj_left.mp (congrArg Control.fields h) f hf

theorem control_of_get {s t : State} (hr : ∀ f ∈ controlFields, t.get f = s.get f) (hs : t.sec = s.sec)
    (hf : t.fuses = s.fuses) : t.control = s.control := by
  unfold State.control
  rw [List.map_congr_left hr, hs, hf]

section
variable {s : State}

@[simp ↓] theorem control_set {f : Fld} {v : Nat} (h : Outside f) : (s.set f v).control = s.control :=
  control_of_get (fun _ hg => State.get_set_ne _ _ fun he => h (he ▸ List.mem_map_of_mem hg)) rfl rfl

@[simp ↓] theorem control_setB {f : Fld} {v : Bool} (h : Outside f) : (s.setB f v).control = s.control := control_set h

@[simp ↓] theorem control_satInc {f : Fld} {k : Nat} (h : Outside f) : (s.satInc f k).control = s.control :=
  control_set h

theorem control_not_counter {f : Fld} (h : f ∈ controlFields) : ¬ f.counter := by
  have : ∀ g ∈ controlFields, ¬ g.counter := by unfold Fld.counter; decide
  exact this f h

@[simp ↓] theorem control_irq {b : Blk} {n : Nat} (hn : n < 64) : (s.irq b n).control = s.control :=
  control_of_get (fun f hg => State.irq_get_ne _ _ _ (control_not_counter hg) fun he => by
    have hb := base_aligned b
    have : Outside (R.IRQ_RAW_RAW b n) := outside_of rfl (by omega)
    exact this (he ▸ List.mem_map_of_mem hg)) (by simp) (by simp)

@[simp ↓] theorem control_event {b : Blk} {i c d : Nat} : (s.event b i c d).control = s.control := (rfl)

@[simp ↓] theorem control_signal {b : Blk} {n : Nat} {new : Bool} (hn : n < 64) :
    (s.signal b n new).control = s.control := control_irq hn

@[simp ↓] theorem control_ite {c : Prop} [Decidable c] {a b : State} :
    (if c then a else b).control = if c then a.control else b.control := apply_ite ..

@[simp ↓] theorem control_change {f : Fld} {new : Bool} {b : Blk} {n : Nat} (hf : Outside f) (hn : n < 64) :
    (s.change f new b n).control = s.control := by
  unfold State.change
  rw [control_ite, control_signal hn, control_setB hf, ite_self]

theorem control_foldl {α : Type} {g : State → α → State} {l : List α}
    (hg : ∀ t, ∀ a ∈ l, (g t a).control = t.control) : (l.foldl g s).control = s.control :=
  List.foldlRecOn (motive := fun t => t.control = s.control) l g rfl fun t ht a ha => (hg t a ha).trans ht

theorem control_range {g : State → Nat → State} {n : Nat} (hg : ∀ t i, i < n → (g t i).control = t.control) :
    ((List.range n).foldl g s).control = s.control := control_foldl fun t i hi => hg t i (List.mem_range.mp hi)
end

section
variable {s : State} {l : Nat}

/-- A record update that keeps the registers, SEC's record and the fuses. -/
@[simp ↓] theorem control_mk {e : State}
    {mem shadow staged time freeCount spi i3c target woken raised evQueue evDropped evLost resets txs rxs powers
      hosts caps cals calDev msg links sessions pwr stamps tim chains dacs store gpioPulse elapsed stub thm mbx boot
      pending} :
    (State.mk e.regs shadow staged mem time freeCount spi i3c target woken raised evQueue evDropped evLost resets txs
      rxs powers hosts caps cals calDev msg links sessions pwr stamps tim chains dacs store gpioPulse elapsed stub thm
      e.fuses e.sec mbx boot pending).control = e.control := (rfl)

@[simp ↓] theorem control_putTx {x : TxLane} : (s.putTx l x).control = s.control := (rfl)

@[simp ↓] theorem control_putRx {x : RxLane} : (s.putRx l x).control = s.control := (rfl)

@[simp ↓] theorem control_putHost {x : HostLaneInt} : (s.putHost l x).control = s.control := (rfl)

@[simp ↓] theorem control_putCap {x : CapInt} : (s.putCap l x).control = s.control := (rfl)

@[simp ↓] theorem control_putCal {x : CalLane} : (s.putCal l x).control = s.control := (rfl)

@[simp ↓] theorem control_putSession {x : PeerSession} : (s.putSession l x).control = s.control := (rfl)

@[simp ↓] theorem control_putLink {x : MsgLink} : (s.putLink l x).control = s.control := (rfl)

@[simp ↓] theorem control_putStamp {x : Stamps} : (s.putStamp l x).control = s.control := (rfl)

@[simp ↓] theorem control_putDac {x : DacChannel} : (s.putDac l x).control = s.control := (rfl)

@[simp ↓] theorem control_draw : (s.draw).control = s.control := (rfl)

@[simp ↓] theorem control_putQueue {x : List QEntry} : (s.putQueue l x).control = s.control := (rfl)

/-! ### A lane that enters FAULT (R29, R31) -/

@[simp ↓] theorem control_capCause {cause : Nat} : (capCause l cause s).control = s.control := by
  unfold capCause
  simp

@[simp ↓] theorem control_calDiscardAdc (hl : l < 8) : (calDiscardAdc l s).control = s.control := by
  have hfold : ((List.range 5).foldl (fun s i => s.satInc (R.CAL_REC_X_DISCARD (l * 6 + i)) 1) s).control = s.control :=
    control_foldl fun _ _ _ => control_satInc (outside_hid rfl (by decide))
  simp (disch := first | omega | (with_unfolding_all refine outside_of rfl ?_); omega) [calDiscardAdc, hfold]

@[simp ↓] theorem control_calDiscardDac : (calDiscardDac l s).control = s.control := by
  have hrec : Outside (R.CAL_REC_X_DISCARD (l * 6 + 5)) := outside_hid rfl (by decide)
  simp [calDiscardDac, hrec]

@[simp ↓] theorem control_calStopApplying (hl : l < 8) : (calStopApplying l s).control = s.control := by
  unfold calStopApplying
  simp (disch := first | omega | (with_unfolding_all refine outside_of rfl ?_); omega)

@[simp ↓] theorem control_calLeave (hl : l < 8) : (calLeave l s).control = s.control := by
  unfold calLeave
  simp (disch := first | omega | (with_unfolding_all refine outside_of rfl ?_); omega)

@[simp ↓] theorem control_sessionEnd (hl : l < 8) : (sessionEnd l s).control = s.control := by
  unfold sessionEnd
  simp (disch := first | omega | (with_unfolding_all refine outside_of rfl ?_); omega)

@[simp ↓] theorem control_dropReassembly (hl : l < 8) : (dropReassembly l s).control = s.control := by
  unfold dropReassembly
  simp (disch := first | omega | (with_unfolding_all refine outside_of rfl ?_); omega)

@[simp ↓] theorem control_linkDown (hl : l < 8) : (linkDown l s).control = s.control := by
  unfold linkDown
  simp (disch := first | omega | (with_unfolding_all refine outside_of rfl ?_); omega)

@[simp ↓] theorem control_hostClockSlew : (hostClockSlew l s).control = s.control := by
  unfold hostClockSlew
  simp

@[simp ↓] theorem control_amForget : (amForget l s).control = s.control := by
  unfold amForget
  simp

@[simp ↓] theorem control_cwDrop : (cwDrop l s).control = s.control :=
  control_foldl fun t m _ => by simp (disch := first | omega | (with_unfolding_all refine outside_of rfl ?_); omega)

@[simp ↓] theorem control_windowClear : (windowClear l s).control = s.control := (rfl)

@[simp ↓] theorem control_passRefresh : (passRefresh l s).control = s.control := by
  unfold passRefresh
  simp (disch := first | omega | (with_unfolding_all refine outside_of rfl ?_); omega)

@[simp ↓] theorem control_sdSf {quiet : Bool} : (sdSf l quiet s).control = s.control := by
  unfold sdSf
  simp (disch := first | omega | (with_unfolding_all refine outside_of rfl ?_); omega)

@[simp ↓] theorem control_gainPut {f : Fld} {v : Nat} (hl : l < 8) (hf : Outside f) :
    (gainPut l f v s).control = s.control := by
  unfold gainPut
  simp (disch := first | omega | (with_unfolding_all refine outside_of rfl ?_); omega)

@[simp ↓] theorem control_forceValues (hl : l < 8) : (forceValues l s).control = s.control := by
  have hfold : ((List.range 4).foldl (fun s i =>
      (s.set (R.REQ_LVL_MEAN_MEAN l i) (s.get (R.REQ_LVL_FORCE_MEAN l i))).set
      (R.REQ_LVL_SIGMA_SIGMA l i) (s.get (R.REQ_LVL_FORCE_SIGMA l i))) s).control = s.control :=
    control_foldl fun t i _ => by simp (disch := first | omega | (with_unfolding_all refine outside_of rfl ?_); omega)
  simp (disch := first | omega | (with_unfolding_all refine outside_of rfl ?_); omega) [forceValues, hfold]

@[simp ↓] theorem control_freezeApply (hl : l < 8) : (freezeApply l s).control = s.control := by
  unfold freezeApply
  simp (disch := first | omega | (with_unfolding_all refine outside_of rfl ?_); omega)

@[simp ↓] theorem control_txStop : (txStop l s).control = s.control := by
  unfold txStop
  simp (disch := first | omega | (with_unfolding_all refine outside_of rfl ?_); omega)

@[simp ↓] theorem control_goDark (hl : l < 8) : (goDark l s).control = s.control := by
  unfold goDark
  simp (disch := first | omega | (with_unfolding_all refine outside_of rfl ?_); omega)

@[simp ↓] theorem control_setLaneCode {new cause : Nat} : (setLaneCode l new cause s).control = s.control := by
  unfold setLaneCode
  simp (disch := first | omega | (with_unfolding_all refine outside_of rfl ?_); omega)

@[simp ↓] theorem control_avsSend {t : Nat} : (avsSend t s).control = s.control := (rfl)

@[simp ↓] theorem control_levelSteps {t : Nat} : (levelSteps t s).control = s.control := (rfl)

@[simp ↓] theorem control_levelMove {t : Nat} : (levelMove t s).control = s.control := by
  unfold levelMove
  simp (disch := first | omega | (with_unfolding_all refine outside_of rfl ?_); omega)

@[simp ↓] theorem control_startLevel {t : Nat} : (startLevel t s).control = s.control := by
  unfold startLevel
  simp (disch := first | omega | (with_unfolding_all refine outside_of rfl ?_); omega)

@[simp ↓] theorem control_requestLevel {t : Nat} : (requestLevel t s).control = s.control := by
  unfold requestLevel
  simp (disch := first | omega | (with_unfolding_all refine outside_of rfl ?_); omega)

@[simp ↓] theorem control_autoRaise : (autoRaise s).control = s.control := by
  unfold autoRaise
  simp (disch := first | omega | (with_unfolding_all refine outside_of rfl ?_); omega)

@[simp ↓] theorem control_capNote : (capNote l s).control = s.control := by
  unfold capNote
  simp

@[simp ↓] theorem control_enterFault {cause : Nat} {fresh : Bool} (hl : l < 8) :
    (enterState l 6 cause fresh s).control = s.control := by
  unfold enterState
  simp (disch := first | omega | (with_unfolding_all refine outside_of rfl ?_); omega)

@[simp ↓] theorem control_toFault {cause : Nat} (hl : l < 8) : (toFault l cause s).control = s.control := by
  unfold toFault
  simp (disch := first | omega | (with_unfolding_all refine outside_of rfl ?_); omega)

@[simp ↓] theorem control_faultLanes {cause : Nat} : (faultLanes cause s).control = s.control :=
  control_range fun t l hl => by simp (disch := first | omega | (with_unfolding_all refine outside_of rfl ?_); omega)

@[simp ↓] theorem control_considerStart (hl : l < 8) : (considerStart l s).control = s.control := by
  unfold considerStart
  simp (disch := first | omega | (with_unfolding_all refine outside_of rfl ?_); omega)

/-! ### Captures, and a commit of the Stub (R109, R115, R449) -/

@[simp ↓] theorem control_capScramble {c : Nat} : (capScramble c s).control = s.control := (rfl)

@[simp ↓] theorem control_capEnded {c : Nat} : (capEnded c s).control = s.control := (rfl)

@[simp ↓] theorem control_capPatch {c first size : Nat} {fill : Option Nat} {data : List Nat} :
    (capPatch c first size fill data s).control = s.control := (rfl)

@[simp ↓] theorem control_capRegion {c base size block total : Nat} {bytes : List Nat} :
    (capRegion c base size block total bytes s).control = s.control := by
  unfold capRegion
  simp

@[simp ↓] theorem control_capRecorded {c total : Nat} {taken : List (List LineSamples)} :
    (capRecorded c total taken s).control = s.control :=
  control_foldl fun _ _ _ => control_capRegion

@[simp ↓] theorem control_capCut {c : Nat} : (capCut c s).control = s.control := by
  unfold capCut
  simp

@[simp ↓] theorem control_capPreempt : (capPreempt s).control = s.control :=
  control_foldl fun t c _ => by simp (disch := first | omega | (with_unfolding_all refine outside_of rfl ?_); omega)

@[simp ↓] theorem control_marchPreempt : (marchPreempt s).control = s.control := by
  have howner : Outside (R.CLAIM_OWNER (capBlk (s.store.marchId - 0x20))) := outside_base rfl (by decide)
  unfold marchPreempt
  simp (disch := first | omega | (with_unfolding_all refine outside_of rfl ?_); omega)

@[simp ↓] theorem control_spendPages : (s.spendPages).control = s.control := (rfl)

@[simp ↓] theorem control_startCommit {mask : Nat} : (startCommit mask s).control = s.control := by
  unfold startCommit
  dsimp only
  split <;> simp

@[simp ↓] theorem control_triggerWaits {bit : Nat} : (triggerWaits bit s).control = s.control := by
  unfold triggerWaits
  simp (disch := first | omega | (with_unfolding_all refine outside_of rfl ?_); omega)

@[simp ↓] theorem control_commitTrigger {bit : Nat} : (commitTrigger bit s).control = s.control := by
  unfold commitTrigger
  split
  · rfl
  · split <;> simp (disch := first | omega | (with_unfolding_all refine outside_of rfl ?_); omega)

/-! ### What a lockdown does (R231, R438, R485) -/

@[simp ↓] theorem control_secEvent {code detail : Nat} : (secEvent code detail s).control = s.control := (rfl)

@[simp ↓] theorem control_tsPut {e : TsEntry} : (tsPut e s).control = s.control := by
  unfold tsPut
  simp (disch := first | omega | (with_unfolding_all refine outside_of rfl ?_); omega)

@[simp ↓] theorem control_tsReport {e : QEntry} {lane status sfc time : Nat} :
    (tsReport e lane status sfc time s).control = s.control := by
  unfold tsReport
  simp

@[simp ↓] theorem control_queueFlush {q : Nat} : (queueFlush q s).control = s.control :=
  (control_foldl fun _ _ _ => control_tsReport).trans control_putQueue

@[simp ↓] theorem control_msgQFlushOp {qs : Nat} : (msgQFlushOp qs s).control = s.control :=
  control_range fun t q _ => by simp

@[simp ↓] theorem control_rxFlushOp : (rxFlushOp s).control = s.control := (rfl)

@[simp ↓] theorem control_peersEnd : (peersEnd s).control = s.control :=
  control_range fun _ _ hl => control_sessionEnd hl

@[simp ↓] theorem control_msgLockdown : (msgLockdown s).control = s.control := by
  unfold msgLockdown
  rw [control_range fun _ _ hl => control_sessionEnd hl]
  simp

@[simp ↓] theorem control_calRunStop (hl : l < 8) : (calRunStop l s).control = s.control := by
  unfold calRunStop
  simp (disch := first | omega | (with_unfolding_all refine outside_of rfl ?_); omega)

@[simp ↓] theorem control_anchorStop : (anchorStop s).control = s.control :=
  control_setB (outside_of_key (by decide))

@[simp ↓] theorem control_calHalt : (calHalt s).control = s.control := by
  have hlanes : ((List.range 8).foldl (fun s l => (calRunStop l (calStopApplying l s)).putCal l
      { (calRunStop l (calStopApplying l s)).cal l with stage := 0, sweepLeft := 0, sweepStage := 0, sweepFirst := 0 })
      s).control = s.control := control_range fun t l hl => by
    simp (disch := first | omega | (with_unfolding_all refine outside_of rfl ?_); omega)
  unfold calHalt
  simp [hlanes]

@[simp ↓] theorem control_cdacJump {n code : Nat} (hn : n < 48) : (cdacJump n code s).control = s.control := by
  unfold cdacJump
  simp (disch := first | omega | (with_unfolding_all refine outside_of rfl ?_); omega)

@[simp ↓] theorem control_cdacEnterFault {n comp : Nat} (hn : n < 48) :
    (cdacEnterFault n comp s).control = s.control := by
  unfold cdacEnterFault
  simp (disch := first | omega | (with_unfolding_all refine outside_of rfl ?_); omega)

@[simp ↓] theorem control_cdacFault {n cause : Nat} {comp : Option Nat} (hn : n < 48) :
    (cdacFault n cause comp s).control = s.control := by
  have hcause : Outside (cdacCause n cause) := by
    unfold cdacCause
    split <;> exact outside_of rfl (by omega)
  unfold cdacFault
  simp (disch := first | omega | (with_unfolding_all refine outside_of rfl ?_); omega)

@[simp ↓] theorem control_cdacFaultAll {cause : Nat} : (cdacFaultAll cause s).control = s.control :=
  control_range fun _ _ hn => control_cdacFault hn

@[simp ↓] theorem control_lockdownActs : (lockdownActs s).control = s.control := by
  unfold lockdownActs
  simp

/-! ### Records of Granary (R426, R427, R463) -/

@[simp ↓] theorem control_nvsNext : (nvsNext s).control = s.control := by
  unfold nvsNext
  split <;> rfl

@[simp ↓] theorem control_nvsGo : (nvsGo s).control = s.control := by
  unfold nvsGo
  simp

@[simp ↓] theorem control_nvsJobPut {j : NvsJob} : (nvsJobPut j s).control = s.control := by
  unfold nvsJobPut
  simp

@[simp ↓] theorem control_recordPut {writer addr left : Nat} {r : GranaryRecord} :
    (recordPut writer addr left r s).control = s.control := by
  unfold recordPut
  simp

@[simp ↓] theorem control_storePut : (storePut s).control = s.control := by
  unfold storePut
  simp

@[simp ↓] theorem control_bootPut {b : BootRecord} : (bootPut b s).control = s.control := by
  unfold bootPut
  simp

@[simp ↓] theorem control_repairsPut {rs : List Repair} {n left : Nat} :
    (repairsPut rs n left s).control = s.control := by
  unfold repairsPut
  simp

@[simp ↓] theorem control_repairsFull {rs : List Repair} : (repairsFull rs s).control = s.control := by
  unfold repairsFull
  simp (disch := first | omega | (with_unfolding_all refine outside_of rfl ?_); omega)

@[simp ↓] theorem control_retirementsPut {slices : List Nat} : (retirementsPut slices s).control = s.control := by
  unfold retirementsPut
  simp

/-! ### Blocks, slices and memories at start-up (R336, R402, R411, R416, R430) -/

@[simp ↓] theorem control_blockFollow {b : Blk} : (blockFollow b s).control = s.control := by
  have hstate : Outside (R.BLK_STAT_STATE b) := outside_base rfl (by decide)
  unfold blockFollow
  simp [hstate]

@[simp ↓] theorem control_capFollow {sh : Nat} : (capFollow sh s).control = s.control := by
  unfold capFollow
  simp

@[simp ↓] theorem control_slicePut {sh n : Nat} {retired : Bool} (hn : n < 5) :
    (slicePut sh n retired s).control = s.control := by
  unfold slicePut
  simp (disch := first | omega | (with_unfolding_all refine outside_of rfl ?_); omega)

@[simp ↓] theorem control_spareRefresh {sh : Nat} : (spareRefresh sh s).control = s.control := by
  unfold spareRefresh
  simp (disch := first | omega | (with_unfolding_all refine outside_of rfl ?_); omega)

@[simp ↓] theorem control_loadSlices {sh : Nat} : (loadSlices s sh).control = s.control := by
  have hshf : Outside (R.BLK_FAILED_FLAG ⟨.shf, sh⟩) := outside_failed
  have hcap : Outside (R.BLK_FAILED_FLAG (capBlk sh)) := outside_failed
  unfold loadSlices
  rw [control_spareRefresh, control_range, control_range]
  · simp [hshf, hcap]
  · intro t n hn
    simp (disch := first | omega | (with_unfolding_all refine outside_of rfl ?_); omega)
  · intro t k hk
    simp (disch := first | omega | (with_unfolding_all refine outside_of rfl ?_); omega)

@[simp ↓] theorem control_scratchClear : (scratchClear s).control = s.control := (rfl)

@[simp ↓] theorem control_eccFresh {memid n m : Nat} : (eccFresh memid n m s).control = s.control := (rfl)

@[simp ↓] theorem control_memoriesClear {memid : Nat} : (memoriesClear memid s).control = s.control := (rfl)

@[simp ↓] theorem control_slicesClear : (slicesClear s).control = s.control :=
  control_range fun t i _ => by simp

@[simp ↓] theorem control_centralClear : (centralClear s).control = s.control :=
  control_foldl fun _ _ _ => control_eccFresh

/-! ### The calibration pass, levels and lanes as service begins (R223, R371, R407, R456) -/

@[simp ↓] theorem control_savedUnknown : (savedUnknown s).control = s.control := by
  unfold savedUnknown
  simp

@[simp ↓] theorem control_calAreaLook : (calAreaLook s).control = s.control := by
  unfold calAreaLook
  split <;> simp

@[simp ↓] theorem control_madcRefWriteOp {en : Bool} : (madcRefWriteOp en s).control = s.control := by
  unfold madcRefWriteOp
  simp (disch := first | omega | (with_unfolding_all refine outside_of rfl ?_); omega)

@[simp ↓] theorem control_passBegin {ls : List Nat} : (passBegin ls s).control = s.control :=
  control_foldl fun _ _ _ => control_putCal

@[simp ↓] theorem control_startPassAnchor : (startPassAnchor s).control = s.control := by
  unfold startPassAnchor
  split
  · exact control_setB (outside_of_key (by decide))
  · rfl

@[simp ↓] theorem control_levelApply : (levelApply s).control = s.control := by
  unfold levelApply
  simp

@[simp ↓] theorem control_lanesConsider : (lanesConsider s).control = s.control :=
  control_range fun _ _ hl => control_considerStart hl
end

end Sys2Proof.Machine
end

section
/-!
PROOF. SEC's commands: nonces, owner sessions, lockdown, ownership, tokens and decommission (R471 to R488).
-/

namespace Sys2Proof.Machine

open Sys2Proof

/-! ### Reading a control field, SEC's record and the fuses after an operation -/

section
variable {s t : State} {f : Fld}

theorem State.getB_of_control (h : t.control = s.control) (hf : f ∈ controlFields) : t.getB f = s.getB f :=
  congrArg (· != 0) (State.get_of_control h hf)

theorem State.sec_of_control (h : t.control = s.control) : t.sec = s.sec := congrArg Control.sec h

theorem State.fuses_of_control (h : t.control = s.control) : t.fuses = s.fuses := congrArg Control.fuses h

theorem State.getB_setB_same (b : Bool) (hw : 1 ≤ f.w) : (s.setB f b).getB f = b := by
  have hb : b2n b < 2 ^ f.w := Nat.lt_of_lt_of_le (b2n_lt_two b) (Nat.pow_le_pow_right Nat.two_pos hw)
  unfold State.getB State.setB
  rw [State.get_set_same, Nat.mod_eq_of_lt hb]
  cases b <;> rfl

theorem State.getB_set_ne {g : Fld} (v : Nat) (h : f.key ≠ g.key) : (s.set f v).getB g = s.getB g :=
  congrArg (· != 0) (State.get_set_ne s v h)

/-! ### The end of a command of SEC (R487, R488) -/

theorem control_secEnd {r : Nat} : (secEnd r s).control = s.secIdle.control :=
  (control_irq (by decide)).trans <|
    (control_set (f := R.SEC_CMD_STAT_RESULT) (outside_of rfl (by decide))).trans <|
      control_set (f := R.SEC_CMD_STAT_STATE) (outside_of rfl (by decide))

theorem secEnd_get (r : Nat) (hf : f ∈ controlFields) : (secEnd r s).get f = s.get f :=
  State.get_of_control (s := s.secIdle) control_secEnd hf

theorem secEnd_getB (r : Nat) (hf : f ∈ controlFields) : (secEnd r s).getB f = s.getB f :=
  State.getB_of_control (s := s.secIdle) control_secEnd hf

theorem secEnd_sec (r : Nat) : (secEnd r s).sec = { s.sec with op := 0, owner := false } :=
  State.sec_of_control (s := s.secIdle) control_secEnd

theorem secEnd_fuses (r : Nat) : (secEnd r s).fuses = s.fuses :=
  State.fuses_of_control (s := s.secIdle) control_secEnd

theorem secEnd_state (r : Nat) : (secEnd r s).get R.SEC_CMD_STAT_STATE = 2 := by
  have hplain : ¬ R.SEC_CMD_STAT_STATE.counter := by unfold Fld.counter; decide
  unfold secEnd
  rw [State.irq_get_ne _ _ _ hplain (by decide), State.get_set_ne _ _ (by decide), State.get_set_same]
  rfl

theorem secEnd_result (r : Nat) : (secEnd r s).get R.SEC_CMD_STAT_RESULT = r % 256 := by
  have hplain : ¬ R.SEC_CMD_STAT_RESULT.counter := by unfold Fld.counter; decide
  unfold secEnd
  rw [State.irq_get_ne _ _ _ hplain (by decide), State.get_set_same]
  rfl

/-- A command of SEC that ends shows DONE and its result. -/
theorem After.secEnd {v : State} {w : List (Fld × Nat)} {r : Nat} (hr : r < 256)
    (hd : ∀ p ∈ w, p.1.key ≠ R.SEC_CMD_STAT_STATE.key ∧ p.1.key ≠ R.SEC_CMD_STAT_RESULT.key ∧
      p.1.key ≠ (R.IRQ_RAW_RAW (dev .sec) 0).key) (h : After s v w) :
    After s (Machine.secEnd r v) (s.secAfter r ++ w) := by
  have hidle : After s v.secIdle w := After.congr (v := v) rfl rfl h
  have hstate : After s _ ((R.SEC_CMD_STAT_STATE, 2) :: w) :=
    hidle.set (by decide) (plain_devFld (by decide) (by decide) (by decide)) fun p hp => (hd p hp).1
  have hresult : After s _ ((R.SEC_CMD_STAT_RESULT, r) :: _) :=
    hstate.set hr (plain_devFld (by decide) (by decide) (by decide))
      (List.forall_mem_cons.mpr ⟨fld_key_ne_of_place (by decide), fun p hp => (hd p hp).2.1⟩)
  exact hresult.irq (by decide) (plain_devFld (by decide) (by decide) (by decide))
    (List.forall_mem_cons.mpr ⟨fld_key_ne_of_place (by decide),
      List.forall_mem_cons.mpr ⟨fld_key_ne_of_place (by decide), fun p hp => (hd p hp).2.2⟩⟩)

/-- A command that SEC refuses, or that fails, ends with its result and leaves the rest as it was. -/
theorem secEnd_effect {c : Instr} {r : Nat} (hx : exec c s = done (secEnd r s)) (hr : r < 256) :
    Effect c s (s.secAfter r) s.secIdle :=
  (After.nil.secEnd hr (List.forall_mem_nil _)).effect hx (State.irq_core ..)

/-- A command that succeeds ends with DONE and OK. -/
theorem secEnd_ends {c : Instr} {P : State → Prop} (hx : exec c s = done (secEnd 0 t))
    (h : P (settle (secEnd 0 t))) :
    Ends c s fun u => P u ∧ u.get R.SEC_CMD_STAT_STATE = 2 ∧ u.get R.SEC_CMD_STAT_RESULT = 0 :=
  ⟨_, hx, h, secEnd_state 0, secEnd_result 0⟩

/-! ### The end of an owner session (R473) -/

/-- No session is up, and its key is zeroised. -/
def State.sessionless (s : State) : State := { s.setB R.SEC_STAT_OWN_SESSION false with sec := { s.sec with key := 0 } }

theorem State.sessionless_getB : s.sessionless.getB R.SEC_STAT_OWN_SESSION = false :=
  State.getB_setB_same (s := s) (f := R.SEC_STAT_OWN_SESSION) false (by decide)

theorem ownEnd_of_up (code : Nat) (h : s.getB R.SEC_STAT_OWN_SESSION = true) :
    ownEnd code s = secEvent 0x14 code (s.sessionless.irq secBlk 1) := if_pos h

theorem ownEnd_of_down (code : Nat) (h : s.getB R.SEC_STAT_OWN_SESSION = false) : ownEnd code s = s :=
  if_neg (by simp [h])

theorem control_ownEnd_of_up (code : Nat) (h : s.getB R.SEC_STAT_OWN_SESSION = true) :
    (ownEnd code s).control = s.sessionless.control := by
  rw [ownEnd_of_up code h]
  exact control_irq (by decide)

theorem ownEnd_session (code : Nat) : (ownEnd code s).getB R.SEC_STAT_OWN_SESSION = false := by
  cases h : s.getB R.SEC_STAT_OWN_SESSION with
  | false => rw [ownEnd_of_down code h, h]
  | true =>
    exact (State.getB_of_control (control_ownEnd_of_up code h) (by decide)).trans State.sessionless_getB

/-- The end of a session changes no field but OWN_SESSION and its source. -/
theorem ownEnd_get (code : Nat) (hc : ¬ f.counter) (hirq : (R.IRQ_RAW_RAW (dev .sec) 1).key ≠ f.key)
    (hne : R.SEC_STAT_OWN_SESSION.key ≠ f.key) : (ownEnd code s).get f = s.get f := by
  cases h : s.getB R.SEC_STAT_OWN_SESSION with
  | false => rw [ownEnd_of_down code h]
  | true =>
    rw [ownEnd_of_up code h]
    exact (State.irq_get_ne _ _ _ hc hirq).trans (State.get_set_ne s 0 hne)

theorem ownEnd_get_control (code : Nat) (hf : f ∈ controlFields) (hne : R.SEC_STAT_OWN_SESSION.key ≠ f.key) :
    (ownEnd code s).get f = s.get f :=
  have hkeys : ∀ g ∈ controlFields, (R.IRQ_RAW_RAW (dev .sec) 1).key ≠ g.key := by decide
  ownEnd_get code (control_not_counter hf) (hkeys f hf) hne

theorem ownEnd_getB_control (code : Nat) (hf : f ∈ controlFields) (hne : R.SEC_STAT_OWN_SESSION.key ≠ f.key) :
    (ownEnd code s).getB f = s.getB f := congrArg (· != 0) (ownEnd_get_control code hf hne)

/-- Of SEC's record and the fuses the end of a session changes the session's key alone. -/
theorem ownEnd_sec (code : Nat) :
    (ownEnd code s).sec = { s.sec with key := (ownEnd code s).sec.key } ∧ (ownEnd code s).fuses = s.fuses := by
  cases h : s.getB R.SEC_STAT_OWN_SESSION with
  | false =>
    rw [ownEnd_of_down code h]
    exact ⟨rfl, rfl⟩
  | true =>
    have hc := control_ownEnd_of_up code h
    rw [State.sec_of_control hc, State.fuses_of_control hc]
    exact ⟨rfl, rfl⟩

/-! ### Lockdown (R484, R485) -/

/-- The session's key, the nonces and the key-encryption key are out of use. -/
def State.keysZeroised (s : State) : State :=
  { s with sec := { s.sec with key := 0, nonce := none, begun := none, kekBlocked := true } }

/-- A cause of lockdown is latched with its hold. -/
def State.lockdownLatched (s : State) (cause : Nat) : State :=
  ((s.setB R.SEC_STAT_LOCKDOWN true).set R.SEC_STAT_LD_CAUSE cause).setB R.RST_STAT_HOLD_LOCKDOWN true

/-- The control fields and SEC's record as lockdown leaves them: lanes, messages and the commit change none of them. -/
theorem control_lockdown {cause : Nat} (h : s.getB R.SEC_STAT_LOCKDOWN = false) :
    (lockdown cause s).control =
      (debugClose (msgLockdown (ownEnd 3 (s.lockdownLatched cause)))).keysZeroised.control := by
  unfold lockdown
  rw [if_neg (by simp [h])]
  extract_lets latched closed record zeroised reported power acted
  have hreported : reported.control = zeroised.control := control_secEvent.trans (control_irq (by decide))
  have hzeroised : zeroised.control = closed.keysZeroised.control := rfl
  clear_value reported zeroised
  have hacted : acted.control = reported.control := by
    rw [control_ite, control_lockdownActs]
    exact ite_self _
  exact control_commitTrigger.trans (hacted.trans (hreported.trans hzeroised))

theorem lockdown_get {cause : Nat} (h : s.getB R.SEC_STAT_LOCKDOWN = false) (hf : f ∈ controlFields)
    (hdebug : R.SEC_LIFE_DEBUG.key ≠ f.key) (hsession : R.SEC_STAT_OWN_SESSION.key ≠ f.key) :
    (lockdown cause s).get f = (s.lockdownLatched cause).get f := by
  generalize hv : s.lockdownLatched cause = v
  generalize hu : msgLockdown (ownEnd 3 v) = u
  have hmsg : u.get f = (ownEnd 3 v).get f := by
    rw [← hu]
    exact State.get_of_control control_msgLockdown hf
  calc (lockdown cause s).get f
    _ = (debugClose u).keysZeroised.get f := by
      rw [← hu, ← hv]
      exact State.get_of_control (control_lockdown h) hf
    _ = u.get f := State.get_set_ne u 0 hdebug
    _ = (ownEnd 3 v).get f := hmsg
    _ = v.get f := ownEnd_get_control 3 hf hsession

theorem lockdown_getB_lockdown {cause : Nat} (h : s.getB R.SEC_STAT_LOCKDOWN = false) :
    (lockdown cause s).getB R.SEC_STAT_LOCKDOWN = true := by
  have hlatched : (s.lockdownLatched cause).getB R.SEC_STAT_LOCKDOWN = true :=
    (State.getB_set_ne _ (by decide)).trans <| (State.getB_set_ne _ (by decide)).trans <|
      State.getB_setB_same true (by decide)
  exact (congrArg (· != 0) (lockdown_get h (by decide) (by decide) (by decide))).trans hlatched

theorem lockdown_get_cause {cause : Nat} (h : s.getB R.SEC_STAT_LOCKDOWN = false) (hc : cause < 8) :
    (lockdown cause s).get R.SEC_STAT_LD_CAUSE = cause := by
  have hlatched : (s.lockdownLatched cause).get R.SEC_STAT_LD_CAUSE = cause % 8 :=
    (State.get_set_ne _ _ (by decide)).trans (State.get_set_same ..)
  rw [lockdown_get h (by decide) (by decide) (by decide), hlatched, Nat.mod_eq_of_lt hc]

theorem lockdown_sec {cause : Nat} (h : s.getB R.SEC_STAT_LOCKDOWN = false) : (lockdown cause s).sec.key = 0 ∧
    (lockdown cause s).sec.nonce = none ∧ (lockdown cause s).sec.begun = none ∧
    (lockdown cause s).sec.kekBlocked = true := by
  rw [State.sec_of_control (control_lockdown h)]
  exact ⟨rfl, rfl, rfl, rfl⟩
end

/-! ### Management-only service (R406) -/

section
variable {s t : State} {f : Fld}

theorem State.get_set_congr {v : Nat} (g : Fld) (h : t.get f = s.get f) : (t.set g v).get f = (s.set g v).get f := by
  by_cases hk : f.key = g.key
  · unfold State.get State.set natSet
    split <;> simp [natGet_natDel, natGet_natPut, hk]
  · rw [State.get_set_ne _ _ (Ne.symm hk), State.get_set_ne _ _ (Ne.symm hk), h]

/-- The same write of a control field carries what two states have in common. -/
theorem control_set_congr {v : Nat} (g : Fld) (h : t.control = s.control) : (t.set g v).control = (s.set g v).control :=
  control_of_get (fun _ hf => State.get_set_congr g (State.get_of_control h hf))
    (State.sec_of_control (s := s) (t := t) h) (State.fuses_of_control (s := s) (t := t) h)

theorem control_setPhase {p : Nat} : (setPhase p s).control = (s.set R.RST_STAT_PHASE p).control := (rfl)

/-- Where firmware does not run on, it is shown as stopped. -/
def State.firmwareLeft (s : State) (run : Bool) : State :=
  if run then s else (s.setB R.FWC_STAT_RUNNING false).setB R.RST_WDT_CFG_RUNNING false

theorem mgmtOnly_of_in {run : Bool} {err : Nat} (h : s.phase = 9) : mgmtOnly run err s = s := if_pos h

theorem control_mgmtOnly {run : Bool} {err : Nat} (h : s.phase ≠ 9) : (mgmtOnly run err s).control =
    (((s.firmwareLeft run).set R.RST_BOOT_STAT_ERROR err).set R.RST_STAT_PHASE 9).control := by
  unfold mgmtOnly
  rw [if_neg h]
  extract_lets left start started
  have hstart (k : BK) (t : State) : (start k t).control = t.control := by
    show (if t.started (dev k) then t else blockFollow (dev k) t).control = t.control
    rw [control_ite, control_blockFollow, ite_self]
  have hstarted : started.control = left.control := (hstart _ _).trans (hstart _ _)
  exact (control_irq (by decide)).trans
    (control_setPhase.trans (control_set_congr _ (control_set_congr _ hstarted)))

theorem mgmtOnly_phase (run : Bool) (err : Nat) : (mgmtOnly run err s).phase = 9 := by
  by_cases h : s.phase = 9
  · rw [mgmtOnly_of_in h, h]
  · exact (State.get_of_control (control_mgmtOnly h) (by decide)).trans (State.get_set_same ..)

theorem mgmtOnly_error {run : Bool} {err : Nat} (h : s.phase ≠ 9) (he : err < 16) :
    (mgmtOnly run err s).get R.RST_BOOT_STAT_ERROR = err := by
  rw [State.get_of_control (control_mgmtOnly h) (by decide), State.get_set_ne _ _ (by decide), State.get_set_same]
  exact Nat.mod_eq_of_lt he

/-- The fields that entry to management-only service writes. -/
def mgmtFields : List Fld :=
  [R.RST_STAT_PHASE, R.RST_BOOT_STAT_ERROR, R.RST_WDT_CFG_RUNNING, R.FWC_STAT_RUNNING]

theorem State.firmwareLeft_get (run : Bool) (hf : f.key ∉ mgmtFields.map Fld.key) :
    (s.firmwareLeft run).get f = s.get f := by
  simp only [mgmtFields, List.map_cons, List.map_nil, List.mem_cons, List.not_mem_nil, or_false, not_or] at hf
  obtain ⟨-, -, hwdt, hrun⟩ := hf
  unfold State.firmwareLeft
  split
  · rfl
  · exact (State.get_set_ne _ _ (Ne.symm hwdt)).trans (State.get_set_ne _ _ (Ne.symm hrun))

theorem mgmtOnly_get {run : Bool} {err : Nat} (hf : f ∈ controlFields) (hne : f.key ∉ mgmtFields.map Fld.key) :
    (mgmtOnly run err s).get f = s.get f := by
  by_cases h : s.phase = 9
  · rw [mgmtOnly_of_in h]
  · have hleft := State.firmwareLeft_get (s := s) run hne
    simp only [mgmtFields, List.map_cons, List.map_nil, List.mem_cons, List.not_mem_nil, or_false, not_or] at hne
    obtain ⟨hphase, herror, -, -⟩ := hne
    rw [State.get_of_control (control_mgmtOnly h) hf, State.get_set_ne _ _ (Ne.symm hphase),
      State.get_set_ne _ _ (Ne.symm herror), hleft]

/-- Under a hold firmware runs on (R398, R406). -/
theorem mgmtOnly_running {err : Nat} : (mgmtOnly true err s).getB R.FWC_STAT_RUNNING = s.getB R.FWC_STAT_RUNNING := by
  by_cases h : s.phase = 9
  · rw [mgmtOnly_of_in h]
  · exact (State.getB_of_control (control_mgmtOnly h) (by decide)).trans <|
      (State.getB_set_ne _ (by decide)).trans (State.getB_set_ne (s := s) _ (by decide))

theorem mgmtOnly_sec (run : Bool) (err : Nat) :
    (mgmtOnly run err s).sec = s.sec ∧ (mgmtOnly run err s).fuses = s.fuses := by
  by_cases h : s.phase = 9
  · rw [mgmtOnly_of_in h]
    exact ⟨rfl, rfl⟩
  · have hc := control_mgmtOnly (run := run) (err := err) h
    rw [State.sec_of_control hc, State.fuses_of_control hc]
    cases run <;> exact ⟨rfl, rfl⟩
end

/-! ### The command buffer (R471, R475) -/

section
variable {s : State}

theorem control_bufPut {w : Nat} {bs : List Nat} (h : w + bs.length / 4 ≤ 64) : (bufPut w bs s).control = s.control :=
  control_range fun _ _ hi => control_set (outside_of rfl (by omega))

theorem buf_key_ne {i j : Nat} (h : i ≠ j) : (R.SEC_BUF_DATA i).key ≠ (R.SEC_BUF_DATA j).key :=
  fld_key_ne_of_place (by omega)

/-- Words that are placed one after another are read back. -/
theorem bufPut_get {w : Nat} {bs : List Nat} {j : Nat} (hj : j < bs.length / 4) :
    (bufPut w bs s).get (R.SEC_BUF_DATA (w + j)) = ofBytesBE ((bs.drop (4 * j)).take 4) % 2 ^ 32 := by
  unfold bufPut
  generalize bs.length / 4 = n at hj ⊢
  induction n with
  | zero => omega
  | succ n ih =>
    rw [List.range_succ, List.foldl_append, List.foldl_cons, List.foldl_nil]
    by_cases h : j = n
    · rw [h]
      exact State.get_set_same ..
    · rw [State.get_set_ne _ _ (buf_key_ne (by omega)), ih (by omega)]

/-- Byte i of the words that a list of bytes fills. -/
theorem bits_word {bs : List Nat} {i : Nat} (hi : i < bs.length) (h4 : bs.length % 4 = 0) :
    bits (ofBytesBE ((bs.drop (4 * (i / 4))).take 4) % 2 ^ 32) (24 - 8 * (i % 4)) 8 = bs[i] % 256 := by
  obtain ⟨q, r, hr, rfl⟩ : ∃ q r, r < 4 ∧ i = 4 * q + r := ⟨i / 4, i % 4, by omega, by omega⟩
  have hq : (4 * q + r) / 4 = q := by omega
  have hword : (bs.drop (4 * q)).take 4 = [bs[4 * q], bs[4 * q + 1], bs[4 * q + 2], bs[4 * q + 3]] := by
    apply List.ext_getElem
    · simp; omega
    · intro n h1 h2
      have : n = 0 ∨ n = 1 ∨ n = 2 ∨ n = 3 := by simp at h2; omega
      rcases this with rfl | rfl | rfl | rfl <;> simp
  have hmod : (4 * q + r) % 4 = r := by omega
  rw [hq, hword, hmod]
  simp only [ofBytesBE, List.foldl_cons, List.foldl_nil, bits]
  have : r = 0 ∨ r = 1 ∨ r = 2 ∨ r = 3 := by omega
  rcases this with rfl | rfl | rfl | rfl
  · simp only [Nat.add_zero]
    omega
  all_goals omega

theorem bufPut_bytes {n v : Nat} (h4 : n % 4 = 0) : bufBytes (bufPut 0 (toBytesBE n v) s) 0 n = toBytesBE n v := by
  have hlen : (toBytesBE n v).length = n := by simp [toBytesBE]
  unfold bufBytes
  apply List.ext_getElem
  · simp [hlen]
  · intro i h1 h2
    have hi : i < n := by simpa using h1
    have hword := bufPut_get (s := s) (w := 0) (bs := toBytesBE n v) (j := i / 4) (by omega)
    have hbyte : (toBytesBE n v)[i] % 256 = (toBytesBE n v)[i] := by simp [toBytesBE]
    rw [List.getElem_map, List.getElem_range, Nat.zero_add]
    unfold bufByte
    rw [Nat.zero_add] at hword
    rw [hword, bits_word h2 (by omega), hbyte]

/-- What leaves the buffer's words leaves its bytes. -/
theorem bufBytes_congr {t : State} {a n : Nat} (hn : a + n ≤ 256)
    (h : ∀ i, i < 64 → t.get (R.SEC_BUF_DATA i) = s.get (R.SEC_BUF_DATA i)) : bufBytes t a n = bufBytes s a n := by
  refine List.map_congr_left fun i hi => ?_
  have hi := List.mem_range.mp hi
  unfold bufByte
  rw [h _ (by omega)]

theorem buf_plain {i : Nat} (hi : i < 64) : Plain (R.SEC_BUF_DATA i) := plain_devFld (by omega) (by omega) (by omega)

theorem secEnd_bufBytes (r : Nat) {a n : Nat} (hn : a + n ≤ 256) : bufBytes (secEnd r s) a n = bufBytes s a n := by
  refine bufBytes_congr hn fun i hi => ?_
  have hirq : (R.IRQ_RAW_RAW (dev .sec) 0).key ≠ (R.SEC_BUF_DATA i).key := by
    show (0xD0010 * 64 + 0) * 4 + 0 ≠ ((0xD0000 + 0x100 + 4 * i) * 64 + 0) * 4 + 2
    omega
  have hresult : R.SEC_CMD_STAT_RESULT.key ≠ (R.SEC_BUF_DATA i).key := fld_key_ne_of_place (by omega)
  have hstate : R.SEC_CMD_STAT_STATE.key ≠ (R.SEC_BUF_DATA i).key := fld_key_ne_of_place (by omega)
  exact (State.irq_get_ne _ _ _ (buf_plain hi).1 hirq).trans <|
    (State.get_set_ne _ _ hresult).trans (State.get_set_ne s.secIdle _ hstate)

theorem ownEnd_bufBytes (code : Nat) {a n : Nat} (hn : a + n ≤ 256) : bufBytes (ownEnd code s) a n = bufBytes s a n :=
  bufBytes_congr hn fun _ hi =>
    ownEnd_get code (buf_plain hi).1 (fld_key_ne_of_place (by omega)) (fld_key_ne_of_place (by omega))
end

/-! ### Start of a command, and the commands that a write performs (R471, R484, R487) -/

section
variable {s : State}

theorem secStart_effect {c : Instr} {op : Nat} {owner : Bool} (hx : exec c s = done (secStart op owner s)) :
    if s.get R.SEC_CMD_STAT_STATE = 1 then Effect c s [(R.BLK_STAT_CONFLICT (dev .sec), 1)] s
    else Effect c s [(R.SEC_CMD_STAT_STATE, 1)] { s with sec := { s.sec with op := op, owner := owner } } := by
  split
  next hbusy =>
    have hrefused : After s (s.conflict secBlk) [(R.BLK_STAT_CONFLICT (dev .sec), 1)] :=
      After.one (by decide) (plain_devFld (by decide) (by decide) (by decide))
    exact hrefused.effect (hx.trans (congrArg done (if_pos hbusy))) rfl
  next hidle =>
    have hset : After s (s.set R.SEC_CMD_STAT_STATE 1) [(R.SEC_CMD_STAT_STATE, 1)] :=
      After.one (by decide) (plain_devFld (by decide) (by decide) (by decide))
    have hstarted : After s (secStart op owner s) [(R.SEC_CMD_STAT_STATE, 1)] := by
      unfold secStart
      rw [if_neg hidle]
      exact After.congr (v := s.set R.SEC_CMD_STAT_STATE 1) rfl rfl hset
    refine hstarted.effect hx ?_
    unfold secStart
    rw [if_neg hidle]
    rfl

theorem lockdown_effect (owner : Bool) :
    if s.get R.SEC_CMD_STAT_STATE = 1 then Effect (.lockdown owner) s [(R.BLK_STAT_CONFLICT (dev .sec), 1)] s
    else if s.getB R.SEC_STAT_LOCKDOWN = true then Effect (.lockdown owner) s (s.secAfter 1) s.secIdle
    else if owner = false then Effect (.lockdown owner) s (s.secAfter 2) s.secIdle
    else Ends (.lockdown owner) s fun t => t.getB R.SEC_STAT_LOCKDOWN = true ∧ t.get R.SEC_STAT_LD_CAUSE = 5 ∧
      t.get R.SEC_CMD_STAT_STATE = 2 ∧ t.get R.SEC_CMD_STAT_RESULT = 0 ∧
      t.sec.key = 0 ∧ t.sec.nonce = none ∧ t.sec.begun = none ∧ t.sec.kekBlocked = true := by
  have hx : exec (.lockdown owner) s = done (lockdownOp owner s) := rfl
  unfold lockdownOp at hx
  split
  next hbusy =>
    rw [if_pos hbusy] at hx
    have hrefused : After s (s.conflict secBlk) [(R.BLK_STAT_CONFLICT (dev .sec), 1)] :=
      After.one (by decide) (plain_devFld (by decide) (by decide) (by decide))
    exact hrefused.effect hx rfl
  next hidle =>
    rw [if_neg hidle] at hx
    split
    next hlocked =>
      rw [if_pos hlocked] at hx
      exact secEnd_effect hx (by decide)
    next hopen =>
      rw [if_neg hopen] at hx
      have hopen : s.getB R.SEC_STAT_LOCKDOWN = false := by simpa using hopen
      cases owner with
      | false => exact secEnd_effect hx (by decide)
      | true =>
        rw [if_pos rfl] at hx
        obtain ⟨hkey, hnonce, hbegun, hkek⟩ := lockdown_sec (cause := 5) hopen
        have hsec := secEnd_sec (s := lockdown 5 s) 0
        refine ⟨_, hx, ?_, ?_, secEnd_state 0, secEnd_result 0, ?_⟩
        · exact (secEnd_getB 0 (by decide)).trans (lockdown_getB_lockdown hopen)
        · exact (secEnd_get 0 (by decide)).trans (lockdown_get_cause hopen (by decide))
        · rw [settle_sec, hsec]
          exact ⟨hkey, hnonce, hbegun, hkek⟩

/-! ### OWN_IDLE_TIMEOUT and TAMPER (R473, R484) -/

theorem ownEnd_after {v : State} {w : List (Fld × Nat)} {code : Nat} (h : After s v w)
    (hup : v.getB R.SEC_STAT_OWN_SESSION = true)
    (hd : ∀ p ∈ w, p.1.key ≠ R.SEC_STAT_OWN_SESSION.key ∧ p.1.key ≠ (R.IRQ_RAW_RAW (dev .sec) 1).key) :
    After s (ownEnd code v) (s.irqAfter (dev .sec) 1 :: (R.SEC_STAT_OWN_SESSION, 0) :: w) := by
  have hdown : After s (v.set R.SEC_STAT_OWN_SESSION 0) ((R.SEC_STAT_OWN_SESSION, 0) :: w) :=
    h.set (by decide) (plain_devFld (by decide) (by decide) (by decide)) fun p hp => (hd p hp).1
  have hzero : After s v.sessionless _ := After.congr (v := v.set R.SEC_STAT_OWN_SESSION 0) rfl rfl hdown
  rw [ownEnd_of_up code hup]
  exact (hzero.irq (b := dev .sec) (n := 1) (by decide) (plain_devFld (by decide) (by decide) (by decide))
    (List.forall_mem_cons.mpr ⟨by decide, fun p hp => (hd p hp).2⟩)).event

theorem ownIdleTimeout_effect :
    if s.get R.SEC_OWN_CFG_IDLE = 0 ∨ s.getB R.SEC_STAT_OWN_SESSION = false then Effect .ownIdleTimeout s [] s
    else Effect .ownIdleTimeout s [s.irqAfter (dev .sec) 1, (R.SEC_STAT_OWN_SESSION, 0)]
      { s with sec := { s.sec with key := 0 } } := by
  have hx : exec .ownIdleTimeout s = done (ownIdleTimeoutOp s) := rfl
  unfold ownIdleTimeoutOp at hx
  split
  next hnone =>
    have hsame : (if s.get R.SEC_OWN_CFG_IDLE = 0 then s else ownEnd 2 s) = s := by
      split
      · rfl
      next hidle => exact ownEnd_of_down 2 (hnone.resolve_left hidle)
    rw [hsame] at hx
    exact effect_of_regs hx rfl
  next hup =>
    obtain ⟨hidle, hup⟩ := not_or.mp hup
    have hup : s.getB R.SEC_STAT_OWN_SESSION = true := by simpa using hup
    rw [if_neg hidle] at hx
    refine (ownEnd_after After.nil hup (List.forall_mem_nil _)).effect hx ?_
    rw [ownEnd_of_up 2 hup]
    exact State.irq_core ..

theorem tamper_effect (cause : Fin 5) :
    if cause.val = 0 ∨ s.inReset (dev .sec) = true then Effect (.tamper cause) s [] s
    else if (cause.val = 2 ∧ s.getB R.SEC_TAMPER_CFG_GLITCH_V = false) ∨
        (cause.val = 3 ∧ s.getB R.SEC_TAMPER_CFG_GLITCH_CLK = false) then
      Effect (.tamper cause) s [s.irqAfter (dev .sec) 4] s
    else if s.getB R.SEC_STAT_LOCKDOWN = true then Effect (.tamper cause) s [] s
    else Ends (.tamper cause) s fun t => t.getB R.SEC_STAT_LOCKDOWN = true ∧ t.get R.SEC_STAT_LD_CAUSE = cause.val ∧
      t.sec.key = 0 ∧ t.sec.nonce = none ∧ t.sec.begun = none ∧ t.sec.kekBlocked = true := by
  have hx : exec (.tamper cause) s = done (tamperOp cause.val s) := rfl
  have hle : ¬ 4 < cause.val := by omega
  unfold tamperOp at hx
  split
  next hnone =>
    rw [if_pos (by simpa [hle, secBlk] using hnone)] at hx
    exact effect_of_regs hx rfl
  next hacts =>
    rw [if_neg (by simpa [hle, secBlk] using hacts)] at hx
    split
    next hmasked =>
      rw [if_pos (by simpa using hmasked)] at hx
      have hirq : After s (s.irq secBlk 4) [s.irqAfter (dev .sec) 4] :=
        After.nil.irq (b := dev .sec) (by decide) (plain_devFld (by decide) (by decide) (by decide))
          (List.forall_mem_nil _)
      exact hirq.event.effect hx (State.irq_core ..)
    next hnoted =>
      rw [if_neg (by simpa using hnoted)] at hx
      split
      next hlocked => exact effect_of_regs (hx.trans (congrArg done (if_pos hlocked))) rfl
      next hopen =>
        have hopen : s.getB R.SEC_STAT_LOCKDOWN = false := by simpa using hopen
        exact ⟨_, hx, lockdown_getB_lockdown hopen, lockdown_get_cause hopen (by omega), lockdown_sec hopen⟩
end

/-! ### SEC_CMD_DONE: what each command leaves (R471 to R475, R481 to R483, R487) -/

/-- The work of a command, by its code. -/
def secRun (op : Nat) (s : State) : State :=
  match op with
  | 1 => nonceRun s
  | 2 => ownBeginRun s
  | 3 => ownFinishRun s
  | 4 => ownEndRun s
  | 5 => ownershipRun true s
  | 6 => ownershipRun false s
  | 7 => debugUnlockRun s
  | 8 => rmaRun s
  | _ => decommissionRun s

theorem secCmdDoneOp_eq (s : State) : secCmdDoneOp s =
    if s.get R.SEC_CMD_STAT_STATE != 1 then s
    else if s.getB R.SEC_STAT_LOCKDOWN then secEnd 1 s else secRun s.sec.op s := rfl

theorem secCmdDone_idle (s : State) (h : s.get R.SEC_CMD_STAT_STATE ≠ 1) : Effect .secCmdDone s [] s := by
  have hx : exec .secCmdDone s = done (secCmdDoneOp s) := rfl
  rw [secCmdDoneOp_eq, if_pos (by simpa using h)] at hx
  exact effect_of_regs hx rfl

theorem secCmdDone_locked (s : State) (h : s.get R.SEC_CMD_STAT_STATE = 1) (hl : s.getB R.SEC_STAT_LOCKDOWN = true) :
    Effect .secCmdDone s (s.secAfter 1) s.secIdle := by
  have hx : exec .secCmdDone s = done (secCmdDoneOp s) := rfl
  rw [secCmdDoneOp_eq, if_neg (by simp [h]), if_pos hl] at hx
  exact secEnd_effect hx (by decide)

theorem exec_secCmdDone {s : State} {op : Nat} (h : s.get R.SEC_CMD_STAT_STATE = 1)
    (hl : s.getB R.SEC_STAT_LOCKDOWN = false) (hop : s.sec.op = op) : exec .secCmdDone s = done (secRun op s) := by
  have hx : exec .secCmdDone s = done (secCmdDoneOp s) := rfl
  rwa [secCmdDoneOp_eq, if_neg (by simp [h]), if_neg (by simp [hl]), hop] at hx

/-- A command that succeeds ends with DONE and OK, in a state of which P holds. -/
def SecOk (s : State) (P : State → Prop) : Prop :=
  Ends .secCmdDone s fun t => P t ∧ t.get R.SEC_CMD_STAT_STATE = 2 ∧ t.get R.SEC_CMD_STAT_RESULT = 0

section
variable {s : State}

theorem secEnd_core (r : Nat) : (secEnd r s).core = s.core.secIdle := State.irq_core ..

theorem nonce_done (hx : exec .secCmdDone s = done (nonceRun s)) :
    if s.getB R.SEC_STAT_TRNG_FAIL = true then Effect .secCmdDone s (s.secAfter 5) s.secIdle
    else SecOk s fun t => t.sec.nonce = some (s.random 256) ∧ bufBytes t 0 32 = toBytesBE 32 (s.random 256) := by
  unfold nonceRun at hx
  split
  next hfail => exact secEnd_effect (hx.trans (congrArg done (if_pos hfail))) (by decide)
  next hgood =>
    rw [if_neg hgood] at hx
    refine secEnd_ends hx ⟨?_, ?_⟩
    · rw [settle_sec, secEnd_sec, State.sec_of_control (control_bufPut (by simp [toBytesBE]))]
    · exact (secEnd_bufBytes 0 (by decide)).trans (bufPut_bytes (by decide))

theorem ownBegin_done (hx : exec .secCmdDone s = done (ownBeginRun s)) :
    if s.fuses.life ≠ 2 then Effect .secCmdDone s (s.secAfter 1) s.secIdle
    else if s.sec.backoff = true then Effect .secCmdDone s (s.secAfter 6) s.secIdle
    else if s.getB R.SEC_STAT_TRNG_FAIL = true then Effect .secCmdDone s (s.secAfter 5) s.secIdle
    else SecOk s fun t => t.sec.begun = some (s.random 384, s.draw.random 384) ∧
      t.get R.SEC_STAT_OWN_SESSION = s.get R.SEC_STAT_OWN_SESSION := by
  unfold ownBeginRun at hx
  split
  next hlife => exact secEnd_effect (hx.trans (congrArg done (if_pos (by simpa using hlife)))) (by decide)
  next howned =>
    rw [if_neg (by simpa using howned)] at hx
    split
    next hback => exact secEnd_effect (hx.trans (congrArg done (if_pos hback))) (by decide)
    next hfree =>
      rw [if_neg hfree] at hx
      split
      next hfail => exact secEnd_effect (hx.trans (congrArg done (if_pos hfail))) (by decide)
      next hgood =>
        rw [if_neg hgood] at hx
        have hlen (n v : Nat) : (toBytesBE n v).length = n := by simp [toBytesBE]
        have hput (u : State) (n p : Nat) :
            (bufPut 12 (toBytesBE 96 p) (bufPut 0 (toBytesBE 48 n) u)).control = u.control :=
          (control_bufPut (by rw [hlen]; decide)).trans (control_bufPut (by rw [hlen]; decide))
        refine secEnd_ends hx ⟨?_, ?_⟩
        · rw [settle_sec, secEnd_sec, State.sec_of_control (hput ..)]
        · rw [settle_get, secEnd_get 0 (by decide), State.get_of_control (hput ..) (by decide)]
          rfl

/-! #### Owner sessions -/

/-- What OWN_FINISH with a good signature leaves, once SEC's record holds the session's key (R471). -/
theorem ownUp_facts (n priv : Nat) :
    (ownUp n priv s).getB R.SEC_STAT_OWN_SESSION = true ∧ (ownUp n priv s).get R.MGT_OWNER_CTR_COUNT = 1 ∧
    (ownUp n priv s).sec = { s.sec with
      key := hkdf (toBytesBE 48 (ecdh priv (ofBytesBE (bufBytes s 0 96)))) (toBytesBE 48 n)
        (ascii "LN3280 owner write") 32, fails := 0, backoff := false } := by
  unfold ownUp
  extract_lets ended z record keyed
  have hz : z = ecdh priv (ofBytesBE (bufBytes s 0 96)) :=
    congrArg (fun b => ecdh priv (ofBytesBE b)) (ownEnd_bufBytes 8 (by decide))
  have hsec : keyed.sec = { s.sec with
      key := hkdf (toBytesBE 48 z) (toBytesBE 48 n) (ascii "LN3280 owner write") 32,
      fails := 0, backoff := false } := by
    have hended : ended.sec = { s.sec with key := ended.sec.key } := (ownEnd_sec 8).1
    show ({ ended.sec with fails := 0, backoff := false, key := keyed.sec.key } : SecInt) = _
    rw [hended]
  rw [← hz]
  clear_value keyed z
  have hup : (secEvent 0x13 0
      (((keyed.setB R.SEC_STAT_OWN_SESSION true).set R.MGT_OWNER_CTR_COUNT 1).irq secBlk 1)).control =
      ((keyed.setB R.SEC_STAT_OWN_SESSION true).set R.MGT_OWNER_CTR_COUNT 1).control :=
    control_secEvent.trans (control_irq (by decide))
  refine ⟨?_, ?_, ?_⟩
  · rw [State.getB_of_control hup (by decide), State.getB_set_ne _ (by decide)]
    exact State.getB_setB_same true (by decide)
  · rw [State.get_of_control hup (by decide), State.get_set_same]
    rfl
  · rw [State.sec_of_control hup]
    exact hsec

/-- A signature that does not verify counts as a failed attempt, and the fourth in a row starts the back-off (R472). -/
theorem ownFail_effect {n : Option (Nat × Nat)}
    (hx : exec .secCmdDone s = done (secEnd 3 (ownFail { s with sec := { s.sec with begun := n } }))) :
    Effect .secCmdDone s
      (s.secAfter 3 ++ [(R.SEC_FAIL_OWN, satAdd R.SEC_FAIL_OWN.w (s.get R.SEC_FAIL_OWN) 1 % 2 ^ R.SEC_FAIL_OWN.w)])
      { s.secIdle with sec := { s.secIdle.sec with
          begun := n, fails := s.sec.fails + 1, backoff := s.sec.backoff || 4 ≤ s.sec.fails + 1 } } := by
  have hset : s.satInc R.SEC_FAIL_OWN 1 =
      s.set R.SEC_FAIL_OWN (satAdd R.SEC_FAIL_OWN.w (s.get R.SEC_FAIL_OWN) 1 % 2 ^ R.SEC_FAIL_OWN.w) := by
    unfold State.satInc State.set
    rw [Nat.mod_mod]
  have hcount : After s (s.satInc R.SEC_FAIL_OWN 1)
      [(R.SEC_FAIL_OWN, satAdd R.SEC_FAIL_OWN.w (s.get R.SEC_FAIL_OWN) 1 % 2 ^ R.SEC_FAIL_OWN.w)] := by
    rw [hset]
    exact After.one (Nat.mod_lt _ (Nat.two_pow_pos _)) (plain_devFld (by decide) (by decide) (by decide))
  have hfail : After s (ownFail { s with sec := { s.sec with begun := n } }) _ :=
    After.congr (v := s.satInc R.SEC_FAIL_OWN 1) rfl rfl hcount
  have hkeys : R.SEC_FAIL_OWN.key ≠ R.SEC_CMD_STAT_STATE.key ∧ R.SEC_FAIL_OWN.key ≠ R.SEC_CMD_STAT_RESULT.key ∧
      R.SEC_FAIL_OWN.key ≠ (R.IRQ_RAW_RAW (dev .sec) 0).key := by decide
  exact (hfail.secEnd (by decide) (List.forall_mem_singleton.mpr hkeys)).effect hx (State.irq_core ..)

theorem ownFinish_done (hx : exec .secCmdDone s = done (ownFinishRun s)) :
    (s.sec.begun = none ∨ s.ownerKey = none ∨ s.fuses.life ≠ 2 → Effect .secCmdDone s (s.secAfter 1) s.secIdle) ∧
    ∀ n priv key, s.sec.begun = some (n, priv) → s.ownerKey = some key → s.fuses.life = 2 →
      let good := ecdsaVerify key (sha (ascii "LN3280-OWN" ++ s.idBytes ++ toBytesBE 48 n ++
        toBytesBE 96 (publicKey priv) ++ bufBytes s 0 96)) (ofBytesBE (bufBytes s 96 96))
      (good = true → SecOk s fun t => t.getB R.SEC_STAT_OWN_SESSION = true ∧ t.get R.MGT_OWNER_CTR_COUNT = 1 ∧
        t.sec.begun = none ∧ t.sec.fails = 0 ∧ t.sec.backoff = false ∧
        t.sec.key = hkdf (toBytesBE 48 (ecdh priv (ofBytesBE (bufBytes s 0 96)))) (toBytesBE 48 n)
          (ascii "LN3280 owner write") 32) ∧
      (good = false → Effect .secCmdDone s
        (s.secAfter 3 ++ [(R.SEC_FAIL_OWN, satAdd R.SEC_FAIL_OWN.w (s.get R.SEC_FAIL_OWN) 1 % 2 ^ R.SEC_FAIL_OWN.w)])
        { s.secIdle with sec := { s.secIdle.sec with
            begun := none, fails := s.sec.fails + 1, backoff := s.sec.backoff || 4 ≤ s.sec.fails + 1 } }) := by
  unfold ownFinishRun at hx
  refine ⟨fun hnone => ?_, fun n priv key hbegun hkey hlife => ?_⟩
  · refine secEnd_effect (hx.trans (congrArg done ?_)) (by decide)
    split
    next hbegun hkey =>
      have hlife : s.fuses.life ≠ 2 := (hnone.resolve_left (by simp [hbegun])).resolve_left (by simp [hkey])
      exact if_pos (by simpa using hlife)
    · rfl
  · rw [hbegun, hkey] at hx
    dsimp only at hx
    rw [if_neg (by simp [hlife])] at hx
    intro good
    refine ⟨fun hgood => ?_, fun hbad => ?_⟩
    · have hx := hx.trans (congrArg done (if_pos hgood))
      obtain ⟨hup, hctr, hsec⟩ := ownUp_facts (s := { s with sec := { s.sec with begun := none } }) n priv
      refine secEnd_ends hx ⟨?_, ?_, ?_⟩
      · exact (secEnd_getB 0 (by decide)).trans hup
      · exact (secEnd_get 0 (by decide)).trans hctr
      · rw [settle_sec, secEnd_sec, hsec]
        exact ⟨rfl, rfl, rfl, rfl⟩
    · have hbad : ¬ good = true := by simp [hbad]
      exact ownFail_effect (hx.trans (congrArg done (if_neg hbad)))

theorem ownEndRun_done (hx : exec .secCmdDone s = done (ownEndRun s)) :
    if s.sec.owner = false then Effect .secCmdDone s (s.secAfter 2) s.secIdle
    else if s.getB R.SEC_STAT_OWN_SESSION = false then Effect .secCmdDone s (s.secAfter 0) s.secIdle
    else Effect .secCmdDone s (s.secAfter 0 ++ [s.irqAfter (dev .sec) 1, (R.SEC_STAT_OWN_SESSION, 0)])
      { s.secIdle with sec := { s.secIdle.sec with key := 0 } } := by
  unfold ownEndRun at hx
  split
  next hplain => exact secEnd_effect (hx.trans (congrArg done (if_neg (by simp [hplain])))) (by decide)
  next howner =>
    rw [if_pos (by simpa using howner)] at hx
    split
    next hdown =>
      rw [ownEnd_of_down 1 hdown] at hx
      exact secEnd_effect hx (by decide)
    next hup =>
      have hup : s.getB R.SEC_STAT_OWN_SESSION = true := by simpa using hup
      have hended : After s (ownEnd 1 s) [s.irqAfter (dev .sec) 1, (R.SEC_STAT_OWN_SESSION, 0)] :=
        ownEnd_after After.nil hup (List.forall_mem_nil _)
      refine (hended.secEnd (by decide) ?_).effect hx ?_
      · have hirq : (R.IRQ_RAW_RAW (dev .sec) 1).key ≠ R.SEC_CMD_STAT_STATE.key ∧
            (R.IRQ_RAW_RAW (dev .sec) 1).key ≠ R.SEC_CMD_STAT_RESULT.key ∧
            (R.IRQ_RAW_RAW (dev .sec) 1).key ≠ (R.IRQ_RAW_RAW (dev .sec) 0).key := by decide
        exact List.forall_mem_cons.mpr ⟨hirq, List.forall_mem_singleton.mpr (by decide)⟩
      · rw [ownEnd_of_up 1 hup]
        have hcore : (s.sessionless.irq secBlk 1).core = s.sessionless.core := State.irq_core ..
        exact (secEnd_core 0).trans (congrArg State.secIdle hcore)
end

/-! #### Ownership (R475) -/

section
variable {s : State}

theorem settle_secEnd_getB {f : Fld} (r : Nat) (hf : f ∈ controlFields) : (settle (secEnd r s)).getB f = s.getB f :=
  (settle_getB ..).trans (secEnd_getB r hf)

theorem settle_secEnd_get {f : Fld} (r : Nat) (hf : f ∈ controlFields) : (settle (secEnd r s)).get f = s.get f :=
  (settle_get ..).trans (secEnd_get r hf)

theorem settle_secEnd_nonce (r : Nat) : (settle (secEnd r s)).sec.nonce = s.sec.nonce := by
  rw [settle_sec, secEnd_sec]

theorem settle_secEnd_scope (r : Nat) : (settle (secEnd r s)).sec.scope = s.sec.scope := by
  rw [settle_sec, secEnd_sec]

/-- The nonce in use is spent. -/
def State.nonceSpent (s : State) : State := { s with sec := { s.sec with nonce := none } }

/-- A command that has used up the nonce and fails ends with its result alone. -/
theorem spent_effect {r : Nat} (hx : exec .secCmdDone s = done (secEnd r s.nonceSpent)) (hr : r < 256) :
    Effect .secCmdDone s (s.secAfter r) s.secIdle.nonceSpent :=
  have hspent : After s s.nonceSpent [] := After.congr (v := s) rfl rfl After.nil
  (hspent.secEnd hr (List.forall_mem_nil _)).effect hx (State.irq_core ..)

/-- The fuses with the next owner slot programmed. -/
def State.ownerFuses (s : State) (take : Bool) : Fuses :=
  let f := { s.fuses with owners := s.fuses.owners ++ [ofBytesBE (bufBytes s 0 96)], life := 2 }
  match take, s.fuses.ownerSlot with
  | false, some n => { f with revoked := orBits 4 f.revoked (2 ^ n) }
  | _, _ => f

theorem State.ownerFuses_slot (take : Bool) :
    (s.ownerFuses take).owners = s.fuses.owners ++ [ofBytesBE (bufBytes s 0 96)] ∧ (s.ownerFuses take).life = 2 := by
  unfold State.ownerFuses
  split <;> exact ⟨rfl, rfl⟩

theorem State.ownerFuses_revoked {m : Nat} (h : s.fuses.ownerSlot = some m) :
    (s.ownerFuses false).revoked = orBits 4 s.fuses.revoked (2 ^ m) := by
  unfold State.ownerFuses
  rw [h]

/-- The next owner slot is programmed and reported. -/
def State.ownerSlotted (s : State) (take : Bool) : State :=
  secEvent 0x16 s.fuses.owners.length (storePut { s with fuses := s.ownerFuses take })

theorem control_ownerSlotted (take : Bool) :
    (s.ownerSlotted take).control = { s with fuses := s.ownerFuses take }.control :=
  control_secEvent.trans control_storePut

theorem control_ownerProgram (take : Bool) : (ownerProgram take s).control =
    (if take then secEvent 0x1C 2 (s.ownerSlotted take) else ownEnd 7 (s.ownerSlotted take)).control :=
  control_commitTrigger (s := if take then secEvent 0x1C 2 (s.ownerSlotted take) else ownEnd 7 (s.ownerSlotted take))

theorem ownerProgram_fuses (take : Bool) : (ownerProgram take s).fuses = s.ownerFuses take ∧
    (ownerProgram take s).sec.nonce = s.sec.nonce := by
  have hslotted := control_ownerSlotted (s := s) take
  have hfuses : (s.ownerSlotted take).fuses = s.ownerFuses take := State.fuses_of_control hslotted
  have hnonce : (s.ownerSlotted take).sec.nonce = s.sec.nonce := congrArg (fun c : Control => c.sec.nonce) hslotted
  rw [State.fuses_of_control (control_ownerProgram take), State.sec_of_control (control_ownerProgram take)]
  cases take with
  | true =>
    have hevent : (secEvent 0x1C 2 (s.ownerSlotted true)).control = (s.ownerSlotted true).control := control_secEvent
    exact ⟨(State.fuses_of_control hevent).trans hfuses,
      (congrArg SecInt.nonce (State.sec_of_control hevent)).trans hnonce⟩
  | false =>
    obtain ⟨hsec, hkept⟩ := ownEnd_sec (s := s.ownerSlotted false) 7
    exact ⟨hkept.trans hfuses, (congrArg SecInt.nonce hsec).trans hnonce⟩

theorem ownerProgram_transfer_session : (ownerProgram false s).getB R.SEC_STAT_OWN_SESSION = false :=
  (State.getB_of_control (control_ownerProgram false) (by decide)).trans (ownEnd_session 7)

/-- What TAKE_OWNERSHIP and TRANSFER sign: the text, the device and the nonce. -/
def State.takeGood (s : State) (n : Nat) : Bool :=
  ecdsaVerify (ofBytesBE (bufBytes s 0 96)) (sha (ascii "LN3280-TAKE" ++ s.idBytes ++ toBytesBE 32 n))
    (ofBytesBE (bufBytes s 96 96))

theorem ownershipRun_nonce {take : Bool} {n : Nat} (howner : ¬ (!take && !s.sec.owner) = true)
    (hlife : s.fuses.life = if take then 1 else 2) (hn : s.sec.nonce = some n) : ownershipRun take s =
      if !s.takeGood n then secEnd 3 s.nonceSpent
      else if 4 ≤ s.fuses.owners.length then secEnd 4 s.nonceSpent
      else secEnd 0 (ownerProgram take s.nonceSpent) := by
  unfold ownershipRun
  rw [if_neg howner, if_neg (by simp [hlife]), hn]
  rfl

theorem ownershipRun_done {take : Bool} (hx : exec .secCmdDone s = done (ownershipRun take s)) :
    if take = false ∧ s.sec.owner = false then Effect .secCmdDone s (s.secAfter 2) s.secIdle
    else if s.fuses.life ≠ (if take then 1 else 2) ∨ s.sec.nonce = none then
      Effect .secCmdDone s (s.secAfter 1) s.secIdle
    else ∀ n, s.sec.nonce = some n →
      if s.takeGood n = false then
        Effect .secCmdDone s (s.secAfter 3) s.secIdle.nonceSpent
      else if 4 ≤ s.fuses.owners.length then
        Effect .secCmdDone s (s.secAfter 4) s.secIdle.nonceSpent
      else SecOk s fun t => t.fuses.owners = s.fuses.owners ++ [ofBytesBE (bufBytes s 0 96)] ∧ t.fuses.life = 2 ∧
        t.sec.nonce = none ∧ (take = false → t.getB R.SEC_STAT_OWN_SESSION = false ∧
          ∀ m, s.fuses.ownerSlot = some m → t.fuses.revoked = orBits 4 s.fuses.revoked (2 ^ m)) := by
  split
  next hplain =>
    refine secEnd_effect (hx.trans (congrArg done ?_)) (by decide)
    exact if_pos (by simpa using hplain)
  next howner =>
    have howner : ¬ (!take && !s.sec.owner) = true := by simpa using howner
    by_cases hstate : s.fuses.life ≠ (if take then 1 else 2) ∨ s.sec.nonce = none
    · rw [if_pos hstate]
      refine secEnd_effect (hx.trans (congrArg done ?_)) (by decide)
      unfold ownershipRun
      rw [if_neg howner]
      by_cases hlife : s.fuses.life = if take then 1 else 2
      · rw [hstate.resolve_left (by simp [hlife])]
        exact ite_self _
      · exact if_pos (by simpa using hlife)
    · obtain ⟨hlife, -⟩ := not_or.mp hstate
      rw [if_neg hstate]
      intro n hn
      rw [ownershipRun_nonce howner (by simpa using hlife) hn] at hx
      by_cases hgood : s.takeGood n = false
      · rw [if_pos hgood]
        exact spent_effect (hx.trans (congrArg done (if_pos (by simp [hgood])))) (by decide)
      · rw [if_neg hgood]
        rw [if_neg (by simpa using hgood)] at hx
        split
        next hfull => exact spent_effect (hx.trans (congrArg done (if_pos hfull))) (by decide)
        next hroom =>
          rw [if_neg hroom] at hx
          obtain ⟨hfuses, hnonce⟩ := ownerProgram_fuses (s := s.nonceSpent) take
          obtain ⟨hslots, hlife⟩ := State.ownerFuses_slot (s := s.nonceSpent) take
          refine secEnd_ends hx ?_
          rw [settle_sec, secEnd_sec, settle_fuses, secEnd_fuses, hfuses]
          refine ⟨hslots, hlife, hnonce, ?_⟩
          rintro rfl
          exact ⟨(settle_secEnd_getB 0 (by decide)).trans ownerProgram_transfer_session,
            fun m hm => State.ownerFuses_revoked hm⟩

/-! #### Tokens (R481 to R483) -/

/-- What the opening of debug with the end of the owner session leaves (R482). -/
theorem debugOpened_facts {t u : State} {scope code : Nat} (h : t.control = (ownEnd code (debugOpen scope u)).control) :
    t.getB R.SEC_LIFE_DEBUG = true ∧ t.getB R.SEC_STAT_OWN_SESSION = false ∧ t.sec.nonce = u.sec.nonce ∧
    t.sec.scope = orBits 2 u.sec.scope scope ∧ t.fuses = u.fuses := by
  obtain ⟨hended, hfuses⟩ := ownEnd_sec (s := debugOpen scope u) code
  have hnonce : (ownEnd code (debugOpen scope u)).sec.nonce = u.sec.nonce := by rw [hended]; rfl
  have hscope : (ownEnd code (debugOpen scope u)).sec.scope = orBits 2 u.sec.scope scope := by rw [hended]; rfl
  have hsec : t.sec = (ownEnd code (debugOpen scope u)).sec := State.sec_of_control h
  refine ⟨?_, ?_, ?_, ?_, (State.fuses_of_control h).trans hfuses⟩
  · rw [State.getB_of_control h (by decide), ownEnd_getB_control code (by decide) (by decide)]
    exact State.getB_setB_same (s := u) (f := R.SEC_LIFE_DEBUG) true (by decide)
  · exact (State.getB_of_control h (by decide)).trans (ownEnd_session code)
  · exact (congrArg SecInt.nonce hsec).trans hnonce
  · exact (congrArg SecInt.scope hsec).trans hscope

theorem debugUnlocked_facts : (debugUnlocked s).getB R.SEC_LIFE_DEBUG = true ∧
    (debugUnlocked s).getB R.SEC_STAT_OWN_SESSION = false ∧ (debugUnlocked s).sec.nonce = s.sec.nonce ∧
    (debugUnlocked s).sec.scope = orBits 2 s.sec.scope (tokenScope s) ∧ (debugUnlocked s).fuses = s.fuses :=
  debugOpened_facts (code := 4) (by rw [debugUnlocked, control_commitTrigger, control_secEvent, control_peersEnd])

/-- The state of RMA is fused and both copies of the security store are erased, before debug opens. -/
def State.rmaFused (s : State) : State :=
  let x := storeErased s
  { s.draw.draw with
    fuses := { s.fuses with
      life := 3, identity := false, chain1 := [], fwSvn := x.fwSvn, profileSvn := x.profileSvn }
    store := { s.store with
      kept := { s.store.kept with store := x }
      slot := s.store.slot.filter (·.writer != 2), jobs := s.store.jobs.filter (·.writer != 2) } }

theorem rmaDone_eq :
    rmaDone s = commitTrigger 4 (secEvent 0x1C 3 (peersEnd (ownEnd 5 (debugOpen 3 s.rmaFused)))) := (rfl)

theorem rmaDone_facts : (rmaDone s).fuses.life = 3 ∧ (rmaDone s).fuses.identity = false ∧
    (rmaDone s).getB R.SEC_LIFE_DEBUG = true ∧ (rmaDone s).getB R.SEC_STAT_OWN_SESSION = false := by
  have hc : (rmaDone s).control = (ownEnd 5 (debugOpen 3 s.rmaFused)).control := by
    rw [rmaDone_eq, control_commitTrigger, control_secEvent, control_peersEnd]
  obtain ⟨hdebug, hsession, -, -, hfuses⟩ := debugOpened_facts hc
  rw [hfuses]
  exact ⟨rfl, rfl, hdebug, hsession⟩

/-- A token command in a lifecycle state that takes it: no nonce, a token that is not good, or its work. -/
theorem tokenRun_done {kind : Nat} {accept : State → State} {P : State → Prop}
    (hx : exec .secCmdDone s = done (tokenRun kind accept s)) (hP : P (settle (secEnd 0 (accept s.nonceSpent)))) :
    if s.sec.nonce = none then Effect .secCmdDone s (s.secAfter 1) s.secIdle
    else ∀ n, s.sec.nonce = some n → if tokenGood kind n s = false then
      Effect .secCmdDone s (s.secAfter 3) s.secIdle.nonceSpent
      else SecOk s P := by
  unfold tokenRun at hx
  split
  next hnone =>
    rw [hnone] at hx
    exact secEnd_effect hx (by decide)
  next =>
    intro n hn
    rw [hn] at hx
    have hgood : tokenGood kind n s.nonceSpent = tokenGood kind n s := rfl
    split
    next hbad =>
      have hbad : ¬ tokenGood kind n s.nonceSpent = true := by simp [hgood, hbad]
      have hx := hx.trans (congrArg done (if_neg hbad))
      have hspent : After s s.nonceSpent [] := After.congr (v := s) rfl rfl After.nil
      exact (hspent.event.secEnd (by decide) (List.forall_mem_nil _)).effect hx (State.irq_core ..)
    next hok =>
      have hok : tokenGood kind n s.nonceSpent = true := by simpa [hgood] using hok
      exact secEnd_ends (hx.trans (congrArg done (if_pos hok))) hP

theorem debugUnlockRun_done (hx : exec .secCmdDone s = done (debugUnlockRun s)) :
    if (s.fuses.life ≠ 1 ∧ s.fuses.life ≠ 2) ∨ s.sec.nonce = none then
      Effect .secCmdDone s (s.secAfter 1) s.secIdle
    else ∀ n, s.sec.nonce = some n → if tokenGood 3 n s = false then
      Effect .secCmdDone s (s.secAfter 3) s.secIdle.nonceSpent
      else SecOk s fun t => t.getB R.SEC_LIFE_DEBUG = true ∧ t.getB R.SEC_STAT_OWN_SESSION = false ∧
        t.sec.nonce = none ∧ t.sec.scope = orBits 2 s.sec.scope (tokenScope s) := by
  unfold debugUnlockRun at hx
  by_cases hlife : s.fuses.life ≠ 1 ∧ s.fuses.life ≠ 2
  · rw [if_pos (by simpa using hlife)] at hx
    rw [if_pos (Or.inl hlife)]
    exact secEnd_effect hx (by decide)
  · rw [if_neg (by simpa using hlife)] at hx
    simp only [hlife, false_or]
    obtain ⟨hdebug, hsession, hnonce, hscope, -⟩ := debugUnlocked_facts (s := s.nonceSpent)
    refine tokenRun_done hx ⟨?_, ?_, ?_⟩
    · exact (settle_secEnd_getB 0 (by decide)).trans hdebug
    · exact (settle_secEnd_getB 0 (by decide)).trans hsession
    · have hsame : tokenScope s.nonceSpent = tokenScope s := rfl
      rw [hsame] at hscope
      exact ⟨(settle_secEnd_nonce 0).trans hnonce, (settle_secEnd_scope 0).trans hscope⟩

theorem rmaRun_done (hx : exec .secCmdDone s = done (rmaRun s)) :
    if s.fuses.life = 2 ∧ s.sec.owner = false then Effect .secCmdDone s (s.secAfter 2) s.secIdle
    else if (s.fuses.life ≠ 1 ∧ s.fuses.life ≠ 2) ∨ s.sec.nonce = none then
      Effect .secCmdDone s (s.secAfter 1) s.secIdle
    else ∀ n, s.sec.nonce = some n → if tokenGood 4 n s = false then
      Effect .secCmdDone s (s.secAfter 3) s.secIdle.nonceSpent
      else SecOk s fun t => t.fuses.life = 3 ∧ t.fuses.identity = false ∧ t.getB R.SEC_LIFE_DEBUG = true ∧
        t.getB R.SEC_STAT_OWN_SESSION = false := by
  unfold rmaRun at hx
  split
  next hplain => exact secEnd_effect (hx.trans (congrArg done (if_pos (by simpa using hplain)))) (by decide)
  next howner =>
    rw [if_neg (by simpa using howner)] at hx
    by_cases hlife : s.fuses.life ≠ 1 ∧ s.fuses.life ≠ 2
    · rw [if_pos (by simpa using hlife)] at hx
      rw [if_pos (Or.inl hlife)]
      exact secEnd_effect hx (by decide)
    · rw [if_neg (by simpa using hlife)] at hx
      simp only [hlife, false_or]
      obtain ⟨hfused, hidentity, hdebug, hsession⟩ := rmaDone_facts (s := s.nonceSpent)
      refine tokenRun_done hx ?_
      rw [settle_fuses, secEnd_fuses]
      exact ⟨hfused, hidentity, (settle_secEnd_getB 0 (by decide)).trans hdebug,
        (settle_secEnd_getB 0 (by decide)).trans hsession⟩

/-! #### DECOMMISSION (R459, R483) -/

/-- Debug is closed, and the owner session and the peer sessions have ended. -/
def State.debugEnded (s : State) : State := peersEnd (ownEnd 6 (debugClose s))

/-- The state of DECOMMISSION is fused and Granary erased. -/
def State.lifeEnded (s : State) : State :=
  granaryErase { s with fuses := { s.fuses with life := 4, identity := false, kek := false } }

theorem decommissioned_eq : decommissioned s = mgmtOnly false (s.debugEnded.lifeEnded.free 4)
    (commitTrigger 4 (secEvent 0x1C 4 s.debugEnded.lifeEnded.draw)) := by
  unfold decommissioned State.lifeEnded State.debugEnded
  rfl

theorem State.debugEnded_debug : s.debugEnded.getB R.SEC_LIFE_DEBUG = false := by
  have hc : s.debugEnded.control = (ownEnd 6 (debugClose s)).control := control_peersEnd
  rw [State.getB_of_control hc (by decide), ownEnd_getB_control 6 (by decide) (by decide)]
  exact State.getB_setB_same (s := s) (f := R.SEC_LIFE_DEBUG) false (by decide)

theorem State.lifeEnded_getB (f : Fld) : s.lifeEnded.getB f = s.getB f := (rfl)

theorem State.lifeEnded_fuses :
    s.lifeEnded.fuses.life = 4 ∧ s.lifeEnded.fuses.kek = false ∧ s.lifeEnded.fuses.identity = false := ⟨rfl, rfl, rfl⟩

theorem decommissioned_facts : (decommissioned s).fuses.life = 4 ∧ (decommissioned s).fuses.kek = false ∧
    (decommissioned s).fuses.identity = false ∧ (decommissioned s).getB R.SEC_LIFE_DEBUG = false ∧
    (decommissioned s).phase = 9 := by
  have hreported : (commitTrigger 4 (secEvent 0x1C 4 s.debugEnded.lifeEnded.draw)).control =
      s.debugEnded.lifeEnded.control := by
    rw [control_commitTrigger, control_secEvent, control_draw]
  obtain ⟨hlife, hkek, hidentity⟩ := State.lifeEnded_fuses (s := s.debugEnded)
  have hdebug : s.debugEnded.lifeEnded.getB R.SEC_LIFE_DEBUG = false :=
    (State.lifeEnded_getB _).trans State.debugEnded_debug
  rw [decommissioned_eq, (mgmtOnly_sec _ _).2, State.fuses_of_control hreported]
  refine ⟨hlife, hkek, hidentity, ?_, mgmtOnly_phase ..⟩
  exact (congrArg (· != 0) (mgmtOnly_get (by decide) (by decide))).trans <|
    (State.getB_of_control hreported (by decide)).trans hdebug

theorem decommissionRun_done (hx : exec .secCmdDone s = done (decommissionRun s)) :
    if s.fuses.life = 2 ∧ s.sec.owner = false then Effect .secCmdDone s (s.secAfter 2) s.secIdle
    else if s.fuses.life = 0 ∨ s.fuses.life = 4 then Effect .secCmdDone s (s.secAfter 1) s.secIdle
    else if bufBytes s 0 4 ≠ [0x44, 0x45, 0x43, 0x4D] then Effect .secCmdDone s (s.secAfter 3) s.secIdle
    else SecOk s fun t => t.fuses.life = 4 ∧ t.fuses.kek = false ∧ t.fuses.identity = false ∧
      t.getB R.SEC_LIFE_DEBUG = false ∧ t.phase = 9 := by
  unfold decommissionRun at hx
  split
  next hplain => exact secEnd_effect (hx.trans (congrArg done (if_pos (by simpa using hplain)))) (by decide)
  next howner =>
    rw [if_neg (by simpa using howner)] at hx
    split
    next hlife => exact secEnd_effect (hx.trans (congrArg done (if_pos (by simpa using hlife)))) (by decide)
    next hlife =>
      rw [if_neg (by simpa using hlife)] at hx
      split
      next htext => exact secEnd_effect (hx.trans (congrArg done (if_pos (by simpa using htext)))) (by decide)
      next htext =>
        rw [if_neg (by simpa using htext)] at hx
        obtain ⟨hfused, hkek, hidentity, hdebug, hphase⟩ := decommissioned_facts (s := s)
        refine secEnd_ends hx ?_
        rw [settle_fuses, secEnd_fuses]
        exact ⟨hfused, hkek, hidentity, (settle_secEnd_getB 0 (by decide)).trans hdebug,
          (settle_secEnd_get 0 (by decide)).trans hphase⟩
end

/-! #### O57 -/

/-- The nine commands that make SEC BUSY, by their codes. -/
theorem secStarts_effect (s : State) (owner : Bool) :
    ∀ p ∈ [(1, Instr.nonce owner), (2, .ownBegin owner), (3, .ownFinish owner), (4, .ownEnd owner),
      (5, .takeOwnership owner), (6, .transfer owner), (7, .debugUnlock owner), (8, .rma owner),
      (9, .decommission owner)],
    if s.get R.SEC_CMD_STAT_STATE = 1 then Effect p.2 s [(R.BLK_STAT_CONFLICT (dev .sec), 1)] s
    else Effect p.2 s [(R.SEC_CMD_STAT_STATE, 1)] { s with sec := { s.sec with op := p.1, owner := owner } } := by
  have hstart (op : Nat) (c : Instr) (hx : exec c s = done (secStart op owner s)) :
      if s.get R.SEC_CMD_STAT_STATE = 1 then Effect c s [(R.BLK_STAT_CONFLICT (dev .sec), 1)] s
      else Effect c s [(R.SEC_CMD_STAT_STATE, 1)] { s with sec := { s.sec with op := op, owner := owner } } :=
    secStart_effect hx
  simp only [List.forall_mem_cons]
  exact ⟨hstart 1 _ rfl, hstart 2 _ rfl, hstart 3 _ rfl, hstart 4 _ rfl, hstart 5 _ rfl, hstart 6 _ rfl, hstart 7 _ rfl,
    hstart 8 _ rfl, hstart 9 _ rfl, List.forall_mem_nil _⟩

section
variable {s : State}

/-- TAKE_OWNERSHIP and TRANSFER, told apart by the code in progress. -/
theorem ownership_done (h : s.get R.SEC_CMD_STAT_STATE = 1) (hl : s.getB R.SEC_STAT_LOCKDOWN = false)
    (hop : s.sec.op = 5 ∨ s.sec.op = 6) :
    if s.sec.op = 6 ∧ s.sec.owner = false then Effect .secCmdDone s (s.secAfter 2) s.secIdle
    else if s.fuses.life ≠ (if s.sec.op = 5 then 1 else 2) ∨ s.sec.nonce = none then
      Effect .secCmdDone s (s.secAfter 1) s.secIdle
    else ∀ n, s.sec.nonce = some n →
      if s.takeGood n = false then Effect .secCmdDone s (s.secAfter 3) s.secIdle.nonceSpent
      else if 4 ≤ s.fuses.owners.length then Effect .secCmdDone s (s.secAfter 4) s.secIdle.nonceSpent
      else SecOk s fun t => t.fuses.owners = s.fuses.owners ++ [ofBytesBE (bufBytes s 0 96)] ∧ t.fuses.life = 2 ∧
        t.sec.nonce = none ∧ (s.sec.op = 6 → t.getB R.SEC_STAT_OWN_SESSION = false ∧
          ∀ m, s.fuses.ownerSlot = some m → t.fuses.revoked = orBits 4 s.fuses.revoked (2 ^ m)) := by
  rcases hop with hop | hop
  · simpa [hop] using ownershipRun_done (exec_secCmdDone h hl hop)
  · simpa [hop] using ownershipRun_done (exec_secCmdDone h hl hop)
end

/-- Settles O57: each command by its case of the refusals and of its own outcome. -/
theorem securityCommands : Obligations.SecurityCommands := by
  unfold Obligations.SecurityCommands
  intro s
  have hnonce (owner : Bool) : Runs (.nonce owner) s (secStart 1 owner s) := rfl
  have hbegin (owner : Bool) : Runs (.ownBegin owner) s (secStart 2 owner s) := rfl
  have hfinish (owner : Bool) : Runs (.ownFinish owner) s (secStart 3 owner s) := rfl
  have hend (owner : Bool) : Runs (.ownEnd owner) s (secStart 4 owner s) := rfl
  have htake (owner : Bool) : Runs (.takeOwnership owner) s (secStart 5 owner s) := rfl
  have htransfer (owner : Bool) : Runs (.transfer owner) s (secStart 6 owner s) := rfl
  have hunlock (owner : Bool) : Runs (.debugUnlock owner) s (secStart 7 owner s) := rfl
  have hrma (owner : Bool) : Runs (.rma owner) s (secStart 8 owner s) := rfl
  have hdecommission (owner : Bool) : Runs (.decommission owner) s (secStart 9 owner s) := rfl
  have hlockdown (owner : Bool) : Runs (.lockdown owner) s (lockdownOp owner s) := rfl
  have hdone : Runs .secCmdDone s (secCmdDoneOp s) := rfl
  have hidle : Runs .ownIdleTimeout s (ownIdleTimeoutOp s) := rfl
  have htamper (cause : Fin 5) : Runs (.tamper cause) s (tamperOp cause.val s) := rfl
  refine ⟨hnonce, hbegin, hfinish, hend, htake, htransfer, hunlock, hrma, hdecommission, hlockdown, hdone, hidle,
    htamper, secStarts_effect s, lockdown_effect, secCmdDone_idle s, secCmdDone_locked s, ?_, ownIdleTimeout_effect,
    tamper_effect⟩
  intro h hl ended ok spent
  exact ⟨fun hop => nonce_done (exec_secCmdDone h hl hop), fun hop => ownBegin_done (exec_secCmdDone h hl hop),
    fun hop => ownFinish_done (exec_secCmdDone h hl hop), fun hop => ownEndRun_done (exec_secCmdDone h hl hop),
    ownership_done h hl, fun hop => debugUnlockRun_done (exec_secCmdDone h hl hop),
    fun hop => rmaRun_done (exec_secCmdDone h hl hop), fun hop => decommissionRun_done (exec_secCmdDone h hl hop)⟩

end Sys2Proof.Machine
end

section
/-!
PROOF. Start-up: verification of the image, the ends of the phases, and firmware that runs again (R394 to R407).
-/

namespace Sys2Proof.Machine

open Sys2Proof

/-! ### Verification of the image (R402, R404) -/

section
variable {s : State} {f : Fld}

/-- Management-only service with its cause. -/
theorem enterMgmtOnly_facts {err : Nat} (h : s.phase ≠ 9) (he : err < 16) :
    (enterMgmtOnly err s).phase = 9 ∧ (enterMgmtOnly err s).get R.RST_BOOT_STAT_ERROR = err :=
  ⟨mgmtOnly_phase _ _, mgmtOnly_error h he⟩

theorem set_phase_get {p : Nat} (hp : p < 16) : (s.set R.RST_STAT_PHASE p).phase = p :=
  (State.get_set_same ..).trans (Nat.mod_eq_of_lt hp)

theorem setPhase_phase {p : Nat} (hp : p < 16) : (setPhase p s).phase = p := set_phase_get (s := s) hp

theorem control_firmwareRejected {bank : Nat} : (firmwareRejected bank s).control = s.control := by
  rw [firmwareRejected, control_commitTrigger, control_secEvent]

theorem control_imageRejected : (imageRejected s).control = s.control := by
  rw [imageRejected, control_firmwareRejected, control_draw]

theorem control_enterMarch : (enterMarch s).control = (s.set R.RST_STAT_PHASE 5).control := by
  unfold enterMarch
  rw [control_loadSlices, control_loadSlices, control_setPhase]
  refine control_set_congr _ ?_
  refine (control_setB (outside_of_key (by decide))).trans ((control_set (outside_of_key (by decide))).trans ?_)
  exact control_foldl fun _ _ _ => control_blockFollow

/-- Checkers that are not tested, or gave no result, fail no memory. -/
theorem marchBegin_nil (h : s.phase ≠ 9) : marchBegin [] s = enterMarch s := by
  have hnone : checkersTest (if s.get R.RST_STRAP_BOOT < 2 then [] else []) s = s := by rw [ite_self]; rfl
  unfold marchBegin
  dsimp only
  rw [hnone, if_neg h]

theorem control_bootVerified (h : s.phase ≠ 9) : (bootVerified [] s).control =
    (s.set R.RST_STAT_PHASE (if s.getB R.TST_CFG_LBIST_BOOT = true then 4 else 5)).control := by
  unfold bootVerified
  split
  · exact control_setPhase.trans (control_set_congr _ (control_setB (outside_of_key (by decide))))
  · rw [marchBegin_nil h, control_enterMarch]

theorem bootVerified_phase (h : s.phase ≠ 9) :
    (bootVerified [] s).phase = if s.getB R.TST_CFG_LBIST_BOOT = true then 4 else 5 :=
  (State.get_of_control (control_bootVerified h) (by decide)).trans (set_phase_get (by split <;> decide))

theorem bootVerified_get (h : s.phase ≠ 9) (hf : f ∈ controlFields) (hne : R.RST_STAT_PHASE.key ≠ f.key) :
    (bootVerified [] s).get f = s.get f :=
  (State.get_of_control (control_bootVerified h) hf).trans (State.get_set_ne _ _ hne)

/-- The other bank is looked at: the first one's failure is noted (R404). -/
def State.bankFallen (s : State) : State :=
  ((firmwareRejected s.boot.bank s).set R.RST_BOOT_STAT_ERROR (1 + s.boot.bank)).setB R.RST_STAT_BANK_FALLBACK true

theorem bankFallen_fallback : s.bankFallen.getB R.RST_STAT_BANK_FALLBACK = true :=
  State.getB_setB_same (f := R.RST_STAT_BANK_FALLBACK) true (by decide)

theorem bankFallen_error (h : s.boot.bank < 2) : s.bankFallen.get R.RST_BOOT_STAT_ERROR = 1 + s.boot.bank := by
  unfold State.bankFallen State.setB
  rw [State.get_set_ne _ _ (by decide), State.get_set_same]
  exact Nat.mod_eq_of_lt (by show 1 + s.boot.bank < 16; omega)

theorem bankFallen_get (hf : f ∈ controlFields) (herror : R.RST_BOOT_STAT_ERROR.key ≠ f.key)
    (hfallback : R.RST_STAT_BANK_FALLBACK.key ≠ f.key) : s.bankFallen.get f = s.get f :=
  (State.get_set_ne _ _ hfallback).trans <|
    (State.get_set_ne _ _ herror).trans (State.get_of_control control_firmwareRejected hf)

/-- An image has been taken from a bank. -/
def State.bankTaken (s : State) (k : Nat) (b : BootInt) : State := { s.set R.FWC_STAT_BANK k with boot := b }

/-- Whether the image in a bank verifies (R404). -/
def State.bankGood (s : State) (n : Nat) : Bool := imageVerifies s (s.imageAt (bankBase n)) 1 bankLimit

theorem bankPick_eq : bankPick s =
    if s.bankGood s.boot.bank then
      (s.bankTaken s.boot.bank (bootOf s (s.imageAt (bankBase s.boot.bank)) true), true)
    else if s.bankGood (1 - s.boot.bank) then
      (s.bankFallen.bankTaken (1 - s.boot.bank) (bootOf s (s.imageAt (bankBase (1 - s.boot.bank))) false), true)
    else (firmwareRejected (1 - s.boot.bank) s.bankFallen, false) := (rfl)

theorem bankBoot_first (h : s.bankGood s.boot.bank = true) : bankBoot [] s =
    bootVerified [] (s.bankTaken s.boot.bank (bootOf s (s.imageAt (bankBase s.boot.bank)) true)) := by
  unfold bankBoot
  rw [bankPick_eq, if_pos h]
  rfl

theorem bankBoot_other (h : ¬ s.bankGood s.boot.bank = true) (ho : s.bankGood (1 - s.boot.bank) = true) :
    bankBoot [] s = bootVerified [] (s.bankFallen.bankTaken (1 - s.boot.bank)
      (bootOf s (s.imageAt (bankBase (1 - s.boot.bank))) false)) := by
  unfold bankBoot
  rw [bankPick_eq, if_neg h, if_pos ho]
  rfl

theorem bankBoot_none (h : ¬ s.bankGood s.boot.bank = true) (ho : ¬ s.bankGood (1 - s.boot.bank) = true) :
    bankBoot [] s = enterMgmtOnly 3 (firmwareRejected (1 - s.boot.bank) s.bankFallen) := by
  unfold bankBoot
  rw [bankPick_eq, if_neg h, if_neg ho]
  rfl

/-- The start-up goes on with the image of bank k. -/
theorem bankTaken_facts {k : Nat} {b : BootInt} (hp : s.phase ≠ 9) (hk : k < 2) :
    (bootVerified [] (s.bankTaken k b)).phase = (if s.getB R.TST_CFG_LBIST_BOOT = true then 4 else 5) ∧
    (bootVerified [] (s.bankTaken k b)).get R.FWC_STAT_BANK = k ∧
    ∀ f ∈ controlFields, R.RST_STAT_PHASE.key ≠ f.key → R.FWC_STAT_BANK.key ≠ f.key →
      (bootVerified [] (s.bankTaken k b)).get f = s.get f := by
  have hget (f : Fld) (hne : R.FWC_STAT_BANK.key ≠ f.key) : (s.bankTaken k b).get f = s.get f :=
    State.get_set_ne s k hne
  have hphase : (s.bankTaken k b).phase ≠ 9 := (hget _ (by decide)).trans_ne hp
  have hbank : (s.bankTaken k b).get R.FWC_STAT_BANK = k % 2 := State.get_set_same s _ k
  refine ⟨?_, ?_, fun f hf hne hb => (bootVerified_get hphase hf hne).trans (hget f hb)⟩
  · rw [bootVerified_phase hphase, State.getB, hget _ (by decide)]
    rfl
  · rw [bootVerified_get hphase (by decide) (by decide), hbank, Nat.mod_eq_of_lt hk]

/-- SECURE_BOOT from Granary: the bank of the boot record, else the other one, else management-only service. -/
theorem bankBoot_facts (hp : s.phase = 2) (hk : s.boot.bank < 2) :
    if s.bankGood s.boot.bank = true then
      (bankBoot [] s).phase = (if s.getB R.TST_CFG_LBIST_BOOT = true then 4 else 5) ∧
      (bankBoot [] s).get R.FWC_STAT_BANK = s.boot.bank ∧
      (bankBoot [] s).get R.RST_STAT_BANK_FALLBACK = s.get R.RST_STAT_BANK_FALLBACK
    else if s.bankGood (1 - s.boot.bank) = true then
      (bankBoot [] s).phase = (if s.getB R.TST_CFG_LBIST_BOOT = true then 4 else 5) ∧
      (bankBoot [] s).get R.FWC_STAT_BANK = 1 - s.boot.bank ∧ (bankBoot [] s).getB R.RST_STAT_BANK_FALLBACK = true ∧
      (bankBoot [] s).get R.RST_BOOT_STAT_ERROR = 1 + s.boot.bank
    else (bankBoot [] s).phase = 9 ∧ (bankBoot [] s).get R.RST_BOOT_STAT_ERROR = 3 ∧
      (bankBoot [] s).getB R.RST_STAT_BANK_FALLBACK = true := by
  have hphase : s.phase ≠ 9 := by omega
  have hfallen : s.bankFallen.phase ≠ 9 := (bankFallen_get (by decide) (by decide) (by decide)).trans_ne hphase
  split
  next hgood =>
    rw [bankBoot_first hgood]
    obtain ⟨hnext, hbank, hrest⟩ := bankTaken_facts (b := bootOf s (s.imageAt (bankBase s.boot.bank)) true) hphase hk
    exact ⟨hnext, hbank, hrest _ (by decide) (by decide) (by decide)⟩
  next hbad =>
    split
    next hother =>
      rw [bankBoot_other hbad hother]
      obtain ⟨hnext, hbank, hrest⟩ := bankTaken_facts (k := 1 - s.boot.bank)
        (b := bootOf s (s.imageAt (bankBase (1 - s.boot.bank))) false) hfallen (by omega)
      have hlbist : s.bankFallen.getB R.TST_CFG_LBIST_BOOT = s.getB R.TST_CFG_LBIST_BOOT :=
        congrArg (· != 0) (bankFallen_get (by decide) (by decide) (by decide))
      refine ⟨hnext.trans (by rw [hlbist]), hbank, ?_, ?_⟩
      · exact (congrArg (· != 0) (hrest _ (by decide) (by decide) (by decide))).trans bankFallen_fallback
      · exact (hrest _ (by decide) (by decide) (by decide)).trans (bankFallen_error hk)
    next hnone =>
      rw [bankBoot_none hbad hnone]
      have hc : (firmwareRejected (1 - s.boot.bank) s.bankFallen).control = s.bankFallen.control :=
        control_firmwareRejected
      have hrejected : (firmwareRejected (1 - s.boot.bank) s.bankFallen).phase ≠ 9 :=
        (State.get_of_control hc (by decide)).trans_ne hfallen
      obtain ⟨hnine, herror⟩ := enterMgmtOnly_facts (err := 3) hrejected (by decide)
      refine ⟨hnine, herror, ?_⟩
      exact (congrArg (· != 0) (mgmtOnly_get (by decide) (by decide))).trans <|
        (State.getB_of_control hc (by decide)).trans bankFallen_fallback

/-- The download window is closed, and start-up goes on with its image. -/
def State.windowClosed (s : State) : State :=
  { s.setB R.RST_BOOT_STAT_WINDOW false with boot := bootOf s (s.imageAt scratchBase) false }

theorem windowClosed_get (hne : R.RST_BOOT_STAT_WINDOW.key ≠ f.key) : s.windowClosed.get f = s.get f :=
  State.get_set_ne s 0 hne

theorem windowClosed_window : s.windowClosed.getB R.RST_BOOT_STAT_WINDOW = false :=
  State.getB_setB_same (s := s) (f := R.RST_BOOT_STAT_WINDOW) false (by decide)

theorem bootGoOp_eq : bootGoOp s =
    if (s.phase = 3 && s.getB R.RST_BOOT_STAT_WINDOW) = true then
      if imageVerifies s (s.imageAt scratchBase) 1 downloadLimit = true then bootVerified [] s.windowClosed
      else imageRejected (s.set R.RST_BOOT_STAT_ERROR 5)
    else s := (rfl)

/-- BOOT_GO ends the download window where the image verifies, and reports ERROR 5 where it does not (R404). -/
theorem bootGo_effect :
    if s.phase ≠ 3 ∨ s.getB R.RST_BOOT_STAT_WINDOW = false then Effect .bootGo s [] s
    else if imageVerifies s (s.imageAt scratchBase) 1 downloadLimit = false then Ends .bootGo s fun t =>
      t.get R.RST_BOOT_STAT_ERROR = 5 ∧ t.getB R.RST_BOOT_STAT_WINDOW = true ∧ t.phase = 3
    else Ends .bootGo s fun t => t.getB R.RST_BOOT_STAT_WINDOW = false ∧
      t.phase = if s.getB R.TST_CFG_LBIST_BOOT = true then 4 else 5 := by
  have hx : exec .bootGo s = done (bootGoOp s) := rfl
  rw [bootGoOp_eq] at hx
  split
  next hclosed =>
    have hclosed : ¬ (decide (s.phase = 3) && s.getB R.RST_BOOT_STAT_WINDOW) = true := by
      rcases hclosed with hphase | hwindow
      · simp [hphase]
      · simp [hwindow]
    rw [if_neg hclosed] at hx
    exact effect_of_regs hx rfl
  next hopen =>
    obtain ⟨hphase, hwindow⟩ := not_or.mp hopen
    have hphase : s.phase = 3 := not_not.mp hphase
    have hwindow : s.getB R.RST_BOOT_STAT_WINDOW = true := by simpa using hwindow
    rw [if_pos (by simp [hphase, hwindow])] at hx
    split
    next hbad =>
      rw [if_neg (by simp [hbad])] at hx
      refine ⟨_, hx, ?_, ?_, ?_⟩
      · rw [settle_get, State.get_of_control control_imageRejected (by decide), State.get_set_same]
        rfl
      · rw [settle_getB, State.getB_of_control control_imageRejected (by decide), State.getB_set_ne _ (by decide),
          hwindow]
      · exact (State.get_of_control control_imageRejected (by decide)).trans
          ((State.get_set_ne _ _ (by decide)).trans hphase)
    next hgood =>
      rw [if_pos (by simpa using hgood)] at hx
      have hopened : s.windowClosed.phase ≠ 9 := by
        rw [State.phase, windowClosed_get (by decide), ← State.phase, hphase]
        decide
      refine ⟨_, hx, ?_, ?_⟩
      · exact (congrArg (· != 0) (bootVerified_get hopened (by decide) (by decide))).trans windowClosed_window
      · refine (bootVerified_phase hopened).trans ?_
        rw [State.getB, windowClosed_get (by decide)]
        rfl
end

/-! ### The ends of the phases (R402, R405 to R407) -/

section
variable {s : State} {f : Fld}

/-! #### BOOT_RECORD -/

/-- The ports answer, the calibration copy in use is known, and the first blocks are started. -/
def State.recordRead (s : State) : State :=
  let s := calAreaLook { s with
    resets := { s.resets with wick := false }
    boot := { s.boot with bank := s.store.kept.boot.bank } }
  let s := s.setB R.TIM_STAT_CAL_OK (s.calDev.saved.isSome && s.calDev.delay == some true)
  [BK.madc, .mfil, .tst, .evr].foldl (fun s k => blockFollow (dev k) s) s

theorem bootRecordEnd_eq : bootRecordEnd s =
    if s.recordRead.getB R.RST_STAT_STRAP_ERR then enterMgmtOnly 6 s.recordRead else setPhase 2 s.recordRead := (rfl)

theorem control_recordRead : s.recordRead.control = s.control :=
  (control_foldl fun _ _ _ => control_blockFollow).trans <|
    (control_setB (outside_of_key (by decide))).trans control_calAreaLook

theorem bootRecordEnd_facts (h : s.phase = 1) : if s.getB R.RST_STAT_STRAP_ERR = true then
    (bootRecordEnd s).phase = 9 ∧ (bootRecordEnd s).get R.RST_BOOT_STAT_ERROR = 6 else (bootRecordEnd s).phase = 2 := by
  have hstrap := State.getB_of_control (f := R.RST_STAT_STRAP_ERR) (control_recordRead (s := s)) (by decide)
  have hphase : s.recordRead.phase = 1 := (State.get_of_control control_recordRead (by decide)).trans h
  rw [bootRecordEnd_eq, hstrap]
  split
  · exact enterMgmtOnly_facts (by omega) (by decide)
  · exact setPhase_phase (by decide)

/-! #### LBIST -/

/-- The results of LBIST stand in TST. -/
def State.lbistShown (s : State) (r : StartupResult) : State :=
  let s := (s.setB R.TST_LBIST_STAT_RAN true).setB R.TST_LBIST_STAT_CENTRAL_FAIL r.centralFail
  [0, 1].foldl (fun s sh =>
    let s := s.set (R.TST_LBIST_STAT_SHEAF_FAIL sh) (bitAt r.sheafFail.toNat sh)
    s.set (R.TST_LBIST_STAT_SLICE_FAIL sh)
      (((List.range 5).filter fun k => r.sliceFail.contains (5 * sh + k)).foldl (fun v k => v + 2 ^ k) 0)) s

/-- The retirements are stored, and a request for one start-up is spent. -/
def State.lbistStored (s : State) (r : StartupResult) : State :=
  let s := retirementsPut (r.sliceFail.filter (· < 10)) (s.lbistShown r)
  let b := s.store.boot
  if b.once then bootPut { b with lbist := false, once := false } s else s

/-- LBIST has reported its results. -/
def State.lbistTold (s : State) (r : StartupResult) : State :=
  let s := ((s.lbistStored r).setB R.TST_CFG_LBIST_BOOT (s.lbistStored r).store.boot.lbist).irq (dev .tst) 0
  if r.centralFail || r.sheafFail != 0 || r.sliceFail.any (· < 10) then s.irq (dev .tst) 1 else s

theorem lbistEnd_eq (r : StartupResult) : lbistEnd r s =
    if r.centralFail then enterMgmtOnly 7 (s.lbistTold r) else marchBegin r.checkers (s.lbistTold r) := (rfl)

theorem control_lbistShown (r : StartupResult) : (s.lbistShown r).control =
    ((s.setB R.TST_LBIST_STAT_RAN true).setB R.TST_LBIST_STAT_CENTRAL_FAIL r.centralFail).control := by
  refine control_foldl fun t sh hsh => ?_
  have houtside : ∀ sh ∈ [0, 1], (R.TST_LBIST_STAT_SHEAF_FAIL sh).key ∉ controlFields.map Fld.key := by decide
  have houtside' : ∀ sh ∈ [0, 1], (R.TST_LBIST_STAT_SLICE_FAIL sh).key ∉ controlFields.map Fld.key := by decide
  exact (control_set (houtside' sh hsh)).trans (control_set (houtside sh hsh))

theorem control_lbistStored (r : StartupResult) : (s.lbistStored r).control = (s.lbistShown r).control := by
  unfold State.lbistStored
  simp

theorem control_lbistTold (r : StartupResult) : (s.lbistTold r).control =
    ((s.lbistStored r).setB R.TST_CFG_LBIST_BOOT (s.lbistStored r).store.boot.lbist).control := by
  unfold State.lbistTold
  simp

theorem lbistTold_get (r : StartupResult) (hf : f ∈ controlFields) (hne : R.TST_CFG_LBIST_BOOT.key ≠ f.key) :
    (s.lbistTold r).get f =
      ((s.setB R.TST_LBIST_STAT_RAN true).setB R.TST_LBIST_STAT_CENTRAL_FAIL r.centralFail).get f :=
  (State.get_of_control (control_lbistTold r) hf).trans <| (State.get_set_ne _ _ hne).trans <|
    State.get_of_control ((control_lbistStored r).trans (control_lbistShown r)) hf

theorem lbistTold_facts (r : StartupResult) : (s.lbistTold r).phase = s.phase ∧
    (s.lbistTold r).getB R.TST_LBIST_STAT_RAN = true ∧
    (s.lbistTold r).getB R.TST_LBIST_STAT_CENTRAL_FAIL = r.centralFail := by
  refine ⟨?_, ?_, ?_⟩
  · rw [State.phase, lbistTold_get r (by decide) (by decide)]
    exact (State.get_set_ne _ _ (by decide)).trans (State.get_set_ne s _ (by decide))
  · rw [State.getB, lbistTold_get r (by decide) (by decide)]
    exact (State.getB_set_ne _ (by decide)).trans
      (State.getB_setB_same (s := s) (f := R.TST_LBIST_STAT_RAN) true (by decide))
  · rw [State.getB, lbistTold_get r (by decide) (by decide)]
    exact State.getB_setB_same (f := R.TST_LBIST_STAT_CENTRAL_FAIL) r.centralFail (by decide)

theorem lbistEnd_facts {r : StartupResult} (h : s.phase = 4) (hr : r.checkers = []) :
    (lbistEnd r s).getB R.TST_LBIST_STAT_RAN = true ∧
    (lbistEnd r s).getB R.TST_LBIST_STAT_CENTRAL_FAIL = r.centralFail ∧
    if r.centralFail = true then (lbistEnd r s).phase = 9 ∧ (lbistEnd r s).get R.RST_BOOT_STAT_ERROR = 7
    else (lbistEnd r s).phase = 5 := by
  obtain ⟨hphase, hran, hcentral⟩ := lbistTold_facts (s := s) r
  have hnine : (s.lbistTold r).phase ≠ 9 := by omega
  rw [lbistEnd_eq, hr]
  split
  · refine ⟨?_, ?_, enterMgmtOnly_facts hnine (by decide)⟩
    · exact (congrArg (· != 0) (mgmtOnly_get (by decide) (by decide))).trans hran
    · exact (congrArg (· != 0) (mgmtOnly_get (by decide) (by decide))).trans hcentral
  · rw [marchBegin_nil hnine]
    have hget {f : Fld} (hf : f ∈ controlFields) (hne : R.RST_STAT_PHASE.key ≠ f.key) :
        (enterMarch (s.lbistTold r)).getB f = (s.lbistTold r).getB f :=
      (State.getB_of_control control_enterMarch hf).trans (State.getB_set_ne _ hne)
    refine ⟨(hget (by decide) (by decide)).trans hran, (hget (by decide) (by decide)).trans hcentral, ?_⟩
    exact (State.get_of_control control_enterMarch (by decide)).trans (set_phase_get (by decide))

/-! #### MARCH -/

theorem marchEnd_phase {r : StartupResult} (h : s.phase = 5) (hr : r.words = []) : (marchEnd r s).phase = 6 := by
  unfold marchEnd
  extract_lets repaired cleared
  have hrepaired : repaired = s := by
    show marchMemories r (marchTests s) s = s
    unfold marchMemories
    rw [hr]
    rfl
  have hcleared : cleared.control = s.control := by
    show (slicesClear (centralClear (if repaired.downloads then repaired else scratchClear repaired))).control = _
    rw [control_slicesClear, control_centralClear, control_ite, control_scratchClear, ite_self, hrepaired]
  have hphase : ¬ cleared.phase = 9 := by
    rw [State.phase, State.get_of_control hcleared (by decide), ← State.phase, h]
    decide
  have hstarted : (capFollow 1 (capFollow 0 (setPhase 6 (loadTrims cleared)))).control =
      ((loadTrims cleared).set R.RST_STAT_PHASE 6).control := by
    rw [control_capFollow, control_capFollow, control_setPhase]
  rw [if_neg hphase]
  exact (State.get_of_control hstarted (by decide)).trans (set_phase_get (by decide))

/-! #### FW_START -/

theorem firmwareStarts_regs : (firmwareStarts s).regs =
    ((s.setB R.FWC_STAT_RUNNING true).setB R.RST_WDT_CFG_RUNNING true).regs := by
  unfold firmwareStarts
  dsimp only
  split <;> rfl

theorem firmwareStarts_get (hrun : R.FWC_STAT_RUNNING.key ≠ f.key) (hwdt : R.RST_WDT_CFG_RUNNING.key ≠ f.key) :
    (firmwareStarts s).get f = s.get f := by
  rw [State.get, firmwareStarts_regs]
  exact (State.get_set_ne _ _ hwdt).trans (State.get_set_ne _ _ hrun)

theorem firmwareStarts_running : (firmwareStarts s).getB R.FWC_STAT_RUNNING = true ∧
    (firmwareStarts s).getB R.RST_WDT_CFG_RUNNING = true := by
  rw [State.getB, State.getB, State.get, State.get, firmwareStarts_regs]
  exact ⟨(State.getB_set_ne _ (by decide)).trans
      (State.getB_setB_same (s := s) (f := R.FWC_STAT_RUNNING) true (by decide)),
    State.getB_setB_same (f := R.RST_WDT_CFG_RUNNING) true (by decide)⟩

theorem firmwareStarts_held : (firmwareStarts s).held = s.held := by
  have hpwr : (firmwareStarts s).pwr = s.pwr := by
    unfold firmwareStarts
    dsimp only
    split <;> rfl
  unfold State.held State.getB
  rw [firmwareStarts_get (by decide) (by decide), firmwareStarts_get (by decide) (by decide), hpwr]

theorem not_inCapture_of_granary {a : Nat} (ha : granaryBase ≤ a) : inCapture a = false := by
  have hbase : 0x0D000000 ≤ granaryBase := by decide
  simp only [inCapture, Bool.and_eq_false_iff, decide_eq_false_iff_not]
  omega

/-- What a byte of Granary holds is known. -/
theorem memDefault_granary {a : Nat} (ha : granaryBase ≤ a ∧ a < granaryBase + granarySize) :
    ∃ d, memDefault s a = some d := by
  unfold memDefault
  simp only [not_inCapture_of_granary ha.1, ha.1, ha.2, Bool.false_eq_true, decide_true, Bool.and_self, if_false,
    if_true]
  split <;> exact ⟨_, rfl⟩

theorem memDefault_granary_congr {t : State} {a : Nat} (hl : t.fuses.life = s.fuses.life) (ha : granaryBase ≤ a) :
    memDefault t a = memDefault s a := by
  unfold memDefault
  simp only [not_inCapture_of_granary ha, hl, Bool.false_eq_true, if_false]

/-- What is read of Granary depends on the bytes listed there and on the lifecycle state alone. -/
theorem byteAt_granary_congr {t : State} {a : Nat} (hm : t.mem = s.mem) (hl : t.fuses.life = s.fuses.life)
    (ha : granaryBase ≤ a ∧ a < granaryBase + granarySize) : t.byteAt a = s.byteAt a := by
  obtain ⟨d, hd⟩ := memDefault_granary (s := s) ha
  unfold State.byteAt
  rw [hm, memDefault_granary_congr hl ha.1, hd]

/-- Where no slot holds a profile, there is none to apply (R469). -/
theorem bootProfile_of_none (h : ∀ n, n < 8 → (s.imageAt (profileBase n)).magic = false) : bootProfile s = s := by
  unfold bootProfile
  rw [List.find?_eq_none.mpr]
  intro n hn
  simp [h n (List.mem_range.mp hn)]

theorem profile_magic_congr {t : State} (hm : t.mem = s.mem) (hl : t.fuses.life = s.fuses.life) {n : Nat} (hn : n < 8) :
    (t.imageAt (profileBase n)).magic = (s.imageAt (profileBase n)).magic := by
  have hseg : (t.imageAt (profileBase n)).seg 0 4 = (s.imageAt (profileBase n)).seg 0 4 :=
    List.map_congr_left fun i hi => by
      have hi := List.mem_range.mp hi
      have hbase : granaryBase = 0x10000000 ∧ granarySize = 0x00800000 := ⟨rfl, rfl⟩
      exact byteAt_granary_congr hm hl (by unfold profileBase; omega)
  unfold Image.magic Image.field
  rw [hseg]

/-- The start-up pass has begun, before firmware applies the boot profile. -/
def State.passStarted (s : State) : State :=
  let s := madcRefWriteOp true (setPhase 7 s)
  let ls := (List.range 8).filter fun l => !s.sheafReset (l / 4) && !s.boot.sheaves.contains (l / 4)
  let s := (s.setB R.CAL_STAT_STARTUP_DONE false).setB R.CAL_STAT_STARTUP_PARTIAL (ls.length != 8)
  startPassAnchor { passBegin ls s with calDev := { s.calDev with
    startup := true, startupLanes := ls, startupLeaves := ls.filter fun l => s.laneCode l != 0 } }

theorem enterCalibration_eq : enterCalibration s = bootProfile s.passStarted := (rfl)

theorem control_passStarted :
    s.passStarted.control = ((s.set R.RST_STAT_PHASE 7).setB R.CAL_STAT_STARTUP_DONE false).control := by
  unfold State.passStarted
  extract_lets reference lanes begun
  have hreference : reference.control = (s.set R.RST_STAT_PHASE 7).control :=
    control_madcRefWriteOp.trans control_setPhase
  have hbegun : begun.control = (reference.setB R.CAL_STAT_STARTUP_DONE false).control :=
    control_setB (outside_of_key (by decide))
  clear_value begun
  rw [control_startPassAnchor, control_mk, control_passBegin, hbegun]
  exact control_set_congr _ hreference

theorem passStarted_mem : s.passStarted.mem = s.mem := by
  have hbegin (ls : List Nat) (t : State) : (passBegin ls t).mem = t.mem :=
    List.foldlRecOn (motive := fun u : State => u.mem = t.mem) ls _ rfl fun _ hu _ _ => hu
  have hanchor (t : State) : (startPassAnchor t).mem = t.mem := by
    unfold startPassAnchor
    split <;> rfl
  unfold State.passStarted
  rw [hanchor]
  exact hbegin _ _

theorem enterCalibration_facts (h : ∀ n, n < 8 → (s.imageAt (profileBase n)).magic = false) :
    (enterCalibration s).phase = 7 ∧ (enterCalibration s).getB R.CAL_STAT_STARTUP_DONE = false ∧
    ∀ f ∈ controlFields, R.RST_STAT_PHASE.key ≠ f.key → R.CAL_STAT_STARTUP_DONE.key ≠ f.key →
      (enterCalibration s).getB f = s.getB f := by
  have hlife : s.passStarted.fuses.life = s.fuses.life :=
    congrArg (fun c : Control => c.fuses.life) control_passStarted
  have hprofile : enterCalibration s = s.passStarted := by
    rw [enterCalibration_eq]
    exact bootProfile_of_none fun n hn => (profile_magic_congr passStarted_mem hlife hn).trans (h n hn)
  rw [hprofile]
  refine ⟨?_, ?_, fun f hf hphase hdone => ?_⟩
  · exact (State.get_of_control control_passStarted (by decide)).trans <|
      (State.get_set_ne _ _ (by decide)).trans (set_phase_get (by decide))
  · exact (State.getB_of_control control_passStarted (by decide)).trans <|
      State.getB_setB_same (f := R.CAL_STAT_STARTUP_DONE) false (by decide)
  · exact (State.getB_of_control control_passStarted hf).trans <|
      (State.getB_set_ne _ hdone).trans (State.getB_set_ne _ hphase)

theorem fwStartEnd_held (h : s.phase = 6) (hw : s.boot.warmed = false) (hh : s.held = true) :
    (fwStartEnd s).phase = 9 ∧ (fwStartEnd s).get R.RST_BOOT_STAT_ERROR = 8 ∧
    (fwStartEnd s).getB R.FWC_STAT_RUNNING = true := by
  have hend : fwStartEnd s = enterMgmtOnly 8 (firmwareStarts s) := by
    unfold fwStartEnd firmwareFirst
    rw [if_neg (by simp [hw])]
    exact if_pos (firmwareStarts_held.trans hh)
  have hphase : (firmwareStarts s).phase = 6 := (firmwareStarts_get (by decide) (by decide)).trans h
  obtain ⟨hnine, herror⟩ := enterMgmtOnly_facts (s := firmwareStarts s) (err := 8) (by omega) (by decide)
  rw [hend]
  exact ⟨hnine, herror, mgmtOnly_running.trans firmwareStarts_running.1⟩

theorem fwStartEnd_free (hw : s.boot.warmed = false) (hh : s.held = false)
    (hp : ∀ n, n < 8 → (s.imageAt (profileBase n)).magic = false) :
    (fwStartEnd s).phase = 7 ∧ (fwStartEnd s).getB R.FWC_STAT_RUNNING = true ∧
    (fwStartEnd s).getB R.RST_WDT_CFG_RUNNING = true ∧ (fwStartEnd s).getB R.CAL_STAT_STARTUP_DONE = false := by
  have hend : fwStartEnd s = enterCalibration (firmwareStarts s) := by
    unfold fwStartEnd firmwareFirst
    rw [if_neg (by simp [hw])]
    exact if_neg (by simp [firmwareStarts_held, hh])
  have hmem : (firmwareStarts s).mem = s.mem ∧ (firmwareStarts s).fuses.life = s.fuses.life := by
    unfold firmwareStarts
    dsimp only
    split <;> exact ⟨rfl, rfl⟩
  obtain ⟨hphase, hdone, hrest⟩ := enterCalibration_facts (s := firmwareStarts s) fun n hn =>
    (profile_magic_congr hmem.1 hmem.2 hn).trans (hp n hn)
  obtain ⟨hrun, hwdt⟩ := firmwareStarts_running (s := s)
  rw [hend]
  exact ⟨hphase, (hrest _ (by decide) (by decide) (by decide)).trans hrun,
    (hrest _ (by decide) (by decide) (by decide)).trans hwdt, hdone⟩

/-! #### CALIBRATION -/

theorem calibrationEnd_phase (hh : s.held = false) (hd : s.getB R.CAL_STAT_STARTUP_DONE = true) :
    (calibrationEnd s).phase = 8 := by
  unfold calibrationEnd
  rw [if_neg (by simp [hh]), if_pos hd]
  extract_lets signed raised
  have hservice : (lanesConsider (levelApply ((setPhase 8 raised).irq rstBlk 0))).control =
      (raised.set R.RST_STAT_PHASE 8).control := by
    rw [control_lanesConsider, control_levelApply, control_irq (by decide), control_setPhase]
  exact (State.get_of_control hservice (by decide)).trans (set_phase_get (by decide))

/-! #### FIRMWARE_RUNNING -/

theorem coastReturn_of_none (h : ∀ l, l < 8 → s.laneCode l ≠ 4) : coastReturn s = s :=
  List.foldlRecOn (motive := fun t => t = s) (List.range 8) _ rfl fun t ht l hl => by
    rw [ht]
    exact if_neg (h l (List.mem_range.mp hl))

theorem firmwareRunning_ends (hm : s.mayRestart = true) (hb : s.get R.RST_STRAP_BOOT ≠ 3) (hp : s.phase = 8)
    (hl : ∀ l, l < 8 → s.laneCode l ≠ 4) :
    ∃ t, exec .firmwareRunning s = .next t ∧ t.getB R.FWC_STAT_RUNNING = true ∧ t.getB R.RST_WDT_CFG_RUNNING = true ∧
      t.get (R.IRQ_RAW_RAW (dev .rst) 2) = (s.irqAfter (dev .rst) 2).2 ∧ t.phase = 8 := by
  have hcontrol : ((firmwareStarts s).irq rstBlk 2).control = (firmwareStarts s).control := control_irq (by decide)
  have hcode (l : Nat) (h8 : l < 8) : ((firmwareStarts s).irq rstBlk 2).laneCode l = s.laneCode l := by
    have hcounter : ¬ (R.SHF_LANE_STATE_STATE (l / 4) (l % 4)).counter :=
      (plain_devFld (by omega) (by omega) (by omega)).1
    refine (State.irq_get_ne _ _ _ hcounter (fld_key_ne_of_place (by omega))).trans ?_
    exact firmwareStarts_get (fld_key_ne_of_place (by omega)) (fld_key_ne_of_place (by omega))
  have hphase : ((firmwareStarts s).irq rstBlk 2).phase = 8 :=
    (State.get_of_control hcontrol (by decide)).trans <| (firmwareStarts_get (by decide) (by decide)).trans hp
  have hend : firmwareRunningOp s = (firmwareStarts s).irq rstBlk 2 := by
    unfold firmwareRunningOp
    rw [if_pos hm, romAgain, if_neg hb]
    dsimp only
    rw [if_pos rfl, coastReturn_of_none fun l h8 => (hcode l h8).trans_ne (hl l h8)]
    exact if_neg (by omega)
  have hx : exec .firmwareRunning s = done (firmwareRunningOp s) := rfl
  rw [hend] at hx
  obtain ⟨hrun, hwdt⟩ := firmwareStarts_running (s := s)
  refine ⟨_, hx, ?_, ?_, ?_, hphase⟩
  · exact (State.getB_of_control hcontrol (by decide)).trans hrun
  · exact (State.getB_of_control hcontrol (by decide)).trans hwdt
  · have hstarted : After s (firmwareStarts s) [(R.RST_WDT_CFG_RUNNING, 1), (R.FWC_STAT_RUNNING, 1)] := by
      refine After.congr (v := (s.set R.FWC_STAT_RUNNING 1).set R.RST_WDT_CFG_RUNNING 1) firmwareStarts_regs ?_ ?_
      · unfold firmwareStarts
        dsimp only
        split <;> rfl
      · exact (After.one (by decide) (plain_devFld (by decide) (by decide) (by decide))).set (by decide)
          (plain_devFld (by decide) (by decide) (by decide)) (List.forall_mem_singleton.mpr (by decide))
    have hraised := hstarted.irq (b := dev .rst) (n := 2) (by decide) (plain_devFld (by decide) (by decide) (by decide))
      (List.forall_mem_cons.mpr ⟨by decide, List.forall_mem_singleton.mpr (by decide)⟩)
    exact hraised.vals _ List.mem_cons_self
end

/-! ### O60 -/

/-- The work of STARTUP_PHASE_DONE in a phase. -/
def phaseEnd (p : Nat) (r : StartupResult) (s : State) : State :=
  match p with
  | 1 => bootRecordEnd s
  | 2 => secureBootEnd r s
  | 4 => lbistEnd r s
  | 5 => marchEnd r s
  | 6 => if s.warmAsserted then s else fwStartEnd s
  | 7 => calibrationEnd s
  | _ => s

section
variable {s : State} {r : StartupResult}

theorem startupPhaseDoneOp_eq : startupPhaseDoneOp r s = if s.coldAsserted then s else phaseEnd s.phase r s := (rfl)

theorem startupPhaseDone_of_phase {p : Nat} (hc : s.coldAsserted = false) (hp : s.phase = p) :
    exec (.startupPhaseDone r) s = done (phaseEnd p r s) := by
  have hx : exec (.startupPhaseDone r) s = done (startupPhaseDoneOp r s) := rfl
  rwa [startupPhaseDoneOp_eq, if_neg (by simp [hc]), hp] at hx

theorem phaseEnd_idle {p : Nat} (h : p = 0 ∨ p = 3 ∨ 8 ≤ p) : phaseEnd p r s = s := by
  unfold phaseEnd
  split
  case h_7 => rfl
  all_goals omega

/-- Under COLD, and where no phase of its own runs, STARTUP_PHASE_DONE changes nothing. -/
theorem startupPhaseDone_idle (h : s.coldAsserted = true ∨ s.phase = 0 ∨ s.phase = 3 ∨ 8 ≤ s.phase) :
    Effect (.startupPhaseDone r) s [] s := by
  have hx : exec (.startupPhaseDone r) s = done (startupPhaseDoneOp r s) := rfl
  have hsame : startupPhaseDoneOp r s = s := by
    rw [startupPhaseDoneOp_eq]
    split
    · rfl
    next hc => exact phaseEnd_idle (h.resolve_left hc)
  rw [hsame] at hx
  exact effect_of_regs hx rfl

theorem settle_phase : (settle s).phase = s.phase := settle_get ..

theorem bootRecord_ends (hc : s.coldAsserted = false) (hp : s.phase = 1) :
    Ends (.startupPhaseDone r) s fun t => if s.getB R.RST_STAT_STRAP_ERR = true then
      t.phase = 9 ∧ t.get R.RST_BOOT_STAT_ERROR = 6 else t.phase = 2 := by
  have hx : exec (.startupPhaseDone r) s = done (bootRecordEnd s) := startupPhaseDone_of_phase (p := 1) hc hp
  refine ⟨_, hx, ?_⟩
  simpa only [settle_phase, settle_get] using bootRecordEnd_facts hp

theorem secureBoot_ends (hc : s.coldAsserted = false) (hp : s.phase = 2) (hb : s.get R.RST_STRAP_BOOT = 3)
    (hr : r.checkers = []) (h1 : r.fault ≠ 1) (h4 : r.fault ≠ 4) (k : Fin 2) (hk : s.boot.bank = k.val) :
    Ends (.startupPhaseDone r) s fun t =>
      if s.bankGood k = true then t.phase = (if s.getB R.TST_CFG_LBIST_BOOT = true then 4 else 5) ∧
        t.get R.FWC_STAT_BANK = k.val ∧ t.get R.RST_STAT_BANK_FALLBACK = s.get R.RST_STAT_BANK_FALLBACK
      else if s.bankGood (1 - k) = true then t.phase = (if s.getB R.TST_CFG_LBIST_BOOT = true then 4 else 5) ∧
        t.get R.FWC_STAT_BANK = 1 - k.val ∧ t.getB R.RST_STAT_BANK_FALLBACK = true ∧
        t.get R.RST_BOOT_STAT_ERROR = 1 + k.val
      else t.phase = 9 ∧ t.get R.RST_BOOT_STAT_ERROR = 3 ∧ t.getB R.RST_STAT_BANK_FALLBACK = true := by
  have hboot : secureBootEnd r s = bankBoot [] s := by
    unfold secureBootEnd
    rw [if_neg (by simp [h1, h4])]
    dsimp only
    rw [hb, hr]
    rfl
  have hfacts := bankBoot_facts hp (by omega)
  rw [hk] at hfacts
  exact ⟨_, (startupPhaseDone_of_phase hc hp).trans (congrArg done hboot), hfacts⟩

theorem lbist_ends (hc : s.coldAsserted = false) (hp : s.phase = 4) (hr : r.checkers = []) :
    Ends (.startupPhaseDone r) s fun t => t.getB R.TST_LBIST_STAT_RAN = true ∧
      t.getB R.TST_LBIST_STAT_CENTRAL_FAIL = r.centralFail ∧
      if r.centralFail = true then t.phase = 9 ∧ t.get R.RST_BOOT_STAT_ERROR = 7 else t.phase = 5 :=
  have hx : exec (.startupPhaseDone r) s = done (lbistEnd r s) := startupPhaseDone_of_phase (p := 4) hc hp
  ⟨_, hx, lbistEnd_facts hp hr⟩

theorem march_ends (hc : s.coldAsserted = false) (hp : s.phase = 5) (hr : r.words = []) :
    Ends (.startupPhaseDone r) s fun t => t.phase = 6 :=
  have hx : exec (.startupPhaseDone r) s = done (marchEnd r s) := startupPhaseDone_of_phase (p := 5) hc hp
  ⟨_, hx, marchEnd_phase hp hr⟩

/-- The ends of FW_START where firmware has not been reset meanwhile. -/
theorem fwStart_ends (hc : s.coldAsserted = false) (hp : s.phase = 6) (hw : s.warmAsserted = false)
    (hn : s.boot.warmed = false) :
    (s.held = true → Ends (.startupPhaseDone r) s fun t => t.phase = 9 ∧ t.get R.RST_BOOT_STAT_ERROR = 8 ∧
      t.getB R.FWC_STAT_RUNNING = true) ∧
    (s.held = false → (∀ n, n < 8 → (s.imageAt (profileBase n)).magic = false) → Ends (.startupPhaseDone r) s fun t =>
      t.phase = 7 ∧ t.getB R.FWC_STAT_RUNNING = true ∧ t.getB R.RST_WDT_CFG_RUNNING = true ∧
      t.getB R.CAL_STAT_STARTUP_DONE = false) :=
  have hend : phaseEnd 6 r s = fwStartEnd s := if_neg (by simp [hw])
  have hx := (startupPhaseDone_of_phase hc hp).trans (congrArg done hend)
  ⟨fun hh => ⟨_, hx, fwStartEnd_held hp hn hh⟩, fun hh hpr => ⟨_, hx, fwStartEnd_free hn hh hpr⟩⟩

theorem fwStart_warm (hc : s.coldAsserted = false) (hp : s.phase = 6) (hw : s.warmAsserted = true) :
    Effect (.startupPhaseDone r) s [] s :=
  effect_of_regs ((startupPhaseDone_of_phase hc hp).trans (congrArg done (if_pos hw))) rfl

theorem calibration_ends (hc : s.coldAsserted = false) (hp : s.phase = 7) :
    (s.held = true → Ends (.startupPhaseDone r) s fun t => t.phase = 9 ∧ t.get R.RST_BOOT_STAT_ERROR = 8) ∧
    (s.held = false → s.getB R.CAL_STAT_STARTUP_DONE = false → Effect (.startupPhaseDone r) s [] s) ∧
    (s.held = false → s.getB R.CAL_STAT_STARTUP_DONE = true → Ends (.startupPhaseDone r) s fun t => t.phase = 8) := by
  have hx : exec (.startupPhaseDone r) s = done (calibrationEnd s) := startupPhaseDone_of_phase (p := 7) hc hp
  refine ⟨fun hh => ?_, fun hh hd => ?_, fun hh hd => ⟨_, hx, calibrationEnd_phase hh hd⟩⟩
  · have hend : calibrationEnd s = enterMgmtOnly 8 s := if_pos hh
    exact ⟨_, hx.trans (congrArg done hend), enterMgmtOnly_facts (by omega) (by decide)⟩
  · have hend : calibrationEnd s = s := (if_neg (by simp [hh])).trans (if_neg (by simp [hd]))
    exact effect_of_regs (hx.trans (congrArg done hend)) rfl
end

theorem firmwareRunning_idle (s : State) (hm : s.mayRestart = false) : Effect .firmwareRunning s [] s := by
  have hx : exec .firmwareRunning s = done (firmwareRunningOp s) := rfl
  have hsame : firmwareRunningOp s = s := if_neg (by simp [hm])
  rw [hsame] at hx
  exact effect_of_regs hx rfl

/-- Settles O60: the commands' next states are those of the operations, and each phase ends as its own work
leaves it. -/
theorem startUp : Obligations.StartUp := by
  unfold Obligations.StartUp
  intro s
  have hgo : Runs .bootGo s (bootGoOp s) := rfl
  have hrunning : Runs .firmwareRunning s (firmwareRunningOp s) := rfl
  have hdone (r : StartupResult) : Runs (.startupPhaseDone r) s (startupPhaseDoneOp r s) := rfl
  refine ⟨hgo, hrunning, hdone, fun r => ⟨startupPhaseDone_idle, fun hc => ?_⟩, bootGo_effect, firmwareRunning_idle s,
    firmwareRunning_ends⟩
  have hsecure (hp : s.phase = 2) (hb : s.get R.RST_STRAP_BOOT = 3) (hr : r.checkers = []) (h1 : r.fault ≠ 1)
      (h4 : r.fault ≠ 4) (k : Fin 2) (_ : s.store.kept.boot.bank = k.val) (hk : s.boot.bank = k.val) :=
    secureBoot_ends hc hp hb hr h1 h4 k hk
  have hcalibration := calibration_ends (r := r) hc
  exact ⟨bootRecord_ends hc, hsecure, lbist_ends hc, march_ends hc, fwStart_warm hc, fwStart_ends hc,
    fun hp => (hcalibration hp).1, fun hp => (hcalibration hp).2.1, fun hp => (hcalibration hp).2.2⟩

end Sys2Proof.Machine
end

section
/-!
PROOF. The canonical forms of a state: the state after reset meets them, every step keeps them, and fields and bytes are
read back as they were written (R3, R5, R410, R425, R450).
-/

namespace Sys2Proof.Machine

open Sys2Proof

/-! ### The state after reset -/

/-- With an empty register file every field holds its reset value. -/
theorem State.get_of_regs_nil {s : State} (h : s.regs = []) (f : Fld) : s.get f = f.rst := by
  unfold State.get
  rw [h]
  rfl

/-- Settles O5: after reset the register file, the memory and the queues are empty, which makes every field read its
reset value and the canonical forms hold. -/
theorem resetState : Obligations.ResetState := by
  unfold Obligations.ResetState
  have hget : ∀ f, State.reset.get f = f.rst := State.get_of_regs_nil rfl
  exact ⟨hget, rfl, rfl, rfl, fun l => hget _, rfl, rfl, rfl⟩

/-! ### Every step keeps the canonical forms -/

/-- An outcome whose next state, where it has one, has no event waiting. -/
def SettledNext (o : Host.Outcome State Fault Refusal) : Prop := ∀ t, o = .next t → t.settled = true

theorem settledNext_done (u : State) : SettledNext (done u) := by
  intro t ht
  cases ht
  rfl

/-- A command on a block that the device has not is a fault, which has no next state (log entry 181). -/
theorem settledNext_guarded (b : Blk) (u : State) :
    SettledNext (if allBlocks.contains b then done u else .fault .noSuchTarget) := by
  split
  · exact settledNext_done u
  · exact fun t ht => nomatch ht

/-- Every command ends with its events accepted (R450). -/
theorem exec_settledNext (c : Instr) (s : State) : SettledNext (exec c s) := by
  cases c with
  | expertArm b => exact settledNext_guarded b _
  | expertUnlock b => exact settledNext_guarded b _
  | expertRelock b => exact settledNext_guarded b _
  | expertArmTimeout b => exact settledNext_guarded b _
  | blockEnable b => exact settledNext_guarded b _
  | blockDisable b => exact settledNext_guarded b _
  | blockStartDone b => exact settledNext_guarded b _
  | blockStopDone b => exact settledNext_guarded b _
  | blockSrst b => exact settledNext_guarded b _
  | blockResetRelease b => exact settledNext_guarded b _
  | irqForce b => exact settledNext_guarded b _
  | _ => exact settledNext_done _

/-- A tick leaves no event waiting where none waited: it raises none, or accepts those that it raises. -/
theorem tick_settled {s : State} (h : s.settled = true) : (tick s).settled = true := by
  unfold tick
  dsimp only
  split
  · exact h
  · split
    · exact h
    · rfl

/-- The invariant does not rest on the queue of commands. -/
theorem State.Inv.pending {s : State} (h : s.Inv) (q : List Instr) : { s with pending := q }.Inv := by
  obtain ⟨hregs, hmem, hsettled⟩ := h
  exact ⟨hregs, wf_congr (s := s) rfl (fun _ => rfl) rfl hmem, hsettled⟩

theorem State.Inv.settled {s : State} (h : s.Inv) : s.settled = true := by
  obtain ⟨-, -, hsettled⟩ := h
  exact hsettled

/-- What keeps the canonical forms and leaves no event waiting keeps the invariant. -/
theorem Keeps.inv {s t : State} (hk : Keeps s t) (ht : t.settled = true) (h : s.Inv) : t.Inv := by
  obtain ⟨hregs, hmem, -⟩ := h
  exact ⟨hk.regs hregs, hk.mem hmem, ht⟩

/-- Settles O6: a tick and every command keep the canonical forms, and each ends with its events accepted. -/
theorem invariantKept : Obligations.InvariantKept := by
  unfold Obligations.InvariantKept
  intro s t hs ht
  unfold step at ht
  split at ht
  · cases ht
    exact (tick_keeps Keeps.rfl').inv (tick_settled hs.settled) hs
  next c rest _ => exact (exec_keepsNext c _ t ht).inv (exec_settledNext c _ t ht) (hs.pending rest)

/-! ### Fields and bytes read back -/

/-- Settles O8: the register file reads back what is put, and a field's key alone is touched. -/
theorem fieldWrites : Obligations.FieldWrites := by
  unfold Obligations.FieldWrites
  exact fun s f v => ⟨s.get_set_same f v, fun g hg => s.get_set_ne v hg.symm, natSet_sorted⟩

theorem cellGet_cellPut (m : List Host.Cell) (k : Nat) (v : BitVec 8) (a : Nat) :
    cellGet (cellPut m k v) a = if a = k then some v else cellGet m a := by
  induction m with
  | nil => rfl
  | cons e m ih =>
    obtain ⟨b, w⟩ := e
    unfold cellPut
    split
    · rfl
    next hlt =>
      split
      next heq => subst heq; by_cases ha : a = k <;> simp [cellGet, ha]
      next hne =>
        by_cases ha : a = b
        · simp [cellGet, ha, Ne.symm hne]
        · simp [cellGet, ha, ih]

/-- What a predicate keeps of a list is found there as before. -/
theorem cellGet_filter {p : Host.Cell → Bool} {a : Nat} (hp : ∀ v, p (a, v) = true) (m : List Host.Cell) :
    cellGet (m.filter p) a = cellGet m a := by
  induction m with
  | nil => rfl
  | cons e m ih =>
    obtain ⟨b, w⟩ := e
    by_cases ha : a = b
    · subst ha
      rw [List.filter_cons_of_pos (hp w)]
      simp [cellGet]
    · rw [List.filter_cons]
      split <;> simp [cellGet, ha, ih]

theorem cellGet_cellDel_same (m : List Host.Cell) (a : Nat) : cellGet (cellDel m a) a = none := by
  induction m with
  | nil => rfl
  | cons e m ih =>
    obtain ⟨b, w⟩ := e
    unfold cellDel at ih ⊢
    by_cases ha : b = a
    · rw [List.filter_cons_of_neg (by simp [ha]), ih]
    · rw [List.filter_cons_of_pos (by simp [ha])]
      simp [cellGet, Ne.symm ha, ih]

theorem cellGet_cellDel_ne (m : List Host.Cell) {a b : Nat} (h : b ≠ a) : cellGet (cellDel m a) b = cellGet m b :=
  cellGet_filter (fun _ => by simp [h]) m

/-- A byte rests on what is listed for its address, on what an unlisted address holds, on the stretches of capture
memory, and on the count of free values. -/
theorem byteAt_congr {s t : State} {a : Nat} (hm : cellGet t.mem a = cellGet s.mem a)
    (hd : memDefault t a = memDefault s a) (hp : t.patchAt a = s.patchAt a) (hc : t.freeCount = s.freeCount) :
    t.byteAt a = s.byteAt a := by
  unfold State.byteAt
  rw [hm, hd, hp, hc]

/-- A byte reads as it was written, cut to eight bits. -/
theorem byteAt_putByte_same (s : State) (a v : Nat) : (s.putByte a v).byteAt a = v % 256 := by
  unfold State.byteAt
  rw [putByte_mem, putByte_default]
  split
  next b hb =>
    split at hb
    · rw [cellGet_cellDel_same] at hb
      cases hb
    · rw [cellGet_cellPut, if_pos rfl] at hb
      cases hb
      rfl
  next hnone =>
    split at hnone
    next hv => rw [hv]
    · rw [cellGet_cellPut, if_pos rfl] at hnone
      cases hnone

/-- A write of one byte changes no other. -/
theorem byteAt_putByte_ne (s : State) {a b : Nat} (v : Nat) (h : b ≠ a) : (s.putByte a v).byteAt b = s.byteAt b := by
  refine byteAt_congr ?_ (putByte_default s a v b) rfl rfl
  rw [putByte_mem]
  split
  · exact cellGet_cellDel_ne _ h
  · rw [cellGet_cellPut, if_neg h]

/-- Settles O9: a byte that would be unlisted leaves the list, any other is put into it in place. -/
theorem memoryBytes : Obligations.MemoryBytes := by
  unfold Obligations.MemoryBytes
  exact fun s a v => ⟨byteAt_putByte_same s a v, fun b hb => byteAt_putByte_ne s v hb, putByte_wf a v⟩

/-! ### Addresses that are not a multiple of 4 -/

theorem targetOf_misaligned {a : Nat} (h : a % 4 ≠ 0) : targetOf a = none := if_pos (bne_iff_ne.mpr h)

/-- Settles O11: no target lies at such an address, so that only the error is noted. -/
theorem misalignedAccess : Obligations.MisalignedAccess := by
  unfold Obligations.MisalignedAccess
  intro s req owner a v ha
  unfold wordRead wordWrite
  rw [targetOf_misaligned ha]
  exact ⟨rfl, rfl⟩

end Sys2Proof.Machine
end

section
/-!
PROOF. Which sources of reset stand, and what leaves them standing (R389).
-/

namespace Sys2Proof.Machine

open Sys2Proof

/-- The sources of reset that stand: those of the device and SHEAF of either sheaf. -/
def State.sources (s : State) : ResetSources × List Bool := (s.resets, [0, 1].map s.sheafReset)

/-- A field that is none of RST_CTRL. -/
def OffResets (f : Fld) : Prop := f.key / 256 ≠ 0x30040

theorem offResets_of {f : Fld} {a lo w rst : Nat} {k : Kind} (hf : f = fld a lo w rst k)
    (h : 0x30041 ≤ a ∨ lo < 64 ∧ a < 0x30040) : OffResets f := by
  have hcode : k.code < 4 := by cases k <;> decide
  unfold OffResets
  rw [hf]
  dsimp only
  omega

theorem offResets_hid {f : Fld} {b o x lo w rst : Nat} {k : Kind} (hf : f = fld (hid b o + x) lo w rst k) :
    OffResets f := by
  refine offResets_of hf (.inl ?_)
  unfold hid
  omega

theorem offResets_base {f : Fld} {b : Blk} {o lo w rst : Nat} {k : Kind} (hf : f = fld (b.base + o) lo w rst k)
    (h : lo < 64 ∧ o < 0x40) : OffResets f := by
  have := base_aligned b
  exact offResets_of hf (by omega)

section
variable {s : State}

@[simp ↓] theorem sources_ite {c : Prop} [Decidable c] {a b : State} :
    (if c then a else b).sources = if c then a.sources else b.sources := apply_ite ..

theorem sources_of {t : State} (hr : t.resets = s.resets)
    (hg : ∀ sh, sh < 2 → t.get (R.RST_CTRL_SHEAF sh) = s.get (R.RST_CTRL_SHEAF sh)) : t.sources = s.sources := by
  unfold State.sources State.sheafReset State.getB
  simp [hr, hg]

/-- A record update that keeps the registers and the sources. -/
@[simp ↓] theorem sources_mk {e : State}
    {mem shadow staged time freeCount spi i3c target woken raised evQueue evDropped evLost txs rxs powers
      hosts caps cals calDev msg links sessions pwr stamps tim chains dacs store gpioPulse elapsed stub thm fuses sec
      mbx boot pending} :
    (State.mk e.regs shadow staged mem time freeCount spi i3c target woken raised evQueue evDropped evLost e.resets txs
      rxs powers hosts caps cals calDev msg links sessions pwr stamps tim chains dacs store gpioPulse elapsed stub thm
      fuses sec mbx boot pending).sources = e.sources := (rfl)

@[simp ↓] theorem sources_set {f : Fld} {v : Nat} (h : OffResets f) : (s.set f v).sources = s.sources :=
  sources_of rfl fun sh hsh => State.get_set_ne _ _ fun he => h <| by
    rw [he]
    simp only [R.RST_CTRL_SHEAF, fld, Kind.code]
    omega

@[simp ↓] theorem sources_setB {f : Fld} {v : Bool} (h : OffResets f) :
    (s.setB f v).sources = s.sources := sources_set h

@[simp ↓] theorem sources_satInc {f : Fld} {k : Nat} (h : OffResets f) : (s.satInc f k).sources = s.sources :=
  sources_set h

@[simp ↓] theorem sources_irq {b : Blk} {n : Nat} (hn : n < 64) : (s.irq b n).sources = s.sources :=
  sources_of (State.irq_resets s b n) fun sh hsh => State.irq_get_ne _ _ _
    (by simp only [Fld.counter, R.RST_CTRL_SHEAF, fld, Kind.code]; omega) fun he => by
    have hraw : OffResets (R.IRQ_RAW_RAW b n) := offResets_base rfl (by omega)
    refine hraw ?_
    rw [he]
    simp only [R.RST_CTRL_SHEAF, fld, Kind.code]
    omega

@[simp ↓] theorem sources_event {b : Blk} {i c d : Nat} : (s.event b i c d).sources = s.sources := (rfl)

@[simp ↓] theorem sources_signal {b : Blk} {n : Nat} {new : Bool} (hn : n < 64) :
    (s.signal b n new).sources = s.sources := sources_irq hn

@[simp ↓] theorem sources_change {f : Fld} {new : Bool} {b : Blk} {n : Nat} (hf : OffResets f) (hn : n < 64) :
    (s.change f new b n).sources = s.sources := by
  unfold State.change
  rw [sources_ite, sources_signal hn, sources_setB hf, ite_self]

@[simp ↓] theorem sources_draw : s.draw.sources = s.sources := (rfl)

@[simp ↓] theorem sources_putTx {l : Nat} {x : TxLane} : (s.putTx l x).sources = s.sources := (rfl)

@[simp ↓] theorem sources_putRx {l : Nat} {x : RxLane} : (s.putRx l x).sources = s.sources := (rfl)

@[simp ↓] theorem sources_putHost {l : Nat} {x : HostLaneInt} : (s.putHost l x).sources = s.sources := (rfl)

@[simp ↓] theorem sources_putCap {l : Nat} {x : CapInt} : (s.putCap l x).sources = s.sources := (rfl)

@[simp ↓] theorem sources_putCal {l : Nat} {x : CalLane} : (s.putCal l x).sources = s.sources := (rfl)

@[simp ↓] theorem sources_putSession {l : Nat} {x : PeerSession} : (s.putSession l x).sources = s.sources := (rfl)

@[simp ↓] theorem sources_putLink {l : Nat} {x : MsgLink} : (s.putLink l x).sources = s.sources := (rfl)

@[simp ↓] theorem sources_putStamp {l : Nat} {x : Stamps} : (s.putStamp l x).sources = s.sources := (rfl)

@[simp ↓] theorem sources_putDac {l : Nat} {x : DacChannel} : (s.putDac l x).sources = s.sources := (rfl)

theorem sources_foldl {α : Type} {g : State → α → State} (hg : ∀ t a, (g t a).sources = t.sources) (l : List α) :
    (l.foldl g s).sources = s.sources :=
  List.foldlRecOn (motive := fun t => t.sources = s.sources) l g rfl fun t ht a _ => (hg t a).trans ht

theorem sources_range {g : State → Nat → State} {n : Nat} (hg : ∀ t i, i < n → (g t i).sources = t.sources) :
    ((List.range n).foldl g s).sources = s.sources :=
  List.foldlRecOn (motive := fun t => t.sources = s.sources) _ g rfl fun t ht i hi =>
    (hg t i (List.mem_range.mp hi)).trans ht

@[simp ↓] theorem sources_capCause {l : Nat} {cause : Nat} : (capCause l cause s).sources = s.sources := by
  unfold capCause
  simp

@[simp ↓] theorem sources_calDiscardAdc {l : Nat} : (calDiscardAdc l s).sources = s.sources := by
  have hfold : ((List.range 5).foldl (fun s i => s.satInc (R.CAL_REC_X_DISCARD (l * 6 + i)) 1) s).sources = s.sources :=
    sources_foldl (fun _ _ => sources_satInc (offResets_hid rfl)) _
  unfold calDiscardAdc
  simp (disch := first | omega | (with_unfolding_all refine offResets_of rfl ?_); omega) [hfold]

@[simp ↓] theorem sources_calDiscardDac {l : Nat} : (calDiscardDac l s).sources = s.sources := by
  have hrec : OffResets (R.CAL_REC_X_DISCARD (l * 6 + 5)) := offResets_hid rfl
  unfold calDiscardDac
  simp [hrec]

@[simp ↓] theorem sources_calStopApplying {l : Nat} : (calStopApplying l s).sources = s.sources := by
  unfold calStopApplying
  simp (disch := first | omega | (with_unfolding_all refine offResets_of rfl ?_); omega)

@[simp ↓] theorem sources_calLeave {l : Nat} : (calLeave l s).sources = s.sources := by
  unfold calLeave
  simp

@[simp ↓] theorem sources_calEnter {l : Nat} : (calEnter l s).sources = s.sources := by
  unfold calEnter
  simp

@[simp ↓] theorem sources_calRunStop {l : Nat} : (calRunStop l s).sources = s.sources := by
  unfold calRunStop
  simp (disch := first | omega | (with_unfolding_all refine offResets_of rfl ?_); omega)

@[simp ↓] theorem sources_calClearFg {l : Nat} : (calClearFg l s).sources = s.sources := by
  have hfold : ((List.range 5).foldl (fun s i => s.setB (R.CAL_LANE_STAT_FG_CONV l i) false) s).sources = s.sources :=
    sources_range fun t i hi => by
      simp (disch := first | omega | (with_unfolding_all refine offResets_of rfl ?_); omega)
  unfold calClearFg
  simp (disch := first | omega | (with_unfolding_all refine offResets_of rfl ?_); omega) [hfold]

@[simp ↓] theorem sources_sessionEnd {l : Nat} : (sessionEnd l s).sources = s.sources := by
  unfold sessionEnd
  simp (disch := first | omega | (with_unfolding_all refine offResets_of rfl ?_); omega)

@[simp ↓] theorem sources_dropReassembly {l : Nat} : (dropReassembly l s).sources = s.sources := by
  unfold dropReassembly
  simp (disch := first | omega | (with_unfolding_all refine offResets_of rfl ?_); omega)

@[simp ↓] theorem sources_linkDown {l : Nat} : (linkDown l s).sources = s.sources := by
  unfold linkDown
  simp (disch := first | omega | (with_unfolding_all refine offResets_of rfl ?_); omega)

@[simp ↓] theorem sources_cfgRefresh : (cfgRefresh s).sources = s.sources :=
  sources_foldl (fun _ _ => by simp (disch := first | omega | (with_unfolding_all refine offResets_of rfl ?_); omega)) _

@[simp ↓] theorem sources_cwDrop {l : Nat} : (cwDrop l s).sources = s.sources :=
  sources_foldl (fun _ _ => by simp (disch := first | omega | (with_unfolding_all refine offResets_of rfl ?_); omega)) _

@[simp ↓] theorem sources_hostLeave {h : Nat} : (hostLeave h s).sources = s.sources := by
  unfold hostLeave
  simp (disch := first | omega | (with_unfolding_all refine offResets_of rfl ?_); omega)

@[simp ↓] theorem sources_amLose {h : Nat} : (amLose h s).sources = s.sources := by
  unfold amLose
  simp (disch := first | omega | (with_unfolding_all refine offResets_of rfl ?_); omega)

@[simp ↓] theorem sources_hostClockSlew {l : Nat} : (hostClockSlew l s).sources = s.sources :=
  sources_foldl (fun _ _ => by simp) _

@[simp ↓] theorem sources_trackLose {l : Nat} : (trackLose l s).sources = s.sources := by
  unfold trackLose
  simp (disch := first | omega | (with_unfolding_all refine offResets_of rfl ?_); omega)

@[simp ↓] theorem sources_timingRefresh {l : Nat} : (timingRefresh l s).sources = s.sources := by
  unfold timingRefresh
  simp (disch := first | omega | (with_unfolding_all refine offResets_of rfl ?_); omega)

@[simp ↓] theorem sources_amForget {h : Nat} : (amForget h s).sources = s.sources := by
  unfold amForget
  simp

@[simp ↓] theorem sources_windowClear {l : Nat} : (windowClear l s).sources = s.sources := by
  unfold windowClear
  simp

@[simp ↓] theorem sources_passRefresh {l : Nat} : (passRefresh l s).sources = s.sources := by
  unfold passRefresh
  simp (disch := first | omega | (with_unfolding_all refine offResets_of rfl ?_); omega)

@[simp ↓] theorem sources_sdSf {l : Nat} {quiet : Bool} : (sdSf l quiet s).sources = s.sources := by
  unfold sdSf
  simp (disch := first | omega | (with_unfolding_all refine offResets_of rfl ?_); omega)

@[simp ↓] theorem sources_gainPut {l : Nat} {f : Fld} {v : Nat} (h : OffResets f) :
    (gainPut l f v s).sources = s.sources := by
  unfold gainPut
  simp [h]

@[simp ↓] theorem sources_forceValues {l : Nat} : (forceValues l s).sources = s.sources := by
  have hfold : ((List.range 4).foldl (fun s i =>
      (s.set (R.REQ_LVL_MEAN_MEAN l i) (s.get (R.REQ_LVL_FORCE_MEAN l i))).set
      (R.REQ_LVL_SIGMA_SIGMA l i) (s.get (R.REQ_LVL_FORCE_SIGMA l i))) s).sources = s.sources :=
    sources_foldl (fun _ _ => by
      simp (disch := first | omega | (with_unfolding_all refine offResets_of rfl ?_); omega)) _
  unfold forceValues
  simp (disch := first | omega | (with_unfolding_all refine offResets_of rfl ?_); omega) [hfold]

@[simp ↓] theorem sources_freezeApply {l : Nat} : (freezeApply l s).sources = s.sources := by
  unfold freezeApply
  simp

@[simp ↓] theorem sources_echoReset {l : Nat} : (echoReset l s).sources = s.sources :=
  sources_foldl (fun _ k => by
    have hdelay : OffResets (R.REQ_FFE_SET_ECHO_DELAY l 1 k) := offResets_of rfl (.inl (by unfold hid; omega))
    have hen : OffResets (R.REQ_FFE_SET_ECHO_EN l 1 k) := offResets_of rfl (.inl (by unfold hid; omega))
    have hweight : OffResets (R.REQ_FFE_SET_ECHO_WEIGHT l 1 k) := offResets_of rfl (.inl (by unfold hid; omega))
    simp [hdelay, hen, hweight]) _

@[simp ↓] theorem sources_reachLoad {l : Nat} : (reachLoad l s).sources = s.sources := by
  have hmain : OffResets (R.REQ_FFE_SET_MAIN l 1) := offResets_of rfl (.inl (by unfold hid; omega))
  have htaps : ∀ t : State, ∀ v : Nat, ((List.range 48).foldl (fun s i =>
      s.set (R.REQ_FFE_SET_TAP_COEF l 1 i) (if i = v then 0x400 else 0)) t).sources = t.sources := fun t v =>
    sources_foldl (fun _ _ => sources_set (offResets_of rfl (.inl (by unfold hid; omega)))) _
  have hlevels : ∀ t : State, ((List.range 4).foldl (fun s i =>
      (s.set (R.REQ_LVL_MEAN_MEAN l i) (R.REQ_LVL_MEAN_MEAN l i).rst).set (R.REQ_LVL_SIGMA_SIGMA l i) 0x80) t).sources
      = t.sources := fun t => sources_foldl (fun _ _ => by
    simp (disch := first | omega | (with_unfolding_all refine offResets_of rfl ?_); omega)) _
  unfold reachLoad
  simp (disch := first | omega | (with_unfolding_all refine offResets_of rfl ?_); omega) [hmain, htaps, hlevels]

@[simp ↓] theorem sources_capNote {l : Nat} : (capNote l s).sources = s.sources := by
  unfold capNote
  simp

@[simp ↓] theorem sources_txStop {l : Nat} : (txStop l s).sources = s.sources := by
  unfold txStop
  simp (disch := first | omega | (with_unfolding_all refine offResets_of rfl ?_); omega)

@[simp ↓] theorem sources_goDark {l : Nat} : (goDark l s).sources = s.sources := by
  unfold goDark
  simp (disch := first | omega | (with_unfolding_all refine offResets_of rfl ?_); omega)

@[simp ↓] theorem sources_leaveRxDim {l : Nat} : (leaveRxDim l s).sources = s.sources := by
  unfold leaveRxDim
  simp (disch := first | omega | (with_unfolding_all refine offResets_of rfl ?_); omega)

@[simp ↓] theorem sources_clearLocks {l : Nat} : (clearLocks l s).sources = s.sources := by
  unfold clearLocks
  simp (disch := first | omega | (with_unfolding_all refine offResets_of rfl ?_); omega)

@[simp ↓] theorem sources_swapTake {l : Nat} {was : Bool} : (swapTake l was s).sources = s.sources := by
  unfold swapTake
  simp (disch := first | omega | (with_unfolding_all refine offResets_of rfl ?_); omega)

@[simp ↓] theorem sources_goAcquire {l : Nat} {warm : Bool} {fresh : Bool} :
    (goAcquire l warm fresh s).sources = s.sources := by
  unfold goAcquire
  simp (disch := first | omega | (with_unfolding_all refine offResets_of rfl ?_); omega)

@[simp ↓] theorem sources_goActive {l : Nat} {old : Nat} {new : Nat} : (goActive l old new s).sources = s.sources := by
  unfold goActive
  simp (disch := first | omega | (with_unfolding_all refine offResets_of rfl ?_); omega)

@[simp ↓] theorem sources_setLaneCode {l : Nat} {new : Nat} {cause : Nat} :
    (setLaneCode l new cause s).sources = s.sources := by
  unfold setLaneCode
  simp (disch := first | omega | (with_unfolding_all refine offResets_of rfl ?_); omega)

@[simp ↓] theorem sources_avsSend {t : Nat} : (avsSend t s).sources = s.sources := by
  unfold avsSend
  simp

@[simp ↓] theorem sources_levelSteps {t : Nat} : (levelSteps t s).sources = s.sources := by
  unfold levelSteps
  simp

@[simp ↓] theorem sources_levelMove {t : Nat} : (levelMove t s).sources = s.sources := by
  unfold levelMove
  simp (disch := first | omega | (with_unfolding_all refine offResets_of rfl ?_); omega)

@[simp ↓] theorem sources_startLevel {t : Nat} : (startLevel t s).sources = s.sources := by
  unfold startLevel
  simp (disch := first | omega | (with_unfolding_all refine offResets_of rfl ?_); omega)

@[simp ↓] theorem sources_requestLevel {t : Nat} : (requestLevel t s).sources = s.sources := by
  unfold requestLevel
  simp

@[simp ↓] theorem sources_autoRaise : (autoRaise s).sources = s.sources := by
  unfold autoRaise
  simp

@[simp ↓] theorem sources_enterState {l : Nat} {new : Nat} {cause : Nat} {fresh : Bool} :
    (enterState l new cause fresh s).sources = s.sources := by
  unfold enterState
  simp (disch := first | omega | (with_unfolding_all refine offResets_of rfl ?_); omega)

@[simp ↓] theorem sources_putLp {l : Nat} {p : LanePower} : (s.putLp l p).sources = s.sources := by
  unfold State.putLp
  simp (disch := first | omega | (with_unfolding_all refine offResets_of rfl ?_); omega)

@[simp ↓] theorem sources_beginStop {l : Nat} : (beginStop l s).sources = s.sources := by
  unfold beginStop
  simp

@[simp ↓] theorem sources_toOff {l : Nat} : (toOff l s).sources = s.sources := by
  unfold toOff
  simp

@[simp ↓] theorem sources_toFault {l : Nat} {cause : Nat} : (toFault l cause s).sources = s.sources := by
  unfold toFault
  simp (disch := first | omega | (with_unfolding_all refine offResets_of rfl ?_); omega)

@[simp ↓] theorem sources_capPatch {c : Nat} {first : Nat} {size : Nat} {fill : Option Nat} {data : List Nat} :
    (capPatch c first size fill data s).sources = s.sources := by
  unfold capPatch
  simp

@[simp ↓] theorem sources_capRegion {c : Nat} {base : Nat} {size : Nat} {block : Nat} {total : Nat} {bytes : List Nat} :
    (capRegion c base size block total bytes s).sources = s.sources := by
  unfold capRegion
  simp

@[simp ↓] theorem sources_capRecorded {c : Nat} {total : Nat} {taken : List (List LineSamples)} :
    (capRecorded c total taken s).sources = s.sources :=
  sources_foldl (fun _ _ => sources_capRegion) _

@[simp ↓] theorem sources_capEnded {c : Nat} : (capEnded c s).sources = s.sources := by
  unfold capEnded
  simp

@[simp ↓] theorem sources_capCut {c : Nat} : (capCut c s).sources = s.sources := by
  unfold capCut
  simp

@[simp ↓] theorem sources_capScramble {c : Nat} : (capScramble c s).sources = s.sources := by
  unfold capScramble
  simp

@[simp ↓] theorem sources_capPreempt : (capPreempt s).sources = s.sources :=
  sources_foldl (fun _ _ => by simp (disch := first | omega | (with_unfolding_all refine offResets_of rfl ?_); omega)) _

@[simp ↓] theorem sources_capPowerLoss {c : Nat} : (capPowerLoss c s).sources = s.sources := by
  unfold capPowerLoss
  simp (disch := first | omega | (with_unfolding_all refine offResets_of rfl ?_); omega)

@[simp ↓] theorem sources_putByte {a : Nat} {v : Nat} : (s.putByte a v).sources = s.sources := by
  unfold State.putByte
  simp

@[simp ↓] theorem sources_putWord64 {a : Nat} {v : Nat} : (s.putWord64 a v).sources = s.sources :=
  sources_foldl (fun _ _ => sources_putByte) _

@[simp ↓] theorem sources_putClass {k : Nat} {c : Nat} : (s.putClass k c).sources = s.sources := by
  unfold State.putClass
  simp

@[simp ↓] theorem sources_putEcc {a : Nat} {c : Nat} : (s.putEcc a c).sources = s.sources := by
  unfold State.putEcc
  simp

@[simp ↓] theorem sources_recordDone {r : GranaryRecord} : (recordDone r s).sources = s.sources := by
  unfold recordDone
  cases r <;> simp (disch := first | omega | (with_unfolding_all refine offResets_of rfl ?_); omega)

@[simp ↓] theorem sources_nvsDropFwc : (nvsDropFwc s).sources = s.sources := by
  unfold nvsDropFwc
  simp

@[simp ↓] theorem sources_nvsStore : (nvsStore s).sources = s.sources := by
  unfold nvsStore
  split
  · dsimp only
    split <;> simp
  · rfl

@[simp ↓] theorem sources_anchorStop : (anchorStop s).sources = s.sources := by
  unfold anchorStop
  simp (disch := first | omega | (with_unfolding_all refine offResets_of rfl ?_); omega)

@[simp ↓] theorem sources_calHalt : (calHalt s).sources = s.sources := by
  have hfold : ((List.range 8).foldl (fun s l => (calRunStop l (calStopApplying l s)).putCal l
      { (calRunStop l (calStopApplying l s)).cal l with stage := 0, sweepLeft := 0, sweepStage := 0, sweepFirst := 0 })
      s).sources = s.sources := sources_foldl (fun _ _ => by simp) _
  unfold calHalt
  simp [hfold]

@[simp ↓] theorem sources_cdacJump {n : Nat} {code : Nat} : (cdacJump n code s).sources = s.sources := by
  unfold cdacJump
  simp (disch := first | omega | (with_unfolding_all refine offResets_of rfl ?_); omega)

@[simp ↓] theorem sources_cdacEnterFault {n : Nat} {comp : Nat} : (cdacEnterFault n comp s).sources = s.sources := by
  unfold cdacEnterFault
  simp (disch := first | omega | (with_unfolding_all refine offResets_of rfl ?_); omega)

@[simp ↓] theorem sources_cdacFault {n : Nat} {cause : Nat} {comp : Option Nat} :
    (cdacFault n cause comp s).sources = s.sources := by
  have hcause : OffResets (cdacCause n cause) := by
    unfold cdacCause
    split <;> exact offResets_of rfl (by omega)
  unfold cdacFault
  simp [hcause]

@[simp ↓] theorem sources_cdacFaultAll {cause : Nat} : (cdacFaultAll cause s).sources = s.sources :=
  sources_foldl (fun _ _ => sources_cdacFault) _

@[simp ↓] theorem sources_cdacClampAll : (cdacClampAll s).sources = s.sources := by
  have hfold : ((List.range 48).foldl (fun s n => ((s.set (R.CDAC_CH_STAT_STATE n) 0).set (R.CDAC_CH_STAT_OUT n) 0).setB
      (R.CDAC_CH_STAT_RAMPING n) false) s).sources = s.sources :=
    sources_foldl (fun _ _ => by
      simp (disch := first | omega | (with_unfolding_all refine offResets_of rfl ?_); omega)) _
  unfold cdacClampAll
  simp (disch := first | omega | (with_unfolding_all refine offResets_of rfl ?_); omega) [hfold]

@[simp ↓] theorem sources_learnWatch : (learnWatch s).sources = s.sources := by
  unfold learnWatch
  simp

@[simp ↓] theorem sources_rateNote : (rateNote s).sources = s.sources := by
  unfold rateNote
  simp

@[simp ↓] theorem sources_setQual {q : Nat} : (setQual q s).sources = s.sources := by
  unfold setQual
  simp (disch := first | omega | (with_unfolding_all refine offResets_of rfl ?_); omega)

@[simp ↓] theorem sources_timClear : (timClear s).sources = s.sources := by
  unfold timClear
  simp

@[simp ↓] theorem sources_marchPreempt : (marchPreempt s).sources = s.sources := by
  have howner : OffResets (R.CLAIM_OWNER (capBlk (s.store.marchId - 0x20))) := offResets_base rfl (by decide)
  unfold marchPreempt
  simp (disch := first | omega | (with_unfolding_all refine offResets_of rfl ?_); omega) [howner]

@[simp ↓] theorem sources_spendPages : s.spendPages.sources = s.sources := (rfl)

@[simp ↓] theorem sources_startCommit {mask : Nat} : (startCommit mask s).sources = s.sources := by
  unfold startCommit
  dsimp only
  split <;> simp

@[simp ↓] theorem sources_triggerWaits {bit : Nat} : (triggerWaits bit s).sources = s.sources := by
  unfold triggerWaits
  simp (disch := first | omega | (with_unfolding_all refine offResets_of rfl ?_); omega)

@[simp ↓] theorem sources_commitTrigger {bit : Nat} : (commitTrigger bit s).sources = s.sources := by
  unfold commitTrigger
  split
  · rfl
  · split <;> simp (disch := first | omega | (with_unfolding_all refine offResets_of rfl ?_); omega)

@[simp ↓] theorem sources_faultLanes {cause : Nat} : (faultLanes cause s).sources = s.sources :=
  sources_foldl (fun _ _ => by simp) _

@[simp ↓] theorem sources_thermalActs : (thermalActs s).sources = s.sources := by
  unfold thermalActs
  simp

@[simp ↓] theorem sources_lockdownActs : (lockdownActs s).sources = s.sources := by
  unfold lockdownActs
  simp

@[simp ↓] theorem sources_holdsAct : (holdsAct s).sources = s.sources := by
  unfold holdsAct
  simp

@[simp ↓] theorem sources_lanesOff {ls : List Nat} : (lanesOff ls s).sources = s.sources :=
  sources_foldl (fun _ _ => by simp) _

@[simp ↓] theorem sources_expertLost {b : Blk} {req : Nat} : (expertLost b req s).sources = s.sources := by
  unfold expertLost
  simp

@[simp ↓] theorem sources_expertsLost : (expertsLost s).sources = s.sources :=
  sources_foldl (fun _ _ => by simp) _

@[simp ↓] theorem sources_coldCaps {lose : Bool} : (coldCaps lose s).sources = s.sources :=
  sources_foldl (fun _ _ => by simp) _

@[simp ↓] theorem sources_coastLanes : (coastLanes s).sources = s.sources :=
  sources_foldl (fun _ _ => by simp) _

@[simp ↓] theorem sources_mailboxAborted : (mailboxAborted s).sources = s.sources := by
  have hslots : ∀ t : State, ((List.range 4).foldl (fun s n =>
      if s.get (R.FWC_MBX_SLOT_STATE n) = 1 || s.get (R.FWC_MBX_SLOT_STATE n) = 2 then
        ((s.set (R.FWC_MBX_SLOT_STATE n) 3).set (R.FWC_MBX_SLOT_RESULT n) 7).setB (R.FWC_STAT_ABORTED n) true
      else s) t).sources = t.sources := fun t => sources_range fun _ n hn => by
    simp (disch := first | omega | (with_unfolding_all refine offResets_of rfl ?_); omega)
  unfold mailboxAborted
  rw [hslots]
  simp

end
end Sys2Proof.Machine
end

section
/-!
PROOF. What the status of host ports leaves unchanged, and what a reset of a block returns (R181, R188, R390).
-/

namespace Sys2Proof.Machine

open Sys2Proof

/-- The base of GBX or TXP of line lane m, the blocks that show the status of host ports. -/
def PortBase (m a : Nat) : Prop :=
  a = 0x02030000 + m * 0x00100000 ∨ a = 0x02040000 + m * 0x00100000

/-- A field that neither counting nor the status of host ports touches. -/
def OffPorts (f : Fld) : Prop :=
  ¬ f.counter ∧ ∀ m a, m < 8 → PortBase m a → ∀ o, o < 65536 → f.key / 256 ≠ a + o

section
variable {s : State} {f : Fld}

theorem OffPorts.ne (hf : OffPorts f) {g : Fld} {m a o lo w rst : Nat} {k : Kind} (hg : g = fld (a + o) lo w rst k)
    (hm : m < 8) (ha : PortBase m a) (h : o < 65536 ∧ lo < 64) : g.key ≠ f.key := by
  intro he
  have hcode : k.code < 4 := by cases k <;> decide
  refine hf.2 m a hm ha o h.1 ?_
  rw [← he, hg]
  dsimp only
  omega

theorem get_foldl {α : Type} {g : State → α → State} {l : List α} (hg : ∀ t, ∀ a ∈ l, (g t a).get f = t.get f) :
    (l.foldl g s).get f = s.get f :=
  List.foldlRecOn (motive := fun t => t.get f = s.get f) l g rfl fun t ht a ha => (hg t a ha).trans ht

theorem OffPorts.irq (hf : OffPorts f) {m n : Nat} (hm : m < 8) (hn : n < 64) : (s.irq ⟨.gbx, m⟩ n).get f = s.get f :=
  State.irq_get_ne _ _ _ hf.1 (hf.ne (o := 0x10) rfl hm (.inl rfl) (by omega))

theorem OffPorts.change (hf : OffPorts f) {g : Fld} {m n : Nat} {new : Bool} (hm : m < 8) (hn : n < 64)
    (hg : g.key ≠ f.key) : (s.change g new ⟨.gbx, m⟩ n).get f = s.get f := by
  unfold State.change
  split
  · rfl
  · exact (hf.irq (s := s.setB g new) hm hn).trans (State.get_set_ne _ _ hg)

theorem hostIndex_lt (swap : Bool) (h : Nat) : hostIndex swap h < 2 := by
  unfold hostIndex
  split <;> omega

/-! ### Host ports (R181, R188, R194) -/

theorem OffPorts.hostLeave (hf : OffPorts f) {h : Nat} (hh : h < 16) : (hostLeave h s).get f = s.get f :=
  State.get_set_ne _ _ (hf.ne (m := h / 2) rfl (by omega) (.inr rfl) (by omega))

theorem OffPorts.amLose (hf : OffPorts f) {h : Nat} (hh : h < 16) : (amLose h s).get f = s.get f := by
  have hj := hostIndex_lt (s.rx (h / 2)).txSwap h
  exact (hf.hostLeave hh).trans <|
    hf.change (by omega) (by omega) (hf.ne (m := h / 2) rfl (by omega) (.inl rfl) (by omega))

theorem OffPorts.setGbx (hf : OffPorts f) {g : Fld} {m o lo w rst : Nat} {k : Kind} {v : Bool} (hm : m < 8)
    (hg : g = fld (0x02030000 + m * 0x00100000 + o) lo w rst k) (h : o < 65536 ∧ lo < 64) :
    (s.setB g v).get f = s.get f :=
  State.get_set_ne _ _ (hf.ne hg hm (.inl rfl) h)

theorem OffPorts.portDrop (hf : OffPorts f) {ms : List Nat} (hms : ∀ m ∈ ms, m < 8) :
    (portDrop ms s).get f = s.get f :=
  (get_foldl fun _ m hm => hf.setGbx (hms m hm) rfl (by decide)).trans <| get_foldl fun _ m hm => by
    have hlt := hms m hm
    exact (hf.amLose (by omega)).trans (hf.amLose (by omega))

theorem OffPorts.portRestart (hf : OffPorts f) {ms : List Nat} (hms : ∀ m ∈ ms, m < 8) :
    (portRestart ms s).get f = s.get f :=
  (get_foldl fun _ m hm => hf.change (hms m hm) (by decide)
    (hf.ne rfl (hms m hm) (.inl rfl) (by decide))).trans <|
  (get_foldl fun _ m hm => hf.setGbx (hms m hm) rfl (by decide)).trans (hf.portDrop hms)

theorem OffPorts.cfgRefresh (hf : OffPorts f) : (cfgRefresh s).get f = s.get f :=
  get_foldl fun t l hl => by
    have hlt : l < 8 := List.mem_range.mp hl
    have herr : (((if t.cfgErr l && !t.getB (R.GBX_HOST_STAT_CFG_ERR l) then t.irq ⟨.gbx, l⟩ 4 else t).setB
        (R.GBX_HOST_STAT_CFG_ERR l) (t.cfgErr l))).get f = t.get f := by
      refine (hf.setGbx hlt rfl (by decide)).trans ?_
      split
      · exact hf.irq hlt (by decide)
      · rfl
    have hdown : ∀ u : State, (if u.portBad l then (u.change (R.GBX_OC_STAT_CW_LOCK l) false ⟨.gbx, l⟩ 9).setB
        (R.GBX_HOST_STAT_DESKEWED l) false else u).get f = u.get f := fun u => by
      split
      · exact (hf.setGbx hlt rfl (by decide)).trans
          (hf.change hlt (by decide) (hf.ne rfl hlt (.inl rfl) (by decide)))
      · rfl
    exact (hdown _).trans herr

theorem OffPorts.portFollow (hf : OffPorts f) {l was : Nat} {old : List Nat} (hl : l < 8) (hold : ∀ m ∈ old, m < 8) :
    (portFollow l was old s).get f = s.get f := by
  unfold Machine.portFollow
  rw [hf.cfgRefresh]
  split
  · rfl
  · refine hf.portRestart fun m hm => ?_
    simp only [List.mem_eraseDups, List.cons_append, List.mem_cons, List.mem_append] at hm
    obtain rfl | hm | hm := hm
    · exact hl
    · exact hold m hm
    · exact portMembers_lt hl hm

end

/-! ### A block returns to reset (R390, R396) -/

theorem natGet_filter (p : Nat → Bool) (m : NatMap) (k : Nat) :
    natGet (m.filter fun e => p e.1) k = if p k then natGet m k else none := by
  induction m with
  | nil => simp [natGet]
  | cons e m ih =>
    obtain ⟨a, v⟩ := e
    by_cases ha : k = a
    · subst ha
      cases hp : p k with
      | true => simp [natGet, hp]
      | false => simpa [List.filter_cons, hp] using ih
    · rw [List.filter_cons]
      split <;> simp [natGet, ha, ih]

/-- A field reads its reset value where its key left the register file, and otherwise what it held. -/
theorem State.get_filter {s t : State} {p : Nat → Bool} (h : t.regs = s.regs.filter fun e => p e.1) (f : Fld) :
    t.get f = if p f.key then s.get f else f.rst := by
  unfold State.get
  rw [h, natGet_filter]
  split <;> rfl

section
variable {s : State} {f : Fld}

theorem blockReset_get {b : Blk} {req : Nat} (hport : b.kind = .gbx → b.inst < 8 ∧ OffPorts f)
    (hne : f.key ≠ (R.BLK_STAT_IN_RESET b).key) : (blockReset b req s).get f =
      if keyKind f.key = 0 ∧ keyRegion f.key = b.base / 65536 then f.rst
      else (blockClear b (expertLost b req s)).get f := by
  unfold blockReset
  extract_lets a keep t u
  have hu : u.get f = if keyKind f.key = 0 ∧ keyRegion f.key = b.base / 65536 then f.rst else a.get f := by
    have ht : u.get f = t.get f := by
      simp only [u]
      split
      · exact State.get_set_ne _ _ hne.symm
      · rfl
    rw [ht, State.get_filter (s := a) (p := fun k => !(keyKind k == 0 && keyRegion k == b.base / 65536)) rfl]
    by_cases hk : keyKind f.key = 0 ∧ keyRegion f.key = b.base / 65536
    · simp [hk]
    · rw [if_neg hk, if_pos (by simpa [not_and_or, -not_and] using hk)]
  refine Eq.trans ?_ hu
  split
  next hg =>
    obtain ⟨hl, hf⟩ := hport (by simpa using hg)
    exact hf.portFollow hl fun m hm => portMembers_lt hl hm
  · rfl

theorem capPatch_regs {c first size : Nat} {fill : Option Nat} {data : List Nat} :
    (capPatch c first size fill data s).regs = s.regs := rfl

theorem capRegion_regs {c base size block total : Nat} {bytes : List Nat} :
    (capRegion c base size block total bytes s).regs = s.regs := by
  unfold capRegion
  dsimp only
  split
  · rfl
  · split <;> rfl

theorem capCut_regs {c : Nat} : (capCut c s).regs = s.regs := by
  unfold capCut
  dsimp only
  split
  · rfl
  · split
    · exact List.foldlRecOn (motive := fun t : State => t.regs = s.regs) _ _ rfl fun t ht a _ => capRegion_regs.trans ht
    · split <;> rfl

/-- What a reset of a block in a sheaf does beside its registers touches none. -/
theorem blockClear_regs {b : Blk} {sh : Nat} (hb : b.sheaf? = some sh) : (blockClear b s).regs = s.regs := by
  obtain ⟨k, i⟩ := b
  cases k <;> cases hb
  case cap =>
    dsimp only [blockClear]
    split
    · exact capCut_regs
    · rfl
  all_goals rfl

theorem expertLost_regs {b : Blk} {req : Nat} : (expertLost b req s).regs = s.regs := by
  unfold expertLost
  split <;> rfl

end
end Sys2Proof.Machine
end

section
/-!
PROOF. POR, RESET_N and GLOBAL (R389, R390, R392, R393, R429).
-/

namespace Sys2Proof.Machine

open Sys2Proof

section
variable {s : State}

/-- The registers alone tell what a field reads. -/
theorem State.get_of_regs {t : State} (h : t.regs = s.regs) (f : Fld) : t.get f = s.get f := by
  unfold State.get
  rw [h]

/-! ### POR -/

theorem porWord_idle (h : s.store.slot = none) : porWord s = s := by
  unfold porWord
  rw [h]

/-- A byte of Granary rests on the list of bytes and on the life cycle alone. -/
theorem byteAt_granary {t : State} {a : Nat} (ha : granaryBase ≤ a ∧ a < granaryBase + granarySize)
    (hm : cellGet t.mem a = cellGet s.mem a) (hl : t.fuses.life = s.fuses.life) : t.byteAt a = s.byteAt a := by
  obtain ⟨d, hd⟩ := memDefault_granary (s := s) ha
  unfold State.byteAt
  rw [hm, memDefault_granary_congr hl ha.1, hd]

/-- The registers after POR: those of reset, with the cause of a RESET_N that is low. -/
theorem porAssert_regs :
    (porAssertOp s).regs =
      (if (porWord s).resets.pin then State.reset.setB R.RST_CAUSE_PIN true else State.reset).regs :=
  rfl

theorem porAssert_get {f : Fld} (hf : f.key ≠ R.RST_CAUSE_PIN.key) : (porAssertOp s).get f = f.rst := by
  have hreset : State.reset.get f = f.rst := State.get_of_regs_nil rfl f
  rw [State.get_of_regs porAssert_regs]
  split
  · exact (State.get_set_ne _ _ hf.symm).trans hreset
  · exact hreset

theorem porAssert_ends (h : s.store.slot = none) : Ends .porAssert s fun t =>
    (∀ f : Fld, f.key ≠ R.RST_CAUSE_PIN.key → t.get f = f.rst) ∧
    (∀ a, granaryBase ≤ a → a < granaryBase + granarySize → t.byteAt a = s.byteAt a) ∧
    t.fuses.life = s.fuses.life ∧ t.fuses.owners = s.fuses.owners ∧ t.pending = s.pending ∧ t.resets.por = true := by
  have hidle := porWord_idle h
  have hlife : (porAssertOp s).fuses.life = s.fuses.life := (congrArg (fun t : State => t.fuses.life) hidle :)
  have howners : (porAssertOp s).fuses.owners = s.fuses.owners := (congrArg (fun t : State => t.fuses.owners) hidle :)
  have hmem : (porAssertOp s).mem = s.mem.filter fun e => decide (granaryBase ≤ e.1) :=
    congrArg (fun t : State => t.mem.filter fun e : Host.Cell => decide (granaryBase ≤ e.1)) hidle
  have hpending : (porAssertOp s).pending = s.pending := (congrArg State.pending hidle :)
  refine ⟨settle (porAssertOp s), rfl, fun f hf => porAssert_get hf, fun a ha hb => byteAt_granary ⟨ha, hb⟩ ?_ hlife,
    hlife, howners, hpending, rfl⟩
  exact (congrArg (cellGet · a) hmem).trans (cellGet_filter (fun _ => decide_eq_true ha) s.mem)

/-! ### RESET_N and GLOBAL (R389, R392, R393) -/

theorem resets_of_sources {t : State} (h : t.sources = s.sources) : t.resets = s.resets := congrArg Prod.fst h

theorem sheafReset_of_sources {t : State} (h : t.sources = s.sources) {sh : Nat} (hsh : sh < 2) :
    t.sheafReset sh = s.sheafReset sh := by
  have hmap := List.map_inj_left.mp (congrArg Prod.snd h)
  exact hmap sh (by simp; omega)

theorem coldClear_resets : (coldClear false s).resets = s.resets := by
  unfold coldClear
  extract_lets fail a b c
  have h : c.sources = s.sources := by simp [c, b, a]
  clear_value c
  exact (resets_of_sources h : c.resets = s.resets)

/-- After COLD the fields with POR reset hold what they held, and TRNG_FAIL what it held before. -/
theorem coldClear_get {lose : Bool} {f : Fld} (hk : keyKind f.key ≠ 3) (hf : f.key ≠ R.SEC_STAT_TRNG_FAIL.key) :
    (coldClear lose s).get f = f.rst := by
  unfold coldClear
  extract_lets fail a b c
  clear_value c
  refine (State.get_set_ne _ _ hf.symm).trans ?_
  exact (State.get_filter (s := c) (p := fun k => keyKind k == 3) rfl f).trans (if_neg (by simpa using hk))

theorem coldClear_cleared : (coldClear false s).spi = Port.reset ∧ (coldClear false s).i3c = Port.reset ∧
    (coldClear false s).shadow = [] ∧ (coldClear false s).staged = [] ∧ (coldClear false s).woken = [] := by
  unfold coldClear
  extract_lets fail a b c
  clear_value c
  exact ⟨rfl, rfl, rfl, rfl, rfl⟩

/-- COLD that acts: every source of it clears the ports, the shadows, the staged words and the wakes, and returns the
fields without POR reset but TRNG_FAIL (R390). -/
theorem coldClear_ends {c : Instr} {u : State} (hx : exec c s = done (coldClear false u)) :
    Ends c s fun t => t.resets = u.resets ∧ t.spi = Port.reset ∧ t.i3c = Port.reset ∧ t.shadow = [] ∧ t.staged = [] ∧
      t.woken = [] ∧ ∀ f : Fld, keyKind f.key ≠ 3 → f.key ≠ R.SEC_STAT_TRNG_FAIL.key → t.get f = f.rst := by
  obtain ⟨hspi, hi3c, hshadow, hstaged, hwoken⟩ := coldClear_cleared (s := u)
  have hresets := coldClear_resets (s := u)
  have hget : ∀ f : Fld, keyKind f.key ≠ 3 → f.key ≠ R.SEC_STAT_TRNG_FAIL.key → (coldClear false u).get f = f.rst :=
    fun _ hk hf => coldClear_get hk hf
  generalize coldClear false u = v at *
  exact ⟨settle v, hx, hresets, hspi, hi3c, hshadow, hstaged, hwoken, hget⟩

/-- The state in which a source of COLD reach is recorded. -/
def State.coldRecorded (s : State) (put : ResetSources → ResetSources) (cause : Fld) (bit : Nat) : State :=
  { resetEvent (2 ^ bit) (s.setB cause true) with resets := { put s.resets with waiting := true } }

theorem assertCold_ends {c : Instr} {put : ResetSources → ResetSources} {cause : Fld} {bit : Nat}
    (hx : exec c s = done (assertCold put cause bit false s)) (hw : cause.w = 1) (hp : Plain cause) :
    if s.coldAsserted = true then Effect c s [(cause, 1)] { s with resets := { put s.resets with waiting := true } }
    else Ends c s fun t => t.resets = { put s.resets with waiting := true } ∧ t.spi = Port.reset ∧ t.i3c = Port.reset ∧
      t.shadow = [] ∧ t.staged = [] ∧ t.woken = [] ∧
      ∀ f : Fld, keyKind f.key ≠ 3 → f.key ≠ R.SEC_STAT_TRNG_FAIL.key → t.get f = f.rst := by
  have hop : assertCold put cause bit false s = if !s.coldAsserted then coldClear false (s.coldRecorded put cause bit)
      else s.coldRecorded put cause bit := rfl
  split
  next hcold =>
    rw [hop, hcold] at hx
    have hone : After s (s.setB cause true) [(cause, 1)] := After.one (by rw [hw]; decide) hp
    obtain ⟨hvals, hrest, -, -⟩ := hone
    exact ⟨_, hx, hvals, hrest, rfl⟩
  next hcold =>
    rw [hop, Bool.eq_false_of_not_eq_true hcold] at hx
    exact coldClear_ends hx

end
end Sys2Proof.Machine
end

section
/-!
PROOF. WARM and the watchdog's expiry (R393 to R395).
-/

namespace Sys2Proof.Machine

open Sys2Proof

section
variable {s : State}

/-! ### WARM (R389, R390, R393, R394) -/

/-- A lane in CANDLE or FULL enters COAST; another stays. -/
def coastLane (l : Nat) (s : State) : State :=
  if s.laneCode l = 2 || s.laneCode l = 3 then enterState l 4 0 false s else s

/-- The view of a lane after WARM. -/
def State.coasted (s : State) (l : Nat) : LaneView :=
  if s.laneCode l = 2 ∨ s.laneCode l = 3 then s.laneIn l 4 else s.laneView l

theorem coasted_of_view {t : State} {l : Nat} (h : t.laneView l = s.laneView l) : t.coasted l = s.coasted l := by
  unfold State.coasted State.laneIn
  rw [laneCode_of_view h, h]

theorem coastLane_view {l : Nat} (hl : l < 8) : OnlyLane s (coastLane l s) l (s.coasted l) := by
  unfold coastLane State.coasted
  simp only [Bool.or_eq_true, decide_eq_true_eq]
  split
  · exact SameLanes.rfl'.enter hl (by decide) false
  · exact SameLanes.rfl'.only hl

/-- Of the first `n` lanes those in CANDLE and FULL coast, and no other lane changes. -/
theorem coastLane_views {n : Nat} (hn : n ≤ 8) {m : Nat} (hm : m < 8) :
    ((List.range n).foldl (fun s l => coastLane l s) s).laneView m = if m < n then s.coasted m else s.laneView m := by
  induction n generalizing m with
  | zero => rfl
  | succ n ih =>
    have hfirst {k : Nat} (hk : k < 8) := ih (by omega) hk
    rw [List.range_succ, List.foldl_append]
    generalize (List.range n).foldl (fun s l => coastLane l s) s = t at hfirst ⊢
    obtain ⟨hnew, hrest⟩ := coastLane_view (s := t) (l := n) (by omega)
    show (coastLane n t).laneView m = _
    by_cases hmn : m = n
    · subst hmn
      have hold : t.laneView m = s.laneView m := by rw [hfirst hm, if_neg (by omega)]
      rw [hnew, coasted_of_view hold, if_pos (by omega)]
    · have hiff : m < n + 1 ↔ m < n := by omega
      rw [hrest m hm hmn, hfirst hm]
      simp only [hiff]

theorem coastLanes_view {l : Nat} (hl : l < 8) : (coastLanes s).laneView l = s.coasted l :=
  (coastLane_views (n := 8) le_rfl hl).trans (if_pos hl)

theorem lanes_mailboxAborted : SameLanes s (mailboxAborted s) := by
  unfold mailboxAborted
  refine lanes_range (fun n hn t ht => lanes_ite (lanes_setB ?_ (lanes_set ?_ (lanes_set ?_ ht))) ht)
    (SameLanes.rfl'.regs rfl)
  all_goals
    simp only [LaneKey, R.FWC_STAT_ABORTED, R.FWC_MBX_SLOT_RESULT, R.FWC_MBX_SLOT_STATE, fld, Kind.code]
    omega

theorem warmRegs_get {t : State} (h : t.regs = resetWarmRegs s.regs) (f : Fld) :
    t.get f = if keyKind f.key = 1 then f.rst else s.get f := by
  rw [State.get_filter (p := fun k => keyKind k != 1) h]
  by_cases hk : keyKind f.key = 1 <;> simp [hk]

/-- A field outside those with WARM reset holds what it held. -/
theorem warmRegs_get_of_fld {t : State} (h : t.regs = resetWarmRegs s.regs) {f : Fld} {a lo w rst : Nat} {k : Kind}
    (hf : f = fld a lo w rst k) (hk : k.code ≠ 1) : t.get f = s.get f := by
  have hcode : k.code < 4 := by cases k <;> decide
  rw [warmRegs_get h, if_neg]
  unfold keyKind
  rw [hf]
  dsimp only
  omega

theorem warmRegs_view {t : State} (h : t.regs = resetWarmRegs s.regs) (l : Nat) : t.laneView l = s.laneView l := by
  unfold State.laneView State.laneCode State.laneEn State.getB State.rate State.mode State.slice laneFld
  simp only [warmRegs_get_of_fld h (f := R.SHF_LANE_STATE_STATE _ _) rfl (by decide),
    warmRegs_get_of_fld h (f := R.SHF_LANE_FAULT_CAUSE _ _) rfl (by decide),
    warmRegs_get_of_fld h (f := R.SHF_LANE_CFG_EN _ _) rfl (by decide),
    warmRegs_get_of_fld h (f := R.SHF_LANE_CFG_RATE _ _) rfl (by decide),
    warmRegs_get_of_fld h (f := R.SHF_LANE_CFG_MODE _ _) rfl (by decide),
    warmRegs_get_of_fld h (f := R.SHF_SLICE_MAP_LANE_SLICE _ _) rfl (by decide)]

/-- The state in which a source of WARM reach is recorded. -/
def State.warmRecorded (s : State) : State :=
  { resetEvent (2 ^ 5) (s.setB R.RST_CAUSE_WARM true) with resets := { s.resets with warm := true } }

theorem lanes_warmRecorded : SameLanes s s.warmRecorded :=
  (lanes_setB (f := R.RST_CAUSE_WARM) (v := true) (by unfold LaneKey; decide) SameLanes.rfl').regs rfl

theorem warmClear_regs : (warmClear s).regs = resetWarmRegs (mailboxAborted (coastLanes s)).regs := by
  unfold warmClear
  generalize mailboxAborted (coastLanes s) = t
  rfl

theorem warmClear_view {l : Nat} (hl : l < 8) : (warmClear s).laneView l = s.coasted l :=
  (warmRegs_view warmClear_regs l).trans ((lanes_mailboxAborted.view hl).trans (coastLanes_view hl))

theorem warmClear_resets : (warmClear s).resets = s.resets := by
  have h : (mailboxAborted (coastLanes s)).sources = s.sources := by simp
  unfold warmClear
  generalize mailboxAborted (coastLanes s) = t at h ⊢
  exact (resets_of_sources h : t.resets = s.resets)

theorem warmClear_ports : (warmClear s).spi = Port.reset ∧ (warmClear s).i3c = Port.reset := by
  unfold warmClear
  generalize mailboxAborted (coastLanes s) = t
  exact ⟨rfl, rfl⟩

/-- WARM once firmware has started: the fields with WARM reset and the ports return to reset, and lanes coast. -/
theorem warm_ends (hcold : s.coldAsserted = false) (hphase : 6 ≤ s.phase) : Ends .warm s fun t =>
    t.resets = { s.resets with warm := true } ∧ t.spi = Port.reset ∧ t.i3c = Port.reset ∧
    (∀ f : Fld, keyKind f.key = 1 → t.get f = f.rst) ∧
    ∀ l : Lane, t.laneView l = if s.laneCode l = 2 ∨ s.laneCode l = 3 then s.laneIn l 4 else s.laneView l := by
  have hop : ∃ b, warmOp s = { warmClear s.warmRecorded with boot := b } := by
    unfold warmOp assertWarm
    rw [hcold, if_neg Bool.false_ne_true, if_neg (by omega)]
    exact ⟨_, rfl⟩
  have hresets := warmClear_resets (s := s.warmRecorded)
  obtain ⟨hspi, hi3c⟩ := warmClear_ports (s := s.warmRecorded)
  have hget : ∀ f : Fld, keyKind f.key = 1 → (warmClear s.warmRecorded).get f = f.rst :=
    fun f hf => (warmRegs_get warmClear_regs f).trans (if_pos hf)
  have hview : ∀ l : Lane, (warmClear s.warmRecorded).laneView l = s.coasted l :=
    fun l => (warmClear_view l.isLt).trans (coasted_of_view (lanes_warmRecorded.view l.isLt))
  obtain ⟨b, hop⟩ := hop
  have hx : exec .warm s = done (warmOp s) := rfl
  rw [hop] at hx
  generalize warmClear s.warmRecorded = v at *
  exact ⟨_, hx, hresets, hspi, hi3c, hget, hview⟩

theorem warm_cold_effect (h : s.coldAsserted = true) : Effect .warm s [] s :=
  effect_of_regs (u := s) (show exec .warm s = done s by
    show done (warmOp s) = _
    unfold warmOp assertWarm
    rw [if_pos h]) rfl

theorem warm_early_effect (hcold : s.coldAsserted = false) (hphase : s.phase < 6) :
    Effect .warm s [(R.RST_CAUSE_WARM, 1)] s := by
  have hop : warmOp s = s.setB R.RST_CAUSE_WARM true := by
    unfold warmOp assertWarm
    rw [hcold, if_neg Bool.false_ne_true, if_pos hphase]
  have hplain : Plain R.RST_CAUSE_WARM := by unfold Plain Fld.counter; decide
  exact (After.one (by decide) hplain).effect (congrArg done hop) rfl

theorem wdtExpiry_idle (h : s.getB R.RST_WDT_CFG_RUNNING = false ∨ s.warmAsserted = true) : Effect .wdtExpiry s [] s :=
  effect_of_regs (u := s) (show exec .wdtExpiry s = done s by
    show done (wdtExpiryOp s) = _
    unfold wdtExpiryOp
    rw [if_neg]
    obtain h | h := h <;> simp [h]) rfl

end
end Sys2Proof.Machine
end

section
/-!
PROOF. SHEAF (R389, R390).
-/

namespace Sys2Proof.Machine

open Sys2Proof

section
variable {s : State}

/-! ### SHEAF (R389, R390) -/

theorem toOff_code {l m : Nat} (hl : l < 8) (hm : m < 8) :
    (toOff l s).laneCode m = if m = l then 0 else s.laneCode m := by
  by_cases h0 : s.laneCode l = 0
  · rw [toOff, if_pos h0]
    split
    next h => rw [h, h0]
    · rfl
  · obtain ⟨hnew, hrest⟩ := toOff_view hl h0
    split
    next h =>
      rw [h]
      exact congrArg LaneView.code hnew
    next h => exact laneCode_of_view (hrest m hm h)

theorem lanesOff_code {ls : List Nat} (hls : ∀ l ∈ ls, l < 8) {m : Nat} (hm : m < 8) :
    (lanesOff ls s).laneCode m = if m ∈ ls then 0 else s.laneCode m := by
  unfold lanesOff
  induction ls generalizing s with
  | nil => rfl
  | cons l ls ih =>
    rw [List.foldl_cons, ih fun k hk => hls k (List.mem_cons_of_mem _ hk), toOff_code (hls l List.mem_cons_self) hm]
    by_cases hml : m = l <;> simp [hml]

theorem lanes_passLeave {sh : Nat} : SameLanes s (passLeave sh s) := by
  have hpart : ¬ LaneKey R.CAL_STAT_STARTUP_PARTIAL.key := by unfold LaneKey; decide
  unfold passLeave passRemove
  refine lanes_ite (lanes_setB hpart (lanes_ite (lanes_setB hpart ?_) ?_)) ?_
  all_goals exact SameLanes.rfl'.regs rfl

theorem sources_passLeave {sh : Nat} : (passLeave sh s).sources = s.sources := by
  have hpart : OffResets R.CAL_STAT_STARTUP_PARTIAL := by unfold OffResets; decide
  unfold passLeave passRemove
  simp [hpart]

theorem resetEvent_get {cause : Nat} (f : Fld) : (resetEvent cause s).get f = s.get f := rfl

/-- The blocks of a sheaf that its reset reaches, and where their registers lie. -/
theorem sheafBlocks_base {sh : Nat} {b : Blk} (hb : b ∈ sheafBlocks sh) :
    b.sheaf? = some sh ∧ b.base < 2 ^ 32 ∧ 0x01010000 ≤ b.base ∧ (b.kind = .gbx → b.inst < 8) ∧
      b.base ≠ 0x01100000 := by
  obtain ⟨hmem, hsh⟩ := List.mem_filter.mp hb
  have hall : ∀ b ∈ allBlocks, b.sheaf?.isSome → b.kind ≠ .shf → b.base < 2 ^ 32 ∧ 0x01010000 ≤ b.base ∧
      (b.kind = .gbx → b.inst < 8) ∧ b.base ≠ 0x01100000 := by decide
  simp only [Bool.and_eq_true, beq_iff_eq, bne_iff_ne] at hsh
  exact ⟨hsh.1, hall b hmem (by rw [hsh.1]; rfl) hsh.2⟩

/-- The reset of a sheaf's blocks, one after the other. -/
def sheafClear (bs : List Blk) (s : State) : State := bs.foldl (fun s b => blockReset b (s.free 3) s) s

/-- A field that neither the blocks' resets return nor their marks of reset hold. -/
theorem sheafClear_get {bs : List Blk} {sh : Nat} (hbs : ∀ b ∈ bs, b ∈ sheafBlocks sh) {f : Fld} (hf : OffPorts f)
    (hk : ∀ b ∈ bs, f.key ≠ (R.BLK_STAT_IN_RESET b).key ∧ ¬ (keyKind f.key = 0 ∧ keyRegion f.key = b.base / 65536)) :
    (sheafClear bs s).get f = s.get f :=
  get_foldl fun t b hb => by
    obtain ⟨hne, hout⟩ := hk b hb
    obtain ⟨hsh, -, -, hgbx, -⟩ := sheafBlocks_base (hbs b hb)
    rw [blockReset_get (fun h => ⟨hgbx h, hf⟩) hne, if_neg hout,
      State.get_of_regs ((blockClear_regs hsh).trans expertLost_regs)]

/-- A field that reads its reset value still does after the blocks' resets. -/
theorem sheafClear_get_rst {bs : List Blk} {sh : Nat} (hbs : ∀ b ∈ bs, b ∈ sheafBlocks sh) {f : Fld} (hf : OffPorts f)
    (hk : ∀ b ∈ bs, f.key ≠ (R.BLK_STAT_IN_RESET b).key) (h : s.get f = f.rst) : (sheafClear bs s).get f = f.rst := by
  refine List.foldlRecOn (motive := fun t : State => t.get f = f.rst) bs _ h fun t ht b hb => ?_
  obtain ⟨hsh, -, -, hgbx, -⟩ := sheafBlocks_base (hbs b hb)
  rw [blockReset_get (fun h => ⟨hgbx h, hf⟩) (hk b hb),
    State.get_of_regs ((blockClear_regs hsh).trans expertLost_regs), ht, ite_self]

/-- A field with BLOCK reset of one of the blocks reads its reset value after the blocks' resets. -/
theorem sheafClear_get_own {bs : List Blk} {sh : Nat} (hbs : ∀ b ∈ bs, b ∈ sheafBlocks sh) {f : Fld} (hf : OffPorts f)
    (hk : ∀ b ∈ bs, f.key ≠ (R.BLK_STAT_IN_RESET b).key) {b : Blk} (hb : b ∈ bs) (hkind : keyKind f.key = 0)
    (hregion : keyRegion f.key = b.base / 65536) : (sheafClear bs s).get f = f.rst := by
  obtain ⟨as, cs, rfl⟩ := List.append_of_mem hb
  have hcs : ∀ c ∈ cs, c ∈ as ++ b :: cs := fun c hc => by simp [hc]
  have hsplit : sheafClear (as ++ b :: cs) s =
      sheafClear cs (blockReset b ((sheafClear as s).free 3) (sheafClear as s)) := List.foldl_append ..
  obtain ⟨-, -, -, hgbx, -⟩ := sheafBlocks_base (hbs b hb)
  rw [hsplit]
  refine sheafClear_get_rst (fun c hc => hbs c (hcs c hc)) hf (fun c hc => hk c (hcs c hc)) ?_
  rw [blockReset_get (fun h => ⟨hgbx h, hf⟩) (hk b hb), if_pos ⟨hkind, hregion⟩]

theorem keyRegion_fld {f : Fld} {a lo w rst : Nat} {k : Kind} (hf : f = fld a lo w rst k) (h : lo < 64 ∧ a < 2 ^ 36) :
    keyRegion f.key = a / 65536 := by
  have hcode : k.code < 4 := by cases k <;> decide
  have hplace : f.key / 256 = a := by rw [hf]; dsimp only; omega
  unfold keyRegion
  rw [hplace, if_pos h.2]

theorem inReset_region {sh : Nat} {b : Blk} (hb : b ∈ sheafBlocks sh) :
    keyRegion (R.BLK_STAT_IN_RESET b).key = b.base / 65536 := by
  obtain ⟨-, hlt, -⟩ := sheafBlocks_base hb
  have := base_aligned b
  rw [keyRegion_fld (f := R.BLK_STAT_IN_RESET b) rfl (by omega)]
  omega

/-- Fields of REQ and IDEC lie off the host ports. -/
theorem offPorts_of_region {f : Fld} (hc : ¬ f.counter) {l : Nat}
    (hr : keyRegion f.key = 0x201 + 16 * l ∨ keyRegion f.key = 0x202 + 16 * l) : OffPorts f := by
  refine ⟨hc, fun m a hm ha o ho he => ?_⟩
  unfold keyRegion at hr
  unfold PortBase at ha
  rw [he, if_pos (by omega)] at hr
  omega

theorem offPorts_of_low {f : Fld} (hc : ¬ f.counter) (h : f.key / 256 < 0x02000000) : OffPorts f :=
  ⟨hc, fun m a _ ha o _ he => by unfold PortBase at ha; omega⟩

theorem pllsStop_get {sh : Nat} {f : Fld} (h : f.key / 256 ≠ 0x01000000 + sh * 0x00100000 + 0x64) :
    (pllsStop sh s).get f = s.get f := by
  have hline : (R.SHF_PLL_STAT_LINE_LOCK sh).key ≠ f.key := fun he => h <| by
    rw [← he]
    simp only [R.SHF_PLL_STAT_LINE_LOCK, fld, Kind.code]
    omega
  have hhost : (R.SHF_PLL_STAT_HOST_LOCK sh).key ≠ f.key := fun he => h <| by
    rw [← he]
    simp only [R.SHF_PLL_STAT_HOST_LOCK, fld, Kind.code]
    omega
  exact (State.get_set_ne _ _ hhost).trans (State.get_set_ne _ _ hline)

/-- The state in which SHEAF is recorded and the sheaf's lanes have left for OFF. -/
def State.sheafStopped (s : State) (sh : Sheaf) : State :=
  passLeave sh.val (lanesOff ((List.range 4).map (4 * sh.val + ·)) (resetEvent (2 ^ (8 + sh.val))
    ((s.setB (R.RST_CTRL_SHEAF sh.val) true).setB (R.RST_CAUSE_SHEAF sh.val) true)))

theorem sheafStopped_reset {sh : Sheaf} : (s.sheafStopped sh).sheafReset sh = true := by
  have hsources : (s.sheafStopped sh).sources = ((s.setB (R.RST_CTRL_SHEAF sh.val) true).setB
      (R.RST_CAUSE_SHEAF sh.val) true).sources := by
    unfold State.sheafStopped resetEvent
    rw [sources_passLeave]
    simp
  rw [sheafReset_of_sources hsources sh.isLt]
  refine (State.getB_set_ne _ ?_).trans (State.getB_setB_same true le_rfl)
  have := sh.isLt
  simp only [R.RST_CAUSE_SHEAF, R.RST_CTRL_SHEAF, fld, Kind.code]
  omega

theorem sheafStopped_code {sh : Sheaf} {l : Lane} (h : l.val / 4 = sh.val) : (s.sheafStopped sh).laneCode l = 0 := by
  unfold State.sheafStopped
  rw [laneCode_of_view (lanes_passLeave.view l.isLt), lanesOff_code _ l.isLt, if_pos]
  · exact List.mem_map.mpr ⟨l.val % 4, List.mem_range.mpr (by omega), by omega⟩
  · intro k hk
    obtain ⟨i, hi, rfl⟩ := List.mem_map.mp hk
    have hi := List.mem_range.mp hi
    have := sh.isLt
    omega

/-- The state after SHEAF, its events not yet accepted. -/
def State.sheafCleared (s : State) (sh : Sheaf) : State :=
  pllsStop sh.val (sheafClear (sheafBlocks sh.val) (s.sheafStopped sh).draw)

theorem sheaf_exec {sh : Sheaf} (h : s.sheafReset sh = false) : exec (.sheaf sh true) s = done (s.sheafCleared sh) := by
  show done (sheafOp sh.val true s) = _
  unfold sheafOp
  rw [h]
  rfl

theorem sheafCleared_reset {sh : Sheaf} : (s.sheafCleared sh).sheafReset sh = true := by
  have hsh := sh.isLt
  have hkey : (R.RST_CTRL_SHEAF sh.val).key / 256 = 0x30040 := by
    simp only [R.RST_CTRL_SHEAF, fld, Kind.code]
    omega
  have hkind : keyKind (R.RST_CTRL_SHEAF sh.val).key = 2 := by
    simp only [keyKind, R.RST_CTRL_SHEAF, fld, Kind.code]
    omega
  have hoff : OffPorts (R.RST_CTRL_SHEAF sh.val) := offPorts_of_low (by unfold Fld.counter; omega) (by omega)
  have hclear : (sheafClear (sheafBlocks sh.val) (s.sheafStopped sh).draw).get (R.RST_CTRL_SHEAF sh.val) =
      (s.sheafStopped sh).get (R.RST_CTRL_SHEAF sh.val) :=
    (sheafClear_get (fun _ hb => hb) hoff fun b _ => ⟨fun he => by
      rw [he] at hkind
      simp only [keyKind, R.BLK_STAT_IN_RESET, fld, Kind.code] at hkind
      omega, by omega⟩).trans (State.draw_get ..)
  unfold State.sheafReset State.getB State.sheafCleared
  rw [pllsStop_get (by omega), hclear]
  have hstopped := sheafStopped_reset (s := s) (sh := sh)
  generalize s.sheafStopped sh = u at hstopped ⊢
  exact hstopped

theorem sheafCleared_code {sh : Sheaf} {l : Lane} (h : l.val / 4 = sh.val) : (s.sheafCleared sh).laneCode l = 0 := by
  have hl := l.isLt
  have hkey : (R.SHF_LANE_STATE_STATE (l / 4) (l % 4)).key / 256 = 0x01000000 + l / 4 * 0x00100000 + 0x50 := by
    simp only [R.SHF_LANE_STATE_STATE, fld, Kind.code]
    omega
  have hregion : keyRegion (R.SHF_LANE_STATE_STATE (l / 4) (l % 4)).key = 0x100 + 16 * (l / 4) := by
    rw [keyRegion_fld (f := R.SHF_LANE_STATE_STATE (l / 4) (l % 4)) rfl (by omega)]
    omega
  have hoff : OffPorts (R.SHF_LANE_STATE_STATE (l / 4) (l % 4)) :=
    offPorts_of_low (by unfold Fld.counter; omega) (by omega)
  have hclear : (sheafClear (sheafBlocks sh.val) (s.sheafStopped sh).draw).get
      (R.SHF_LANE_STATE_STATE (l / 4) (l % 4)) =
      (s.sheafStopped sh).get (R.SHF_LANE_STATE_STATE (l / 4) (l % 4)) := by
    refine (sheafClear_get (fun _ hb => hb) hoff fun b hb => ?_).trans (State.draw_get ..)
    obtain ⟨-, -, hlow, -, hshf⟩ := sheafBlocks_base hb
    have hbase := base_aligned b
    refine ⟨fun he => ?_, by omega⟩
    rw [he] at hkey
    simp only [R.BLK_STAT_IN_RESET, fld, Kind.code] at hkey
    omega
  unfold State.laneCode State.sheafCleared
  rw [pllsStop_get (by omega), hclear]
  have hstopped := sheafStopped_code (s := s) h
  generalize s.sheafStopped sh = u at hstopped ⊢
  exact hstopped

theorem mem_sheafBlocks {sh : Sheaf} {l : Lane} (hl : l.val / 4 = sh.val) {k : BK} (hk : k = BK.req ∨ k = BK.idec) :
    ⟨k, l⟩ ∈ sheafBlocks sh.val := by
  have hall : ∀ l : Lane, ⟨.req, l⟩ ∈ allBlocks ∧ ⟨.idec, l⟩ ∈ allBlocks := by decide
  obtain ⟨hreq, hidec⟩ := hall l
  obtain rfl | rfl := hk
  · exact List.mem_filter.mpr ⟨hreq, by simp [Blk.sheaf?, hl]⟩
  · exact List.mem_filter.mpr ⟨hidec, by simp [Blk.sheaf?, hl]⟩

theorem sheafCleared_get {sh : Sheaf} {l : Lane} (hl : l.val / 4 = sh.val) {k : BK} (hk : k = BK.req ∨ k = BK.idec)
    {f : Fld} (hc : ¬ f.counter) (hkind : keyKind f.key = 0) (hregion : keyRegion f.key = (⟨k, l⟩ : Blk).base / 65536)
    (hne : f.key ≠ (R.BLK_STAT_IN_RESET ⟨k, l⟩).key) : (s.sheafCleared sh).get f = f.rst := by
  have hlane := l.isLt
  have hplace : keyRegion f.key = 0x201 + 16 * l ∨ keyRegion f.key = 0x202 + 16 * l := by
    obtain rfl | rfl := hk
    · exact .inl (hregion.trans (by simp only [Blk.base]; omega))
    · exact .inr (hregion.trans (by simp only [Blk.base]; omega))
  have hmarks : ∀ b ∈ sheafBlocks sh.val, f.key ≠ (R.BLK_STAT_IN_RESET b).key := fun b hb he => by
    have hb' := inReset_region hb
    have hbase : b.base = (⟨k, l⟩ : Blk).base := by
      have h1 := base_aligned b
      have h2 := base_aligned ⟨k, l⟩
      rw [he] at hregion
      omega
    refine hne (he.trans ?_)
    unfold R.BLK_STAT_IN_RESET
    rw [hbase]
  have hpll : f.key / 256 ≠ 0x01000000 + sh.val * 0x00100000 + 0x64 := fun he => by
    have hsh := sh.isLt
    unfold keyRegion at hplace
    rw [he, if_pos (by omega)] at hplace
    omega
  unfold State.sheafCleared
  rw [pllsStop_get hpll]
  exact sheafClear_get_own (fun _ hb => hb) (offPorts_of_region hc hplace) hmarks (mem_sheafBlocks hl hk) hkind hregion

/-- SHEAF holds the sheaf, takes its lanes to OFF and returns the fields of REQ and IDEC to reset (R389, R390). -/
theorem sheaf_ends {sh : Sheaf} (h : s.sheafReset sh = false) : Ends (.sheaf sh true) s fun t =>
    t.sheafReset sh = true ∧ (∀ l : Lane, l.val / 4 = sh.val → t.laneCode l = 0) ∧
    ∀ l : Lane, l.val / 4 = sh.val → ∀ k, k = BK.req ∨ k = BK.idec → ∀ f : Fld, ¬ f.counter → keyKind f.key = 0 →
      keyRegion f.key = (⟨k, l⟩ : Blk).base / 65536 → f.key ≠ (R.BLK_STAT_IN_RESET ⟨k, l⟩).key → t.get f = f.rst := by
  have hx := sheaf_exec h
  have hreset := sheafCleared_reset (s := s) (sh := sh)
  have hcode : ∀ l : Lane, l.val / 4 = sh.val → (s.sheafCleared sh).laneCode l = 0 := fun _ hl => sheafCleared_code hl
  have hget := fun (l : Lane) (hl : l.val / 4 = sh.val) k hk f hc hkind hregion hne =>
    sheafCleared_get (s := s) (sh := sh) (l := l) hl (k := k) hk (f := f) hc hkind hregion hne
  generalize s.sheafCleared sh = u at hx hreset hcode hget
  exact ⟨settle u, hx, (settle_getB (s := u) _).trans hreset, fun l hl => (settle_get (s := u) _).trans (hcode l hl),
    fun l hl k hk f hc hkind hregion hne => (settle_get (s := u) f).trans (hget l hl k hk f hc hkind hregion hne)⟩

theorem sheaf_idle {sh : Sheaf} {on : Bool} (h : s.sheafReset sh = on) : Effect (.sheaf sh on) s [] s :=
  effect_of_regs (u := s) (show exec (.sheaf sh on) s = done s by
    show done (sheafOp sh.val on s) = _
    unfold sheafOp
    rw [if_pos (beq_iff_eq.mpr h)]) rfl

end
end Sys2Proof.Machine
end

section
/-!
PROOF. SRST of a block and its release (R396, R397).
-/

namespace Sys2Proof.Machine

open Sys2Proof

section
variable {s : State} {b : Blk}

/-! ### SRST of a block, and the end of its reset (R396, R397) -/

theorem blockSrst_exec (hb : allBlocks.contains b = true) :
    exec (.blockSrst b) s = done (srstBy b (s.free 3) s.draw) := if_pos hb

theorem draw_srstRefused : s.draw.srstRefused b = s.srstRefused b := rfl

theorem base_lt (hb : allBlocks.contains b = true) : b.base < 2 ^ 32 := by
  have hall : ∀ b ∈ allBlocks, b.base < 2 ^ 32 := by decide
  exact hall b (List.contains_iff_mem.mp hb)

theorem blockSrst_refused (hb : allBlocks.contains b = true) (h : s.srstRefused b = true) :
    Effect (.blockSrst b) s [(R.BLK_STAT_CONFLICT b, 1)] s.draw := by
  have hop : srstBy b (s.free 3) s.draw = s.draw.conflict b := if_pos h
  have hx := blockSrst_exec (s := s) hb
  rw [hop] at hx
  refine ⟨_, hx, ?_, fun f _ hf => ?_, rfl⟩
  · simp only [List.mem_singleton, forall_eq]
    exact (settle_get _ _).trans (State.get_set_same _ _ _)
  · exact (settle_get _ f).trans (State.get_set_ne _ _ (hf _ List.mem_cons_self))

theorem blockSrst_ends (hb : allBlocks.contains b = true) (h : s.srstRefused b = false) (hfwc : b.kind ≠ .fwc)
    (hgbx : b.kind ≠ .gbx) : Ends (.blockSrst b) s fun t => t.getB (R.BLK_STAT_IN_RESET b) = true ∧
      ∀ f : Fld, keyKind f.key = 0 → keyRegion f.key = b.base / 65536 → f.key ≠ (R.BLK_STAT_IN_RESET b).key →
        t.get f = f.rst := by
  have hop : srstBy b (s.free 3) s.draw = (blockReset b (s.free 3) s.draw).setB (R.BLK_STAT_IN_RESET b) true := by
    unfold srstBy
    rw [draw_srstRefused, h, if_neg Bool.false_ne_true, if_neg hfwc]
  have hx := blockSrst_exec (s := s) hb
  rw [hop] at hx
  have hget : ∀ f : Fld, keyKind f.key = 0 → keyRegion f.key = b.base / 65536 → f.key ≠ (R.BLK_STAT_IN_RESET b).key →
      (blockReset b (s.free 3) s.draw).get f = f.rst := fun f hkind hregion hne => by
    rw [blockReset_get (fun h => absurd h hgbx) hne, if_pos ⟨hkind, hregion⟩]
  generalize blockReset b (s.free 3) s.draw = u at hx hget
  exact ⟨_, hx, (settle_getB _ _).trans (State.getB_setB_same true le_rfl), fun f hkind hregion hne =>
    (settle_get _ f).trans ((State.get_set_ne _ _ hne.symm).trans (hget f hkind hregion hne))⟩

theorem blockResetRelease_exec (hb : allBlocks.contains b = true) :
    exec (.blockResetRelease b) s = done (blockResetReleaseOp b s) := if_pos hb

theorem blockResetRelease_idle (hb : allBlocks.contains b = true) (h : s.getB (R.BLK_STAT_IN_RESET b) = false) :
    Effect (.blockResetRelease b) s [] s := by
  have hop : blockResetReleaseOp b s = s := if_neg (by rw [h]; exact Bool.false_ne_true)
  exact effect_of_regs (u := s) ((blockResetRelease_exec hb).trans (congrArg done hop)) rfl

/-- A block that no other reset holds follows EN as its reset ends. -/
theorem blockResetRelease_follows (hb : allBlocks.contains b = true) (h : s.getB (R.BLK_STAT_IN_RESET b) = true)
    (hfree : (s.setB (R.BLK_STAT_IN_RESET b) false).inReset b = false) :
    Effect (.blockResetRelease b) s ((R.BLK_STAT_IN_RESET b, 0) :: if b.kind.enWritable = true then
      [(R.BLK_STAT_STATE b, s.get (R.BLK_CTRL_EN b) % 2 ^ (R.BLK_STAT_STATE b).w)] else []) s := by
  have hop : blockResetReleaseOp b s = blockFollow b (s.setB (R.BLK_STAT_IN_RESET b) false) := by
    unfold blockResetReleaseOp
    rw [if_pos h]
    exact if_neg (by rw [hfree]; exact Bool.false_ne_true)
  have hx := (blockResetRelease_exec (s := s) hb).trans (congrArg done hop)
  have hmark : (s.setB (R.BLK_STAT_IN_RESET b) false).get (R.BLK_STAT_IN_RESET b) = 0 := State.get_set_same ..
  have hstate : (R.BLK_STAT_STATE b).key ≠ (R.BLK_STAT_IN_RESET b).key := by
    simp only [R.BLK_STAT_STATE, R.BLK_STAT_IN_RESET, fld, Kind.code]
    omega
  have hen : (s.setB (R.BLK_STAT_IN_RESET b) false).get (R.BLK_CTRL_EN b) = s.get (R.BLK_CTRL_EN b) :=
    State.get_set_ne _ _ (by simp only [R.BLK_CTRL_EN, R.BLK_STAT_IN_RESET, fld, Kind.code]; omega)
  unfold blockFollow at hx
  split at hx
  next hwritable =>
    rw [if_pos hwritable]
    refine ⟨_, hx, ?_, fun f _ hf => ?_, rfl⟩
    · simp only [List.mem_cons, List.not_mem_nil, or_false, forall_eq_or_imp, forall_eq, settle_get]
      exact ⟨(State.get_set_ne _ _ hstate).trans hmark, by rw [State.get_set_same, hen]⟩
    · simp only [List.mem_cons, List.not_mem_nil, or_false, forall_eq_or_imp, forall_eq] at hf
      obtain ⟨hf1, hf2⟩ := hf
      exact (State.get_set_ne _ _ hf2).trans (State.get_set_ne _ _ hf1)
  next hwritable =>
    rw [if_neg hwritable]
    refine ⟨_, hx, ?_, fun f _ hf => ?_, rfl⟩
    · simp only [List.mem_singleton, forall_eq]
      exact hmark
    · exact (settle_get _ f).trans (State.get_set_ne _ _ (hf _ List.mem_cons_self))

end
end Sys2Proof.Machine
end

section
/-!
PROOF. The release of COLD (R391, R401, R402).
-/

namespace Sys2Proof.Machine

open Sys2Proof

section
variable {s : State} {f : Fld}

/-! ### The release of COLD (R391, R401, R402) -/

/-- The state in which the straps are taken, the cause of a supply having been recorded. -/
def State.strapped (s : State) (boot clkmode addr : Nat) : State :=
  strapsTake boot clkmode addr (if s.resets.supply then s.setB R.RST_CAUSE_COLD_SUPPLY true else s)

/-- The sources of COLD end. -/
def sourcesEnd (s : State) : State :=
  { s with resets := { s.resets with supply := false, waiting := false, leaving := false } }

/-- The sources of COLD end, TREF no longer counts where none is declared, and the end of TIMEKEEP is told. -/
def releaseBegin (s : State) : State :=
  let s := addressKeep s
  let s := if s.get R.TIM_CFG_TREF_FREQ = 0 then s.setB R.TIM_STAT_TREF_OK false else s
  sourcesEnd (if s.resets.leaving then powerEvent 3 0 0 3 0 s else s)

/-- The state after the release where no hold acts, from the one in which the straps are taken. -/
def releaseEnd (s : State) : State :=
  let s := releaseBegin s
  let s := (s.set R.PWR_STATE_STATE 0).setB R.TST_CFG_LBIST_BOOT s.store.kept.boot.lbist
  let s := if s.fuses.life = 3 && !s.getB R.SEC_STAT_LOCKDOWN then debugOpen 3 s else s
  setPhase 1 (trngStart s)

theorem coldReleaseOp_eq (boot clkmode addr : Nat) : coldReleaseOp boot clkmode addr s =
    if s.mayRelease then
      let t := releaseEnd (s.strapped boot clkmode addr)
      if t.held then faultLanes (holdCause t) t else t
    else s := rfl

/-- The fields that the release writes after the straps. -/
def releaseFields : List Fld :=
  [R.MGT_PORT_STAT_DA_VALID, R.MGT_PORT_STAT_DA, R.TIM_STAT_TREF_OK, R.PWR_STATE_STATE, R.TST_CFG_LBIST_BOOT,
   R.SEC_LIFE_DEBUG, R.SEC_STAT_TRNG_FAIL, R.RST_STAT_PHASE]

theorem get_ite {c : Prop} [Decidable c] {a b : State} :
    (if c then a else b).get f = if c then a.get f else b.get f := apply_ite (State.get · f) c a b

theorem trngStart_get (h : R.SEC_STAT_TRNG_FAIL.key ≠ f.key) : (trngStart s).get f = s.get f := by
  unfold trngStart
  split
  · dsimp only
    split
    · exact State.get_set_ne _ _ h
    · rfl
  · rfl

theorem addressKeep_get (hvalid : R.MGT_PORT_STAT_DA_VALID.key ≠ f.key) (haddr : R.MGT_PORT_STAT_DA.key ≠ f.key) :
    (addressKeep s).get f = s.get f := by
  unfold addressKeep
  split
  · exact (State.get_set_ne _ _ haddr).trans (State.get_set_ne _ _ hvalid)
  · rfl

theorem debugOpen_get {scope : Nat} (h : R.SEC_LIFE_DEBUG.key ≠ f.key) : (debugOpen scope s).get f = s.get f :=
  State.get_set_ne s (f := R.SEC_LIFE_DEBUG) (b2n true) h

theorem setPhase_get {p : Nat} (h : R.RST_STAT_PHASE.key ≠ f.key) : (setPhase p s).get f = s.get f :=
  State.get_set_ne s (f := R.RST_STAT_PHASE) p h

theorem releaseBegin_get (hvalid : R.MGT_PORT_STAT_DA_VALID.key ≠ f.key) (haddr : R.MGT_PORT_STAT_DA.key ≠ f.key)
    (htref : R.TIM_STAT_TREF_OK.key ≠ f.key) : (releaseBegin s).get f = s.get f := by
  unfold releaseBegin
  extract_lets a b
  have ha : a.get f = s.get f := addressKeep_get hvalid haddr
  have hb : b.get f = a.get f := by
    simp only [b]
    split
    · exact State.get_set_ne _ _ htref
    · rfl
  have hc : (if b.resets.leaving then powerEvent 3 0 0 3 0 b else b).get f = b.get f := by split <;> rfl
  exact hc.trans (hb.trans ha)

theorem releaseEnd_get (hf : ∀ g ∈ releaseFields, g.key ≠ f.key) : (releaseEnd s).get f = s.get f := by
  unfold releaseFields at hf
  simp only [List.forall_mem_cons] at hf
  obtain ⟨hvalid, haddr, htref, hpower, hlbist, hdebug, htrng, hphase, -⟩ := hf
  unfold releaseEnd
  extract_lets a b c
  have hb : b.get f = a.get f := (State.get_set_ne _ _ hlbist).trans (State.get_set_ne _ _ hpower)
  have hc : c.get f = b.get f := by
    simp only [c]
    split
    · exact debugOpen_get hdebug
    · rfl
  exact (setPhase_get hphase).trans <| (trngStart_get htrng).trans <| hc.trans <| hb.trans <|
    releaseBegin_get hvalid haddr htref

theorem releaseEnd_power : (releaseEnd s).power = 0 := by
  unfold releaseEnd
  extract_lets a b c
  have hb : b.get R.PWR_STATE_STATE = 0 :=
    (State.get_set_ne _ (f := R.TST_CFG_LBIST_BOOT) _ (by decide)).trans (State.get_set_same ..)
  have hc : c.get R.PWR_STATE_STATE = b.get R.PWR_STATE_STATE := by
    simp only [c]
    split
    · exact debugOpen_get (by decide)
    · rfl
  exact (setPhase_get (by decide)).trans ((trngStart_get (by decide)).trans (hc.trans hb))

theorem releaseEnd_phase : (releaseEnd s).phase = 1 := setPhase_phase (by decide)

theorem trngStart_rest : (trngStart s).resets = s.resets ∧ (trngStart s).pwr = s.pwr := by
  unfold trngStart
  dsimp only
  split
  · split <;> exact ⟨rfl, rfl⟩
  · exact ⟨rfl, rfl⟩

theorem addressKeep_rest : (addressKeep s).resets = s.resets ∧ (addressKeep s).pwr = s.pwr := by
  unfold addressKeep
  split <;> exact ⟨rfl, rfl⟩

theorem sourcesEnd_resets {t : State} (h : t.resets = s.resets) : (sourcesEnd t).resets = (sourcesEnd s).resets := by
  unfold sourcesEnd
  rw [h]

theorem releaseBegin_rest : (releaseBegin s).resets = (sourcesEnd s).resets ∧ (releaseBegin s).pwr = s.pwr := by
  unfold releaseBegin
  extract_lets a b
  obtain ⟨hresets, hpwr⟩ : a.resets = s.resets ∧ a.pwr = s.pwr := addressKeep_rest
  have hb : b.resets = a.resets ∧ b.pwr = a.pwr := by
    simp only [b]
    split <;> exact ⟨rfl, rfl⟩
  have hc : (if b.resets.leaving then powerEvent 3 0 0 3 0 b else b).resets = b.resets ∧
      (if b.resets.leaving then powerEvent 3 0 0 3 0 b else b).pwr = b.pwr := by split <;> exact ⟨rfl, rfl⟩
  obtain ⟨hbr, hbp⟩ := hb
  obtain ⟨hcr, hcp⟩ := hc
  exact ⟨sourcesEnd_resets (hcr.trans (hbr.trans hresets)), hcp.trans (hbp.trans hpwr)⟩

theorem releaseEnd_rest : (releaseEnd s).resets = (sourcesEnd s).resets ∧ (releaseEnd s).pwr = s.pwr := by
  unfold releaseEnd
  extract_lets a b c
  obtain ⟨hresets, hpwr⟩ : a.resets = (sourcesEnd s).resets ∧ a.pwr = s.pwr := releaseBegin_rest
  have hc : c.resets = a.resets ∧ c.pwr = a.pwr := by
    simp only [c]
    split <;> exact ⟨rfl, rfl⟩
  obtain ⟨htrng, htrngPwr⟩ := trngStart_rest (s := c)
  exact ⟨htrng.trans (hc.1.trans hresets), htrngPwr.trans (hc.2.trans hpwr)⟩

/-- The fields that taking the straps writes. -/
def strapFields : List Fld :=
  [R.RST_CAUSE_COLD_SUPPLY, R.RST_STRAP_BOOT, R.RST_STRAP_CLKMODE, R.RST_STRAP_ADDR, R.CLK_STAT_MODE, R.MGT_WICK_STATIC,
   R.RST_STAT_STRAP_ERR]

theorem strapped_get {boot clkmode addr : Nat} (hf : ∀ g ∈ strapFields, g.key ≠ f.key) :
    (s.strapped boot clkmode addr).get f = s.get f := by
  unfold strapFields at hf
  simp only [List.forall_mem_cons] at hf
  obtain ⟨hcause, hboot, hmode, haddr, hclk, hwick, herr, -⟩ := hf
  unfold State.strapped strapsTake
  refine (State.get_set_ne _ _ herr).trans <| (State.get_set_ne _ _ hwick).trans <| (State.get_set_ne _ _ hclk).trans <|
    (State.get_set_ne _ _ haddr).trans <| (State.get_set_ne _ _ hmode).trans <| (State.get_set_ne _ _ hboot).trans ?_
  split
  · exact State.get_set_ne _ _ hcause
  · rfl

theorem strapped_rest {boot clkmode addr : Nat} : (s.strapped boot clkmode addr).resets = s.resets ∧
    (s.strapped boot clkmode addr).pwr = s.pwr := by
  unfold State.strapped
  split <;> exact ⟨rfl, rfl⟩

theorem strapsTake_straps {boot clkmode addr : Nat} : (strapsTake boot clkmode addr s).get R.RST_STRAP_BOOT = boot % 4 ∧
    (strapsTake boot clkmode addr s).get R.RST_STRAP_CLKMODE = clkmode % 4 ∧
    (strapsTake boot clkmode addr s).get R.RST_STRAP_ADDR = addr % 8 := by
  unfold strapsTake State.setB
  refine ⟨?_, ?_, ?_⟩
  · iterate 5 rw [State.get_set_ne _ _ (by decide)]
    exact State.get_set_same ..
  · iterate 4 rw [State.get_set_ne _ _ (by decide)]
    exact State.get_set_same ..
  · iterate 3 rw [State.get_set_ne _ _ (by decide)]
    exact State.get_set_same ..

/-- The release shows no hold where none acted. -/
theorem releaseEnd_held {boot clkmode addr : Nat} : (releaseEnd (s.strapped boot clkmode addr)).held = s.held := by
  obtain ⟨-, hpwr⟩ := releaseEnd_rest (s := s.strapped boot clkmode addr)
  obtain ⟨-, hstrapped⟩ := strapped_rest (s := s) (boot := boot) (clkmode := clkmode) (addr := addr)
  unfold State.held State.getB
  rw [releaseEnd_get (by decide), releaseEnd_get (by decide), strapped_get (by decide), strapped_get (by decide), hpwr,
    hstrapped]

theorem releaseEnd_cold {boot clkmode addr : Nat} (h : s.mayRelease = true) :
    (releaseEnd (s.strapped boot clkmode addr)).coldAsserted = false := by
  obtain ⟨hresets, -⟩ := releaseEnd_rest (s := s.strapped boot clkmode addr)
  obtain ⟨hstrapped, -⟩ := strapped_rest (s := s) (boot := boot) (clkmode := clkmode) (addr := addr)
  unfold State.mayRelease at h
  unfold State.coldAsserted
  rw [hresets]
  unfold sourcesEnd
  rw [hstrapped]
  simp only [Bool.and_eq_true, Bool.not_eq_true'] at h
  simp [h]

/-- The release takes the straps and begins start-up in ACTIVE. -/
theorem coldRelease_ends {boot clkmode : BitVec 2} {addr : BitVec 3} (h : s.mayRelease = true)
    (hheld : s.held = false) :
    Ends (.coldRelease boot clkmode addr) s fun t => t.phase = 1 ∧ t.coldAsserted = false ∧
      t.get R.RST_STRAP_BOOT = boot.toNat ∧ t.get R.RST_STRAP_CLKMODE = clkmode.toNat ∧
      t.get R.RST_STRAP_ADDR = addr.toNat ∧ t.power = 0 := by
  have hx : exec (.coldRelease boot clkmode addr) s = done (coldReleaseOp boot.toNat clkmode.toNat addr.toNat s) := rfl
  rw [coldReleaseOp_eq, if_pos h] at hx
  dsimp only at hx
  rw [releaseEnd_held, hheld, if_neg Bool.false_ne_true] at hx
  have hcold := releaseEnd_cold (boot := boot.toNat) (clkmode := clkmode.toNat) (addr := addr.toNat) h
  have hphase := releaseEnd_phase (s := s.strapped boot.toNat clkmode.toNat addr.toNat)
  have hpower := releaseEnd_power (s := s.strapped boot.toNat clkmode.toNat addr.toNat)
  obtain ⟨hboot, hmode, haddr⟩ : _ ∧ _ ∧ _ := strapsTake_straps
    (s := if s.resets.supply then s.setB R.RST_CAUSE_COLD_SUPPLY true else s)
    (boot := boot.toNat) (clkmode := clkmode.toNat) (addr := addr.toNat)
  have hget : ∀ f ∈ [R.RST_STRAP_BOOT, R.RST_STRAP_CLKMODE, R.RST_STRAP_ADDR],
      (releaseEnd (s.strapped boot.toNat clkmode.toNat addr.toNat)).get f =
        (s.strapped boot.toNat clkmode.toNat addr.toNat).get f := fun f hf => by
    have hout : ∀ f ∈ [R.RST_STRAP_BOOT, R.RST_STRAP_CLKMODE, R.RST_STRAP_ADDR],
        ∀ g ∈ releaseFields, g.key ≠ f.key := by decide
    exact releaseEnd_get (hout f hf)
  have hboot' := (hget _ (by simp)).trans (hboot.trans (Nat.mod_eq_of_lt boot.isLt))
  have hmode' := (hget _ (by simp)).trans (hmode.trans (Nat.mod_eq_of_lt clkmode.isLt))
  have haddr' := (hget _ (by simp)).trans (haddr.trans (Nat.mod_eq_of_lt addr.isLt))
  generalize releaseEnd (s.strapped boot.toNat clkmode.toNat addr.toNat) = u at *
  exact ⟨settle u, hx, hphase, hcold, hboot', hmode', haddr', hpower⟩

theorem coldRelease_idle {boot clkmode : BitVec 2} {addr : BitVec 3} (h : s.mayRelease = false) :
    Effect (.coldRelease boot clkmode addr) s [] s := by
  have hop : coldReleaseOp boot.toNat clkmode.toNat addr.toNat s = s := by
    rw [coldReleaseOp_eq, h]
    rfl
  exact effect_of_regs (u := s) (congrArg done hop) rfl

end
end Sys2Proof.Machine
end

section
/-!
PROOF. The resets together.
-/

namespace Sys2Proof.Machine

open Sys2Proof

/-- Settles O51: the next states are those of the operations as they are defined; each reset's last step takes the keys
of its reach out of the register file, what came before it leaves the sources of reset as they stood, and the views of
the lanes follow from the entries to OFF and COAST. -/
theorem resets : Obligations.Resets := by
  unfold Obligations.Resets
  intro s
  have hcoldSource : ∀ p ∈ [(Instr.resetNAssert, R.RST_CAUSE_PIN, { s.resets with pin := true, waiting := true }),
      (Instr.global, R.RST_CAUSE_GLOBAL, { s.resets with global := true, waiting := true })],
      if s.coldAsserted = true then Effect p.1 s [(p.2.1, 1)] { s with resets := p.2.2 }
      else Ends p.1 s fun t => t.resets = p.2.2 ∧ t.spi = Port.reset ∧ t.i3c = Port.reset ∧ t.shadow = [] ∧
        t.staged = [] ∧ t.woken = [] ∧
        ∀ f : Fld, keyKind f.key ≠ 3 → f.key ≠ R.SEC_STAT_TRNG_FAIL.key → t.get f = f.rst := by
    have hpin : Plain R.RST_CAUSE_PIN := by unfold Plain Fld.counter; decide
    have hglobal : Plain R.RST_CAUSE_GLOBAL := by unfold Plain Fld.counter; decide
    simp only [List.forall_mem_cons]
    refine ⟨assertCold_ends (put := fun r => { r with pin := true }) (bit := 3) rfl rfl hpin,
      assertCold_ends (put := fun r => { r with global := true }) (bit := 4) rfl rfl hglobal, ?_⟩
    exact fun _ h => absurd h List.not_mem_nil
  refine ⟨rfl, rfl, rfl, rfl, fun _ _ => rfl, fun b => runsOnBlock_of_exec rfl, fun b => runsOnBlock_of_exec rfl,
    fun _ _ _ => rfl, rfl, porAssert_ends, hcoldSource, warm_cold_effect, warm_early_effect, warm_ends,
    fun _ _ => sheaf_idle, fun _ => sheaf_ends, fun b hb => ⟨blockSrst_refused hb, blockSrst_ends hb,
      blockResetRelease_idle hb, blockResetRelease_follows hb⟩, fun _ _ _ => ⟨coldRelease_idle, coldRelease_ends⟩,
    wdtExpiry_idle⟩

end Sys2Proof.Machine
end

section
/-!
PROOF. A read of LFR_PILOT_BAD that the remote-access engine performs, and where its response is queued (R5, R292,
R297).
-/

namespace Sys2Proof.Machine

open Sys2Proof

section
variable {s : State} {req : Requester} {a off : Nat} {b : Blk} {l : Lane}

/-! ### A read of LFR_PILOT_BAD (R5) -/

theorem target_lfrBad : ∀ l : Lane, targetOf ((⟨.lfr, l⟩ : Blk).base + 0x050) = some (.reg ⟨.lfr, l⟩ 0x050) := by decide

theorem rows_lfrBad : rowsHit ⟨.lfr, l⟩ 0x050 = [(Row.LFR_PILOT_BAD_COUNT, 0, 0, 0)] := by
  show rowsHit ⟨.lfr, 0⟩ 0x050 = _
  decide

theorem regRead_lfrBad : regRead req ⟨.lfr, l⟩ 0x050 s =
    (s.set (R.LFR_PILOT_BAD_COUNT l) 0, wordAt s ⟨.lfr, l⟩ 0x050) := by
  have hread : regRead req ⟨.lfr, l⟩ 0x050 s = match (rowsHit ⟨.lfr, l⟩ 0x050).find? fun h => 1 < h.1.words with
    | some (r, i, j, w) =>
      if w = 0 then
        let v := fieldValue s ⟨.lfr, l⟩ r i j
        (shadowPut (s.wideAddr ⟨.lfr, l⟩ 0x050) r.words r.kind.code req v s, bits v 0 32)
      else (s, s.shadowWord (s.wideAddr ⟨.lfr, l⟩ 0x050) r.kind.code req)
    | none => (readClear ⟨.lfr, l⟩ 0x050 s, wordAt s ⟨.lfr, l⟩ 0x050) := rfl
  rw [hread, readClear, rows_lfrBad]
  rfl

/-- A register word that is no word of a buffer is read by its block where the access is allowed (R345). -/
theorem wordRead_ok (ht : targetOf a = some (.reg b off)) (hs : s.accessStatus req false false (.reg b off) = .ok)
    (hb : bufferWord b off = none) :
    wordRead req a s = ((regRead req b off (s.count b 2 1)).1.draw, .ok, (regRead req b off (s.count b 2 1)).2) := by
  unfold wordRead
  rw [ht]
  dsimp only
  rw [hs]
  simp [targetRead, bufferCheck, accessCount, hb]

/-- The state after a read of LFR_PILOT_BAD: the access is counted and the counter cleared. -/
def badRead (l : Lane) (s : State) : State := ((s.count ⟨.lfr, l⟩ 2 1).set (R.LFR_PILOT_BAD_COUNT l) 0).draw

theorem badRead_words (ha : a = (⟨.lfr, l⟩ : Blk).base + 0x050)
    (hs : s.accessStatus req false false (.reg ⟨.lfr, l⟩ 0x050) = .ok) :
    ∃ y, readWords req a 1 s = (badRead l s, .ok, [y]) := by
  have hword := wordRead_ok (a := a) (by rw [ha, target_lfrBad]) hs rfl
  rw [regRead_lfrBad] at hword
  have hrun : ∃ y, readRun req a 1 s = (badRead l s, .ok, a + 4, [y]) := by
    rw [readRun, hword]
    exact ⟨_, rfl⟩
  obtain ⟨y, hy⟩ := hrun
  rw [readWords, hy]
  exact ⟨y, rfl⟩

theorem badRead_get {f : Fld} (hf : (R.LFR_PILOT_BAD_COUNT l).key ≠ f.key) :
    (badRead l s).get f = (s.count ⟨.lfr, l⟩ 2 1).get f := by
  rw [badRead, State.draw_get, State.get_set_ne _ _ hf]

/-! ### REMOTE_ACCESS_EXECUTE of that read (R297) -/

theorem wordsStatus_one {t : Target} (ht : targetOf a = some t) :
    s.wordsStatus req false false a 1 = s.accessStatus req false false t := by
  unfold State.wordsStatus
  rw [ht]
  dsimp only
  cases s.accessStatus req false false t <;> rfl

/-- The state in which the oldest remote request is marked as performed. -/
def State.marked (s : State) : State := { s with msg := { s.msg with remote := markFirst s.msg.remote } }

theorem remoteBad_exec {r : RemoteReq} (hon : s.blkOn (dev .msg) = true) (hr : s.remoteNext = some r)
    (hread : r.write = false) (hcount : r.count = 0) (ha : r.addr = (⟨.lfr, l⟩ : Blk).base + 0x050)
    (hs : s.accessStatus .remote false false (.reg ⟨.lfr, l⟩ 0x050) = .ok) :
    ∃ m, exec .remoteAccessExecute s = done (outPut r.lane m (badRead l s).marked) := by
  have ht : targetOf r.addr = some (.reg ⟨.lfr, l⟩ 0x050) := by rw [ha, target_lfrBad]
  have hready : ¬ (Status.ok == Status.wait) = true := by decide
  obtain ⟨y, hy⟩ := badRead_words ha hs
  show ∃ m, done (remoteAccessExecuteOp s) = _
  rw [remoteAccessExecuteOp, hon, Bool.not_true, if_neg Bool.false_ne_true, hr]
  dsimp only
  rw [hread, hcount, Nat.zero_add, wordsStatus_one ht, hs, if_neg hready, remotePerform, hread, hcount]
  rw [if_neg Bool.false_ne_true, Nat.zero_add, hy]
  exact ⟨_, rfl⟩

/-! ### The lead of a bond (R292) -/

section
variable {w i k : Nat}

theorem bondBase_zero (hk : k < 2 ^ w) (hw : s.get (R.MSG_LANE_CFG_BOND k) = w) : s.bondBase k = 0 := by
  unfold State.bondBase
  dsimp only
  rw [hw, Nat.div_eq_of_lt hk, Nat.zero_mul]

/-- Where all lanes of a group that begins with lane 0 name the group, lane 0 leads it. -/
theorem lead_of_bond (hk : k < 2 ^ w) (hw : ∀ i < 2 ^ w, s.get (R.MSG_LANE_CFG_BOND i) = w)
    (hpeer : ∀ i, (s.link i).accepted = none) : s.lead k = 0 := by
  have herr (j : Nat) (hj : j < 2 ^ w) : s.bondErr j = false := by
    unfold State.bondErr
    rw [bondBase_zero hj (hw j hj), hw j hj, hpeer j]
    simp only [Nat.zero_add, Bool.or_false, List.any_eq_false, List.mem_range, bne_iff_ne, not_not]
    exact hw
  unfold State.lead
  rw [bondBase_zero hk (hw k hk), herr k hk, herr 0 (Nat.two_pow_pos w)]
  rfl

/-- Where one of them does not, a lane works alone. -/
theorem lead_of_error (hk : k < 2 ^ w) (hw : s.get (R.MSG_LANE_CFG_BOND k) = w) (hi : i < 2 ^ w)
    (hne : s.get (R.MSG_LANE_CFG_BOND i) ≠ w) : s.lead k = k := by
  have herr : s.bondErr k = true := by
    unfold State.bondErr
    rw [bondBase_zero hk hw, hw, Bool.or_eq_true]
    refine .inl (List.any_eq_true.mpr ⟨i, List.mem_range.mpr hi, ?_⟩)
    rw [Nat.zero_add, bne_iff_ne]
    exact hne
  unfold State.lead
  rw [herr]
  rfl

end

/-! ### Where the response is queued -/

/-- A link other than the lead's keeps its outbox. -/
theorem outPut_link_ne {k j : Nat} {m : OutMsg} (h : s.lead k ≠ j) : (outPut k m s).link j = s.link j := by
  unfold outPut State.putLink
  show ((s.links.setIfInBounds _ _)[j]?).getD _ = _
  rw [Vector.getElem?_setIfInBounds_ne h]
  rfl

/-- The lead's outbox takes the message. -/
theorem outPut_link {k j : Nat} {m : OutMsg} (h : s.lead k = j) (hj : j < 8) :
    ((outPut k m s).link j).outbox = (s.link j).outbox ++ [m] := by
  subst h
  unfold outPut State.putLink
  show (((s.links.setIfInBounds _ _)[s.lead k]?).getD _).outbox = _
  rw [Vector.getElem?_setIfInBounds_self_of_lt hj]
  rfl

theorem link_of_core {t : State} (h : t.core = s.core) (j : Nat) : t.link j = s.link j :=
  (congrArg (fun z => State.link z j) h : t.core.link j = s.core.link j)

theorem settle_link (j : Nat) : (settle s).link j = s.link j := rfl

theorem draw_link (j : Nat) : s.draw.link j = s.link j := rfl

theorem marked_link (j : Nat) : s.marked.link j = s.link j := rfl

theorem draw_lead (j : Nat) : s.draw.lead j = s.lead j := rfl

theorem marked_lead (j : Nat) : s.marked.lead j = s.lead j := rfl

theorem badRead_core : (badRead l s).core = s.draw.core := by
  rw [badRead, State.draw_core, State.draw_core, State.set_core, State.count_core]

/-- Where the read changes which lane leads the requester's bond, the response does not join the outbox of the lane that
led it before. -/
theorem remoteBad_moved {r : RemoteReq} {w : List (Fld × Nat)} {m : OutMsg} (hon : s.blkOn (dev .msg) = true)
    (hr : s.remoteNext = some r) (hread : r.write = false) (hcount : r.count = 0)
    (ha : r.addr = (⟨.lfr, l⟩ : Blk).base + 0x050)
    (hs : s.accessStatus .remote false false (.reg ⟨.lfr, l⟩ 0x050) = .ok) (hlead : s.lead r.lane < 8)
    (hmoved : (badRead l s).lead r.lane ≠ s.lead r.lane) :
    ¬ Effect .remoteAccessExecute s w (outPut r.lane m s.draw.marked) := by
  rintro ⟨t, ht, -, -, hcore⟩
  obtain ⟨m', hx⟩ := remoteBad_exec hon hr hread hcount ha hs
  have hnext : t = settle (outPut r.lane m' (badRead l s).marked) := Host.Outcome.next.inj (ht.symm.trans hx)
  have hdone : t.link (s.lead r.lane) = s.link (s.lead r.lane) := by
    rw [hnext, settle_link, outPut_link_ne (by rwa [marked_lead]), marked_link, link_of_core badRead_core, draw_link]
  have hsaid : (t.link (s.lead r.lane)).outbox = (s.link (s.lead r.lane)).outbox ++ [m] := by
    rw [link_of_core hcore, outPut_link (by rw [marked_lead, draw_lead]) hlead, marked_link, draw_link]
  rw [hdone] at hsaid
  exact List.cons_ne_nil m [] (List.self_eq_append_right.mp hsaid)

end
end Sys2Proof.Machine
end

section
/-!
PROOF. A register file in which the bond settings name one bond of all lanes, and of more lanes than there are: their
places reach into PMC, where a counted access changes one (R292, R297, R445, R446).
-/

namespace Sys2Proof.Machine

open Sys2Proof

/-- The block whose word a remote request reads. -/
def badBlk : Blk := ⟨.lfr, 0⟩

/-- The registers that decide the access and the count of it, in the order of their keys: LFR's first counter counts
accesses and is full, and a snapshot that its carry asks for overlaps another. -/
def countedRegs : NatMap := [
  ((R.RST_CTRL_SHEAF 0).key, 0), (R.RST_STAT_PHASE.key, 8), (R.RST_STAT_HOLD_THERMAL.key, 0),
  (R.RST_STAT_HOLD_LOCKDOWN.key, 0), (R.PWR_STATE_STATE.key, 0), ((R.BLK_STAT_STATE (dev .msg)).key, 2),
  ((R.BLK_STAT_IN_RESET (dev .msg)).key, 0), (R.MSG_REMOTE_POLICY_CLASSES.key, 1),
  ((R.BLK_STAT_IN_RESET (dev .pmc)).key, 0), ((R.IRQ_RAW_RAW (dev .pmc) 1).key, 0),
  ((R.IRQ_RAW_RAW (dev .pmc) 2).key, 18), (R.PMC_CTRL_FREEZE.key, 0), (R.PMC_SNAP_CFG_OVF_SNAP.key, 1),
  (R.PMC_SNAP_STAT_BUSY.key, 1), (R.PMC_SNAP_STAT_OVERLAP.key, 0), ((R.SHF_LANE_STATE_STATE 0 0).key, 0),
  ((R.BLK_STAT_IN_RESET badBlk).key, 0), ((R.BLK_FAILED_FLAG (dev .msg)).key, 0)] ++
  (List.range 8).map (fun c => ((R.PMC_EVSEL_EN (dev .pmc) c).key, 0)) ++ [
  ((R.PMC_EVSEL_EVENT badBlk 0).key, 2), ((R.PMC_EVSEL_EN badBlk 0).key, 1), ((R.PMC_EVSEL_OVF badBlk 0).key, 0),
  ((R.PMC_PRELOAD_P badBlk 0).key, 0), ((R.PMC_CNT_COUNT badBlk 0).key, 2 ^ 48 - 1)] ++
  (List.range 7).map (fun c => ((R.PMC_EVSEL_EN badBlk (c + 1)).key, 0)) ++ [((R.BLK_FAILED_FLAG badBlk).key, 0)]

/-- BOND = 18 at the places of 2^18 lanes: one bond of as many. -/
def bondRegs : NatMap := (List.range (2 ^ 18)).map fun i => ((R.MSG_LANE_CFG_BOND i).key, 18)

/-- The request that lane 1 has made: a read of LFR_PILOT_BAD. -/
def badRequest : RemoteReq :=
  { lane := 1, tag := 0, addr := 0x02050050, count := 0, write := false, data := [], answered := false }

/-- In service, with the domain of LFR awake, and the request held. -/
def bondState : State :=
  { State.reset with
    regs := countedRegs ++ bondRegs
    resets := { State.reset.resets with supply := false, waiting := false }
    woken := [⟨.lane 0, true⟩]
    msg := { State.reset.msg with remote := [badRequest] } }

theorem bondState_allowed : bondState.blkOn (dev .msg) = true ∧ bondState.remoteNext = some badRequest ∧
    bondState.accessStatus .remote false false (.reg badBlk 0x050) = .ok := by decide +kernel

/-- The access that is counted raises SNAP_OVERLAP in PMC. -/
theorem bondState_counted : (bondState.count badBlk 2 1).get (R.IRQ_RAW_RAW (dev .pmc) 2) = 1 := by decide +kernel

/-! ### The bond before and after the read -/

theorem natGet_append (m n : NatMap) (k : Nat) : natGet (m ++ n) k = (natGet m k).or (natGet n k) := by
  induction m with
  | nil => rfl
  | cons e m ih =>
    rw [List.cons_append, natGet, natGet, ih]
    split <;> rfl

/-- Where every entry with a key holds one value, the map has that value there or none. -/
theorem natGet_eq_none_or {m : NatMap} {k v : Nat} (h : ∀ e ∈ m, e.1 = k → e.2 = v) :
    natGet m k = none ∨ natGet m k = some v := by
  induction m with
  | nil => exact .inl rfl
  | cons e m ih =>
    obtain ⟨he, hm⟩ := List.forall_mem_cons.mp h
    rw [natGet]
    split
    next hk => exact .inr (congrArg some (he hk.symm))
    next => exact ih hm

theorem natGet_map_const {α : Type} {g : α → Nat} {v : Nat} {l : List α} {x : α} (hx : x ∈ l) :
    natGet (l.map fun i => (g i, v)) (g x) = some v := by
  induction l with
  | nil => exact absurd hx List.not_mem_nil
  | cons y ys ih =>
    rw [List.map_cons, natGet]
    split
    next => rfl
    next hne => exact ih ((List.mem_cons.mp hx).resolve_left fun he => hne (congrArg g he))

/-- The registers that decide the access hold 18 wherever the place is one of BOND. -/
theorem countedRegs_bond : ∀ e ∈ countedRegs, e.1 % 256 = 8 → e.2 = 18 := by decide +kernel

theorem bondState_bond {i : Nat} (hi : i < 2 ^ 18) : bondState.get (R.MSG_LANE_CFG_BOND i) = 18 := by
  have hplace : (R.MSG_LANE_CFG_BOND i).key % 256 = 8 := by
    show ((0x80000 + 0x40 + 4 * i) * 64 + 2) * 4 % 256 = 8
    omega
  have hbonds : natGet bondRegs (R.MSG_LANE_CFG_BOND i).key = some 18 := natGet_map_const (List.mem_range.mpr hi)
  have hhead := natGet_eq_none_or (m := countedRegs) (v := 18) fun e he hk => countedRegs_bond e he (hk ▸ hplace)
  show (natGet (countedRegs ++ bondRegs) _).getD 0 = 18
  rw [natGet_append, hbonds]
  rcases hhead with h | h <;> rw [h] <;> rfl

/-- The place of BOND of a lane that is not there is SNAP_OVERLAP's. -/
theorem bond_key_pmc : (R.MSG_LANE_CFG_BOND 0x23FF4).key = (R.IRQ_RAW_RAW (dev .pmc) 2).key := by decide

theorem bondState_link (i : Nat) : bondState.link i = MsgLink.reset := by
  show ((Vector.replicate 8 MsgLink.reset)[i]?).getD MsgLink.reset = _
  rw [Vector.getElem?_replicate]
  split <;> rfl

theorem bondState_lead : bondState.lead 1 = 0 :=
  lead_of_bond (w := 18) (by decide) (fun _ hi => bondState_bond hi) fun i => by rw [bondState_link]; rfl

theorem bondState_lead_after : (badRead 0 bondState).lead 1 = 1 := by
  have hbond : (badRead 0 bondState).get (R.MSG_LANE_CFG_BOND 1) = 18 := by
    have hcounter : ¬ (R.MSG_LANE_CFG_BOND 1).counter := by unfold Fld.counter; decide
    rw [badRead_get (by decide), State.count_get _ _ _ _ _ hcounter]
    exact bondState_bond (by decide)
  have hlost : (badRead 0 bondState).get (R.MSG_LANE_CFG_BOND 0x23FF4) = 1 := by
    rw [badRead_get (by decide), State.get, bond_key_pmc]
    exact bondState_counted
  exact lead_of_error (w := 18) (i := 0x23FF4) (by decide) hbond (by decide) (by rw [hlost]; decide)

/-- Refutes O46: the clause on a remote read of LFR_PILOT_BAD says that the response joins the outbox of the lane that
leads the requester's bond before the read. In `bondState`, a state outside the reachable ones, BOND holds 18 for every
lane, which is more than its two bits can hold, so that the bond of lane 1 reaches over the places of PMC; the read is
counted, the count raises SNAP_OVERLAP there, and the response joins the outbox of lane 1, which then works alone, not
that of lane 0. -/
theorem not_accessCommands : ¬ Obligations.AccessCommands := by
  unfold Obligations.AccessCommands
  intro h
  obtain ⟨hon, hnext, hs⟩ := bondState_allowed
  obtain ⟨-, -, -, -, -, -, -, -, -, -, -, -, -, -, -, -, -, -, -, -, -, -, -, hremote⟩ := h bondState
  have hmoved : (badRead 0 bondState).lead 1 ≠ bondState.lead 1 := by
    rw [bondState_lead, bondState_lead_after]
    decide
  have hlead : bondState.lead 1 < 8 := by
    rw [bondState_lead]
    decide
  exact remoteBad_moved (r := badRequest) (l := 0) hon hnext rfl rfl rfl hs hlead hmoved
    (hremote badRequest 0 hon hnext rfl rfl rfl hs)

end Sys2Proof.Machine
end
